-- ==== Sys2Proof/Word.lean ====
section
/-! DEFINITION. The words of the device: a 32-bit register word and a byte of memory. -/

namespace Sys2Proof

/-- A 32-bit register word (R72). -/
abbrev Word := BitVec 32

/-- A byte of memory. -/
abbrev Byte := BitVec 8

end Sys2Proof
end

