-- ==== Sys2Proof/Syntax.lean ====
section
/-! DEFINITION. The commands the block takes: one constructor per row of the table of operations and events,
with the operands each row needs, and the plain-data types those operands are made of. -/

namespace Sys2Proof

/-- The requesters of Table REG-2 (R71). `vf n` is virtual function n, 1 to 63. -/
inductive Requester where
  | bezel | tap | mspi | pf
  | vf (n : Nat)
deriving DecidableEq, Repr, Inhabited

/-- What made the device leave DOZE (R126). -/
inductive DozeTrigger where
  | doorbell | e0 | peerRequest | registerWrite | pmReqAwake
deriving DecidableEq, Repr, Inhabited

/-- The causes of a device reset that a pin or software gives (R650); a pin's with the ticks for which the pin stays low (R166). -/
inductive ResetCause where
  | sysRst (low : Nat)
  | perst (low : Nat)
  | watchdog | commanded
deriving DecidableEq, Repr, Inhabited

/-- What has found a block's own logic or state wrong: a lockstep comparison of a management core pair or of the Hallmark timing
core (Table FLT-2), or an uncorrected ECC error in a word of the block's own state (R633, log entry 87). -/
inductive OwnFault where
  | managementPair | timingCore | stateWord
deriving DecidableEq, Repr, Inhabited

/-- How a step of boot ended, where the environment decides it (R177 to R182). -/
inductive BootResult where
  | ok
  | powerUp | selfTest | pll | train | laneCheck | fail
deriving DecidableEq, Repr, Inhabited

/-- The status of an access that leaves the device: a PCIe, NVMe or RoCE completion (R267, R582, R590). -/
inductive BusStatus where
  | ok | ur | ca | poisoned | timeout | errorStatus (code : Nat)
deriving DecidableEq, Repr, Inhabited

/-- Kind of a data or stamp instant: seconds, nanoseconds and 2^-16 ns (Table HM-1). -/
structure PtpTime where
  sec : Nat
  ns : Nat
  subns : Nat
deriving DecidableEq, Repr, Inhabited

/-- What a PCIe configuration request does, as far as the manual names it (R95, R579, Table PRT-1): it reads a function's
identity, sets the number of enabled virtual functions through SR-IOV, sets the size of BAR4 as its log2, or does
something else that changes nothing the manual describes. -/
inductive ConfigAccess where
  | identity
  | enableVfs (n : Nat)
  | bar4Size (log2 : Nat)
  | other
deriving DecidableEq, Repr, Inhabited

/-- One step of a compiled plan, as its engine's chapter gives it. The manual does not give the bytes in which a
plan image carries its steps, so a step is structured data here; object 0 stands for the descriptor's OBJ_A where a step
reads and for its OBJ_B where it writes (log entry 6). -/
inductive PlanStep where
  /-- Work on the Facets of `set` (bit f): the objects it reads, each with the format it expects there (R331), the operand formats of
  its tensor products (R320, R325), `tiles` output tiles of `out` in format `fmt`; whether the set is tensor-parallel, whether each
  output tile is a reduction whose partial sums are exchanged (R333, R334), and the reshard descriptor named, if any (R335). -/
  | phase (set tiles : Nat) (tensorParallel reduce : Bool) (ins prods : List (Nat × Nat)) (out fmt : Nat) (reshard : Option Nat)
  /-- Rows of `table` by the IDs in `ids`, written to `out` in format `fmt` (R363, R374); `raw` writes header and codes. -/
  | gather (table ids out fmt : Nat) (raw : Bool)
  /-- Optimiser step over `ids` with gradients `grads` (R379). -/
  | update (table ids grads : Nat)
  /-- New rows for `ids` from `values` (R379). -/
  | put (table ids values : Nat)
  /-- A Loupe SEARCH step record (Table LP-8). -/
  | search (exact : Bool) (index k l visitMax probe inObj outObj : Nat)
  /-- A Loupe MERGE step record (Table LP-8). -/
  | merge (partialOk : Bool) (k shardLate nIn inObj outObj : Nat)
  /-- An ISE solve (R442). -/
  | solve
  /-- A Filigree FILTER step: rank enable, W code, rank, ROM code (R496). -/
  | filter (rankEn : Bool) (rankW rankR rom inObj outObj : Nat)
deriving DecidableEq, Repr, Inhabited

/-- The schedule section of an ISE plan (Table ISE-1), with the pattern its PATTERN_OBJ compiles: for each row the
columns of its lower triangle in ascending order, the diagonal last. -/
structure IseSchedule where
  n : Nat
  nnz : Nat
  prec : Nat
  block : Nat
  factorTier : Nat
  nnzL : Nat
  levelsF : Nat
  levelsB : Nat
  maxIter : Nat
  tol : Nat
  cIt : Nat
  cSetup : Nat
  patternObj : Nat
  pattern : List (List Nat)
deriving DecidableEq, Repr, Inhabited

/-- One phase of a model section: critical-path ticks, weight tiles and keep rank (Table FCT-5), and the weight objects of
its layers in order (log entry 6). -/
structure ModelPhase where
  cTicks : Nat
  wTiles : Nat
  keepRank : Nat
  layers : List Nat
deriving DecidableEq, Repr, Inhabited

/-- The model section of a plan image (Table FCT-5), with the plan's prefetch depth (R259). -/
structure ModelSection where
  wTiles : Nat
  a0Tiles : Nat
  a1Tiles : Nat
  winTiles : Nat
  origin : Nat
  facetSet : Nat
  depth : Nat
  phases : List ModelPhase
deriving DecidableEq, Repr, Inhabited

/-- A plan image: its estimate per scheduler unit in unit-ticks at OP0, its steps, and the sections the model and ISE chapters
describe. -/
structure Plan where
  units : List (Nat × Nat)
  steps : List PlanStep
  model : Option ModelSection
  ise : Option IseSchedule
deriving DecidableEq, Repr, Inhabited

/-- The head of a BLP packet as its receiver finds it: SEQ and ACK_SEQ, whether its CRC is good, and whether its TYPE is one that the
table lists (Table CLS-3, R207). -/
structure PktHead where
  seq : Nat
  ackSeq : Nat
  crcOk : Bool
  listed : Bool
deriving DecidableEq, Repr, Inhabited

/-- The TAG of a completion, and the head of the packet that brings it where its link runs packetised. -/
structure CplTag where
  head : PktHead
  tag : Nat
deriving DecidableEq, Repr, Inhabited

/-- A MSG packet of the guest: its head, MSG_KIND, LEN, and the GUEST_TAG in its payload (R214, Table CLS-12). -/
structure GuestMsg where
  head : PktHead
  kind : Nat
  len : Nat
  tag : Nat
deriving DecidableEq, Repr, Inhabited

/-- The module count that step 1 of R209 fixes, and the head of the CAP_DECL packet of step 3. -/
structure CapHead where
  modules : Nat
  head : PktHead
deriving DecidableEq, Repr, Inhabited

/-- The transaction a link carries when a plan reads or writes over it: a tag and whether it is posted (R222). -/
structure LinkTxn where
  tag : Nat
  posted : Bool
deriving DecidableEq, Repr, Inhabited

/-- The functions of one FP32 operand that the vector cores compute (Table FCT-1). -/
inductive VecFn where
  | exp | log | rsqrt | sin | cos
deriving DecidableEq, Repr, Inhabited

/-- What the vector cores do with a tile (R327, Table FCT-1): convert it; decode the codes of map rows, whose rows have the FP16 SCALE and
OFFSET given; a fused multiply-add, or a multiply-accumulate of integers, of three tiles; a function of each element; or another
kernel, whose results the manual does not give and the command brings. -/
inductive VecOp where
  | convert
  | decode (params : List (Nat × Nat))
  | fma
  | fn (f : VecFn)
  | kernel (isFloat : Bool)
deriving DecidableEq, Repr, Inhabited

/-- The work of one tile of a Facet, with its operands as element codes, in an MX format each with its block's scale above its eight
bits. A product takes the rows of A and the columns of B (R320); a vector operation the rows of up to three tiles. `layout` is the LAYOUT of the
output tile, whose stored rows the result makes (Table CK-3). -/
inductive TileWork where
  | product (fmtA fmtB : Nat) (a b : List (List Nat)) (layout : Nat)
  | vector (op : VecOp) (fmt : Nat) (a b c : List (List Nat)) (layout : Nat)
deriving DecidableEq, Repr, Inhabited

/-- A fault in the accumulation of a tile: the bits changed of the accumulator at a row and a column; one row further, of the checksum row;
one column further, of the checksum column (R340). -/
structure SumFault where
  row : Nat
  col : Nat
  bits : Nat
deriving DecidableEq, Repr, Inhabited

/-- A tile as it is computed: its work, and the faults that strike it. -/
structure TileRun where
  work : TileWork
  faults : List SumFault := []
deriving DecidableEq, Repr, Inhabited

/-- The accumulators a tile ends with, row by row, as raw 32-bit words, with the checksum row and column of a tensor-core product
(R339). -/
structure TileSums where
  isFloat : Bool
  rows : List (List Nat)
  rowCheck : List Nat
  colCheck : List Nat
  /-- LAYOUT of the output tile they make, whose stored rows `rows` holds (Table CK-3). -/
  layout : Nat := 0
deriving DecidableEq, Repr, Inhabited

/-- One request of a peer's batch or of a batch sent to a peer, or one hand-over row (R387, R389, R565). A lookup has no
values; an update has its gradients and a PUT its values as FP32 codes; a hand-over row has its slot's bytes. -/
structure RemoteItem where
  table : Nat
  row : Nat
  isUpdate : Bool
  isPut : Bool
  values : List Nat
deriving DecidableEq, Repr, Inhabited

/-- An owner's answer to one remote request (R389): the row's header and codes as bytes, none of an empty row. -/
inductive RemoteAnswer where
  | row (version : Nat) (data : List Byte)
  | ack
  | notOwner
  | absent
deriving DecidableEq, Repr, Inhabited

/-- The payload of a CFP ANNOUNCE (Table FAB-5). -/
structure AnnouncePayload where
  shardEn : Bool
  joining : Bool
  leaving : Bool
  annInterval : Nat
  cellSeed : Nat
  viewId : Nat
  lendFree : Nat
  qpn : Nat
deriving DecidableEq, Repr, Inhabited

/-- The header of a received CFP message (Table FAB-4). -/
structure CfpHeader where
  magic : Nat
  version : Nat
  cellId : Nat
  deviceId : Nat
  seq : Nat
  port : Nat
  /-- Its TYPE is one that Table FAB-5 lists (R555). -/
  listed : Bool
deriving DecidableEq, Repr, Inhabited

/-- One Announce message of PTP as far as the BMCA and the domain use it (R521, Table HM-5). -/
structure PtpAnnounce where
  gmId : Nat
  priority1 : Nat
  clockClass : Nat
  accuracy : Nat
  variance : Nat
  priority2 : Nat
  stepsRemoved : Nat
  utcOffset : Nat
deriving DecidableEq, Repr, Inhabited

/-- The SSD below NVP as initialisation finds it: the ticks it takes, the link's speed code and lanes, log2 of its LBA size, and
the bytes of namespace 1 (R587, Table PRT-11). -/
structure NvmeFound where
  ticks : Nat
  speed : Nat
  width : Nat
  lbaLog2 : Nat
  bytes : Nat
deriving DecidableEq, Repr, Inhabited

/-- The commands of the block: the rows of the table of operations and events, chapter by chapter; some events
with no operand stand at the end. -/
inductive Instr where
  -- register pages and address spaces
  | registerWrite (rq : Requester) (addr width value : Nat)
  | rcFieldRead (rq : Requester) (addr width : Nat)
  | lowWordRead (rq : Requester) (addr width : Nat)
  | highWordWrite (rq : Requester) (addr value : Nat)
  | lowWordWrite (rq : Requester) (addr width value : Nat)
  | expUnlockFirstKey (rq : Requester) (page upper : Nat)
  | expUnlockSecondKey (rq : Requester) (page value : Nat)
  | expRelock (rq : Requester) (page upper : Nat)
  | unlockWindowExpiry (rq : Requester) (page : Nat)
  | blockEnable (rq : Requester) (page : Nat) (clkReq : Bool)
  | blockDisable (rq : Requester) (page : Nat) (clkReq : Bool)
  | softReset (rq : Requester) (page : Nat) (enable clkReq : Bool)
  | irqForce (rq : Requester) (page bits : Nat)
  | drainComplete (page lost : Nat)
  | bar2Access (fn off len : Nat) (write : Bool) (data : List Byte)
  | bar4Access (off len : Nat) (write : Bool) (data : List Byte)
  -- the tick, clocks, sleep and heat
  | tickEventSampling
  | evtLogEnable (rq : Requester)
  | evtInject (rq : Requester) (word bits : Nat)
  | refclkLost
  | refclkReturn
  | aonclkDisciplined (freqErr : Nat)
  | pllLock (n : Nat)
  | pllLockTimeout (n : Nat)
  | clockMonitorFault (pll : Nat)
  | autoDozeEntry
  | dozeExit (t : DozeTrigger)
  | pmReqNap (rq : Requester) (dropT0 dropHbm : Bool)
  | pmReqSleep (rq : Requester) (dropT0 dropHbm : Bool)
  | pmReqDeep (rq : Requester) (dropT0 dropHbm : Bool)
  | pmReqAwake (rq : Requester)
  | pmReqInvalid (rq : Requester) (target : Nat)
  | powerStateEntryComplete
  | wakeTimerSet (rq : Requester) (value : Nat)
  | wakeTimerMatch
  | wakeStart
  | wakeComplete (pllFail linkFail stackFail : List Nat)
  | hbmBackgroundZero (stack : Nat)
  | telemetrySample (values : List Int)
  | powerCapStep
  | facetThermalLimit (f : Nat)
  | crownThermalLimit (sensor : Nat)
  | thermtrip
  | hbmThermalLimit (stack : Nat)
  | supplyOutOfRange (rail : Nat)
  -- from power to first frame
  | alwaysOnPowerOnReset
  | deviceReset (c : ResetCause)
  | perstNFall
  | hifLinkTraining (speed lanes : Nat) (flit : Bool)
  | configurationRequest (fn : Nat) (c : ConfigAccess)
  | bootClocks
  | refAbsentTimeout
  | storeInit
  | fwLoad
  | fwVerify
  | facets (f : Nat) (r : BootResult)
  | sideLinks (fails : List Nat) (r : BootResult)
  | hbmTrain (stack : Nat) (r : BootResult)
  | hostReady
  | stageTimeout
  | watchdogExpiry
  | watchdogRestart
  -- Clasp: joining the dies
  | capDecl (sidebandOk : Bool) (modules : CapHead) (block : List Byte)
  | guestSlotTimeout
  | tickMessage
  | tickAck (echo : Nat)
  | modeForce (rq : Requester) (link : Nat) (packetised : Bool)
  | retrain (rq : Requester) (link : Nat)
  | linkRetrainComplete (link modules : Nat)
  | nativeFrame (link seq ackSeq : Nat) (nak crcOk : Bool)
  | nak (link seq : Nat)
  | ack (link seq : Nat)
  | ackTimeoutReplay (link : Nat)
  | rdReq (seq : PktHead) (addr len tag : Nat)
  | wrReq (seq : PktHead) (addr tag : Nat) (data : List Byte)
  | wrPosted (seq : PktHead) (addr : Nat) (data : List Byte)
  | rdCpl (link : Nat) (tag : CplTag) (status : Nat) (data : List Byte)
  | wrCpl (link : Nat) (tag : CplTag) (status : Nat)
  | credit (req cpl data : Nat)
  | complete (guestTag : GuestMsg) (outcome cause endTick startDelta : Nat)
  | txnTimeoutExpiry (link tag : Nat)
  | linkTimeout (link tag : Nat)
  | laneMonitorBurst (link : Nat) (bad stuck : List Nat)
  | clTestStart (rq : Requester) (link duration : Nat)
  | clTestDone (errLanes : List Nat)
  -- the Casket and the memory tiers
  | tileInstall (fetch : Nat) (data : List Byte)
  | tierLate (rid fetch : Nat)
  | tierFailed (fetch : Nat) (st : BusStatus)
  | evictionWritebackDone (slot : Nat)
  | quotaWrite (rq : Requester) (w word value : Nat)
  | locketLend (n : Nat)
  | lendReclaim (rq : Requester)
  | reclaimPeriodEnd (slot : Nat)
  | casketScrub
  | patrolScrub (stack : Nat)
  -- workspaces, plans and who gets served
  | doorbell (rq : Requester) (ws ring tail : Nat)
  | cancel (rq : Requester) (ws rings : Nat)
  | admission
  | nop (ws ring : Nat)
  | run (ws ring : Nat)
  | alloc (ws ring : Nat)
  | free (ws ring : Nat)
  | loadPlan (ws ring : Nat)
  | modelLoadComplete (rid : Nat)
  | dmaIn (ws ring : Nat)
  | dmaOut (ws ring : Nat)
  | flush (ws ring : Nat)
  | shareWrite (rq : Requester) (ws c value : Nat)
  | dispatch (unit : Nat)
  | preemptionYield (rid : Nat)
  | latestStartReached (rid : Nat)
  | requestEnd (rid : Nat)
  | deadlineMissed (rid : Nat)
  | irqModerationExpiry (ws : Nat)
  | stateAudit (diverged : List Nat)
  -- Facets: tensor and vector work
  | facetTile (rid f core : Nat) (run : TileRun) (vcMismatch : Bool)
  | abftRecompute (rid f core : Nat) (faults : List SumFault)
  | exchangeStep (rid : Nat)
  -- map rows
  | tblCmdAct (rq : Requester) (table : Nat)
  | tblCmdDeact (rq : Requester) (table : Nat)
  | tableDeactComplete (table : Nat)
  | gather (rid g : Nat)
  | update (rid g : Nat)
  | put (rid g : Nat)
  | flip (g : Nat)
  | slotFree (g : Nat)
  | srSeedWrite (rq : Requester) (g value : Nat)
  | rcSizeWrite (rq : Requester) (value : Nat)
  | sketchClear (rq : Requester)
  | roundOpen (g : Nat)
  | roundClose (g round : Nat)
  | peerBatch (slot epoch : Nat) (items : List RemoteItem)
  | remoteReply (slot table row : Nat) (a : RemoteAnswer)
  | remoteLateExpiry (rid : Nat)
  -- Loupe
  | idxCmdAct (rq : Requester) (lp index : Nat)
  | idxCmdDeact (rq : Requester) (lp index : Nat)
  | indexDeactComplete (lp index : Nat)
  | searchApproximate (rid : Nat)
  | searchExact (rid : Nat)
  | listScanStart (lp index list : Nat)
  | merge (rid : Nat)
  | shardLateExpiry (rid : Nat)
  | peerSearch (lp slot index k l visitMax : Nat) (exact : Bool) (probe : Nat) (query : List Nat)
  -- ISE
  | solve (rid : Nat)
  | recheckDue (ise : Nat)
  -- Filigree
  | channelSlot (k : Nat) (bits : List Bool)
  | commit (rq : Requester) (mask : Nat)
  | timingSlip (k : Nat)
  | filter (rid : Nat)
  | outEnable (rq : Requester)
  | calStart (rq : Requester) (channel range : Nat) (ref : Bool)
  -- Hallmark
  | hmNsRead (rq : Requester) (width : Nat)
  | stampNsRead (rq : Requester) (line : Nat)
  | set (rq : Requester)
  | snap (rq : Requester)
  | switchPri (rq : Requester)
  | switchSec (rq : Requester)
  | hmCmdInvalid (rq : Requester) (code : Nat)
  | stampEdge (line : Nat) (subTick : Nat)
  | txqPop (rq : Requester) (p : Nat)
  | sync (d : Nat) (valid twoStep : Bool) (seq logInterval : Nat) (origin : Int) (recv correction : Int)
  | followUp (d : Nat) (seq : Nat) (origin correction : Int)
  | delayReq (d : Nat) (seq : Nat) (recv : Int)
  | delayResp (d : Nat) (seq : Nat) (recv correction : Int)
  | pdelayReq (d : Nat) (seq : Nat) (recv : Int)
  | pdelayResp (d : Nat) (seq : Nat) (twoStep : Bool) (peerRecv recv correction : Int)
  | pdelayRespFollowUp (d : Nat) (seq : Nat) (peerSend correction : Int)
  | announcePtp (d : Nat) (a : PtpAnnounce)
  | managementSignaling (d : Nat)
  | ptpMessageSend (d kind : Nat)
  | domainLoss (d : Nat)
  | domainConfigWrite (rq : Requester) (d word value : Nat)
  | ppsInEdge (subTick : Nat)
  | fsyncOutEdge (f : Nat)
  | fsApply (rq : Requester) (f : Nat)
  -- the cell fabric
  | ethLinkChange (p : Nat) (up : Bool)
  | txrTail (rq : Requester) (p tail : Nat)
  | frameRx (p : Nat) (frame : List Byte) (crcErr unicastOrBroadcast stampValid : Bool)
  | send (slot : Nat) (items : List RemoteItem)
  | rdmaWrite (slot off : Nat) (incoming : Bool) (data : List Byte)
  | rdmaRead (slot off len : Nat) (incoming : Bool)
  | roceAckTimeout (slot : Nat)
  | cnp (slot : Nat)
  | roceRateRaise (slot : Nat)
  | announce (h : CfpHeader) (a : AnnouncePayload)
  | ackCfp (h : CfpHeader) (acked : Nat)
  | cfpResend (slot seq : Nat)
  | leave (h : CfpHeader)
  | gone (h : CfpHeader)
  | leaveTimeout (slot : Nat)
  | peerSilenceTimeout (slot : Nat)
  | handoverRange (table range : Nat)
  | handoverEnd (h : CfpHeader) (table range viewId : Nat)
  | handoverTimeout (table range : Nat)
  | borrowCmdBorrow (rq : Requester) (slot : Nat)
  | borrowCmdRelease (rq : Requester) (slot : Nat)
  | borrowReq (h : CfpHeader) (tiles : Nat)
  | borrowGrant (h : CfpHeader) (tiles base key : Nat)
  | borrowDeny (h : CfpHeader)
  | release (h : CfpHeader)
  | reclaim (h : CfpHeader)
  | lendRevoke (slot : Nat)
  -- host, flash, camera and sensor ports
  | flr (fn : Nat)
  | dmaCompletion (rid : Nat) (st : BusStatus) (data : List Byte)
  | nvpEnable (rq : Requester) (found : Option NvmeFound)
  | nvmeCompletion (fetch : Nat) (st : BusStatus) (data : List Byte)
  | nvpTimeout (fetch : Nat)
  | wrCmd (rq : Requester)
  | flashWriteDone (st : BusStatus)
  | frameStart (n vc frameNum : Nat)
  | linePacket (n vc dt : Nat) (hdrOk eccCorr crcOk : Bool) (pixels : List Nat)
  | frameEnd (n vc : Nat)
  | streamEnable (rq : Requester) (n stream : Nat)
  | drdyEdge (p subTick : Nat) (rising : Bool)
  | sampleTransactionDone (p cs : Nat) (readBytes : List Byte)
  | xfer (rq : Requester) (p cs len : Nat)
  | xferDone (p : Nat) (rx : List Byte)
  | bspiRead (rq : Requester)
  | bspiProgram (rq : Requester)
  | bspiErase (rq : Requester)
  | bspiOpInvalid (rq : Requester)
  | bspiDone (busyTimeout verifyFail : Bool)
  | sdmClockCheck (edges : List Nat)
  | sdmClkCfgWrite (rq : Requester) (x value : Nat)
  | mspiRead (addr n waitBits : Nat)
  | mspiWrite (addr : Nat) (words : List Word)
  | mspiBadCmd (op : Nat)
  | mspiWaitTimeout (n : Nat)
  | mspiCsRise (midWord wordsLeft overclocked : Bool)
  | samplePreload (capture shift : List Bool)
  | regAccess (write : Bool) (off : Nat) (data : Word)
  | stapSelect (chain : Nat)
  | dwrAccess (die : Nat) (shift : List Bool)
  | bypass (code : Nat)
  -- faults and the single-fault guarantee
  | faultReportClose (seq : Nat)
  | drainLimitExpiry (page : Nat)
  | sentinelWrite (rq : Requester) (value : Bool)
  | flogEnable (rq : Requester)
  | firstClr (rq : Requester)
  | faultNClr (rq : Requester)
  | injReport (rq : Requester)
  | resetCmd (rq : Requester) (key : Nat)
  | lockstepMismatch (timingCore : OwnFault) (pair : Nat)
  -- events with no operand of the time chapters, the cell fabric and the ports
  | calResult
  | calTimeout
  | stampRoutine
  | autoSwitch
  | initialStep
  | slewEnd
  | hmCoreStart
  | ppsOutEdge
  | announceSend
  | joinListenEnd
  | hifLinkDown
  | hifLinkUp
  | nvpInitTimeout
  | mspiIdleTimeout
  | tapReset
  | idcode
  | extest
  | clamp
  | highz
deriving DecidableEq, Repr

end Sys2Proof
end

