-- ==== Sys2Proof/Config.lean ====
section
/-! DEFINITION. What an implementation fixes and the manual does not give, and the free values: constants without a
body, so that no proof can see what they are. -/

namespace Sys2Proof.Config

/-- A value the manual leaves open, the n-th one taken (log entry 5). -/
opaque freeValue : Nat → BitVec 64

/-- The plan that the bytes of a plan image spell, as far as no table lays its content out. The manual names what an image carries and
leaves its format to Smipor (log entry 6). -/
opaque planOfImage : List Byte → Plan

/-- Where an image carries its model section, its schedule section and the record of its Loupe step k (Tables FCT-5, ISE-1, LP-8; log
entry 6). -/
opaque modelOffset : List Byte → Nat
opaque scheduleOffset : List Byte → Nat
opaque recordOffset : List Byte → Nat → Nat

/-- The FP32 accumulation of the exact products of two lists of element codes, where the sum depends on its order; and that of a checksum,
of the codes of a matrix summed over its rows and multiplied by another list: the manual gives neither order (R320, R339, log entry 111). -/
opaque accumulate : Nat → Nat → List Nat → List Nat → BitVec 32
opaque accumulateCheck : Nat → Nat → List (List Nat) → List Nat → BitVec 32

/-- The vector cores' FP32 functions: the manual gives their rate and not their rounding (Table FCT-1, log entry 111). -/
opaque vectorFn : VecFn → BitVec 32 → BitVec 32

/-- SHA-384 of a byte string, 48 bytes (R174); the manual refers to the standard and gives no algorithm (log entry 7). -/
opaque sha384 : List Byte → List Byte

/-- Whether an ECDSA P-384 signature verifies: public key, message, signature (R174, log entry 7). -/
opaque ecdsaP384 : List Byte → List Byte → List Byte → Bool

/-- The 48 bytes of the key-hash fuses that Umhel programs (R174, log entry 8). -/
opaque keyHashFuses : List Byte

/-- Coefficient i of a Filigree ROM response, and the scaling of its 48-bit accumulator: the ROM's contents and the place of
its binary point are not in the manual (R478, log entry 9). -/
opaque firTap : Nat → Nat → BitVec 24
opaque firScale : Nat → BitVec 48 → Int

/-- Coefficient of a phase and tap of the Filigree resampler, and its scaling (R480, log entry 9). -/
opaque resTap : Nat → Nat → BitVec 24
opaque resScale : BitVec 48 → Int

/-- clockAccuracy and offsetScaledLogVariance that a domain announces (R520, log entry 10). -/
opaque clockAccuracy : Nat
opaque clockVariance : Nat

/-- Wires of a Crown link, of a side link, and of a Locket's stack, in each die's wrapper register: the manual names what they carry and
counts the data lanes alone (R227, log entry 103). -/
opaque linkWires : Nat
opaque sideWires : Nat
opaque stackWires : Nat

end Sys2Proof.Config
end

