-- ==== Sys2Proof/Machine/Bits.lean ====
section
/-! DEFINITION. Bit fields, byte order and small arithmetic. Every multi-byte value in memory, descriptors, records
and tiles is little-endian (Table SCOPE-3). -/

namespace Sys2Proof.Machine

/-- Bits [hi:lo] of a number. -/
def bitsOf (v hi lo : Nat) : Nat := v / 2 ^ lo % 2 ^ (hi + 1 - lo)

/-- The number v with its bits [hi:lo] replaced by the low bits of x. -/
def putBits (v hi lo x : Nat) : Nat :=
  v - bitsOf v hi lo * 2 ^ lo + x % 2 ^ (hi + 1 - lo) * 2 ^ lo

/-- Bit n of a number. -/
def bit (v n : Nat) : Bool := v.testBit n

/-- 1 for true, 0 for false. -/
def b2n (b : Bool) : Nat := if b then 1 else 0

/-- A number as n little-endian bytes. -/
def leBytes : Nat → Nat → List Byte
  | 0, _ => []
  | n + 1, v => BitVec.ofNat 8 v :: leBytes n (v / 256)

/-- The number that little-endian bytes spell. -/
def leNat : List Byte → Nat
  | [] => 0
  | b :: r => b.toNat + 256 * leNat r

/-- Bytes i to i + n - 1 of a list of bytes, as a little-endian number; bytes beyond the end count as 0. -/
def fieldAt (l : List Byte) (i n : Nat) : Nat := leNat ((l.drop i).take n)

/-- v read as an n-bit two's-complement number. -/
def toSigned (n v : Nat) : Int :=
  let m := v % 2 ^ n
  if m < 2 ^ (n - 1) then (m : Int) else (m : Int) - (2 ^ n : Nat)

/-- The n-bit two's-complement code of an integer. -/
def ofSigned (n : Nat) (x : Int) : Nat := (x % ((2 ^ n : Nat) : Int)).toNat

/-- v saturated to w bits. -/
def satBits (w v : Nat) : Nat := if v < 2 ^ w then v else 2 ^ w - 1

/-- a / b rounded up; 0 when b is 0. -/
def ceilDiv (a b : Nat) : Nat := if b = 0 then 0 else (a + b - 1) / b

/-- v rounded up to a multiple of m. -/
def roundUp (v m : Nat) : Nat := ceilDiv v m * m

/-- v held between two bounds. -/
def clampNat (lo hi v : Nat) : Nat := if v < lo then lo else if hi < v then hi else v

/-- x held between two bounds. -/
def clampInt (lo hi x : Int) : Int := if x < lo then lo else if hi < x then hi else x

/-- The least power of two, as an exponent below n, that is at least v; n when none is. -/
def log2Up : Nat → Nat → Nat
  | 0, _ => 0
  | n + 1, v => if v ≤ 1 then 0 else log2Up n ((v + 1) / 2) + 1

/-- The first i of the list for which p holds. -/
def firstIdx (p : Nat → Bool) : List Nat → Option Nat
  | [] => none
  | x :: r => if p x then some x else firstIdx p r

/-- The indices 0 to n - 1 of the bits set in v. -/
def setBitsBelow (n v : Nat) : List Nat := (List.range n).filter (fun i => v.testBit i)

/-- One step of the CRC-32C register over one bit, in its reflected form (polynomial 0x82F63B78). -/
def crcBit (c : Nat) : Nat :=
  if c % 2 = 1 then Nat.xor (c / 2) 0x82F63B78 else c / 2

/-- The CRC-32C register after one byte. -/
def crcByte (c : Nat) (b : Byte) : Nat :=
  crcBit (crcBit (crcBit (crcBit (crcBit (crcBit (crcBit (crcBit (Nat.xor c b.toNat))))))))

/-- CRC-32C of a list of bytes, with initial value and final complement of all ones (log entry 11). -/
def crc32c (l : List Byte) : Nat := Nat.xor (l.foldl crcByte 0xFFFFFFFF) 0xFFFFFFFF

/-- Applies a state change for each number of a list, in order. -/
def forEach {σ : Type} (l : List Nat) (f : Nat → σ → σ) (s : σ) : σ := l.foldl (fun t i => f i t) s

end Sys2Proof.Machine
end

