-- ==== Sys2Proof/Machine/Map.lean ====
section
/-! DEFINITION. Sparse maps from numbers to data, as lists in one canonical form: keys strictly rising and no entry
equal to what an unlisted key reads as. -/

namespace Sys2Proof.Machine

/-- A sparse map: pairs of a key and a value, keys strictly rising. -/
abbrev NMap (α : Type) := List (Nat × α)

/-- The value at k; `d k` where k is not listed. -/
def mapGet {α : Type} (d : Nat → α) : NMap α → Nat → α
  | [], k => d k
  | (j, v) :: r, k => if j = k then v else mapGet d r k

/-- The value at k, if k is listed. -/
def mapFind {α : Type} : NMap α → Nat → Option α
  | [], _ => none
  | (j, v) :: r, k => if j = k then some v else mapFind r k

/-- The entries below k. -/
def mapBelow {α : Type} (m : NMap α) (k : Nat) : NMap α := m.filter (fun e => decide (e.1 < k))

/-- The entries at k and above. -/
def mapFrom {α : Type} (m : NMap α) (k : Nat) : NMap α := m.filter (fun e => decide (k ≤ e.1))

/-- The map with v at k. -/
def mapInsert {α : Type} (m : NMap α) (k : Nat) (v : α) : NMap α :=
  mapBelow m k ++ (k, v) :: mapFrom m (k + 1)

/-- The map without k. -/
def mapErase {α : Type} (m : NMap α) (k : Nat) : NMap α := mapBelow m k ++ mapFrom m (k + 1)

/-- The map in which k reads as v, in canonical form. -/
def mapSet {α : Type} [DecidableEq α] (d : Nat → α) (m : NMap α) (k : Nat) (v : α) : NMap α :=
  if v = d k then mapErase m k else mapInsert m k v

/-- Consecutive values as entries from key a on, those equal to the default left out. -/
def mapRun {α : Type} [DecidableEq α] (d : Nat → α) : Nat → List α → NMap α
  | _, [] => []
  | a, v :: r => if v = d a then mapRun d (a + 1) r else (a, v) :: mapRun d (a + 1) r

/-- The map in which the keys from a on read as the values of a list, in canonical form. -/
def mapWrite {α : Type} [DecidableEq α] (d : Nat → α) (m : NMap α) (a : Nat) (l : List α) : NMap α :=
  mapBelow m a ++ (mapRun d a l ++ mapFrom m (a + l.length))

/-- The values at n keys from a on. -/
def mapRead {α : Type} (d : Nat → α) (m : NMap α) (a n : Nat) : List α :=
  let w := mapBelow (mapFrom m a) (a + n)
  (List.range n).map (fun i => mapGet d w (a + i))

/-- Every key of the map is above b, and the keys rise strictly. -/
def mapSorted {α : Type} : Option Nat → NMap α → Bool
  | _, [] => true
  | none, (j, _) :: r => mapSorted (some j) r
  | some b, (j, _) :: r => decide (b < j) && mapSorted (some j) r

/-- The canonical form: keys strictly rising, and no entry equal to the default of its key. -/
def mapWf {α : Type} [DecidableEq α] (d : Nat → α) (m : NMap α) : Bool :=
  mapSorted none m && m.all (fun e => !decide (e.2 = d e.1))

/-- The greatest key plus 1; 0 for the empty map. -/
def mapNext {α : Type} (m : NMap α) : Nat := m.foldl (fun n e => if n ≤ e.1 then e.1 + 1 else n) 0

/-- The map with f applied to the value at k, if k is listed. -/
def mapModify {α : Type} (f : α → α) (m : NMap α) (k : Nat) : NMap α :=
  m.map (fun e => if e.1 = k then (e.1, f e.2) else e)

/-- The map with f applied to every value. -/
def mapAll {α β : Type} (f : Nat → α → β) (m : NMap α) : NMap β := m.map (fun e => (e.1, f e.1 e.2))

/-- Keys of the entries for which p holds, in rising order. -/
def mapKeys {α : Type} (p : Nat → α → Bool) (m : NMap α) : List Nat :=
  (m.filter (fun e => p e.1 e.2)).map (·.1)

/-- How many entries p holds for. -/
def mapCount {α : Type} (p : Nat → α → Bool) (m : NMap α) : Nat := (m.filter (fun e => p e.1 e.2)).length

end Sys2Proof.Machine
end

