-- ==== Sys2Proof/Machine/Fields.lean ====
section
/-! DEFINITION. The register pages of the device (R57 to R62, R89, R105): which pages are present, the fields of each
kind of page as the register tables give them (offset, bits, access code, reset value, repetition), a named reference
for each field, and the reset word of every register. -/

namespace Sys2Proof.Machine

/-- The access codes of Table SCOPE-4 (R12). -/
inductive Acc where
  | ro | rw | w1c | w1s | wo | rc | rwx
deriving DecidableEq, Repr

/-- Whether a row is a word of a 64-bit register (R656). -/
inductive PairWord where
  | none | lo | hi
deriving DecidableEq, Repr

/-- One row of a register table: offset, high and low bit, access code, reset value, whether only the physical function
writes it (R284), whether it is a word of a 64-bit register, and its repetition as (stride, count) pairs. -/
structure Row where
  off : Nat
  hi : Nat
  lo : Nat
  acc : Acc
  reset : Nat
  pf : Bool
  pair : PairWord
  dims : List (Nat × Nat)
deriving DecidableEq, Repr

/-- A field of one page: page index, word offset, high and low bit. -/
structure FRef where
  page : Nat
  off : Nat
  hi : Nat
  lo : Nat
deriving DecidableEq, Repr

/-- The kinds of register page. -/
inductive PageKind where
  | bzAon | bzPm | bzEvt | bzTherm | clLink | clTest | ckCtrl | ckQ | ckTier | ckQuota | ckStream | ckReshard | hbm | wkSched | ws | fct0 | fct1 | fct2 | fct3 | fct4 | fct5 | fct6 | gse | mapDir | rowCache | lp | ise | fil | filCh | filCal | hm | hmDom | hmTxq | eth | fab | hif | nvp | csi | spm | sdm | mspi | tap | dev | bzFault | bzReset | fct7
deriving DecidableEq, Repr

/-- A page index Table REG-4 does not list: what an index outside its range stands for here. -/
def absentPage : Nat := 0x3FF

/-- Page of the i-th of n blocks whose first page is base; the absent page beyond. -/
def pgOf (base n i : Nat) : Nat := if i < n then base + i else absentPage
/-- CL_C0 to CL_C3, CL_S01, CL_S12, CL_S23, CL_S30 are links 0 to 7 (Table REG-4). -/
def pgCl (l : Nat) : Nat := pgOf 0x020 8 l
/-- CK_Q0 to CK_Q3. -/
def pgCkQ (q : Nat) : Nat := pgOf 0x011 4 q
/-- The HBM controllers H0 to H3. -/
def pgHbm (h : Nat) : Nat := pgOf 0x0A0 4 h
/-- The workspace pages WS0 to WS63. -/
def pgWs (w : Nat) : Nat := pgOf 0x100 64 w
/-- GSE0 and GSE1. -/
def pgGse (g : Nat) : Nat := pgOf 0x060 2 g
/-- LP0 and LP1. -/
def pgLp (l : Nat) : Nat := pgOf 0x068 2 l
/-- ISE0 and ISE1. -/
def pgIse (e : Nat) : Nat := pgOf 0x070 2 e
/-- ETH0 to ETH3. -/
def pgEth (p : Nat) : Nat := pgOf 0x088 4 p
/-- CSI0 to CSI7. -/
def pgCsi (n : Nat) : Nat := pgOf 0x092 8 n
/-- Sub-page s of Facet f (R357). -/
def pgFct (f s : Nat) : Nat := if f < 4 ∧ s < 8 then 0x040 + 8 * f + s else absentPage

/-- The kind of the page at an index of BAR0, as Table REG-4 lists them (R89). -/
def pageKind (p : Nat) : Option PageKind :=
  if p = 0x000 then some .dev else
  if p = 0x001 then some .bzAon else
  if p = 0x002 then some .bzPm else
  if p = 0x003 then some .bzFault else
  if p = 0x004 then some .bzEvt else
  if p = 0x005 then some .bzTherm else
  if p = 0x006 then some .bzReset else
  if p = 0x010 then some .ckCtrl else
  if 0x011 ≤ p ∧ p ≤ 0x014 then some .ckQ else
  if p = 0x018 then some .ckTier else
  if p = 0x019 then some .ckQuota else
  if p = 0x01A then some .ckStream else
  if p = 0x01B then some .ckReshard else
  if 0x020 ≤ p ∧ p ≤ 0x027 then some .clLink else
  if p = 0x02F then some .clTest else
  if p = 0x030 then some .wkSched else
  if 0x060 ≤ p ∧ p ≤ 0x061 then some .gse else
  if p = 0x062 then some .mapDir else
  if p = 0x063 then some .rowCache else
  if 0x068 ≤ p ∧ p ≤ 0x069 then some .lp else
  if 0x070 ≤ p ∧ p ≤ 0x071 then some .ise else
  if p = 0x078 then some .fil else
  if p = 0x079 then some .filCh else
  if p = 0x07A then some .filCal else
  if p = 0x080 then some .hm else
  if p = 0x081 then some .hmDom else
  if p = 0x082 then some .hmTxq else
  if 0x088 ≤ p ∧ p ≤ 0x08B then some .eth else
  if p = 0x08C then some .fab else
  if p = 0x090 then some .hif else
  if p = 0x091 then some .nvp else
  if 0x092 ≤ p ∧ p ≤ 0x099 then some .csi else
  if p = 0x09A then some .spm else
  if p = 0x09B then some .sdm else
  if p = 0x09C then some .mspi else
  if p = 0x09D then some .tap else
  if 0x0A0 ≤ p ∧ p ≤ 0x0A3 then some .hbm else
  if 0x100 ≤ p ∧ p ≤ 0x13F then some .ws else
  if 0x040 ≤ p ∧ p ≤ 0x05F then
    (match (p - 0x040) % 8 with
     | 0 => some .fct0
     | 1 => some .fct1
     | 2 => some .fct2
     | 3 => some .fct3
     | 4 => some .fct4
     | 5 => some .fct5
     | 6 => some .fct6
     | _ => some .fct7)
  else none

/-- The common header of every page (Table REG-7). BLK_ID, BLK_VER, BLK_CAP, BLK_STATE and BLK_DPSTATE are read
through their own views (`Ops`), so their words are no storage. -/
def headerRows : List Row := [
  ⟨0x000, 31, 16, .ro, 0, false, .none, []⟩,
  ⟨0x000, 15, 8, .ro, 0, false, .none, []⟩,
  ⟨0x000, 7, 0, .ro, 0, false, .none, []⟩,
  ⟨0x004, 31, 24, .ro, 0, false, .none, []⟩,
  ⟨0x004, 23, 16, .ro, 0, false, .none, []⟩,
  ⟨0x004, 15, 0, .ro, 0, false, .none, []⟩,
  ⟨0x008, 31, 31, .ro, 0, false, .none, []⟩,
  ⟨0x008, 30, 30, .ro, 0, false, .none, []⟩,
  ⟨0x008, 29, 29, .ro, 0, false, .none, []⟩,
  ⟨0x008, 23, 0, .ro, 0, false, .none, []⟩,
  ⟨0x00C, 0, 0, .rw, 0, false, .none, []⟩,
  ⟨0x00C, 1, 1, .wo, 0, false, .none, []⟩,
  ⟨0x00C, 2, 2, .rw, 0, false, .none, []⟩,
  ⟨0x010, 2, 0, .ro, 0, false, .none, []⟩,
  ⟨0x010, 3, 3, .ro, 1, false, .none, []⟩,
  ⟨0x010, 15, 8, .ro, 0, false, .none, []⟩,
  ⟨0x010, 31, 16, .ro, 0, false, .none, []⟩,
  ⟨0x014, 2, 0, .ro, 0, false, .none, []⟩,
  ⟨0x018, 31, 0, .ro, 0, false, .none, []⟩,
  ⟨0x01C, 31, 27, .rw, 0, false, .none, []⟩,
  ⟨0x01C, 15, 0, .rw, 0, false, .none, []⟩,
  ⟨0x020, 31, 27, .w1c, 0, false, .none, []⟩,
  ⟨0x020, 15, 0, .w1c, 0, false, .none, []⟩,
  ⟨0x024, 31, 27, .wo, 0, false, .none, []⟩,
  ⟨0x024, 15, 0, .wo, 0, false, .none, []⟩,
  ⟨0x028, 31, 0, .ro, 0, false, .none, [(4, 4)]⟩,
  ⟨0x038, 31, 0, .rc, 0, false, .none, []⟩,
  ⟨0x03C, 31, 0, .rc, 0, false, .none, []⟩,
  ⟨0x040, 15, 0, .wo, 0, false, .none, []⟩,
  ⟨0x044, 0, 0, .ro, 0, false, .none, []⟩,
  ⟨0x044, 1, 1, .ro, 0, false, .none, []⟩,
  ⟨0x044, 15, 8, .ro, 0, false, .none, []⟩,
  ⟨0x044, 31, 16, .rc, 0, false, .none, []⟩,
  ⟨0x048, 31, 0, .ro, 0, false, .lo, []⟩,
  ⟨0x04C, 31, 0, .ro, 0, false, .hi, []⟩]

/-- The block registers of Table TCK-11 (R153): TICK_LO, TICK_HI, AON_STAT_REF_PRESENT, AON_STAT_REF_LOST, AON_STAT_DISCIPLINED, AON_STAT_FREQ_ERR, AON_CTRL_DISCIPLINE_EN, AON_TRIM_CODE. -/
def bzAonRows : List Row := [
  ⟨0x100, 31, 0, .ro, 0, false, .lo, []⟩,
  ⟨0x104, 31, 0, .ro, 0, false, .hi, []⟩,
  ⟨0x108, 0, 0, .ro, 0, false, .none, []⟩,
  ⟨0x108, 1, 1, .w1c, 0, false, .none, []⟩,
  ⟨0x108, 2, 2, .ro, 0, false, .none, []⟩,
  ⟨0x108, 31, 16, .ro, 0, false, .none, []⟩,
  ⟨0x10C, 0, 0, .rw, 1, false, .none, []⟩,
  ⟨0x800, 7, 0, .rwx, 0, false, .none, []⟩]

/-- The block registers of Table TCK-12 (R154): PM_STATE_CUR, PM_STATE_TARGET, PM_STATE_IN_TRANSITION, PM_REQ_TARGET, PM_REQ_DROP_T0, PM_REQ_DROP_HBM, PM_RESULT_CODE, PM_RESULT_TICK, WAKE_EN, WAKE_CAUSE_SRC, WAKE_CAUSE_E0, WAKE_CAUSE_INDEX, WAKE_TICK_LO, WAKE_TICK_HI, AUTO_DOZE_EN, AUTO_DOZE_IDLE_TICKS, PCAP_CAP_W, PCAP_STAT_POWER, PCAP_STAT_CAP_LIMITING, PCAP_STAT_UNREACHABLE, FACET_OP, ASLEEP_ACCESS_CNT, AWAKE_TICKS_LO, AWAKE_TICKS_HI, UTIL_TICKS_LO, UTIL_TICKS_HI, OP_FORCE_OP, OP_FORCE_EN, PLL_LOCK. -/
def bzPmRows : List Row := [
  ⟨0x100, 2, 0, .ro, 0, false, .none, []⟩,
  ⟨0x100, 6, 4, .ro, 0, false, .none, []⟩,
  ⟨0x100, 8, 8, .ro, 0, false, .none, []⟩,
  ⟨0x104, 2, 0, .wo, 0, false, .none, []⟩,
  ⟨0x104, 8, 8, .wo, 0, false, .none, []⟩,
  ⟨0x104, 9, 9, .wo, 0, false, .none, []⟩,
  ⟨0x108, 3, 0, .ro, 0, false, .none, []⟩,
  ⟨0x108, 31, 16, .ro, 0, false, .none, []⟩,
  ⟨0x10C, 5, 0, .rw, 35, false, .none, []⟩,
  ⟨0x110, 5, 0, .ro, 0, false, .none, []⟩,
  ⟨0x110, 6, 6, .ro, 0, false, .none, []⟩,
  ⟨0x110, 15, 8, .ro, 0, false, .none, []⟩,
  ⟨0x118, 31, 0, .rw, 4294967295, false, .lo, []⟩,
  ⟨0x11C, 31, 0, .rw, 4294967295, false, .hi, []⟩,
  ⟨0x120, 0, 0, .rw, 1, false, .none, []⟩,
  ⟨0x120, 31, 16, .rw, 16, false, .none, []⟩,
  ⟨0x124, 7, 0, .rw, 180, false, .none, []⟩,
  ⟨0x128, 11, 0, .ro, 0, false, .none, []⟩,
  ⟨0x128, 16, 16, .ro, 0, false, .none, []⟩,
  ⟨0x128, 17, 17, .w1c, 0, false, .none, []⟩,
  ⟨0x12C, 15, 0, .ro, 0, false, .none, []⟩,
  ⟨0x130, 31, 0, .rc, 0, false, .none, []⟩,
  ⟨0x138, 31, 0, .ro, 0, false, .lo, []⟩,
  ⟨0x13C, 31, 0, .ro, 0, false, .hi, []⟩,
  ⟨0x140, 31, 0, .ro, 0, false, .lo, []⟩,
  ⟨0x144, 31, 0, .ro, 0, false, .hi, []⟩,
  ⟨0x800, 15, 0, .rwx, 0, false, .none, []⟩,
  ⟨0x800, 16, 16, .rwx, 0, false, .none, []⟩,
  ⟨0x804, 7, 0, .ro, 0, false, .none, []⟩]

/-- The block registers of Table TCK-13 (R155): EVT_LOG_BASE_LO, EVT_LOG_BASE_HI, EVT_WR_IDX, EVT_RD_IDX, EVT_LOST, EVT_STAT_OVERFLOW, EVT_STAT_BASE_BAD, EVT_MASK0, EVT_MASK1, EVT_MASK2, EVT_CTRL_LOG_EN, EVT_INJECT. -/
def bzEvtRows : List Row := [
  ⟨0x100, 31, 0, .rw, 0, false, .lo, []⟩,
  ⟨0x104, 31, 0, .rw, 0, false, .hi, []⟩,
  ⟨0x108, 9, 0, .ro, 0, false, .none, []⟩,
  ⟨0x10C, 9, 0, .rw, 0, false, .none, []⟩,
  ⟨0x110, 31, 0, .rc, 0, false, .none, []⟩,
  ⟨0x114, 0, 0, .w1c, 0, false, .none, []⟩,
  ⟨0x114, 1, 1, .w1c, 0, false, .none, []⟩,
  ⟨0x118, 31, 0, .rw, 0, false, .none, []⟩,
  ⟨0x11C, 31, 0, .rw, 0, false, .none, []⟩,
  ⟨0x120, 31, 0, .rw, 0, false, .none, []⟩,
  ⟨0x124, 0, 0, .rw, 0, false, .none, []⟩,
  ⟨0x800, 31, 0, .wo, 0, false, .none, [(4, 3)]⟩]

/-- The block registers of Table TCK-14 (R156): SENS_VALUE, SENS_STALE, FACET_TEMP, LKT_THROTTLE, THERM_WARN_FACET, THERM_WARN_CROWN, THERM_STAT_FACET_CRIT, THERM_STAT_CROWN_CRIT, THERM_STAT_HBM_LIMIT, THROTTLE_TEST. -/
def bzThermRows : List Row := [
  ⟨0x100, 15, 0, .ro, 0, false, .none, [(4, 64)]⟩,
  ⟨0x100, 16, 16, .ro, 0, false, .none, [(4, 64)]⟩,
  ⟨0x200, 31, 0, .ro, 0, false, .none, []⟩,
  ⟨0x204, 7, 0, .ro, 0, false, .none, []⟩,
  ⟨0x208, 7, 0, .rw, 90, false, .none, []⟩,
  ⟨0x208, 15, 8, .rw, 95, false, .none, []⟩,
  ⟨0x20C, 3, 0, .w1c, 0, false, .none, []⟩,
  ⟨0x20C, 4, 4, .w1c, 0, false, .none, []⟩,
  ⟨0x20C, 11, 8, .ro, 0, false, .none, []⟩,
  ⟨0x800, 7, 0, .rwx, 0, false, .none, []⟩]

/-- The block registers of Table CLS-9 (R235): LINK_CFG_MODE, LINK_CFG_FORCED, LINK_CFG_MODULES, LINK_STAT_STATE, LINK_STAT_FAIL_CAUSE, LINK_STAT_FAIL_LANE, LINK_STAT_REPLAY_WIN, TXN_TIMEOUT, REPLAY_CNT, CRC_ERR_CNT, TIMEOUT_CNT, LATE_RSP_CNT, PROTO_ERR_CNT, WIN_ERR_CNT, DRAIN_LOST, FATAL_TICK_LO, FATAL_TICK_HI, TX_BYTES_LO, TX_BYTES_HI, RX_BYTES_LO, RX_BYTES_HI, CAP_BLOCK, CAP_STAT_NEG_STATE, CAP_STAT_REJECT_CODE, GMAP_BASE_LO, GMAP_BASE_HI, GMAP_SIZE, GMAP_CTRL_EN, GMAP_CTRL_WR, MODE_FORCE, INJ_CRC, INJ_RSP_DROP, REPLAY_BUDGET_COUNT, REPLAY_BUDGET_WINDOW, LANE_BURST_ERR, RETRAIN. -/
def clLinkRows : List Row := [
  ⟨0x100, 0, 0, .ro, 0, false, .none, []⟩,
  ⟨0x100, 1, 1, .ro, 0, false, .none, []⟩,
  ⟨0x100, 4, 2, .ro, 0, false, .none, []⟩,
  ⟨0x104, 2, 0, .ro, 0, false, .none, []⟩,
  ⟨0x104, 7, 4, .ro, 0, false, .none, []⟩,
  ⟨0x104, 16, 8, .ro, 511, false, .none, []⟩,
  ⟨0x104, 31, 24, .ro, 0, false, .none, []⟩,
  ⟨0x108, 15, 0, .rw, 50, false, .none, []⟩,
  ⟨0x10C, 31, 0, .rc, 0, false, .none, []⟩,
  ⟨0x110, 31, 0, .rc, 0, false, .none, []⟩,
  ⟨0x114, 31, 0, .rc, 0, false, .none, []⟩,
  ⟨0x118, 31, 0, .rc, 0, false, .none, []⟩,
  ⟨0x11C, 31, 0, .rc, 0, false, .none, []⟩,
  ⟨0x120, 31, 0, .rc, 0, false, .none, []⟩,
  ⟨0x124, 31, 0, .rc, 0, false, .none, []⟩,
  ⟨0x128, 31, 0, .ro, 0, false, .lo, []⟩,
  ⟨0x12C, 31, 0, .ro, 0, false, .hi, []⟩,
  ⟨0x130, 31, 0, .ro, 0, false, .lo, []⟩,
  ⟨0x134, 31, 0, .ro, 0, false, .hi, []⟩,
  ⟨0x138, 31, 0, .ro, 0, false, .lo, []⟩,
  ⟨0x13C, 31, 0, .ro, 0, false, .hi, []⟩,
  ⟨0x180, 31, 0, .ro, 0, false, .none, [(4, 16)]⟩,
  ⟨0x1C0, 1, 0, .ro, 0, false, .none, []⟩,
  ⟨0x1C0, 15, 8, .ro, 0, false, .none, []⟩,
  ⟨0x200, 31, 0, .rw, 0, false, .lo, [(16, 8)]⟩,
  ⟨0x204, 31, 0, .rw, 0, false, .hi, [(16, 8)]⟩,
  ⟨0x208, 15, 0, .rw, 0, false, .none, [(16, 8)]⟩,
  ⟨0x20C, 0, 0, .rw, 0, false, .none, [(16, 8)]⟩,
  ⟨0x20C, 1, 1, .rw, 0, false, .none, [(16, 8)]⟩,
  ⟨0x800, 0, 0, .rwx, 0, false, .none, []⟩,
  ⟨0x804, 7, 0, .rwx, 0, false, .none, []⟩,
  ⟨0x808, 0, 0, .rwx, 0, false, .none, []⟩,
  ⟨0x80C, 3, 0, .ro, 8, false, .none, []⟩,
  ⟨0x80C, 11, 8, .ro, 4, false, .none, []⟩,
  ⟨0x810, 31, 0, .rc, 0, false, .none, [(4, 4)]⟩,
  ⟨0x820, 0, 0, .wo, 0, false, .none, []⟩]

/-- The block registers of Table CLS-10 (R236): TEST_CTRL_LINK, TEST_CTRL_START, TEST_CTRL_DURATION, TEST_STAT_BUSY, TEST_STAT_RESULT, TEST_STAT_ERR_LANES, TEST_LANE_MAP. -/
def clTestRows : List Row := [
  ⟨0x100, 2, 0, .rwx, 0, false, .none, []⟩,
  ⟨0x100, 8, 8, .wo, 0, false, .none, []⟩,
  ⟨0x100, 31, 16, .rwx, 100, false, .none, []⟩,
  ⟨0x104, 0, 0, .ro, 0, false, .none, []⟩,
  ⟨0x104, 2, 1, .ro, 0, false, .none, []⟩,
  ⟨0x104, 16, 8, .ro, 0, false, .none, []⟩,
  ⟨0x108, 31, 0, .ro, 0, false, .none, [(4, 8)]⟩]

/-- The block registers of Table CK-7 (R276): CK_CAP_SLOTS, CK_CAP_KEEP, T1_CAPACITY, SCRUB_CTRL_EN, SCRUB_PASSES, TILE_CHECK_EN, CHECK_ERR_CNT, INJ_ECC, ARB_STARVE. -/
def ckCtrlRows : List Row := [
  ⟨0x100, 15, 0, .ro, 8192, false, .none, []⟩,
  ⟨0x100, 31, 16, .ro, 512, false, .none, []⟩,
  ⟨0x104, 15, 0, .ro, 7680, false, .none, []⟩,
  ⟨0x108, 0, 0, .rw, 0, false, .none, []⟩,
  ⟨0x10C, 31, 0, .ro, 0, false, .none, []⟩,
  ⟨0x110, 0, 0, .rw, 1, false, .none, []⟩,
  ⟨0x114, 31, 0, .rc, 0, false, .none, []⟩,
  ⟨0x800, 1, 0, .rwx, 0, false, .none, []⟩,
  ⟨0x804, 15, 0, .rwx, 64, false, .none, []⟩]

/-- The block registers of Table CK-8 (R277): Q_USED, RD_BYTES_LO, RD_BYTES_HI, WR_BYTES_LO, WR_BYTES_HI, XBAR_IN_LO, XBAR_IN_HI, STARVE_CNT. -/
def ckQRows : List Row := [
  ⟨0x100, 11, 0, .ro, 0, false, .none, []⟩,
  ⟨0x108, 31, 0, .ro, 0, false, .lo, []⟩,
  ⟨0x10C, 31, 0, .ro, 0, false, .hi, []⟩,
  ⟨0x110, 31, 0, .ro, 0, false, .lo, []⟩,
  ⟨0x114, 31, 0, .ro, 0, false, .hi, []⟩,
  ⟨0x118, 31, 0, .ro, 0, false, .lo, []⟩,
  ⟨0x11C, 31, 0, .ro, 0, false, .hi, []⟩,
  ⟨0x120, 31, 0, .rc, 0, false, .none, []⟩]

/-- The block registers of Table CK-9 (R278): LATE_T2, LATE_T3, LATE_T4, LATE_T5, LOCKET_LEND_EN, LOCKET_LENT, LEND_T2_TILES, LEND_RECLAIM, LATE_CNT, FAILED_CNT, NOTICE_TICK_LO, NOTICE_TICK_HI, BORROW_STATE. -/
def ckTierRows : List Row := [
  ⟨0x100, 15, 0, .rw, 20, false, .none, []⟩,
  ⟨0x104, 15, 0, .rw, 400, false, .none, []⟩,
  ⟨0x108, 15, 0, .rw, 200, false, .none, []⟩,
  ⟨0x10C, 15, 0, .rw, 2000, false, .none, []⟩,
  ⟨0x110, 3, 0, .rw, 0, false, .none, []⟩,
  ⟨0x110, 11, 8, .ro, 0, false, .none, []⟩,
  ⟨0x114, 23, 0, .rw, 0, false, .none, []⟩,
  ⟨0x118, 0, 0, .wo, 0, false, .none, []⟩,
  ⟨0x11C, 31, 0, .rc, 0, false, .none, []⟩,
  ⟨0x120, 31, 0, .rc, 0, false, .none, []⟩,
  ⟨0x128, 31, 0, .ro, 0, false, .lo, []⟩,
  ⟨0x12C, 31, 0, .ro, 0, false, .hi, []⟩,
  ⟨0x140, 31, 0, .ro, 0, false, .none, [(4, 4)]⟩]

/-- The block registers of Table CK-10 (R279): QUOTA_T0, QUOTA_T1, QUOTA_T2, PLACE_MODE, USED_T1, BORROW_T1, USED_T2, POOL_T1_SIZE, POOL_T1_USED, POOL_T2_SIZE, POOL_T2_USED, QUOTA_STAT_OVERCOMMIT, QUOTA_STAT_WS, EVICT_CNT, LOST_CNT, ADDR_VIS_LO, ADDR_VIS_HI. -/
def ckQuotaRows : List Row := [
  ⟨0x100, 15, 0, .rw, 0, false, .none, [(16, 64)]⟩,
  ⟨0x100, 31, 16, .rw, 0, false, .none, [(16, 64)]⟩,
  ⟨0x104, 23, 0, .rw, 0, false, .none, [(16, 64)]⟩,
  ⟨0x104, 24, 24, .rw, 0, false, .none, [(16, 64)]⟩,
  ⟨0x108, 15, 0, .ro, 0, false, .none, [(16, 64)]⟩,
  ⟨0x108, 31, 16, .ro, 0, false, .none, [(16, 64)]⟩,
  ⟨0x10C, 23, 0, .ro, 0, false, .none, [(16, 64)]⟩,
  ⟨0x500, 15, 0, .ro, 7680, false, .none, []⟩,
  ⟨0x500, 31, 16, .ro, 0, false, .none, []⟩,
  ⟨0x504, 23, 0, .ro, 3145728, false, .none, []⟩,
  ⟨0x508, 23, 0, .ro, 0, false, .none, []⟩,
  ⟨0x50C, 0, 0, .w1c, 0, false, .none, []⟩,
  ⟨0x50C, 13, 8, .ro, 0, false, .none, []⟩,
  ⟨0x510, 31, 0, .rc, 0, false, .none, []⟩,
  ⟨0x514, 31, 0, .rc, 0, false, .none, []⟩,
  ⟨0x800, 31, 0, .rwx, 0, false, .none, []⟩,
  ⟨0x804, 31, 0, .rwx, 0, false, .none, []⟩]

/-- The block registers of Table CK-11 (R280): PORT_STAT_WS, PORT_STAT_CLASS, PORT_STAT_BOUND, PORT_STAT_QUAD, PORT_STAT_RESHARD. -/
def ckStreamRows : List Row := [
  ⟨0x100, 5, 0, .ro, 0, false, .none, [(4, 64)]⟩,
  ⟨0x100, 9, 8, .ro, 0, false, .none, [(4, 64)]⟩,
  ⟨0x100, 12, 12, .ro, 0, false, .none, [(4, 64)]⟩,
  ⟨0x100, 17, 16, .ro, 0, false, .none, [(4, 64)]⟩,
  ⟨0x100, 24, 24, .ro, 0, false, .none, [(4, 64)]⟩]

/-- The block registers of Table CK-12 (R281): RSD_BASE_LO, RSD_BASE_HI, RSD_COUNT, RSD_STAT_BAD, RSD_STAT_BAD_ID, RESHARD_TILES. -/
def ckReshardRows : List Row := [
  ⟨0x100, 31, 0, .rw, 0, false, .lo, []⟩,
  ⟨0x104, 31, 0, .rw, 0, false, .hi, []⟩,
  ⟨0x108, 8, 0, .rw, 0, false, .none, []⟩,
  ⟨0x10C, 0, 0, .w1c, 0, false, .none, []⟩,
  ⟨0x10C, 15, 8, .ro, 0, false, .none, []⟩,
  ⟨0x110, 31, 0, .rc, 0, false, .none, []⟩]

/-- The block registers of Table CK-13 (R282): HBM_STAT_TRAINED, HBM_STAT_SELF_REFRESH, HBM_STAT_BW_LIMITED, HBM_STAT_REFRESH_2X, HBM_STAT_ZEROING, PATROL_CTRL_EN, PATROL_PASSES, RD_BYTES_LO, RD_BYTES_HI, WR_BYTES_LO, WR_BYTES_HI, INJ_ECC. -/
def hbmRows : List Row := [
  ⟨0x100, 0, 0, .ro, 0, false, .none, []⟩,
  ⟨0x100, 1, 1, .ro, 0, false, .none, []⟩,
  ⟨0x100, 2, 2, .ro, 0, false, .none, []⟩,
  ⟨0x100, 3, 3, .ro, 0, false, .none, []⟩,
  ⟨0x100, 4, 4, .ro, 0, false, .none, []⟩,
  ⟨0x104, 0, 0, .rw, 0, false, .none, []⟩,
  ⟨0x108, 31, 0, .ro, 0, false, .none, []⟩,
  ⟨0x110, 31, 0, .ro, 0, false, .lo, []⟩,
  ⟨0x114, 31, 0, .ro, 0, false, .hi, []⟩,
  ⟨0x118, 31, 0, .ro, 0, false, .lo, []⟩,
  ⟨0x11C, 31, 0, .ro, 0, false, .hi, []⟩,
  ⟨0x800, 1, 0, .rwx, 0, false, .none, []⟩]

/-- The block registers of Table WK-7 (R318): SCHED_CTRL_ADMIT_EN, HORIZON, LEARN_MAX_AGE, SHARE_SUM_A_FRAME, SHARE_SUM_A_MAP, SHARE_SUM_B_LEARN, SHARE_SUM_B_BULK, SHARE_STAT_OVERCOMMIT, SHARE_STAT_WS, ADMIT_CNT, DEFER_CNT, REFUSE_CNT, LATE_CNT, PREEMPT_CNT, PREEMPT_MAX_LAT, UNIT_STAT_CLAIM, UNIT_STAT_OUT, AUDIT_MISMATCH_CNT, AUDIT_LAST_PAGE, AUDIT_FENCE_CNT, AUDIT_INJ_PAGE, AUDIT_INJ_EN, AUDIT_DIS. -/
def wkSchedRows : List Row := [
  ⟨0x100, 0, 0, .rw, 1, false, .none, []⟩,
  ⟨0x104, 23, 0, .rw, 40000, false, .none, []⟩,
  ⟨0x108, 23, 0, .rw, 200000, false, .none, []⟩,
  ⟨0x110, 9, 0, .ro, 0, false, .none, []⟩,
  ⟨0x110, 25, 16, .ro, 0, false, .none, []⟩,
  ⟨0x114, 9, 0, .ro, 0, false, .none, []⟩,
  ⟨0x114, 25, 16, .ro, 0, false, .none, []⟩,
  ⟨0x118, 0, 0, .w1c, 0, false, .none, []⟩,
  ⟨0x118, 13, 8, .ro, 0, false, .none, []⟩,
  ⟨0x120, 31, 0, .rc, 0, false, .none, [(16, 4)]⟩,
  ⟨0x124, 31, 0, .rc, 0, false, .none, [(16, 4)]⟩,
  ⟨0x128, 31, 0, .rc, 0, false, .none, [(16, 4)]⟩,
  ⟨0x12C, 31, 0, .rc, 0, false, .none, [(16, 4)]⟩,
  ⟨0x160, 31, 0, .rc, 0, false, .none, []⟩,
  ⟨0x164, 4, 0, .rc, 0, false, .none, []⟩,
  ⟨0x180, 9, 0, .ro, 0, false, .none, [(4, 17)]⟩,
  ⟨0x180, 12, 12, .ro, 0, false, .none, [(4, 17)]⟩,
  ⟨0x200, 31, 0, .rc, 0, false, .none, []⟩,
  ⟨0x204, 9, 0, .ro, 0, false, .none, []⟩,
  ⟨0x208, 31, 0, .rc, 0, false, .none, []⟩,
  ⟨0x800, 9, 0, .rwx, 0, false, .none, []⟩,
  ⟨0x800, 16, 16, .rwx, 0, false, .none, []⟩,
  ⟨0x804, 0, 0, .rwx, 0, false, .none, []⟩]

/-- The block registers of Table WK-8 (R319): RING_BASE_LO, RING_BASE_HI, RING_CFG_LOG2, RING_CFG_LOC, RING_CFG_STOPPED, RING_HEAD, RING_TAIL, CANCEL, WITHDRAWN, DB_ERR_CNT, CPL_BASE_LO, CPL_BASE_HI, CPL_CFG_LOG2, CPL_CFG_LOC, CPL_CFG_IRQ_EN, CPL_CFG_MODERATE, CPL_WR_IDX, CPL_RD_IDX, CPL_STAT_FULL, CPL_STAT_HELD, CPL_STAT_SHADOW_BAD, CPL_STAT_PREEMPT_DROPPED, SHARE, GRANT_BASE_LO, GRANT_BASE_HI, GRANT_SIZE, GRANT_CTRL_EN, GRANT_CTRL_WR, WS_STAT_PENDING, WS_STAT_INFLIGHT, BAR2_ERR_CNT, CPL_SHADOW_BASE_LO, CPL_SHADOW_BASE_HI. -/
def wsRows : List Row := [
  ⟨0x100, 31, 0, .rw, 0, false, .lo, [(16, 4)]⟩,
  ⟨0x104, 31, 0, .rw, 0, false, .hi, [(16, 4)]⟩,
  ⟨0x108, 3, 0, .rw, 4, false, .none, [(16, 4)]⟩,
  ⟨0x108, 8, 8, .rw, 0, false, .none, [(16, 4)]⟩,
  ⟨0x108, 9, 9, .w1c, 0, false, .none, [(16, 4)]⟩,
  ⟨0x10C, 11, 0, .ro, 0, false, .none, [(16, 4)]⟩,
  ⟨0x140, 11, 0, .rw, 0, false, .none, [(4, 4)]⟩,
  ⟨0x150, 3, 0, .wo, 0, false, .none, []⟩,
  ⟨0x154, 31, 0, .rc, 0, false, .none, []⟩,
  ⟨0x158, 31, 0, .rc, 0, false, .none, []⟩,
  ⟨0x160, 31, 0, .rw, 0, false, .lo, []⟩,
  ⟨0x164, 31, 0, .rw, 0, false, .hi, []⟩,
  ⟨0x168, 3, 0, .rw, 4, false, .none, []⟩,
  ⟨0x168, 8, 8, .rw, 0, false, .none, []⟩,
  ⟨0x168, 9, 9, .rw, 0, false, .none, []⟩,
  ⟨0x168, 31, 16, .rw, 0, false, .none, []⟩,
  ⟨0x16C, 13, 0, .ro, 0, false, .none, []⟩,
  ⟨0x170, 13, 0, .rw, 0, false, .none, []⟩,
  ⟨0x174, 0, 0, .w1c, 0, false, .none, []⟩,
  ⟨0x174, 1, 1, .ro, 0, false, .none, []⟩,
  ⟨0x174, 2, 2, .w1c, 0, false, .none, []⟩,
  ⟨0x178, 31, 0, .rc, 0, false, .none, []⟩,
  ⟨0x180, 9, 0, .rw, 0, true, .none, [(4, 4)]⟩,
  ⟨0x190, 31, 0, .rw, 0, true, .lo, [(16, 4)]⟩,
  ⟨0x194, 31, 0, .rw, 0, true, .hi, [(16, 4)]⟩,
  ⟨0x198, 11, 0, .rw, 0, true, .none, [(16, 4)]⟩,
  ⟨0x19C, 0, 0, .rw, 0, true, .none, [(16, 4)]⟩,
  ⟨0x19C, 1, 1, .rw, 0, true, .none, [(16, 4)]⟩,
  ⟨0x1D0, 15, 0, .ro, 0, false, .none, []⟩,
  ⟨0x1D0, 31, 16, .ro, 0, false, .none, []⟩,
  ⟨0x1D4, 31, 0, .rc, 0, false, .none, []⟩,
  ⟨0x1D8, 31, 0, .rw, 0, false, .lo, []⟩,
  ⟨0x1DC, 31, 0, .rw, 0, false, .hi, []⟩]

/-- The block registers of Table FCT-7 (R357): FCT_ID_POSITION, TC_EN, TC_OUT, TC_AVAIL, VC_PAIRED, OP, T0_FREE, TC_STRIKE_MAX. -/
def fct0Rows : List Row := [
  ⟨0x100, 1, 0, .ro, 0, false, .none, []⟩,
  ⟨0x104, 7, 0, .rwx, 255, false, .none, []⟩,
  ⟨0x108, 7, 0, .ro, 0, false, .none, []⟩,
  ⟨0x10C, 3, 0, .ro, 8, false, .none, []⟩,
  ⟨0x10C, 8, 8, .ro, 0, false, .none, []⟩,
  ⟨0x110, 3, 0, .ro, 0, false, .none, []⟩,
  ⟨0x114, 11, 0, .ro, 2048, false, .none, []⟩,
  ⟨0x800, 3, 0, .rwx, 4, false, .none, []⟩]

/-- The block registers of Table FCT-8 (R357): TC_STRIKES, ABFT_TILES_LO, ABFT_TILES_HI, ABFT_RECOMP, ABFT_FAIL, NONFINITE_TILES, SAT_CNT, ABFT_LAST_ROW, ABFT_LAST_COL, ABFT_LAST_CORE, ABFT_TOL, ABFT_DIS. -/
def fct1Rows : List Row := [
  ⟨0x100, 3, 0, .ro, 0, false, .none, [(4, 8)]⟩,
  ⟨0x120, 31, 0, .ro, 0, false, .lo, []⟩,
  ⟨0x124, 31, 0, .ro, 0, false, .hi, []⟩,
  ⟨0x128, 31, 0, .rc, 0, false, .none, []⟩,
  ⟨0x12C, 31, 0, .rc, 0, false, .none, []⟩,
  ⟨0x130, 31, 0, .rc, 0, false, .none, []⟩,
  ⟨0x134, 31, 0, .rc, 0, false, .none, []⟩,
  ⟨0x138, 7, 0, .ro, 0, false, .none, []⟩,
  ⟨0x138, 15, 8, .ro, 0, false, .none, []⟩,
  ⟨0x138, 18, 16, .ro, 0, false, .none, []⟩,
  ⟨0x800, 4, 0, .rwx, 12, false, .none, []⟩,
  ⟨0x804, 0, 0, .rwx, 0, false, .none, []⟩]

/-- The block registers of Table FCT-9 (R357): VC_PAIR_MISMATCH, VC_BUSY_LO, VC_BUSY_HI. -/
def fct2Rows : List Row := [
  ⟨0x100, 31, 0, .rc, 0, false, .none, []⟩,
  ⟨0x104, 31, 0, .ro, 0, false, .lo, []⟩,
  ⟨0x108, 31, 0, .ro, 0, false, .hi, []⟩]

/-- The block registers of Table FCT-10 (R357): USED_T0, PINNED_T0, LKT_LEVEL, LKT_LENT, INJ_ECC. -/
def fct3Rows : List Row := [
  ⟨0x100, 11, 0, .ro, 0, false, .none, [(4, 64)]⟩,
  ⟨0x100, 27, 16, .ro, 0, false, .none, [(4, 64)]⟩,
  ⟨0x200, 1, 0, .ro, 0, false, .none, []⟩,
  ⟨0x200, 8, 8, .ro, 0, false, .none, []⟩,
  ⟨0x800, 1, 0, .rwx, 0, false, .none, []⟩]

/-- The block registers of Table FCT-11 (R357): RING_UP, XCHG_STEPS, XCHG_WAIT. -/
def fct4Rows : List Row := [
  ⟨0x100, 3, 0, .ro, 0, false, .none, []⟩,
  ⟨0x104, 31, 0, .rc, 0, false, .none, []⟩,
  ⟨0x108, 31, 0, .rc, 0, false, .none, []⟩]

/-- The block registers of Table FCT-12 (R357): MAC_CYC_LO, MAC_CYC_HI, AVAIL_CYC_LO, AVAIL_CYC_HI. -/
def fct5Rows : List Row := [
  ⟨0x100, 31, 0, .ro, 0, false, .lo, [(8, 4)]⟩,
  ⟨0x104, 31, 0, .ro, 0, false, .hi, [(8, 4)]⟩,
  ⟨0x120, 31, 0, .ro, 0, false, .lo, []⟩,
  ⟨0x124, 31, 0, .ro, 0, false, .hi, []⟩]

/-- The block registers of Table FCT-13 (R357): INJ_TC_CORE, INJ_TC_EN, INJ_TC_BOTH, INJ_VC_CORE, INJ_VC_EN. -/
def fct6Rows : List Row := [
  ⟨0x800, 2, 0, .rwx, 0, false, .none, []⟩,
  ⟨0x800, 8, 8, .rwx, 0, false, .none, []⟩,
  ⟨0x800, 9, 9, .rwx, 0, false, .none, []⟩,
  ⟨0x804, 1, 0, .rwx, 0, false, .none, []⟩,
  ⟨0x804, 8, 8, .rwx, 0, false, .none, []⟩]

/-- The block registers of Table MAP-7 (R396): LOOKUP_CNT_LO, LOOKUP_CNT_HI, HIT_CNT_LO, HIT_CNT_HI, UPDATE_CNT, UPD_DROP_CNT, SHADOW_WAIT, BAD_ROW_CNT, REMOTE_LATE, ROUND_NUM_LO, ROUND_NUM_HI, ROUNDS_OPEN, REISSUE_CNT, PEER_SERVED_CNT, MERGE_USED, MERGE_WAIT, SR_SEED, SHADOW_FREE, ROUND_TICKS, ROUND_BATCH, INJ_ECC. -/
def gseRows : List Row := [
  ⟨0x100, 31, 0, .ro, 0, false, .lo, []⟩,
  ⟨0x104, 31, 0, .ro, 0, false, .hi, []⟩,
  ⟨0x108, 31, 0, .ro, 0, false, .lo, []⟩,
  ⟨0x10C, 31, 0, .ro, 0, false, .hi, []⟩,
  ⟨0x110, 31, 0, .rc, 0, false, .none, []⟩,
  ⟨0x114, 31, 0, .rc, 0, false, .none, []⟩,
  ⟨0x118, 31, 0, .rc, 0, false, .none, []⟩,
  ⟨0x11C, 31, 0, .rc, 0, false, .none, []⟩,
  ⟨0x120, 15, 0, .rw, 400, false, .none, []⟩,
  ⟨0x128, 31, 0, .ro, 0, false, .lo, []⟩,
  ⟨0x12C, 31, 0, .ro, 0, false, .hi, []⟩,
  ⟨0x130, 2, 0, .ro, 0, false, .none, []⟩,
  ⟨0x134, 31, 0, .rc, 0, false, .none, []⟩,
  ⟨0x138, 31, 0, .rc, 0, false, .none, []⟩,
  ⟨0x13C, 16, 0, .ro, 0, false, .none, []⟩,
  ⟨0x140, 31, 0, .rc, 0, false, .none, []⟩,
  ⟨0x144, 31, 0, .rw, 1, false, .none, []⟩,
  ⟨0x148, 23, 0, .ro, 0, false, .none, []⟩,
  ⟨0x800, 7, 0, .rwx, 20, false, .none, []⟩,
  ⟨0x804, 12, 0, .rwx, 4096, false, .none, []⟩,
  ⟨0x808, 1, 0, .rwx, 0, false, .none, []⟩]

/-- The block registers of Table MAP-8 (R397): DIR_BASE_LO, DIR_BASE_HI, TBL_CMD_TABLE, TBL_CMD_ACT, TBL_CMD_DEACT, TBL_CMD_STAT_RESULT, TBL_CMD_STAT_TABLE, TBL_CMD_STAT_REASON, ACTIVE, EPOCH. -/
def mapDirRows : List Row := [
  ⟨0x100, 31, 0, .rw, 0, false, .lo, []⟩,
  ⟨0x104, 31, 0, .rw, 0, false, .hi, []⟩,
  ⟨0x108, 7, 0, .wo, 0, false, .none, []⟩,
  ⟨0x108, 8, 8, .wo, 0, false, .none, []⟩,
  ⟨0x108, 9, 9, .wo, 0, false, .none, []⟩,
  ⟨0x10C, 1, 0, .ro, 0, false, .none, []⟩,
  ⟨0x10C, 15, 8, .ro, 0, false, .none, []⟩,
  ⟨0x10C, 23, 16, .ro, 0, false, .none, []⟩,
  ⟨0x110, 31, 0, .ro, 0, false, .none, [(4, 8)]⟩,
  ⟨0x130, 31, 0, .ro, 0, false, .none, []⟩]

/-- The block registers of Table MAP-9 (R398): RC_SIZE, RC_ALLOC, ADMIT_CNT, BYPASS_CNT, EVICT_CNT, WRITEBACK_CNT, SKETCH_ACC, HALVINGS, SKETCH_CLEAR, PEEK_TABLE, PEEK_ROW, PEEK_EST. -/
def rowCacheRows : List Row := [
  ⟨0x100, 12, 0, .rw, 0, false, .none, []⟩,
  ⟨0x104, 12, 0, .ro, 0, false, .none, []⟩,
  ⟨0x108, 31, 0, .rc, 0, false, .none, []⟩,
  ⟨0x10C, 31, 0, .rc, 0, false, .none, []⟩,
  ⟨0x110, 31, 0, .rc, 0, false, .none, []⟩,
  ⟨0x114, 31, 0, .rc, 0, false, .none, []⟩,
  ⟨0x118, 19, 0, .ro, 0, false, .none, []⟩,
  ⟨0x11C, 31, 0, .rc, 0, false, .none, []⟩,
  ⟨0x800, 0, 0, .wo, 0, false, .none, []⟩,
  ⟨0x804, 7, 0, .rwx, 0, false, .none, []⟩,
  ⟨0x808, 31, 0, .rwx, 0, false, .none, []⟩,
  ⟨0x80C, 3, 0, .ro, 0, false, .none, []⟩]

/-- The block registers of Table LP-9 (R439): IDX_BASE_LO, IDX_BASE_HI, IDX_CMD_INDEX, IDX_CMD_ACT, IDX_CMD_DEACT, IDX_CMD_STAT_RESULT, IDX_CMD_STAT_INDEX, IDX_CMD_STAT_REASON, IDX_ACTIVE_LO, IDX_ACTIVE_HI, CTX_BUSY, RSV_FRAME, QUERY_CNT_LO, QUERY_CNT_HI, DIST_CNT_LO, DIST_CNT_HI, BUDGET_STOP_CNT, VISIT_SAT_CNT, BAD_NBR_CNT, NAN_DIST_CNT, BATCH_WINDOW, BATCH_MAX, SHARD_MISS_CNT, PEER_WS, PEER_SERVED_CNT, PEER_REFUSED_CNT, PAIR_MISMATCH, LANE_BUSY, INJ_ECC, INJ_LANE_LANE, INJ_LANE_EN. -/
def lpRows : List Row := [
  ⟨0x100, 31, 0, .rw, 0, false, .lo, []⟩,
  ⟨0x104, 31, 0, .rw, 0, false, .hi, []⟩,
  ⟨0x108, 5, 0, .wo, 0, false, .none, []⟩,
  ⟨0x108, 8, 8, .wo, 0, false, .none, []⟩,
  ⟨0x108, 9, 9, .wo, 0, false, .none, []⟩,
  ⟨0x10C, 1, 0, .ro, 0, false, .none, []⟩,
  ⟨0x10C, 13, 8, .ro, 0, false, .none, []⟩,
  ⟨0x10C, 23, 16, .ro, 0, false, .none, []⟩,
  ⟨0x110, 31, 0, .ro, 0, false, .none, []⟩,
  ⟨0x114, 31, 0, .ro, 0, false, .none, []⟩,
  ⟨0x118, 10, 0, .ro, 0, false, .none, []⟩,
  ⟨0x11C, 10, 0, .rw, 128, false, .none, []⟩,
  ⟨0x120, 31, 0, .ro, 0, false, .lo, []⟩,
  ⟨0x124, 31, 0, .ro, 0, false, .hi, []⟩,
  ⟨0x128, 31, 0, .ro, 0, false, .lo, []⟩,
  ⟨0x12C, 31, 0, .ro, 0, false, .hi, []⟩,
  ⟨0x130, 31, 0, .rc, 0, false, .none, []⟩,
  ⟨0x134, 31, 0, .rc, 0, false, .none, []⟩,
  ⟨0x138, 31, 0, .rc, 0, false, .none, []⟩,
  ⟨0x13C, 31, 0, .rc, 0, false, .none, []⟩,
  ⟨0x140, 15, 0, .rw, 8, false, .none, []⟩,
  ⟨0x144, 10, 0, .rw, 256, false, .none, []⟩,
  ⟨0x148, 31, 0, .rc, 0, false, .none, []⟩,
  ⟨0x14C, 5, 0, .rw, 0, false, .none, []⟩,
  ⟨0x150, 31, 0, .rc, 0, false, .none, []⟩,
  ⟨0x154, 31, 0, .rc, 0, false, .none, []⟩,
  ⟨0x158, 31, 0, .rc, 0, false, .none, []⟩,
  ⟨0x15C, 31, 0, .rc, 0, false, .none, []⟩,
  ⟨0x800, 1, 0, .rwx, 0, false, .none, []⟩,
  ⟨0x804, 3, 0, .rwx, 0, false, .none, []⟩,
  ⟨0x804, 8, 8, .rwx, 0, false, .none, []⟩]

/-- The block registers of Table ISE-7 (R470): SOLVE_CNT_LO, SOLVE_CNT_HI, ITER_CNT, CONV_CNT, CAP_CNT, NAN_CNT, PIVOT_CNT, RESTART_CNT, RECHECK_CNT, LAST_PIVOT_ROW, LAST_STATUS_CAUSE, LAST_STATUS_STOP, RECHECK_TICKS, RECHECK_BITS, RECHECK_FAULT_CNT, INPUT_CHANGED_CNT, SHIFT_CTRL_EN, SHIFT_CTRL_SHIFT_E0, SHIFT_CTRL_SHIFT_STEP, SHIFT_CTRL_SHIFT_MAX, SHIFT_CNT, RECHECK_DIS, INJ_ECC, INJ_RECHECK_EN. -/
def iseRows : List Row := [
  ⟨0x100, 31, 0, .ro, 0, false, .lo, []⟩,
  ⟨0x104, 31, 0, .ro, 0, false, .hi, []⟩,
  ⟨0x108, 31, 0, .rc, 0, false, .none, []⟩,
  ⟨0x10C, 31, 0, .rc, 0, false, .none, []⟩,
  ⟨0x110, 31, 0, .rc, 0, false, .none, []⟩,
  ⟨0x114, 31, 0, .rc, 0, false, .none, []⟩,
  ⟨0x118, 31, 0, .rc, 0, false, .none, []⟩,
  ⟨0x11C, 31, 0, .rc, 0, false, .none, []⟩,
  ⟨0x120, 31, 0, .rc, 0, false, .none, []⟩,
  ⟨0x124, 31, 0, .ro, 4294967295, false, .none, []⟩,
  ⟨0x128, 7, 0, .ro, 0, false, .none, []⟩,
  ⟨0x128, 10, 8, .ro, 0, false, .none, []⟩,
  ⟨0x12C, 15, 0, .rw, 2000, false, .none, []⟩,
  ⟨0x130, 4, 0, .rw, 10, false, .none, []⟩,
  ⟨0x134, 31, 0, .rc, 0, false, .none, []⟩,
  ⟨0x138, 31, 0, .rc, 0, false, .none, []⟩,
  ⟨0x800, 0, 0, .rwx, 0, false, .none, []⟩,
  ⟨0x800, 12, 8, .rwx, 10, false, .none, []⟩,
  ⟨0x800, 18, 16, .rwx, 2, false, .none, []⟩,
  ⟨0x800, 27, 24, .rwx, 3, false, .none, []⟩,
  ⟨0x804, 31, 0, .rc, 0, false, .none, []⟩,
  ⟨0x808, 0, 0, .rwx, 0, false, .none, []⟩,
  ⟨0x80C, 1, 0, .rwx, 0, false, .none, []⟩,
  ⟨0x810, 0, 0, .rwx, 0, false, .none, []⟩]

/-- The block registers of Table FIL-9 (R502): OUT_BASE_LO, OUT_BASE_HI, OUT_CFG_LOG2, OUT_CFG_EN, OUT_WR_IDX, OUT_RD_IDX, OUT_STAT_OVERFLOW, OUT_STAT_BASE_BAD, OUT_LOST, OUT_MASK, CHAN_ACTIVE, SAT_CNT, FILTER_CNT, PAIR_MISMATCH, INJ_ECC, INJ_PAIR_CHANNEL, INJ_PAIR_EN. -/
def filRows : List Row := [
  ⟨0x100, 31, 0, .rw, 0, false, .lo, []⟩,
  ⟨0x104, 31, 0, .rw, 0, false, .hi, []⟩,
  ⟨0x108, 3, 0, .rw, 6, false, .none, []⟩,
  ⟨0x108, 8, 8, .rw, 0, false, .none, []⟩,
  ⟨0x10C, 14, 0, .ro, 0, false, .none, []⟩,
  ⟨0x110, 14, 0, .rw, 0, false, .none, []⟩,
  ⟨0x114, 0, 0, .w1c, 0, false, .none, []⟩,
  ⟨0x114, 1, 1, .w1c, 0, false, .none, []⟩,
  ⟨0x118, 31, 0, .rc, 0, false, .none, []⟩,
  ⟨0x11C, 23, 0, .rw, 0, false, .none, []⟩,
  ⟨0x120, 23, 0, .ro, 0, false, .none, []⟩,
  ⟨0x124, 31, 0, .rc, 0, false, .none, []⟩,
  ⟨0x128, 31, 0, .rc, 0, false, .none, []⟩,
  ⟨0x12C, 31, 0, .rc, 0, false, .none, []⟩,
  ⟨0x800, 1, 0, .rwx, 0, false, .none, []⟩,
  ⟨0x804, 4, 0, .rwx, 0, false, .none, []⟩,
  ⟨0x804, 8, 8, .rwx, 0, false, .none, []⟩]

/-- The block registers of Table FIL-10 (R503): CFG_A_EN, CFG_A_RANK_EN, CFG_A_RANK_W, CFG_A_RANK_R, CFG_A_ROM, CFG_A_CIC_ORDER, CFG_A_D_LOG2, CFG_A_RANGE, CFG_B_SHIFT, CFG_B_SPM_PORT, CFG_B_SPM_CS, CFG_C_OUT_MODE, CFG_C_FSYNC_SEL, CFG_C_M_RATE, CFG_D_SPI_RATE, COMMIT, CFG_STAT_CONFIGURED, CFG_STAT_REFUSED, CFG_STAT_REASON, CFG_STAT_SETTLE_LEFT, LAST_VALUE, LAST_RAW, LAST_FLAGS, LAST_RANGE, LAST_SAMPLE_NUM. -/
def filChRows : List Row := [
  ⟨0x100, 0, 0, .rw, 0, false, .none, [(16, 24)]⟩,
  ⟨0x100, 1, 1, .rw, 0, false, .none, [(16, 24)]⟩,
  ⟨0x100, 3, 2, .rw, 0, false, .none, [(16, 24)]⟩,
  ⟨0x100, 7, 4, .rw, 0, false, .none, [(16, 24)]⟩,
  ⟨0x100, 12, 8, .rw, 0, false, .none, [(16, 24)]⟩,
  ⟨0x100, 18, 16, .rw, 3, false, .none, [(16, 24)]⟩,
  ⟨0x100, 23, 20, .rw, 2, false, .none, [(16, 24)]⟩,
  ⟨0x100, 25, 24, .rw, 0, false, .none, [(16, 24)]⟩,
  ⟨0x104, 19, 0, .rw, 0, false, .none, [(16, 24)]⟩,
  ⟨0x104, 25, 24, .rw, 0, false, .none, [(16, 24)]⟩,
  ⟨0x104, 27, 26, .rw, 0, false, .none, [(16, 24)]⟩,
  ⟨0x108, 1, 0, .rw, 0, false, .none, [(16, 24)]⟩,
  ⟨0x108, 3, 2, .rw, 0, false, .none, [(16, 24)]⟩,
  ⟨0x108, 31, 8, .rw, 0, false, .none, [(16, 24)]⟩,
  ⟨0x10C, 23, 0, .rw, 0, false, .none, [(16, 24)]⟩,
  ⟨0x280, 23, 0, .wo, 0, false, .none, []⟩,
  ⟨0x300, 0, 0, .ro, 0, false, .none, [(4, 24)]⟩,
  ⟨0x300, 1, 1, .w1c, 0, false, .none, [(4, 24)]⟩,
  ⟨0x300, 7, 4, .ro, 0, false, .none, [(4, 24)]⟩,
  ⟨0x300, 15, 8, .ro, 0, false, .none, [(4, 24)]⟩,
  ⟨0x400, 31, 0, .ro, 0, false, .none, [(16, 24)]⟩,
  ⟨0x404, 31, 0, .ro, 0, false, .none, [(16, 24)]⟩,
  ⟨0x408, 15, 0, .ro, 0, false, .none, [(16, 24)]⟩,
  ⟨0x408, 17, 16, .ro, 0, false, .none, [(16, 24)]⟩,
  ⟨0x40C, 31, 0, .ro, 0, false, .none, [(16, 24)]⟩]

/-- The block registers of Table FIL-11 (R504): OFFSET, GAIN, SET_VALID, CAL_CMD_CHANNEL, CAL_CMD_RANGE, CAL_CMD_KIND, CAL_CMD_START, CAL_SAMPLES, CAL_REF, CAL_MEAN_TOL, CAL_VAR_MAX, CAL_GAIN_TOL, CAL_STAT_RESULT, CAL_STAT_REASON, CAL_STAT_CHANNEL, CAL_STAT_RANGE, CAL_MEAN, CAL_VAR, CAL_COLLECTED, CAL_TIMEOUT. -/
def filCalRows : List Row := [
  ⟨0x100, 31, 0, .rw, 0, false, .none, [(32, 24), (8, 4)]⟩,
  ⟨0x104, 31, 0, .rw, 1065353216, false, .none, [(32, 24), (8, 4)]⟩,
  ⟨0x400, 31, 0, .ro, 0, false, .none, [(4, 3)]⟩,
  ⟨0x410, 4, 0, .wo, 0, false, .none, []⟩,
  ⟨0x410, 9, 8, .wo, 0, false, .none, []⟩,
  ⟨0x410, 12, 12, .wo, 0, false, .none, []⟩,
  ⟨0x410, 16, 16, .wo, 0, false, .none, []⟩,
  ⟨0x414, 15, 0, .rw, 1024, false, .none, []⟩,
  ⟨0x418, 31, 0, .rw, 0, false, .none, []⟩,
  ⟨0x41C, 31, 0, .rw, 990057071, false, .none, []⟩,
  ⟨0x420, 31, 0, .rw, 897988541, false, .none, []⟩,
  ⟨0x424, 31, 0, .rw, 1028443341, false, .none, []⟩,
  ⟨0x428, 2, 0, .ro, 0, false, .none, []⟩,
  ⟨0x428, 7, 4, .ro, 0, false, .none, []⟩,
  ⟨0x428, 12, 8, .ro, 0, false, .none, []⟩,
  ⟨0x428, 17, 16, .ro, 0, false, .none, []⟩,
  ⟨0x42C, 31, 0, .ro, 0, false, .none, []⟩,
  ⟨0x430, 31, 0, .ro, 0, false, .none, []⟩,
  ⟨0x434, 15, 0, .ro, 0, false, .none, []⟩,
  ⟨0x438, 31, 0, .rw, 10000000, false, .none, []⟩]

/-- The block registers of Table HM-9 (R543): HM_NS, HM_SUBNS, HM_SEC_LO, HM_SEC_HI, HM_SNAP_TICK_LO, HM_SNAP_TICK_HI, SET_SEC_LO, SET_SEC_HI, SET_NS, SET_SUBNS, HM_CMD_CMD, HM_CMD_STAT_RESULT, HM_CMD_STAT_REASON, HM_CMD_STAT_TICK, CELL_STAT_LOCKED, CELL_STAT_SLEWING, CELL_STAT_ACTIVE, CELL_STAT_INIT, CELL_STAT_COARSE, CELL_STAT_SWITCH_CAUSE, SLEW_NS, STEP_TICK_LO, STEP_TICK_HI, HM_CTRL_AUTO_SWITCH, HM_CTRL_INIT_STEP_EN, PPS_CTRL_PPS_OUT_EN, PPS_CTRL_PPS_WIDTH, FS_CFG_MODE, FS_START_LO, FS_START_HI, FS_PERIOD, FS_WIDTH, FS_APPLY, FS_STAT_REFUSED, STAMP_NS, STAMP_SUBNS, STAMP_FLAGS, STAMP_SEC_LO, STAMP_SEC_HI, STAMP_TICK_LO. -/
def hmRows0 : List Row := [
  ⟨0x100, 29, 0, .ro, 0, false, .none, []⟩,
  ⟨0x104, 15, 0, .ro, 0, false, .none, []⟩,
  ⟨0x108, 31, 0, .ro, 0, false, .none, []⟩,
  ⟨0x10C, 31, 0, .ro, 0, false, .none, []⟩,
  ⟨0x110, 31, 0, .ro, 0, false, .none, []⟩,
  ⟨0x114, 31, 0, .ro, 0, false, .none, []⟩,
  ⟨0x120, 31, 0, .rw, 0, false, .lo, []⟩,
  ⟨0x124, 31, 0, .rw, 0, false, .hi, []⟩,
  ⟨0x128, 29, 0, .rw, 0, false, .none, []⟩,
  ⟨0x12C, 15, 0, .rw, 0, false, .none, []⟩,
  ⟨0x130, 2, 0, .wo, 0, false, .none, []⟩,
  ⟨0x134, 1, 0, .ro, 0, false, .none, []⟩,
  ⟨0x134, 7, 4, .ro, 0, false, .none, []⟩,
  ⟨0x134, 31, 16, .ro, 0, false, .none, []⟩,
  ⟨0x140, 0, 0, .ro, 0, false, .none, []⟩,
  ⟨0x140, 1, 1, .ro, 0, false, .none, []⟩,
  ⟨0x140, 2, 2, .ro, 0, false, .none, []⟩,
  ⟨0x140, 3, 3, .ro, 0, false, .none, []⟩,
  ⟨0x140, 4, 4, .ro, 1, false, .none, []⟩,
  ⟨0x140, 5, 5, .ro, 0, false, .none, []⟩,
  ⟨0x144, 31, 0, .ro, 0, false, .none, []⟩,
  ⟨0x148, 31, 0, .ro, 0, false, .lo, []⟩,
  ⟨0x14C, 31, 0, .ro, 0, false, .hi, []⟩,
  ⟨0x150, 0, 0, .rw, 1, false, .none, []⟩,
  ⟨0x150, 1, 1, .rw, 1, false, .none, []⟩,
  ⟨0x170, 0, 0, .rw, 0, false, .none, []⟩,
  ⟨0x170, 27, 8, .rw, 100000, false, .none, []⟩,
  ⟨0x180, 1, 0, .rw, 0, false, .none, [(32, 4)]⟩,
  ⟨0x184, 31, 0, .rw, 0, false, .lo, [(32, 4)]⟩,
  ⟨0x188, 31, 0, .rw, 0, false, .hi, [(32, 4)]⟩,
  ⟨0x18C, 31, 0, .rw, 0, false, .none, [(32, 4)]⟩,
  ⟨0x190, 23, 0, .rw, 0, false, .none, [(32, 4)]⟩,
  ⟨0x200, 3, 0, .wo, 0, false, .none, []⟩,
  ⟨0x204, 3, 0, .w1c, 0, false, .none, []⟩,
  ⟨0x300, 29, 0, .ro, 0, false, .none, [(32, 17)]⟩,
  ⟨0x304, 15, 0, .ro, 0, false, .none, [(32, 17)]⟩,
  ⟨0x304, 21, 16, .ro, 0, false, .none, [(32, 17)]⟩,
  ⟨0x308, 31, 0, .ro, 0, false, .none, [(32, 17)]⟩,
  ⟨0x30C, 31, 0, .ro, 0, false, .none, [(32, 17)]⟩,
  ⟨0x310, 31, 0, .ro, 0, false, .none, [(32, 17)]⟩]

/-- The block registers of Table HM-9 (R543): STAMP_TICK_HI, STAMP_OVERRUN_CNT, STAMP_SAT_CNT, LINE_DELAY, ENTRY_LAT, ROUTINE_CYC. -/
def hmRows1 : List Row := [
  ⟨0x314, 31, 0, .ro, 0, false, .none, [(32, 17)]⟩,
  ⟨0x580, 31, 0, .rc, 0, false, .none, []⟩,
  ⟨0x584, 31, 0, .rc, 0, false, .none, []⟩,
  ⟨0x800, 15, 0, .rwx, 0, false, .none, [(4, 17)]⟩,
  ⟨0x880, 7, 0, .ro, 24, false, .none, []⟩,
  ⟨0x884, 7, 0, .ro, 40, false, .none, []⟩]

/-- All rows of Table HM-9. -/
def hmRows : List Row := hmRows0 ++ hmRows1

/-- The block registers of Table HM-10 (R544): DOM_CFG_SRC, DOM_CFG_PORT, DOM_CFG_DELAY_MECH, DOM_CFG_TRANSPORT, DOM_CFG_SLAVE_ONLY, DOM_CFG_DOMAIN_NUM, DOM_CFG_VLAN_ID, DOM_PRIO_PRIORITY1, DOM_PRIO_PRIORITY2, DOM_PRIO_CLOCK_CLASS, DOM_INTERVAL_LOG_SYNC, DOM_INTERVAL_LOG_ANNOUNCE, DOM_INTERVAL_LOG_DELAY_REQ, DOM_STAT_STATE, OFFSET_NS, MEAN_DELAY_NS, RATE_PPB, GM_ID_LO, GM_ID_HI, LAST_SYNC_TICK, SYNC_RX_CNT, LOSS_CNT, UTC_OFFSET, LOCK_NS, UNLOCK_NS, STEP_NS, SERVO_KP, SERVO_KI. -/
def hmDomRows : List Row := [
  ⟨0x100, 1, 0, .rw, 0, false, .none, [(64, 2)]⟩,
  ⟨0x100, 3, 2, .rw, 0, false, .none, [(64, 2)]⟩,
  ⟨0x100, 4, 4, .rw, 0, false, .none, [(64, 2)]⟩,
  ⟨0x100, 5, 5, .rw, 0, false, .none, [(64, 2)]⟩,
  ⟨0x100, 6, 6, .rw, 1, false, .none, [(64, 2)]⟩,
  ⟨0x100, 15, 8, .rw, 0, false, .none, [(64, 2)]⟩,
  ⟨0x100, 27, 16, .rw, 0, false, .none, [(64, 2)]⟩,
  ⟨0x104, 7, 0, .rw, 128, false, .none, [(64, 2)]⟩,
  ⟨0x104, 15, 8, .rw, 128, false, .none, [(64, 2)]⟩,
  ⟨0x104, 23, 16, .rw, 248, false, .none, [(64, 2)]⟩,
  ⟨0x108, 3, 0, .rw, 13, false, .none, [(64, 2)]⟩,
  ⟨0x108, 7, 4, .rw, 1, false, .none, [(64, 2)]⟩,
  ⟨0x108, 11, 8, .rw, 0, false, .none, [(64, 2)]⟩,
  ⟨0x10C, 2, 0, .ro, 0, false, .none, [(64, 2)]⟩,
  ⟨0x110, 31, 0, .ro, 0, false, .none, [(64, 2)]⟩,
  ⟨0x114, 31, 0, .ro, 0, false, .none, [(64, 2)]⟩,
  ⟨0x118, 31, 0, .ro, 0, false, .none, [(64, 2)]⟩,
  ⟨0x11C, 31, 0, .ro, 0, false, .lo, [(64, 2)]⟩,
  ⟨0x120, 31, 0, .ro, 0, false, .hi, [(64, 2)]⟩,
  ⟨0x124, 31, 0, .ro, 0, false, .none, [(64, 2)]⟩,
  ⟨0x128, 31, 0, .rc, 0, false, .none, [(64, 2)]⟩,
  ⟨0x12C, 31, 0, .rc, 0, false, .none, [(64, 2)]⟩,
  ⟨0x130, 15, 0, .ro, 0, false, .none, [(64, 2)]⟩,
  ⟨0x800, 15, 0, .rwx, 100, false, .none, [(32, 2)]⟩,
  ⟨0x804, 15, 0, .rwx, 1000, false, .none, [(32, 2)]⟩,
  ⟨0x808, 31, 0, .rwx, 10000, false, .none, [(32, 2)]⟩,
  ⟨0x80C, 15, 0, .rwx, 1024, false, .none, [(32, 2)]⟩,
  ⟨0x810, 15, 0, .rwx, 64, false, .none, [(32, 2)]⟩]

/-- The block registers of Table HM-11 (R545): TXQ_E0_SEC, TXQ_E1_SEC_HI, TXQ_E1_SEQ_ID, TXQ_E2_NS, TXQ_E3_SUBNS, TXQ_E3_MSG_TYPE, TXQ_E3_FLAGS, TXQ_E3_DOMAIN_NUM, TXQ_LEVEL, TXQ_POP, TXQ_STAT_OVF, TXQ_LOST. -/
def hmTxqRows : List Row := [
  ⟨0x100, 31, 0, .ro, 0, false, .none, [(32, 4)]⟩,
  ⟨0x104, 15, 0, .ro, 0, false, .none, [(32, 4)]⟩,
  ⟨0x104, 31, 16, .ro, 0, false, .none, [(32, 4)]⟩,
  ⟨0x108, 29, 0, .ro, 0, false, .none, [(32, 4)]⟩,
  ⟨0x10C, 15, 0, .ro, 0, false, .none, [(32, 4)]⟩,
  ⟨0x10C, 19, 16, .ro, 0, false, .none, [(32, 4)]⟩,
  ⟨0x10C, 22, 20, .ro, 0, false, .none, [(32, 4)]⟩,
  ⟨0x10C, 31, 24, .ro, 0, false, .none, [(32, 4)]⟩,
  ⟨0x110, 4, 0, .ro, 0, false, .none, [(32, 4)]⟩,
  ⟨0x114, 0, 0, .wo, 0, false, .none, [(32, 4)]⟩,
  ⟨0x118, 0, 0, .w1c, 0, false, .none, [(32, 4)]⟩,
  ⟨0x11C, 31, 0, .rc, 0, false, .none, [(32, 4)]⟩]

/-- The block registers of Table FAB-6 (R577): PORT_CFG_FEC, PORT_CFG_PFC_EN, MAC_LO, MAC_HI, IPV4_ADDR, LINK_STAT_UP, TXR_BASE_LO, TXR_BASE_HI, TXR_LOG2, TXR_TAIL, TXR_HEAD, RXR_BASE_LO, RXR_BASE_HI, RXR_LOG2, RXR_WR_IDX, RXR_RD_IDX, RX_FILTER, RX_DROP, TX_DROP, CRC_ERR_CNT, ACK_TIMEOUT, RETRY_CNT. -/
def ethRows : List Row := [
  ⟨0x100, 0, 0, .rw, 1, false, .none, []⟩,
  ⟨0x100, 1, 1, .rw, 1, false, .none, []⟩,
  ⟨0x104, 31, 0, .ro, 0, false, .lo, []⟩,
  ⟨0x108, 15, 0, .ro, 0, false, .hi, []⟩,
  ⟨0x10C, 31, 0, .rw, 0, false, .none, []⟩,
  ⟨0x110, 0, 0, .ro, 0, false, .none, []⟩,
  ⟨0x114, 31, 0, .rw, 0, false, .lo, []⟩,
  ⟨0x118, 31, 0, .rw, 0, false, .hi, []⟩,
  ⟨0x11C, 3, 0, .rw, 4, false, .none, []⟩,
  ⟨0x120, 11, 0, .rw, 0, false, .none, []⟩,
  ⟨0x124, 11, 0, .ro, 0, false, .none, []⟩,
  ⟨0x128, 31, 0, .rw, 0, false, .lo, []⟩,
  ⟨0x12C, 31, 0, .rw, 0, false, .hi, []⟩,
  ⟨0x130, 3, 0, .rw, 4, false, .none, []⟩,
  ⟨0x134, 11, 0, .ro, 0, false, .none, []⟩,
  ⟨0x138, 11, 0, .rw, 0, false, .none, []⟩,
  ⟨0x13C, 1, 0, .rw, 0, false, .none, []⟩,
  ⟨0x140, 31, 0, .rc, 0, false, .none, []⟩,
  ⟨0x144, 31, 0, .rc, 0, false, .none, []⟩,
  ⟨0x148, 31, 0, .rc, 0, false, .none, []⟩,
  ⟨0x800, 3, 0, .rwx, 10, false, .none, []⟩,
  ⟨0x800, 6, 4, .rwx, 3, false, .none, []⟩]

/-- The block registers of Table FAB-7 (R578): FAB_CTRL_SHARD_EN, CELL_ID, CELL_SEED, CFP_GROUP, ANN_INTERVAL, JOIN_LISTEN, HANDOVER_TICKS, RECLAIM_GRACE, VIEW_ID, PREV_VIEW_ID, MEMBERS, HANDOVER_LOST, CFP_IGNORED, PEER_FULL_CNT, BORROW_CMD_SLOT, BORROW_CMD_RELEASE, BORROW_CMD_TILES, PEER_STAT_STATE, PEER_STAT_PORT, PEER_ID_LO, PEER_ID_HI, PEER_GRANTED. -/
def fabRows : List Row := [
  ⟨0x100, 0, 0, .rw, 1, false, .none, []⟩,
  ⟨0x104, 31, 0, .rw, 0, false, .none, []⟩,
  ⟨0x108, 31, 0, .rw, 0, false, .none, []⟩,
  ⟨0x10C, 31, 0, .rw, 4022355457, false, .none, []⟩,
  ⟨0x110, 23, 0, .rw, 10000, false, .none, []⟩,
  ⟨0x114, 23, 0, .rw, 20000, false, .none, []⟩,
  ⟨0x118, 23, 0, .rw, 200000, false, .none, []⟩,
  ⟨0x11C, 15, 0, .rw, 100, false, .none, []⟩,
  ⟨0x120, 31, 0, .ro, 0, false, .none, []⟩,
  ⟨0x124, 31, 0, .ro, 0, false, .none, []⟩,
  ⟨0x128, 6, 0, .ro, 0, false, .none, []⟩,
  ⟨0x12C, 31, 0, .rc, 0, false, .none, []⟩,
  ⟨0x130, 31, 0, .rc, 0, false, .none, []⟩,
  ⟨0x134, 31, 0, .rc, 0, false, .none, []⟩,
  ⟨0x138, 5, 0, .wo, 0, false, .none, []⟩,
  ⟨0x138, 8, 8, .wo, 0, false, .none, []⟩,
  ⟨0x13C, 20, 0, .rw, 0, false, .none, []⟩,
  ⟨0x200, 2, 0, .ro, 0, false, .none, [(16, 64)]⟩,
  ⟨0x200, 5, 4, .ro, 0, false, .none, [(16, 64)]⟩,
  ⟨0x204, 31, 0, .ro, 0, false, .lo, [(16, 64)]⟩,
  ⟨0x208, 31, 0, .ro, 0, false, .hi, [(16, 64)]⟩,
  ⟨0x20C, 20, 0, .ro, 0, false, .none, [(16, 64)]⟩]

/-- The block registers of Table PRT-10 (R612): LINK_STAT_SPEED, LINK_STAT_WIDTH, LINK_STAT_FLIT, NUM_VFS, BAR4_SIZE, BAR4_WIN_BASE_LO, BAR4_WIN_BASE_HI, REG_ACC_ERR_CNT, DMA_ERR_CNT, LINK_DOWN_CNT, WS_IRQ_PEND_LO, WS_IRQ_PEND_HI, DMA_BYTES_LO, DMA_BYTES_HI, FLR_CNT, FLR_ABANDONED_CNT, INJ_DMA_ERR. -/
def hifRows : List Row := [
  ⟨0x100, 2, 0, .ro, 0, false, .none, []⟩,
  ⟨0x100, 8, 4, .ro, 0, false, .none, []⟩,
  ⟨0x100, 12, 12, .ro, 0, false, .none, []⟩,
  ⟨0x104, 5, 0, .ro, 0, false, .none, []⟩,
  ⟨0x108, 5, 0, .ro, 30, false, .none, []⟩,
  ⟨0x110, 31, 0, .rw, 0, false, .lo, []⟩,
  ⟨0x114, 31, 0, .rw, 0, false, .hi, []⟩,
  ⟨0x118, 31, 0, .rc, 0, false, .none, []⟩,
  ⟨0x11C, 31, 0, .rc, 0, false, .none, []⟩,
  ⟨0x120, 31, 0, .rc, 0, false, .none, []⟩,
  ⟨0x124, 31, 0, .w1c, 0, false, .none, []⟩,
  ⟨0x128, 31, 0, .w1c, 0, false, .none, []⟩,
  ⟨0x130, 31, 0, .ro, 0, false, .lo, []⟩,
  ⟨0x134, 31, 0, .ro, 0, false, .hi, []⟩,
  ⟨0x138, 31, 0, .rc, 0, false, .none, []⟩,
  ⟨0x13C, 31, 0, .rc, 0, false, .none, []⟩,
  ⟨0x800, 0, 0, .rwx, 0, false, .none, []⟩]

/-- The block registers of Table PRT-11 (R613): NVP_STAT_CTRL_STATE, NVP_STAT_SPEED, NVP_STAT_WIDTH, LBA_LOG2, NS_BYTES_LO, NS_BYTES_HI, NVP_TIMEOUT, TIMEOUT_CNT, ERR_STATUS_CNT, LAST_STATUS, WR_SRC_LO, WR_SRC_HI, WR_DST_LO, WR_DST_HI, WR_TILES, WR_CMD_START, WR_STAT_RESULT, RD_BYTES_LO, RD_BYTES_HI, INJ_TIMEOUT. -/
def nvpRows : List Row := [
  ⟨0x100, 1, 0, .ro, 0, false, .none, []⟩,
  ⟨0x100, 6, 4, .ro, 0, false, .none, []⟩,
  ⟨0x100, 10, 8, .ro, 0, false, .none, []⟩,
  ⟨0x104, 3, 0, .ro, 0, false, .none, []⟩,
  ⟨0x108, 31, 0, .ro, 0, false, .lo, []⟩,
  ⟨0x10C, 31, 0, .ro, 0, false, .hi, []⟩,
  ⟨0x110, 15, 0, .rw, 100, false, .none, []⟩,
  ⟨0x114, 31, 0, .rc, 0, false, .none, []⟩,
  ⟨0x118, 31, 0, .rc, 0, false, .none, []⟩,
  ⟨0x11C, 15, 0, .ro, 0, false, .none, []⟩,
  ⟨0x120, 31, 0, .rw, 0, false, .lo, []⟩,
  ⟨0x124, 31, 0, .rw, 0, false, .hi, []⟩,
  ⟨0x128, 31, 0, .rw, 0, false, .lo, []⟩,
  ⟨0x12C, 31, 0, .rw, 0, false, .hi, []⟩,
  ⟨0x130, 8, 0, .rw, 1, false, .none, []⟩,
  ⟨0x134, 0, 0, .wo, 0, false, .none, []⟩,
  ⟨0x138, 1, 0, .ro, 0, false, .none, []⟩,
  ⟨0x140, 31, 0, .ro, 0, false, .lo, []⟩,
  ⟨0x144, 31, 0, .ro, 0, false, .hi, []⟩,
  ⟨0x800, 0, 0, .rwx, 0, false, .none, []⟩]

/-- The block registers of Table PRT-12 (R614): RX_CFG_LANES, RX_STAT_HS_ACTIVE, RX_STAT_CFG_ERR, HDR_ERR_CNT, CRC_ERR_CNT, UNBOUND_CNT, STR_CFG_EN, STR_CFG_VC, STR_CFG_DT, STR_CFG_NBUF, FRAME_SIZE_WIDTH, FRAME_SIZE_HEIGHT, BUF_BASE_LO, BUF_BASE_HI, BUF_STRIDE, STR_WS, HELD, NEXT, DROP_CNT, INJ_CRC. -/
def csiRows : List Row := [
  ⟨0x100, 2, 0, .rw, 4, false, .none, []⟩,
  ⟨0x104, 0, 0, .ro, 0, false, .none, []⟩,
  ⟨0x104, 1, 1, .w1c, 0, false, .none, []⟩,
  ⟨0x108, 31, 0, .rc, 0, false, .none, []⟩,
  ⟨0x10C, 31, 0, .rc, 0, false, .none, []⟩,
  ⟨0x110, 31, 0, .rc, 0, false, .none, []⟩,
  ⟨0x140, 0, 0, .rw, 0, false, .none, [(32, 4)]⟩,
  ⟨0x140, 7, 4, .rw, 0, false, .none, [(32, 4)]⟩,
  ⟨0x140, 13, 8, .rw, 42, false, .none, [(32, 4)]⟩,
  ⟨0x140, 19, 16, .rw, 2, false, .none, [(32, 4)]⟩,
  ⟨0x144, 15, 0, .rw, 0, false, .none, [(32, 4)]⟩,
  ⟨0x144, 31, 16, .rw, 0, false, .none, [(32, 4)]⟩,
  ⟨0x148, 31, 0, .rw, 0, false, .lo, [(32, 4)]⟩,
  ⟨0x14C, 31, 0, .rw, 0, false, .hi, [(32, 4)]⟩,
  ⟨0x150, 15, 0, .rw, 0, false, .none, [(32, 4)]⟩,
  ⟨0x154, 5, 0, .rw, 0, false, .none, [(32, 4)]⟩,
  ⟨0x158, 7, 0, .w1c, 0, false, .none, [(32, 4)]⟩,
  ⟨0x158, 10, 8, .ro, 0, false, .none, [(32, 4)]⟩,
  ⟨0x15C, 31, 0, .rc, 0, false, .none, [(32, 4)]⟩,
  ⟨0x800, 0, 0, .rwx, 0, false, .none, []⟩]

/-- The block registers of Table PRT-13 (R615): PORT_CFG_EN, PORT_CFG_DRDY_EN, PORT_CFG_DRDY_POL, PORT_CFG_CFG_ERR, PORT_CFG_DIV, CS_CFG_MODE, CS_CFG_LIST, CS_CFG_CMD_LEN, CS_CFG_RD_LEN, CS_CFG_SAMPLE_BITS, CS_CMD, XFER_CS, XFER_LEN, XFER_START, XFER_BUSY, XFER_TX_LO, XFER_TX_HI, XFER_RX_LO, XFER_RX_HI, LAST_SAMPLE_VALUE, LAST_SAMPLE_CS, OVERRUN_CNT, BSPI_CMD_OP, BSPI_CMD_START, BSPI_CMD_ALLOW_RUNNING, BSPI_FLASH_ADDR, BSPI_CASKET_LO, BSPI_CASKET_HI, BSPI_LEN, BSPI_STAT_RESULT, BSPI_STAT_REASON. -/
def spmRows : List Row := [
  ⟨0x100, 0, 0, .rw, 0, false, .none, [(64, 4)]⟩,
  ⟨0x100, 1, 1, .rw, 0, false, .none, [(64, 4)]⟩,
  ⟨0x100, 2, 2, .rw, 0, false, .none, [(64, 4)]⟩,
  ⟨0x100, 3, 3, .w1c, 0, false, .none, [(64, 4)]⟩,
  ⟨0x100, 24, 16, .rw, 49, false, .none, [(64, 4)]⟩,
  ⟨0x104, 1, 0, .rw, 0, false, .none, [(64, 4), (8, 4)]⟩,
  ⟨0x104, 2, 2, .rw, 0, false, .none, [(64, 4), (8, 4)]⟩,
  ⟨0x104, 5, 3, .rw, 0, false, .none, [(64, 4), (8, 4)]⟩,
  ⟨0x104, 7, 6, .rw, 1, false, .none, [(64, 4), (8, 4)]⟩,
  ⟨0x104, 12, 8, .rw, 16, false, .none, [(64, 4), (8, 4)]⟩,
  ⟨0x108, 31, 0, .rw, 0, false, .none, [(64, 4), (8, 4)]⟩,
  ⟨0x124, 1, 0, .rw, 0, false, .none, [(64, 4)]⟩,
  ⟨0x124, 6, 4, .rw, 0, false, .none, [(64, 4)]⟩,
  ⟨0x124, 8, 8, .wo, 0, false, .none, [(64, 4)]⟩,
  ⟨0x124, 9, 9, .ro, 0, false, .none, [(64, 4)]⟩,
  ⟨0x128, 31, 0, .rw, 0, false, .lo, [(64, 4)]⟩,
  ⟨0x12C, 31, 0, .rw, 0, false, .hi, [(64, 4)]⟩,
  ⟨0x130, 31, 0, .ro, 0, false, .lo, [(64, 4)]⟩,
  ⟨0x134, 31, 0, .ro, 0, false, .hi, [(64, 4)]⟩,
  ⟨0x138, 23, 0, .ro, 0, false, .none, [(64, 4)]⟩,
  ⟨0x138, 29, 28, .ro, 0, false, .none, [(64, 4)]⟩,
  ⟨0x13C, 31, 0, .rc, 0, false, .none, [(64, 4)]⟩,
  ⟨0x800, 1, 0, .rwx, 0, false, .none, []⟩,
  ⟨0x800, 8, 8, .wo, 0, false, .none, []⟩,
  ⟨0x800, 9, 9, .rwx, 0, false, .none, []⟩,
  ⟨0x804, 31, 0, .rwx, 0, false, .none, []⟩,
  ⟨0x808, 31, 0, .rwx, 0, false, .lo, []⟩,
  ⟨0x80C, 31, 0, .rwx, 0, false, .hi, []⟩,
  ⟨0x810, 23, 0, .rwx, 0, false, .none, []⟩,
  ⟨0x814, 1, 0, .ro, 0, false, .none, []⟩,
  ⟨0x814, 7, 4, .ro, 0, false, .none, []⟩]

/-- The block registers of Table PRT-14 (R616): CLK_CFG_FREQ, CLK_CFG_EN, CLK_FAULT, CLK_FAULT_STICKY, IN_CFG_SEL, EXP_FREQ, WIN_CNT, INJ_CLK_STOP. -/
def sdmRows : List Row := [
  ⟨0x100, 24, 0, .rw, 0, false, .none, [(4, 2)]⟩,
  ⟨0x100, 31, 31, .rw, 0, false, .none, [(4, 2)]⟩,
  ⟨0x108, 15, 0, .ro, 0, false, .none, []⟩,
  ⟨0x10C, 15, 0, .w1c, 0, false, .none, []⟩,
  ⟨0x140, 1, 0, .rw, 0, false, .none, [(4, 16)]⟩,
  ⟨0x180, 24, 0, .rw, 0, false, .none, [(4, 16)]⟩,
  ⟨0x1C0, 23, 0, .ro, 0, false, .none, [(4, 16)]⟩,
  ⟨0x800, 15, 0, .rwx, 0, false, .none, []⟩]

/-- The block registers of Table PRT-15 (R617): MSPI_STAT, FRAME_CNT, WORD_CNT, IGNORED_CNT, SCRATCH, WAIT_MAX, IDLE_TIMEOUT. -/
def mspiRows : List Row := [
  ⟨0x100, 5, 0, .w1c, 0, false, .none, []⟩,
  ⟨0x104, 31, 0, .rc, 0, false, .none, []⟩,
  ⟨0x108, 31, 0, .rc, 0, false, .none, []⟩,
  ⟨0x10C, 31, 0, .rc, 0, false, .none, []⟩,
  ⟨0x120, 31, 0, .rw, 0, false, .none, [(4, 4)]⟩,
  ⟨0x800, 11, 0, .rwx, 2048, false, .none, []⟩,
  ⟨0x804, 7, 0, .rwx, 64, false, .none, []⟩]

/-- The block registers of Table PRT-16 (R618): TAP_IDCODE, REG_ACCESS_CNT, TAP_REG_DIS. -/
def tapRows : List Row := [
  ⟨0x100, 31, 0, .ro, 0, false, .none, []⟩,
  ⟨0x104, 31, 0, .rc, 0, false, .none, []⟩,
  ⟨0x800, 0, 0, .rwx, 0, false, .none, []⟩]

/-- The block registers of Table FLT-7 (R653): PART_NUMBER, PART_REV, FACETS, BOOT_STAGE, BOOT_ERR, BOOT_UNIT, BOOT_FW_SLOT, FW_SLOT_A_ERR, FW_VER, SEC_VER_FUSE, DEV_CAUSE_MECH, DEV_CAUSE_SEQ, FAULT_PIN, SERIAL_LO, SERIAL_HI. -/
def devRows : List Row := [
  ⟨0x100, 15, 0, .ro, 0, false, .none, []⟩,
  ⟨0x100, 19, 16, .ro, 0, false, .none, []⟩,
  ⟨0x104, 3, 0, .ro, 0, false, .none, []⟩,
  ⟨0x108, 3, 0, .ro, 0, false, .none, []⟩,
  ⟨0x108, 15, 8, .ro, 0, false, .none, []⟩,
  ⟨0x108, 25, 16, .ro, 0, false, .none, []⟩,
  ⟨0x108, 28, 28, .ro, 0, false, .none, []⟩,
  ⟨0x10C, 7, 0, .ro, 0, false, .none, []⟩,
  ⟨0x110, 31, 0, .ro, 0, false, .none, []⟩,
  ⟨0x114, 4, 0, .ro, 0, false, .none, []⟩,
  ⟨0x118, 7, 0, .ro, 0, false, .none, []⟩,
  ⟨0x118, 31, 16, .ro, 0, false, .none, []⟩,
  ⟨0x11C, 0, 0, .ro, 0, false, .none, []⟩,
  ⟨0x120, 31, 0, .ro, 0, false, .lo, []⟩,
  ⟨0x124, 31, 0, .ro, 0, false, .hi, []⟩]

/-- The block registers of Table FLT-8 (R654): SENTINEL, GUARANTEE_OK, GUARANTEE_LOST, GUARANTEE_COND_FAIL, LOST_TICK_LO, LOST_TICK_HI, FW_MIN, FLOG_BASE_LO, FLOG_BASE_HI, FLOG_CFG_EN, FLOG_CFG_BASE_BAD, FLOG_WR_IDX, FLOG_RD_IDX, FLOG_LOST, REPORT_CNT, FIRST_REPORT, LAST_REPORT, FIRST_CLR, FAULT_N_MODE, FAULT_N_CLR, C1_CNT, C2_CNT, C3_CNT, CORR_WINDOW, REPEAT_MAX, REPEAT_WINDOW, DRAIN_LIMIT, INJ_REPORT. -/
def bzFaultRows : List Row := [
  ⟨0x100, 0, 0, .rw, 0, false, .none, []⟩,
  ⟨0x104, 0, 0, .ro, 0, false, .none, []⟩,
  ⟨0x104, 1, 1, .w1c, 0, false, .none, []⟩,
  ⟨0x104, 12, 8, .ro, 31, false, .none, []⟩,
  ⟨0x108, 31, 0, .ro, 0, false, .lo, []⟩,
  ⟨0x10C, 31, 0, .ro, 0, false, .hi, []⟩,
  ⟨0x110, 31, 0, .ro, 16908288, false, .none, []⟩,
  ⟨0x114, 31, 0, .rw, 0, false, .lo, []⟩,
  ⟨0x118, 31, 0, .rw, 0, false, .hi, []⟩,
  ⟨0x11C, 0, 0, .rw, 0, false, .none, []⟩,
  ⟨0x11C, 1, 1, .w1c, 0, false, .none, []⟩,
  ⟨0x120, 7, 0, .ro, 0, false, .none, []⟩,
  ⟨0x124, 7, 0, .rw, 0, false, .none, []⟩,
  ⟨0x128, 31, 0, .rc, 0, false, .none, []⟩,
  ⟨0x12C, 31, 0, .ro, 0, false, .none, []⟩,
  ⟨0x130, 31, 0, .ro, 0, false, .none, [(4, 8)]⟩,
  ⟨0x150, 31, 0, .ro, 0, false, .none, [(4, 8)]⟩,
  ⟨0x170, 0, 0, .wo, 0, false, .none, []⟩,
  ⟨0x174, 0, 0, .rw, 0, false, .none, []⟩,
  ⟨0x174, 8, 8, .wo, 0, false, .none, []⟩,
  ⟨0x178, 31, 0, .rc, 0, false, .none, []⟩,
  ⟨0x17C, 31, 0, .rc, 0, false, .none, []⟩,
  ⟨0x180, 31, 0, .rc, 0, false, .none, []⟩,
  ⟨0x184, 5, 0, .rw, 4, false, .none, []⟩,
  ⟨0x188, 3, 0, .rw, 3, false, .none, []⟩,
  ⟨0x18C, 23, 0, .rw, 1000000, false, .none, []⟩,
  ⟨0x190, 15, 0, .rw, 1000, false, .none, []⟩,
  ⟨0x800, 0, 0, .rwx, 0, false, .none, []⟩]

/-- The block registers of Table FLT-9 (R655): RESET_CAUSE, RESET_TICK_LO, RESET_TICK_HI, RESET_FLAGS_THERMTRIP, RESET_FLAGS_WAS_FAULTED, PRIOR_REPORT, WDOG_CONSEC, WDOG_CFG_TIMEOUT, WDOG_CFG_ACTION, RESET_CMD_KEY. -/
def bzResetRows : List Row := [
  ⟨0x100, 3, 0, .ro, 0, false, .none, []⟩,
  ⟨0x104, 31, 0, .ro, 0, false, .lo, []⟩,
  ⟨0x108, 31, 0, .ro, 0, false, .hi, []⟩,
  ⟨0x10C, 0, 0, .w1c, 0, false, .none, []⟩,
  ⟨0x10C, 1, 1, .w1c, 0, false, .none, []⟩,
  ⟨0x110, 31, 0, .ro, 0, false, .none, [(4, 8)]⟩,
  ⟨0x130, 3, 0, .ro, 0, false, .none, []⟩,
  ⟨0x800, 23, 0, .rwx, 100000, false, .none, []⟩,
  ⟨0x800, 24, 24, .rwx, 0, false, .none, []⟩,
  ⟨0x804, 15, 0, .wo, 0, false, .none, []⟩]

/-- The block registers of a kind of page. Sub-page 7 of a Facet has none (R357). -/
def kindRows : PageKind → List Row
  | .bzAon => bzAonRows
  | .bzPm => bzPmRows
  | .bzEvt => bzEvtRows
  | .bzTherm => bzThermRows
  | .clLink => clLinkRows
  | .clTest => clTestRows
  | .ckCtrl => ckCtrlRows
  | .ckQ => ckQRows
  | .ckTier => ckTierRows
  | .ckQuota => ckQuotaRows
  | .ckStream => ckStreamRows
  | .ckReshard => ckReshardRows
  | .hbm => hbmRows
  | .wkSched => wkSchedRows
  | .ws => wsRows
  | .fct0 => fct0Rows
  | .fct1 => fct1Rows
  | .fct2 => fct2Rows
  | .fct3 => fct3Rows
  | .fct4 => fct4Rows
  | .fct5 => fct5Rows
  | .fct6 => fct6Rows
  | .gse => gseRows
  | .mapDir => mapDirRows
  | .rowCache => rowCacheRows
  | .lp => lpRows
  | .ise => iseRows
  | .fil => filRows
  | .filCh => filChRows
  | .filCal => filCalRows
  | .hm => hmRows
  | .hmDom => hmDomRows
  | .hmTxq => hmTxqRows
  | .eth => ethRows
  | .fab => fabRows
  | .hif => hifRows
  | .nvp => nvpRows
  | .csi => csiRows
  | .spm => spmRows
  | .sdm => sdmRows
  | .mspi => mspiRows
  | .tap => tapRows
  | .dev => devRows
  | .bzFault => bzFaultRows
  | .bzReset => bzResetRows
  | .fct7 => []

/-- BLK_ID.TYPE, 02 Table REG-7. -/
def HDR.BLK_ID_TYPE (p : Nat) : FRef := ⟨p, 0x000, 31, 16⟩
/-- BLK_ID.INSTANCE, 02 Table REG-7. -/
def HDR.BLK_ID_INSTANCE (p : Nat) : FRef := ⟨p, 0x000, 15, 8⟩
/-- BLK_ID.DIE, 02 Table REG-7. -/
def HDR.BLK_ID_DIE (p : Nat) : FRef := ⟨p, 0x000, 7, 0⟩
/-- BLK_VER.MAJOR, 02 Table REG-7. -/
def HDR.BLK_VER_MAJOR (p : Nat) : FRef := ⟨p, 0x004, 31, 24⟩
/-- BLK_VER.MINOR, 02 Table REG-7. -/
def HDR.BLK_VER_MINOR (p : Nat) : FRef := ⟨p, 0x004, 23, 16⟩
/-- BLK_VER.PATCH, 02 Table REG-7. -/
def HDR.BLK_VER_PATCH (p : Nat) : FRef := ⟨p, 0x004, 15, 0⟩
/-- BLK_CAP.EXPERT, 02 Table REG-7. -/
def HDR.BLK_CAP_EXPERT (p : Nat) : FRef := ⟨p, 0x008, 31, 31⟩
/-- BLK_CAP.DPSTATE, 02 Table REG-7. -/
def HDR.BLK_CAP_DPSTATE (p : Nat) : FRef := ⟨p, 0x008, 30, 30⟩
/-- BLK_CAP.SRESET, 02 Table REG-7. -/
def HDR.BLK_CAP_SRESET (p : Nat) : FRef := ⟨p, 0x008, 29, 29⟩
/-- BLK_CAP.BLOCK, 02 Table REG-7. -/
def HDR.BLK_CAP_BLOCK (p : Nat) : FRef := ⟨p, 0x008, 23, 0⟩
/-- BLK_CTRL.ENABLE, 02 Table REG-7. -/
def HDR.BLK_CTRL_ENABLE (p : Nat) : FRef := ⟨p, 0x00C, 0, 0⟩
/-- BLK_CTRL.SOFT_RESET, 02 Table REG-7. -/
def HDR.BLK_CTRL_SOFT_RESET (p : Nat) : FRef := ⟨p, 0x00C, 1, 1⟩
/-- BLK_CTRL.CLK_REQ, 02 Table REG-7. -/
def HDR.BLK_CTRL_CLK_REQ (p : Nat) : FRef := ⟨p, 0x00C, 2, 2⟩
/-- BLK_STATE.STATE, 02 Table REG-7. -/
def HDR.BLK_STATE_STATE (p : Nat) : FRef := ⟨p, 0x010, 2, 0⟩
/-- BLK_STATE.DRAINED, 02 Table REG-7. -/
def HDR.BLK_STATE_DRAINED (p : Nat) : FRef := ⟨p, 0x010, 3, 3⟩
/-- BLK_STATE.CAUSE, 02 Table REG-7. -/
def HDR.BLK_STATE_CAUSE (p : Nat) : FRef := ⟨p, 0x010, 15, 8⟩
/-- BLK_STATE.ENTRY_TICK, 02 Table REG-7. -/
def HDR.BLK_STATE_ENTRY_TICK (p : Nat) : FRef := ⟨p, 0x010, 31, 16⟩
/-- BLK_DPSTATE.STATE, 02 Table REG-7. -/
def HDR.BLK_DPSTATE_STATE (p : Nat) : FRef := ⟨p, 0x014, 2, 0⟩
/-- IRQ_RAW, 02 Table REG-7. -/
def HDR.IRQ_RAW (p : Nat) : FRef := ⟨p, 0x018, 31, 0⟩
/-- IRQ_EN, 02 Table REG-7. -/
def HDR.IRQ_EN (p : Nat) : FRef := ⟨p, 0x01C, 31, 0⟩
/-- IRQ_STAT, 02 Table REG-7. -/
def HDR.IRQ_STAT (p : Nat) : FRef := ⟨p, 0x020, 31, 0⟩
/-- IRQ_FORCE, 02 Table REG-7. -/
def HDR.IRQ_FORCE (p : Nat) : FRef := ⟨p, 0x024, 31, 0⟩
/-- ERR_REC, 02 Table REG-7. -/
def HDR.ERR_REC (p i : Nat) : FRef := ⟨p, 0x028 + 4 * i, 31, 0⟩
/-- ERR_CNT_CORR, 02 Table REG-7. -/
def HDR.ERR_CNT_CORR (p : Nat) : FRef := ⟨p, 0x038, 31, 0⟩
/-- ERR_CNT_UNCORR, 02 Table REG-7. -/
def HDR.ERR_CNT_UNCORR (p : Nat) : FRef := ⟨p, 0x03C, 31, 0⟩
/-- EXP_UNLOCK.KEY, 02 Table REG-7. -/
def HDR.EXP_UNLOCK_KEY (p : Nat) : FRef := ⟨p, 0x040, 15, 0⟩
/-- EXP_STATE.UNLOCKED, 02 Table REG-7. -/
def HDR.EXP_STATE_UNLOCKED (p : Nat) : FRef := ⟨p, 0x044, 0, 0⟩
/-- EXP_STATE.ARMED, 02 Table REG-7. -/
def HDR.EXP_STATE_ARMED (p : Nat) : FRef := ⟨p, 0x044, 1, 1⟩
/-- EXP_STATE.WINDOW_LEFT, 02 Table REG-7. -/
def HDR.EXP_STATE_WINDOW_LEFT (p : Nat) : FRef := ⟨p, 0x044, 15, 8⟩
/-- EXP_STATE.BLOCKED_CNT, 02 Table REG-7. -/
def HDR.EXP_STATE_BLOCKED_CNT (p : Nat) : FRef := ⟨p, 0x044, 31, 16⟩
/-- TICK_STAMP_LO, 02 Table REG-7. -/
def HDR.TICK_STAMP_LO (p : Nat) : FRef := ⟨p, 0x048, 31, 0⟩
/-- TICK_STAMP_HI, 02 Table REG-7. -/
def HDR.TICK_STAMP_HI (p : Nat) : FRef := ⟨p, 0x04C, 31, 0⟩
/-- TICK_LO, 03 Table TCK-11. -/
def BZ_AON.TICK_LO : FRef := ⟨0x001, 0x100, 31, 0⟩
/-- TICK_HI, 03 Table TCK-11. -/
def BZ_AON.TICK_HI : FRef := ⟨0x001, 0x104, 31, 0⟩
/-- AON_STAT.REF_PRESENT, 03 Table TCK-11. -/
def BZ_AON.AON_STAT_REF_PRESENT : FRef := ⟨0x001, 0x108, 0, 0⟩
/-- AON_STAT.REF_LOST, 03 Table TCK-11. -/
def BZ_AON.AON_STAT_REF_LOST : FRef := ⟨0x001, 0x108, 1, 1⟩
/-- AON_STAT.DISCIPLINED, 03 Table TCK-11. -/
def BZ_AON.AON_STAT_DISCIPLINED : FRef := ⟨0x001, 0x108, 2, 2⟩
/-- AON_STAT.FREQ_ERR, 03 Table TCK-11. -/
def BZ_AON.AON_STAT_FREQ_ERR : FRef := ⟨0x001, 0x108, 31, 16⟩
/-- AON_CTRL.DISCIPLINE_EN, 03 Table TCK-11. -/
def BZ_AON.AON_CTRL_DISCIPLINE_EN : FRef := ⟨0x001, 0x10C, 0, 0⟩
/-- AON_TRIM.CODE, 03 Table TCK-11. -/
def BZ_AON.AON_TRIM_CODE : FRef := ⟨0x001, 0x800, 7, 0⟩
/-- PM_STATE.CUR, 03 Table TCK-12. -/
def BZ_PM.PM_STATE_CUR : FRef := ⟨0x002, 0x100, 2, 0⟩
/-- PM_STATE.TARGET, 03 Table TCK-12. -/
def BZ_PM.PM_STATE_TARGET : FRef := ⟨0x002, 0x100, 6, 4⟩
/-- PM_STATE.IN_TRANSITION, 03 Table TCK-12. -/
def BZ_PM.PM_STATE_IN_TRANSITION : FRef := ⟨0x002, 0x100, 8, 8⟩
/-- PM_REQ.TARGET, 03 Table TCK-12. -/
def BZ_PM.PM_REQ_TARGET : FRef := ⟨0x002, 0x104, 2, 0⟩
/-- PM_REQ.DROP_T0, 03 Table TCK-12. -/
def BZ_PM.PM_REQ_DROP_T0 : FRef := ⟨0x002, 0x104, 8, 8⟩
/-- PM_REQ.DROP_HBM, 03 Table TCK-12. -/
def BZ_PM.PM_REQ_DROP_HBM : FRef := ⟨0x002, 0x104, 9, 9⟩
/-- PM_RESULT.CODE, 03 Table TCK-12. -/
def BZ_PM.PM_RESULT_CODE : FRef := ⟨0x002, 0x108, 3, 0⟩
/-- PM_RESULT.TICK, 03 Table TCK-12. -/
def BZ_PM.PM_RESULT_TICK : FRef := ⟨0x002, 0x108, 31, 16⟩
/-- WAKE_EN, 03 Table TCK-12. -/
def BZ_PM.WAKE_EN : FRef := ⟨0x002, 0x10C, 5, 0⟩
/-- WAKE_CAUSE.SRC, 03 Table TCK-12. -/
def BZ_PM.WAKE_CAUSE_SRC : FRef := ⟨0x002, 0x110, 5, 0⟩
/-- WAKE_CAUSE.E0, 03 Table TCK-12. -/
def BZ_PM.WAKE_CAUSE_E0 : FRef := ⟨0x002, 0x110, 6, 6⟩
/-- WAKE_CAUSE.INDEX, 03 Table TCK-12. -/
def BZ_PM.WAKE_CAUSE_INDEX : FRef := ⟨0x002, 0x110, 15, 8⟩
/-- WAKE_TICK_LO, 03 Table TCK-12. -/
def BZ_PM.WAKE_TICK_LO : FRef := ⟨0x002, 0x118, 31, 0⟩
/-- WAKE_TICK_HI, 03 Table TCK-12. -/
def BZ_PM.WAKE_TICK_HI : FRef := ⟨0x002, 0x11C, 31, 0⟩
/-- AUTO_DOZE.EN, 03 Table TCK-12. -/
def BZ_PM.AUTO_DOZE_EN : FRef := ⟨0x002, 0x120, 0, 0⟩
/-- AUTO_DOZE.IDLE_TICKS, 03 Table TCK-12. -/
def BZ_PM.AUTO_DOZE_IDLE_TICKS : FRef := ⟨0x002, 0x120, 31, 16⟩
/-- PCAP.CAP_W, 03 Table TCK-12. -/
def BZ_PM.PCAP_CAP_W : FRef := ⟨0x002, 0x124, 7, 0⟩
/-- PCAP_STAT.POWER, 03 Table TCK-12. -/
def BZ_PM.PCAP_STAT_POWER : FRef := ⟨0x002, 0x128, 11, 0⟩
/-- PCAP_STAT.CAP_LIMITING, 03 Table TCK-12. -/
def BZ_PM.PCAP_STAT_CAP_LIMITING : FRef := ⟨0x002, 0x128, 16, 16⟩
/-- PCAP_STAT.UNREACHABLE, 03 Table TCK-12. -/
def BZ_PM.PCAP_STAT_UNREACHABLE : FRef := ⟨0x002, 0x128, 17, 17⟩
/-- FACET_OP, 03 Table TCK-12. -/
def BZ_PM.FACET_OP : FRef := ⟨0x002, 0x12C, 15, 0⟩
/-- ASLEEP_ACCESS_CNT, 03 Table TCK-12. -/
def BZ_PM.ASLEEP_ACCESS_CNT : FRef := ⟨0x002, 0x130, 31, 0⟩
/-- AWAKE_TICKS_LO, 03 Table TCK-12. -/
def BZ_PM.AWAKE_TICKS_LO : FRef := ⟨0x002, 0x138, 31, 0⟩
/-- AWAKE_TICKS_HI, 03 Table TCK-12. -/
def BZ_PM.AWAKE_TICKS_HI : FRef := ⟨0x002, 0x13C, 31, 0⟩
/-- UTIL_TICKS_LO, 03 Table TCK-12. -/
def BZ_PM.UTIL_TICKS_LO : FRef := ⟨0x002, 0x140, 31, 0⟩
/-- UTIL_TICKS_HI, 03 Table TCK-12. -/
def BZ_PM.UTIL_TICKS_HI : FRef := ⟨0x002, 0x144, 31, 0⟩
/-- OP_FORCE.OP, 03 Table TCK-12. -/
def BZ_PM.OP_FORCE_OP : FRef := ⟨0x002, 0x800, 15, 0⟩
/-- OP_FORCE.EN, 03 Table TCK-12. -/
def BZ_PM.OP_FORCE_EN : FRef := ⟨0x002, 0x800, 16, 16⟩
/-- PLL_LOCK, 03 Table TCK-12. -/
def BZ_PM.PLL_LOCK : FRef := ⟨0x002, 0x804, 7, 0⟩
/-- EVT_LOG_BASE_LO, 03 Table TCK-13. -/
def BZ_EVT.EVT_LOG_BASE_LO : FRef := ⟨0x004, 0x100, 31, 0⟩
/-- EVT_LOG_BASE_HI, 03 Table TCK-13. -/
def BZ_EVT.EVT_LOG_BASE_HI : FRef := ⟨0x004, 0x104, 31, 0⟩
/-- EVT_WR_IDX, 03 Table TCK-13. -/
def BZ_EVT.EVT_WR_IDX : FRef := ⟨0x004, 0x108, 9, 0⟩
/-- EVT_RD_IDX, 03 Table TCK-13. -/
def BZ_EVT.EVT_RD_IDX : FRef := ⟨0x004, 0x10C, 9, 0⟩
/-- EVT_LOST, 03 Table TCK-13. -/
def BZ_EVT.EVT_LOST : FRef := ⟨0x004, 0x110, 31, 0⟩
/-- EVT_STAT.OVERFLOW, 03 Table TCK-13. -/
def BZ_EVT.EVT_STAT_OVERFLOW : FRef := ⟨0x004, 0x114, 0, 0⟩
/-- EVT_STAT.BASE_BAD, 03 Table TCK-13. -/
def BZ_EVT.EVT_STAT_BASE_BAD : FRef := ⟨0x004, 0x114, 1, 1⟩
/-- EVT_MASK0, 03 Table TCK-13. -/
def BZ_EVT.EVT_MASK0 : FRef := ⟨0x004, 0x118, 31, 0⟩
/-- EVT_MASK1, 03 Table TCK-13. -/
def BZ_EVT.EVT_MASK1 : FRef := ⟨0x004, 0x11C, 31, 0⟩
/-- EVT_MASK2, 03 Table TCK-13. -/
def BZ_EVT.EVT_MASK2 : FRef := ⟨0x004, 0x120, 31, 0⟩
/-- EVT_CTRL.LOG_EN, 03 Table TCK-13. -/
def BZ_EVT.EVT_CTRL_LOG_EN : FRef := ⟨0x004, 0x124, 0, 0⟩
/-- EVT_INJECT, 03 Table TCK-13. -/
def BZ_EVT.EVT_INJECT (i : Nat) : FRef := ⟨0x004, 0x800 + 4 * i, 31, 0⟩
/-- SENS.VALUE, 03 Table TCK-14. -/
def BZ_THERM.SENS_VALUE (s : Nat) : FRef := ⟨0x005, 0x100 + 4 * s, 15, 0⟩
/-- SENS.STALE, 03 Table TCK-14. -/
def BZ_THERM.SENS_STALE (s : Nat) : FRef := ⟨0x005, 0x100 + 4 * s, 16, 16⟩
/-- FACET_TEMP, 03 Table TCK-14. -/
def BZ_THERM.FACET_TEMP : FRef := ⟨0x005, 0x200, 31, 0⟩
/-- LKT_THROTTLE, 03 Table TCK-14. -/
def BZ_THERM.LKT_THROTTLE : FRef := ⟨0x005, 0x204, 7, 0⟩
/-- THERM_WARN.FACET, 03 Table TCK-14. -/
def BZ_THERM.THERM_WARN_FACET : FRef := ⟨0x005, 0x208, 7, 0⟩
/-- THERM_WARN.CROWN, 03 Table TCK-14. -/
def BZ_THERM.THERM_WARN_CROWN : FRef := ⟨0x005, 0x208, 15, 8⟩
/-- THERM_STAT.FACET_CRIT, 03 Table TCK-14. -/
def BZ_THERM.THERM_STAT_FACET_CRIT : FRef := ⟨0x005, 0x20C, 3, 0⟩
/-- THERM_STAT.CROWN_CRIT, 03 Table TCK-14. -/
def BZ_THERM.THERM_STAT_CROWN_CRIT : FRef := ⟨0x005, 0x20C, 4, 4⟩
/-- THERM_STAT.HBM_LIMIT, 03 Table TCK-14. -/
def BZ_THERM.THERM_STAT_HBM_LIMIT : FRef := ⟨0x005, 0x20C, 11, 8⟩
/-- THROTTLE_TEST, 03 Table TCK-14. -/
def BZ_THERM.THROTTLE_TEST : FRef := ⟨0x005, 0x800, 7, 0⟩
/-- LINK_CFG.MODE, 05 Table CLS-9. -/
def CL.LINK_CFG_MODE (n : Nat) : FRef := ⟨(pgCl n), 0x100, 0, 0⟩
/-- LINK_CFG.FORCED, 05 Table CLS-9. -/
def CL.LINK_CFG_FORCED (n : Nat) : FRef := ⟨(pgCl n), 0x100, 1, 1⟩
/-- LINK_CFG.MODULES, 05 Table CLS-9. -/
def CL.LINK_CFG_MODULES (n : Nat) : FRef := ⟨(pgCl n), 0x100, 4, 2⟩
/-- LINK_STAT.STATE, 05 Table CLS-9. -/
def CL.LINK_STAT_STATE (n : Nat) : FRef := ⟨(pgCl n), 0x104, 2, 0⟩
/-- LINK_STAT.FAIL_CAUSE, 05 Table CLS-9. -/
def CL.LINK_STAT_FAIL_CAUSE (n : Nat) : FRef := ⟨(pgCl n), 0x104, 7, 4⟩
/-- LINK_STAT.FAIL_LANE, 05 Table CLS-9. -/
def CL.LINK_STAT_FAIL_LANE (n : Nat) : FRef := ⟨(pgCl n), 0x104, 16, 8⟩
/-- LINK_STAT.REPLAY_WIN, 05 Table CLS-9. -/
def CL.LINK_STAT_REPLAY_WIN (n : Nat) : FRef := ⟨(pgCl n), 0x104, 31, 24⟩
/-- TXN_TIMEOUT, 05 Table CLS-9. -/
def CL.TXN_TIMEOUT (n : Nat) : FRef := ⟨(pgCl n), 0x108, 15, 0⟩
/-- REPLAY_CNT, 05 Table CLS-9. -/
def CL.REPLAY_CNT (n : Nat) : FRef := ⟨(pgCl n), 0x10C, 31, 0⟩
/-- CRC_ERR_CNT, 05 Table CLS-9. -/
def CL.CRC_ERR_CNT (n : Nat) : FRef := ⟨(pgCl n), 0x110, 31, 0⟩
/-- TIMEOUT_CNT, 05 Table CLS-9. -/
def CL.TIMEOUT_CNT (n : Nat) : FRef := ⟨(pgCl n), 0x114, 31, 0⟩
/-- LATE_RSP_CNT, 05 Table CLS-9. -/
def CL.LATE_RSP_CNT (n : Nat) : FRef := ⟨(pgCl n), 0x118, 31, 0⟩
/-- PROTO_ERR_CNT, 05 Table CLS-9. -/
def CL.PROTO_ERR_CNT (n : Nat) : FRef := ⟨(pgCl n), 0x11C, 31, 0⟩
/-- WIN_ERR_CNT, 05 Table CLS-9. -/
def CL.WIN_ERR_CNT (n : Nat) : FRef := ⟨(pgCl n), 0x120, 31, 0⟩
/-- DRAIN_LOST, 05 Table CLS-9. -/
def CL.DRAIN_LOST (n : Nat) : FRef := ⟨(pgCl n), 0x124, 31, 0⟩
/-- FATAL_TICK_LO, 05 Table CLS-9. -/
def CL.FATAL_TICK_LO (n : Nat) : FRef := ⟨(pgCl n), 0x128, 31, 0⟩
/-- FATAL_TICK_HI, 05 Table CLS-9. -/
def CL.FATAL_TICK_HI (n : Nat) : FRef := ⟨(pgCl n), 0x12C, 31, 0⟩
/-- TX_BYTES_LO, 05 Table CLS-9. -/
def CL.TX_BYTES_LO (n : Nat) : FRef := ⟨(pgCl n), 0x130, 31, 0⟩
/-- TX_BYTES_HI, 05 Table CLS-9. -/
def CL.TX_BYTES_HI (n : Nat) : FRef := ⟨(pgCl n), 0x134, 31, 0⟩
/-- RX_BYTES_LO, 05 Table CLS-9. -/
def CL.RX_BYTES_LO (n : Nat) : FRef := ⟨(pgCl n), 0x138, 31, 0⟩
/-- RX_BYTES_HI, 05 Table CLS-9. -/
def CL.RX_BYTES_HI (n : Nat) : FRef := ⟨(pgCl n), 0x13C, 31, 0⟩
/-- CAP_BLOCK, 05 Table CLS-9. -/
def CL.CAP_BLOCK (n i : Nat) : FRef := ⟨(pgCl n), 0x180 + 4 * i, 31, 0⟩
/-- CAP_STAT.NEG_STATE, 05 Table CLS-9. -/
def CL.CAP_STAT_NEG_STATE (n : Nat) : FRef := ⟨(pgCl n), 0x1C0, 1, 0⟩
/-- CAP_STAT.REJECT_CODE, 05 Table CLS-9. -/
def CL.CAP_STAT_REJECT_CODE (n : Nat) : FRef := ⟨(pgCl n), 0x1C0, 15, 8⟩
/-- GMAP_BASE_LO, 05 Table CLS-9. -/
def CL.GMAP_BASE_LO (n m : Nat) : FRef := ⟨(pgCl n), 0x200 + 16 * m, 31, 0⟩
/-- GMAP_BASE_HI, 05 Table CLS-9. -/
def CL.GMAP_BASE_HI (n m : Nat) : FRef := ⟨(pgCl n), 0x204 + 16 * m, 31, 0⟩
/-- GMAP_SIZE, 05 Table CLS-9. -/
def CL.GMAP_SIZE (n m : Nat) : FRef := ⟨(pgCl n), 0x208 + 16 * m, 15, 0⟩
/-- GMAP_CTRL.EN, 05 Table CLS-9. -/
def CL.GMAP_CTRL_EN (n m : Nat) : FRef := ⟨(pgCl n), 0x20C + 16 * m, 0, 0⟩
/-- GMAP_CTRL.WR, 05 Table CLS-9. -/
def CL.GMAP_CTRL_WR (n m : Nat) : FRef := ⟨(pgCl n), 0x20C + 16 * m, 1, 1⟩
/-- MODE_FORCE, 05 Table CLS-9. -/
def CL.MODE_FORCE (n : Nat) : FRef := ⟨(pgCl n), 0x800, 0, 0⟩
/-- INJ_CRC, 05 Table CLS-9. -/
def CL.INJ_CRC (n : Nat) : FRef := ⟨(pgCl n), 0x804, 7, 0⟩
/-- INJ_RSP_DROP, 05 Table CLS-9. -/
def CL.INJ_RSP_DROP (n : Nat) : FRef := ⟨(pgCl n), 0x808, 0, 0⟩
/-- REPLAY_BUDGET.COUNT, 05 Table CLS-9. -/
def CL.REPLAY_BUDGET_COUNT (n : Nat) : FRef := ⟨(pgCl n), 0x80C, 3, 0⟩
/-- REPLAY_BUDGET.WINDOW, 05 Table CLS-9. -/
def CL.REPLAY_BUDGET_WINDOW (n : Nat) : FRef := ⟨(pgCl n), 0x80C, 11, 8⟩
/-- LANE_BURST_ERR, 05 Table CLS-9. -/
def CL.LANE_BURST_ERR (n i : Nat) : FRef := ⟨(pgCl n), 0x810 + 4 * i, 31, 0⟩
/-- RETRAIN, 05 Table CLS-9. -/
def CL.RETRAIN (n : Nat) : FRef := ⟨(pgCl n), 0x820, 0, 0⟩
/-- TEST_CTRL.LINK, 05 Table CLS-10. -/
def CL_TEST.TEST_CTRL_LINK : FRef := ⟨0x02F, 0x100, 2, 0⟩
/-- TEST_CTRL.START, 05 Table CLS-10. -/
def CL_TEST.TEST_CTRL_START : FRef := ⟨0x02F, 0x100, 8, 8⟩
/-- TEST_CTRL.DURATION, 05 Table CLS-10. -/
def CL_TEST.TEST_CTRL_DURATION : FRef := ⟨0x02F, 0x100, 31, 16⟩
/-- TEST_STAT.BUSY, 05 Table CLS-10. -/
def CL_TEST.TEST_STAT_BUSY : FRef := ⟨0x02F, 0x104, 0, 0⟩
/-- TEST_STAT.RESULT, 05 Table CLS-10. -/
def CL_TEST.TEST_STAT_RESULT : FRef := ⟨0x02F, 0x104, 2, 1⟩
/-- TEST_STAT.ERR_LANES, 05 Table CLS-10. -/
def CL_TEST.TEST_STAT_ERR_LANES : FRef := ⟨0x02F, 0x104, 16, 8⟩
/-- TEST_LANE_MAP, 05 Table CLS-10. -/
def CL_TEST.TEST_LANE_MAP (i : Nat) : FRef := ⟨0x02F, 0x108 + 4 * i, 31, 0⟩
/-- CK_CAP.SLOTS, 06 Table CK-7. -/
def CK_CTRL.CK_CAP_SLOTS : FRef := ⟨0x010, 0x100, 15, 0⟩
/-- CK_CAP.KEEP, 06 Table CK-7. -/
def CK_CTRL.CK_CAP_KEEP : FRef := ⟨0x010, 0x100, 31, 16⟩
/-- T1_CAPACITY, 06 Table CK-7. -/
def CK_CTRL.T1_CAPACITY : FRef := ⟨0x010, 0x104, 15, 0⟩
/-- SCRUB_CTRL.EN, 06 Table CK-7. -/
def CK_CTRL.SCRUB_CTRL_EN : FRef := ⟨0x010, 0x108, 0, 0⟩
/-- SCRUB_PASSES, 06 Table CK-7. -/
def CK_CTRL.SCRUB_PASSES : FRef := ⟨0x010, 0x10C, 31, 0⟩
/-- TILE_CHECK.EN, 06 Table CK-7. -/
def CK_CTRL.TILE_CHECK_EN : FRef := ⟨0x010, 0x110, 0, 0⟩
/-- CHECK_ERR_CNT, 06 Table CK-7. -/
def CK_CTRL.CHECK_ERR_CNT : FRef := ⟨0x010, 0x114, 31, 0⟩
/-- INJ_ECC, 06 Table CK-7. -/
def CK_CTRL.INJ_ECC : FRef := ⟨0x010, 0x800, 1, 0⟩
/-- ARB_STARVE, 06 Table CK-7. -/
def CK_CTRL.ARB_STARVE : FRef := ⟨0x010, 0x804, 15, 0⟩
/-- Q_USED, 06 Table CK-8. -/
def CK_Q.Q_USED (n : Nat) : FRef := ⟨(pgCkQ n), 0x100, 11, 0⟩
/-- RD_BYTES_LO, 06 Table CK-8. -/
def CK_Q.RD_BYTES_LO (n : Nat) : FRef := ⟨(pgCkQ n), 0x108, 31, 0⟩
/-- RD_BYTES_HI, 06 Table CK-8. -/
def CK_Q.RD_BYTES_HI (n : Nat) : FRef := ⟨(pgCkQ n), 0x10C, 31, 0⟩
/-- WR_BYTES_LO, 06 Table CK-8. -/
def CK_Q.WR_BYTES_LO (n : Nat) : FRef := ⟨(pgCkQ n), 0x110, 31, 0⟩
/-- WR_BYTES_HI, 06 Table CK-8. -/
def CK_Q.WR_BYTES_HI (n : Nat) : FRef := ⟨(pgCkQ n), 0x114, 31, 0⟩
/-- XBAR_IN_LO, 06 Table CK-8. -/
def CK_Q.XBAR_IN_LO (n : Nat) : FRef := ⟨(pgCkQ n), 0x118, 31, 0⟩
/-- XBAR_IN_HI, 06 Table CK-8. -/
def CK_Q.XBAR_IN_HI (n : Nat) : FRef := ⟨(pgCkQ n), 0x11C, 31, 0⟩
/-- STARVE_CNT, 06 Table CK-8. -/
def CK_Q.STARVE_CNT (n : Nat) : FRef := ⟨(pgCkQ n), 0x120, 31, 0⟩
/-- LATE_T2, 06 Table CK-9. -/
def CK_TIER.LATE_T2 : FRef := ⟨0x018, 0x100, 15, 0⟩
/-- LATE_T3, 06 Table CK-9. -/
def CK_TIER.LATE_T3 : FRef := ⟨0x018, 0x104, 15, 0⟩
/-- LATE_T4, 06 Table CK-9. -/
def CK_TIER.LATE_T4 : FRef := ⟨0x018, 0x108, 15, 0⟩
/-- LATE_T5, 06 Table CK-9. -/
def CK_TIER.LATE_T5 : FRef := ⟨0x018, 0x10C, 15, 0⟩
/-- LOCKET_LEND_EN, 06 Table CK-9. -/
def CK_TIER.LOCKET_LEND_EN : FRef := ⟨0x018, 0x110, 3, 0⟩
/-- LOCKET_LENT, 06 Table CK-9. -/
def CK_TIER.LOCKET_LENT : FRef := ⟨0x018, 0x110, 11, 8⟩
/-- LEND_T2_TILES, 06 Table CK-9. -/
def CK_TIER.LEND_T2_TILES : FRef := ⟨0x018, 0x114, 23, 0⟩
/-- LEND_RECLAIM, 06 Table CK-9. -/
def CK_TIER.LEND_RECLAIM : FRef := ⟨0x018, 0x118, 0, 0⟩
/-- LATE_CNT, 06 Table CK-9. -/
def CK_TIER.LATE_CNT : FRef := ⟨0x018, 0x11C, 31, 0⟩
/-- FAILED_CNT, 06 Table CK-9. -/
def CK_TIER.FAILED_CNT : FRef := ⟨0x018, 0x120, 31, 0⟩
/-- NOTICE_TICK_LO, 06 Table CK-9. -/
def CK_TIER.NOTICE_TICK_LO : FRef := ⟨0x018, 0x128, 31, 0⟩
/-- NOTICE_TICK_HI, 06 Table CK-9. -/
def CK_TIER.NOTICE_TICK_HI : FRef := ⟨0x018, 0x12C, 31, 0⟩
/-- BORROW_STATE, 06 Table CK-9. -/
def CK_TIER.BORROW_STATE (w : Nat) : FRef := ⟨0x018, 0x140 + 4 * w, 31, 0⟩
/-- QUOTA_T0, 06 Table CK-10. -/
def CK_QUOTA.QUOTA_T0 (w : Nat) : FRef := ⟨0x019, 0x100 + 16 * w, 15, 0⟩
/-- QUOTA_T1, 06 Table CK-10. -/
def CK_QUOTA.QUOTA_T1 (w : Nat) : FRef := ⟨0x019, 0x100 + 16 * w, 31, 16⟩
/-- QUOTA_T2, 06 Table CK-10. -/
def CK_QUOTA.QUOTA_T2 (w : Nat) : FRef := ⟨0x019, 0x104 + 16 * w, 23, 0⟩
/-- PLACE_MODE, 06 Table CK-10. -/
def CK_QUOTA.PLACE_MODE (w : Nat) : FRef := ⟨0x019, 0x104 + 16 * w, 24, 24⟩
/-- USED_T1, 06 Table CK-10. -/
def CK_QUOTA.USED_T1 (w : Nat) : FRef := ⟨0x019, 0x108 + 16 * w, 15, 0⟩
/-- BORROW_T1, 06 Table CK-10. -/
def CK_QUOTA.BORROW_T1 (w : Nat) : FRef := ⟨0x019, 0x108 + 16 * w, 31, 16⟩
/-- USED_T2, 06 Table CK-10. -/
def CK_QUOTA.USED_T2 (w : Nat) : FRef := ⟨0x019, 0x10C + 16 * w, 23, 0⟩
/-- POOL_T1.SIZE, 06 Table CK-10. -/
def CK_QUOTA.POOL_T1_SIZE : FRef := ⟨0x019, 0x500, 15, 0⟩
/-- POOL_T1.USED, 06 Table CK-10. -/
def CK_QUOTA.POOL_T1_USED : FRef := ⟨0x019, 0x500, 31, 16⟩
/-- POOL_T2_SIZE, 06 Table CK-10. -/
def CK_QUOTA.POOL_T2_SIZE : FRef := ⟨0x019, 0x504, 23, 0⟩
/-- POOL_T2_USED, 06 Table CK-10. -/
def CK_QUOTA.POOL_T2_USED : FRef := ⟨0x019, 0x508, 23, 0⟩
/-- QUOTA_STAT.OVERCOMMIT, 06 Table CK-10. -/
def CK_QUOTA.QUOTA_STAT_OVERCOMMIT : FRef := ⟨0x019, 0x50C, 0, 0⟩
/-- QUOTA_STAT.WS, 06 Table CK-10. -/
def CK_QUOTA.QUOTA_STAT_WS : FRef := ⟨0x019, 0x50C, 13, 8⟩
/-- EVICT_CNT, 06 Table CK-10. -/
def CK_QUOTA.EVICT_CNT : FRef := ⟨0x019, 0x510, 31, 0⟩
/-- LOST_CNT, 06 Table CK-10. -/
def CK_QUOTA.LOST_CNT : FRef := ⟨0x019, 0x514, 31, 0⟩
/-- ADDR_VIS_LO, 06 Table CK-10. -/
def CK_QUOTA.ADDR_VIS_LO : FRef := ⟨0x019, 0x800, 31, 0⟩
/-- ADDR_VIS_HI, 06 Table CK-10. -/
def CK_QUOTA.ADDR_VIS_HI : FRef := ⟨0x019, 0x804, 31, 0⟩
/-- PORT_STAT.WS, 06 Table CK-11. -/
def CK_STREAM.PORT_STAT_WS (p : Nat) : FRef := ⟨0x01A, 0x100 + 4 * p, 5, 0⟩
/-- PORT_STAT.CLASS, 06 Table CK-11. -/
def CK_STREAM.PORT_STAT_CLASS (p : Nat) : FRef := ⟨0x01A, 0x100 + 4 * p, 9, 8⟩
/-- PORT_STAT.BOUND, 06 Table CK-11. -/
def CK_STREAM.PORT_STAT_BOUND (p : Nat) : FRef := ⟨0x01A, 0x100 + 4 * p, 12, 12⟩
/-- PORT_STAT.QUAD, 06 Table CK-11. -/
def CK_STREAM.PORT_STAT_QUAD (p : Nat) : FRef := ⟨0x01A, 0x100 + 4 * p, 17, 16⟩
/-- PORT_STAT.RESHARD, 06 Table CK-11. -/
def CK_STREAM.PORT_STAT_RESHARD (p : Nat) : FRef := ⟨0x01A, 0x100 + 4 * p, 24, 24⟩
/-- RSD_BASE_LO, 06 Table CK-12. -/
def CK_RESHARD.RSD_BASE_LO : FRef := ⟨0x01B, 0x100, 31, 0⟩
/-- RSD_BASE_HI, 06 Table CK-12. -/
def CK_RESHARD.RSD_BASE_HI : FRef := ⟨0x01B, 0x104, 31, 0⟩
/-- RSD_COUNT, 06 Table CK-12. -/
def CK_RESHARD.RSD_COUNT : FRef := ⟨0x01B, 0x108, 8, 0⟩
/-- RSD_STAT.BAD, 06 Table CK-12. -/
def CK_RESHARD.RSD_STAT_BAD : FRef := ⟨0x01B, 0x10C, 0, 0⟩
/-- RSD_STAT.BAD_ID, 06 Table CK-12. -/
def CK_RESHARD.RSD_STAT_BAD_ID : FRef := ⟨0x01B, 0x10C, 15, 8⟩
/-- RESHARD_TILES, 06 Table CK-12. -/
def CK_RESHARD.RESHARD_TILES : FRef := ⟨0x01B, 0x110, 31, 0⟩
/-- HBM_STAT.TRAINED, 06 Table CK-13. -/
def HBM.HBM_STAT_TRAINED (n : Nat) : FRef := ⟨(pgHbm n), 0x100, 0, 0⟩
/-- HBM_STAT.SELF_REFRESH, 06 Table CK-13. -/
def HBM.HBM_STAT_SELF_REFRESH (n : Nat) : FRef := ⟨(pgHbm n), 0x100, 1, 1⟩
/-- HBM_STAT.BW_LIMITED, 06 Table CK-13. -/
def HBM.HBM_STAT_BW_LIMITED (n : Nat) : FRef := ⟨(pgHbm n), 0x100, 2, 2⟩
/-- HBM_STAT.REFRESH_2X, 06 Table CK-13. -/
def HBM.HBM_STAT_REFRESH_2X (n : Nat) : FRef := ⟨(pgHbm n), 0x100, 3, 3⟩
/-- HBM_STAT.ZEROING, 06 Table CK-13. -/
def HBM.HBM_STAT_ZEROING (n : Nat) : FRef := ⟨(pgHbm n), 0x100, 4, 4⟩
/-- PATROL_CTRL.EN, 06 Table CK-13. -/
def HBM.PATROL_CTRL_EN (n : Nat) : FRef := ⟨(pgHbm n), 0x104, 0, 0⟩
/-- PATROL_PASSES, 06 Table CK-13. -/
def HBM.PATROL_PASSES (n : Nat) : FRef := ⟨(pgHbm n), 0x108, 31, 0⟩
/-- RD_BYTES_LO, 06 Table CK-13. -/
def HBM.RD_BYTES_LO (n : Nat) : FRef := ⟨(pgHbm n), 0x110, 31, 0⟩
/-- RD_BYTES_HI, 06 Table CK-13. -/
def HBM.RD_BYTES_HI (n : Nat) : FRef := ⟨(pgHbm n), 0x114, 31, 0⟩
/-- WR_BYTES_LO, 06 Table CK-13. -/
def HBM.WR_BYTES_LO (n : Nat) : FRef := ⟨(pgHbm n), 0x118, 31, 0⟩
/-- WR_BYTES_HI, 06 Table CK-13. -/
def HBM.WR_BYTES_HI (n : Nat) : FRef := ⟨(pgHbm n), 0x11C, 31, 0⟩
/-- INJ_ECC, 06 Table CK-13. -/
def HBM.INJ_ECC (n : Nat) : FRef := ⟨(pgHbm n), 0x800, 1, 0⟩
/-- SCHED_CTRL.ADMIT_EN, 07 Table WK-7. -/
def WK_SCHED.SCHED_CTRL_ADMIT_EN : FRef := ⟨0x030, 0x100, 0, 0⟩
/-- HORIZON, 07 Table WK-7. -/
def WK_SCHED.HORIZON : FRef := ⟨0x030, 0x104, 23, 0⟩
/-- LEARN_MAX_AGE, 07 Table WK-7. -/
def WK_SCHED.LEARN_MAX_AGE : FRef := ⟨0x030, 0x108, 23, 0⟩
/-- SHARE_SUM_A.FRAME, 07 Table WK-7. -/
def WK_SCHED.SHARE_SUM_A_FRAME : FRef := ⟨0x030, 0x110, 9, 0⟩
/-- SHARE_SUM_A.MAP, 07 Table WK-7. -/
def WK_SCHED.SHARE_SUM_A_MAP : FRef := ⟨0x030, 0x110, 25, 16⟩
/-- SHARE_SUM_B.LEARN, 07 Table WK-7. -/
def WK_SCHED.SHARE_SUM_B_LEARN : FRef := ⟨0x030, 0x114, 9, 0⟩
/-- SHARE_SUM_B.BULK, 07 Table WK-7. -/
def WK_SCHED.SHARE_SUM_B_BULK : FRef := ⟨0x030, 0x114, 25, 16⟩
/-- SHARE_STAT.OVERCOMMIT, 07 Table WK-7. -/
def WK_SCHED.SHARE_STAT_OVERCOMMIT : FRef := ⟨0x030, 0x118, 0, 0⟩
/-- SHARE_STAT.WS, 07 Table WK-7. -/
def WK_SCHED.SHARE_STAT_WS : FRef := ⟨0x030, 0x118, 13, 8⟩
/-- ADMIT_CNT, 07 Table WK-7. -/
def WK_SCHED.ADMIT_CNT (c : Nat) : FRef := ⟨0x030, 0x120 + 16 * c, 31, 0⟩
/-- DEFER_CNT, 07 Table WK-7. -/
def WK_SCHED.DEFER_CNT (c : Nat) : FRef := ⟨0x030, 0x124 + 16 * c, 31, 0⟩
/-- REFUSE_CNT, 07 Table WK-7. -/
def WK_SCHED.REFUSE_CNT (c : Nat) : FRef := ⟨0x030, 0x128 + 16 * c, 31, 0⟩
/-- LATE_CNT, 07 Table WK-7. -/
def WK_SCHED.LATE_CNT (c : Nat) : FRef := ⟨0x030, 0x12C + 16 * c, 31, 0⟩
/-- PREEMPT_CNT, 07 Table WK-7. -/
def WK_SCHED.PREEMPT_CNT : FRef := ⟨0x030, 0x160, 31, 0⟩
/-- PREEMPT_MAX_LAT, 07 Table WK-7. -/
def WK_SCHED.PREEMPT_MAX_LAT : FRef := ⟨0x030, 0x164, 4, 0⟩
/-- UNIT_STAT.CLAIM, 07 Table WK-7. -/
def WK_SCHED.UNIT_STAT_CLAIM (u : Nat) : FRef := ⟨0x030, 0x180 + 4 * u, 9, 0⟩
/-- UNIT_STAT.OUT, 07 Table WK-7. -/
def WK_SCHED.UNIT_STAT_OUT (u : Nat) : FRef := ⟨0x030, 0x180 + 4 * u, 12, 12⟩
/-- AUDIT_MISMATCH_CNT, 07 Table WK-7. -/
def WK_SCHED.AUDIT_MISMATCH_CNT : FRef := ⟨0x030, 0x200, 31, 0⟩
/-- AUDIT_LAST_PAGE, 07 Table WK-7. -/
def WK_SCHED.AUDIT_LAST_PAGE : FRef := ⟨0x030, 0x204, 9, 0⟩
/-- AUDIT_FENCE_CNT, 07 Table WK-7. -/
def WK_SCHED.AUDIT_FENCE_CNT : FRef := ⟨0x030, 0x208, 31, 0⟩
/-- AUDIT_INJ.PAGE, 07 Table WK-7. -/
def WK_SCHED.AUDIT_INJ_PAGE : FRef := ⟨0x030, 0x800, 9, 0⟩
/-- AUDIT_INJ.EN, 07 Table WK-7. -/
def WK_SCHED.AUDIT_INJ_EN : FRef := ⟨0x030, 0x800, 16, 16⟩
/-- AUDIT_DIS, 07 Table WK-7. -/
def WK_SCHED.AUDIT_DIS : FRef := ⟨0x030, 0x804, 0, 0⟩
/-- RING_BASE_LO, 07 Table WK-8. -/
def WS.RING_BASE_LO (n r : Nat) : FRef := ⟨(pgWs n), 0x100 + 16 * r, 31, 0⟩
/-- RING_BASE_HI, 07 Table WK-8. -/
def WS.RING_BASE_HI (n r : Nat) : FRef := ⟨(pgWs n), 0x104 + 16 * r, 31, 0⟩
/-- RING_CFG.LOG2, 07 Table WK-8. -/
def WS.RING_CFG_LOG2 (n r : Nat) : FRef := ⟨(pgWs n), 0x108 + 16 * r, 3, 0⟩
/-- RING_CFG.LOC, 07 Table WK-8. -/
def WS.RING_CFG_LOC (n r : Nat) : FRef := ⟨(pgWs n), 0x108 + 16 * r, 8, 8⟩
/-- RING_CFG.STOPPED, 07 Table WK-8. -/
def WS.RING_CFG_STOPPED (n r : Nat) : FRef := ⟨(pgWs n), 0x108 + 16 * r, 9, 9⟩
/-- RING_HEAD, 07 Table WK-8. -/
def WS.RING_HEAD (n r : Nat) : FRef := ⟨(pgWs n), 0x10C + 16 * r, 11, 0⟩
/-- RING_TAIL, 07 Table WK-8. -/
def WS.RING_TAIL (n r : Nat) : FRef := ⟨(pgWs n), 0x140 + 4 * r, 11, 0⟩
/-- CANCEL, 07 Table WK-8. -/
def WS.CANCEL (n : Nat) : FRef := ⟨(pgWs n), 0x150, 3, 0⟩
/-- WITHDRAWN, 07 Table WK-8. -/
def WS.WITHDRAWN (n : Nat) : FRef := ⟨(pgWs n), 0x154, 31, 0⟩
/-- DB_ERR_CNT, 07 Table WK-8. -/
def WS.DB_ERR_CNT (n : Nat) : FRef := ⟨(pgWs n), 0x158, 31, 0⟩
/-- CPL_BASE_LO, 07 Table WK-8. -/
def WS.CPL_BASE_LO (n : Nat) : FRef := ⟨(pgWs n), 0x160, 31, 0⟩
/-- CPL_BASE_HI, 07 Table WK-8. -/
def WS.CPL_BASE_HI (n : Nat) : FRef := ⟨(pgWs n), 0x164, 31, 0⟩
/-- CPL_CFG.LOG2, 07 Table WK-8. -/
def WS.CPL_CFG_LOG2 (n : Nat) : FRef := ⟨(pgWs n), 0x168, 3, 0⟩
/-- CPL_CFG.LOC, 07 Table WK-8. -/
def WS.CPL_CFG_LOC (n : Nat) : FRef := ⟨(pgWs n), 0x168, 8, 8⟩
/-- CPL_CFG.IRQ_EN, 07 Table WK-8. -/
def WS.CPL_CFG_IRQ_EN (n : Nat) : FRef := ⟨(pgWs n), 0x168, 9, 9⟩
/-- CPL_CFG.MODERATE, 07 Table WK-8. -/
def WS.CPL_CFG_MODERATE (n : Nat) : FRef := ⟨(pgWs n), 0x168, 31, 16⟩
/-- CPL_WR_IDX, 07 Table WK-8. -/
def WS.CPL_WR_IDX (n : Nat) : FRef := ⟨(pgWs n), 0x16C, 13, 0⟩
/-- CPL_RD_IDX, 07 Table WK-8. -/
def WS.CPL_RD_IDX (n : Nat) : FRef := ⟨(pgWs n), 0x170, 13, 0⟩
/-- CPL_STAT.FULL, 07 Table WK-8. -/
def WS.CPL_STAT_FULL (n : Nat) : FRef := ⟨(pgWs n), 0x174, 0, 0⟩
/-- CPL_STAT.HELD, 07 Table WK-8. -/
def WS.CPL_STAT_HELD (n : Nat) : FRef := ⟨(pgWs n), 0x174, 1, 1⟩
/-- CPL_STAT.SHADOW_BAD, 07 Table WK-8. -/
def WS.CPL_STAT_SHADOW_BAD (n : Nat) : FRef := ⟨(pgWs n), 0x174, 2, 2⟩
/-- CPL_STAT_PREEMPT_DROPPED, 07 Table WK-8. -/
def WS.CPL_STAT_PREEMPT_DROPPED (n : Nat) : FRef := ⟨(pgWs n), 0x178, 31, 0⟩
/-- SHARE, 07 Table WK-8. -/
def WS.SHARE (n c : Nat) : FRef := ⟨(pgWs n), 0x180 + 4 * c, 9, 0⟩
/-- GRANT_BASE_LO, 07 Table WK-8. -/
def WS.GRANT_BASE_LO (n g : Nat) : FRef := ⟨(pgWs n), 0x190 + 16 * g, 31, 0⟩
/-- GRANT_BASE_HI, 07 Table WK-8. -/
def WS.GRANT_BASE_HI (n g : Nat) : FRef := ⟨(pgWs n), 0x194 + 16 * g, 31, 0⟩
/-- GRANT_SIZE, 07 Table WK-8. -/
def WS.GRANT_SIZE (n g : Nat) : FRef := ⟨(pgWs n), 0x198 + 16 * g, 11, 0⟩
/-- GRANT_CTRL.EN, 07 Table WK-8. -/
def WS.GRANT_CTRL_EN (n g : Nat) : FRef := ⟨(pgWs n), 0x19C + 16 * g, 0, 0⟩
/-- GRANT_CTRL.WR, 07 Table WK-8. -/
def WS.GRANT_CTRL_WR (n g : Nat) : FRef := ⟨(pgWs n), 0x19C + 16 * g, 1, 1⟩
/-- WS_STAT.PENDING, 07 Table WK-8. -/
def WS.WS_STAT_PENDING (n : Nat) : FRef := ⟨(pgWs n), 0x1D0, 15, 0⟩
/-- WS_STAT.INFLIGHT, 07 Table WK-8. -/
def WS.WS_STAT_INFLIGHT (n : Nat) : FRef := ⟨(pgWs n), 0x1D0, 31, 16⟩
/-- BAR2_ERR_CNT, 07 Table WK-8. -/
def WS.BAR2_ERR_CNT (n : Nat) : FRef := ⟨(pgWs n), 0x1D4, 31, 0⟩
/-- CPL_SHADOW_BASE_LO, 07 Table WK-8. -/
def WS.CPL_SHADOW_BASE_LO (n : Nat) : FRef := ⟨(pgWs n), 0x1D8, 31, 0⟩
/-- CPL_SHADOW_BASE_HI, 07 Table WK-8. -/
def WS.CPL_SHADOW_BASE_HI (n : Nat) : FRef := ⟨(pgWs n), 0x1DC, 31, 0⟩
/-- FCT_ID.POSITION, 08 Table FCT-7. -/
def FCT0.FCT_ID_POSITION (f : Nat) : FRef := ⟨(pgFct f 0), 0x100, 1, 0⟩
/-- TC_EN, 08 Table FCT-7. -/
def FCT0.TC_EN (f : Nat) : FRef := ⟨(pgFct f 0), 0x104, 7, 0⟩
/-- TC_OUT, 08 Table FCT-7. -/
def FCT0.TC_OUT (f : Nat) : FRef := ⟨(pgFct f 0), 0x108, 7, 0⟩
/-- TC_AVAIL, 08 Table FCT-7. -/
def FCT0.TC_AVAIL (f : Nat) : FRef := ⟨(pgFct f 0), 0x10C, 3, 0⟩
/-- VC_PAIRED, 08 Table FCT-7. -/
def FCT0.VC_PAIRED (f : Nat) : FRef := ⟨(pgFct f 0), 0x10C, 8, 8⟩
/-- OP, 08 Table FCT-7. -/
def FCT0.OP (f : Nat) : FRef := ⟨(pgFct f 0), 0x110, 3, 0⟩
/-- T0_FREE, 08 Table FCT-7. -/
def FCT0.T0_FREE (f : Nat) : FRef := ⟨(pgFct f 0), 0x114, 11, 0⟩
/-- TC_STRIKE_MAX, 08 Table FCT-7. -/
def FCT0.TC_STRIKE_MAX (f : Nat) : FRef := ⟨(pgFct f 0), 0x800, 3, 0⟩
/-- TC_STRIKES, 08 Table FCT-8. -/
def FCT1.TC_STRIKES (f t : Nat) : FRef := ⟨(pgFct f 1), 0x100 + 4 * t, 3, 0⟩
/-- ABFT_TILES_LO, 08 Table FCT-8. -/
def FCT1.ABFT_TILES_LO (f : Nat) : FRef := ⟨(pgFct f 1), 0x120, 31, 0⟩
/-- ABFT_TILES_HI, 08 Table FCT-8. -/
def FCT1.ABFT_TILES_HI (f : Nat) : FRef := ⟨(pgFct f 1), 0x124, 31, 0⟩
/-- ABFT_RECOMP, 08 Table FCT-8. -/
def FCT1.ABFT_RECOMP (f : Nat) : FRef := ⟨(pgFct f 1), 0x128, 31, 0⟩
/-- ABFT_FAIL, 08 Table FCT-8. -/
def FCT1.ABFT_FAIL (f : Nat) : FRef := ⟨(pgFct f 1), 0x12C, 31, 0⟩
/-- NONFINITE_TILES, 08 Table FCT-8. -/
def FCT1.NONFINITE_TILES (f : Nat) : FRef := ⟨(pgFct f 1), 0x130, 31, 0⟩
/-- SAT_CNT, 08 Table FCT-8. -/
def FCT1.SAT_CNT (f : Nat) : FRef := ⟨(pgFct f 1), 0x134, 31, 0⟩
/-- ABFT_LAST.ROW, 08 Table FCT-8. -/
def FCT1.ABFT_LAST_ROW (f : Nat) : FRef := ⟨(pgFct f 1), 0x138, 7, 0⟩
/-- ABFT_LAST.COL, 08 Table FCT-8. -/
def FCT1.ABFT_LAST_COL (f : Nat) : FRef := ⟨(pgFct f 1), 0x138, 15, 8⟩
/-- ABFT_LAST.CORE, 08 Table FCT-8. -/
def FCT1.ABFT_LAST_CORE (f : Nat) : FRef := ⟨(pgFct f 1), 0x138, 18, 16⟩
/-- ABFT_TOL, 08 Table FCT-8. -/
def FCT1.ABFT_TOL (f : Nat) : FRef := ⟨(pgFct f 1), 0x800, 4, 0⟩
/-- ABFT_DIS, 08 Table FCT-8. -/
def FCT1.ABFT_DIS (f : Nat) : FRef := ⟨(pgFct f 1), 0x804, 0, 0⟩
/-- VC_PAIR_MISMATCH, 08 Table FCT-9. -/
def FCT2.VC_PAIR_MISMATCH (f : Nat) : FRef := ⟨(pgFct f 2), 0x100, 31, 0⟩
/-- VC_BUSY_LO, 08 Table FCT-9. -/
def FCT2.VC_BUSY_LO (f : Nat) : FRef := ⟨(pgFct f 2), 0x104, 31, 0⟩
/-- VC_BUSY_HI, 08 Table FCT-9. -/
def FCT2.VC_BUSY_HI (f : Nat) : FRef := ⟨(pgFct f 2), 0x108, 31, 0⟩
/-- USED_T0, 08 Table FCT-10. -/
def FCT3.USED_T0 (f w : Nat) : FRef := ⟨(pgFct f 3), 0x100 + 4 * w, 11, 0⟩
/-- PINNED_T0, 08 Table FCT-10. -/
def FCT3.PINNED_T0 (f w : Nat) : FRef := ⟨(pgFct f 3), 0x100 + 4 * w, 27, 16⟩
/-- LKT_LEVEL, 08 Table FCT-10. -/
def FCT3.LKT_LEVEL (f : Nat) : FRef := ⟨(pgFct f 3), 0x200, 1, 0⟩
/-- LKT_LENT, 08 Table FCT-10. -/
def FCT3.LKT_LENT (f : Nat) : FRef := ⟨(pgFct f 3), 0x200, 8, 8⟩
/-- INJ_ECC, 08 Table FCT-10. -/
def FCT3.INJ_ECC (f : Nat) : FRef := ⟨(pgFct f 3), 0x800, 1, 0⟩
/-- RING_UP, 08 Table FCT-11. -/
def FCT4.RING_UP (f : Nat) : FRef := ⟨(pgFct f 4), 0x100, 3, 0⟩
/-- XCHG_STEPS, 08 Table FCT-11. -/
def FCT4.XCHG_STEPS (f : Nat) : FRef := ⟨(pgFct f 4), 0x104, 31, 0⟩
/-- XCHG_WAIT, 08 Table FCT-11. -/
def FCT4.XCHG_WAIT (f : Nat) : FRef := ⟨(pgFct f 4), 0x108, 31, 0⟩
/-- MAC_CYC_LO, 08 Table FCT-12. -/
def FCT5.MAC_CYC_LO (f c : Nat) : FRef := ⟨(pgFct f 5), 0x100 + 8 * c, 31, 0⟩
/-- MAC_CYC_HI, 08 Table FCT-12. -/
def FCT5.MAC_CYC_HI (f c : Nat) : FRef := ⟨(pgFct f 5), 0x104 + 8 * c, 31, 0⟩
/-- AVAIL_CYC_LO, 08 Table FCT-12. -/
def FCT5.AVAIL_CYC_LO (f : Nat) : FRef := ⟨(pgFct f 5), 0x120, 31, 0⟩
/-- AVAIL_CYC_HI, 08 Table FCT-12. -/
def FCT5.AVAIL_CYC_HI (f : Nat) : FRef := ⟨(pgFct f 5), 0x124, 31, 0⟩
/-- INJ_TC.CORE, 08 Table FCT-13. -/
def FCT6.INJ_TC_CORE (f : Nat) : FRef := ⟨(pgFct f 6), 0x800, 2, 0⟩
/-- INJ_TC.EN, 08 Table FCT-13. -/
def FCT6.INJ_TC_EN (f : Nat) : FRef := ⟨(pgFct f 6), 0x800, 8, 8⟩
/-- INJ_TC.BOTH, 08 Table FCT-13. -/
def FCT6.INJ_TC_BOTH (f : Nat) : FRef := ⟨(pgFct f 6), 0x800, 9, 9⟩
/-- INJ_VC.CORE, 08 Table FCT-13. -/
def FCT6.INJ_VC_CORE (f : Nat) : FRef := ⟨(pgFct f 6), 0x804, 1, 0⟩
/-- INJ_VC.EN, 08 Table FCT-13. -/
def FCT6.INJ_VC_EN (f : Nat) : FRef := ⟨(pgFct f 6), 0x804, 8, 8⟩
/-- LOOKUP_CNT_LO, 09 Table MAP-7. -/
def GSE.LOOKUP_CNT_LO (n : Nat) : FRef := ⟨(pgGse n), 0x100, 31, 0⟩
/-- LOOKUP_CNT_HI, 09 Table MAP-7. -/
def GSE.LOOKUP_CNT_HI (n : Nat) : FRef := ⟨(pgGse n), 0x104, 31, 0⟩
/-- HIT_CNT_LO, 09 Table MAP-7. -/
def GSE.HIT_CNT_LO (n : Nat) : FRef := ⟨(pgGse n), 0x108, 31, 0⟩
/-- HIT_CNT_HI, 09 Table MAP-7. -/
def GSE.HIT_CNT_HI (n : Nat) : FRef := ⟨(pgGse n), 0x10C, 31, 0⟩
/-- UPDATE_CNT, 09 Table MAP-7. -/
def GSE.UPDATE_CNT (n : Nat) : FRef := ⟨(pgGse n), 0x110, 31, 0⟩
/-- UPD_DROP_CNT, 09 Table MAP-7. -/
def GSE.UPD_DROP_CNT (n : Nat) : FRef := ⟨(pgGse n), 0x114, 31, 0⟩
/-- SHADOW_WAIT, 09 Table MAP-7. -/
def GSE.SHADOW_WAIT (n : Nat) : FRef := ⟨(pgGse n), 0x118, 31, 0⟩
/-- BAD_ROW_CNT, 09 Table MAP-7. -/
def GSE.BAD_ROW_CNT (n : Nat) : FRef := ⟨(pgGse n), 0x11C, 31, 0⟩
/-- REMOTE_LATE, 09 Table MAP-7. -/
def GSE.REMOTE_LATE (n : Nat) : FRef := ⟨(pgGse n), 0x120, 15, 0⟩
/-- ROUND_NUM_LO, 09 Table MAP-7. -/
def GSE.ROUND_NUM_LO (n : Nat) : FRef := ⟨(pgGse n), 0x128, 31, 0⟩
/-- ROUND_NUM_HI, 09 Table MAP-7. -/
def GSE.ROUND_NUM_HI (n : Nat) : FRef := ⟨(pgGse n), 0x12C, 31, 0⟩
/-- ROUNDS_OPEN, 09 Table MAP-7. -/
def GSE.ROUNDS_OPEN (n : Nat) : FRef := ⟨(pgGse n), 0x130, 2, 0⟩
/-- REISSUE_CNT, 09 Table MAP-7. -/
def GSE.REISSUE_CNT (n : Nat) : FRef := ⟨(pgGse n), 0x134, 31, 0⟩
/-- PEER_SERVED_CNT, 09 Table MAP-7. -/
def GSE.PEER_SERVED_CNT (n : Nat) : FRef := ⟨(pgGse n), 0x138, 31, 0⟩
/-- MERGE_USED, 09 Table MAP-7. -/
def GSE.MERGE_USED (n : Nat) : FRef := ⟨(pgGse n), 0x13C, 16, 0⟩
/-- MERGE_WAIT, 09 Table MAP-7. -/
def GSE.MERGE_WAIT (n : Nat) : FRef := ⟨(pgGse n), 0x140, 31, 0⟩
/-- SR_SEED, 09 Table MAP-7. -/
def GSE.SR_SEED (n : Nat) : FRef := ⟨(pgGse n), 0x144, 31, 0⟩
/-- SHADOW_FREE, 09 Table MAP-7. -/
def GSE.SHADOW_FREE (n : Nat) : FRef := ⟨(pgGse n), 0x148, 23, 0⟩
/-- ROUND_TICKS, 09 Table MAP-7. -/
def GSE.ROUND_TICKS (n : Nat) : FRef := ⟨(pgGse n), 0x800, 7, 0⟩
/-- ROUND_BATCH, 09 Table MAP-7. -/
def GSE.ROUND_BATCH (n : Nat) : FRef := ⟨(pgGse n), 0x804, 12, 0⟩
/-- INJ_ECC, 09 Table MAP-7. -/
def GSE.INJ_ECC (n : Nat) : FRef := ⟨(pgGse n), 0x808, 1, 0⟩
/-- DIR_BASE_LO, 09 Table MAP-8. -/
def MAP_DIR.DIR_BASE_LO : FRef := ⟨0x062, 0x100, 31, 0⟩
/-- DIR_BASE_HI, 09 Table MAP-8. -/
def MAP_DIR.DIR_BASE_HI : FRef := ⟨0x062, 0x104, 31, 0⟩
/-- TBL_CMD.TABLE, 09 Table MAP-8. -/
def MAP_DIR.TBL_CMD_TABLE : FRef := ⟨0x062, 0x108, 7, 0⟩
/-- TBL_CMD.ACT, 09 Table MAP-8. -/
def MAP_DIR.TBL_CMD_ACT : FRef := ⟨0x062, 0x108, 8, 8⟩
/-- TBL_CMD.DEACT, 09 Table MAP-8. -/
def MAP_DIR.TBL_CMD_DEACT : FRef := ⟨0x062, 0x108, 9, 9⟩
/-- TBL_CMD_STAT.RESULT, 09 Table MAP-8. -/
def MAP_DIR.TBL_CMD_STAT_RESULT : FRef := ⟨0x062, 0x10C, 1, 0⟩
/-- TBL_CMD_STAT.TABLE, 09 Table MAP-8. -/
def MAP_DIR.TBL_CMD_STAT_TABLE : FRef := ⟨0x062, 0x10C, 15, 8⟩
/-- TBL_CMD_STAT.REASON, 09 Table MAP-8. -/
def MAP_DIR.TBL_CMD_STAT_REASON : FRef := ⟨0x062, 0x10C, 23, 16⟩
/-- ACTIVE, 09 Table MAP-8. -/
def MAP_DIR.ACTIVE (i : Nat) : FRef := ⟨0x062, 0x110 + 4 * i, 31, 0⟩
/-- EPOCH, 09 Table MAP-8. -/
def MAP_DIR.EPOCH : FRef := ⟨0x062, 0x130, 31, 0⟩
/-- RC_SIZE, 09 Table MAP-9. -/
def ROWCACHE.RC_SIZE : FRef := ⟨0x063, 0x100, 12, 0⟩
/-- RC_ALLOC, 09 Table MAP-9. -/
def ROWCACHE.RC_ALLOC : FRef := ⟨0x063, 0x104, 12, 0⟩
/-- ADMIT_CNT, 09 Table MAP-9. -/
def ROWCACHE.ADMIT_CNT : FRef := ⟨0x063, 0x108, 31, 0⟩
/-- BYPASS_CNT, 09 Table MAP-9. -/
def ROWCACHE.BYPASS_CNT : FRef := ⟨0x063, 0x10C, 31, 0⟩
/-- EVICT_CNT, 09 Table MAP-9. -/
def ROWCACHE.EVICT_CNT : FRef := ⟨0x063, 0x110, 31, 0⟩
/-- WRITEBACK_CNT, 09 Table MAP-9. -/
def ROWCACHE.WRITEBACK_CNT : FRef := ⟨0x063, 0x114, 31, 0⟩
/-- SKETCH_ACC, 09 Table MAP-9. -/
def ROWCACHE.SKETCH_ACC : FRef := ⟨0x063, 0x118, 19, 0⟩
/-- HALVINGS, 09 Table MAP-9. -/
def ROWCACHE.HALVINGS : FRef := ⟨0x063, 0x11C, 31, 0⟩
/-- SKETCH_CLEAR, 09 Table MAP-9. -/
def ROWCACHE.SKETCH_CLEAR : FRef := ⟨0x063, 0x800, 0, 0⟩
/-- PEEK_TABLE, 09 Table MAP-9. -/
def ROWCACHE.PEEK_TABLE : FRef := ⟨0x063, 0x804, 7, 0⟩
/-- PEEK_ROW, 09 Table MAP-9. -/
def ROWCACHE.PEEK_ROW : FRef := ⟨0x063, 0x808, 31, 0⟩
/-- PEEK_EST, 09 Table MAP-9. -/
def ROWCACHE.PEEK_EST : FRef := ⟨0x063, 0x80C, 3, 0⟩
/-- IDX_BASE_LO, 10 Table LP-9. -/
def LP.IDX_BASE_LO (n : Nat) : FRef := ⟨(pgLp n), 0x100, 31, 0⟩
/-- IDX_BASE_HI, 10 Table LP-9. -/
def LP.IDX_BASE_HI (n : Nat) : FRef := ⟨(pgLp n), 0x104, 31, 0⟩
/-- IDX_CMD.INDEX, 10 Table LP-9. -/
def LP.IDX_CMD_INDEX (n : Nat) : FRef := ⟨(pgLp n), 0x108, 5, 0⟩
/-- IDX_CMD.ACT, 10 Table LP-9. -/
def LP.IDX_CMD_ACT (n : Nat) : FRef := ⟨(pgLp n), 0x108, 8, 8⟩
/-- IDX_CMD.DEACT, 10 Table LP-9. -/
def LP.IDX_CMD_DEACT (n : Nat) : FRef := ⟨(pgLp n), 0x108, 9, 9⟩
/-- IDX_CMD_STAT.RESULT, 10 Table LP-9. -/
def LP.IDX_CMD_STAT_RESULT (n : Nat) : FRef := ⟨(pgLp n), 0x10C, 1, 0⟩
/-- IDX_CMD_STAT.INDEX, 10 Table LP-9. -/
def LP.IDX_CMD_STAT_INDEX (n : Nat) : FRef := ⟨(pgLp n), 0x10C, 13, 8⟩
/-- IDX_CMD_STAT.REASON, 10 Table LP-9. -/
def LP.IDX_CMD_STAT_REASON (n : Nat) : FRef := ⟨(pgLp n), 0x10C, 23, 16⟩
/-- IDX_ACTIVE_LO, 10 Table LP-9. -/
def LP.IDX_ACTIVE_LO (n : Nat) : FRef := ⟨(pgLp n), 0x110, 31, 0⟩
/-- IDX_ACTIVE_HI, 10 Table LP-9. -/
def LP.IDX_ACTIVE_HI (n : Nat) : FRef := ⟨(pgLp n), 0x114, 31, 0⟩
/-- CTX_BUSY, 10 Table LP-9. -/
def LP.CTX_BUSY (n : Nat) : FRef := ⟨(pgLp n), 0x118, 10, 0⟩
/-- RSV_FRAME, 10 Table LP-9. -/
def LP.RSV_FRAME (n : Nat) : FRef := ⟨(pgLp n), 0x11C, 10, 0⟩
/-- QUERY_CNT_LO, 10 Table LP-9. -/
def LP.QUERY_CNT_LO (n : Nat) : FRef := ⟨(pgLp n), 0x120, 31, 0⟩
/-- QUERY_CNT_HI, 10 Table LP-9. -/
def LP.QUERY_CNT_HI (n : Nat) : FRef := ⟨(pgLp n), 0x124, 31, 0⟩
/-- DIST_CNT_LO, 10 Table LP-9. -/
def LP.DIST_CNT_LO (n : Nat) : FRef := ⟨(pgLp n), 0x128, 31, 0⟩
/-- DIST_CNT_HI, 10 Table LP-9. -/
def LP.DIST_CNT_HI (n : Nat) : FRef := ⟨(pgLp n), 0x12C, 31, 0⟩
/-- BUDGET_STOP_CNT, 10 Table LP-9. -/
def LP.BUDGET_STOP_CNT (n : Nat) : FRef := ⟨(pgLp n), 0x130, 31, 0⟩
/-- VISIT_SAT_CNT, 10 Table LP-9. -/
def LP.VISIT_SAT_CNT (n : Nat) : FRef := ⟨(pgLp n), 0x134, 31, 0⟩
/-- BAD_NBR_CNT, 10 Table LP-9. -/
def LP.BAD_NBR_CNT (n : Nat) : FRef := ⟨(pgLp n), 0x138, 31, 0⟩
/-- NAN_DIST_CNT, 10 Table LP-9. -/
def LP.NAN_DIST_CNT (n : Nat) : FRef := ⟨(pgLp n), 0x13C, 31, 0⟩
/-- BATCH_WINDOW, 10 Table LP-9. -/
def LP.BATCH_WINDOW (n : Nat) : FRef := ⟨(pgLp n), 0x140, 15, 0⟩
/-- BATCH_MAX, 10 Table LP-9. -/
def LP.BATCH_MAX (n : Nat) : FRef := ⟨(pgLp n), 0x144, 10, 0⟩
/-- SHARD_MISS_CNT, 10 Table LP-9. -/
def LP.SHARD_MISS_CNT (n : Nat) : FRef := ⟨(pgLp n), 0x148, 31, 0⟩
/-- PEER_WS, 10 Table LP-9. -/
def LP.PEER_WS (n : Nat) : FRef := ⟨(pgLp n), 0x14C, 5, 0⟩
/-- PEER_SERVED_CNT, 10 Table LP-9. -/
def LP.PEER_SERVED_CNT (n : Nat) : FRef := ⟨(pgLp n), 0x150, 31, 0⟩
/-- PEER_REFUSED_CNT, 10 Table LP-9. -/
def LP.PEER_REFUSED_CNT (n : Nat) : FRef := ⟨(pgLp n), 0x154, 31, 0⟩
/-- PAIR_MISMATCH, 10 Table LP-9. -/
def LP.PAIR_MISMATCH (n : Nat) : FRef := ⟨(pgLp n), 0x158, 31, 0⟩
/-- LANE_BUSY, 10 Table LP-9. -/
def LP.LANE_BUSY (n : Nat) : FRef := ⟨(pgLp n), 0x15C, 31, 0⟩
/-- INJ_ECC, 10 Table LP-9. -/
def LP.INJ_ECC (n : Nat) : FRef := ⟨(pgLp n), 0x800, 1, 0⟩
/-- INJ_LANE.LANE, 10 Table LP-9. -/
def LP.INJ_LANE_LANE (n : Nat) : FRef := ⟨(pgLp n), 0x804, 3, 0⟩
/-- INJ_LANE.EN, 10 Table LP-9. -/
def LP.INJ_LANE_EN (n : Nat) : FRef := ⟨(pgLp n), 0x804, 8, 8⟩
/-- SOLVE_CNT_LO, 11 Table ISE-7. -/
def ISE.SOLVE_CNT_LO (n : Nat) : FRef := ⟨(pgIse n), 0x100, 31, 0⟩
/-- SOLVE_CNT_HI, 11 Table ISE-7. -/
def ISE.SOLVE_CNT_HI (n : Nat) : FRef := ⟨(pgIse n), 0x104, 31, 0⟩
/-- ITER_CNT, 11 Table ISE-7. -/
def ISE.ITER_CNT (n : Nat) : FRef := ⟨(pgIse n), 0x108, 31, 0⟩
/-- CONV_CNT, 11 Table ISE-7. -/
def ISE.CONV_CNT (n : Nat) : FRef := ⟨(pgIse n), 0x10C, 31, 0⟩
/-- CAP_CNT, 11 Table ISE-7. -/
def ISE.CAP_CNT (n : Nat) : FRef := ⟨(pgIse n), 0x110, 31, 0⟩
/-- NAN_CNT, 11 Table ISE-7. -/
def ISE.NAN_CNT (n : Nat) : FRef := ⟨(pgIse n), 0x114, 31, 0⟩
/-- PIVOT_CNT, 11 Table ISE-7. -/
def ISE.PIVOT_CNT (n : Nat) : FRef := ⟨(pgIse n), 0x118, 31, 0⟩
/-- RESTART_CNT, 11 Table ISE-7. -/
def ISE.RESTART_CNT (n : Nat) : FRef := ⟨(pgIse n), 0x11C, 31, 0⟩
/-- RECHECK_CNT, 11 Table ISE-7. -/
def ISE.RECHECK_CNT (n : Nat) : FRef := ⟨(pgIse n), 0x120, 31, 0⟩
/-- LAST_PIVOT_ROW, 11 Table ISE-7. -/
def ISE.LAST_PIVOT_ROW (n : Nat) : FRef := ⟨(pgIse n), 0x124, 31, 0⟩
/-- LAST_STATUS.CAUSE, 11 Table ISE-7. -/
def ISE.LAST_STATUS_CAUSE (n : Nat) : FRef := ⟨(pgIse n), 0x128, 7, 0⟩
/-- LAST_STATUS.STOP, 11 Table ISE-7. -/
def ISE.LAST_STATUS_STOP (n : Nat) : FRef := ⟨(pgIse n), 0x128, 10, 8⟩
/-- RECHECK_TICKS, 11 Table ISE-7. -/
def ISE.RECHECK_TICKS (n : Nat) : FRef := ⟨(pgIse n), 0x12C, 15, 0⟩
/-- RECHECK_BITS, 11 Table ISE-7. -/
def ISE.RECHECK_BITS (n : Nat) : FRef := ⟨(pgIse n), 0x130, 4, 0⟩
/-- RECHECK_FAULT_CNT, 11 Table ISE-7. -/
def ISE.RECHECK_FAULT_CNT (n : Nat) : FRef := ⟨(pgIse n), 0x134, 31, 0⟩
/-- INPUT_CHANGED_CNT, 11 Table ISE-7. -/
def ISE.INPUT_CHANGED_CNT (n : Nat) : FRef := ⟨(pgIse n), 0x138, 31, 0⟩
/-- SHIFT_CTRL.EN, 11 Table ISE-7. -/
def ISE.SHIFT_CTRL_EN (n : Nat) : FRef := ⟨(pgIse n), 0x800, 0, 0⟩
/-- SHIFT_CTRL.SHIFT_E0, 11 Table ISE-7. -/
def ISE.SHIFT_CTRL_SHIFT_E0 (n : Nat) : FRef := ⟨(pgIse n), 0x800, 12, 8⟩
/-- SHIFT_CTRL.SHIFT_STEP, 11 Table ISE-7. -/
def ISE.SHIFT_CTRL_SHIFT_STEP (n : Nat) : FRef := ⟨(pgIse n), 0x800, 18, 16⟩
/-- SHIFT_CTRL.SHIFT_MAX, 11 Table ISE-7. -/
def ISE.SHIFT_CTRL_SHIFT_MAX (n : Nat) : FRef := ⟨(pgIse n), 0x800, 27, 24⟩
/-- SHIFT_CNT, 11 Table ISE-7. -/
def ISE.SHIFT_CNT (n : Nat) : FRef := ⟨(pgIse n), 0x804, 31, 0⟩
/-- RECHECK_DIS, 11 Table ISE-7. -/
def ISE.RECHECK_DIS (n : Nat) : FRef := ⟨(pgIse n), 0x808, 0, 0⟩
/-- INJ_ECC, 11 Table ISE-7. -/
def ISE.INJ_ECC (n : Nat) : FRef := ⟨(pgIse n), 0x80C, 1, 0⟩
/-- INJ_RECHECK.EN, 11 Table ISE-7. -/
def ISE.INJ_RECHECK_EN (n : Nat) : FRef := ⟨(pgIse n), 0x810, 0, 0⟩
/-- OUT_BASE_LO, 12 Table FIL-9. -/
def FIL.OUT_BASE_LO : FRef := ⟨0x078, 0x100, 31, 0⟩
/-- OUT_BASE_HI, 12 Table FIL-9. -/
def FIL.OUT_BASE_HI : FRef := ⟨0x078, 0x104, 31, 0⟩
/-- OUT_CFG.LOG2, 12 Table FIL-9. -/
def FIL.OUT_CFG_LOG2 : FRef := ⟨0x078, 0x108, 3, 0⟩
/-- OUT_CFG.EN, 12 Table FIL-9. -/
def FIL.OUT_CFG_EN : FRef := ⟨0x078, 0x108, 8, 8⟩
/-- OUT_WR_IDX, 12 Table FIL-9. -/
def FIL.OUT_WR_IDX : FRef := ⟨0x078, 0x10C, 14, 0⟩
/-- OUT_RD_IDX, 12 Table FIL-9. -/
def FIL.OUT_RD_IDX : FRef := ⟨0x078, 0x110, 14, 0⟩
/-- OUT_STAT.OVERFLOW, 12 Table FIL-9. -/
def FIL.OUT_STAT_OVERFLOW : FRef := ⟨0x078, 0x114, 0, 0⟩
/-- OUT_STAT.BASE_BAD, 12 Table FIL-9. -/
def FIL.OUT_STAT_BASE_BAD : FRef := ⟨0x078, 0x114, 1, 1⟩
/-- OUT_LOST, 12 Table FIL-9. -/
def FIL.OUT_LOST : FRef := ⟨0x078, 0x118, 31, 0⟩
/-- OUT_MASK, 12 Table FIL-9. -/
def FIL.OUT_MASK : FRef := ⟨0x078, 0x11C, 23, 0⟩
/-- CHAN_ACTIVE, 12 Table FIL-9. -/
def FIL.CHAN_ACTIVE : FRef := ⟨0x078, 0x120, 23, 0⟩
/-- SAT_CNT, 12 Table FIL-9. -/
def FIL.SAT_CNT : FRef := ⟨0x078, 0x124, 31, 0⟩
/-- FILTER_CNT, 12 Table FIL-9. -/
def FIL.FILTER_CNT : FRef := ⟨0x078, 0x128, 31, 0⟩
/-- PAIR_MISMATCH, 12 Table FIL-9. -/
def FIL.PAIR_MISMATCH : FRef := ⟨0x078, 0x12C, 31, 0⟩
/-- INJ_ECC, 12 Table FIL-9. -/
def FIL.INJ_ECC : FRef := ⟨0x078, 0x800, 1, 0⟩
/-- INJ_PAIR.CHANNEL, 12 Table FIL-9. -/
def FIL.INJ_PAIR_CHANNEL : FRef := ⟨0x078, 0x804, 4, 0⟩
/-- INJ_PAIR.EN, 12 Table FIL-9. -/
def FIL.INJ_PAIR_EN : FRef := ⟨0x078, 0x804, 8, 8⟩
/-- CFG_A.EN, 12 Table FIL-10. -/
def FIL_CH.CFG_A_EN (k : Nat) : FRef := ⟨0x079, 0x100 + 16 * k, 0, 0⟩
/-- CFG_A.RANK_EN, 12 Table FIL-10. -/
def FIL_CH.CFG_A_RANK_EN (k : Nat) : FRef := ⟨0x079, 0x100 + 16 * k, 1, 1⟩
/-- CFG_A.RANK_W, 12 Table FIL-10. -/
def FIL_CH.CFG_A_RANK_W (k : Nat) : FRef := ⟨0x079, 0x100 + 16 * k, 3, 2⟩
/-- CFG_A.RANK_R, 12 Table FIL-10. -/
def FIL_CH.CFG_A_RANK_R (k : Nat) : FRef := ⟨0x079, 0x100 + 16 * k, 7, 4⟩
/-- CFG_A.ROM, 12 Table FIL-10. -/
def FIL_CH.CFG_A_ROM (k : Nat) : FRef := ⟨0x079, 0x100 + 16 * k, 12, 8⟩
/-- CFG_A.CIC_ORDER, 12 Table FIL-10. -/
def FIL_CH.CFG_A_CIC_ORDER (k : Nat) : FRef := ⟨0x079, 0x100 + 16 * k, 18, 16⟩
/-- CFG_A.D_LOG2, 12 Table FIL-10. -/
def FIL_CH.CFG_A_D_LOG2 (k : Nat) : FRef := ⟨0x079, 0x100 + 16 * k, 23, 20⟩
/-- CFG_A.RANGE, 12 Table FIL-10. -/
def FIL_CH.CFG_A_RANGE (k : Nat) : FRef := ⟨0x079, 0x100 + 16 * k, 25, 24⟩
/-- CFG_B.SHIFT, 12 Table FIL-10. -/
def FIL_CH.CFG_B_SHIFT (k : Nat) : FRef := ⟨0x079, 0x104 + 16 * k, 19, 0⟩
/-- CFG_B.SPM_PORT, 12 Table FIL-10. -/
def FIL_CH.CFG_B_SPM_PORT (k : Nat) : FRef := ⟨0x079, 0x104 + 16 * k, 25, 24⟩
/-- CFG_B.SPM_CS, 12 Table FIL-10. -/
def FIL_CH.CFG_B_SPM_CS (k : Nat) : FRef := ⟨0x079, 0x104 + 16 * k, 27, 26⟩
/-- CFG_C.OUT_MODE, 12 Table FIL-10. -/
def FIL_CH.CFG_C_OUT_MODE (k : Nat) : FRef := ⟨0x079, 0x108 + 16 * k, 1, 0⟩
/-- CFG_C.FSYNC_SEL, 12 Table FIL-10. -/
def FIL_CH.CFG_C_FSYNC_SEL (k : Nat) : FRef := ⟨0x079, 0x108 + 16 * k, 3, 2⟩
/-- CFG_C.M_RATE, 12 Table FIL-10. -/
def FIL_CH.CFG_C_M_RATE (k : Nat) : FRef := ⟨0x079, 0x108 + 16 * k, 31, 8⟩
/-- CFG_D.SPI_RATE, 12 Table FIL-10. -/
def FIL_CH.CFG_D_SPI_RATE (k : Nat) : FRef := ⟨0x079, 0x10C + 16 * k, 23, 0⟩
/-- COMMIT, 12 Table FIL-10. -/
def FIL_CH.COMMIT : FRef := ⟨0x079, 0x280, 23, 0⟩
/-- CFG_STAT.CONFIGURED, 12 Table FIL-10. -/
def FIL_CH.CFG_STAT_CONFIGURED (k : Nat) : FRef := ⟨0x079, 0x300 + 4 * k, 0, 0⟩
/-- CFG_STAT.REFUSED, 12 Table FIL-10. -/
def FIL_CH.CFG_STAT_REFUSED (k : Nat) : FRef := ⟨0x079, 0x300 + 4 * k, 1, 1⟩
/-- CFG_STAT.REASON, 12 Table FIL-10. -/
def FIL_CH.CFG_STAT_REASON (k : Nat) : FRef := ⟨0x079, 0x300 + 4 * k, 7, 4⟩
/-- CFG_STAT.SETTLE_LEFT, 12 Table FIL-10. -/
def FIL_CH.CFG_STAT_SETTLE_LEFT (k : Nat) : FRef := ⟨0x079, 0x300 + 4 * k, 15, 8⟩
/-- LAST_VALUE, 12 Table FIL-10. -/
def FIL_CH.LAST_VALUE (k : Nat) : FRef := ⟨0x079, 0x400 + 16 * k, 31, 0⟩
/-- LAST_RAW, 12 Table FIL-10. -/
def FIL_CH.LAST_RAW (k : Nat) : FRef := ⟨0x079, 0x404 + 16 * k, 31, 0⟩
/-- LAST_FLAGS, 12 Table FIL-10. -/
def FIL_CH.LAST_FLAGS (k : Nat) : FRef := ⟨0x079, 0x408 + 16 * k, 15, 0⟩
/-- LAST_RANGE, 12 Table FIL-10. -/
def FIL_CH.LAST_RANGE (k : Nat) : FRef := ⟨0x079, 0x408 + 16 * k, 17, 16⟩
/-- LAST_SAMPLE_NUM, 12 Table FIL-10. -/
def FIL_CH.LAST_SAMPLE_NUM (k : Nat) : FRef := ⟨0x079, 0x40C + 16 * k, 31, 0⟩
/-- OFFSET, 12 Table FIL-11. -/
def FIL_CAL.OFFSET (k r : Nat) : FRef := ⟨0x07A, 0x100 + 32 * k + 8 * r, 31, 0⟩
/-- GAIN, 12 Table FIL-11. -/
def FIL_CAL.GAIN (k r : Nat) : FRef := ⟨0x07A, 0x104 + 32 * k + 8 * r, 31, 0⟩
/-- SET_VALID, 12 Table FIL-11. -/
def FIL_CAL.SET_VALID (i : Nat) : FRef := ⟨0x07A, 0x400 + 4 * i, 31, 0⟩
/-- CAL_CMD.CHANNEL, 12 Table FIL-11. -/
def FIL_CAL.CAL_CMD_CHANNEL : FRef := ⟨0x07A, 0x410, 4, 0⟩
/-- CAL_CMD.RANGE, 12 Table FIL-11. -/
def FIL_CAL.CAL_CMD_RANGE : FRef := ⟨0x07A, 0x410, 9, 8⟩
/-- CAL_CMD.KIND, 12 Table FIL-11. -/
def FIL_CAL.CAL_CMD_KIND : FRef := ⟨0x07A, 0x410, 12, 12⟩
/-- CAL_CMD.START, 12 Table FIL-11. -/
def FIL_CAL.CAL_CMD_START : FRef := ⟨0x07A, 0x410, 16, 16⟩
/-- CAL_SAMPLES, 12 Table FIL-11. -/
def FIL_CAL.CAL_SAMPLES : FRef := ⟨0x07A, 0x414, 15, 0⟩
/-- CAL_REF, 12 Table FIL-11. -/
def FIL_CAL.CAL_REF : FRef := ⟨0x07A, 0x418, 31, 0⟩
/-- CAL_MEAN_TOL, 12 Table FIL-11. -/
def FIL_CAL.CAL_MEAN_TOL : FRef := ⟨0x07A, 0x41C, 31, 0⟩
/-- CAL_VAR_MAX, 12 Table FIL-11. -/
def FIL_CAL.CAL_VAR_MAX : FRef := ⟨0x07A, 0x420, 31, 0⟩
/-- CAL_GAIN_TOL, 12 Table FIL-11. -/
def FIL_CAL.CAL_GAIN_TOL : FRef := ⟨0x07A, 0x424, 31, 0⟩
/-- CAL_STAT.RESULT, 12 Table FIL-11. -/
def FIL_CAL.CAL_STAT_RESULT : FRef := ⟨0x07A, 0x428, 2, 0⟩
/-- CAL_STAT.REASON, 12 Table FIL-11. -/
def FIL_CAL.CAL_STAT_REASON : FRef := ⟨0x07A, 0x428, 7, 4⟩
/-- CAL_STAT.CHANNEL, 12 Table FIL-11. -/
def FIL_CAL.CAL_STAT_CHANNEL : FRef := ⟨0x07A, 0x428, 12, 8⟩
/-- CAL_STAT.RANGE, 12 Table FIL-11. -/
def FIL_CAL.CAL_STAT_RANGE : FRef := ⟨0x07A, 0x428, 17, 16⟩
/-- CAL_MEAN, 12 Table FIL-11. -/
def FIL_CAL.CAL_MEAN : FRef := ⟨0x07A, 0x42C, 31, 0⟩
/-- CAL_VAR, 12 Table FIL-11. -/
def FIL_CAL.CAL_VAR : FRef := ⟨0x07A, 0x430, 31, 0⟩
/-- CAL_COLLECTED, 12 Table FIL-11. -/
def FIL_CAL.CAL_COLLECTED : FRef := ⟨0x07A, 0x434, 15, 0⟩
/-- CAL_TIMEOUT, 12 Table FIL-11. -/
def FIL_CAL.CAL_TIMEOUT : FRef := ⟨0x07A, 0x438, 31, 0⟩
/-- HM_NS, 13 Table HM-9. -/
def HM.HM_NS : FRef := ⟨0x080, 0x100, 29, 0⟩
/-- HM_SUBNS, 13 Table HM-9. -/
def HM.HM_SUBNS : FRef := ⟨0x080, 0x104, 15, 0⟩
/-- HM_SEC_LO, 13 Table HM-9. -/
def HM.HM_SEC_LO : FRef := ⟨0x080, 0x108, 31, 0⟩
/-- HM_SEC_HI, 13 Table HM-9. -/
def HM.HM_SEC_HI : FRef := ⟨0x080, 0x10C, 31, 0⟩
/-- HM_SNAP_TICK_LO, 13 Table HM-9. -/
def HM.HM_SNAP_TICK_LO : FRef := ⟨0x080, 0x110, 31, 0⟩
/-- HM_SNAP_TICK_HI, 13 Table HM-9. -/
def HM.HM_SNAP_TICK_HI : FRef := ⟨0x080, 0x114, 31, 0⟩
/-- SET_SEC_LO, 13 Table HM-9. -/
def HM.SET_SEC_LO : FRef := ⟨0x080, 0x120, 31, 0⟩
/-- SET_SEC_HI, 13 Table HM-9. -/
def HM.SET_SEC_HI : FRef := ⟨0x080, 0x124, 31, 0⟩
/-- SET_NS, 13 Table HM-9. -/
def HM.SET_NS : FRef := ⟨0x080, 0x128, 29, 0⟩
/-- SET_SUBNS, 13 Table HM-9. -/
def HM.SET_SUBNS : FRef := ⟨0x080, 0x12C, 15, 0⟩
/-- HM_CMD.CMD, 13 Table HM-9. -/
def HM.HM_CMD_CMD : FRef := ⟨0x080, 0x130, 2, 0⟩
/-- HM_CMD_STAT.RESULT, 13 Table HM-9. -/
def HM.HM_CMD_STAT_RESULT : FRef := ⟨0x080, 0x134, 1, 0⟩
/-- HM_CMD_STAT.REASON, 13 Table HM-9. -/
def HM.HM_CMD_STAT_REASON : FRef := ⟨0x080, 0x134, 7, 4⟩
/-- HM_CMD_STAT.TICK, 13 Table HM-9. -/
def HM.HM_CMD_STAT_TICK : FRef := ⟨0x080, 0x134, 31, 16⟩
/-- CELL_STAT.LOCKED, 13 Table HM-9. -/
def HM.CELL_STAT_LOCKED : FRef := ⟨0x080, 0x140, 0, 0⟩
/-- CELL_STAT.SLEWING, 13 Table HM-9. -/
def HM.CELL_STAT_SLEWING : FRef := ⟨0x080, 0x140, 1, 1⟩
/-- CELL_STAT.ACTIVE, 13 Table HM-9. -/
def HM.CELL_STAT_ACTIVE : FRef := ⟨0x080, 0x140, 2, 2⟩
/-- CELL_STAT.INIT, 13 Table HM-9. -/
def HM.CELL_STAT_INIT : FRef := ⟨0x080, 0x140, 3, 3⟩
/-- CELL_STAT.COARSE, 13 Table HM-9. -/
def HM.CELL_STAT_COARSE : FRef := ⟨0x080, 0x140, 4, 4⟩
/-- CELL_STAT.SWITCH_CAUSE, 13 Table HM-9. -/
def HM.CELL_STAT_SWITCH_CAUSE : FRef := ⟨0x080, 0x140, 5, 5⟩
/-- SLEW_NS, 13 Table HM-9. -/
def HM.SLEW_NS : FRef := ⟨0x080, 0x144, 31, 0⟩
/-- STEP_TICK_LO, 13 Table HM-9. -/
def HM.STEP_TICK_LO : FRef := ⟨0x080, 0x148, 31, 0⟩
/-- STEP_TICK_HI, 13 Table HM-9. -/
def HM.STEP_TICK_HI : FRef := ⟨0x080, 0x14C, 31, 0⟩
/-- HM_CTRL.AUTO_SWITCH, 13 Table HM-9. -/
def HM.HM_CTRL_AUTO_SWITCH : FRef := ⟨0x080, 0x150, 0, 0⟩
/-- HM_CTRL.INIT_STEP_EN, 13 Table HM-9. -/
def HM.HM_CTRL_INIT_STEP_EN : FRef := ⟨0x080, 0x150, 1, 1⟩
/-- PPS_CTRL.PPS_OUT_EN, 13 Table HM-9. -/
def HM.PPS_CTRL_PPS_OUT_EN : FRef := ⟨0x080, 0x170, 0, 0⟩
/-- PPS_CTRL.PPS_WIDTH, 13 Table HM-9. -/
def HM.PPS_CTRL_PPS_WIDTH : FRef := ⟨0x080, 0x170, 27, 8⟩
/-- FS_CFG.MODE, 13 Table HM-9. -/
def HM.FS_CFG_MODE (f : Nat) : FRef := ⟨0x080, 0x180 + 32 * f, 1, 0⟩
/-- FS_START_LO, 13 Table HM-9. -/
def HM.FS_START_LO (f : Nat) : FRef := ⟨0x080, 0x184 + 32 * f, 31, 0⟩
/-- FS_START_HI, 13 Table HM-9. -/
def HM.FS_START_HI (f : Nat) : FRef := ⟨0x080, 0x188 + 32 * f, 31, 0⟩
/-- FS_PERIOD, 13 Table HM-9. -/
def HM.FS_PERIOD (f : Nat) : FRef := ⟨0x080, 0x18C + 32 * f, 31, 0⟩
/-- FS_WIDTH, 13 Table HM-9. -/
def HM.FS_WIDTH (f : Nat) : FRef := ⟨0x080, 0x190 + 32 * f, 23, 0⟩
/-- FS_APPLY, 13 Table HM-9. -/
def HM.FS_APPLY : FRef := ⟨0x080, 0x200, 3, 0⟩
/-- FS_STAT.REFUSED, 13 Table HM-9. -/
def HM.FS_STAT_REFUSED : FRef := ⟨0x080, 0x204, 3, 0⟩
/-- STAMP_NS, 13 Table HM-9. -/
def HM.STAMP_NS (l : Nat) : FRef := ⟨0x080, 0x300 + 32 * l, 29, 0⟩
/-- STAMP_SUBNS, 13 Table HM-9. -/
def HM.STAMP_SUBNS (l : Nat) : FRef := ⟨0x080, 0x304 + 32 * l, 15, 0⟩
/-- STAMP_FLAGS, 13 Table HM-9. -/
def HM.STAMP_FLAGS (l : Nat) : FRef := ⟨0x080, 0x304 + 32 * l, 21, 16⟩
/-- STAMP_SEC_LO, 13 Table HM-9. -/
def HM.STAMP_SEC_LO (l : Nat) : FRef := ⟨0x080, 0x308 + 32 * l, 31, 0⟩
/-- STAMP_SEC_HI, 13 Table HM-9. -/
def HM.STAMP_SEC_HI (l : Nat) : FRef := ⟨0x080, 0x30C + 32 * l, 31, 0⟩
/-- STAMP_TICK_LO, 13 Table HM-9. -/
def HM.STAMP_TICK_LO (l : Nat) : FRef := ⟨0x080, 0x310 + 32 * l, 31, 0⟩
/-- STAMP_TICK_HI, 13 Table HM-9. -/
def HM.STAMP_TICK_HI (l : Nat) : FRef := ⟨0x080, 0x314 + 32 * l, 31, 0⟩
/-- STAMP_OVERRUN_CNT, 13 Table HM-9. -/
def HM.STAMP_OVERRUN_CNT : FRef := ⟨0x080, 0x580, 31, 0⟩
/-- STAMP_SAT_CNT, 13 Table HM-9. -/
def HM.STAMP_SAT_CNT : FRef := ⟨0x080, 0x584, 31, 0⟩
/-- LINE_DELAY, 13 Table HM-9. -/
def HM.LINE_DELAY (l : Nat) : FRef := ⟨0x080, 0x800 + 4 * l, 15, 0⟩
/-- ENTRY_LAT, 13 Table HM-9. -/
def HM.ENTRY_LAT : FRef := ⟨0x080, 0x880, 7, 0⟩
/-- ROUTINE_CYC, 13 Table HM-9. -/
def HM.ROUTINE_CYC : FRef := ⟨0x080, 0x884, 7, 0⟩
/-- DOM_CFG.SRC, 13 Table HM-10. -/
def HM_DOM.DOM_CFG_SRC (d : Nat) : FRef := ⟨0x081, 0x100 + 64 * d, 1, 0⟩
/-- DOM_CFG.PORT, 13 Table HM-10. -/
def HM_DOM.DOM_CFG_PORT (d : Nat) : FRef := ⟨0x081, 0x100 + 64 * d, 3, 2⟩
/-- DOM_CFG.DELAY_MECH, 13 Table HM-10. -/
def HM_DOM.DOM_CFG_DELAY_MECH (d : Nat) : FRef := ⟨0x081, 0x100 + 64 * d, 4, 4⟩
/-- DOM_CFG.TRANSPORT, 13 Table HM-10. -/
def HM_DOM.DOM_CFG_TRANSPORT (d : Nat) : FRef := ⟨0x081, 0x100 + 64 * d, 5, 5⟩
/-- DOM_CFG.SLAVE_ONLY, 13 Table HM-10. -/
def HM_DOM.DOM_CFG_SLAVE_ONLY (d : Nat) : FRef := ⟨0x081, 0x100 + 64 * d, 6, 6⟩
/-- DOM_CFG.DOMAIN_NUM, 13 Table HM-10. -/
def HM_DOM.DOM_CFG_DOMAIN_NUM (d : Nat) : FRef := ⟨0x081, 0x100 + 64 * d, 15, 8⟩
/-- DOM_CFG.VLAN_ID, 13 Table HM-10. -/
def HM_DOM.DOM_CFG_VLAN_ID (d : Nat) : FRef := ⟨0x081, 0x100 + 64 * d, 27, 16⟩
/-- DOM_PRIO.PRIORITY1, 13 Table HM-10. -/
def HM_DOM.DOM_PRIO_PRIORITY1 (d : Nat) : FRef := ⟨0x081, 0x104 + 64 * d, 7, 0⟩
/-- DOM_PRIO.PRIORITY2, 13 Table HM-10. -/
def HM_DOM.DOM_PRIO_PRIORITY2 (d : Nat) : FRef := ⟨0x081, 0x104 + 64 * d, 15, 8⟩
/-- DOM_PRIO.CLOCK_CLASS, 13 Table HM-10. -/
def HM_DOM.DOM_PRIO_CLOCK_CLASS (d : Nat) : FRef := ⟨0x081, 0x104 + 64 * d, 23, 16⟩
/-- DOM_INTERVAL.LOG_SYNC, 13 Table HM-10. -/
def HM_DOM.DOM_INTERVAL_LOG_SYNC (d : Nat) : FRef := ⟨0x081, 0x108 + 64 * d, 3, 0⟩
/-- DOM_INTERVAL.LOG_ANNOUNCE, 13 Table HM-10. -/
def HM_DOM.DOM_INTERVAL_LOG_ANNOUNCE (d : Nat) : FRef := ⟨0x081, 0x108 + 64 * d, 7, 4⟩
/-- DOM_INTERVAL.LOG_DELAY_REQ, 13 Table HM-10. -/
def HM_DOM.DOM_INTERVAL_LOG_DELAY_REQ (d : Nat) : FRef := ⟨0x081, 0x108 + 64 * d, 11, 8⟩
/-- DOM_STAT.STATE, 13 Table HM-10. -/
def HM_DOM.DOM_STAT_STATE (d : Nat) : FRef := ⟨0x081, 0x10C + 64 * d, 2, 0⟩
/-- OFFSET_NS, 13 Table HM-10. -/
def HM_DOM.OFFSET_NS (d : Nat) : FRef := ⟨0x081, 0x110 + 64 * d, 31, 0⟩
/-- MEAN_DELAY_NS, 13 Table HM-10. -/
def HM_DOM.MEAN_DELAY_NS (d : Nat) : FRef := ⟨0x081, 0x114 + 64 * d, 31, 0⟩
/-- RATE_PPB, 13 Table HM-10. -/
def HM_DOM.RATE_PPB (d : Nat) : FRef := ⟨0x081, 0x118 + 64 * d, 31, 0⟩
/-- GM_ID_LO, 13 Table HM-10. -/
def HM_DOM.GM_ID_LO (d : Nat) : FRef := ⟨0x081, 0x11C + 64 * d, 31, 0⟩
/-- GM_ID_HI, 13 Table HM-10. -/
def HM_DOM.GM_ID_HI (d : Nat) : FRef := ⟨0x081, 0x120 + 64 * d, 31, 0⟩
/-- LAST_SYNC_TICK, 13 Table HM-10. -/
def HM_DOM.LAST_SYNC_TICK (d : Nat) : FRef := ⟨0x081, 0x124 + 64 * d, 31, 0⟩
/-- SYNC_RX_CNT, 13 Table HM-10. -/
def HM_DOM.SYNC_RX_CNT (d : Nat) : FRef := ⟨0x081, 0x128 + 64 * d, 31, 0⟩
/-- LOSS_CNT, 13 Table HM-10. -/
def HM_DOM.LOSS_CNT (d : Nat) : FRef := ⟨0x081, 0x12C + 64 * d, 31, 0⟩
/-- UTC_OFFSET, 13 Table HM-10. -/
def HM_DOM.UTC_OFFSET (d : Nat) : FRef := ⟨0x081, 0x130 + 64 * d, 15, 0⟩
/-- LOCK_NS, 13 Table HM-10. -/
def HM_DOM.LOCK_NS (d : Nat) : FRef := ⟨0x081, 0x800 + 32 * d, 15, 0⟩
/-- UNLOCK_NS, 13 Table HM-10. -/
def HM_DOM.UNLOCK_NS (d : Nat) : FRef := ⟨0x081, 0x804 + 32 * d, 15, 0⟩
/-- STEP_NS, 13 Table HM-10. -/
def HM_DOM.STEP_NS (d : Nat) : FRef := ⟨0x081, 0x808 + 32 * d, 31, 0⟩
/-- SERVO_KP, 13 Table HM-10. -/
def HM_DOM.SERVO_KP (d : Nat) : FRef := ⟨0x081, 0x80C + 32 * d, 15, 0⟩
/-- SERVO_KI, 13 Table HM-10. -/
def HM_DOM.SERVO_KI (d : Nat) : FRef := ⟨0x081, 0x810 + 32 * d, 15, 0⟩
/-- TXQ_E0.SEC, 13 Table HM-11. -/
def HM_TXQ.TXQ_E0_SEC (p : Nat) : FRef := ⟨0x082, 0x100 + 32 * p, 31, 0⟩
/-- TXQ_E1.SEC_HI, 13 Table HM-11. -/
def HM_TXQ.TXQ_E1_SEC_HI (p : Nat) : FRef := ⟨0x082, 0x104 + 32 * p, 15, 0⟩
/-- TXQ_E1.SEQ_ID, 13 Table HM-11. -/
def HM_TXQ.TXQ_E1_SEQ_ID (p : Nat) : FRef := ⟨0x082, 0x104 + 32 * p, 31, 16⟩
/-- TXQ_E2.NS, 13 Table HM-11. -/
def HM_TXQ.TXQ_E2_NS (p : Nat) : FRef := ⟨0x082, 0x108 + 32 * p, 29, 0⟩
/-- TXQ_E3.SUBNS, 13 Table HM-11. -/
def HM_TXQ.TXQ_E3_SUBNS (p : Nat) : FRef := ⟨0x082, 0x10C + 32 * p, 15, 0⟩
/-- TXQ_E3.MSG_TYPE, 13 Table HM-11. -/
def HM_TXQ.TXQ_E3_MSG_TYPE (p : Nat) : FRef := ⟨0x082, 0x10C + 32 * p, 19, 16⟩
/-- TXQ_E3.FLAGS, 13 Table HM-11. -/
def HM_TXQ.TXQ_E3_FLAGS (p : Nat) : FRef := ⟨0x082, 0x10C + 32 * p, 22, 20⟩
/-- TXQ_E3.DOMAIN_NUM, 13 Table HM-11. -/
def HM_TXQ.TXQ_E3_DOMAIN_NUM (p : Nat) : FRef := ⟨0x082, 0x10C + 32 * p, 31, 24⟩
/-- TXQ_LEVEL, 13 Table HM-11. -/
def HM_TXQ.TXQ_LEVEL (p : Nat) : FRef := ⟨0x082, 0x110 + 32 * p, 4, 0⟩
/-- TXQ_POP, 13 Table HM-11. -/
def HM_TXQ.TXQ_POP (p : Nat) : FRef := ⟨0x082, 0x114 + 32 * p, 0, 0⟩
/-- TXQ_STAT.OVF, 13 Table HM-11. -/
def HM_TXQ.TXQ_STAT_OVF (p : Nat) : FRef := ⟨0x082, 0x118 + 32 * p, 0, 0⟩
/-- TXQ_LOST, 13 Table HM-11. -/
def HM_TXQ.TXQ_LOST (p : Nat) : FRef := ⟨0x082, 0x11C + 32 * p, 31, 0⟩
/-- PORT_CFG.FEC, 14 Table FAB-6. -/
def ETH.PORT_CFG_FEC (n : Nat) : FRef := ⟨(pgEth n), 0x100, 0, 0⟩
/-- PORT_CFG.PFC_EN, 14 Table FAB-6. -/
def ETH.PORT_CFG_PFC_EN (n : Nat) : FRef := ⟨(pgEth n), 0x100, 1, 1⟩
/-- MAC_LO, 14 Table FAB-6. -/
def ETH.MAC_LO (n : Nat) : FRef := ⟨(pgEth n), 0x104, 31, 0⟩
/-- MAC_HI, 14 Table FAB-6. -/
def ETH.MAC_HI (n : Nat) : FRef := ⟨(pgEth n), 0x108, 15, 0⟩
/-- IPV4_ADDR, 14 Table FAB-6. -/
def ETH.IPV4_ADDR (n : Nat) : FRef := ⟨(pgEth n), 0x10C, 31, 0⟩
/-- LINK_STAT.UP, 14 Table FAB-6. -/
def ETH.LINK_STAT_UP (n : Nat) : FRef := ⟨(pgEth n), 0x110, 0, 0⟩
/-- TXR_BASE_LO, 14 Table FAB-6. -/
def ETH.TXR_BASE_LO (n : Nat) : FRef := ⟨(pgEth n), 0x114, 31, 0⟩
/-- TXR_BASE_HI, 14 Table FAB-6. -/
def ETH.TXR_BASE_HI (n : Nat) : FRef := ⟨(pgEth n), 0x118, 31, 0⟩
/-- TXR_LOG2, 14 Table FAB-6. -/
def ETH.TXR_LOG2 (n : Nat) : FRef := ⟨(pgEth n), 0x11C, 3, 0⟩
/-- TXR_TAIL, 14 Table FAB-6. -/
def ETH.TXR_TAIL (n : Nat) : FRef := ⟨(pgEth n), 0x120, 11, 0⟩
/-- TXR_HEAD, 14 Table FAB-6. -/
def ETH.TXR_HEAD (n : Nat) : FRef := ⟨(pgEth n), 0x124, 11, 0⟩
/-- RXR_BASE_LO, 14 Table FAB-6. -/
def ETH.RXR_BASE_LO (n : Nat) : FRef := ⟨(pgEth n), 0x128, 31, 0⟩
/-- RXR_BASE_HI, 14 Table FAB-6. -/
def ETH.RXR_BASE_HI (n : Nat) : FRef := ⟨(pgEth n), 0x12C, 31, 0⟩
/-- RXR_LOG2, 14 Table FAB-6. -/
def ETH.RXR_LOG2 (n : Nat) : FRef := ⟨(pgEth n), 0x130, 3, 0⟩
/-- RXR_WR_IDX, 14 Table FAB-6. -/
def ETH.RXR_WR_IDX (n : Nat) : FRef := ⟨(pgEth n), 0x134, 11, 0⟩
/-- RXR_RD_IDX, 14 Table FAB-6. -/
def ETH.RXR_RD_IDX (n : Nat) : FRef := ⟨(pgEth n), 0x138, 11, 0⟩
/-- RX_FILTER, 14 Table FAB-6. -/
def ETH.RX_FILTER (n : Nat) : FRef := ⟨(pgEth n), 0x13C, 1, 0⟩
/-- RX_DROP, 14 Table FAB-6. -/
def ETH.RX_DROP (n : Nat) : FRef := ⟨(pgEth n), 0x140, 31, 0⟩
/-- TX_DROP, 14 Table FAB-6. -/
def ETH.TX_DROP (n : Nat) : FRef := ⟨(pgEth n), 0x144, 31, 0⟩
/-- CRC_ERR_CNT, 14 Table FAB-6. -/
def ETH.CRC_ERR_CNT (n : Nat) : FRef := ⟨(pgEth n), 0x148, 31, 0⟩
/-- ACK_TIMEOUT, 14 Table FAB-6. -/
def ETH.ACK_TIMEOUT (n : Nat) : FRef := ⟨(pgEth n), 0x800, 3, 0⟩
/-- RETRY_CNT, 14 Table FAB-6. -/
def ETH.RETRY_CNT (n : Nat) : FRef := ⟨(pgEth n), 0x800, 6, 4⟩
/-- FAB_CTRL.SHARD_EN, 14 Table FAB-7. -/
def FAB.FAB_CTRL_SHARD_EN : FRef := ⟨0x08C, 0x100, 0, 0⟩
/-- CELL_ID, 14 Table FAB-7. -/
def FAB.CELL_ID : FRef := ⟨0x08C, 0x104, 31, 0⟩
/-- CELL_SEED, 14 Table FAB-7. -/
def FAB.CELL_SEED : FRef := ⟨0x08C, 0x108, 31, 0⟩
/-- CFP_GROUP, 14 Table FAB-7. -/
def FAB.CFP_GROUP : FRef := ⟨0x08C, 0x10C, 31, 0⟩
/-- ANN_INTERVAL, 14 Table FAB-7. -/
def FAB.ANN_INTERVAL : FRef := ⟨0x08C, 0x110, 23, 0⟩
/-- JOIN_LISTEN, 14 Table FAB-7. -/
def FAB.JOIN_LISTEN : FRef := ⟨0x08C, 0x114, 23, 0⟩
/-- HANDOVER_TICKS, 14 Table FAB-7. -/
def FAB.HANDOVER_TICKS : FRef := ⟨0x08C, 0x118, 23, 0⟩
/-- RECLAIM_GRACE, 14 Table FAB-7. -/
def FAB.RECLAIM_GRACE : FRef := ⟨0x08C, 0x11C, 15, 0⟩
/-- VIEW_ID, 14 Table FAB-7. -/
def FAB.VIEW_ID : FRef := ⟨0x08C, 0x120, 31, 0⟩
/-- PREV_VIEW_ID, 14 Table FAB-7. -/
def FAB.PREV_VIEW_ID : FRef := ⟨0x08C, 0x124, 31, 0⟩
/-- MEMBERS, 14 Table FAB-7. -/
def FAB.MEMBERS : FRef := ⟨0x08C, 0x128, 6, 0⟩
/-- HANDOVER_LOST, 14 Table FAB-7. -/
def FAB.HANDOVER_LOST : FRef := ⟨0x08C, 0x12C, 31, 0⟩
/-- CFP_IGNORED, 14 Table FAB-7. -/
def FAB.CFP_IGNORED : FRef := ⟨0x08C, 0x130, 31, 0⟩
/-- PEER_FULL_CNT, 14 Table FAB-7. -/
def FAB.PEER_FULL_CNT : FRef := ⟨0x08C, 0x134, 31, 0⟩
/-- BORROW_CMD.SLOT, 14 Table FAB-7. -/
def FAB.BORROW_CMD_SLOT : FRef := ⟨0x08C, 0x138, 5, 0⟩
/-- BORROW_CMD.RELEASE, 14 Table FAB-7. -/
def FAB.BORROW_CMD_RELEASE : FRef := ⟨0x08C, 0x138, 8, 8⟩
/-- BORROW_CMD.TILES, 14 Table FAB-7. -/
def FAB.BORROW_CMD_TILES : FRef := ⟨0x08C, 0x13C, 20, 0⟩
/-- PEER_STAT.STATE, 14 Table FAB-7. -/
def FAB.PEER_STAT_STATE (p : Nat) : FRef := ⟨0x08C, 0x200 + 16 * p, 2, 0⟩
/-- PEER_STAT.PORT, 14 Table FAB-7. -/
def FAB.PEER_STAT_PORT (p : Nat) : FRef := ⟨0x08C, 0x200 + 16 * p, 5, 4⟩
/-- PEER_ID_LO, 14 Table FAB-7. -/
def FAB.PEER_ID_LO (p : Nat) : FRef := ⟨0x08C, 0x204 + 16 * p, 31, 0⟩
/-- PEER_ID_HI, 14 Table FAB-7. -/
def FAB.PEER_ID_HI (p : Nat) : FRef := ⟨0x08C, 0x208 + 16 * p, 31, 0⟩
/-- PEER_GRANTED, 14 Table FAB-7. -/
def FAB.PEER_GRANTED (p : Nat) : FRef := ⟨0x08C, 0x20C + 16 * p, 20, 0⟩
/-- LINK_STAT.SPEED, 15 Table PRT-10. -/
def HIF.LINK_STAT_SPEED : FRef := ⟨0x090, 0x100, 2, 0⟩
/-- LINK_STAT.WIDTH, 15 Table PRT-10. -/
def HIF.LINK_STAT_WIDTH : FRef := ⟨0x090, 0x100, 8, 4⟩
/-- LINK_STAT.FLIT, 15 Table PRT-10. -/
def HIF.LINK_STAT_FLIT : FRef := ⟨0x090, 0x100, 12, 12⟩
/-- NUM_VFS, 15 Table PRT-10. -/
def HIF.NUM_VFS : FRef := ⟨0x090, 0x104, 5, 0⟩
/-- BAR4_SIZE, 15 Table PRT-10. -/
def HIF.BAR4_SIZE : FRef := ⟨0x090, 0x108, 5, 0⟩
/-- BAR4_WIN_BASE_LO, 15 Table PRT-10. -/
def HIF.BAR4_WIN_BASE_LO : FRef := ⟨0x090, 0x110, 31, 0⟩
/-- BAR4_WIN_BASE_HI, 15 Table PRT-10. -/
def HIF.BAR4_WIN_BASE_HI : FRef := ⟨0x090, 0x114, 31, 0⟩
/-- REG_ACC_ERR_CNT, 15 Table PRT-10. -/
def HIF.REG_ACC_ERR_CNT : FRef := ⟨0x090, 0x118, 31, 0⟩
/-- DMA_ERR_CNT, 15 Table PRT-10. -/
def HIF.DMA_ERR_CNT : FRef := ⟨0x090, 0x11C, 31, 0⟩
/-- LINK_DOWN_CNT, 15 Table PRT-10. -/
def HIF.LINK_DOWN_CNT : FRef := ⟨0x090, 0x120, 31, 0⟩
/-- WS_IRQ_PEND_LO, 15 Table PRT-10. -/
def HIF.WS_IRQ_PEND_LO : FRef := ⟨0x090, 0x124, 31, 0⟩
/-- WS_IRQ_PEND_HI, 15 Table PRT-10. -/
def HIF.WS_IRQ_PEND_HI : FRef := ⟨0x090, 0x128, 31, 0⟩
/-- DMA_BYTES_LO, 15 Table PRT-10. -/
def HIF.DMA_BYTES_LO : FRef := ⟨0x090, 0x130, 31, 0⟩
/-- DMA_BYTES_HI, 15 Table PRT-10. -/
def HIF.DMA_BYTES_HI : FRef := ⟨0x090, 0x134, 31, 0⟩
/-- FLR_CNT, 15 Table PRT-10. -/
def HIF.FLR_CNT : FRef := ⟨0x090, 0x138, 31, 0⟩
/-- FLR_ABANDONED_CNT, 15 Table PRT-10. -/
def HIF.FLR_ABANDONED_CNT : FRef := ⟨0x090, 0x13C, 31, 0⟩
/-- INJ_DMA_ERR, 15 Table PRT-10. -/
def HIF.INJ_DMA_ERR : FRef := ⟨0x090, 0x800, 0, 0⟩
/-- NVP_STAT.CTRL_STATE, 15 Table PRT-11. -/
def NVP.NVP_STAT_CTRL_STATE : FRef := ⟨0x091, 0x100, 1, 0⟩
/-- NVP_STAT.SPEED, 15 Table PRT-11. -/
def NVP.NVP_STAT_SPEED : FRef := ⟨0x091, 0x100, 6, 4⟩
/-- NVP_STAT.WIDTH, 15 Table PRT-11. -/
def NVP.NVP_STAT_WIDTH : FRef := ⟨0x091, 0x100, 10, 8⟩
/-- LBA_LOG2, 15 Table PRT-11. -/
def NVP.LBA_LOG2 : FRef := ⟨0x091, 0x104, 3, 0⟩
/-- NS_BYTES_LO, 15 Table PRT-11. -/
def NVP.NS_BYTES_LO : FRef := ⟨0x091, 0x108, 31, 0⟩
/-- NS_BYTES_HI, 15 Table PRT-11. -/
def NVP.NS_BYTES_HI : FRef := ⟨0x091, 0x10C, 31, 0⟩
/-- NVP_TIMEOUT, 15 Table PRT-11. -/
def NVP.NVP_TIMEOUT : FRef := ⟨0x091, 0x110, 15, 0⟩
/-- TIMEOUT_CNT, 15 Table PRT-11. -/
def NVP.TIMEOUT_CNT : FRef := ⟨0x091, 0x114, 31, 0⟩
/-- ERR_STATUS_CNT, 15 Table PRT-11. -/
def NVP.ERR_STATUS_CNT : FRef := ⟨0x091, 0x118, 31, 0⟩
/-- LAST_STATUS, 15 Table PRT-11. -/
def NVP.LAST_STATUS : FRef := ⟨0x091, 0x11C, 15, 0⟩
/-- WR_SRC_LO, 15 Table PRT-11. -/
def NVP.WR_SRC_LO : FRef := ⟨0x091, 0x120, 31, 0⟩
/-- WR_SRC_HI, 15 Table PRT-11. -/
def NVP.WR_SRC_HI : FRef := ⟨0x091, 0x124, 31, 0⟩
/-- WR_DST_LO, 15 Table PRT-11. -/
def NVP.WR_DST_LO : FRef := ⟨0x091, 0x128, 31, 0⟩
/-- WR_DST_HI, 15 Table PRT-11. -/
def NVP.WR_DST_HI : FRef := ⟨0x091, 0x12C, 31, 0⟩
/-- WR_TILES, 15 Table PRT-11. -/
def NVP.WR_TILES : FRef := ⟨0x091, 0x130, 8, 0⟩
/-- WR_CMD.START, 15 Table PRT-11. -/
def NVP.WR_CMD_START : FRef := ⟨0x091, 0x134, 0, 0⟩
/-- WR_STAT.RESULT, 15 Table PRT-11. -/
def NVP.WR_STAT_RESULT : FRef := ⟨0x091, 0x138, 1, 0⟩
/-- RD_BYTES_LO, 15 Table PRT-11. -/
def NVP.RD_BYTES_LO : FRef := ⟨0x091, 0x140, 31, 0⟩
/-- RD_BYTES_HI, 15 Table PRT-11. -/
def NVP.RD_BYTES_HI : FRef := ⟨0x091, 0x144, 31, 0⟩
/-- INJ_TIMEOUT, 15 Table PRT-11. -/
def NVP.INJ_TIMEOUT : FRef := ⟨0x091, 0x800, 0, 0⟩
/-- RX_CFG.LANES, 15 Table PRT-12. -/
def CSI.RX_CFG_LANES (n : Nat) : FRef := ⟨(pgCsi n), 0x100, 2, 0⟩
/-- RX_STAT.HS_ACTIVE, 15 Table PRT-12. -/
def CSI.RX_STAT_HS_ACTIVE (n : Nat) : FRef := ⟨(pgCsi n), 0x104, 0, 0⟩
/-- RX_STAT.CFG_ERR, 15 Table PRT-12. -/
def CSI.RX_STAT_CFG_ERR (n : Nat) : FRef := ⟨(pgCsi n), 0x104, 1, 1⟩
/-- HDR_ERR_CNT, 15 Table PRT-12. -/
def CSI.HDR_ERR_CNT (n : Nat) : FRef := ⟨(pgCsi n), 0x108, 31, 0⟩
/-- CRC_ERR_CNT, 15 Table PRT-12. -/
def CSI.CRC_ERR_CNT (n : Nat) : FRef := ⟨(pgCsi n), 0x10C, 31, 0⟩
/-- UNBOUND_CNT, 15 Table PRT-12. -/
def CSI.UNBOUND_CNT (n : Nat) : FRef := ⟨(pgCsi n), 0x110, 31, 0⟩
/-- STR_CFG.EN, 15 Table PRT-12. -/
def CSI.STR_CFG_EN (n s : Nat) : FRef := ⟨(pgCsi n), 0x140 + 32 * s, 0, 0⟩
/-- STR_CFG.VC, 15 Table PRT-12. -/
def CSI.STR_CFG_VC (n s : Nat) : FRef := ⟨(pgCsi n), 0x140 + 32 * s, 7, 4⟩
/-- STR_CFG.DT, 15 Table PRT-12. -/
def CSI.STR_CFG_DT (n s : Nat) : FRef := ⟨(pgCsi n), 0x140 + 32 * s, 13, 8⟩
/-- STR_CFG.NBUF, 15 Table PRT-12. -/
def CSI.STR_CFG_NBUF (n s : Nat) : FRef := ⟨(pgCsi n), 0x140 + 32 * s, 19, 16⟩
/-- FRAME_SIZE.WIDTH, 15 Table PRT-12. -/
def CSI.FRAME_SIZE_WIDTH (n s : Nat) : FRef := ⟨(pgCsi n), 0x144 + 32 * s, 15, 0⟩
/-- FRAME_SIZE.HEIGHT, 15 Table PRT-12. -/
def CSI.FRAME_SIZE_HEIGHT (n s : Nat) : FRef := ⟨(pgCsi n), 0x144 + 32 * s, 31, 16⟩
/-- BUF_BASE_LO, 15 Table PRT-12. -/
def CSI.BUF_BASE_LO (n s : Nat) : FRef := ⟨(pgCsi n), 0x148 + 32 * s, 31, 0⟩
/-- BUF_BASE_HI, 15 Table PRT-12. -/
def CSI.BUF_BASE_HI (n s : Nat) : FRef := ⟨(pgCsi n), 0x14C + 32 * s, 31, 0⟩
/-- BUF_STRIDE, 15 Table PRT-12. -/
def CSI.BUF_STRIDE (n s : Nat) : FRef := ⟨(pgCsi n), 0x150 + 32 * s, 15, 0⟩
/-- STR_WS, 15 Table PRT-12. -/
def CSI.STR_WS (n s : Nat) : FRef := ⟨(pgCsi n), 0x154 + 32 * s, 5, 0⟩
/-- HELD, 15 Table PRT-12. -/
def CSI.HELD (n s : Nat) : FRef := ⟨(pgCsi n), 0x158 + 32 * s, 7, 0⟩
/-- NEXT, 15 Table PRT-12. -/
def CSI.NEXT (n s : Nat) : FRef := ⟨(pgCsi n), 0x158 + 32 * s, 10, 8⟩
/-- DROP_CNT, 15 Table PRT-12. -/
def CSI.DROP_CNT (n s : Nat) : FRef := ⟨(pgCsi n), 0x15C + 32 * s, 31, 0⟩
/-- INJ_CRC, 15 Table PRT-12. -/
def CSI.INJ_CRC (n : Nat) : FRef := ⟨(pgCsi n), 0x800, 0, 0⟩
/-- PORT_CFG.EN, 15 Table PRT-13. -/
def SPM.PORT_CFG_EN (p : Nat) : FRef := ⟨0x09A, 0x100 + 64 * p, 0, 0⟩
/-- PORT_CFG.DRDY_EN, 15 Table PRT-13. -/
def SPM.PORT_CFG_DRDY_EN (p : Nat) : FRef := ⟨0x09A, 0x100 + 64 * p, 1, 1⟩
/-- PORT_CFG.DRDY_POL, 15 Table PRT-13. -/
def SPM.PORT_CFG_DRDY_POL (p : Nat) : FRef := ⟨0x09A, 0x100 + 64 * p, 2, 2⟩
/-- PORT_CFG.CFG_ERR, 15 Table PRT-13. -/
def SPM.PORT_CFG_CFG_ERR (p : Nat) : FRef := ⟨0x09A, 0x100 + 64 * p, 3, 3⟩
/-- PORT_CFG.DIV, 15 Table PRT-13. -/
def SPM.PORT_CFG_DIV (p : Nat) : FRef := ⟨0x09A, 0x100 + 64 * p, 24, 16⟩
/-- CS_CFG.MODE, 15 Table PRT-13. -/
def SPM.CS_CFG_MODE (p c : Nat) : FRef := ⟨0x09A, 0x104 + 64 * p + 8 * c, 1, 0⟩
/-- CS_CFG.LIST, 15 Table PRT-13. -/
def SPM.CS_CFG_LIST (p c : Nat) : FRef := ⟨0x09A, 0x104 + 64 * p + 8 * c, 2, 2⟩
/-- CS_CFG.CMD_LEN, 15 Table PRT-13. -/
def SPM.CS_CFG_CMD_LEN (p c : Nat) : FRef := ⟨0x09A, 0x104 + 64 * p + 8 * c, 5, 3⟩
/-- CS_CFG.RD_LEN, 15 Table PRT-13. -/
def SPM.CS_CFG_RD_LEN (p c : Nat) : FRef := ⟨0x09A, 0x104 + 64 * p + 8 * c, 7, 6⟩
/-- CS_CFG.SAMPLE_BITS, 15 Table PRT-13. -/
def SPM.CS_CFG_SAMPLE_BITS (p c : Nat) : FRef := ⟨0x09A, 0x104 + 64 * p + 8 * c, 12, 8⟩
/-- CS_CMD, 15 Table PRT-13. -/
def SPM.CS_CMD (p c : Nat) : FRef := ⟨0x09A, 0x108 + 64 * p + 8 * c, 31, 0⟩
/-- XFER.CS, 15 Table PRT-13. -/
def SPM.XFER_CS (p : Nat) : FRef := ⟨0x09A, 0x124 + 64 * p, 1, 0⟩
/-- XFER.LEN, 15 Table PRT-13. -/
def SPM.XFER_LEN (p : Nat) : FRef := ⟨0x09A, 0x124 + 64 * p, 6, 4⟩
/-- XFER.START, 15 Table PRT-13. -/
def SPM.XFER_START (p : Nat) : FRef := ⟨0x09A, 0x124 + 64 * p, 8, 8⟩
/-- XFER.BUSY, 15 Table PRT-13. -/
def SPM.XFER_BUSY (p : Nat) : FRef := ⟨0x09A, 0x124 + 64 * p, 9, 9⟩
/-- XFER_TX_LO, 15 Table PRT-13. -/
def SPM.XFER_TX_LO (p : Nat) : FRef := ⟨0x09A, 0x128 + 64 * p, 31, 0⟩
/-- XFER_TX_HI, 15 Table PRT-13. -/
def SPM.XFER_TX_HI (p : Nat) : FRef := ⟨0x09A, 0x12C + 64 * p, 31, 0⟩
/-- XFER_RX_LO, 15 Table PRT-13. -/
def SPM.XFER_RX_LO (p : Nat) : FRef := ⟨0x09A, 0x130 + 64 * p, 31, 0⟩
/-- XFER_RX_HI, 15 Table PRT-13. -/
def SPM.XFER_RX_HI (p : Nat) : FRef := ⟨0x09A, 0x134 + 64 * p, 31, 0⟩
/-- LAST_SAMPLE.VALUE, 15 Table PRT-13. -/
def SPM.LAST_SAMPLE_VALUE (p : Nat) : FRef := ⟨0x09A, 0x138 + 64 * p, 23, 0⟩
/-- LAST_SAMPLE.CS, 15 Table PRT-13. -/
def SPM.LAST_SAMPLE_CS (p : Nat) : FRef := ⟨0x09A, 0x138 + 64 * p, 29, 28⟩
/-- OVERRUN_CNT, 15 Table PRT-13. -/
def SPM.OVERRUN_CNT (p : Nat) : FRef := ⟨0x09A, 0x13C + 64 * p, 31, 0⟩
/-- BSPI_CMD.OP, 15 Table PRT-13. -/
def SPM.BSPI_CMD_OP : FRef := ⟨0x09A, 0x800, 1, 0⟩
/-- BSPI_CMD.START, 15 Table PRT-13. -/
def SPM.BSPI_CMD_START : FRef := ⟨0x09A, 0x800, 8, 8⟩
/-- BSPI_CMD.ALLOW_RUNNING, 15 Table PRT-13. -/
def SPM.BSPI_CMD_ALLOW_RUNNING : FRef := ⟨0x09A, 0x800, 9, 9⟩
/-- BSPI_FLASH_ADDR, 15 Table PRT-13. -/
def SPM.BSPI_FLASH_ADDR : FRef := ⟨0x09A, 0x804, 31, 0⟩
/-- BSPI_CASKET_LO, 15 Table PRT-13. -/
def SPM.BSPI_CASKET_LO : FRef := ⟨0x09A, 0x808, 31, 0⟩
/-- BSPI_CASKET_HI, 15 Table PRT-13. -/
def SPM.BSPI_CASKET_HI : FRef := ⟨0x09A, 0x80C, 31, 0⟩
/-- BSPI_LEN, 15 Table PRT-13. -/
def SPM.BSPI_LEN : FRef := ⟨0x09A, 0x810, 23, 0⟩
/-- BSPI_STAT.RESULT, 15 Table PRT-13. -/
def SPM.BSPI_STAT_RESULT : FRef := ⟨0x09A, 0x814, 1, 0⟩
/-- BSPI_STAT.REASON, 15 Table PRT-13. -/
def SPM.BSPI_STAT_REASON : FRef := ⟨0x09A, 0x814, 7, 4⟩
/-- CLK_CFG.FREQ, 15 Table PRT-14. -/
def SDM.CLK_CFG_FREQ (x : Nat) : FRef := ⟨0x09B, 0x100 + 4 * x, 24, 0⟩
/-- CLK_CFG.EN, 15 Table PRT-14. -/
def SDM.CLK_CFG_EN (x : Nat) : FRef := ⟨0x09B, 0x100 + 4 * x, 31, 31⟩
/-- CLK_FAULT, 15 Table PRT-14. -/
def SDM.CLK_FAULT : FRef := ⟨0x09B, 0x108, 15, 0⟩
/-- CLK_FAULT_STICKY, 15 Table PRT-14. -/
def SDM.CLK_FAULT_STICKY : FRef := ⟨0x09B, 0x10C, 15, 0⟩
/-- IN_CFG.SEL, 15 Table PRT-14. -/
def SDM.IN_CFG_SEL (n : Nat) : FRef := ⟨0x09B, 0x140 + 4 * n, 1, 0⟩
/-- EXP_FREQ, 15 Table PRT-14. -/
def SDM.EXP_FREQ (n : Nat) : FRef := ⟨0x09B, 0x180 + 4 * n, 24, 0⟩
/-- WIN_CNT, 15 Table PRT-14. -/
def SDM.WIN_CNT (n : Nat) : FRef := ⟨0x09B, 0x1C0 + 4 * n, 23, 0⟩
/-- INJ_CLK_STOP, 15 Table PRT-14. -/
def SDM.INJ_CLK_STOP : FRef := ⟨0x09B, 0x800, 15, 0⟩
/-- MSPI_STAT, 15 Table PRT-15. -/
def MSPI.MSPI_STAT : FRef := ⟨0x09C, 0x100, 5, 0⟩
/-- FRAME_CNT, 15 Table PRT-15. -/
def MSPI.FRAME_CNT : FRef := ⟨0x09C, 0x104, 31, 0⟩
/-- WORD_CNT, 15 Table PRT-15. -/
def MSPI.WORD_CNT : FRef := ⟨0x09C, 0x108, 31, 0⟩
/-- IGNORED_CNT, 15 Table PRT-15. -/
def MSPI.IGNORED_CNT : FRef := ⟨0x09C, 0x10C, 31, 0⟩
/-- SCRATCH, 15 Table PRT-15. -/
def MSPI.SCRATCH (i : Nat) : FRef := ⟨0x09C, 0x120 + 4 * i, 31, 0⟩
/-- WAIT_MAX, 15 Table PRT-15. -/
def MSPI.WAIT_MAX : FRef := ⟨0x09C, 0x800, 11, 0⟩
/-- IDLE_TIMEOUT, 15 Table PRT-15. -/
def MSPI.IDLE_TIMEOUT : FRef := ⟨0x09C, 0x804, 7, 0⟩
/-- TAP_IDCODE, 15 Table PRT-16. -/
def TAP.TAP_IDCODE : FRef := ⟨0x09D, 0x100, 31, 0⟩
/-- REG_ACCESS_CNT, 15 Table PRT-16. -/
def TAP.REG_ACCESS_CNT : FRef := ⟨0x09D, 0x104, 31, 0⟩
/-- TAP_REG_DIS, 15 Table PRT-16. -/
def TAP.TAP_REG_DIS : FRef := ⟨0x09D, 0x800, 0, 0⟩
/-- PART.NUMBER, 16 Table FLT-7. -/
def DEV.PART_NUMBER : FRef := ⟨0x000, 0x100, 15, 0⟩
/-- PART.REV, 16 Table FLT-7. -/
def DEV.PART_REV : FRef := ⟨0x000, 0x100, 19, 16⟩
/-- FACETS, 16 Table FLT-7. -/
def DEV.FACETS : FRef := ⟨0x000, 0x104, 3, 0⟩
/-- BOOT.STAGE, 16 Table FLT-7. -/
def DEV.BOOT_STAGE : FRef := ⟨0x000, 0x108, 3, 0⟩
/-- BOOT.ERR, 16 Table FLT-7. -/
def DEV.BOOT_ERR : FRef := ⟨0x000, 0x108, 15, 8⟩
/-- BOOT.UNIT, 16 Table FLT-7. -/
def DEV.BOOT_UNIT : FRef := ⟨0x000, 0x108, 25, 16⟩
/-- BOOT.FW_SLOT, 16 Table FLT-7. -/
def DEV.BOOT_FW_SLOT : FRef := ⟨0x000, 0x108, 28, 28⟩
/-- FW_SLOT_A_ERR, 16 Table FLT-7. -/
def DEV.FW_SLOT_A_ERR : FRef := ⟨0x000, 0x10C, 7, 0⟩
/-- FW_VER, 16 Table FLT-7. -/
def DEV.FW_VER : FRef := ⟨0x000, 0x110, 31, 0⟩
/-- SEC_VER_FUSE, 16 Table FLT-7. -/
def DEV.SEC_VER_FUSE : FRef := ⟨0x000, 0x114, 4, 0⟩
/-- DEV_CAUSE.MECH, 16 Table FLT-7. -/
def DEV.DEV_CAUSE_MECH : FRef := ⟨0x000, 0x118, 7, 0⟩
/-- DEV_CAUSE.SEQ, 16 Table FLT-7. -/
def DEV.DEV_CAUSE_SEQ : FRef := ⟨0x000, 0x118, 31, 16⟩
/-- FAULT_PIN, 16 Table FLT-7. -/
def DEV.FAULT_PIN : FRef := ⟨0x000, 0x11C, 0, 0⟩
/-- SERIAL_LO, 16 Table FLT-7. -/
def DEV.SERIAL_LO : FRef := ⟨0x000, 0x120, 31, 0⟩
/-- SERIAL_HI, 16 Table FLT-7. -/
def DEV.SERIAL_HI : FRef := ⟨0x000, 0x124, 31, 0⟩
/-- SENTINEL, 16 Table FLT-8. -/
def BZ_FAULT.SENTINEL : FRef := ⟨0x003, 0x100, 0, 0⟩
/-- GUARANTEE.OK, 16 Table FLT-8. -/
def BZ_FAULT.GUARANTEE_OK : FRef := ⟨0x003, 0x104, 0, 0⟩
/-- GUARANTEE.LOST, 16 Table FLT-8. -/
def BZ_FAULT.GUARANTEE_LOST : FRef := ⟨0x003, 0x104, 1, 1⟩
/-- GUARANTEE.COND_FAIL, 16 Table FLT-8. -/
def BZ_FAULT.GUARANTEE_COND_FAIL : FRef := ⟨0x003, 0x104, 12, 8⟩
/-- LOST_TICK_LO, 16 Table FLT-8. -/
def BZ_FAULT.LOST_TICK_LO : FRef := ⟨0x003, 0x108, 31, 0⟩
/-- LOST_TICK_HI, 16 Table FLT-8. -/
def BZ_FAULT.LOST_TICK_HI : FRef := ⟨0x003, 0x10C, 31, 0⟩
/-- FW_MIN, 16 Table FLT-8. -/
def BZ_FAULT.FW_MIN : FRef := ⟨0x003, 0x110, 31, 0⟩
/-- FLOG_BASE_LO, 16 Table FLT-8. -/
def BZ_FAULT.FLOG_BASE_LO : FRef := ⟨0x003, 0x114, 31, 0⟩
/-- FLOG_BASE_HI, 16 Table FLT-8. -/
def BZ_FAULT.FLOG_BASE_HI : FRef := ⟨0x003, 0x118, 31, 0⟩
/-- FLOG_CFG.EN, 16 Table FLT-8. -/
def BZ_FAULT.FLOG_CFG_EN : FRef := ⟨0x003, 0x11C, 0, 0⟩
/-- FLOG_CFG.BASE_BAD, 16 Table FLT-8. -/
def BZ_FAULT.FLOG_CFG_BASE_BAD : FRef := ⟨0x003, 0x11C, 1, 1⟩
/-- FLOG_WR_IDX, 16 Table FLT-8. -/
def BZ_FAULT.FLOG_WR_IDX : FRef := ⟨0x003, 0x120, 7, 0⟩
/-- FLOG_RD_IDX, 16 Table FLT-8. -/
def BZ_FAULT.FLOG_RD_IDX : FRef := ⟨0x003, 0x124, 7, 0⟩
/-- FLOG_LOST, 16 Table FLT-8. -/
def BZ_FAULT.FLOG_LOST : FRef := ⟨0x003, 0x128, 31, 0⟩
/-- REPORT_CNT, 16 Table FLT-8. -/
def BZ_FAULT.REPORT_CNT : FRef := ⟨0x003, 0x12C, 31, 0⟩
/-- FIRST_REPORT, 16 Table FLT-8. -/
def BZ_FAULT.FIRST_REPORT (i : Nat) : FRef := ⟨0x003, 0x130 + 4 * i, 31, 0⟩
/-- LAST_REPORT, 16 Table FLT-8. -/
def BZ_FAULT.LAST_REPORT (i : Nat) : FRef := ⟨0x003, 0x150 + 4 * i, 31, 0⟩
/-- FIRST_CLR, 16 Table FLT-8. -/
def BZ_FAULT.FIRST_CLR : FRef := ⟨0x003, 0x170, 0, 0⟩
/-- FAULT_N_MODE, 16 Table FLT-8. -/
def BZ_FAULT.FAULT_N_MODE : FRef := ⟨0x003, 0x174, 0, 0⟩
/-- FAULT_N_CLR, 16 Table FLT-8. -/
def BZ_FAULT.FAULT_N_CLR : FRef := ⟨0x003, 0x174, 8, 8⟩
/-- C1_CNT, 16 Table FLT-8. -/
def BZ_FAULT.C1_CNT : FRef := ⟨0x003, 0x178, 31, 0⟩
/-- C2_CNT, 16 Table FLT-8. -/
def BZ_FAULT.C2_CNT : FRef := ⟨0x003, 0x17C, 31, 0⟩
/-- C3_CNT, 16 Table FLT-8. -/
def BZ_FAULT.C3_CNT : FRef := ⟨0x003, 0x180, 31, 0⟩
/-- CORR_WINDOW, 16 Table FLT-8. -/
def BZ_FAULT.CORR_WINDOW : FRef := ⟨0x003, 0x184, 5, 0⟩
/-- REPEAT_MAX, 16 Table FLT-8. -/
def BZ_FAULT.REPEAT_MAX : FRef := ⟨0x003, 0x188, 3, 0⟩
/-- REPEAT_WINDOW, 16 Table FLT-8. -/
def BZ_FAULT.REPEAT_WINDOW : FRef := ⟨0x003, 0x18C, 23, 0⟩
/-- DRAIN_LIMIT, 16 Table FLT-8. -/
def BZ_FAULT.DRAIN_LIMIT : FRef := ⟨0x003, 0x190, 15, 0⟩
/-- INJ_REPORT, 16 Table FLT-8. -/
def BZ_FAULT.INJ_REPORT : FRef := ⟨0x003, 0x800, 0, 0⟩
/-- RESET_CAUSE, 16 Table FLT-9. -/
def BZ_RESET.RESET_CAUSE : FRef := ⟨0x006, 0x100, 3, 0⟩
/-- RESET_TICK_LO, 16 Table FLT-9. -/
def BZ_RESET.RESET_TICK_LO : FRef := ⟨0x006, 0x104, 31, 0⟩
/-- RESET_TICK_HI, 16 Table FLT-9. -/
def BZ_RESET.RESET_TICK_HI : FRef := ⟨0x006, 0x108, 31, 0⟩
/-- RESET_FLAGS.THERMTRIP, 16 Table FLT-9. -/
def BZ_RESET.RESET_FLAGS_THERMTRIP : FRef := ⟨0x006, 0x10C, 0, 0⟩
/-- RESET_FLAGS.WAS_FAULTED, 16 Table FLT-9. -/
def BZ_RESET.RESET_FLAGS_WAS_FAULTED : FRef := ⟨0x006, 0x10C, 1, 1⟩
/-- PRIOR_REPORT, 16 Table FLT-9. -/
def BZ_RESET.PRIOR_REPORT (i : Nat) : FRef := ⟨0x006, 0x110 + 4 * i, 31, 0⟩
/-- WDOG_CONSEC, 16 Table FLT-9. -/
def BZ_RESET.WDOG_CONSEC : FRef := ⟨0x006, 0x130, 3, 0⟩
/-- WDOG_CFG.TIMEOUT, 16 Table FLT-9. -/
def BZ_RESET.WDOG_CFG_TIMEOUT : FRef := ⟨0x006, 0x800, 23, 0⟩
/-- WDOG_CFG.ACTION, 16 Table FLT-9. -/
def BZ_RESET.WDOG_CFG_ACTION : FRef := ⟨0x006, 0x800, 24, 24⟩
/-- RESET_CMD.KEY, 16 Table FLT-9. -/
def BZ_RESET.RESET_CMD_KEY : FRef := ⟨0x006, 0x804, 15, 0⟩

end Sys2Proof.Machine
end

