-- ==== Sys2Proof/Machine/State.lean ====
section
/-! DEFINITION. The state of the device as plain data: its registers, the state of its blocks, its memories, the
requests, tiles, links and ports it holds, the queue of commands that wait, and the machine right after reset. -/

namespace Sys2Proof.Machine

/-- Why a command ends a run. No command of this device stops it: the manual gives every one an effect, so there is no
reason to list. -/
inductive Fault
deriving DecidableEq, Repr

/-- Why a command is refused. -/
inductive Refusal where
  /-- A command with no meaning here yet; raised by `Dispatch` alone. Safe: nothing follows from it. -/
  | notModelled (mnemonic : String)
deriving DecidableEq, Repr

/-- The two parts (R3). -/
inductive Part where
  | pmx7240 | pmx7241
deriving DecidableEq, Repr, Inhabited

/-- Block states (Table REG-3). -/
inductive BState where
  | off | ready | active | draining | fenced | faulted
deriving DecidableEq, Repr, Inhabited

/-- What the management path holds of one block (R79 to R83, R312 to R314, R639, R640). -/
structure Block where
  /-- BLK_STATE.STATE. -/
  st : BState
  /-- BLK_STATE.DRAINED. -/
  drained : Bool
  /-- BLK_STATE.CAUSE. -/
  cause : Nat
  /-- The tick of the last transition; ENTRY_TICK shows its low 16 bits. -/
  entry : Nat
  /-- Consecutive audit mismatches (R313). -/
  mism : Nat
  /-- Whether the fault that made the block FAULTED is block-local (R80, R661). -/
  faultLocal : Bool
  /-- The report of its fence, for DRAIN_TIMEOUT (R640). -/
  report : Option Nat
deriving DecidableEq, Repr, Inhabited

/-- The access paths' own state: unlock sequences, latches and stages, each per requester (R67, R75). -/
structure Bus where
  /-- Key 1024 × requester + page; value: tick of the first key. -/
  armed : NMap Nat
  /-- Key (1024 × requester + page) × 1024 + word; the high-word latches, 0 at reset. -/
  latch : NMap Word
  /-- Same key; the staged high words. -/
  stage : NMap Word
  /-- Bits of W1C fields that the device has set in this tick, by register key (R14); the EXP_UNLOCK words of pages reset in
  it (R68); and the RING_TAIL words written in it (R287). -/
  hot : NMap Nat
  /-- Conditions found to hold in this tick, by page: bits of IRQ_RAW, whether or not they rose (R105, R668). -/
  raised : NMap Nat
deriving DecidableEq, Repr, Inhabited

/-- The event sampler (R113 to R119). -/
structure Evt where
  /-- Sources fired since the last sampling: count and detail. -/
  fired : NMap (Nat × Nat)
  /-- Sources EVT_INJECT fires in the next tick. -/
  inject : List Nat
  /-- Sources sampled in this tick, for the wake logic (R129, R140). -/
  sampled : List Nat
  /-- The sampling, the deadlines and the admission of this tick have been queued (log entry 3). -/
  tickDone : Bool
deriving DecidableEq, Repr, Inhabited

/-- One tick's record of the sampler as software and the management cores see it (Table TCK-2). -/
structure EvtRecord where
  tick : Nat
  source : Nat
  count : Nat
  seq : Nat
  detail : Nat
deriving DecidableEq, Repr, Inhabited

/-- The zeroing of one HBM stack after DEEP (R133): regions of 2 MiB below `next` and those in `early` are zeroed. -/
structure HbmZero where
  /-- The tick the zeroing began in. -/
  since : Nat
  next : Nat
  early : List Nat
deriving DecidableEq, Repr, Inhabited

/-- The power and thermal manager (R121 to R152). -/
structure Pwr where
  /-- An entry in progress: target state, the tick it was requested, the state it left. -/
  entry : Option (Nat × Nat × Nat)
  /-- The tick from which the entry time counts, once every block is OFF or held and drained (R127, R658). -/
  entryFrom : Option Nat
  /-- A wake in progress: tick of the wake source and the tick it completes in. -/
  wake : Option (Nat × Nat)
  /-- Links whose restore or lane check fails in this wake, and HBM stacks that fail to restore (R132). -/
  wakeBad : List Nat × List Nat
  /-- PLLs that the last wake enabled have not all locked (R124). -/
  wakeLocks : Bool
  /-- The waking tick that WAKE_CAUSE tells of: that of the last wake or abandoned entry (R140, Table TCK-12). -/
  wokeAt : Option Nat
  /-- A DOZE exit in progress: the tick AWAKE reads in (R126). -/
  dozeExit : Option Nat
  /-- Consecutive ticks with no request in flight or queued (R125). -/
  idle : Nat
  /-- PLLs enabled, with the tick of enabling (R121, R124). -/
  pllOn : NMap Nat
  /-- The last readings of sensor 56, latest first, at most 1,000 (R143). -/
  power : List Nat
  /-- Operating points the cap allows (R143), 4 bits per Facet. -/
  capOp : Nat
  /-- An unreachable cap is in force (R150). -/
  capOver : Bool
  /-- Facets held at OP6 by their own limit (R146), one bit each. -/
  facetHeld : Nat
  /-- Facets whose reading has reached 105 °C and not fallen below it (R146), one bit each. -/
  facetHot : Nat
  /-- The tick a Crown sensor reached 105 °C, while the hold of R147 lasts. -/
  crownHot : Option Nat
  /-- The Crown's reading has reached 105 °C and not fallen below it; the ticks it did so in, for 1,000 ticks each (R147). -/
  crownOver : Bool
  crownReach : List Nat
  /-- Warning sources 88 to 92 that have fired and not fallen back (R149), one bit each. -/
  warned : Nat
  /-- Rails outside ±5 %: consecutive ticks outside, and inside after an excursion (R160). -/
  rails : NMap (Nat × Nat)
  /-- Consecutive ticks each rail has been outside ±3 % (Table FLT-1). -/
  rails3 : NMap Nat
  /-- Background zeroing in progress (R133), by stack. -/
  zero : NMap HbmZero
  /-- The tick REFCLK_25 returned in, while AONCLK is not yet disciplined (R111). -/
  refBack : Option Nat
  /-- The device is without power except for the always-on domain (R147, R652). -/
  tripped : Bool
  /-- Locket throttle levels from the last reading, in force from the next tick (R145), 2 bits each. -/
  lktNext : Nat
  /-- The tick in which WAKE_TICK was written to a tick already past, which fires in the next tick (R139). -/
  timerLate : Option Nat
deriving DecidableEq, Repr, Inhabited

/-- Reset and boot (R165 to R190). -/
structure Boot where
  /-- Tick in which SYS_RST_N is released and boot starts. -/
  sysRel : Nat
  /-- Tick in which PERST_N is released. -/
  perstRel : Nat
  /-- PERST_N is high. -/
  perstHigh : Bool
  /-- The HIF link is up (R167, R584). -/
  linkUp : Bool
  /-- The tick the stage began in. -/
  stageTick : Nat
  /-- The slot FW_LOAD reads. -/
  slot : Nat
  /-- Bytes of the image staged in Casket Q0 by FW_LOAD, from which FW_VERIFY judges. -/
  staged : Nat
  /-- Facet positions of stage FACETS already ended. -/
  facetsDone : Nat
  /-- HBM stacks trained so far, one bit each. -/
  hbmDone : Nat
  /-- Link parameters saved in the always-on domain (R177), one bit per link. -/
  savedLinks : Nat
  /-- Stack parameters saved (R180), one bit per stack. -/
  savedHbm : Nat
  /-- Facet firmware kept in management SRAM (R177). -/
  facetFw : Bool
  /-- The last tick the management firmware restarted the watchdog (R651). -/
  wdogTick : Nat
  /-- SEC_VER of the image that runs (R176). -/
  secVer : Nat
  /-- The error of slot B in this boot, where slot B was tried (R175). -/
  errB : Nat
  /-- The tick in which a device reset was commanded, for the next tick (R650). -/
  resetNext : Option Nat
deriving DecidableEq, Repr, Inhabited

/-- A packet or message the Crown sends over a link (Tables CLS-3, CLS-12), a frame of a native link (R202), or a message of the
sideband, with its Umhel message code and the tick it carries (R200). A read request names the fetch or the DMA it serves. -/
inductive LinkOut where
  | rdReq (addr len tag : Nat) (fetch rid : Option Nat)
  | cplData (tag status : Nat) (data : List Byte)
  | cpl (tag status : Nat)
  | write (addr : Nat) (data : List Byte)
  | work (tail : Nat)
  | cancel (guestTag : Nat)
  | credit (req cpl data : Nat)
  | nakFrame (expected : Nat)
  | ackFrame (last : Nat)
  | frame (payload : List Byte)
  | capGrant (req cpl data maxPkt : Nat)
  | sideband (code t : Nat)
deriving DecidableEq, Repr

/-- An outstanding non-posted transaction of a link (R222): of a request, or of a tier mover's fetch. -/
structure Txn where
  tag : Nat
  rid : Option Nat
  fetch : Option Nat
  issue : Nat
  /-- The tick it expired in, while it waits for the link to be UP (R223). -/
  expired : Option Nat
deriving DecidableEq, Repr, Inhabited

/-- One Clasp link (R196 to R236). -/
structure Link where
  /-- Next SEQ to send; what has been sent and not yet acknowledged, with its SEQ, oldest first; and frames that wait for room
  (R202, R203, R206). -/
  txSeq : Nat
  unacked : List (Nat × LinkOut)
  txWait : List LinkOut
  /-- Next SEQ expected, and frames received since the last acknowledgement sent. -/
  rxSeq : Nat
  rxSince : Nat
  /-- The receiver has sent a NAK and discards until the resend (R203). -/
  rxHold : Bool
  /-- Replays in this tick and the three before it, latest first (R220). -/
  replays : List Nat
  /-- A replay of this end is in progress. -/
  replaying : Bool
  txns : List Txn
  /-- Tags of transactions that ended with LINK_TIMEOUT, whose responses are late ones (R223). -/
  timedOut : List Nat
  /-- Lanes in error in the last burst, and its tick (R229). -/
  badLanes : List Nat
  burstTick : Option Nat
  /-- A retraining in progress began in this tick, to this mode (R201). -/
  retrain : Option (Nat × Bool)
  /-- Lane-monitor bursts still run after a REPLAY fatal (R226). -/
  burstsLeft : Nat
  /-- The link was UP at the end of the tick before (R223). -/
  upLast : Bool
  /-- A CL_TEST owns the link until this tick. -/
  testEnd : Option Nat
deriving DecidableEq, Repr

/-- An entry of the work ring in use (R213, R216): its place in the ring, GUEST_TAG and request; the ticks of its dispatch and of the
WORK message that announces it; and whether a CANCEL has been sent for it. -/
structure GuestEntry where
  place : Nat
  tag : Nat
  rid : Nat
  disp : Nat
  sent : Option Nat
  cancelled : Bool
deriving DecidableEq, Repr, Inhabited

/-- The guest die's side of C3 on the PMX-7241 (R205 to R218). -/
structure Guest where
  /-- The capability block has been accepted; its class, flags and window (Table CLS-4). -/
  accepted : Bool
  cls : Nat
  timeSync : Bool
  maxPkt : Nat
  winSize : Nat
  /-- Credits the guest has granted and not yet spent: REQ, CPL, DATA, and the cumulative counts last returned. -/
  credReq : Nat
  credCpl : Nat
  credData : Nat
  retReq : Nat
  retCpl : Nat
  retData : Nat
  /-- Packets of the Crown that wait for credit, in their order (R205, R208). -/
  waiting : List LinkOut
  /-- Credits the guest still holds of the Crown's offer; those it has spent that the Crown has not yet returned; and the cumulative
  counts of the Crown's CREDIT packets: REQ, CPL, DATA (R205, R206). -/
  hisReq : Nat
  hisCpl : Nat
  hisData : Nat
  owed : Nat × Nat × Nat
  gave : Nat × Nat × Nat
  /-- Entries of the work ring in use, the ring's tail, and the next GUEST_TAG. -/
  work : List GuestEntry
  tail : Nat
  nextTag : Nat
  /-- The TAG of the next read request. -/
  rdTag : Nat
  /-- TICK messages sent without an answer in a row, and the last one sent (R199, R200). -/
  tickMiss : Nat
  tickSent : Option Nat
  /-- GMAP as written in this tick, in force from the next (R217). -/
  gmapOld : List (Nat × Nat × Bool)
deriving DecidableEq, Repr

/-- A tile slot in use in T0, T1, T2 or the keep region, keyed by its address (R251 to R254). -/
structure Slot where
  ws : Nat
  obj : Nat
  tile : Nat
  /-- 0, 1 or 2. -/
  tier : Nat
  /-- Held as a pool borrowing. -/
  borrowed : Bool
  /-- Its data has its home in another tile. -/
  copy : Bool
  dirty : Bool
  /-- Tick of its last access. -/
  age : Nat
  keep : Bool
  lossOk : Bool
  /-- Being written back before its slot is free (R253). -/
  writeback : Bool
  /-- The tile holds an uncorrectable word (R635). -/
  lost : Bool
  /-- Requests that hold the tile (R252). -/
  holders : List Nat
  /-- Pinned by a plan slot (R351). -/
  pin : Option Nat
  /-- The request that needs the slot, which its write-back will free or has freed, and whether it takes it as a borrowing (R253). -/
  waiter : Option (Nat × Bool)
deriving DecidableEq, Repr, Inhabited

/-- An object of a workspace (R246, R292). -/
structure Obj where
  ws : Nat
  id : Nat
  tiles : Nat
  /-- Home tier 0 to 5. -/
  home : Nat
  place : Nat
  /-- Addresses of its tiles where they are at home, in tile order. -/
  addrs : List Nat
  lost : Bool
  /-- A FREE has been admitted: the request that frees it (R292). -/
  freedBy : Option Nat
deriving DecidableEq, Repr, Inhabited

/-- A tile fetch by a tier mover (R266 to R271). -/
structure Fetch where
  ws : Nat
  obj : Nat
  tile : Nat
  /-- Tier whose late limit applies, and address read from. -/
  tier : Nat
  src : Nat
  /-- Served from a lent Locket's copy. -/
  lent : Bool
  /-- Slot taken for the tile, or none while it waits for an eviction's write-back. -/
  dest : Option Nat
  waitSlot : Option Nat
  issue : Nat
  /-- Requests that wait, each with the first tick of its wait. -/
  waits : List (Nat × Nat)
  /-- Of a fetch from the guest's window: its read requests' tags with the offsets they read, once sent, and what has come (R211). -/
  asked : List (Nat × Nat)
  parts : NMap (List Byte)
deriving DecidableEq, Repr, Inhabited

/-- A lent copy in a lent Locket (R270): keyed by its alias address. -/
structure LentCopy where
  ws : Nat
  obj : Nat
  tile : Nat
  age : Nat
deriving DecidableEq, Repr, Inhabited

/-- A destination tile that has received some of its elements: its request, object and index, and the elements it holds,
by their position in the tile (R265, R667). -/
structure ReshardTile where
  rid : Nat
  obj : Nat
  tile : Nat
  elems : NMap Nat
  /-- It has been written, while its last source tile still waits for a slot of another destination. -/
  written : Bool
deriving DecidableEq, Repr, Inhabited

/-- The Casket's directory of slots, objects, fetches and lendings. -/
structure Ck where
  slots : NMap Slot
  objs : List Obj
  fetches : NMap Fetch
  lent : NMap LentCopy
  /-- Destination tiles of reshards in progress (R263, R667). -/
  reshard : List ReshardTile
  /-- Reclaim notices received: the tick of each, by peer slot (R271). -/
  notices : NMap Nat
deriving DecidableEq, Repr, Inhabited

/-- A reshard descriptor as a request copied it at admission (Table CK-6). -/
structure Rsd where
  index : Nat
  format : Nat
  rank : Nat
  dims : List Nat
  srcAxis : Nat
  srcParts : Nat
  dstAxis : Nat
  dstParts : Nat
  dstLayout : Nat
  qmap : Nat
  dstObj : Nat
deriving DecidableEq, Repr, Inhabited

/-- The capacity snapshot of an admission decision (Table WK-3). -/
structure Snap where
  unit : Nat
  claim : Nat
  headroom : Nat
  op : Nat
  pending : Nat
deriving DecidableEq, Repr, Inhabited

/-- A plan slot, and what a load request is loading or a run is running with (R290, R350, R351). -/
structure PlanSlot where
  plan : Plan
  /-- Phases of a model kept resident, one bit each. -/
  resident : Nat
  streamed : Bool
  /-- Slot addresses of its window, and of everything it pins. -/
  window : List Nat
  pinned : List Nat
deriving DecidableEq, Repr, Inhabited

/-- The reads of a DMA_OUT at an address in the guest's window: where the next one begins, the tags of those sent with the offsets they read,
and what has come (R31, R211, R582). -/
structure GuestRead where
  next : Nat
  asked : List (Nat × Nat)
  parts : NMap (List Byte)
deriving DecidableEq, Repr, Inhabited

/-- A tensor-core tile that waits for its recomputation: its Facet and core, its operands and first sums, and whether they held NaN or
an infinity, whether INJ_TC.BOTH spoils the recomputation too, and the tick in which its check failed (R341, R343, R346). -/
structure Abft where
  f : Nat
  core : Nat
  work : TileWork
  sums : TileSums
  nonfinite : Bool
  both : Bool
  tick : Nat
deriving DecidableEq, Repr, Inhabited

/-- A tile slot that an ALLOC or a load still has to take: its tier and Locket; the object and tile it is for; whether it
is the home of that tile, and whether it belongs to a window (R247, R351). -/
structure Want where
  tier : Nat
  locket : Nat
  obj : Nat
  tile : Nat
  home : Bool
  window : Bool
deriving DecidableEq, Repr, Inhabited

/-- The cause that ends a request in this tick: the open report it belongs to, its outcome and CAUSE, and the end tick a guest
gave (R18, R46). -/
structure Ending where
  rep : Option Nat
  outcome : Nat
  cause : Nat
  endTick : Option Nat
deriving DecidableEq, Repr, Inhabited

/-- Where an admitted request stands. -/
inductive RPhase where
  | waiting | running | yielding
deriving DecidableEq, Repr, Inhabited

/-- An admitted, unfinished request (R288 to R311). -/
structure Req where
  ws : Nat
  ring : Nat
  op : Nat
  cls : Nat
  irq : Bool
  addr : Bool
  tag : Nat
  planId : Nat
  deadline : Nat
  objA : Nat
  objB : Nat
  place : Nat
  count : Nat
  args : List Byte
  submit : Nat
  admitTick : Nat
  /-- Tick of the first tile. -/
  start : Option Nat
  loan : Bool
  overload : Bool
  preempts : Nat
  phase : RPhase
  /-- Tick a preemption was decided in, and whether under the overload rules (R302, R304). -/
  yieldBy : Option (Nat × Bool)
  /-- Remaining estimate on each unit claimed. -/
  est : List (Nat × Nat)
  /-- The steps of its plan still to run. -/
  steps : List PlanStep
  snap : Snap
  rsds : List Rsd
  /-- Output tiles of the current step that are done. -/
  done : Nat
  /-- Objects it keeps (R292). -/
  held : List Nat
  /-- Stream ports bound (R238). -/
  ports : List Nat
  /-- Host accesses outstanding (R584). -/
  hostOut : Bool
  /-- SENTINEL was 1 at admission, and GUARANTEE.OK in every tick since (R620). -/
  guarded : Bool
  /-- Bytes 0 to 55 of its descriptor (Table CLS-11). -/
  desc : List Byte
  /-- Slots it still has to take. -/
  want : List Want
  /-- Data of a DMA_IN that has arrived. -/
  buf : List Byte
  /-- Its reads of the guest's window, once it has begun (R211). -/
  guestRead : Option GuestRead
  /-- CAUSE bits of the record of valid work, gathered so far (R330). -/
  causeBits : Nat
  /-- The plan slot it runs with, or that it loads; and what stood in the plan slot before an accepted load (R352, R355). -/
  slot : Option PlanSlot
  prior : Option PlanSlot
  /-- Tiles each Facet has ended in the current phase, destination tiles of its reshard that are complete, and by source part the most
  rows and columns that a tile of it has had. -/
  perFacet : NMap Nat
  resharded : Nat
  srcDims : NMap (Nat × Nat)
  /-- Partial sums that wait in the Lockets for the exchange (R334), by Facet. -/
  partials : List (Nat × TileSums)
  /-- The tile that failed its check. -/
  abft : Option Abft
  /-- A full merge buffer is being flushed of its entries (R382), or a MERGE step has settled which inputs are missing (R432). -/
  flushing : Bool
  /-- The tick its current step began in, and the inputs of a MERGE step the cell fabric has failed (R432). -/
  stepTick : Nat
  failedIns : List Nat
  /-- An accepted tile of a Facet whose output waits for a slot that is being written back (R253). -/
  store : Option (Nat × TileSums)
  /-- Tiles, by object and index, that its engines have read. -/
  seen : List (Nat × Nat)
  /-- Tiles, by object and index, that came in past its span of R266 while it was preempted (R269). -/
  late : List (Nat × Nat)
  /-- What ends it at the end of this tick; of several causes the one whose code prevails (R18). -/
  ends : Option Ending
deriving DecidableEq, Repr, Inhabited

/-- The scheduler (R286 to R311). -/
structure Sch where
  reqs : NMap Req
  nextRid : Nat
  plans : NMap PlanSlot
  /-- Submit ticks of pending descriptors: key ws × 4 + ring, oldest first (R287). -/
  submits : NMap (List Nat)
  /-- Candidates held pending under the overload rules: ws × 4 + ring (R304). -/
  overloaded : List Nat
  /-- Cancels that take effect before the next admission (R285, R288): ws × 4 + ring, with the tick of the write. -/
  cancels : NMap Nat
  /-- Tiles pinned by replaced plans, with the requests that still run them (R355). -/
  oldPins : List (List Nat × List Nat)
  /-- Workspace interrupts held until a tick (R319 MODERATE), and whether one is held back. -/
  moder : NMap (Nat × Bool)
  /-- Completion records held in a shadow while the host link is down: ws, slot index (R295). -/
  held : List (Nat × Nat)
  /-- Slots of completion rings reserved, by workspace (R294). -/
  reserved : NMap Nat
  /-- The tick of the last audit (R313). -/
  audited : Nat
  /-- Work of peers charged to a MAP claim: workspace, unit, unit-ticks left (R389, R433). -/
  charges : List (Nat × Nat × Nat)
  /-- An admitted request has been held at some moment of this tick (R134, log entry 76). -/
  busy : Bool
deriving DecidableEq, Repr, Inhabited

/-- An active map table, with its directory entry as the activation read it (R358, R361, Table MAP-1). -/
structure MapTab where
  fmt : Nat
  elems : Nat
  learn : Bool
  stoch : Bool
  sharded : Bool
  opt : Nat
  rmw : Bool
  shift : Nat
  rows : Nat
  shadow : Nat
  ptrObj : Nat
  slotObj : Nat
  shadowObj : Nat
  lr : Nat
  beta1 : Nat
  beta2 : Nat
  eps : Nat
  cacheTiles : Nat
  ws : Nat
  /-- Shadow slots not free, and slots of SLOT_OBJ that are (R375). -/
  used : List Nat
  freed : List Nat
  /-- A deactivation waits for its requests. -/
  leaving : Bool
deriving DecidableEq, Repr, Inhabited

/-- A row in the row cache: its set and way, and its slot's bytes (R366, R368). -/
structure CacheRow where
  table : Nat
  row : Nat
  set : Nat
  way : Nat
  data : List Byte
  /-- Replaced since it was cached, and not yet written to its home slot (R368, R370, R394). -/
  dirty : Bool
deriving DecidableEq, Repr, Inhabited

/-- A lookup or an update of one row that has not been delivered: a miss of this device or a row of a peer, in a batch or a
round (R368, R387 to R389). -/
structure Lookup where
  rid : Nat
  g : Nat
  table : Nat
  row : Nat
  pos : Nat
  /-- 0 for a row of this device, p + 1 for one of peer slot p. -/
  owner : Nat
  slot : Nat
  ver : Nat
  joined : Nat
  issue : Option Nat
  epoch : Nat
  round : Option Nat
  /-- Gradients or values of an update or PUT, as FP32 codes. -/
  upd : Option (Bool × List Nat)
  /-- What it delivered: the row's slot bytes; no bytes for an empty row or an acknowledgement. -/
  answer : Option (List Byte)
deriving DecidableEq, Repr, Inhabited

/-- A new slot completely written, whose pointer is written in the next tick (R373). -/
structure FlipOp where
  rid : Option Nat
  /-- The peer slot whose update it is (R389). -/
  peer : Option Nat
  g : Nat
  table : Nat
  row : Nat
  newSlot : Nat
  oldSlot : Nat
  version : Nat
  written : Nat
deriving DecidableEq, Repr, Inhabited

/-- An old slot whose lookups may not all have delivered (R375). -/
structure Grace where
  g : Nat
  table : Nat
  slot : Nat
  since : Nat
deriving DecidableEq, Repr, Inhabited

/-- An entry of a merge buffer with its FP32 accumulator (R382). -/
structure MergeEntry where
  rid : Nat
  g : Nat
  table : Nat
  row : Nat
  acc : List Nat
deriving DecidableEq, Repr, Inhabited

/-- The GSEs, the table directory and the row cache (R358 to R395). -/
structure Rows where
  tabs : NMap MapTab
  /-- The frequency sketch, counter i × 65,536 + index; 0 where not listed (R367). -/
  sketch : NMap Nat
  cache : List CacheRow
  lookups : List Lookup
  flips : List FlipOp
  grace : List Grace
  merge : List MergeEntry
  /-- Generator state of each GSE (R380). -/
  lfsr : NMap Nat
  /-- Open rounds: GSE and number (R388). -/
  rounds : List (Nat × Nat)
  /-- GSEs whose wait of this tick is counted: 2 × GSE for a shadow slot, and one more for a merge entry (R376, R382). -/
  waited : List Nat
deriving DecidableEq, Repr, Inhabited

/-- An active index of a Loupe, with its directory entry as the activation read it and its lists: first ID and count of each
(R399, R402, R403). -/
structure LpIndex where
  fmt : Nat
  metric : Nat
  normed : Bool
  peerServe : Bool
  dims : Nat
  degree : Nat
  ws : Nat
  nodesM1 : Nat
  entry : Nat
  nodeObj : Nat
  listObj : Nat
  centObj : Nat
  lists : Nat
  shard : Nat
  table : List (Nat × Nat)
  /-- A deactivation waits for its requests. -/
  leaving : Bool
deriving DecidableEq, Repr, Inhabited

/-- A candidate of a query: its distance as an ordered number and as the FP32 code reported, its node's local ID (R409). -/
structure Cand where
  key : Int
  code : Nat
  node : Nat
  expanded : Bool
  deleted : Bool
deriving DecidableEq, Repr, Inhabited

/-- A query of a SEARCH step (R412 to R424): its vector as element codes, its norm, whether it holds a context, its queue and
visited set, for exact mode the lists it still needs with the tiles of each it has seen and how far it has compared the centroids, and
the lane-cycles of its own distances (R420). -/
structure LpQuery where
  rid : Nat
  lp : Nat
  index : Nat
  qi : Nat
  vec : List Nat
  norm : Nat
  ctx : Bool
  started : Bool
  queue : List Cand
  visited : List Nat
  expansions : Nat
  sat : Bool
  budget : Bool
  needs : List (Nat × List Nat)
  centTile : Nat
  centRow : Nat
  lanes : Nat
  finished : Bool
deriving DecidableEq, Repr, Inhabited

/-- A circular scan of a list of an index as it stands, waiting or running, with the tile it reads next (R419). -/
structure ListScan where
  lp : Nat
  index : Nat
  x : LpIndex
  list : Nat
  opened : Nat
  running : Bool
  pos : Nat
deriving DecidableEq, Repr, Inhabited

/-- A search served for the peer in a slot (R433): the index as it stood, the step's parameters, the number of its query, which stands
among the queries, and the thousandths of a unit-tick charged for it. -/
structure PeerSearch where
  slot : Nat
  lp : Nat
  index : Nat
  qi : Nat
  x : LpIndex
  k : Nat
  l : Nat
  visitMax : Nat
  exact : Bool
  probe : Nat
  charged : Nat
deriving DecidableEq, Repr, Inhabited

/-- The Loupes: active indexes by 64 × Loupe + index, queries, scans, lane-cycles used, and the searches of peers under way. -/
structure Lps where
  idx : NMap LpIndex
  queries : List LpQuery
  scans : List ListScan
  lanes : NMap Nat
  peers : List PeerSearch
deriving DecidableEq, Repr, Inhabited

/-- A solve under way on an ISE (R446): its vectors as FP32 codes, its FP64 scalars, its counts, the cycles since setup or the
last recheck, and whether a recheck of R449 is due. -/
structure IseRun where
  ise : Nat
  rid : Nat
  tol : Nat
  maxIter : Nat
  x : List Nat
  r : List Nat
  z : List Nat
  p : List Nat
  rho : Nat
  nb : Nat
  nr : Nat
  i : Nat
  restarts : Nat
  shifts : Nat
  pivotRow : Nat
  seq : Nat
  resid : Nat
  cycles : Nat
  due : Bool
  /-- VERSION of each input tile at its first read: object, tile, version (R443). -/
  vers : List (Nat × Nat × Nat)
  /-- What the preconditioner's build stored, as FP32 codes. -/
  pre : List (List Nat)
  /-- How it stops, once it does: STOP, outcome and CAUSE; its outputs are then written. -/
  stop : Option (Nat × Nat × Nat)
deriving DecidableEq, Repr, Inhabited

/-- One Filigree channel (R471 to R491). Samples and FIR outputs stand latest first, each with whether its window saturated. -/
structure FilChan where
  /-- CFG_A to CFG_D in force; none before the first commit takes effect. -/
  cfg : List Nat
  /-- Settings committed and not yet in force, with the tick of the commit. -/
  next : Option (List Nat × Nat)
  /-- The integrators as 48-bit codes, the comb delays, and modulator bits since the last CIC output. -/
  integ : List Nat
  combs : List Int
  phase : Nat
  raw : List (Int × Bool)
  ranked : List (Int × Bool)
  fir : List (Int × Bool)
  /-- FIR outputs since the last event, and the grid index since the last start event. -/
  n : Nat
  num : Nat
  /-- FRAME edges with instants left: instant and period in 2^-32 ns, next j. CELL: next second and index. -/
  edges : List (Int × Nat × Nat)
  grid : Option (Nat × Nat)
  /-- SPI: the anchor, samples taken since, the instant of the last one, and whether the next one anchors anew. -/
  anchor : Int
  taken : Nat
  lastAt : Int
  fresh : Bool
  /-- Samples delivered and not yet taken: value and instant. -/
  queue : List (Int × Int)
  /-- Flags that unsettled records of the last event carry. -/
  evFlags : Nat
  /-- 0 running; 1 a stop that is a discontinuity; 2 one after which the channel starts. -/
  halted : Nat
  clkOff : Bool
  /-- The first record since the last start event has been written. -/
  wrote : Bool
deriving DecidableEq, Repr, Inhabited

/-- A calibration that collects records (R492): RAW values so far, and whether one carried SAT. -/
structure FilCal where
  channel : Nat
  range : Nat
  ref : Bool
  since : Nat
  raws : List Int
  sat : Bool
deriving DecidableEq, Repr, Inhabited

/-- Filigree (R471 to R501). -/
structure Fil where
  chans : NMap FilChan
  cal : Option FilCal
deriving DecidableEq, Repr, Inhabited

/-- A pending entry of a stamp line (R513, R518): its edge in cycles since tick 0 and in cell time, the active domain and the
slew at that instant, and a step since. -/
structure StampEntry where
  line : Nat
  cycle : Nat
  cell : Int
  domain : Nat
  slewing : Bool
  coarse : Bool
  stepped : Bool
deriving DecidableEq, Repr, Inhabited

/-- An entry of a transmit-stamp queue (R532). -/
structure TxqEntry where
  sec : Nat
  ns : Nat
  subns : Nat
  seqId : Nat
  msgType : Nat
  flags : Nat
  domainNum : Nat
deriving DecidableEq, Repr, Inhabited

/-- A time domain (R520 to R524). Times are in 2^-32 ns, rates in 2^-32, path delay and message times in 2^-16 ns. -/
structure Dom where
  time : Int
  rate : Int
  /-- Consecutive measurements within LOCK_NS, and beyond UNLOCK_NS. -/
  good : Nat
  bad : Nat
  lastSync : Nat
  logInt : Option Int
  delay : Int
  /-- The last Sync measured: origin and receipt; one that waits for its Follow_Up: sequence, receipt, correction. -/
  sync : Option (Int × Int)
  waitSync : Option (Nat × Int × Int)
  /-- Delay_Req and Pdelay_Req sent: sequence and instant; a Pdelay_Resp that waits: sequence, peer's receipt, receipt,
  correction. -/
  dreq : Option (Nat × Int)
  preq : Option (Nat × Int)
  presp : Option (Nat × Int × Int × Int)
  gm : Option PtpAnnounce
  seq : Nat
  /-- Tick of the last message sent, by message type. -/
  sent : NMap Nat
  /-- Settings written and not yet applied: word and value. -/
  cfgNext : List (Nat × Nat)
deriving DecidableEq, Repr, Inhabited

/-- An FSYNC output's settings (R536). -/
structure FsOut where
  mode : Nat
  start : Nat
  period : Nat
  width : Nat
deriving DecidableEq, Repr, Inhabited

/-- Hallmark (R505 to R542). -/
structure Hm where
  /-- Cell time at the start of the tick, in 2^-32 ns, and the rate it runs at. -/
  cell : Int
  rate : Int
  doms : NMap Dom
  /-- The command of this tick: its code, and whether HM was ACTIVE. -/
  cmd : Option (Nat × Bool)
  entries : List StampEntry
  /-- Snapshots by requester; latched stamp words by 32 × requester + line. -/
  snaps : NMap (List Nat)
  latched : NMap (List Nat)
  txq : NMap (List TxqEntry)
  /-- Entries by port that found their queue full in this tick, of which a pop of the tick may still take the first (R534). -/
  txqLate : List (Nat × TxqEntry)
  /-- Settings in force and applied next of the FSYNC outputs, the last instant each has emitted in CELL mode, and the tick
  its pulse ends. -/
  fs : NMap FsOut
  fsNext : NMap FsOut
  fsLast : NMap Nat
  fsPulse : NMap Nat
  /-- The last second PPS_OUT rose at, and the tick its pulse ends. -/
  ppsLast : Option Nat
  ppsPulse : Nat
deriving DecidableEq, Repr, Inhabited

/-- A view of the cell: its ID and its members' DEVICE_IDs in ascending order (R562). -/
structure View where
  id : Nat
  members : List Nat
deriving DecidableEq, Repr, Inhabited

/-- A CFP message sent and not yet acknowledged (R554). -/
structure CfpOut where
  seq : Nat
  kind : Nat
  words : List Nat
  sent : Nat
  resends : Nat
deriving DecidableEq, Repr, Inhabited

/-- HBM lent to a peer (R569, R570): addresses of its tiles in order, memory key, and the tick of the RECLAIM sent. The base
address announced is that of the first tile. -/
structure Grant where
  places : List Nat
  key : Nat
  order : Nat
  reclaim : Option Nat
deriving DecidableEq, Repr, Inhabited

/-- A peer slot in use (R556). -/
structure Peer where
  dev : Nat
  interval : Nat
  lastAnn : Nat
  qpn : Nat
  lendFree : Nat
  txSeq : Nat
  unacked : List CfpOut
  leaveAt : Option Nat
  grant : Option Grant
  /-- Tiles borrowed from it, with their base and key at the lender. -/
  borrowed : Nat
  remoteBase : Nat
  remoteKey : Nat
  /-- RoCE v2: retries used, tick of the last retry or of the last transfer that came through, sending rate in Mb/s, tick of the last CNP
  or raise. -/
  retries : Nat
  retryTick : Nat
  rate : Nat
  rateTick : Nat
deriving DecidableEq, Repr, Inhabited

/-- The cell fabric (R546 to R576). -/
structure Fab where
  peers : NMap Peer
  cur : View
  prev : View
  /-- This device announces SHARD_EN = 1. -/
  sharding : Bool
  /-- The tick FAB was enabled in, while it listens before it joins (R557). -/
  listen : Option Nat
  lastAnn : Nat
  viewTick : Nat
  /-- Ranges to hand over, with whether each is frozen; ranges still to be received, with the DEVICE_ID of the old owner, and
  those of them whose HANDOVER_END has come while rows of theirs wait (R564, R565). -/
  outs : List (Nat × Nat × Bool)
  ins : List (Nat × Nat × Nat)
  ended : List (Nat × Nat)
  /-- Requests of peers held until a range has been received: slot, epoch, request. -/
  held : List (Nat × Nat × RemoteItem)
  /-- Batches of peers that do not fit their claim yet, in order: slot, epoch, requests (R389). -/
  batches : List (Nat × Nat × List RemoteItem)
  /-- Peers that have departed in this tick, whose replies of the tick are still taken (R392). -/
  gone : List Nat
  /-- A graceful leave of this device is under way, and GONE has been sent (R558, R575). -/
  leaving : Bool
  goneSent : Bool
  /-- Grants made so far. -/
  grants : Nat
  /-- The tick of the last LEND_RECLAIM, until LEND_T2_TILES is written again: nothing more is lent, and the HBM returns to the T2 pool
  5,000 ticks later (R272). -/
  recalled : Option Nat
deriving DecidableEq, Repr, Inhabited

/-- A fault report, open or latest (Table FLT-6). -/
structure Report where
  tick : Nat
  mech : Nat
  cls : Nat
  page : Nat
  sub : Nat
  ws : Nat
  flags : Nat
  reqCount : Nat
  merged : Nat
  seq : Nat
  info0 : Nat
  info1 : Nat
deriving DecidableEq, Repr, Inhabited

/-- The fault collector (R643 to R649). -/
structure Flt where
  /-- Open reports, keyed by their number. -/
  opens : NMap Report
  /-- Class C1 attributions: unit page and tick, latest first (R636). -/
  c1 : List (Nat × Nat)
  /-- FIRST_REPORT holds a report since FIRST_CLR. -/
  firstHeld : Bool
  /-- FAULT_N held by FAULT_N_MODE (R649). -/
  pinHeld : Bool
  /-- The record of the first uncorrected error of this tick that a page has not captured, by page: the four words (R106). -/
  missed : NMap (List Nat)
deriving DecidableEq, Repr, Inhabited

/-- A frame being captured (R594). -/
structure Capture where
  /-- Payload of tile 0 so far, and of the tile being filled. -/
  tile0 : List Byte
  cur : List Byte
  buf : Nat
  fsTick : Nat
  frameNum : Nat
  lines : Nat
  flags : Nat
  vc : Nat
deriving DecidableEq, Repr, Inhabited

/-- An access the boot-flash master or the flash-write engine is carrying out (R589, R601). -/
structure FlashOp where
  op : Nat
  flash : Nat
  casket : Nat
  len : Nat
  /-- The tick it began in. -/
  since : Nat
deriving DecidableEq, Repr, Inhabited

/-- The ports (R579 to R610). -/
structure Io where
  /-- Virtual functions enabled, one bit each. -/
  vfOn : Nat
  /-- NVP: tick initialisation began in, consecutive timeouts, a write in progress, the SSD below the port. -/
  nvpSince : Nat
  nvpTimeouts : Nat
  nvpWrite : Option FlashOp
  ssd : Option NvmeFound
  /-- Frames in capture, keyed 4 × CSI + stream. -/
  capture : NMap Capture
  /-- Frame starts sampled while their receiver, up, had no clock: receiver, virtual channel, frame number and tick (R120). -/
  fsWait : List (Nat × Nat × Nat × Nat)
  /-- SPM: sample list still to run per port, a transfer in progress. -/
  spmList : NMap (List Nat)
  /-- The stamp of the data-ready edge each port serves. -/
  spmEdge : NMap Int
  bspi : Option FlashOp
  /-- SDM: edge counts of the last 256 ticks per input, latest first, and ticks without a fault condition. -/
  sdmCounts : NMap (List Nat)
  sdmClean : NMap Nat
  /-- MSPI: a READ or WRITE frame has come in this tick (R129); what is left of the
  frame in progress is ignored, after UNDERCLK or BAD_CMD (R607, R608). -/
  mspiWake : Bool
  mspiIdle : Bool
  /-- TAP: current instruction, boundary register, data register of REG_ACCESS; the chain of dies selected, 0 for the Crown alone and
  f + 1 for Crown → Ff → Lf; what the die wrapper registers drive, by die: 0 the Crown, 1 + f Facet f, 5 + f Locket f. -/
  tapIr : Nat
  boundary : List Bool
  tapData : Nat
  tapDone : Bool
  chain : Nat
  dwr : NMap (List Bool)
  /-- Pins driven from the boundary register (EXTEST, CLAMP) or floated (HIGHZ). -/
  pinsFrom : Nat
deriving DecidableEq, Repr, Inhabited

/-- The memories (Table REG-6, R173): sparse bytes, 0 where nothing is listed. -/
structure Mem where
  /-- The device physical address space. -/
  dpa : NMap Byte
  /-- Host memory, by PCIe address. -/
  host : NMap Byte
  /-- NVMe namespace 1, by byte offset. -/
  nvme : NMap Byte
  /-- The boot flash. -/
  flash : NMap Byte
deriving DecidableEq, Repr, Inhabited

/-- What leaves the device at a command, kept until the next tick passes. -/
inductive Out where
  /-- Data returned to a requester's read. -/
  | read (rq : Requester) (data : List Byte) (poisoned : Bool)
  | msix (fn vector : Nat)
  | event (r : EvtRecord)
  | hostWrite (fn addr : Nat) (data : List Byte)
  | hostRead (fn addr len : Nat)
  /-- The answer to a configuration request: normal or Request Retry Status, and what an identity request reads. -/
  | config (normal : Bool) (value : Nat)
  /-- A packet, frame or message on a link, with its SEQ and ACK_SEQ, and whether INJ_CRC has spoiled its CRC. -/
  | link (l : Nat) (p : LinkOut) (seq ack : Nat) (spoiled : Bool)
  | nvme (write : Bool) (off len : Nat)
  | frame (port : Nat) (data : List Byte)
  | rdma (slot op off len : Nat) (data : List Byte)
  | roceAck (slot : Nat) (ok : Bool)
  | cfp (slot kind : Nat) (words : List Nat)
  | peerItems (slot epoch : Nat) (items : List RemoteItem)
  | peerAnswer (slot table row : Nat) (a : RemoteAnswer)
  | peerSearch (slot lp index : Nat) (refused : Bool) (entries : List Byte)
  /-- A PTP message of a domain, and the VLAN it is tagged with, 0 for none (Table HM-5). -/
  | ptp (d vlan kind seq : Nat) (time : Int)
  | pps (ns : Nat)
  | fsync (f : Nat)
  | spi (p cs : Nat) (data : List Byte)
  | flash (op addr len : Nat)
  /-- What MISO carries in a frame: MSPI_STAT[7:0] during the command byte, and the words after the ready marker. -/
  | mspi (stat : Nat) (words : List Word) (timeout : Bool)
  | tdo (bits : List Bool)
deriving DecidableEq, Repr

/-- The guest record with nothing negotiated. -/
def guestReset : Guest :=
  { accepted := false, cls := 0, timeSync := false, maxPkt := 64, winSize := 0, credReq := 0, credCpl := 0, credData := 0,
    retReq := 0, retCpl := 0, retData := 0, waiting := [], hisReq := 0, hisCpl := 0, hisData := 0, owed := (0, 0, 0),
    gave := (0, 0, 0), work := [], tail := 0, nextTag := 0, rdTag := 0, tickMiss := 0, tickSent := none, gmapOld := [] }

/-- The state of the device. -/
structure State where
  part : Part
  tick : Nat
  /-- Register words that differ from their reset words, keyed 1024 × page + word (R57). -/
  regs : NMap Word
  /-- Blocks whose state differs from the state of their page after reset. -/
  blocks : NMap Block
  bus : Bus
  evt : Evt
  pwr : Pwr
  boot : Boot
  links : NMap Link
  guest : Guest
  mem : Mem
  ck : Ck
  sch : Sch
  rows : Rows
  lps : Lps
  ises : List IseRun
  fil : Fil
  hm : Hm
  fab : Fab
  flt : Flt
  io : Io
  out : List Out
  /-- How many free values have been taken so far (the model's own field, log entry 5). -/
  free : Nat
  /-- The commands that wait, first in first out. -/
  pending : List Instr
deriving DecidableEq, Repr

/-- The power and thermal manager after reset. -/
def pwrReset : Pwr :=
  { entry := none, entryFrom := none, wake := none, wakeBad := ([], []), wakeLocks := false, wokeAt := none, dozeExit := none, idle := 0, pllOn := [],
    power := [], capOp := 0, capOver := false, facetHeld := 0, facetHot := 0, crownHot := none, crownOver := false, crownReach := [], warned := 0, rails := [], rails3 := [], zero := [],
    refBack := some 0, tripped := false, lktNext := 0, timerLate := none }

/-- The machine right after the release of the always-on power-on reset: tick 0, every register at its reset value, SYS_RST_N
and PERST_N released, REFCLK_25 present, the memories with nothing listed and no command waiting (R109, R165, R188, Table
REG-7; log entries 1 and 2). -/
def State.reset : State :=
  { part := .pmx7240
    tick := 0
    regs := [(0x442, 1)]
    blocks := []
    bus := { armed := [], latch := [], stage := [], hot := [], raised := [] }
    evt := { fired := [], inject := [], sampled := [], tickDone := false }
    pwr := pwrReset
    boot := { sysRel := 0, perstRel := 0, perstHigh := true, linkUp := false, stageTick := 0, slot := 0, staged := 0,
              facetsDone := 0, hbmDone := 0, savedLinks := 0, savedHbm := 0, facetFw := false, wdogTick := 0, secVer := 0, errB := 0,
              resetNext := none }
    links := []
    guest := guestReset
    mem := { dpa := [], host := [], nvme := [], flash := [] }
    ck := { slots := [], objs := [], fetches := [], lent := [], reshard := [], notices := [] }
    sch := { reqs := [], nextRid := 0, plans := [], submits := [], overloaded := [], cancels := [], oldPins := [],
             moder := [], held := [], reserved := [], audited := 0, charges := [], busy := false }
    rows := { tabs := [], sketch := [], cache := [], lookups := [], flips := [], grace := [], merge := [], lfsr := [],
              rounds := [], waited := [] }
    lps := { idx := [], queries := [], scans := [], lanes := [], peers := [] }
    ises := []
    fil := { chans := [], cal := none }
    hm := { cell := 0, rate := 0, doms := [], cmd := none, entries := [], snaps := [], latched := [], txq := [], fs := [],
            txqLate := [], fsNext := [], fsLast := [], fsPulse := [], ppsLast := none, ppsPulse := 0 }
    fab := { peers := [], cur := { id := 0, members := [] }, prev := { id := 0, members := [] }, sharding := false,
             listen := none, lastAnn := 0, viewTick := 0, outs := [], ins := [], ended := [], held := [],
             batches := [], gone := [],
             leaving := false, goneSent := false, grants := 0, recalled := none }
    flt := { opens := [], c1 := [], firstHeld := false, pinHeld := false, missed := [] }
    io := { vfOn := 0, nvpSince := 0, nvpTimeouts := 0, nvpWrite := none, ssd := none, capture := [], fsWait := [], spmList := [],
            spmEdge := [], bspi := none, sdmCounts := [], sdmClean := [], mspiWake := false, mspiIdle := false, tapIr := 0x01,
            boundary := [], tapData := 0, tapDone := false, chain := 0, dwr := [], pinsFrom := 0 }
    out := []
    free := 0
    pending := [] }

end Sys2Proof.Machine
end

