-- ==== Sys2Proof/Machine/Ops.lean ====
section
/-! DEFINITION. The named operations over registers, blocks, memory, events and interrupts that every meaning is built
from. -/

namespace Sys2Proof.Machine

/-! ### Register words and fields -/

/-- Where the word at an offset of a page is kept. -/
def regKey (page off : Nat) : Nat := 1024 * page + off / 4

/-- Whether a repeated row's offsets include `rel` beyond its first: dims are (stride, count) pairs. -/
def dimsHit : List (Nat × Nat) → Nat → Bool
  | [], rel => rel == 0
  | (st, n) :: r, rel => (List.range n).any (fun i => decide (i * st ≤ rel) && dimsHit r (rel - i * st))

/-- Whether a row of a register table has a field at the word offset. -/
def Row.hits (r : Row) (off : Nat) : Bool := decide (r.off ≤ off) && dimsHit r.dims (off - r.off)

/-- The rows of a page: its header and its own registers (R57, R105). -/
def pageRows (page : Nat) : List Row :=
  match pageKind page with
  | some k => headerRows ++ kindRows k
  | none => []

/-- The rows that have a field in one word of a page. -/
def rowsAt (page off : Nat) : List Row := (pageRows page).filter (fun r => r.hits off)

/-- The always-on pages of R135: DEV and the BZ pages. -/
def alwaysOn (page : Nat) : Bool := decide (page ≤ 0x006)

/-- Home quadrant of the block of a stream port (Table CK-1 with Table MACH-3). -/
def portQuad (p : Nat) : Nat :=
  if p < 32 then p / 8
  else if p < 34 then 1 else if p < 36 then 3
  else if p < 38 then 1 else if p < 40 then 3
  else if p < 42 then 2 else if p < 44 then 3
  else if p < 46 then 2 else if p = 46 then 1 else if p = 47 then 2
  else if p < 50 then 0 else if p < 55 then 1 else if p < 63 then 2 else 0

/-- The first page of each range of Table REG-4 that holds more than one page, and its number of pages; Facets left out. -/
def pageRanges : List (Nat × Nat) :=
  [(0x011, 4), (0x020, 4), (0x024, 4), (0x060, 2), (0x068, 2), (0x070, 2), (0x088, 4), (0x092, 8), (0x0A0, 4), (0x100, 64)]

/-- BLK_ID of a page (R59). -/
def blkId (page : Nat) : Nat :=
  if 0x040 ≤ page ∧ page ≤ 0x05F then
    (0x0040 + (page - 0x040) % 8) * 2 ^ 16 + (page - 0x040) / 8 * 2 ^ 8 + 1 + (page - 0x040) / 8
  else match pageRanges.find? (fun r => decide (r.1 ≤ page) && decide (page < r.1 + r.2)) with
    | some r => r.1 * 2 ^ 16 + (page - r.1) * 2 ^ 8
    | none => page * 2 ^ 16

/-- Audited pages in ascending order: those with BLK_CAP.DPSTATE = 1 (R312). -/
def auditedPages : List Nat :=
  [0x020, 0x021, 0x022, 0x023, 0x024, 0x025, 0x026, 0x027, 0x040, 0x048, 0x050, 0x058, 0x060, 0x061, 0x068, 0x069, 0x070,
   0x071, 0x078, 0x0A0, 0x0A1, 0x0A2, 0x0A3]

/-- Pages whose block is that of another page: the Facets' other sub-pages, FIL_CH, FIL_CAL, HM_DOM, HM_TXQ. -/
def followsPage (page : Nat) : Bool :=
  (decide (0x040 ≤ page) && decide (page ≤ 0x05F) && decide ((page - 0x040) % 8 ≠ 0))
    || [0x079, 0x07A, 0x081, 0x082].contains page

/-- BLK_CAP of a page: EXPERT as its tables list expert registers, DPSTATE (R312), SRESET on every page whose BLK_CTRL acts
but the always-on ones (log entry 2), and BLOCK (R235, R439, R502). -/
def blkCap (page : Nat) : Nat :=
  let own := match pageKind page with
    | some k => kindRows k
    | none => []
  b2n (own.any (fun r => decide (0x800 ≤ r.off))) * 2 ^ 31 + b2n (auditedPages.contains page) * 2 ^ 30
    + b2n ((!followsPage page && !alwaysOn page) || page == 0x082) * 2 ^ 29
    + (if 0x020 ≤ page ∧ page ≤ 0x023 then 12 else if 0x024 ≤ page ∧ page ≤ 0x027 then 10
       else if page = 0x068 ∨ page = 0x069 then 1024 else if page = 0x078 then 24 else 0)

/-- BLK_VER: 1.0.0 on every page (log entry 2). -/
def blkVer : Nat := 0x0100_0000

/-- Reset words that the register tables leave to the part or the page (log entry 2): BLK_ID, BLK_VER and BLK_CAP; BLK_CTRL.ENABLE of DEV and the BZ
pages, PART and FACETS (Table FLT-7), LINK_CFG.MODE of C3 (Table CLS-9), PORT_STAT.QUAD (Table CK-11), the position of a
Facet (R357), TAP_IDCODE (Table PRT-8). -/
def specialReset (part : Part) (page off : Nat) : Option Nat :=
  if (pageKind page).isNone then none
  else if off = 0x000 then some (blkId page)
  else if off = 0x004 then some blkVer
  else if off = 0x008 then some (blkCap page)
  else if off = 0x00C then some (b2n (alwaysOn page))
  else if page = 0x000 then
    (if off = 0x100 then some (if part = .pmx7240 then 0x7240 else 0x7241)
     else if off = 0x104 then some (if part = .pmx7240 then 0xF else 0x7) else none)
  else if page = 0x023 ∧ off = 0x100 then some (b2n (decide (part = .pmx7241)))
  else if page = 0x01A ∧ 0x100 ≤ off ∧ off < 0x200 then some (portQuad ((off - 0x100) / 4) * 2 ^ 16)
  else if 0x040 ≤ page ∧ page ≤ 0x05F ∧ (page - 0x040) % 8 = 0 ∧ off = 0x100 then some ((page - 0x040) / 8)
  else if page = 0x09D ∧ off = 0x100 then some (if part = .pmx7240 then 0x0724_0001 else 0x0724_1001)
  else none

/-- The word a register holds after reset (R188, log entry 2). -/
def resetWord (part : Part) (page off : Nat) : Nat :=
  match specialReset part page off with
  | some w => w
  | none => (rowsAt page off).foldl (fun w r => w + r.reset % 2 ^ (r.hi + 1 - r.lo) * 2 ^ r.lo) 0

/-- What an unlisted register reads as. -/
def regDefault (part : Part) (k : Nat) : Word := BitVec.ofNat 32 (resetWord part (k / 1024) (k % 1024 * 4))

/-- The stored word at an offset of a page. -/
def State.word (s : State) (page off : Nat) : Word := mapGet (regDefault s.part) s.regs (regKey page off)

/-- The state with a stored word replaced. -/
def State.setWord (s : State) (page off : Nat) (w : Word) : State :=
  { s with regs := mapSet (regDefault s.part) s.regs (regKey page off) w }

/-- The value of a field. -/
def State.rd (s : State) (f : FRef) : Nat := bitsOf (s.word f.page f.off).toNat f.hi f.lo

/-- Whether a field is not 0. -/
def State.on (s : State) (f : FRef) : Bool := s.rd f != 0

/-- The state with a field set; higher bits of the value are dropped. -/
def State.wr (f : FRef) (v : Nat) (s : State) : State :=
  s.setWord f.page f.off (BitVec.ofNat 32 (putBits (s.word f.page f.off).toNat f.hi f.lo v))

/-- The state with a counter increased by n, held at its largest value. -/
def State.incBy (f : FRef) (n : Nat) (s : State) : State :=
  s.wr f (satBits (f.hi + 1 - f.lo) (s.rd f + n))

/-- The state with a counter increased by 1. -/
def State.inc (f : FRef) (s : State) : State := s.incBy f 1

/-- The state with the bits of a mask set in a field. -/
def State.orBits (f : FRef) (m : Nat) (s : State) : State := s.wr f (Nat.lor (s.rd f) m)

/-- The state with the bits of a mask cleared in a field. -/
def State.clearBits (f : FRef) (m : Nat) (s : State) : State :=
  s.wr f (Nat.xor (s.rd f) (Nat.land (s.rd f) m))

/-- The value of a 64-bit register (R656). -/
def State.rd64 (s : State) (lo hi : FRef) : Nat := s.rd lo + s.rd hi * 2 ^ 32

/-- The state with a 64-bit register set. -/
def State.wr64 (lo hi : FRef) (v : Nat) (s : State) : State := (s.wr lo (v % 2 ^ 32)).wr hi (v / 2 ^ 32)

/-- The state with a 64-bit counter increased. -/
def State.inc64 (lo hi : FRef) (n : Nat) (s : State) : State := s.wr64 lo hi (s.rd64 lo hi + n)

/-- The device sets bits of a W1C field: a write that clears them in this tick leaves them set (R14). -/
def State.setW1c (f : FRef) (m : Nat) (s : State) : State :=
  let k := regKey f.page f.off
  let s := s.orBits f m
  { s with bus := { s.bus with hot := mapInsert s.bus.hot k (Nat.lor ((mapFind s.bus.hot k).getD 0) (m * 2 ^ f.lo)) } }

/-- Whether a bit of a field is set. -/
def State.bitOn (s : State) (f : FRef) (n : Nat) : Bool := (s.rd f).testBit n

/-- The state with one bit of a field set or cleared. -/
def State.putBit (f : FRef) (n : Nat) (b : Bool) (s : State) : State :=
  if b then s.orBits f (2 ^ n) else s.clearBits f (2 ^ n)

/-! ### Free values -/

/-- A free value of n bits; the step that takes it advances the counter `free` (log entry 5). -/
def State.freeBits (s : State) (n : Nat) : Nat × State :=
  ((Config.freeValue s.free).toNat % 2 ^ n, { s with free := s.free + 1 })

/-- n free bytes. -/
def State.freeBytes (s : State) (n : Nat) : List Byte × State :=
  ((List.range n).map (fun i => (Config.freeValue (s.free + i)).setWidth 8), { s with free := s.free + n })

/-! ### What leaves the device -/

/-- The state with one more thing sent. -/
def State.emit (o : Out) (s : State) : State := { s with out := s.out ++ [o] }

/-! ### Interrupts and events -/

/-- Raises the interrupt of a workspace on a vector of its function, or on PF vector 2 while its function is not
enabled (R581). -/
def State.wsIrq (w vec : Nat) (s : State) : State :=
  if w = 0 then s.emit (.msix 0 vec)
  else if s.io.vfOn.testBit w then s.emit (.msix w vec)
  else
    let f := if w < 32 then HIF.WS_IRQ_PEND_LO else HIF.WS_IRQ_PEND_HI
    (s.setW1c f (2 ^ (w % 32))).emit (.msix 0 2)

/-- A bit of IRQ_RAW is set: where it rises, IRQ_STAT takes it, TICK_STAMP takes the tick, and an enabled bit raises the interrupt of
Table PRT-2 (R105, R668, R581). -/
def State.setIrq (page bit : Nat) (s : State) : State :=
  if s.bitOn (HDR.IRQ_RAW page) bit then s
  else
    let s := s.orBits (HDR.IRQ_RAW page) (2 ^ bit)
    let s := s.setW1c (HDR.IRQ_STAT page) (2 ^ bit)
    let s := s.wr64 (HDR.TICK_STAMP_LO page) (HDR.TICK_STAMP_HI page) s.tick
    if s.bitOn (HDR.IRQ_EN page) bit then
      (if 0x100 ≤ page ∧ page ≤ 0x13F then s.wsIrq (page - 0x100) 1 else s.emit (.msix 0 2))
    else s

/-- The conditions of a page found to hold in this tick, as bits of its IRQ_RAW. -/
def State.raisedNow (s : State) (page : Nat) : Nat := (mapFind s.bus.raised page).getD 0

/-- A condition of a block holds in this tick, and sets its bit of IRQ_RAW (R105). -/
def State.raiseIrq (page bit : Nat) (s : State) : State :=
  let s : State := { s with bus := { s.bus with
    raised := mapInsert s.bus.raised page (Nat.lor (s.raisedNow page) (2 ^ bit)) } }
  s.setIrq page bit

/-- The bit of IRQ_RAW that a refused control write sets (R84). -/
def irqCtrlRejected : Nat := 27
/-- The bit of IRQ_RAW that a blocked expert write sets. -/
def irqExpBlocked : Nat := 28
/-- The bit of IRQ_RAW for a corrected error. -/
def irqErrCorr : Nat := 29
/-- The bit of IRQ_RAW for an uncorrected error. -/
def irqErrUncorr : Nat := 30
/-- The bit of IRQ_RAW for a state transition. -/
def irqStateChange : Nat := 31

/-- A refused control write sets CTRL_REJECTED of its page. -/
def State.reject (page : Nat) (s : State) : State := s.raiseIrq page irqCtrlRejected

/-- An ignored expert write or an abandoned sequence is counted in BLOCKED_CNT (R65, R66). -/
def State.blocked (page : Nat) (s : State) : State :=
  (s.inc (HDR.EXP_STATE_BLOCKED_CNT page)).raiseIrq page irqExpBlocked

/-- Sources whose DETAIL is a bit set (R114, Table TCK-1). -/
def detailIsSet (i : Nat) : Bool := i == 32 || i == 38 || (decide (64 ≤ i) && decide (i ≤ 79))

/-- A source fires: one more firing in this tick, with its detail (R114). -/
def State.fire (i detail : Nat) (s : State) : State :=
  let e := match mapFind s.evt.fired i with
    | none => (1, detail)
    | some (n, d) => (clampNat 0 255 (n + 1), if detailIsSet i then Nat.lor d detail else detail)
  { s with evt := { s.evt with fired := mapInsert s.evt.fired i e } }

/-- The class of a source: 0 to 7 for E0 to E7 (Table TCK-1). -/
def sourceClass (i : Nat) : Nat :=
  if i ≤ 7 then 0 else if i ≤ 15 then 1 else if i ≤ 31 then 2 else if i ≤ 47 then 3
  else if i ≤ 63 then 4 else if i ≤ 79 then 5 else if i ≤ 87 then 6 else 7

/-! ### Blocks -/

/-- The code of a block state (Table REG-3). -/
def BState.code : BState → Nat
  | .off => 0 | .ready => 1 | .active => 2 | .draining => 3 | .fenced => 4 | .faulted => 5

/-- The page whose block state a page shows: sub-page 0 stands for the whole Facet (R312). -/
def unitPage (page : Nat) : Nat :=
  if 0x040 ≤ page ∧ page ≤ 0x05F then page - (page - 0x040) % 8 else page

/-- The page whose BLK_STATE a page shows (R312, R497, R541). -/
def ownerPage (page : Nat) : Nat :=
  if page = 0x079 ∨ page = 0x07A then 0x078 else if page = 0x081 ∨ page = 0x082 then 0x080 else unitPage page

/-- A block after reset (Table REG-7). -/
def blkReset (page : Nat) : Block :=
  let st := if alwaysOn page then BState.active else .off
  { st := st, drained := true, cause := 0, entry := 0, mism := 0, faultLocal := false, report := none }

/-- The block of a page. -/
def State.blk (s : State) (page : Nat) : Block := mapGet blkReset s.blocks (unitPage page)

/-- The state of a block. -/
def State.bst (s : State) (page : Nat) : BState := (s.blk page).st

/-- The state with the block of a page replaced. -/
def State.setBlk (page : Nat) (b : Block) (s : State) : State :=
  { s with blocks := mapSet blkReset s.blocks (unitPage page) b }

/-- A transition of a block with its cause: BLK_STATE, CAUSE, ENTRY_TICK, DRAINED, and STATE_CHANGE of its own page, not of the pages
that only show its BLK_STATE (R80, R82, R668; DESIGN CHOICE, log entry 105). A block that becomes FAULTED with no work keeps DRAINED = 1; one whose drain stops reads 0 (Table
REG-7, R638). -/
def State.goto (page : Nat) (st : BState) (cause : Nat) (s : State) : State :=
  let b := s.blk page
  let drained := match st with
    | .off => true
    | .ready => true
    | .faulted => b.drained && b.st != .fenced
    | _ => false
  let s := s.setBlk page { b with st := st, cause := cause, entry := s.tick, drained := drained }
  s.raiseIrq (unitPage page) irqStateChange

/-- Causes of a transition (Table REG-7 BLK_STATE.CAUSE). -/
def causeReset : Nat := 0
def causeSoftware : Nat := 1
def causePower : Nat := 2
def causeSched : Nat := 3
def causeAudit : Nat := 4
def causeLink : Nat := 5
def causeFault : Nat := 6
def causeSentinel : Nat := 7

/-- The state is one of READY, ACTIVE or DRAINING. -/
def BState.live : BState → Bool
  | .ready => true
  | .active => true
  | .draining => true
  | _ => false

/-- The state is READY or ACTIVE. -/
def BState.up : BState → Bool
  | .ready => true
  | .active => true
  | _ => false

/-- Whether a page is present on the part (R62, R91): listed in Table REG-4 and not on an absent die. -/
def pagePresent (part : Part) (page : Nat) : Bool :=
  (pageKind page).isSome && !(decide (part = .pmx7241) && decide (0x058 ≤ page) && decide (page ≤ 0x05F))

/-! ### Power state -/

/-- The power state: 0 AWAKE, 1 DOZE, 2 NAP, 3 SLEEP, 4 DEEP (Table TCK-5). -/
def State.pm (s : State) : Nat := s.rd BZ_PM.PM_STATE_CUR

/-- The device is in AWAKE. -/
def State.awake (s : State) : Bool := s.pm == 0

/-- A block outside OFF has a running clock: in DOZE only with CLK_REQ = 1 (R125). -/
def State.clockOn (s : State) (page : Nat) : Bool := s.awake || s.on (HDR.BLK_CTRL_CLK_REQ page)

/-- The die of a Facet page is power-gated: SLEEP and DEEP (Table TCK-5, R88). -/
def State.gated (s : State) (page : Nat) : Bool :=
  decide (0x040 ≤ page) && decide (page ≤ 0x05F) && decide (3 ≤ s.pm)

/-- The boot stage (Table BOOT-3). -/
def State.stage (s : State) : Nat := s.rd DEV.BOOT_STAGE

/-- DEV is FAULTED. -/
def State.devFaulted (s : State) : Bool := s.bst 0x000 == .faulted

/-- SENTINEL is set. -/
def State.sentinel (s : State) : Bool := s.on BZ_FAULT.SENTINEL

/-- The expert level of a page is unlocked. -/
def State.unlocked (s : State) (page : Nat) : Bool := s.on (HDR.EXP_STATE_UNLOCKED page)

/-- A Facet's operating point in force (Table TCK-4). -/
def State.facetOp (s : State) (f : Nat) : Nat := bitsOf (s.rd BZ_PM.FACET_OP) (4 * f + 3) (4 * f)

/-- The state with a Facet's operating point. -/
def State.setOp (f op : Nat) (s : State) : State :=
  s.wr BZ_PM.FACET_OP (putBits (s.rd BZ_PM.FACET_OP) (4 * f + 3) (4 * f) op)

/-- Facet frequency at an operating point, in MHz (Table TCK-4). -/
def opMHz (op : Nat) : Nat :=
  if op = 0 then 2000 else if op = 1 then 1750 else if op = 2 then 1500 else if op = 3 then 1250
  else if op = 4 then 1000 else if op = 5 then 750 else 500

/-- Whether an Umhel Facet is at a position (DEV.FACETS). -/
def State.hasFacet (s : State) (f : Nat) : Bool := decide (f < 4) && (decide (s.part = .pmx7240) || decide (f < 3))

/-! ### Memory -/

/-- What an unlisted byte of a memory reads as (log entry 4). -/
def zeroByte (_ : Nat) : Byte := 0

/-- n bytes of the device physical address space from a. -/
def State.dpaRead (s : State) (a n : Nat) : List Byte := mapRead zeroByte s.mem.dpa a n

/-- The state with bytes written to the device physical address space. -/
def State.dpaWrite (a : Nat) (l : List Byte) (s : State) : State :=
  { s with mem := { s.mem with dpa := mapWrite zeroByte s.mem.dpa a l } }

/-- n bytes of host memory from a. -/
def State.hostRead (s : State) (a n : Nat) : List Byte := mapRead zeroByte s.mem.host a n

/-- The PCIe requests of a transfer of n bytes at an address: address and length of each, of m bytes at most, cut at the multiples of
m, so that none crosses a 4 KiB boundary (R582). -/
def hostPieces (m a n : Nat) : List (Nat × Nat) :=
  (List.range (ceilDiv (a % m + n) m)).map (fun i =>
    let b := max a ((a / m + i) * m)
    (b, min (a + n) ((a / m + i + 1) * m) - b))

/-- The state with bytes written to host memory by a function, which is seen on PCIe in writes of 512 bytes at most (R580, R582,
Table PRT-1). -/
def State.hostWrite (fn a : Nat) (l : List Byte) (s : State) : State :=
  { s with
    mem := { s.mem with host := mapWrite zeroByte s.mem.host a l }
    out := s.out ++ (hostPieces 512 a l.length).map (fun x => .hostWrite fn x.1 ((l.drop (x.1 - a)).take x.2)) }

/-- Host memory is asked for n bytes by a function, in read requests of 4,096 bytes at most (R580, R582, Table PRT-1). -/
def State.hostAsk (fn a n : Nat) (s : State) : State :=
  { s with out := s.out ++ (hostPieces 4096 a n).map (fun x => .hostRead fn x.1 x.2) }

/-- n bytes of NVMe namespace 1 from a. -/
def State.nvmeRead (s : State) (a n : Nat) : List Byte := mapRead zeroByte s.mem.nvme a n

/-- The state with bytes written to NVMe namespace 1. -/
def State.nvmeWrite (a : Nat) (l : List Byte) (s : State) : State :=
  { s with mem := { s.mem with nvme := mapWrite zeroByte s.mem.nvme a l } }

/-- n bytes of the boot flash from a. -/
def State.flashRead (s : State) (a n : Nat) : List Byte := mapRead zeroByte s.mem.flash a n

/-- The state with bytes of the boot flash replaced. -/
def State.flashWrite (a : Nat) (l : List Byte) (s : State) : State :=
  { s with mem := { s.mem with flash := mapWrite zeroByte s.mem.flash a l } }

/-- The state with every byte of an address range of the device 0. -/
def State.dpaClear (a n : Nat) (s : State) : State :=
  { s with mem := { s.mem with dpa := mapBelow s.mem.dpa a ++ mapFrom s.mem.dpa (a + n) } }

/-- The canonical form of the memories. -/
def Memory.wf (m : Mem) : Bool :=
  mapWf zeroByte m.dpa && mapWf zeroByte m.host && mapWf zeroByte m.nvme && mapWf zeroByte m.flash

/-- The canonical form of the registers and blocks. -/
def State.regsWf (s : State) : Bool := mapWf (regDefault s.part) s.regs && mapWf blkReset s.blocks

/-! ### Addresses -/

/-- Casket base and size (Table REG-6). -/
def casketBase : Nat := 0x0100_0000_0000
def casketSize : Nat := 0x1000_0000
/-- Bytes of the keep region (R237). -/
def keepSize : Nat := 0x0100_0000
/-- Bytes of HBM, and of one stack. -/
def hbmSize : Nat := 0x0018_0000_0000
def stackSize : Nat := 0x0006_0000_0000
/-- Base and size of Locket n; the guest window takes slot 3 on the PMX-7241. -/
def locketBase (n : Nat) : Nat := 0x0200_0000_0000 + n * 0x0010_0000_0000
def locketSize : Nat := 0x0400_0000
def guestBase : Nat := 0x0230_0000_0000
def guestSlotSize : Nat := 0x0010_0000_0000
/-- Peer windows, the lent aliases, the host and flash windows, the register mirror. -/
def peerBase (p : Nat) : Nat := 0x0400_0000_0000 + p * 0x0008_0000_0000
def peerSize : Nat := 0x0008_0000_0000
def aliasBase (n : Nat) : Nat := 0x0600_0000_0000 + n * 0x0010_0000_0000
def hostBase : Nat := 0x0800_0000_0000
def hostWinSize : Nat := 0x0400_0000_0000
def flashBase : Nat := 0x0C00_0000_0000
def flashWinSize : Nat := 0x0300_0000_0000
def mirrorBase : Nat := 0x0F00_0000_0000
/-- Bytes of a tile (R243). -/
def tileSize : Nat := 32768

/-- Whether [a, a + n) lies in [b, b + m). -/
def within (a n b m : Nat) : Bool := decide (b ≤ a) && decide (a + n ≤ b + m)

/-- Whether a byte range lies in the Casket. -/
def inCasket (a n : Nat) : Bool := within a n casketBase casketSize
/-- Whether a byte range lies in HBM. -/
def inHbm (a n : Nat) : Bool := within a n 0 hbmSize
/-- Whether a byte range lies in the keep region. -/
def inKeep (a n : Nat) : Bool := within a n casketBase keepSize

end Sys2Proof.Machine
end

