-- ==== Sys2Proof/Machine/Operands.lean ====
section
/-! DEFINITION. The forms the manual gives to what commands name and carry: the command descriptor, the placement word,
the tile header and its geometry, the reshard descriptor, the completion record, address regions, plans and steps. -/

namespace Sys2Proof.Machine

/-! ### Command descriptor (Table WK-1) -/

/-- A command descriptor. -/
structure Desc where
  op : Nat
  ctrl : Nat
  tag : Nat
  planId : Nat
  deadline : Nat
  objA : Nat
  objB : Nat
  place : Nat
  count : Nat
  args : List Byte
  tail : Nat
deriving DecidableEq, Repr, Inhabited

/-- The descriptor that 64 bytes spell. -/
def descOf (l : List Byte) : Desc :=
  { op := fieldAt l 0 1, ctrl := fieldAt l 1 1, tag := fieldAt l 2 2, planId := fieldAt l 4 4,
    deadline := fieldAt l 8 8, objA := fieldAt l 16 8, objB := fieldAt l 24 8, place := fieldAt l 32 4,
    count := fieldAt l 36 4, args := (l.drop 40).take 16, tail := fieldAt l 56 8 }

/-- CTRL.CLASS: 0 FRAME, 1 MAP, 2 LEARN, 3 BULK. -/
def Desc.cls (d : Desc) : Nat := bitsOf d.ctrl 1 0
/-- CTRL.IRQ. -/
def Desc.irq (d : Desc) : Bool := bit d.ctrl 2
/-- CTRL.ADDR. -/
def Desc.addr (d : Desc) : Bool := bit d.ctrl 3

/-- Opcodes (Table WK-2). -/
def opNop : Nat := 0
def opRun : Nat := 1
def opAlloc : Nat := 2
def opFree : Nat := 3
def opLoadPlan : Nat := 4
def opDmaIn : Nat := 5
def opDmaOut : Nat := 6
def opFlush : Nat := 7

/-- The deadline that counts: FRAME and MAP only (Table WK-1). -/
def Desc.due (d : Desc) : Nat := if d.cls ≤ 1 then d.deadline else 0

/-- A reserved bit of the descriptor is set, the fields that Table WK-1 gives as otherwise 0 among them
(log entry 21). -/
def Desc.reservedSet (d : Desc) : Bool :=
  bitsOf d.ctrl 7 4 != 0 || d.tail != 0
    || (d.planId != 0 && !(d.op == opRun || d.op == opLoadPlan))
    || (d.place != 0 && d.op != opAlloc)
    || (d.count != 0 && !(d.op == opAlloc || d.op == opDmaIn || d.op == opDmaOut))

/-! ### Placement word (Table CK-5) -/

def placeHot (p : Nat) : Bool := bit p 0
def placeLocal (p : Nat) : Bool := bit p 1
def placeReadOnly (p : Nat) : Bool := bit p 2
def placePoolOk (p : Nat) : Bool := bit p 3
def placeLossOk (p : Nat) : Bool := bit p 4
def placeKeep (p : Nat) : Bool := bit p 5
def placeStream (p : Nat) : Bool := bit p 6
def placeQuad (p : Nat) : Nat := bitsOf p 9 8
def placeQuadEn (p : Nat) : Bool := bit p 10
def placeTier (p : Nat) : Nat := bitsOf p 14 12

/-- A reserved bit set, or a TIER above 5 (R249). -/
def placeBad (p : Nat) : Bool := bitsOf p 31 15 != 0 || bit p 11 || bit p 7 || decide (5 < placeTier p)

/-! ### Number formats (Table FCT-2) -/

/-- Bytes that n elements of a row take in a format: FP6 and FP4 packed without gaps, MX blocks of 32 elements with
their scale byte (Tables FCT-2, FCT-3). -/
def rowBytes (format n : Nat) : Nat :=
  if format = 0x00 ∨ format = 0x0A then 4 * n
  else if format = 0x01 ∨ format = 0x02 ∨ format = 0x0B then 2 * n
  else if format = 0x03 ∨ format = 0x04 ∨ format = 0x0C ∨ format = 0x0E then n
  else if format = 0x05 ∨ format = 0x06 then ceilDiv (6 * n) 8
  else if format = 0x07 ∨ format = 0x0D ∨ format = 0x0F then ceilDiv n 2
  else if format = 0x08 then n + ceilDiv n 32
  else if format = 0x09 then ceilDiv n 2 + ceilDiv n 32
  else ceilDiv n 8

/-! ### Tile header (Table CK-3) -/

/-- A tile header. -/
structure TileHdr where
  tag : Nat
  format : Nat
  layout : Nat
  dim0 : Nat
  dim1 : Nat
  pitch : Nat
  flags : Nat
  len : Nat
  obj : Nat
  index : Nat
  version : Nat
  ws : Nat
  home : Nat
  aux : List Byte
  checksum : Nat
deriving DecidableEq, Repr, Inhabited

/-- The header that the first 60 bytes of a tile spell. -/
def hdrOf (l : List Byte) : TileHdr :=
  { tag := fieldAt l 0 2, format := fieldAt l 2 1, layout := fieldAt l 3 1, dim0 := fieldAt l 4 2,
    dim1 := fieldAt l 6 2, pitch := fieldAt l 8 2, flags := fieldAt l 10 2, len := fieldAt l 12 4,
    obj := fieldAt l 16 8, index := fieldAt l 24 4, version := fieldAt l 28 4, ws := fieldAt l 32 2,
    home := fieldAt l 34 1, aux := (l.drop 36).take 20, checksum := fieldAt l 56 4 }

/-- A list cut or filled with zeros to n bytes. -/
def padTo (n : Nat) (l : List Byte) : List Byte := (l ++ List.replicate n 0).take n

/-- Header bytes 0 to 59. -/
def hdrBody (h : TileHdr) : List Byte :=
  leBytes 2 h.tag ++ leBytes 1 h.format ++ leBytes 1 h.layout ++ leBytes 2 h.dim0 ++ leBytes 2 h.dim1
    ++ leBytes 2 h.pitch ++ leBytes 2 h.flags ++ leBytes 4 h.len ++ leBytes 8 h.obj ++ leBytes 4 h.index
    ++ leBytes 4 h.version ++ leBytes 2 h.ws ++ leBytes 1 h.home ++ [0] ++ padTo 20 h.aux ++ leBytes 4 h.checksum

/-- The 64 bytes of a header, with its HDR_CRC. -/
def hdrBytes (h : TileHdr) : List Byte := hdrBody h ++ leBytes 4 (crc32c (hdrBody h))

/-- The tag of every tile. -/
def tileTag : Nat := 0x7E11

/-- A tile of a header and a payload: PAYLOAD_LEN and CHECKSUM filled in, padded to 32 KiB. -/
def tileBytes (h : TileHdr) (payload : List Byte) : List Byte :=
  padTo tileSize (hdrBytes { h with tag := tileTag, len := payload.length, checksum := crc32c payload } ++ payload)

/-- FLAGS bits of a tile. -/
def flagReadOnly : Nat := 1
def flagWeight : Nat := 2
def flagResharded : Nat := 4
def flagLentCopy : Nat := 8
def flagIncomplete : Nat := 16

/-- The geometry of R245: PITCH × (DIM0 − 1) plus one row within PAYLOAD_LEN. -/
def geometryOk (h : TileHdr) : Bool := decide (h.pitch * (h.dim0 - 1) + rowBytes h.format h.dim1 ≤ h.len)

/-- The ranges of R244 and the geometry of R245. -/
def hdrRangesOk (h : TileHdr) : Bool :=
  decide (bitsOf h.format 4 0 ≤ 0x10) && decide (h.layout ≤ 7) && decide (1 ≤ h.dim0) && decide (h.dim0 ≤ 32704)
    && decide (1 ≤ h.dim1) && decide (h.dim1 ≤ 32704) && decide (h.len ≤ 32704) && geometryOk h

/-- The checks of a tile at install (R244): TAG, HDR_CRC, the ranges, and CHECKSUM where it is on. -/
def installOk (checkSum : Bool) (l : List Byte) : Bool :=
  let h := hdrOf l
  decide (h.tag = tileTag) && decide (fieldAt l 60 4 = crc32c (l.take 60)) && hdrRangesOk h
    && (!checkSum || decide (h.checksum = crc32c ((l.drop 64).take h.len)))

/-- The payload of a tile. -/
def payloadOf (l : List Byte) : List Byte := (l.drop 64).take (hdrOf l).len

/-! ### Reshard descriptor (Table CK-6) -/

/-- The reshard descriptor that 32 bytes spell, with its index in the table. -/
def rsdOf (i : Nat) (l : List Byte) : Rsd :=
  { index := i, format := fieldAt l 2 1, rank := fieldAt l 3 1,
    dims := [fieldAt l 4 2, fieldAt l 6 2, fieldAt l 8 2, fieldAt l 10 2],
    srcAxis := fieldAt l 12 1, srcParts := fieldAt l 13 1, dstAxis := fieldAt l 14 1, dstParts := fieldAt l 15 1,
    dstLayout := fieldAt l 16 1, qmap := fieldAt l 17 1, dstObj := fieldAt l 20 8 }

/-- Extent of an axis. -/
def Rsd.ext (r : Rsd) (a : Nat) : Nat := r.dims.getD a 1

/-- The cases of R264 that the descriptor's bytes alone show. -/
def rsdBad (i : Nat) (l : List Byte) : Bool :=
  let r := rsdOf i l
  decide (fieldAt l 0 2 ≠ i) || decide (fieldAt l 18 2 ≠ 0) || decide (fieldAt l 28 4 ≠ 0)
    || decide (r.rank = 0) || decide (4 < r.rank)
    || (List.range 4).any (fun a => if a < r.rank then r.ext a == 0 else r.ext a != 1)
    || decide (0x10 ≤ r.format)
    || decide (r.rank ≤ r.srcAxis) || decide (r.rank ≤ r.dstAxis)
    || decide (r.srcParts = 0) || decide (4 < r.srcParts) || decide (r.dstParts = 0) || decide (4 < r.dstParts)
    || (decide (r.srcParts ≠ 0) && decide (r.ext r.srcAxis % r.srcParts ≠ 0))
    || (decide (r.dstParts ≠ 0) && decide (r.ext r.dstAxis % r.dstParts ≠ 0))
    || !(decide (r.dstLayout ≤ 3) || decide (r.dstLayout = 7))

/-! ### Completion record (Table WK-3) -/

/-- A completion record. -/
structure Record where
  outcome : Nat
  tag : Nat
  wsRing : Nat
  flags : Nat
  cause : Nat
  preempts : Nat
  endTick : Nat
  startDelta : Nat
  submitDelta : Nat
  snap : Snap
deriving DecidableEq, Repr, Inhabited

/-- Its 32 bytes. -/
def Record.bytes (r : Record) : List Byte :=
  leBytes 2 r.outcome ++ leBytes 2 r.tag ++ leBytes 1 r.wsRing ++ leBytes 1 r.flags ++ leBytes 1 r.cause
    ++ leBytes 1 r.preempts ++ leBytes 8 r.endTick ++ leBytes 4 r.startDelta ++ leBytes 4 r.submitDelta
    ++ leBytes 1 r.snap.unit ++ leBytes 1 r.snap.claim ++ leBytes 1 r.snap.headroom ++ leBytes 1 r.snap.op
    ++ leBytes 2 r.snap.pending ++ leBytes 2 0

/-! ### Address regions (Table REG-6) -/

/-- What a device physical address names. -/
inductive Region where
  | hbm | casket | locket (n : Nat) | guest | peer (p : Nat) | alias_ (n : Nat) | host | flash | mirror | reserved
deriving DecidableEq, Repr, Inhabited

/-- The region of a device physical address. -/
def regionOf (part : Part) (a : Nat) : Region :=
  if a < hbmSize then .hbm
  else if within a 1 casketBase casketSize then .casket
  else if decide (part = .pmx7241) && within a 1 guestBase guestSlotSize then .guest
  else if 0x0200_0000_0000 ≤ a ∧ a < 0x0240_0000_0000 then
    (let n := (a - 0x0200_0000_0000) / 0x0010_0000_0000
     if within a 1 (locketBase n) locketSize then .locket n else .reserved)
  else if 0x0400_0000_0000 ≤ a ∧ a < 0x0600_0000_0000 then .peer ((a - 0x0400_0000_0000) / peerSize)
  else if 0x0600_0000_0000 ≤ a ∧ a < 0x0640_0000_0000 then
    (let n := (a - 0x0600_0000_0000) / 0x0010_0000_0000
     if within a 1 (aliasBase n) locketSize then .alias_ n else .reserved)
  else if within a 1 hostBase hostWinSize then .host
  else if within a 1 flashBase flashWinSize then .flash
  else if within a 1 mirrorBase 0x40_0000 then .mirror
  else .reserved

/-- The tier an address lies in (Table REG-6); none for the register mirror, the lent aliases and reserved ranges. -/
def regionTier : Region → Option Nat
  | .hbm => some 2
  | .casket => some 1
  | .locket _ => some 0
  | .guest => some 3
  | .peer _ => some 3
  | .host => some 4
  | .flash => some 5
  | _ => none

/-! ### Plans (Table WK-4) -/

/-- Scheduler units 0 to 16. -/
def unitCount : Nat := 17

/-- The page of a scheduler unit (Table WK-4). -/
def pageOfUnit (u : Nat) : Nat :=
  if u < 4 then pgFct u 0 else if u < 8 then pgFct (u - 4) 0
  else if u < 10 then pgLp (u - 8) else if u < 12 then pgGse (u - 10) else if u < 14 then pgIse (u - 12)
  else if u = 14 then 0x078 else if u = 15 then 0x090 else pgCl 3

/-- The completion source of a scheduler unit (Table TCK-1). Filigree has none. -/
def sourceOfUnit (u : Nat) : Option Nat :=
  if u < 4 then some (48 + u) else if u < 8 then some (48 + (u - 4))
  else if u < 10 then some (52 + (u - 8)) else if u < 12 then some (54 + (u - 10))
  else if u < 14 then some (56 + (u - 12)) else if u = 15 then some 60 else if u = 16 then some 62 else none

/-- Facets a list of unit claims names, one bit each. -/
def facetsOf (est : List (Nat × Nat)) : Nat :=
  (List.range 4).foldl (fun m f => if est.any (fun e => e.1 == f || e.1 == 4 + f) then m + 2 ^ f else m) 0

/-- The objects a plan step reads. -/
def stepInputs : PlanStep → List Nat
  | .phase _ _ _ _ ins _ _ _ _ => ins.map (·.1)
  | .gather _ ids _ _ _ => [ids]
  | .update _ ids grads => [ids, grads]
  | .put _ ids values => [ids, values]
  | .search _ _ _ _ _ _ inObj _ => [inObj]
  | .merge _ _ _ n inObj _ => if inObj = 0 then [] else (List.range n).map (inObj + ·)
  | .solve => []
  | .filter _ _ _ _ inObj _ => [inObj]

/-- The objects a plan step writes. -/
def stepOutputs : PlanStep → List Nat
  | .phase _ _ _ _ _ _ out _ _ => [out]
  | .gather _ _ out _ _ => [out]
  | .search _ _ _ _ _ _ _ out => [out]
  | .merge _ _ _ _ _ out => [out]
  | .filter _ _ _ _ _ out => [out]
  | _ => []

/-- The reshard descriptors a plan names. -/
def planRsds (p : Plan) : List Nat :=
  p.steps.filterMap (fun st => match st with
    | .phase _ _ _ _ _ _ _ _ r => r
    | _ => none)

/-- Facet sets a tensor-parallel phase may name (R333): 2, 3 or 4 Facets contiguous in the ring, over links the part
has. -/
def ringSetOk (part : Part) (set : Nat) : Bool :=
  if part = .pmx7240 then [3, 6, 12, 9, 7, 14, 13, 11, 15].contains set else [3, 6, 7].contains set

/-- A plan image has a tensor-parallel phase that needs a Facet at position 3 of a part without one (R48). -/
def planAbsent (part : Part) (p : Plan) : Bool :=
  decide (part = .pmx7241) && p.steps.any (fun st => match st with
    | .phase set _ tp _ _ _ _ _ _ => tp && bit set 3
    | _ => false)

/-- The core group of Table FCT-1 that takes a format as a product's operand: 1 wide, 2 byte, 3 nibble; 0 none. -/
def tensorGroup (fmt : Nat) : Nat :=
  if fmt = 0x01 ∨ fmt = 0x02 then 1
  else if [0x03, 0x04, 0x05, 0x06, 0x08, 0x0C].contains fmt then 2
  else if fmt = 0x07 ∨ fmt = 0x09 ∨ fmt = 0x0D then 3 else 0

/-- A format of integers that the tensor cores multiply. -/
def tensorInt (fmt : Nat) : Bool := fmt == 0x0C || fmt == 0x0D

/-- The tensor cores issue products of two formats: of one group, both integer or both floating-point (R320, R325). -/
def productOk (p : Nat × Nat) : Bool :=
  tensorGroup p.1 != 0 && tensorGroup p.1 == tensorGroup p.2 && tensorInt p.1 == tensorInt p.2

/-- A plan has a product that the tensor cores do not issue (R325). -/
def mixedOperands (p : Plan) : Bool :=
  p.steps.any (fun st => match st with
    | .phase _ _ _ _ _ prods _ _ _ => !prods.all productOk
    | _ => false)

/-- A model section with a field outside its range (Table FCT-5; log entry 6). -/
def sectionBad (m : ModelSection) : Bool :=
  decide (m.phases.length = 0) || decide (16 < m.phases.length) || decide (m.origin < 2) || decide (5 < m.origin)

/-- A plan image that R325 or R333 calls malformed. One that asks for the absent Facet ends as R48 says (log entry 86). -/
def planBad (part : Part) (p : Plan) : Bool :=
  mixedOperands p || p.model.any sectionBad || p.steps.any (fun st => match st with
    | .phase set _ tp _ _ _ _ _ _ => tp && !ringSetOk (if bit set 3 then .pmx7240 else part) set
    | _ => false)

/-- A model section from its bytes; its layers and the prefetch depth, which no table lays out, are those of another (Table FCT-5). -/
def modelOf (b : List Byte) (m : ModelSection) : ModelSection :=
  { wTiles := fieldAt b 0 4, a0Tiles := fieldAt b 4 2, a1Tiles := fieldAt b 6 2, winTiles := fieldAt b 8 4, origin := fieldAt b 12 1,
    facetSet := fieldAt b 13 1, depth := m.depth,
    phases := (List.range (fieldAt b 14 1)).map (fun p => {
      cTicks := fieldAt b (16 + 12 * p) 4, wTiles := fieldAt b (20 + 12 * p) 4, keepRank := fieldAt b (24 + 12 * p) 4,
      layers := match m.phases[p]? with
        | some x => x.layers
        | none => [] }) }

/-- A schedule section from its bytes, with the pattern that its PATTERN_OBJ compiles (Table ISE-1). -/
def scheduleOf (b : List Byte) (pattern : List (List Nat)) : IseSchedule :=
  { n := fieldAt b 0 4, nnz := fieldAt b 4 4, prec := fieldAt b 8 1, block := fieldAt b 9 1, factorTier := fieldAt b 10 1,
    nnzL := fieldAt b 12 4, levelsF := fieldAt b 16 2, levelsB := fieldAt b 18 2, maxIter := fieldAt b 20 2, tol := fieldAt b 24 4,
    cIt := fieldAt b 28 4, cSetup := fieldAt b 32 4, patternObj := fieldAt b 36 8, pattern := pattern }

/-- A Loupe step from its record (Table LP-8). -/
def loupeStepOf (b : List Byte) : PlanStep :=
  if fieldAt b 0 1 = 2 then
    .merge (bit (fieldAt b 3 1) 0) (fieldAt b 4 2) (fieldAt b 12 2) (fieldAt b 14 1) (fieldAt b 16 8) (fieldAt b 24 8)
  else .search (decide (fieldAt b 1 1 = 1)) (fieldAt b 2 1) (fieldAt b 4 2) (fieldAt b 6 2) (fieldAt b 8 2) (fieldAt b 10 2)
    (fieldAt b 16 8) (fieldAt b 24 8)

/-- The plan of an image: the sections and records that the tables lay out are read from its bytes (log entry 6). -/
def planOfBytes (b : List Byte) : Plan :=
  let p := Config.planOfImage b
  { units := p.units
    steps := p.steps.zipIdx.map (fun x => match x.1 with
      | .search _ _ _ _ _ _ _ _ => loupeStepOf (b.drop (Config.recordOffset b x.2))
      | .merge _ _ _ _ _ _ => loupeStepOf (b.drop (Config.recordOffset b x.2))
      | st => st)
    model := p.model.map (fun m => modelOf (b.drop (Config.modelOffset b)) m)
    ise := p.ise.map (fun c => scheduleOf (b.drop (Config.scheduleOffset b)) c.pattern) }

end Sys2Proof.Machine
end

