-- ==== Sys2Proof/Machine/Flags.lean ====
section
/-! DEFINITION. Outcome codes and every status computation: outcome precedence, the final outcome of valid work, the
record flags, the conditions of the guarantee, capacity figures. -/

namespace Sys2Proof.Machine

/-! ### Outcome codes (Table SCOPE-5) -/

def ocDone : Nat := 0x0000
def ocDoneLate : Nat := 0x0001
def ocDeferred : Nat := 0x0100
def ocRefusedCapacity : Nat := 0x0101
def ocRefusedQuota : Nat := 0x0102
def ocRefusedClass : Nat := 0x0103
def ocDeadlineMissed : Nat := 0x0200
def ocPreempted : Nat := 0x0201
def ocTierLate : Nat := 0x0300
def ocTierFailed : Nat := 0x0301
def ocUnitOffline : Nat := 0x0302
def ocNumericNan : Nat := 0x0400
def ocZeroPivot : Nat := 0x0401
def ocModelExceeds : Nat := 0x0500
def ocModelStreamed : Nat := 0x0501
def ocLinkFatal : Nat := 0x0600
def ocLinkTimeout : Nat := 0x0601
def ocFaultDetected : Nat := 0x0F00

/-- The code that a record carries of two causes in one tick: the highest class byte, then the lowest code (R18). -/
def ocWorse (a b : Nat) : Nat :=
  if a / 256 < b / 256 then b else if b / 256 < a / 256 then a else if a ≤ b then a else b

/-- The outcome of work that ends with valid outputs in tick `now` (R304, R308, R309): DEFERRED where the overload rules
held it, DEADLINE_MISSED for FRAME past its deadline, DONE_LATE for MAP past its deadline, else DONE. -/
def finalOutcome (cls deadline now : Nat) (overload : Bool) : Nat :=
  if cls = 0 ∧ deadline < now then ocDeadlineMissed
  else if overload then ocDeferred
  else if cls = 1 ∧ deadline ≠ 0 ∧ deadline < now then ocDoneLate
  else ocDone

/-- FLAGS of a completion record (Table WK-3). -/
def recordFlags (cls : Nat) (loan overload : Bool) : Nat := cls % 4 + 4 * b2n loan + 8 * b2n overload

/-- CAUSE bits a Facet sets in the record of valid work (R330). -/
def causeNonfinite : Nat := 1
def causeSaturated : Nat := 2
def causeRecomputed : Nat := 4

/-! ### The guarantee (Table FLT-1) -/

/-- Whether any rail's ±3 % excursion has lasted 2 consecutive ticks, or a Facet or Crown temperature is at or above
105 °C, or REFCLK_25 is absent (condition 4). -/
def State.outOfConditions (s : State) : Bool :=
  s.pwr.rails3.any (fun e => decide (2 ≤ e.2) && !(decide (s.part = .pmx7241) && decide (e.1 = 11)))
    || !s.on BZ_AON.AON_STAT_REF_PRESENT
    || (List.range 16).any (fun i => decide (105 * 16 ≤ toSigned 16 (s.rd (BZ_THERM.SENS_VALUE i))))

/-- COND_FAIL: one bit for each condition of Table FLT-1 that fails. -/
def State.condFail (s : State) : Nat :=
  b2n (!s.sentinel) + 2 * b2n (!s.on CK_CTRL.SCRUB_CTRL_EN)
    + 4 * b2n ((List.range 4).any (fun h => !s.on (HBM.PATROL_CTRL_EN h)))
    + 8 * b2n (decide (s.rd DEV.FW_VER < s.rd BZ_FAULT.FW_MIN))
    + 16 * b2n s.outOfConditions

/-- The conditions are evaluated at the start of a tick: COND_FAIL and OK follow them; a fall of OK sets LOST and
LOST_TICK and raises GUARANTEE_LOST (R620, R625, R654). -/
def State.guaranteeCheck (s : State) : State :=
  let c := s.condFail
  let was := s.on BZ_FAULT.GUARANTEE_OK
  let s1 := (s.wr BZ_FAULT.GUARANTEE_COND_FAIL c).wr BZ_FAULT.GUARANTEE_OK (b2n (c == 0))
  if was && c != 0 then
    ((s1.setW1c BZ_FAULT.GUARANTEE_LOST 1).wr64 BZ_FAULT.LOST_TICK_LO BZ_FAULT.LOST_TICK_HI s.tick).raiseIrq 0x003 1
  else s1

/-! ### Capacity (Table WK-4, R342, R344) -/

/-- HORIZON as it counts. -/
def State.horizon (s : State) : Nat := if s.rd WK_SCHED.HORIZON < 1000 then 1000 else s.rd WK_SCHED.HORIZON

/-- Tensor cores of a Facet that are enabled and not out (TC_AVAIL). -/
def State.tcAvail (s : State) (f : Nat) : Nat :=
  ((List.range 8).filter (fun t => s.bitOn (FCT0.TC_EN f) t && !s.bitOn (FCT0.TC_OUT f) t)).length

/-- C_u: the capacity of a unit over the horizon. -/
def State.capacity (s : State) (u : Nat) : Nat :=
  if u < 4 then s.horizon * opMHz (s.facetOp u) * s.tcAvail u / (2000 * 8)
  else if u < 8 then
    s.horizon * opMHz (s.facetOp (u - 4)) / (if s.on (FCT0.VC_PAIRED (u - 4)) then 4000 else 2000)
  else if u < 10 then (if s.sentinel then s.horizon / 2 else s.horizon)
  else s.horizon

/-- Remaining estimate on one unit. -/
def estOn (est : List (Nat × Nat)) (u : Nat) : Nat :=
  est.foldl (fun n e => if e.1 = u then n + e.2 else n) 0

/-- What peers' work is charged to the MAP claim of a workspace on a unit, or of all on it, in thousandths of a unit-tick, the cost units
of R365 (R389, R433). -/
def State.chargeOf (s : State) (w : Option Nat) (u : Nat) : Nat :=
  s.sch.charges.foldl (fun n e => if w.all (fun x => x == e.1) ∧ e.2.1 = u then n + e.2.2 else n) 0

/-- Q(w, c, u): remaining estimates of a workspace's requests of a class on a unit, and for MAP what peers' work is charged
(R296, R389). -/
def State.claimOf (s : State) (w c u : Nat) : Nat :=
  s.sch.reqs.foldl (fun n e => if e.2.ws = w ∧ e.2.cls = c then n + estOn e.2.est u else n)
    (if c = 1 then ceilDiv (s.chargeOf (some w) u) 1000 else 0)

/-- The claims of every workspace and class on a unit. -/
def State.claimAll (s : State) (u : Nat) : Nat :=
  s.sch.reqs.foldl (fun n e => n + estOn e.2.est u)
    (ceilDiv (s.chargeOf none u) 1000)

/-- A unit is fenced, faulted or absent (R298). -/
def State.unitOut (s : State) (u : Nat) : Bool :=
  let p := pageOfUnit u
  match s.bst p with
  | .fenced => true
  | .faulted => true
  | _ => if u < 8 then !s.hasFacet (u % 4)
         else if u = 16 then !(decide (s.part = .pmx7241) && s.guest.accepted && decide (s.guest.cls = 1))
         else false

/-- The cause of UNIT_OFFLINE at admission: 0x01 fenced or faulted, 0x03 absent (Table WK-3). -/
def State.unitOutCause (s : State) (u : Nat) : Nat :=
  if u < 8 then (if s.hasFacet (u % 4) then 1 else 3)
  else if u = 16 then (if s.part = .pmx7241 then (match s.bst (pgCl 3) with
      | .fenced => 1
      | .faulted => 1
      | _ => 3) else 3)
  else 1

/-- Pending descriptors of a ring (R286). -/
def State.ringSize (s : State) (w r : Nat) : Nat :=
  let k := s.rd (WS.RING_CFG_LOG2 w r)
  2 ^ (if 4 ≤ k ∧ k ≤ 12 then k else 4)

def State.ringPending (s : State) (w r : Nat) : Nat :=
  let n := s.ringSize w r
  (s.rd (WS.RING_TAIL w r) + n - s.rd (WS.RING_HEAD w r) % n) % n

/-- Records of a completion ring. -/
def State.cplSize (s : State) (w : Nat) : Nat :=
  let k := s.rd (WS.CPL_CFG_LOG2 w)
  2 ^ (if 4 ≤ k ∧ k ≤ 14 then k else 4)

/-- Free slots of a completion ring, less those reserved (R294). -/
def State.cplFree (s : State) (w : Nat) : Nat :=
  let n := s.cplSize w
  (s.rd (WS.CPL_RD_IDX w) + 2 * n - 1 - s.rd (WS.CPL_WR_IDX w)) % n - mapGet (fun _ => 0) s.sch.reserved w

/-! ### Rounding and ranges used by several pages -/

/-- A field value of 0 taken as 1. -/
def atLeast1 (v : Nat) : Nat := if v = 0 then 1 else v

end Sys2Proof.Machine
end

