-- ==== Sys2Proof/Machine/Tiles.lean ====
section
/-! DEFINITION. The Casket's directory: tile slots and their quotas, the shared pool and eviction, objects and their
tiles, fetches by the tier movers, lent Lockets (R237 to R275, R665, R666). -/

namespace Sys2Proof.Machine

/-! ### Capacity, quotas and the pool (R251, Table CK-4) -/

/-- Tiles the row cache takes from the Casket: RC_SIZE, values above 6,144 taken as 6,144 (R369). -/
def State.rowCacheTiles (s : State) : Nat := clampNat 0 6144 (s.rd ROWCACHE.RC_SIZE)

/-- Tiles at HBM's top that the T2 pool lacks: LEND_T2_TILES, or, from 5,000 ticks after a LEND_RECLAIM on, only those down to the
lowest one still granted (R272, R570; log entry 101). -/
def State.lentTiles (s : State) : Nat :=
  match s.fab.recalled with
  | none => s.rd CK_TIER.LEND_T2_TILES
  | some t =>
    if s.tick < t + 5000 then s.rd CK_TIER.LEND_T2_TILES
    else s.fab.peers.foldl (fun n e => match e.2.grant with
      | some g => g.places.foldl (fun m a => max m (3145728 - a / tileSize)) n
      | none => n) 0

/-- Tier capacity in tiles of T1 and T2, and of one Locket for T0. -/
def State.tierCap (s : State) (tier : Nat) : Nat :=
  if tier = 1 then 8192 - 512 - s.rowCacheTiles
  else if tier = 2 then 3145728 - s.lentTiles
  else 2048

/-- A workspace's quota in a tier (Table CK-10). -/
def State.quota (s : State) (w tier : Nat) : Nat :=
  if tier = 0 then s.rd (CK_QUOTA.QUOTA_T0 w)
  else if tier = 1 then s.rd (CK_QUOTA.QUOTA_T1 w) else s.rd (CK_QUOTA.QUOTA_T2 w)

/-- Whether a slot counts in a tier; for T0, in Locket f. Keep-region tiles count nowhere (R237). -/
def slotIn (tier f a : Nat) (e : Slot) : Bool :=
  !e.keep && decide (e.tier = tier) && (decide (tier ≠ 0) || within a 1 (locketBase f) locketSize)

/-- Tiles of a workspace in a tier. -/
def State.used (s : State) (w tier f : Nat) : Nat :=
  mapCount (fun a e => slotIn tier f a e && decide (e.ws = w)) s.ck.slots

/-- Of these, pool borrowings. -/
def State.borrows (s : State) (w tier : Nat) : Nat :=
  mapCount (fun a e => slotIn tier 0 a e && decide (e.ws = w) && e.borrowed) s.ck.slots

/-- Sum of all quotas in a tier. -/
def State.quotaSum (s : State) (tier : Nat) : Nat :=
  (List.range 64).foldl (fun n w => n + s.quota w tier) 0

/-- Pool size and tiles borrowed in T1 or T2. -/
def State.poolSize (s : State) (tier : Nat) : Nat := s.tierCap tier - s.quotaSum tier
def State.poolUsed (s : State) (tier : Nat) : Nat :=
  mapCount (fun a e => slotIn tier 0 a e && e.borrowed) s.ck.slots

/-- A workspace's pinned tiles in a tier (R350), with those that its accepted loads still have to take (R354). -/
def State.pinned (s : State) (w tier f : Nat) : Nat :=
  s.sch.reqs.foldl (fun n e => if e.2.ws = w ∧ e.2.op = opLoadPlan then
      n + (e.2.want.filter (fun x => decide (x.tier = tier) && (decide (tier ≠ 0) || decide (x.locket = f)))).length
    else n) (mapCount (fun a e => slotIn tier f a e && decide (e.ws = w) && e.pin.isSome) s.ck.slots)

/-- A slot that may be evicted: no admitted request holds it, no plan slot pins it, no write-back runs (R252, R351). -/
def Slot.idle (e : Slot) : Bool := e.holders.isEmpty && e.pin.isNone && !e.writeback && !e.keep

/-- A pool tile that the pool steps may evict: a copy, or a home tile of an object allocated with LOSS_OK (R252). -/
def Slot.poolVictim (e : Slot) : Bool := e.borrowed && e.idle && (e.copy || e.lossOk)

/-- A slot is the home of an object that an admitted request keeps (R252, R292). -/
def State.keptHome (s : State) (e : Slot) : Bool :=
  !e.copy && s.sch.reqs.any (fun q => decide (q.2.ws = e.ws) && q.2.held.contains e.obj)

/-- A fetch under way is to fill a slot. -/
def State.filling (s : State) (a : Nat) : Bool := s.ck.fetches.any (fun e => decide (e.2.dest = some a))

/-- The oldest slot for which p holds; ties go to the lower address (R252). -/
def State.oldest (s : State) (p : Nat → Slot → Bool) : Option Nat :=
  (s.ck.slots.foldl (fun (b : Option (Nat × Nat)) e =>
    if p e.1 e.2 then
      (match b with
       | none => some (e.1, e.2.age)
       | some (a, g) => if e.2.age < g then some (e.1, e.2.age) else some (a, g))
    else b) none).map (·.1)

/-- The most recently used slot for which p holds (R254). -/
def State.newest (s : State) (p : Nat → Slot → Bool) : Option Nat :=
  (s.ck.slots.foldl (fun (b : Option (Nat × Nat)) e =>
    if p e.1 e.2 then
      (match b with
       | none => some (e.1, e.2.age)
       | some (a, g) => if g < e.2.age then some (e.1, e.2.age) else some (a, g))
    else b) none).map (·.1)

/-- The state with the Casket's directory replaced. -/
def State.setCk (s : State) (c : Ck) : State := { s with ck := c }

/-- The state with one slot's record set. -/
def State.putSlot (a : Nat) (e : Slot) (s : State) : State :=
  s.setCk { s.ck with slots := mapInsert s.ck.slots a e }

/-- The state with one slot's record changed. -/
def State.modSlot (a : Nat) (f : Slot → Slot) (s : State) : State :=
  s.setCk { s.ck with slots := mapModify f s.ck.slots a }

/-- A tile slot's record is removed. -/
def State.eraseSlot (a : Nat) (s : State) : State := s.setCk { s.ck with slots := mapErase s.ck.slots a }

/-- A tile slot is freed; where it was quota-backed, the workspace's most recently used borrowing in the same tier
becomes quota-backed (R254). -/
def State.dropSlot (a : Nat) (s : State) : State :=
  match mapFind s.ck.slots a with
  | none => s
  | some e =>
    let s := s.eraseSlot a
    if e.borrowed || e.keep || e.tier == 0 then s
    else match s.newest (fun b x => slotIn e.tier 0 b x && decide (x.ws = e.ws) && x.borrowed) with
      | some b => s.modSlot b (fun x => { x with borrowed := false })
      | none => s

/-! ### Objects -/

/-- How a request with CTRL.ADDR = 1 names n tiles from an address (R248): a number beyond every object ID. -/
def addrName (a n : Nat) : Nat := n * 2 ^ 64 + a

/-- The tier of an address; 6 where requests may not reach (R102). -/
def tierOfAddr (part : Part) (a : Nat) : Nat := (regionTier (regionOf part a)).getD 6

/-- The tiles an address names, as an object of its own (R248). -/
def addrObj (part : Part) (w id : Nat) : Obj :=
  let a := id % 2 ^ 64
  { ws := w, id := id, tiles := id / 2 ^ 64, home := tierOfAddr part a, place := 0,
    addrs := (List.range (id / 2 ^ 64)).map (fun i => a + i * tileSize), lost := false, freedBy := none }

/-- The object a workspace holds under an identifier, or the tiles an address names. -/
def State.objOf (s : State) (w id : Nat) : Option Obj :=
  if 2 ^ 64 ≤ id then some (addrObj s.part w id)
  else s.ck.objs.find? (fun o => decide (o.ws = w) && decide (o.id = id))

/-- The state with an object's record changed. -/
def State.modObj (w id : Nat) (f : Obj → Obj) (s : State) : State :=
  s.setCk { s.ck with objs := s.ck.objs.map (fun o => if o.ws = w ∧ o.id = id then f o else o) }

/-- An object loses its data: it is marked LOST and counted (R253). -/
def State.loseObj (w id : Nat) (s : State) : State :=
  (s.modObj w id (fun o => { o with lost := true })).inc CK_QUOTA.LOST_CNT

/-- The tile of an object that a slot holds as a copy in a tier. -/
def State.copyOf (s : State) (w id i tier : Nat) : Option Nat :=
  (s.ck.slots.find? (fun e => decide (e.2.ws = w) && decide (e.2.obj = id) && decide (e.2.tile = i)
    && decide (e.2.tier = tier) && e.2.copy)).map (·.1)

/-- Where engines read a tile of an object: its copy in T1, else its home in T0, T1 or the keep region, else its copy in a
Locket (R247). -/
def State.tileAddr (s : State) (w id i : Nat) : Option Nat :=
  match s.copyOf w id i 1 with
  | some a => some a
  | none =>
    match s.objOf w id with
    | none => none
    | some o => if o.home ≤ 1 then o.addrs[i]? else s.copyOf w id i 0

/-- The 32 KiB of a tile an engine reads, if it lies in T0 or T1 and is neither being fetched nor LOST. -/
def State.tileBytesOf (s : State) (w id i : Nat) : Option (List Byte) :=
  match s.tileAddr w id i with
  | none => none
  | some a =>
    if s.ck.fetches.any (fun e => decide (e.2.dest = some a)) then none
    else match mapFind s.ck.slots a with
      | some e => if e.lost then none else some (s.dpaRead a tileSize)
      | none => some (s.dpaRead a tileSize)

/-- The object is LOST, or the tile is: its copy that engines read, or with none its home (R253, R635). -/
def State.tileLost (s : State) (w id i : Nat) : Bool :=
  (match s.objOf w id with
   | none => false
   | some o => o.lost)
  || (match (s.tileAddr w id i).orElse (fun _ => (s.objOf w id).bind (fun o => o.addrs[i]?)) with
      | none => false
      | some a => match mapFind s.ck.slots a with
        | some e => e.lost
        | none => false)

/-! ### Eviction and taking a slot (R252, R253, R666) -/

/-- Home address of a tile. -/
def State.homeAddr (s : State) (w id i : Nat) : Option Nat :=
  match s.objOf w id with
  | none => none
  | some o => o.addrs[i]?

/-- Eviction of the tile in a slot (R253): a clean copy is dropped; a dirty copy starts its write-back and the slot is
not yet free (answer false); a home tile is lost with its object. A quota-backed tile is evicted only for its slot to be
reused, so that no borrowing takes its place (R252, R254; log entry 43). -/
def State.evict (a : Nat) (s : State) : Bool × State :=
  match mapFind s.ck.slots a with
  | none => (true, s)
  | some e =>
    let s := s.inc CK_QUOTA.EVICT_CNT
    if e.copy then
      (if e.dirty then (false, s.modSlot a (fun x => { x with writeback := true }))
       else (true, s.eraseSlot a))
    else (true, (s.loseObj e.ws e.obj).eraseSlot a)

/-- Quadrant of a Casket address. -/
def quadOf (a : Nat) : Nat := (a - casketBase) / 0x0400_0000

/-- Quadrants in the order QUAD asks for (R666): itself, its two neighbours with the lower first, the opposite. -/
def quadOrder (q : Nat) : List Nat :=
  let a := (q + 1) % 4
  let b := (q + 3) % 4
  [q % 4, if a ≤ b then a else b, if a ≤ b then b else a, (q + 2) % 4]

/-- The lowest free slot among n from a base. -/
def State.freeIn (s : State) (base n : Nat) : Option Nat :=
  let used := mapKeys (fun a _ => within a 1 base (n * tileSize)) s.ck.slots
  (firstIdx (fun i => !used.contains (base + i * tileSize))
    (List.range (clampNat 0 n (used.length + 1)))).map (fun i => base + i * tileSize)

/-- Tile slots of T1 in quadrant q, less the keep region of Q0; the row cache takes the top of Q3 and on down
(log entry 22). -/
def State.t1Range (s : State) (q : Nat) : Nat × Nat :=
  let lo := if q = 0 then 512 else 2048 * q
  let top := 8192 - s.rowCacheTiles
  let hi := clampNat lo (2048 * (q + 1)) top
  (casketBase + lo * tileSize, hi - lo)

/-- A free slot of a tier: in Locket f for T0; in QUAD's order for T1 where QUAD_EN is 1, else the lowest; the lowest of
HBM for T2. -/
def State.freeSlot (s : State) (tier f place : Nat) : Option Nat :=
  if tier = 0 then s.freeIn (locketBase f) 2048
  else if tier = 1 then
    (let order := if placeQuadEn place then quadOrder (placeQuad place) else [0, 1, 2, 3]
     order.foldl (fun r q => match r with
       | some a => some a
       | none => s.freeIn (s.t1Range q).1 (s.t1Range q).2) none)
  else s.freeIn 0 (s.tierCap 2)

/-- How a demand for a tile slot ends: a slot, and whether it is a pool borrowing; a wait for the write-back of a slot;
or a refusal with its outcome. -/
inductive SlotAns where
  | got (a : Nat) (borrowed : Bool)
  | wait (a : Nat) (borrowed : Bool)
  | refuse (outcome : Nat)
deriving DecidableEq, Repr

/-- The workspace is in HINT mode. -/
def State.hintMode (s : State) (w : Nat) : Bool := !s.on (CK_QUOTA.PLACE_MODE w)

/-- The slot that an eviction makes free, or the wait for it. -/
def State.reuse (a : Nat) (borrowed : Bool) (s : State) : SlotAns × State :=
  match s.evict a with
  | (true, t) => (.got a borrowed, t)
  | (false, t) => (.wait a borrowed, t)

/-- An over-full pool evicts idle pool tiles, oldest first; one being written back is on its way out (R256). -/
def State.trimPool (tier : Nat) : Nat → State → State
  | 0, s => s
  | n + 1, s =>
    if s.poolSize tier + mapCount (fun a e => slotIn tier 0 a e && e.borrowed && e.writeback) s.ck.slots < s.poolUsed tier then
      (match s.oldest (fun a e => slotIn tier 0 a e && e.poolVictim && !s.keptHome e && !s.filling a) with
       | some a => State.trimPool tier n (s.evict a).2
       | none => s)
    else s

/-- Tiles of a pool that a lowered quota has over-filled are evicted as they become idle (R256). -/
def State.trimPools (s : State) : State :=
  if s.ck.slots.any (fun e => e.2.borrowed) then
    State.trimPool 2 s.ck.slots.length (State.trimPool 1 s.ck.slots.length s)
  else s

/-- A tile of workspace w is needed in tier T1 or T2: the first rule of R252 that applies. -/
def State.takeTile (w tier place : Nat) (poolOk : Bool) (s : State) : SlotAns × State :=
  let free := s.freeSlot tier 0 place
  let poolFree := decide (s.poolUsed tier < s.poolSize tier)
  let idlePool := s.oldest (fun a e => slotIn tier 0 a e && e.poolVictim && !s.keptHome e && !s.filling a)
  let idleCopy := s.oldest (fun a e => slotIn tier 0 a e && decide (e.ws = w) && !e.borrowed && e.copy && e.idle && !s.filling a)
  if s.used w tier 0 < s.quota w tier then
    (match free with
     | some a => (.got a false, s)
     | none => match idlePool with
       | some a => s.reuse a false
       | none => (.refuse ocRefusedQuota, s))
  else if poolOk && poolFree && free.isSome then (.got (free.getD 0) true, s)
  else match (if poolOk then idlePool else none) with
    | some a => s.reuse a true
    | none =>
      match (if s.hintMode w then idleCopy else none) with
      | some a => s.reuse a false
      | none => (.refuse (if poolOk then ocRefusedCapacity else ocRefusedQuota), s)

/-- A tile of workspace w is needed in Locket f (R251): within quota a free slot; in HINT mode its own oldest idle copy
there; else REFUSED_QUOTA. -/
def State.takeLocket (w f : Nat) (s : State) : SlotAns × State :=
  if s.used w 0 f < s.quota w 0 then
    (match s.freeSlot 0 f 0 with
     | some a => (.got a false, s)
     | none => (.refuse ocRefusedQuota, s))
  else match (if s.hintMode w then
        s.oldest (fun a e => slotIn 0 f a e && decide (e.ws = w) && e.copy && e.idle) else none) with
    | some a => s.reuse a false
    | none => (.refuse ocRefusedQuota, s)

/-- The slot of a tier, of Locket f for T0, whose write-back a request waits for or has been freed for it. -/
def State.ownSlot (s : State) (rid tier f : Nat) : Option (Nat × Slot) :=
  s.ck.slots.find? (fun e => slotIn tier f e.1 e.2 && (match e.2.waiter with
    | some x => x.1 == rid
    | none => false))

/-- A request's demand for a slot: the one that an eviction is freeing for it, once the write-back is done; else `take` finds one, and
the request waits for that one alone where it must be written back first (R252, R253, R666). -/
def State.takeFor (rid tier f : Nat) (take : State → SlotAns × State) (s : State) : SlotAns × State :=
  match s.ownSlot rid tier f with
  | some (a, e) => if e.writeback then (.wait a e.borrowed, s) else (.got a e.borrowed, s.eraseSlot a)
  | none => match take s with
    | (.wait a b, t) => (.wait a b, t.modSlot a (fun e => { e with waiter := some (rid, b) }))
    | q => q

/-- Free slots of the keep region, lowest first (R237, R249). -/
def State.freeKeep (s : State) : Option Nat := s.freeIn casketBase 512

/-- The object of a slot that a plan has pinned and that holds no object's tile: activations and empty window slots. -/
def noObj : Nat := 2 ^ 128

/-- A slot's record for a tile. -/
def newSlot (w id i tier : Nat) (borrowed copy : Bool) (place now : Nat) (holders : List Nat) : Slot :=
  { ws := w, obj := id, tile := i, tier := tier, borrowed := borrowed, copy := copy, dirty := false, age := now,
    keep := placeKeep place && !copy, lossOk := placeLossOk place, writeback := false, lost := false,
    holders := holders, pin := none, waiter := none }

/-! ### Lent Lockets (R270, R324) -/

/-- Locket n may be lent: its enable bit, no work placed on its Facet, no workspace tile in it, its Facet not fenced. -/
def State.mayLend (s : State) (n : Nat) : Bool :=
  s.bitOn CK_TIER.LOCKET_LEND_EN n && s.hasFacet n
    && !s.sch.reqs.any (fun e => e.2.phase != .waiting && bit (facetsOf e.2.est) n)
    && !s.ck.slots.any (fun e => slotIn 0 n e.1 e.2)
    && (s.bst (pgFct n 0)).live && decide (s.pm ≤ 2)

/-- The address a fetch reads where no lent copy serves it. -/
def State.originAddr (s : State) (w id i : Nat) : Nat := (s.homeAddr w id i).getD 0

/-- A Locket that may no longer be lent is reclaimed: its copies are dropped, and fetches from it are reissued to the
origin tier with their first issue tick kept (R270). -/
def State.syncLent (s : State) : State :=
  let keep := (List.range 4).filter (fun n => s.bitOn CK_TIER.LOCKET_LENT n && s.mayLend n)
  let mask := keep.foldl (fun m n => m + 2 ^ n) 0
  let inKept := fun a => keep.any (fun n => within a 1 (aliasBase n) locketSize)
  let s := (if s.rd CK_TIER.LOCKET_LENT = mask then s else s.wr CK_TIER.LOCKET_LENT mask)
  s.setCk { s.ck with
    lent := s.ck.lent.filter (fun e => inKept e.1),
    fetches := mapAll (fun _ f =>
      if f.lent && !inKept f.src then { f with lent := false, src := s.originAddr f.ws f.obj f.tile } else f)
      s.ck.fetches }

/-- The lent copy of a tile, if a lent Locket holds one. -/
def State.lentCopy (s : State) (w id i : Nat) : Option Nat :=
  (s.ck.lent.find? (fun e => decide (e.2.ws = w) && decide (e.2.obj = id) && decide (e.2.tile = i))).map (·.1)

/-- A READ_ONLY tile installed from T2 to T5 is copied into a lent Locket that has a free slot, lowest first; with all
full, the copy whose last access is oldest is replaced, of those that no fetch is reading (R270). -/
def State.addLentCopy (w id i : Nat) (data : List Byte) (s : State) : State :=
  let lentOnes := (List.range 4).filter (fun n => s.bitOn CK_TIER.LOCKET_LENT n)
  if lentOnes.isEmpty || (s.lentCopy w id i).isSome then s
  else
    let used := s.ck.lent.map (·.1)
    let freeOf := fun n => (firstIdx (fun k => !used.contains (aliasBase n + k * tileSize))
      (List.range (clampNat 0 2048 (used.length + 1)))).map (fun k => aliasBase n + k * tileSize)
    let free := lentOnes.foldl (fun r n => match r with
      | some a => some a
      | none => freeOf n) none
    let busy := fun (a : Nat) => s.ck.fetches.any (fun f => f.2.lent && decide (f.2.src = a))
    let oldest := ((s.ck.lent.filter (fun e => !busy e.1)).foldl (fun (b : Option (Nat × Nat)) e => match b with
      | none => some (e.1, e.2.age)
      | some (a, g) => if e.2.age < g then some (e.1, e.2.age) else some (a, g)) none).map (·.1)
    match (match free with
        | some a => some a
        | none => oldest) with
    | none => s
    | some a =>
      let h := hdrOf data
      let d := tileBytes { h with flags := Nat.lor h.flags flagLentCopy } (payloadOf data)
      (s.setCk { s.ck with lent := mapInsert s.ck.lent a { ws := w, obj := id, tile := i, age := s.tick } }).dpaWrite a d

/-! ### Fetches (R266, R270, R271, R588, R591) -/

/-- Peer slots: state of a borrowed window, 0 none, 1 backed, 2 reclaiming, 3 gone (BORROW_STATE). -/
def State.borrowState (s : State) (p : Nat) : Nat :=
  bitsOf (s.rd (CK_TIER.BORROW_STATE (p / 16))) (2 * (p % 16) + 1) (2 * (p % 16))

/-- The state with a borrowed window's state. -/
def State.setBorrow (p v : Nat) (s : State) : State :=
  let f := CK_TIER.BORROW_STATE (p / 16)
  s.wr f (putBits (s.rd f) (2 * (p % 16) + 1) (2 * (p % 16)) v)

/-- A transfer with a peer has come through: its queue pair has all its retries again, and its timer starts anew (R551). -/
def State.roceProgress (p : Nat) (s : State) : State :=
  { s with fab := { s.fab with peers := mapModify (fun q => { q with retries := 0, retryTick := s.tick }) s.fab.peers p } }

/-- Whether a read of n bytes at an address can only fail: an unbacked window, a guest that is no memory (R211) or fenced, a flash
controller that is DOWN or FAILED, a range past the end of the namespace (R104, R271, R273, R588, R591). -/
def State.deadAt (s : State) (a n : Nat) : Bool :=
  match regionOf s.part a with
  | .peer p =>
    !(decide (s.borrowState p = 1) || decide (s.borrowState p = 2))
      || !(match mapFind s.fab.peers p with
        | some q => within a n (peerBase p) (q.borrowed * tileSize)
        | none => false)
  | .guest => !(s.guest.accepted && decide (s.guest.cls = 0) && (s.bst (pgCl 3)).live)
  | .flash =>
    let st := s.rd NVP.NVP_STAT_CTRL_STATE
    st == 0 || st == 3 || decide (s.rd64 NVP.NS_BYTES_LO NVP.NS_BYTES_HI < a - flashBase + n)
  | _ => false

/-- The parts of a range of addresses that each lie in one region of Table REG-6: every region is cut at multiples of 64 MiB. -/
def regionPieces (a n : Nat) : List (Nat × Nat) := hostPieces 0x0400_0000 a n

/-- Whether a fetch of a tile from an address can only fail. -/
def State.sourceDead (s : State) (a : Nat) : Bool := (regionPieces a tileSize).any (fun x => s.deadAt x.1 x.2)

/-- The late limit of a tier (R266, Table CK-9). -/
def State.lateLimit (s : State) (tier : Nat) : Nat :=
  atLeast1 (if tier = 2 then s.rd CK_TIER.LATE_T2 else if tier = 3 then s.rd CK_TIER.LATE_T3
    else if tier = 4 then s.rd CK_TIER.LATE_T4 else s.rd CK_TIER.LATE_T5)

/-- A request begins to wait on a fetch in this tick, unless it waits already (R266). -/
def Fetch.join (f : Fetch) (rid now : Nat) : Fetch :=
  if f.waits.any (fun e => e.1 == rid) then f else { f with waits := f.waits ++ [(rid, now)] }

/-- The first tile of a request that its engines read, make or write: its record's START_DELTA counts from this tick (Table WK-3). -/
def State.started (rid : Nat) (s : State) : State :=
  { s with sch := { s.sch with reqs := mapModify (fun r => { r with start := r.start.orElse (fun _ => some s.tick) }) s.sch.reqs rid } }

/-- What a request finds when it needs a tile: it is there; a fetch is under way; or the request must end. -/
inductive Need where
  | here | fetching | ends (outcome cause : Nat)
deriving DecidableEq, Repr

/-- What stands among the holders of a tile, and names the queries, for the work of peers, which has no request (log entry 100). -/
def peerRid : Nat := 2 ^ 64

/-- The state with a request among the holders of a slot, and the slot's age now. -/
def State.hold (a rid : Nat) (s : State) : State :=
  s.modSlot a (fun e => { e with
    age := s.tick
    holders := if e.holders.contains rid then e.holders else rid :: e.holders })

/-- A tile slot is accessed now (R252). -/
def State.accessed (a : Nat) (s : State) : State := s.modSlot a (fun e => { e with age := s.tick })

/-- An object that a FREE has released for every request that did not hold it before (R292). -/
def State.freedFor (s : State) (rid : Nat) (o : Obj) : Bool :=
  o.freedBy.isSome && !(match mapFind s.sch.reqs rid with
    | some r => r.held.contains o.id
    | none => false)

/-- An address a request may not name (R102): reserved, the register mirror, a lent alias, a Locket of a Facet it does
not run on; for a write also T3 to T5. -/
def State.addrBad (s : State) (facets x : Nat) (write : Bool) : Bool :=
  match regionOf s.part x with
  | .reserved => true
  | .mirror => true
  | .alias_ _ => true
  | .locket n => !bit facets n
  | .hbm => false
  | .casket => false
  | _ => write

/-- A range of addresses of which a request may not name some part (R102). -/
def State.rangeBad (s : State) (facets a n : Nat) (write : Bool) : Bool :=
  (regionPieces a n).any (fun x => s.addrBad facets x.1 write || s.addrBad facets (x.1 + (x.2 - 1)) write)

/-- ADDR_VIS of a workspace. -/
def State.addrVis (s : State) (w : Nat) : Bool :=
  if w < 32 then s.bitOn CK_QUOTA.ADDR_VIS_LO w else s.bitOn CK_QUOTA.ADDR_VIS_HI (w - 32)

/-- The Lockets that the engines of a request's current step serve: those of the Facets a phase runs on (R24). The manual does
not say which Facet of a set takes which input, so a tile in the Locket of one of them is that Facet's (log entry 85). -/
def Req.lockets (r : Req) : Nat :=
  match r.steps with
  | .phase set _ _ _ _ _ _ _ _ :: _ => set
  | _ => 0

/-- Tile i of a name that a request may not use from the Lockets of `facets` (R24, R102, R246, R248): homed in another Locket, or in
T3 to T5 where it is written; at an address of R102, or at any while the workspace may not see addresses. -/
def State.nameBad (s : State) (w facets id i : Nat) (write : Bool) : Bool :=
  match s.objOf w id with
  | none => false
  | some o =>
    let at_ := fun (bad : Nat → Bool) => match o.addrs[i]? with
      | none => false
      | some a => bad a
    if 2 ^ 64 ≤ id then
      !s.addrVis w || at_ (fun a => s.rangeBad facets a tileSize write)
    else (write && decide (3 ≤ o.home)) || (decide (o.home = 0) && at_ (fun a => s.addrBad facets a false))

/-- The Lockets a request's engines may reach now. -/
def State.locketsOf (s : State) (rid : Nat) : Nat :=
  match mapFind s.sch.reqs rid with
  | some r => r.lockets
  | none => 0

/-- The Locket an address lies in is one of a set; an address elsewhere is everyone's. -/
def State.reaches (s : State) (lockets a : Nat) : Bool :=
  match regionOf s.part a with
  | .locket n => bit lockets n
  | _ => true

/-- The copy in Locket f of a tile, if it holds one. -/
def State.locketCopy (s : State) (w id i f : Nat) : Option Nat :=
  (s.ck.slots.find? (fun e => decide (e.2.ws = w) && decide (e.2.obj = id) && decide (e.2.tile = i)
    && e.2.copy && slotIn 0 f e.1 e.2)).map (·.1)

/-- LOCAL in HINT mode: a tile that a Facet reads from T1 is copied into its Locket, where R251 gives a slot; the copies of a set are
those of each of its Facets. A hint never ends a request (R247, log entry 94). -/
def State.keepLocal (rid w id i a facets : Nat) (s : State) : State :=
  match s.objOf w id with
  | none => s
  | some o =>
    if placeLocal o.place && s.hintMode w && inCasket a 1 && decide (id < 2 ^ 64) then
      (setBitsBelow 4 facets).foldl (fun (t : State) f =>
        match t.locketCopy w id i f with
        | some b => t.hold b rid
        | none => match t.takeFor rid 0 f (State.takeLocket w f) with
          | (.got b _, u) =>
            ((u.putSlot b (newSlot w id i 0 false true o.place u.tick [rid])).dpaWrite b (u.dpaRead a tileSize)).syncLent
          | (.wait _ _, u) => u
          | _ => t) s
    else s

/-- The tile came in past the request's span of R266 while it was preempted (R269). -/
def State.cameLate (s : State) (rid id i : Nat) : Bool :=
  match mapFind s.sch.reqs rid with
  | some r => r.late.contains (id, i)
  | none => false

/-- A request needs a tile of an object where engines can read it (R30, R246, R252, R266, R269, R270, R292): held in place if it is
in T0 or T1; joined to a fetch under way; else a copy in T1 is taken by R252 and fetched. -/
def State.needTile (rid w id i : Nat) (s : State) : Need × State :=
  match s.objOf w id with
  | none => (.ends ocTierFailed 0, s)
  | some o =>
    if s.nameBad w (s.locketsOf rid) id i false then (.ends ocTierFailed 1, s)
    else if s.tileLost w id i || decide (o.tiles ≤ i) || s.freedFor rid o then (.ends ocTierFailed 0, s)
    else if s.cameLate rid id i then (.ends ocTierLate 0, s)
    else
      match s.ck.fetches.find? (fun e => decide (e.2.ws = w) && decide (e.2.obj = id) && decide (e.2.tile = i)) with
      | some (fid, _) =>
        let t := s.setCk { s.ck with fetches := mapModify (fun f => f.join rid s.tick) s.ck.fetches fid }
        (.fetching, (match s.copyOf w id i 1 with
          | some a => t.hold a rid
          | none => t))
      | none =>
        match (s.tileAddr w id i).filter (fun a => o.home == 0 || s.reaches (s.locketsOf rid) a) with
        | some a => (.here, (s.hold a rid).keepLocal rid w id i a (s.locketsOf rid))
        | none =>
          let src := (o.addrs[i]?).getD 0
          let lent := s.lentCopy w id i
          if lent.isNone && s.sourceDead src then (.ends ocTierFailed 0, s)
          else
            let s := s.accessed src
            let fetch := fun (dest wait : Option Nat) =>
              ({ ws := w, obj := id, tile := i, tier := o.home, src := lent.getD src, lent := lent.isSome,
                 dest := dest, waitSlot := wait, issue := s.tick, waits := [(rid, s.tick)], asked := [], parts := [] } : Fetch)
            match s.takeTile w 1 o.place (placePoolOk o.place) with
            | (.got a b, t) =>
              let t := t.putSlot a (newSlot w id i 1 b true o.place s.tick [rid])
              (.fetching, t.setCk { t.ck with fetches := mapInsert t.ck.fetches (mapNext t.ck.fetches) (fetch (some a) none) })
            | (.wait a _, t) =>
              (.fetching, t.setCk { t.ck with fetches := mapInsert t.ck.fetches (mapNext t.ck.fetches) (fetch none (some a)) })
            | (.refuse oc, t) => (.ends oc 0, t)

/-- A request needs every tile of an object; the first tile that ends it decides. -/
def State.needObj (rid w id : Nat) (s : State) : Need × State :=
  match s.objOf w id with
  | none => (.ends ocTierFailed 0, s)
  | some o =>
    (List.range o.tiles).foldl (fun (r : Need × State) i =>
      match r.1 with
      | .ends oc c => (.ends oc c, r.2)
      | .here => r.2.needTile rid w id i
      | .fetching => match r.2.needTile rid w id i with
        | (.here, t) => (.fetching, t)
        | q => q) (.here, s)

/-- A request waits on some fetch. -/
def State.waits (s : State) (rid : Nat) : Bool := s.ck.fetches.any (fun e => e.2.waits.any (fun w => w.1 == rid))

/-- Some tile of the object that the request needs is not yet in place. -/
def State.objReady (s : State) (w id : Nat) : Bool :=
  match s.objOf w id with
  | none => false
  | some o => (List.range o.tiles).all (fun i => (s.tileBytesOf w id i).isSome)

/-- The payload bytes of an object, tile after tile. -/
def State.objPayload (s : State) (w id : Nat) : List Byte :=
  match s.objOf w id with
  | none => []
  | some o => (List.range o.tiles).flatMap (fun i => match s.tileBytesOf w id i with
    | some l => payloadOf l
    | none => [])

/-! ### Installing and storing tiles -/

/-- The home quadrant of a block's page (Table MACH-3); none for pages the table does not list. -/
def homeQuad (page : Nat) : Option Nat :=
  if page ≤ 0x006 ∨ page = 0x090 ∨ page = 0x091 ∨ page = 0x09C ∨ page = 0x09D then some 0
  else if (0x088 ≤ page ∧ page ≤ 0x08C) ∨ (0x080 ≤ page ∧ page ≤ 0x082) ∨ page = 0x068 ∨ page = 0x060 then some 1
  else if (0x092 ≤ page ∧ page ≤ 0x099) ∨ page = 0x09A ∨ page = 0x09B ∨ (0x078 ≤ page ∧ page ≤ 0x07A) ∨ page = 0x070 then
    some 2
  else if page = 0x069 ∨ page = 0x061 ∨ page = 0x071 then some 3
  else if 0x040 ≤ page ∧ page ≤ 0x05F then some ((page - 0x040) / 8)
  else none

/-- Bytes that enter quadrant q from another cross the crossbar (R26, Table CK-8). -/
def State.crossed (from_ q n : Nat) (s : State) : State :=
  if from_ % 4 = q % 4 then s else s.inc64 (CK_Q.XBAR_IN_LO (q % 4)) (CK_Q.XBAR_IN_HI (q % 4)) n

/-- The unit carries out a step (Table WK-4). -/
def stepRuns (st : PlanStep) (u : Nat) : Bool :=
  match st with
  | .phase set _ _ _ _ _ _ _ _ => decide (u < 8) && bit set (u % 4)
  | .gather _ _ _ _ _ => u == 10 || u == 11
  | .update _ _ _ => u == 10 || u == 11
  | .put _ _ _ => u == 10 || u == 11
  | .search _ _ _ _ _ _ _ _ => u == 8 || u == 9
  | .merge _ _ _ _ _ _ => u == 8 || u == 9
  | .solve => u == 12 || u == 13
  | .filter _ _ _ _ _ _ => u == 14

/-- The home quadrant of a unit (Table MACH-3); the guest's is that of C3. -/
def unitQuad (u : Nat) : Nat := if u = 16 then 3 else (homeQuad (pageOfUnit u)).getD 0

/-- The quadrant that the engines of a request's current step are homed on: that of the first unit it claims that carries the step out,
which of a set of Facets is the lowest (log entry 85); else of its first unit; HIF's where it has none. -/
def State.homeOf (s : State) (rid : Nat) : Nat :=
  match mapFind s.sch.reqs rid with
  | some r =>
    let mine : Option (Nat × Nat) := match r.steps with
      | st :: _ => r.est.find? (fun e => stepRuns st e.1)
      | [] => none
    ((mine.orElse (fun _ => r.est.head?)).map (fun e => unitQuad e.1)).getD 0
  | none => 0

/-- Bytes moved into a Casket quadrant, and over the crossbar where the source's home is another (R277). -/
def State.countWrite (a n : Nat) (s : State) : State :=
  if inCasket a 1 then s.inc64 (CK_Q.WR_BYTES_LO (quadOf a)) (CK_Q.WR_BYTES_HI (quadOf a)) n
  else if a < hbmSize then s.inc64 (HBM.WR_BYTES_LO (a / stackSize)) (HBM.WR_BYTES_HI (a / stackSize)) n
  else s

/-- Bytes read from a Casket quadrant or a stack. -/
def State.countRead (a n : Nat) (s : State) : State :=
  if inCasket a 1 then s.inc64 (CK_Q.RD_BYTES_LO (quadOf a)) (CK_Q.RD_BYTES_HI (quadOf a)) n
  else if a < hbmSize then s.inc64 (HBM.RD_BYTES_LO (a / stackSize)) (HBM.RD_BYTES_HI (a / stackSize)) n
  else s

/-- An HBM address lies in a region that background zeroing has not reached (R133). -/
def State.unzeroed (s : State) (a : Nat) : Bool :=
  decide (a < hbmSize) && (match mapFind s.pwr.zero (a / stackSize) with
    | none => false
    | some z => let r := a % stackSize / 0x20_0000
      !(decide (r < z.next) || z.early.contains r))

/-- A write to HBM while its stack is being zeroed first zeroes the whole 2 MiB region (R133); the region is marked done
ahead of the background order. Nothing is listed in a region not yet zeroed, so the bytes read 0 already. -/
def State.hbmTouch (a : Nat) (s : State) : State :=
  if s.unzeroed a then
    (let h := a / stackSize
     { s with pwr := { s.pwr with zero := mapModify (fun z => { z with early := a % stackSize / 0x20_0000 :: z.early }) s.pwr.zero h } })
  else s

/-- Bytes stored at a device physical address, counted and with HBM zeroing observed. -/
def State.store (a : Nat) (l : List Byte) (s : State) : State :=
  ((s.hbmTouch a).dpaWrite a l).countWrite a l.length

/-- Bytes that a block whose home is quadrant q stores: counted where they lie, and over the crossbar where that is another quadrant
(R26, R277). -/
def State.storeFrom (q a : Nat) (l : List Byte) (s : State) : State :=
  let s := s.store a l
  if inCasket a 1 then s.crossed q (quadOf a) l.length else s

/-- n bytes that a block whose home is quadrant q reads, counted in the same way. -/
def State.readTo (q a n : Nat) (s : State) : State :=
  let s := s.countRead a n
  if inCasket a 1 then s.crossed (quadOf a) q n else s

/-- Bytes that an I/O block moves at an address outside the Casket pass through a stream port of its home quadrant q; where the address
lies in HBM, a tier mover carries them between that quadrant and the stack's, `out` of the device or into it (R26, R30, R31, R582). -/
def State.throughPort (q a n : Nat) (out : Bool) (s : State) : State :=
  if inCasket a n then s
  else
    let p := casketBase + q * 0x0400_0000
    let s := (s.countWrite p n).countRead p n
    if hbmSize ≤ a then s else if out then s.crossed (a / stackSize) q n else s.crossed q (a / stackSize) n

/-- A tile has been written at an address: its other copies are stale and dropped; one that a plan has pinned takes the new contents,
and a lent copy is dropped (R246, R351). -/
def State.dropOtherCopies (w id i a : Nat) (s : State) : State :=
  let b := s.dpaRead a tileSize
  let mine := fun (e : Slot) => decide (e.ws = w) && decide (e.obj = id) && decide (e.tile = i) && e.copy
  let s := (mapKeys (fun b e => mine e && decide (b ≠ a)) s.ck.slots).foldl (fun (t : State) x =>
    match mapFind t.ck.slots x with
    | some e => if e.pin.isSome then t.storeFrom (if inCasket a 1 then quadOf a else quadOf x) x b else t.dropSlot x
    | none => t) s
  s.setCk { s.ck with lent := s.ck.lent.filter (fun e =>
    !(decide (e.2.ws = w) && decide (e.2.obj = id) && decide (e.2.tile = i))) }

/-- A copy in T1 that lies in another quadrant than the one named moves to a free slot there, if there is one; a home and a pinned tile
stay (R247, R351, R666, R667). -/
def State.moveCopy (a : Nat) (quad : Option Nat) (s : State) : Nat × State :=
  match quad, mapFind s.ck.slots a with
  | some q, some e =>
    if e.copy && e.pin.isNone && inCasket a 1 && decide (quadOf a ≠ q % 4) then
      (match s.freeIn (s.t1Range (q % 4)).1 (s.t1Range (q % 4)).2 with
       | some b => (b, (s.eraseSlot a).putSlot b e)
       | none => (a, s))
    else (a, s)
  | _, _ => (a, s)

/-- Where a request's write of a tile goes: a copy in T1, the home in T0 or T1, or a new copy taken by R252, in a quadrant
if one is named (R667). -/
def State.outSlot (rid w id i : Nat) (quad : Option Nat) (s : State) : SlotAns × State :=
  match s.objOf w id with
  | none => (.refuse ocTierFailed, s)
  | some o =>
    match (s.tileAddr w id i).filter (fun a => o.home == 0 || s.reaches (s.locketsOf rid) a) with
    | some a =>
      let (b, s) := s.moveCopy a quad
      (.got b false, s.hold b rid)
    | none =>
      let place := match quad with
        | some q => putBits o.place 10 8 (4 + q % 4)
        | none => o.place
      match s.takeFor rid 1 0 (State.takeTile w 1 place (placePoolOk o.place)) with
      | (.got a b, t) => (.got a b, t.putSlot a (newSlot w id i 1 b true o.place s.tick [rid]))
      | q => q

/-- The VERSION a tile has now: in the slot engines read, else at its home. -/
def State.tileVersion (s : State) (w id i : Nat) : Nat :=
  match s.tileAddr w id i with
  | some a => (hdrOf (s.dpaRead a 64)).version
  | none => match s.homeAddr w id i with
    | some a => (hdrOf (s.dpaRead a 64)).version
    | none => 0

/-- A tile that is written whole needs no fetch any more: what waits for it finds what has been written. -/
def State.supersede (w id i : Nat) (s : State) : State :=
  s.setCk { s.ck with fetches := s.ck.fetches.filter (fun e =>
    !(decide (e.2.ws = w) && decide (e.2.obj = id) && decide (e.2.tile = i))) }

/-- A complete write of a tile by a request: it goes to T1 or the home, takes the next VERSION, and is dirty where it is
a copy (R246, R250); `here` when written, `fetching` while the slot it needs is being written back (R253). TIER_FAILED
for an object whose home is in T3 to T5. -/
def State.putTileIn (quad : Option Nat) (rid w id i format layout dim0 dim1 pitch flags : Nat)
    (aux payload : List Byte) (s : State) : Need × State :=
  match s.objOf w id with
  | none => (.ends ocTierFailed 0, s)
  | some o =>
    if s.nameBad w (s.locketsOf rid) id i true || decide (o.tiles ≤ i) then (.ends ocTierFailed 0x01, s)
    else if o.lost then (.ends ocTierFailed 0, s)
    else
      let v := s.tileVersion w id i + 1
      match s.outSlot rid w id i quad with
      | (.got a _, t) =>
        let h : TileHdr := {
          tag := tileTag, format := format, layout := layout, dim0 := dim0, dim1 := dim1,
          pitch := pitch, flags := flags, len := 0, obj := id, index := i, version := v % 2 ^ 32, ws := w,
          home := o.home, aux := aux, checksum := 0 }
        let t := ((t.supersede w id i).store a (tileBytes h payload)).dropOtherCopies w id i a
        let t := if inCasket a 1 then t.crossed (t.homeOf rid) (quadOf a) tileSize else t
        (.here, (t.modSlot a (fun e => { e with age := s.tick, dirty := e.copy, lost := false })).started rid)
      | (.wait _ _, t) => (.fetching, t)
      | (.refuse oc, t) => (.ends oc 0, t)

/-- A complete write of a tile, with the quadrant left to the device. -/
def State.putTile (rid w id i format layout dim0 dim1 pitch flags : Nat) (aux payload : List Byte) (s : State) :
    Need × State := s.putTileIn none rid w id i format layout dim0 dim1 pitch flags aux payload

/-- The slots a request held are held no longer, and it waits for none. -/
def State.releaseHolds (rid : Nat) (s : State) : State :=
  s.setCk { s.ck with slots := mapAll (fun _ e => {
    e with
    holders := e.holders.filter (fun r => r != rid)
    waiter := e.waiter.filter (fun x => x.1 != rid) }) s.ck.slots }

/-- A request waits on no fetch any more; the fetches go on (R268). -/
def State.leaveFetches (rid : Nat) (s : State) : State :=
  s.setCk { s.ck with fetches := mapAll (fun _ f => { f with waits := f.waits.filter (fun e => e.1 != rid) }) s.ck.fetches }

/-- The tiles of an object are released: its slots are freed, dirty copies dropped (R292). -/
def State.releaseObj (w id : Nat) (s : State) : State :=
  let addrs := mapKeys (fun _ e => decide (e.ws = w) && decide (e.obj = id)) s.ck.slots
  let s := addrs.foldl (fun t a => t.dropSlot a) s
  s.setCk { s.ck with
    objs := s.ck.objs.filter (fun o => !(decide (o.ws = w) && decide (o.id = id))),
    fetches := s.ck.fetches.filter (fun e => !(decide (e.2.ws = w) && decide (e.2.obj = id))),
    lent := s.ck.lent.filter (fun e => !(decide (e.2.ws = w) && decide (e.2.obj = id))) }

end Sys2Proof.Machine
end

