-- ==== Sys2Proof/Machine/Links.lean ====
section
/-! DEFINITION. What a Clasp link keeps, and how the Crown sends on it: the layouts of frames and packets, SEQ and what is not yet
acknowledged, the bytes counted, and the credits the guest has granted (R202 to R208, R213, R214, Tables CLS-3, CLS-9, CLS-12). -/

namespace Sys2Proof.Machine

/-- The link's state after reset. -/
def linkReset : Link :=
  { txSeq := 0, unacked := [], txWait := [], rxSeq := 0, rxSince := 0, rxHold := false, replays := [], replaying := false,
    txns := [], timedOut := [], badLanes := [], burstTick := none, retrain := none, burstsLeft := 0, upLast := false, testEnd := none }

/-- A link's own record. -/
def State.lnk (s : State) (l : Nat) : Link := mapGet (fun _ => linkReset) s.links l

/-- The state with a link's record replaced. -/
def State.setLnk (l : Nat) (k : Link) (s : State) : State :=
  { s with links := mapSet (fun _ => linkReset) s.links l k }

/-- The state with the guest's record replaced. -/
def State.setGuest (g : Guest) (s : State) : State := { s with guest := g }

/-! ### Frames and packets as they are laid out (R202, R204, Tables CLS-3, CLS-11, CLS-12) -/

/-- A native frame: 248 bytes of network payload, and the trailer with SEQ, ACK_SEQ, FLAGS and the CRC-32C of what stands before it
(R202). -/
def nativeBytes (seq ack : Nat) (nak : Bool) (payload : List Byte) : List Byte :=
  let b := padTo 248 payload ++ leBytes 4 (seq % 4096 + ack % 4096 * 2 ^ 12 + b2n nak * 2 ^ 24)
  b ++ leBytes 4 (crc32c b)

/-- The header of a BLP packet (Table CLS-3). -/
def blpHeader (type status seq ack len addr tag : Nat) : List Byte :=
  leBytes 1 (type % 16) ++ leBytes 1 (status % 16) ++ leBytes 2 seq ++ leBytes 2 ack ++ leBytes 2 len ++ leBytes 6 addr
    ++ leBytes 2 (tag % 4096)

/-- TYPE of a packet (Table CLS-3); none for what is no packet. -/
def LinkOut.type : LinkOut → Option Nat
  | .rdReq _ _ _ _ _ => some 0x1
  | .write _ _ => some 0x3
  | .cplData _ _ _ => some 0x4
  | .cpl _ _ => some 0x5
  | .work _ => some 0x6
  | .cancel _ => some 0x6
  | .credit _ _ _ => some 0x7
  | .ackFrame _ => some 0x8
  | .nakFrame _ => some 0x9
  | .capGrant _ _ _ _ => some 0xB
  | .frame _ => none
  | .sideband _ _ => none

/-- Umhel message codes of the sideband of C3: TICK, which the Crown sends, and TICK_ACK, the guest's answer, which the command TICK_ACK
brings (R200). -/
def codeTick : Nat := 0x54
def codeTickAck : Nat := 0x55

/-- The payload of a packet, frame or message (R200, R202, R214, Table CLS-12). CAP_GRANT's is laid out as the same items stand in
the capability block (log entry 92). -/
def LinkOut.data : LinkOut → List Byte
  | .cplData _ _ d => d
  | .write _ d => d
  | .work tail => [0x01] ++ leBytes 1 tail ++ [0, 0]
  | .cancel tag => [0x03, 0, 0, 0] ++ leBytes 4 tag
  | .capGrant r c d m => leBytes 2 r ++ leBytes 2 c ++ leBytes 2 d ++ leBytes 2 m
  | .frame b => b
  | .sideband _ t => leBytes 8 t
  | .rdReq _ _ _ _ _ => []
  | .cpl _ _ => []
  | .credit _ _ _ => []
  | .nakFrame _ => []
  | .ackFrame _ => []

/-- Bytes of payload that count on a link. -/
def LinkOut.payload (p : LinkOut) : Nat := p.data.length

/-- What leaves on a link, byte for byte (R200, R202, R204): a native frame, a BLP packet, or a sideband message. -/
def LinkOut.bytes (p : LinkOut) (native : Bool) (seq ack : Nat) : List Byte :=
  match p.type with
  | none => if native then nativeBytes seq ack false p.data else p.data
  | some t =>
    if native then nativeBytes seq (match p with
      | .nakFrame e => e
      | _ => ack) (decide (t = 0x9)) p.data
    else match p with
    | .rdReq a n tag _ _ => blpHeader t 0 seq ack n a tag
    | .cplData tag st d => blpHeader t st seq ack d.length 0 tag ++ d
    | .cpl tag st => blpHeader t st seq ack 0 0 tag
    | .write a d => blpHeader t 0 seq ack d.length a 0 ++ d
    | .credit r c d => blpHeader t 0 0 ack 0 (r % 65536 + c % 65536 * 2 ^ 16 + d % 65536 * 2 ^ 32) 0
    | .nakFrame e => blpHeader t 0 0 e 0 0 0
    | .ackFrame e => blpHeader t 0 0 e 0 0 0
    | q => blpHeader t 0 seq ack q.payload 0 0 ++ q.data

/-! ### Sending (R202, R203, R206) -/

/-- How SEQ counts, and how much may be unacknowledged (R202, R206). -/
def State.seqMod (s : State) (l : Nat) : Nat := if s.on (CL.LINK_CFG_MODE l) then 65536 else 4096
def State.txLimit (s : State) (l : Nat) : Nat := if s.on (CL.LINK_CFG_MODE l) then 8192 else 1024

/-- ACK_SEQ: the last SEQ received in order. -/
def State.ackSeq (s : State) (l : Nat) : Nat := ((s.lnk l).rxSeq + s.seqMod l - 1) % s.seqMod l

/-- A frame or packet goes out; INJ_CRC spoils one less (Table CLS-9). -/
def State.wire (l : Nat) (p : LinkOut) (seq : Nat) (s : State) : State :=
  (s.wr (CL.INJ_CRC l) (s.rd (CL.INJ_CRC l) - 1)).emit (.link l p seq (s.ackSeq l) (s.on (CL.INJ_CRC l)))

/-- There is room for one more that is not yet acknowledged. -/
def State.txRoom (s : State) (l : Nat) : Bool := decide ((s.lnk l).unacked.length < s.txLimit l)

/-- The Crown sends a frame or packet: it takes the next SEQ and is kept until it is acknowledged, and its payload counts. -/
def State.send (l : Nat) (p : LinkOut) (s : State) : State :=
  let k := s.lnk l
  let s := s.setLnk l { k with txSeq := (k.txSeq + 1) % s.seqMod l, unacked := k.unacked ++ [(k.txSeq, p)] }
  (s.inc64 (CL.TX_BYTES_LO l) (CL.TX_BYTES_HI l) p.payload).wire l p k.txSeq

/-- A frame or packet of a link within the device is sent, or waits for room (R202, R206). -/
def State.sendLinkFrame (l : Nat) (p : LinkOut) (s : State) : State :=
  if (s.lnk l).txWait.isEmpty && s.txRoom l then s.send l p
  else s.setLnk l { s.lnk l with txWait := (s.lnk l).txWait ++ [p] }

/-- An acknowledgement or a NAK goes back: on a native link in a frame, which takes its SEQ as every frame does (R202); on a packetised
one as a packet that has none (R206). -/
def State.sendAnswer (l : Nat) (p : LinkOut) (s : State) : State :=
  if s.on (CL.LINK_CFG_MODE l) then s.wire l p 0 else s.sendLinkFrame l p

/-- Frames that waited are sent as far as there is room. -/
def State.sendWaitingFrames (l : Nat) : Nat → State → State
  | 0, s => s
  | n + 1, s =>
    match (s.lnk l).txWait with
    | [] => s
    | p :: r => if s.txRoom l then State.sendWaitingFrames l n ((s.setLnk l { s.lnk l with txWait := r }).send l p) else s

/-! ### Credits (R205, R208) -/

/-- Credits of one packet for its payload: one per 64 bytes (R205). -/
def dataCredits (len : Nat) : Nat := ceilDiv len 64

/-- A packet takes a CPL credit: it is a completion. -/
def LinkOut.isCpl : LinkOut → Bool
  | .cplData _ _ _ => true
  | .cpl _ _ => true
  | _ => false

/-- The guest's credits suffice for a packet. -/
def Guest.allows (g : Guest) (p : LinkOut) : Bool :=
  decide (1 ≤ (if p.isCpl then g.credCpl else g.credReq)) && decide (dataCredits p.payload ≤ g.credData)

/-- What follows from a packet's going out: a WORK message dates the entry it announces (R46), and a read request is a
non-posted transaction (R222). -/
def State.issued (p : LinkOut) (s : State) : State :=
  match p with
  | .work tail => s.setGuest { s.guest with work := s.guest.work.map (fun e =>
      if (e.place + 1) % 256 = tail ∧ e.sent = none then { e with sent := some s.tick } else e) }
  | .rdReq _ _ tag fid rid => s.setLnk 3 { s.lnk 3 with
      txns := (s.lnk 3).txns ++ [{ tag := tag, rid := rid, fetch := fid, issue := s.tick, expired := none }] }
  | _ => s

/-- A packet is sent to the guest with the credits it takes. -/
def State.spend (p : LinkOut) (s : State) : State :=
  let g := s.guest
  ((s.setGuest { g with
    credCpl := g.credCpl - b2n p.isCpl, credReq := g.credReq - b2n (!p.isCpl)
    credData := g.credData - dataCredits p.payload }).send 3 p).issued p

/-- A packet is sent to the guest, or waits: for credit, for room among the unacknowledged, or behind one of its class that does. -/
def State.trySend (p : LinkOut) (s : State) : State :=
  let g := s.guest
  if g.waiting.any (fun q => q.isCpl == p.isCpl) || !g.allows p || !s.txRoom 3 then s.setGuest { g with waiting := g.waiting ++ [p] }
  else s.spend p

/-- The packets that wait are sent, each class in its order, as far as the credits go. -/
def State.sendWaiting (s : State) : State :=
  s.guest.waiting.foldl (fun t p => t.trySend p) (s.setGuest { s.guest with waiting := [] })

/-- The guest holds credit of the Crown's offer for a packet it has sent (R205, R208). -/
def Guest.holds (g : Guest) (isCpl : Bool) (payload : Nat) : Bool :=
  decide (1 ≤ (if isCpl then g.hisCpl else g.hisReq)) && decide (dataCredits payload ≤ g.hisData)

/-- A packet of the guest spends its credits, which the Crown owes it back (R205). -/
def State.takeCredits (isCpl : Bool) (payload : Nat) (s : State) : State :=
  let g := s.guest
  let c := b2n isCpl
  let d := dataCredits payload
  s.setGuest { g with
    hisReq := g.hisReq - (1 - c), hisCpl := g.hisCpl - c, hisData := g.hisData - d
    owed := (g.owed.1 + (1 - c), g.owed.2.1 + c, g.owed.2.2 + d) }

/-- At the end of a tick the Crown returns the credits of the packets it has taken in it, in one CREDIT packet with its cumulative
counts (R205, R206; log entry 89). -/
def State.returnCredits (s : State) : State :=
  let g := s.guest
  if g.owed = (0, 0, 0) then s
  else
    let gave := ((g.gave.1 + g.owed.1) % 65536, (g.gave.2.1 + g.owed.2.1) % 65536, (g.gave.2.2 + g.owed.2.2) % 65536)
    (s.setGuest { g with
      hisReq := g.hisReq + g.owed.1, hisCpl := g.hisCpl + g.owed.2.1, hisData := g.hisData + g.owed.2.2
      owed := (0, 0, 0), gave := gave }).wire 3 (.credit gave.1 gave.2.1 gave.2.2) 0

end Sys2Proof.Machine
end

