-- ==== Sys2Proof/Machine/Requests.lean ====
section
/-! DEFINITION. Requests: their completion records, how they end, what they hold, and the blocks that carry them
(R16 to R18, R288 to R295, R308, R319). -/

namespace Sys2Proof.Machine

/-- The state with the scheduler replaced. -/
def State.setSch (s : State) (c : Sch) : State := { s with sch := c }

/-- The state with a request's record changed. -/
def State.modReq (rid : Nat) (f : Req → Req) (s : State) : State :=
  s.setSch { s.sch with reqs := mapModify f s.sch.reqs rid }

/-- A request that a cause of this tick has ended. One past its deadline still stands until the tick's end, since its units stop
at a tile boundary (R309). -/
def Req.gone (r : Req) : Bool := r.ends.any (fun e => decide (e.outcome ≠ ocDeadlineMissed))

/-- The request of a number, while nothing has ended it. -/
def State.req (s : State) (rid : Nat) : Option Req := (mapFind s.sch.reqs rid).filter (fun r => !r.gone)

/-- The HIF link carries traffic: trained and not held in reset by PERST_N (R295, R584). -/
def State.hifUp (s : State) : Bool := s.boot.linkUp && s.boot.perstHigh

/-! ### Completion records (R293 to R295) -/

/-- The completion interrupt of a workspace, held back while MODERATE runs (R319, R581). -/
def State.cplIrq (w : Nat) (s : State) : State :=
  let m := s.rd (WS.CPL_CFG_MODERATE w)
  match mapFind s.sch.moder w with
  | some (u, _) => s.setSch { s.sch with moder := mapInsert s.sch.moder w (u, true) }
  | none =>
    let s := s.wsIrq w 0
    if m = 0 then s else s.setSch { s.sch with moder := mapInsert s.sch.moder w (s.tick + m, false) }

/-- Base of a completion ring; bits below its size are taken as 0 (Table WK-8, R657). -/
def State.cplBase (s : State) (w : Nat) : Nat :=
  let n := 32 * s.cplSize w
  s.rd64 (WS.CPL_BASE_LO w) (WS.CPL_BASE_HI w) / n * n

/-- A byte range lies in an enabled grant window of a workspace, for a write one with WR = 1 (R94, R284, R593). -/
def State.inGrant (s : State) (w a n : Nat) (write : Bool) : Bool :=
  (List.range 4).any (fun g => s.on (WS.GRANT_CTRL_EN w g) && (!write || s.on (WS.GRANT_CTRL_WR w g))
    && within a n (s.rd64 (WS.GRANT_BASE_LO w g) (WS.GRANT_BASE_HI w g) / 0x10000 * 0x10000) (s.rd (WS.GRANT_SIZE w g) * 0x10000))

/-- The shadow of a completion ring in host memory meets R295: aligned to its size and in an enabled grant window. -/
def State.shadowOk (s : State) (w : Nat) : Bool :=
  let a := s.rd64 (WS.CPL_SHADOW_BASE_LO w) (WS.CPL_SHADOW_BASE_HI w)
  let n := 32 * s.cplSize w
  decide (a % n = 0) && inCasket a n && s.inGrant w a n false

/-- A record is written to the workspace's completion ring: in the Casket, where it lies in a grant window of the workspace; or in
its shadow and, while the host link is up, in host memory (R293, R295). A ring or a shadow outside the workspace's grants, which
R9 leaves unspecified for the workspace alone, is not written; such a shadow sets SHADOW_BAD (log entry 78). -/
def State.writeRecord (w : Nat) (irq : Bool) (r : Record) (s : State) : State :=
  let i := s.rd (WS.CPL_WR_IDX w)
  let a := s.cplBase w + 32 * i
  let shadow := s.rd64 (WS.CPL_SHADOW_BASE_LO w) (WS.CPL_SHADOW_BASE_HI w)
  let s :=
    if s.on (WS.CPL_CFG_LOC w) then
      (let t := if s.shadowOk w then s.storeFrom 0 (shadow + 32 * i) r.bytes
         else s.setW1c (WS.CPL_STAT_SHADOW_BAD w) 1
       if t.hifUp then t.hostWrite w a r.bytes
       else (t.setSch { t.sch with held := t.sch.held ++ [(w, i)] }).wr (WS.CPL_STAT_HELD w) 1)
    else if inCasket a 32 && s.inGrant w a 32 false then s.storeFrom 0 a r.bytes else s
  let s := s.wr (WS.CPL_WR_IDX w) ((i + 1) % s.cplSize w)
  let s := s.raiseIrq (pgWs w) 0
  if irq && s.on (WS.CPL_CFG_IRQ_EN w) then s.cplIrq w else s

/-- The completion record of a request that ends or yields now. -/
def reqRecord (r : Req) (outcome cause now : Nat) : Record :=
  { outcome := outcome, tag := r.tag, wsRing := r.ws % 64 + 64 * r.ring, flags := recordFlags r.cls r.loan r.overload,
    cause := cause, preempts := satBits 8 r.preempts, endTick := now,
    startDelta := (match r.start with
      | none => 0xFFFF_FFFF
      | some t => satBits 32 (now - t)),
    submitDelta := satBits 32 (now - r.submit), snap := r.snap }

/-- The counters an outcome increments: the class counters of WK_SCHED and the tier counters of CK_TIER (R278, R318). -/
def State.countOutcome (cls outcome : Nat) (s : State) : State :=
  let s := if outcome = ocDeferred then s.inc (WK_SCHED.DEFER_CNT cls) else s
  let s := if outcome = ocRefusedCapacity ∨ outcome = ocRefusedClass then s.inc (WK_SCHED.REFUSE_CNT cls) else s
  let s := if outcome = ocDeadlineMissed ∨ outcome = ocDoneLate then s.inc (WK_SCHED.LATE_CNT cls) else s
  let s := if outcome = ocTierLate then s.inc CK_TIER.LATE_CNT else s
  if outcome = ocTierFailed then s.inc CK_TIER.FAILED_CNT else s

/-- The final record of a request is written and counted (R17, R293). -/
def State.finalRecord (r : Req) (outcome cause : Nat) (s : State) : State :=
  (s.writeRecord r.ws r.irq (reqRecord r outcome cause s.tick)).countOutcome r.cls outcome

/-! ### Blocks with work (R80, R285) -/

/-- A block whose last work in flight has ended: ACTIVE returns to READY, DRAINING reaches OFF with the cause that
disabled it (R80); FIL stays ACTIVE while a channel is enabled (R497). -/
def State.settle (page : Nat) (busy : Bool) (s : State) : State :=
  if busy || (page == 0x078 && s.on FIL.CHAN_ACTIVE) then s
  else match s.bst page with
    | .active => s.goto page .ready causeSched
    | .draining => s.goto page .off (s.blk page).cause
    | _ => s

/-- A request is running on the page of a unit. -/
def Req.uses (r : Req) (page : Nat) : Bool :=
  r.phase != .waiting && r.est.any (fun e => pageOfUnit e.1 == page)

/-- Some running request uses a page. -/
def State.pageBusy (s : State) (page : Nat) : Bool := s.sch.reqs.any (fun e => e.2.uses page)

/-- Admitted, unfinished requests of a workspace (WS_STAT.INFLIGHT). -/
def State.inflight (s : State) (w : Nat) : Nat := mapCount (fun _ r => decide (r.ws = w)) s.sch.reqs

/-- The pages a request's units lie on. -/
def Req.pages (r : Req) : List Nat := (r.est.map (fun e => pageOfUnit e.1)).eraseDups

/-! ### The guest's work entries (R213, R216) -/

/-- A request of the guest ends on the Crown's side before its COMPLETE: a CANCEL is sent and the entry waits for the
guest's answer (R216). -/
def State.guestCancel (rid : Nat) (s : State) : State :=
  match s.guest.work.find? (fun e => decide (e.rid = rid) && !e.cancelled) with
  | none => s
  | some e =>
    let g := { s.guest with work := s.guest.work.map (fun x => if x.tag = e.tag then { x with cancelled := true } else x) }
    (s.setGuest g).trySend (.cancel e.tag)

/-! ### Releasing -/

/-- The stream ports of a unit (Table CK-1): a Facet's serve its tensor and its vector cores. The other ports of the table serve
blocks on which no request runs, and are never bound to one (log entry 95). -/
def portsOfUnit (u : Nat) : List Nat :=
  if u < 8 then (List.range 8).map (8 * (u % 4) + ·)
  else if u < 10 then [32 + 2 * (u - 8), 33 + 2 * (u - 8)]
  else if u < 12 then [36 + 2 * (u - 10), 37 + 2 * (u - 10)]
  else if u < 14 then [40 + 2 * (u - 12), 41 + 2 * (u - 12)]
  else if u = 14 then [44, 45] else if u = 15 then [48] else []

/-- The stream ports of a request's units. -/
def Req.unitPorts (r : Req) : List Nat := (r.est.flatMap (fun e => portsOfUnit e.1)).eraseDups

/-- A port writes through a reshard descriptor: one of the four write ports, the upper four (log entry 95), of a Facet of the set whose
phase names a descriptor (Table CK-1, R335). -/
def Req.reshards (r : Req) (p : Nat) : Bool :=
  match r.steps with
  | .phase set _ _ _ _ _ _ _ (some _) :: _ => decide (p < 32) && decide (4 ≤ p % 8) && bit set (p / 8)
  | _ => false

/-- The request a port is bound to (R238). -/
def State.portHolder (s : State) (p : Nat) : Option Nat := (s.sch.reqs.find? (fun e => e.2.ports.contains p)).map (·.1)

/-- The request a port is bound to next: of those that run on its unit the one after its present holder, in turn (R238, log entry 95). -/
def State.portNext (s : State) (p : Nat) : Option Nat :=
  let l := mapKeys (fun _ r => r.phase == .running && r.unitPorts.contains p) s.sch.reqs
  match s.portHolder p with
  | none => l.head?
  | some k => (l.find? (fun j => decide (k < j))).orElse (fun _ => l.head?)

/-- A port is released, and bound to a request if one is named (R238, Table CK-11). -/
def State.bindPort (p : Nat) (next : Option Nat) (s : State) : State :=
  let s := s.setSch { s.sch with reqs := mapAll (fun k r =>
    let l := r.ports.filter (fun x => x != p)
    { r with ports := if next = some k then l ++ [p] else l }) s.sch.reqs }
  let (on, w, c, x) := match next.bind (mapFind s.sch.reqs) with
    | some r => (1, r.ws, r.cls, b2n (r.reshards p))
    | none => (0, 0, 0, 0)
  (((s.wr (CK_STREAM.PORT_STAT_BOUND p) on).wr (CK_STREAM.PORT_STAT_WS p) w).wr (CK_STREAM.PORT_STAT_CLASS p) c).wr
    (CK_STREAM.PORT_STAT_RESHARD p) x

/-- Ports at the end of a tile: each is released, and bound for the next one to the next request that runs on its unit (R238, R242). -/
def State.turnPorts (ports : List Nat) (s : State) : State := ports.foldl (fun t p => t.bindPort p (t.portNext p)) s

/-- A completion ring's reservation is used (R294). -/
def State.unreserve (w : Nat) (s : State) : State :=
  let n := mapGet (fun _ => 0) s.sch.reserved w
  s.setSch { s.sch with reserved := mapSet (fun _ => 0) s.sch.reserved w (n - 1) }

/-- One completion-ring slot is reserved for a final record (R294). -/
def State.reserve (w : Nat) (s : State) : State :=
  let n := mapGet (fun _ => 0) s.sch.reserved w
  s.setSch { s.sch with reserved := mapSet (fun _ => 0) s.sch.reserved w (n + 1) }

/-- Completion sources of the units a request claims, each once (Table TCK-1). -/
def Req.sources (r : Req) : List Nat :=
  if r.est.isEmpty then (if r.op = opFlush ∨ (r.op = opLoadPlan ∧ r.start.isSome) then [58] else [])
  else (r.est.filterMap (fun e => sourceOfUnit e.1)).eraseDups

/-- A header with INCOMPLETE = 1. -/
def incompleteHdr (h : TileHdr) : TileHdr := { h with flags := Nat.lor h.flags flagIncomplete }

/-- Where a destination tile of a reshard lies: where engines read it, else at its home in HBM. -/
def State.reshardAt (s : State) (w id i : Nat) : Option Nat :=
  match s.tileAddr w id i with
  | some a => some a
  | none => match s.objOf w id with
    | some o => if o.home = 2 then o.addrs[i]? else none
    | none => none

/-- Destination tiles of an unfinished reshard keep their contents and read INCOMPLETE = 1, also one that was never written before; a
copy's mark reaches its home with it (R265). -/
def State.reshardAbort (rid : Nat) (s : State) : State :=
  let mine := s.ck.reshard.filter (fun e => e.rid == rid && !e.written)
  let w := match mapFind s.sch.reqs rid with
    | some r => r.ws
    | none => 0
  let s := mine.foldl (fun (t : State) e => match t.reshardAt w e.obj e.tile with
    | none => t
    | some a =>
      (t.store a (hdrBytes (incompleteHdr (hdrOf (t.dpaRead a 64))))).modSlot a (fun x => { x with dirty := x.copy })) s
  s.setCk { s.ck with reshard := s.ck.reshard.filter (fun e => e.rid != rid) }

/-- The plan slot of a request's workspace and PLAN_ID. -/
def planKey (ws id : Nat) : Nat := 1024 * ws + id

/-- The slots a plan slot pinned are released (R351). -/
def State.unpin (l : List Nat) (s : State) : State :=
  l.foldl (fun t a => match mapFind t.ck.slots a with
    | none => t
    | some e => if e.obj < 2 ^ 64 then t.modSlot a (fun x => { x with pin := none }) else t.dropSlot a) s

/-- The pins of a replaced plan are released when its last running request ends (R355). -/
def State.releaseOldPins (rid : Nat) (s : State) : State :=
  let l := s.sch.oldPins.map (fun e => (e.1.filter (fun r => r != rid), e.2))
  let s := (l.filter (fun e => e.1.isEmpty)).foldl (fun (t : State) e => t.unpin e.2) s
  s.setSch { s.sch with oldPins := l.filter (fun e => !e.1.isEmpty) }

/-- A load that ends before its last tile leaves no tile pinned, and its slot as it was before the load, unless another load has taken
it since (R352). -/
def State.dropLoad (r : Req) (s : State) : State :=
  match r.slot with
  | some p =>
    if r.op = opLoadPlan then
      (let k := planKey r.ws r.planId
       let s := s.unpin p.pinned
       if mapFind s.sch.plans k = some p then s.setSch { s.sch with plans := match r.prior with
         | some o => mapInsert s.sch.plans k o
         | none => mapErase s.sch.plans k }
       else if s.sch.reqs.any (fun q => q.2.prior == some p) then
         s.setSch { s.sch with reqs := mapAll (fun _ q => if q.prior = some p then { q with prior := r.prior } else q) s.sch.reqs }
       else match r.prior with
         | some o => s.unpin o.pinned
         | none => s)
    else s
  | none => s

/-- A request has no transaction outstanding on any link any more (R222). -/
def State.dropTxns (rid : Nat) (s : State) : State :=
  if s.links.any (fun e => e.2.txns.any (fun x => x.rid == some rid)) then
    { s with links := mapAll (fun _ k => { k with txns := k.txns.filter (fun x => x.rid != some rid) }) s.links }
  else s

/-- What a request had in the GSEs is dropped: lookups, accumulators, and updates before their flip, whose shadow slots are
free again (R378, R384, R392). -/
def State.dropRows (rid : Nat) (s : State) : State :=
  let lost := s.rows.flips.filter (fun f => f.rid == some rid)
  { s with rows := { s.rows with
      lookups := s.rows.lookups.filter (fun l => l.rid != rid)
      flips := s.rows.flips.filter (fun f => f.rid != some rid)
      merge := s.rows.merge.filter (fun e => e.rid != rid)
      tabs := lost.foldl (fun m f => mapModify (fun t => {
        t with
        used := t.used.filter (fun x => x != f.newSlot)
        freed := if f.newSlot < t.rows then f.newSlot :: t.freed else t.freed }) m f.table) s.rows.tabs } }

/-- The index that a query searches: that of its peer's search, or the active one. -/
def State.queryIndex (s : State) (q : LpQuery) : Option LpIndex :=
  if q.rid = peerRid then (s.lps.peers.find? (fun p => decide (p.qi = q.qi))).map (·.x) else mapFind s.lps.idx (64 * q.lp + q.index)

/-- A query goes on now: its request runs and is not told to yield (R421); a peer's does. -/
def State.queryRuns (s : State) (q : LpQuery) : Bool :=
  decide (q.rid = peerRid) || (match s.req q.rid with
    | some r => r.phase == .running && r.yieldBy.isNone
    | none => false)

/-- Queries in a scan now: they need its list and go on (R419, R421). -/
def State.inScan (s : State) (c : ListScan) : List LpQuery :=
  s.lps.queries.filter (fun q => decide (q.lp = c.lp) && decide (q.index = c.index) && q.needs.any (fun e => e.1 == c.list)
    && s.queryRuns q && decide (s.queryIndex q = some c.x))

/-- The scans with no query left stop (R419, R421). -/
def State.stopScans (s : State) : State :=
  { s with lps := { s.lps with scans := s.lps.scans.filter (fun c => !(s.inScan c).isEmpty) } }

/-- The queries of a request give up their contexts and leave their scans, a scan with no query left stops, and its solve is
given up (R419, R438, R461). -/
def State.dropQueries (rid : Nat) (s : State) : State :=
  State.stopScans { s with
    ises := s.ises.filter (fun k => k.rid != rid)
    lps := { s.lps with queries := s.lps.queries.filter (fun q => q.rid != rid) } }

/-- Slots that only a request's own working data took are free again (R385). -/
def State.dropScratch (rid : Nat) (s : State) : State :=
  (mapKeys (fun _ e => decide (e.obj = noObj) && e.pin.isNone && e.holders == [rid]) s.ck.slots).foldl
    (fun t a => t.dropSlot a) s

/-- Copies of OBJECT mode, of the slots that `which` picks, that no other request uses leave T1: a clean one is dropped, a dirty one is
written back first (R247). -/
def State.leaveT1 (rid w : Nat) (which : Slot → Bool) (s : State) : State :=
  if s.hintMode w then s
  else
    (mapKeys (fun a e => e.copy && e.holders == [rid] && e.pin.isNone && !e.writeback && decide (e.tier = 1) && decide (e.ws = w)
        && which e && !s.filling a) s.ck.slots).foldl
      (fun (t : State) a => match mapFind t.ck.slots a with
        | some e => if e.dirty then (t.evict a).2 else t.dropSlot a
        | none => t) s

/-- Copies of OBJECT mode that no request uses any more leave T1 (R247). -/
def State.dropUnused (rid w : Nat) (s : State) : State := s.leaveT1 rid w (fun e => decide (e.obj < 2 ^ 128))

/-- A request, in the midst of its step, uses tiles of an object no longer: it holds them no more, so that they are idle, or leave T1 in
OBJECT mode; the next use is a read of its own (R247, R252; DESIGN CHOICE, log entry 108). -/
def State.letGo (rid w id : Nat) (tiles : List Nat) (s : State) : State :=
  let mine := fun (e : Slot) => decide (e.ws = w) && decide (e.obj = id) && tiles.contains e.tile && decide (e.tier = 1)
  let s := s.leaveT1 rid w mine
  let s := s.setCk { s.ck with slots := mapAll (fun _ e =>
    if mine e then { e with holders := e.holders.filter (fun r => r != rid) } else e) s.ck.slots }
  (s.modReq rid (fun r => { r with seen := r.seen.filter (fun x => !(decide (x.1 = id) && tiles.contains x.2)) })).trimPools

/-- What a request had is released: its claim, its holds, waits and ports, its reservation and its blocks. -/
def State.dropReq (rid : Nat) (r : Req) (s : State) : State :=
  let s := ((((((((s.reshardAbort rid).dropRows rid).dropQueries rid).dropScratch rid).dropUnused rid r.ws).releaseHolds rid).leaveFetches rid).dropTxns rid)
  let s := ((s.setSch { s.sch with reqs := mapErase s.sch.reqs rid }).turnPorts r.ports).unreserve r.ws
  let s := (s.releaseOldPins rid).trimPools
  let s := r.pages.foldl (fun t p => t.settle p (t.pageBusy p)) s
  s.settle (pgWs r.ws) (decide (0 < s.inflight r.ws))

/-- Objects a FREE waits for, whose last holder has ended: their tiles are released and the FREE ends with DONE
(R292). -/
def State.finishFrees (ids : List (Nat × Nat)) (s : State) : State :=
  ids.foldl (fun (t : State) wi => match t.objOf wi.1 wi.2 with
    | none => t
    | some o => match o.freedBy with
      | none => t
      | some f =>
        if t.sch.reqs.any (fun e => decide (e.2.ws = wi.1) && e.2.held.contains wi.2) then t
        else
          let t := t.releaseObj wi.1 wi.2
          match t.req f with
          | none => t
          | some fr => (t.dropReq f fr).finalRecord fr
              (finalOutcome fr.cls fr.deadline t.tick fr.overload) 0) s

/-- The ISE pages show the CAUSE of the last request that ended, and count its outcome (Table ISE-7). -/
def State.iseEnded (r : Req) (outcome cause : Nat) (s : State) : State :=
  (List.range 2).foldl (fun (t : State) e =>
    if r.est.any (fun c => c.1 == 12 + e) then
      (let t := t.wr (ISE.LAST_STATUS_CAUSE e) cause
       let t := if outcome = ocNumericNan then t.inc (ISE.NAN_CNT e) else t
       if outcome = ocZeroPivot then t.inc (ISE.PIVOT_CNT e) else t)
    else t) s

/-- Of two causes that would end a request in one tick the one whose code prevails; of one code the first (R18). -/
def Ending.prevail (e : Ending) : Option Ending → Ending
  | none => e
  | some o => if ocWorse o.outcome e.outcome = o.outcome then o else e

/-- A cause ends a request in this tick. Its record is written at the tick's end, when no other cause of the tick can prevail any
more (R18, R225). -/
def State.endAs (rid : Nat) (e : Ending) (s : State) : State :=
  s.modReq rid (fun r => { r with ends := some (e.prevail r.ends) })

/-- A request ends with an outcome and a cause. `rep` is the open report its outcome belongs to. -/
def State.endFor (rep : Option Nat) (rid outcome cause : Nat) (s : State) : State :=
  s.endAs rid { rep := rep, outcome := outcome, cause := cause, endTick := none }

/-- A report counts a request it ended, if it was admitted before the report's tick (R644); the first workspace affected is the
report's (Table FLT-6). -/
def State.reportEnds (rep : Option Nat) (r : Req) (s : State) : State :=
  match rep with
  | none => s
  | some q => match mapFind s.flt.opens q with
    | none => s
    | some p => { s with flt := { s.flt with opens := mapInsert s.flt.opens q { p with
        reqCount := p.reqCount + b2n (decide (r.admitTick < p.tick)), ws := (if p.ws = 0xFF then r.ws else p.ws) } } }

/-- A request that a cause of this tick ends is over (R17, R292, R293, R308): its record is written, its completion events
fire, and what it held is released. -/
def State.finish (rid : Nat) (s : State) : State :=
  match mapFind s.sch.reqs rid with
  | none => s
  | some r => match r.ends with
    | none => s
    | some e =>
      let s := s.guestCancel rid
      let s := (s.dropLoad r).dropReq rid r
      let s := (s.writeRecord r.ws r.irq (reqRecord r e.outcome e.cause (e.endTick.getD s.tick))).countOutcome r.cls e.outcome
      let s := s.iseEnded r e.outcome e.cause
      let s := r.sources.foldl (fun t i => t.fire i r.ws) s
      (s.reportEnds e.rep r).finishFrees (r.held.map (fun id => (r.ws, id)))

/-- Every request that a cause has ended is over. -/
def State.finishAll (s : State) : State :=
  (mapKeys (fun _ r => r.ends.isSome) s.sch.reqs).foldl (fun t rid => t.finish rid) s

/-- A request ends (no fault report counts it). -/
def State.endReq (rid outcome cause : Nat) (s : State) : State := s.endFor none rid outcome cause

/-- Every request for which p holds ends with one outcome. -/
def State.endWhere (rep : Option Nat) (p : Nat → Req → Bool) (outcome cause : Nat) (s : State) : State :=
  (mapKeys p s.sch.reqs).foldl (fun t rid => t.endFor rep rid outcome cause) s

/-! ### Fetches that end -/

/-- A slot that a fetch leaves without its tile: freed, or empty again where a plan has pinned it (R268, R351). -/
def State.vacate (a : Nat) (s : State) : State :=
  match mapFind s.ck.slots a with
  | none => s
  | some e => if e.pin.isSome then s.modSlot a (fun x => { x with obj := noObj, tile := 0, dirty := false, lost := false })
    else s.dropSlot a

/-- A tile has come in: each request preempted while it waited, whose span has passed, ends when it next needs the tile (R269). -/
def State.markLate (f : Fetch) (s : State) : State :=
  f.waits.foldl (fun (t : State) w => t.modReq w.1 (fun r =>
    if r.phase = .waiting ∧ r.op ≠ opLoadPlan ∧ w.2 + t.lateLimit f.tier ≤ t.tick then { r with late := (f.obj, f.tile) :: r.late }
    else r)) s

/-- A fetch is over: its record is removed, and its slot is emptied unless the tile was installed. -/
def State.endFetch (fid : Nat) (keepSlot : Bool) (s : State) : State :=
  match mapFind s.ck.fetches fid with
  | none => s
  | some f =>
    let s := s.setCk { s.ck with fetches := mapErase s.ck.fetches fid }
    if keepSlot then s.markLate f
    else match f.dest with
      | none => s
      | some a => s.vacate a

/-- The input of a request's MERGE step that a fetch from a peer's window serves: the cell fabric marks it failed where the
window is lost (R432). -/
def State.mergeInput (s : State) (rid : Nat) (f : Fetch) : Option Nat :=
  match s.req rid with
  | none => none
  | some r => match r.steps, regionOf s.part f.src with
    | .merge _ _ _ n inObj _ :: _, .peer _ =>
      firstIdx (fun j => decide ((if inObj = 0 then r.objA else inObj) + j = f.obj)) (List.range n)
    | _, _ => none

/-- A request's span on a fetch ends in this tick or has ended, with the tile not in, and the request is not preempted (R266, R269). -/
def State.spanOver (s : State) (f : Fetch) (w : Nat × Nat) : Bool :=
  decide (w.2 + s.lateLimit f.tier ≤ s.tick) && (match mapFind s.sch.reqs w.1 with
    | some r => r.phase != .waiting || r.op == opLoadPlan
    | none => false)

/-- A request that waits on a failed fetch ends; where its span ends in the same tick, TIER_LATE is a cause too (R18, R269). -/
def State.endWait (f : Fetch) (rep : Option Nat) (outcome : Nat) (w : Nat × Nat) (s : State) : State :=
  let late := s.spanOver f w
  let s := s.endFor rep w.1 outcome 0
  if late then s.endReq w.1 ocTierLate 0 else s

/-- A fetch fails: only the requests waiting on it end (R244, R267, R268). -/
def State.failCheck (fid outcome : Nat) (rep : Option Nat) (s : State) : State :=
  match mapFind s.ck.fetches fid with
  | none => s
  | some f => f.waits.foldl (fun (t : State) w => t.endWait f rep outcome w) (s.endFetch fid false)

/-- A fetch fails because its tier does; of a MERGE step an input from a peer is failed (R432). -/
def State.failFetch (fid outcome : Nat) (rep : Option Nat) (s : State) : State :=
  match mapFind s.ck.fetches fid with
  | none => s
  | some f =>
    let s := s.endFetch fid false
    f.waits.foldl (fun (t : State) w =>
      match (if outcome = ocTierFailed then t.mergeInput w.1 f else none) with
      | some j => t.modReq w.1 (fun q => { q with failedIns := j :: q.failedIns })
      | none => t.endWait f rep outcome w) s

/-- The fetches and the DMAs that read from the guest's window fail (R273). -/
def State.guestFetchesFail (s : State) : State :=
  (mapKeys (fun _ f => decide (regionOf s.part f.src = .guest)) s.ck.fetches).foldl
    (fun t fid => t.failFetch fid ocTierFailed none) (s.endWhere none (fun _ r => r.guestRead.isSome) ocTierFailed 0)

/-- What a step that needs tiles does with the answer: go on, wait, or end the request. -/
def State.needThen (rid : Nat) (a : Need × State) (go : State → State) : State :=
  match a with
  | (.here, t) => go t
  | (.fetching, t) => t
  | (.ends oc c, t) => t.endReq rid oc c

end Sys2Proof.Machine
end

