-- ==== Sys2Proof/Machine/Reaction.lean ====
section
/-! DEFINITION. Detections and reactions: error records, fault reports and their relation, fencing and draining, DEV
entering FAULTED, a link fatal (R106, R220, R221, R229 to R231, R631 to R649, R660). -/

namespace Sys2Proof.Machine

/-! ### Error records (R106, R631) -/

/-- A corrected error of a block. -/
def State.corrected (page : Nat) (s : State) : State :=
  (s.inc (HDR.ERR_CNT_CORR page)).raiseIrq page irqErrCorr

/-- ERR_REC_C and ERR_REC_D of a detection (Table FLT-4): the word's address, or, where no address applies, a detail the
spec does not state; the ECC syndrome of MECH 0x01 to 0x03, whose code it does not give (free values, log entry 40). -/
def State.recordWords (mech ws : Nat) (addr : Option Nat) (s : State) : (Nat × Nat) × State :=
  let (a, s) := match addr with
    | some a => (a % 2 ^ 48, s)
    | none => s.freeBits 48
  let (syn, s) := if 1 ≤ mech ∧ mech ≤ 3 then s.freeBits 8 else (0, s)
  ((a % 2 ^ 32, a / 2 ^ 32 + (if ws ≤ 63 then ws else 0x7F) * 2 ^ 16 + syn * 2 ^ 24), s)

/-- The words of an error record (Table FLT-4). -/
def State.errRec (page : Nat) (ws : List Nat) (s : State) : State :=
  (List.range 4).foldl (fun (t : State) i => t.wr (HDR.ERR_REC page i) (ws.getD i 0)) s

/-- An uncorrected error of a block is counted, and captured while none is held (R106); c and d are ERR_REC_C and D. The first of a
tick that finds a record held is kept until the tick ends, for a clear in the same tick. An ERR_UNCORR that IRQ_FORCE has set holds off the
capture as one of an error does (DESIGN CHOICE, log entry 105). -/
def State.capture (mech cls page sub c d : Nat) (s : State) : State :=
  let s := s.inc (HDR.ERR_CNT_UNCORR page)
  let ws := [mech % 256 + cls % 8 * 2 ^ 8 + sub % 2 ^ 16 * 2 ^ 16, s.tick, c, d]
  let s :=
    if s.bitOn (HDR.IRQ_STAT page) irqErrUncorr then
      (if (mapFind s.flt.missed page).isSome then s
       else { s with flt := { s.flt with missed := mapInsert s.flt.missed page ws } })
    else s.errRec page ws
  s.raiseIrq page irqErrUncorr

/-- A write of IRQ_STAT that clears ERR_UNCORR re-arms the capture; an error that came earlier in the tick of the clear is
captured (R106). -/
def State.recapture (page v : Nat) (s : State) : State :=
  match (if bit v irqErrUncorr then mapFind s.flt.missed page else none) with
  | none => s
  | some ws => ({ s with flt := { s.flt with missed := mapErase s.flt.missed page } } : State).errRec page ws

/-! ### Reports (R643 to R649) -/

/-- The Facet of a Facet sub-page or of its Cf link. -/
def facetOfPage (page : Nat) : Option Nat :=
  if 0x040 ≤ page ∧ page ≤ 0x05F then some ((page - 0x040) / 8)
  else if 0x020 ≤ page ∧ page ≤ 0x023 then some (page - 0x020) else none

/-- The quadrant of a Casket quadrant's page or of an HBM controller's. -/
def storeQuad (page : Nat) : Option Nat :=
  if 0x011 ≤ page ∧ page ≤ 0x014 then some (page - 0x011)
  else if 0x0A0 ≤ page ∧ page ≤ 0x0A3 then some (page - 0x0A0) else none

/-- Mechanisms that find a fault in what a block has read; those of clocks, supplies, heat, links, lockstep and audit do not
(Table FLT-2). -/
def mechReads (mech : Nat) : Bool := decide (mech ≤ 3) || (decide (8 ≤ mech) && decide (mech < 0x10))

/-- Two pages are related (R643): the same page; pages of one Facet, at least one of them a sub-page; a store and a block
homed on it that read from it. -/
def pagesRelated (reads : Bool) (p q : Nat) : Bool :=
  decide (p = q)
    || (match facetOfPage p, facetOfPage q with
        | some f, some g => decide (f = g) && (decide (0x040 ≤ p) || decide (0x040 ≤ q))
        | _, _ => false)
    || (reads && ((match storeQuad p, homeQuad q with
        | some a, some b => decide (a = b)
        | _, _ => false)
    || (match storeQuad q, homeQuad p with
        | some a, some b => decide (a = b)
        | _, _ => false)))

/-- The event source of a mechanism (R648). -/
def sourceOfMech (mech : Nat) : Nat :=
  if mech = 0x04 then 1 else if mech = 0x12 then 2 else if mech = 0x11 then 3 else if mech = 0x10 then 4
  else if mech = 0x06 ∨ mech = 0x07 then 5 else if mech = 0x13 then 6 else if mech = 0x14 then 7 else 0

/-- The 32-bit words of a report (Table FLT-6). -/
def Report.words (r : Report) (isOpen : Bool) : List Nat :=
  [r.tick % 2 ^ 32, r.tick / 2 ^ 32 % 2 ^ 32,
   r.mech % 256 + r.cls % 8 * 2 ^ 8 + r.page % 1024 * 2 ^ 16,
   r.sub % 2 ^ 16 + r.ws % 256 * 2 ^ 16 + Nat.lor (r.flags % 256) (if isOpen then 32 else 0) * 2 ^ 24,
   r.reqCount % 2 ^ 32, r.merged % 2 ^ 16 + r.seq % 2 ^ 16 * 2 ^ 16, r.info0 % 2 ^ 32, r.info1 % 2 ^ 32]

/-- The 32 bytes of a closed report as the log holds it: OPEN is in the registers only (Table FLT-6). -/
def Report.bytes (r : Report) : List Byte := (r.words false).flatMap (fun w => leBytes 4 w)

/-- The words of a report shown in a run of eight registers. -/
def State.showReport (f : Nat → FRef) (ws : List Nat) (s : State) : State :=
  (List.range 8).foldl (fun t i => t.wr (f i) (ws.getD i 0)) s

/-- FAULT_N follows DEV and FAULT_N_MODE (R649). -/
def State.syncPin (s : State) : State := s.wr DEV.FAULT_PIN (b2n (s.devFaulted || s.flt.pinHeld))

/-- Every admitted request ends with FAULT_DETECTED: the management path can no longer be trusted (R634). -/
def State.endAll (rep : Option Nat) (s : State) : State :=
  s.endWhere rep (fun _ _ => true) ocFaultDetected 0

/-- DEV enters FAULTED under a report (R632, R637, R649). Requests of the guest that this ends are cancelled as they end (R216, R634). -/
def State.devFault (mech seq : Nat) (s : State) : State :=
  if s.devFaulted then s
  else
    let s := s.goto 0x000 .faulted causeFault
    let s := (s.wr DEV.DEV_CAUSE_MECH mech).wr DEV.DEV_CAUSE_SEQ (seq % 2 ^ 16)
    s.syncPin

/-- CORR_WINDOW and REPEAT_MAX as they count. -/
def State.corrWindow (s : State) : Nat := atLeast1 (s.rd BZ_FAULT.CORR_WINDOW)
def State.repeatMax (s : State) : Nat := atLeast1 (s.rd BZ_FAULT.REPEAT_MAX)

/-- The open report a detection on a page joins (R643). -/
def State.joinable (s : State) (mech page : Nat) : Option Nat :=
  (s.flt.opens.find? (fun e => pagesRelated (mechReads mech && mechReads e.2.mech) e.2.page page && decide (s.tick < e.2.tick + s.corrWindow))).map (·.1)

/-- Every open report carries CONCURRENT. -/
def State.markConcurrent (s : State) : State :=
  { s with flt := { s.flt with opens := mapAll (fun _ r => { r with flags := Nat.lor r.flags 4 }) s.flt.opens } }

/-- The state with its fault collector replaced. -/
def State.setFlt (s : State) (f : Flt) : State := { s with flt := f }

/-- A new report opens: it is numbered, counted by class, shown in LAST_REPORT and, if armed, FIRST_REPORT; REPORT is
raised; and its one E0 source fires (R643 to R645, R648). -/
def State.openReport (mech cls page sub ws c d detail : Nat) (s : State) : Nat × State :=
  let s := s.inc BZ_FAULT.REPORT_CNT
  let q := s.rd BZ_FAULT.REPORT_CNT
  let others := s.flt.opens.any (fun e => decide (s.tick < e.2.tick + s.corrWindow))
  let s := if others then s.markConcurrent else s
  let flags := b2n s.sentinel + 2 * b2n (s.on BZ_FAULT.GUARANTEE_OK) + 4 * b2n others
  let r : Report := {
    tick := s.tick, mech := mech, cls := cls, page := page, sub := sub, ws := (if ws ≤ 63 then ws else 0xFF),
    flags := flags, reqCount := 0, merged := 0, seq := q, info0 := c, info1 := d }
  let s := s.setFlt { s.flt with opens := mapInsert s.flt.opens q r }
  let s := if cls = 1 then s.inc BZ_FAULT.C1_CNT else if cls = 2 then s.inc BZ_FAULT.C2_CNT else s.inc BZ_FAULT.C3_CNT
  let s := s.showReport BZ_FAULT.LAST_REPORT (r.words true)
  let s := if s.flt.firstHeld then s
    else (s.setFlt { s.flt with firstHeld := true }).showReport BZ_FAULT.FIRST_REPORT (r.words true)
  let s := s.raiseIrq 0x003 0
  let s := s.fire (sourceOfMech mech) detail
  let s := if cls ≤ 2 ∧ s.on BZ_FAULT.FAULT_N_MODE then s.setFlt { s.flt with pinHeld := true } else s
  (q, s.syncPin)

/-- The state with an open report changed. -/
def State.modReport (q : Nat) (f : Report → Report) (s : State) : State :=
  { s with flt := { s.flt with opens := mapModify f s.flt.opens q } }

/-- The detail an E0 source carries for a mechanism (Table TCK-1, R648). -/
def detailOfMech (mech page sub : Nat) : Nat :=
  if mech = 0x04 ∨ mech = 0x10 ∨ mech = 0x11 ∨ mech = 0x12 then sub
  else if mech = 0x14 then 0 else page

/-! ### Fencing (R79, R86, R146, R314, R639, R642) -/

/-- C3 to the guest is fenced or FAULTED: every entry of the work ring is freed, no packet waits for it, and the tiles being read from its
window fail (R216, R273). -/
def State.guestFree (page : Nat) (s : State) : State :=
  if page = pgCl 3 ∧ s.part = .pmx7241 then
    (s.setGuest { s.guest with work := [], waiting := [] }).guestFetchesFail
  else s

/-- Facets behind a link, one bit each: Cf reaches Ff; a side link joins two. -/
def facetsOfLink (l : Nat) : Nat :=
  if l < 4 then 2 ^ l else if l = 4 then 3 else if l = 5 then 6 else if l = 6 then 12 else 9

/-- The links that an exchange among a set of Facets uses: their own and the side links that join two of them (R33, R334). -/
def linksOfSet (set : Nat) : List Nat := (List.range 8).filter (fun l => Nat.land (facetsOfLink l) set == facetsOfLink l)

/-- A request's step exchanges partial sums over a link (R314, R333, R334). -/
def Req.exchangesOver (r : Req) (l : Nat) : Bool :=
  match r.phase, r.steps with
  | .running, .phase set _ _ true _ _ _ _ _ :: _ => (linksOfSet set).contains l
  | _, _ => false

/-- A unit is fenced in this tick: its requests end with an outcome, its ports are released, its lent Locket is
reclaimed, and an injection of AUDIT_INJ into it ends (Table WK-7). A block in OFF, FENCED or FAULTED is not fenced again (R80), but
one that software has disabled in this tick is (R87), and so is one that the wake under way would make READY (Table CLS-8, log
entry 79). -/
def State.fence (page cause outcome : Nat) (rep : Option Nat) (s : State) : State :=
  let b := s.blk page
  if b.st.live || (b.st == .off && decide (b.cause = causeSoftware) && decide (b.entry = s.tick) && decide (0 < s.tick))
      || (b.st == .off && decide (2 ≤ s.pm) && s.on (HDR.BLK_CTRL_ENABLE page)) then
    let s := s.goto page .fenced cause
    let s := s.setBlk page { s.blk page with report := rep, drained := false }
    let s := if s.rd WK_SCHED.AUDIT_INJ_PAGE = page then s.wr WK_SCHED.AUDIT_INJ_EN 0 else s
    let s := s.endWhere rep (fun _ r => r.est.any (fun e => unitPage (pageOfUnit e.1) == unitPage page)
      || (decide (0x024 ≤ page) && decide (page ≤ 0x027) && r.exchangesOver (page - 0x020))) outcome 0x02
    (s.guestFree page).syncLent
  else s

/-- A block takes an uncorrected fault attributed to it: FAULTED, from any state but FAULTED (R80, R86, R638). Its
requests in flight end with FAULT_DETECTED (Table FLT-3). -/
def State.faultBlock (page : Nat) (isLocal : Bool) (rep : Option Nat) (s : State) : State :=
  if s.bst page == .faulted then s
  else
    let s := s.goto page .faulted causeFault
    let s := s.setBlk page { s.blk page with faultLocal := isLocal }
    let s := s.endWhere rep (fun _ r => r.est.any (fun e => unitPage (pageOfUnit e.1) == unitPage page))
      ocFaultDetected 0
    (s.guestFree page).syncLent

/-- Units the repeat rule fences: pages audited, the HBM controllers left out (R636, R312). -/
def repeatUnit (page : Nat) : Bool :=
  (decide (0x040 ≤ page) && decide (page ≤ 0x05F)) || [0x068, 0x069, 0x060, 0x061, 0x070, 0x071, 0x078].contains page
    || (decide (0x020 ≤ page) && decide (page ≤ 0x027))

/-- A class C1 report is attributed to a unit while SENTINEL is 1; the REPEAT_MAX-th within REPEAT_WINDOW ticks fences it
with CAUSE 0x07, and that report carries REPEAT_FENCE (R636). -/
def State.repeatRule (page q : Nat) (s : State) : State :=
  if s.sentinel then
    let u := unitPage page
    let hist := (u, s.tick) :: s.flt.c1
    let s : State := { s with flt := { s.flt with c1 := hist } }
    let n := (hist.filter (fun e => decide (e.1 = u) && decide (s.tick < e.2 + s.rd BZ_FAULT.REPEAT_WINDOW))).length
    if decide (s.repeatMax ≤ n) && repeatUnit u && (s.bst u).live then
      (s.modReport q (fun r => { r with flags := Nat.lor r.flags 16 })).fence u causeSentinel ocUnitOffline (some q)
    else s
  else s

/-- A detection: the block's error record, and a report opened or joined (R106, R643). The number of the report is
answered. What the fault ends comes first, since its outcome is the highest (R18); then class C1 counts towards the repeat rule,
and class C3 makes DEV FAULTED (Table FLT-3). -/
def State.detectThen (mech cls page sub ws : Nat) (addr : Option Nat) (ends : Nat → State → State) (s : State) :
    Nat × State :=
  let ((c, d), s) := s.recordWords mech ws addr
  let s := s.capture mech cls page sub c d
  match s.joinable mech page with
  | some q =>
    let s := ends q (s.modReport q (fun r => { r with merged := satBits 16 (r.merged + 1) }))
    (q, if cls = 3 then s.devFault mech q else s)
  | none =>
    let (q, s) := s.openReport mech cls page sub ws c d (detailOfMech mech page sub)
    let s := ends q s
    let s := if cls = 1 then s.repeatRule page q else s
    let s := if cls = 3 then s.devFault mech q else s
    (q, s)

/-- A detection that by itself ends nothing more. -/
def State.detect (mech cls page sub ws : Nat) (addr : Option Nat) (s : State) : Nat × State :=
  s.detectThen mech cls page sub ws addr (fun _ t => t)

/-- A detection of class C1 that spoils requests: each ends with FAULT_DETECTED (R632, R633). -/
def State.detectAll (mech page sub : Nat) (rids : List Nat) (s : State) : State :=
  let w := match rids.findSome? s.req with
    | some r => r.ws
    | none => 0x7F
  (s.detectThen mech 1 page sub w none (fun q t =>
    rids.foldl (fun (u : State) r => u.endFor (some q) r ocFaultDetected 0) t)).2

/-- A detection of class C1 that spoils one request (R632, R633). -/
def State.detectC1 (mech page sub rid : Nat) (s : State) : State := s.detectAll mech page sub [rid]

/-! ### Link fatal (R221, R226, R230, R231, R337) -/

/-- The link is C3 to the guest. -/
def State.isGuestLink (s : State) (l : Nat) : Bool := decide (s.part = .pmx7241) && decide (l = 3)

/-- LINK_STAT.STATE codes. -/
def lsDown : Nat := 0
def lsTraining : Nat := 1
def lsUp : Nat := 2
def lsReplaying : Nat := 3
def lsL1 : Nat := 4
def lsFatal : Nat := 5

/-- A link enters FATAL with its cause and lane: source 5 and one report; requests with a transaction on it, and those on
units reached only through it, end with LINK_FATAL; and the reaction of Table CLS-8. On C3 to the guest the fault is block-local (R80, R221,
R226, R229, R230, R633). -/
def State.linkFatal (l mech failCause failLane : Nat) (s : State) : State :=
  let p := pgCl l
  if s.rd (CL.LINK_STAT_STATE l) = lsFatal then s
  else
    let s := (s.wr (CL.LINK_STAT_STATE l) lsFatal).wr (CL.LINK_STAT_FAIL_CAUSE l) failCause
    let s := s.wr (CL.LINK_STAT_FAIL_LANE l) failLane
    let s := (s.wr64 (CL.FATAL_TICK_LO l) (CL.FATAL_TICK_HI l) s.tick).raiseIrq p 2
    let g := s.isGuestLink l
    let txnRids := (s.lnk l).txns.filterMap (·.rid)
    let reads := ((s.lnk l).txns.filterMap (·.fetch)).eraseDups
    let s := s.setLnk l { s.lnk l with
      txns := [], unacked := [], txWait := [], replaying := false, rxHold := false
      burstsLeft := (if failCause = 2 then 2 else 0) }
    let (q, s) := s.detect mech (if g then 2 else 3) p (if failLane < 256 then failLane else 0xFFFF) 0x7F none
    let s := if s.bst p == .faulted then s
      else let s := s.goto p .faulted causeFault
        s.setBlk p { s.blk p with faultLocal := g }
    let fs := facetsOfLink l
    let s := s.endWhere (some q)
      (fun rid r => txnRids.contains rid
        || r.est.any (fun e => if e.1 < 8 then bit fs (e.1 % 4) && !g else decide (e.1 = 16) && g)) ocLinkFatal 0
    let s := reads.foldl (fun t fid => t.failCheck fid ocLinkFatal (some q)) s
    if g then s.guestFree p
    else (setBitsBelow 4 fs).foldl (fun t f => t.fence (pgFct f 0) causeLink ocLinkFatal (some q)) s

/-! ### Memory errors (R633, R635) -/

/-- A tile that holds an uncorrectable word (R635): a clean copy is dropped; any other tile is marked LOST and counted. -/
def State.spoil (a : Nat) (s : State) : State :=
  let s := if (mapFind s.ck.lent (a / tileSize * tileSize)).isSome then
      s.setCk { s.ck with lent := mapErase s.ck.lent (a / tileSize * tileSize) }
    else s
  match mapFind s.ck.slots (a / tileSize * tileSize) with
  | none => s
  | some e =>
    if e.copy && !e.dirty then s.dropSlot (a / tileSize * tileSize)
    else (s.modSlot (a / tileSize * tileSize) (fun x => { x with lost := true })).inc CK_QUOTA.LOST_CNT

/-- The injected error of the next read of a store: 0 none, 1 correctable, 2 uncorrectable; the field clears itself when
used (Tables CK-7, CK-13, FCT-10). -/
def State.takeInj (f : FRef) (s : State) : Nat × State :=
  let v := s.rd f
  if v = 0 then (0, s) else (v, s.wr f 0)

/-- The injection field and the page of the store an address lies in. -/
def storeOf (a : Nat) : FRef × Nat :=
  if a < hbmSize then (HBM.INJ_ECC (a / stackSize), pgHbm (a / stackSize))
  else if inCasket a 1 then (CK_CTRL.INJ_ECC, 0x011 + quadOf a)
  else (FCT3.INJ_ECC ((a - 0x0200_0000_0000) / 0x0010_0000_0000 % 4),
    pgFct ((a - 0x0200_0000_0000) / 0x0010_0000_0000 % 4) 3)

/-- An address lies in a memory of the package that SECDED covers (Table FLT-2). -/
def inPackage (part : Part) (a : Nat) : Bool :=
  match regionOf part a with
  | .hbm => true
  | .casket => true
  | .locket _ => true
  | .alias_ _ => true
  | _ => false

/-- A read of a store by the device: a correctable error is counted; an uncorrectable one is a class C1 detection under a
mechanism, with the tile spoiled; the report is answered (R626, R633, R635). HBM not yet zeroed is not checked (R133). -/
def State.eccRead (mech a ws : Nat) (s : State) : Option Nat × State :=
  let (f, page) := storeOf a
  let (v, s) := if s.unzeroed a || !inPackage s.part a then (0, s) else s.takeInj f
  if v = 0 then (none, s)
  else if v = 1 then (none, s.corrected page)
  else
    let (q, s) := s.detect mech 1 page (if inCasket a 1 then quadOf a else 0xFFFF) ws (some a)
    (some q, s.spoil a)

end Sys2Proof.Machine
end

