-- ==== Sys2Proof/Machine/Access.lean ====
section
/-! DEFINITION. Who reaches which register page and how the page answers there: requesters, presence, boot, power-gating
and sleep (R69, R71, R88, R91, R126, R135, R284, R609). -/

namespace Sys2Proof.Machine

/-- A requester's number, for state kept per requester (R67). -/
def rqCode : Requester → Nat
  | .bezel => 0
  | .tap => 1
  | .mspi => 2
  | .pf => 3
  | .vf n => 4 + n

/-- The pages a requester reaches (Table REG-2). -/
def rqReaches (rq : Requester) (page : Nat) : Bool :=
  match rq with
  | .vf n => decide (1 ≤ n) && decide (n ≤ 63) && decide (page = 0x100 + n)
  | _ => true

/-- A requester is a virtual function. -/
def rqIsVf : Requester → Bool
  | .vf _ => true
  | _ => false

/-- How a page answers an access now. -/
inductive Serve where
  /-- As the tables say. -/
  | full
  /-- Reads as the tables say; writes are ignored (R663). -/
  | readOnly
  /-- Identity and BLK_STATE from the shadow, every other offset 0, writes ignored (R88). -/
  | shadow
  /-- Reads 0, ignores writes (R5, R62, R609). -/
  | nothing
deriving DecidableEq, Repr

/-- Boot has ended, or ended in FAILED, with the device powered: pages other than the always-on ones answer (R147, R609). -/
def State.booted (s : State) : Bool := decide (8 ≤ s.stage) && !s.pwr.tripped

/-- How a page answers (R62, R88, R91, R135, R147, R609, R663). -/
def State.serve (s : State) (page : Nat) : Serve :=
  if !pagePresent s.part page then .nothing
  else if alwaysOn page then .full
  else if !s.booted then .nothing
  else if decide (2 ≤ s.pm) then .shadow
  else if s.pwr.entry.isSome && (s.bst (ownerPage page) == .off) then .readOnly
  else .full

/-- A write to a page other than an always-on one leaves DOZE: AWAKE reads two ticks later (R126, R663). -/
def State.leaveDoze (s : State) : State :=
  if s.pm == 1 && s.pwr.entry.isNone && s.pwr.dozeExit.isNone then
    (({ s with pwr := { s.pwr with dozeExit := some (s.tick + 2) } } : State).wr BZ_PM.PM_STATE_IN_TRANSITION 1).wr
      BZ_PM.PM_STATE_TARGET 0
  else s

/-- A write by a requester to a page: carried out where the page answers it, else ignored and counted as Table TCK-8 and
R609 say. -/
def State.access (rq : Requester) (page : Nat) (eff : State → State) (s : State) : State :=
  if !rqReaches rq page then s
  else match s.serve page with
    | .full => eff (if alwaysOn page then s else s.leaveDoze)
    | .readOnly => s.inc BZ_PM.ASLEEP_ACCESS_CNT
    | .shadow => s.inc BZ_PM.ASLEEP_ACCESS_CNT
    | .nothing => if rq = .mspi && !s.booted && pagePresent s.part page then s.inc MSPI.IGNORED_CNT else s

/-- A write to an expert field: carried out while the page is unlocked, else ignored and counted (R65). -/
def State.expert (page : Nat) (eff : State → State) (s : State) : State :=
  if s.unlocked page then eff s else s.blocked page

/-- A write to a field that only the physical function sets: ignored and counted from a virtual function (R284). -/
def State.pfOnly (rq : Requester) (page : Nat) (eff : State → State) (s : State) : State :=
  if rqIsVf rq then s.blocked page else eff s

end Sys2Proof.Machine
end

