-- ==== Sys2Proof/Machine/Clasp.lean ====
section
/-! DEFINITION. Clasp: the links between the dies, their framing, replay and timeouts, the guest's negotiation, requests
and work, the lane monitor and the lane test (R196 to R236). -/

namespace Sys2Proof.Machine

/-- Modules a link is built with (R235). -/
def linkModules (l : Nat) : Nat := if l < 4 then 4 else 2

/-- The link carries traffic. -/
def State.linkUp (s : State) (l : Nat) : Bool :=
  s.rd (CL.LINK_STAT_STATE l) == lsUp || s.rd (CL.LINK_STAT_STATE l) == lsReplaying

/-- Effects on a link apply to links 0 to 7 that the part has running: S23 and S30 stay OFF on the PMX-7241 (R43). -/
def State.linkUsable (s : State) (l : Nat) : Bool :=
  decide (l < 8) && !(decide (s.part = .pmx7241) && (decide (l = 6) || decide (l = 7)))

/-- A link that retrains: work that needs it is held (R201). -/
def State.training (s : State) (l : Nat) : Bool := s.rd (CL.LINK_STAT_STATE l) == lsTraining

/-! ### Receiving, acknowledgement and replay (R202, R203, R206, R220, R221) -/

/-- One replay, in either direction: it is counted, and the link is REPLAYING; the ninth in any 4 consecutive ticks exhausts the
budget (R203, R220, R221). -/
def State.countReplay (l : Nat) (s : State) : State :=
  let k := s.lnk l
  let reps := match k.replays with
    | [] => [1]
    | n :: r => (n + 1) :: r
  let s := s.setLnk l { k with replays := reps }
  let n := (reps.take 4).foldl (· + ·) 0
  let s := ((s.inc (CL.REPLAY_CNT l)).wr (CL.LINK_STAT_REPLAY_WIN l) (satBits 8 n)).raiseIrq (pgCl l) 0
  let s := s.wr (CL.LINK_STAT_STATE l) lsReplaying
  if 8 < n then s.linkFatal l 0x06 2 0x1FF else s

/-- No replay is in progress in either direction: the link is UP again (Table CLS-9). -/
def State.replayEnds (l : Nat) (s : State) : State :=
  let k := s.lnk l
  if (s.rd (CL.LINK_STAT_STATE l) == lsReplaying) && !k.replaying && !k.rxHold then s.wr (CL.LINK_STAT_STATE l) lsUp else s

/-- The far end has received all up to `last`, where that is one of the unacknowledged; what waited for room is sent (R202, R206). -/
def State.ackTo (l last : Nat) (s : State) : State :=
  let k := s.lnk l
  match k.unacked with
  | [] => s
  | (first, _) :: _ =>
    let d := (last + s.seqMod l - first) % s.seqMod l
    if d < k.unacked.length then
      (let s := s.setLnk l { k with unacked := k.unacked.drop (d + 1), replaying := false }
       if s.isGuestLink l then s.sendWaiting else s.sendWaitingFrames l k.txWait.length)
    else s

/-- An acknowledgement: a replay in progress has succeeded (R202, R630). -/
def State.acked (l last : Nat) (s : State) : State := (s.ackTo l last).replayEnds l

/-- The sender resends from a SEQ, where it has something unacknowledged from there on (R203). -/
def State.replay (l from_ : Nat) (s : State) : State :=
  if !s.linkUsable l || !s.linkUp l then s
  else
    let k := s.lnk l
    let again := k.unacked.dropWhile (fun e => e.1 != from_)
    if again.isEmpty then s
    else (again.foldl (fun (t : State) e => t.wire l e.2 e.1) (s.setLnk l { k with replaying := true })).countReplay l

/-- A NAK: it acknowledges what comes before the SEQ it expects, and the sender resends from there (R203). -/
def State.naked (l expected : Nat) (s : State) : State :=
  (s.ackTo l ((expected + s.seqMod l - 1) % s.seqMod l)).replay l expected

/-- A frame or packet arrives: in sequence with a good CRC it is taken, else it and every later one is discarded until the
resend, and one NAK with the expected SEQ is sent, which starts a replay of the far end; a resend that fails its CRC in its turn is answered
with another (R203, R206, R220; log entry 106). -/
def State.receive (l seq bytes : Nat) (crcOk : Bool) (s : State) (take : State → State) : State :=
  let k := s.lnk l
  let s := if crcOk then s else s.inc (CL.CRC_ERR_CNT l)
  if crcOk ∧ seq = k.rxSeq then
    let since := k.rxSince + 1
    let s := s.setLnk l {
      k with rxSeq := (k.rxSeq + 1) % s.seqMod l, rxHold := false, rxSince := if 64 ≤ since then 0 else since }
    let s := (s.inc64 (CL.RX_BYTES_LO l) (CL.RX_BYTES_HI l) bytes).replayEnds l
    take (if 64 ≤ since then s.sendAnswer l (.ackFrame seq) else s)
  else if k.rxHold && (crcOk || decide (seq ≠ k.rxSeq)) then s
  else ((s.setLnk l { k with rxHold := true }).sendAnswer l (.nakFrame k.rxSeq)).countReplay l

/-- A sequenced packet of the guest, from its head and its payload (R204 to R208): a bad CRC or SEQ is a matter of replay; an unlisted
TYPE, a LEN above MAX_PKT or no multiple of 4, and a packet sent without credit are dropped and counted. -/
def State.guestPacket (h : PktHead) (isCpl : Bool) (len payload : Nat) (s : State) (take : State → State) : State :=
  if !(s.isGuestLink 3 && s.linkUp 3) then s
  else
    s.receive 3 h.seq payload h.crcOk (fun t =>
      let t := t.acked 3 h.ackSeq
      if !h.listed || !t.guest.holds isCpl payload then t.inc (CL.PROTO_ERR_CNT 3)
      else
        let t := t.takeCredits isCpl payload
        if t.guest.maxPkt < len ∨ len % 4 ≠ 0 then t.inc (CL.PROTO_ERR_CNT 3) else take t)

/-! ### Negotiation (R184, R209, R210, Table CLS-5) -/

/-- The first check of Table CLS-5 that a capability block fails; 0 when it passes all. -/
def capReject (sidebandOk : Bool) (modules : Nat) (b : List Byte) : Nat :=
  let pkt := fieldAt b 14 2
  let win := fieldAt b 16 8
  if !sidebandOk || !(modules == 1 || modules == 2 || modules == 4) then 1
  else if decide (fieldAt b 0 4 ≠ 0x4C42_5043) || decide (fieldAt b 60 4 ≠ crc32c (b.take 60))
      || decide (fieldAt b 36 24 ≠ 0) || decide (2 ≤ fieldAt b 7 1) || decide (b.length ≠ 64) then 2
  else if fieldAt b 5 1 ≠ 1 then 3
  else if 2 < fieldAt b 6 1 then 4
  else if fieldAt b 8 2 < 8 ∨ fieldAt b 10 2 < 8 ∨ fieldAt b 12 2 < 16 ∨ fieldAt b 12 2 < pkt / 64 then 5
  else if !([64, 128, 256, 512, 1024, 2048, 4096].contains pkt) then 6
  else if win % 0x1_0000 ≠ 0 ∨ win < 0x1_0000 ∨ 0x0010_0000_0000 < win then 7
  else 0

/-- Negotiation is rejected: C3 is fenced with CAUSE 0x05, CAP_STAT reads REJECTED with the code, the accepted block
reads 0 (R210); MODULES reads 0 after SIDEBAND (Table CLS-9). A block that is FENCED or FAULTED stays so (Table REG-5). LINK_STAT reads
DOWN (DESIGN CHOICE, log entry 105). -/
def State.capRejected (code : Nat) (s : State) : State :=
  let s := (s.wr (CL.CAP_STAT_NEG_STATE 3) 3).wr (CL.CAP_STAT_REJECT_CODE 3) code
  let s := (List.range 16).foldl (fun t i => t.wr (CL.CAP_BLOCK 3 i) 0) s
  let s := if code = 1 then s.wr (CL.LINK_CFG_MODULES 3) 0 else s
  let s := (s.setGuest { guestReset with gmapOld := s.guest.gmapOld }).setLnk 3 { s.lnk 3 with retrain := none }
  let s := s.wr (CL.LINK_STAT_STATE 3) lsDown
  (match s.bst (pgCl 3) with
   | .faulted => s
   | .fenced => s
   | _ => s.goto (pgCl 3) .fenced causeLink).raiseIrq (pgCl 3) 4

/-- Steps 1 and 2 of R209: the module count is fixed, and the link is up in packetised mode with the provisional credits and
MAX_PKT. -/
def State.comeUp (modules : Nat) (s : State) : State :=
  let s := (s.wr (CL.LINK_CFG_MODULES 3) modules).wr (CL.LINK_STAT_STATE 3) lsUp
  let s := s.setLnk 3 { linkReset with retrain := (s.lnk 3).retrain, testEnd := (s.lnk 3).testEnd }
  s.setGuest {
    guestReset with
    credReq := 8, credCpl := 8, credData := 16, hisReq := 8, hisCpl := 8, hisData := 16, gmapOld := s.guest.gmapOld }

/-- The block is accepted: CAP_GRANT with the Crown's credits and the guest's MAX_PKT; full credits apply from the packet after it; C3
is READY, out of OFF during boot (R205, R209, Table REG-5). -/
def State.capAccepted (b : List Byte) (s : State) : State :=
  let s := (s.wr (CL.CAP_STAT_NEG_STATE 3) 2).wr (CL.CAP_STAT_REJECT_CODE 3) 0
  let s := (List.range 16).foldl (fun t i => t.wr (CL.CAP_BLOCK 3 i) (fieldAt b (4 * i) 4)) s
  let pkt := fieldAt b 14 2
  let s := s.send 3 (.capGrant 128 128 2048 pkt)
  let s := s.setGuest {
    guestReset with
    accepted := true, cls := fieldAt b 6 1, timeSync := bit (fieldAt b 7 1) 0, maxPkt := pkt, winSize := fieldAt b 16 8
    credReq := fieldAt b 8 2, credCpl := fieldAt b 10 2, credData := fieldAt b 12 2
    hisReq := 128, hisCpl := 128, hisData := 2048, gmapOld := s.guest.gmapOld }
  let s := s.setLnk 3 { s.lnk 3 with retrain := none }
  (if (decide (1 ≤ s.stage) && decide (s.stage ≤ 7)) && (s.bst (pgCl 3) == .off) then s.goto (pgCl 3) .ready causeReset else s).raiseIrq (pgCl 3) 3

/-- Module counts a guest's link may have (Table CLS-1). -/
def guestModules (n : Nat) : Bool := n == 1 || n == 2 || n == 4

/-- CAP_DECL (R184, R209, R218): checked in the order of Table CLS-5 while negotiation is in progress, once the link is up; dropped and
counted after CAP_GRANT. -/
def execCapDecl (sidebandOk : Bool) (modules : CapHead) (block : List Byte) (s : State) :
    Host.Outcome State Fault Refusal :=
  .next (
    let h := modules.head
    if s.part = .pmx7240 then s
    else if s.rd (CL.CAP_STAT_NEG_STATE 3) = 2 then
      (if s.linkUp 3 then s.receive 3 h.seq block.length h.crcOk (fun t => t.inc (CL.PROTO_ERR_CNT 3)) else s)
    else if s.rd (CL.CAP_STAT_NEG_STATE 3) ≠ 1 then s
    else if !sidebandOk || !guestModules modules.modules then s.capRejected 1
    else
      let s := if s.linkUp 3 then s else s.comeUp modules.modules
      s.receive 3 h.seq block.length h.crcOk (fun t =>
        let c := capReject sidebandOk modules.modules block
        -- An accelerator guest needs 16 KiB for its work ring (R213); WIN_SIZE is at least 64 KiB, so it always has it.
        if c = 0 then t.capAccepted block else t.capRejected c))

/-- The tick in which the negotiation in progress began: with position 3 of FACETS, or with a RETRAIN (R184, Table REG-5). -/
def State.slotStart (s : State) : Option Nat :=
  if s.part = .pmx7240 ∨ s.rd (CL.CAP_STAT_NEG_STATE 3) ≠ 1 then none
  else if s.stage = 5 ∧ s.boot.facetsDone = 3 then some s.boot.stageTick
  else (s.lnk 3).retrain.map (·.1)

/-- GUEST_SLOT_TIMEOUT (R184, R210): the 8,000-tick slot ends without CAP_GRANT. -/
def execGuestSlotTimeout (s : State) : Host.Outcome State Fault Refusal :=
  .next (if s.slotStart.any (fun t => decide (t + 8000 ≤ s.tick)) then s.capRejected 8 else s)

/-- TICK_MESSAGE (R199, R200): in every tick that is a multiple of 1,000, from the guest's acceptance on (DESIGN CHOICE, log entry 105),
the sideband of C3 carries the tick number; the third in a row
without an answer ends the guest's time sync. -/
def execTickMessage (s : State) : Host.Outcome State Fault Refusal :=
  .next (
    if s.guest.accepted ∧ s.tick % 1000 = 0 then
      let miss := if s.guest.tickSent.isSome then s.guest.tickMiss + 1 else 0
      let g := { s.guest with
        tickMiss := miss, tickSent := some s.tick, timeSync := s.guest.timeSync && decide (miss < 3) }
      (s.setGuest g).emit (.link 3 (.sideband codeTick s.tick) 0 0 false)
    else s)

/-- The guest's time sync is supported: declared, and not lost with the third TICK in a row left unanswered for 4 ticks (R199, R200). -/
def State.guestSync (s : State) : Bool :=
  s.guest.timeSync && !(decide (2 ≤ s.guest.tickMiss) && s.guest.tickSent.any (fun t => decide (t + 4 < s.tick)))

/-- TICK_ACK (R199, R200): an answer that echoes the latest TICK within 4 ticks acknowledges it. -/
def execTickAck (echo : Nat) (s : State) : Host.Outcome State Fault Refusal :=
  .next (
    if s.guest.accepted ∧ s.guest.timeSync ∧ s.guest.tickSent = some echo ∧ s.tick ≤ echo + 4 then
      s.setGuest { s.guest with tickMiss := 0, tickSent := none }
    else s)

/-! ### Modes and retraining (R198, R201, R218, R235) -/

/-- The page is READY with DRAINED = 1. -/
def State.readyDrained (s : State) (page : Nat) : Bool := (s.bst page == .ready) && (s.blk page).drained

/-- A link begins to retrain to a mode. -/
def State.startTrain (l : Nat) (packetised : Bool) (s : State) : State :=
  (s.setLnk l { s.lnk l with retrain := some (s.tick, packetised) }).wr (CL.LINK_STAT_STATE l) lsTraining

/-- The effect of a write of MODE_FORCE on an unlocked page (R201): only a native link, READY with DRAINED = 1; the value in force
changes nothing. -/
def State.modeForce (l : Nat) (packetised : Bool) (s : State) : State :=
  if s.isGuestLink l || !s.linkUsable l || s.on (CL.MODE_FORCE l) == packetised then s
  else if s.readyDrained (pgCl l) then (s.wr (CL.MODE_FORCE l) (b2n packetised)).startTrain l packetised
  else s.reject (pgCl l)

/-- MODE_FORCE (R201). -/
def execModeForce (rq : Requester) (link : Nat) (packetised : Bool) (s : State) : Host.Outcome State Fault Refusal :=
  .next (s.access rq (pgCl link) (fun t => t.expert (pgCl link) (State.modeForce link packetised)))

/-- The effect of a write of RETRAIN on an unlocked page (R218, R235). On C3 of the PMX-7241 it starts a negotiation where a reset has
ended the one before. -/
def State.retrainLink (l : Nat) (s : State) : State :=
  if s.linkUsable l && s.readyDrained (pgCl l) then
    let s := s.startTrain l (s.on (CL.LINK_CFG_MODE l))
    if s.isGuestLink l ∧ s.rd (CL.CAP_STAT_NEG_STATE 3) = 0 then
      (s.setGuest { guestReset with gmapOld := s.guest.gmapOld }).wr (CL.CAP_STAT_NEG_STATE 3) 1
    else s
  else s.reject (pgCl l)

/-- RETRAIN (R235). -/
def execRetrain (rq : Requester) (link : Nat) (s : State) : Host.Outcome State Fault Refusal :=
  .next (s.access rq (pgCl link) (fun t => t.expert (pgCl link) (State.retrainLink link)))

/-- LINK_RETRAIN_COMPLETE (R198, R201, R209): within 5,000 ticks and with every module the link is built or declared with, it is UP in
its mode; else it is not brought up, and the failure is a link fatal with cause TRAIN. While the guest negotiates, it is step 1 of
the negotiation, whose slot is the limit. -/
def execLinkRetrainComplete (link modules : Nat) (s : State) : Host.Outcome State Fault Refusal :=
  .next (
    match (s.lnk link).retrain with
    | none => s
    | some (since, mode) =>
      if s.isGuestLink link && decide (s.rd (CL.CAP_STAT_NEG_STATE 3) ≠ 2) then
        (if guestModules modules then s.comeUp modules else s.capRejected 1)
      else
      let k := s.lnk link
      let s := s.setLnk link { linkReset with txns := k.txns, timedOut := k.timedOut, testEnd := k.testEnd }
      if decide (s.tick ≤ since + 5000)
          && decide (modules = (if s.isGuestLink link then s.rd (CL.LINK_CFG_MODULES 3) else linkModules link)) then
        let s := (s.wr (CL.LINK_CFG_MODE link) (b2n mode)).wr (CL.LINK_CFG_FORCED link) (b2n (mode && !s.isGuestLink link))
        (s.wr (CL.LINK_CFG_MODULES link) modules).wr (CL.LINK_STAT_STATE link) lsUp
      else s.linkFatal link 0x06 3 0x1FF)

/-! ### Framing and replay (R202, R203, R206, R220, R221) -/

/-- NATIVE_FRAME (R202, R203): its ACK_SEQ acknowledges, or in a NAK names the SEQ expected. -/
def execNativeFrame (link seq ackSeq : Nat) (nak crcOk : Bool) (s : State) : Host.Outcome State Fault Refusal :=
  .next (
    if s.linkUsable link && s.linkUp link && !s.on (CL.LINK_CFG_MODE link) then
      s.receive link seq 248 crcOk (fun t => if nak then t.naked link ackSeq else t.acked link ackSeq)
    else s)

/-- NAK (R203): the sender resends from the SEQ expected. -/
def execNak (link seq : Nat) (s : State) : Host.Outcome State Fault Refusal :=
  .next (if s.linkUsable link && s.linkUp link then s.naked link seq else s)

/-- ACK (R202). -/
def execAck (link seq : Nat) (s : State) : Host.Outcome State Fault Refusal :=
  .next (if s.linkUsable link && s.linkUp link then s.acked link seq else s)

/-- ACK_TIMEOUT_REPLAY (R203): no acknowledgement for 500 ns; the sender resends from its oldest unacknowledged frame. -/
def execAckTimeoutReplay (link : Nat) (s : State) : Host.Outcome State Fault Refusal :=
  .next (match (s.lnk link).unacked with
    | [] => s
    | e :: _ => s.replay link e.1)

/-! ### Guest requests (R205, R207, R208, R212, R217) -/

/-- An enabled GMAP window, as in force in this tick, that holds a whole range; for a write, one with WR = 1 (R212). -/
def State.gmapHolds (s : State) (a n : Nat) (write : Bool) : Bool :=
  s.guest.gmapOld.any (fun w => within a n w.1 w.2.1 && (!write || w.2.2))

/-- The GMAP windows as the CL_C3 page holds them: base, size in bytes, WR; the low 16 bits of a base are taken as 0
(R657). A window is a Casket region; one programmed elsewhere is none (R45, R212). -/
def State.gmapNow (s : State) : List (Nat × Nat × Bool) :=
  (((List.range 8).filter (fun m => s.on (CL.GMAP_CTRL_EN 3 m) && s.on (CL.GMAP_SIZE 3 m))).map (fun m =>
    (s.rd64 (CL.GMAP_BASE_LO 3 m) (CL.GMAP_BASE_HI 3 m) / 0x1_0000 * 0x1_0000, s.rd (CL.GMAP_SIZE 3 m) * 0x1_0000,
      s.on (CL.GMAP_CTRL_WR 3 m)))).filter (fun w => inCasket w.1 w.2.1)

/-- A guest request outside its windows: counted, with WIN_ERR raised (R212). -/
def State.winErr (s : State) : State := (s.inc (CL.WIN_ERR_CNT 3)).raiseIrq (pgCl 3) 5

/-- RD_REQ (R212): served from one enabled window, else answered UR; an uncorrectable word in what is read is answered ABORT (R633; DESIGN
CHOICE, log entry 107). -/
def execRdReq (seq : PktHead) (addr len tag : Nat) (s : State) : Host.Outcome State Fault Refusal :=
  .next (s.guestPacket seq false len 0 (fun t =>
    if t.gmapHolds addr len false then
      (match (t.readTo 3 addr len).eccRead 0x01 addr 0x7F with
       | (some _, u) => u.trySend (.cplData tag 2 [])
       | (none, u) => u.trySend (.cplData tag 0 (t.dpaRead addr len)))
    else t.winErr.trySend (.cplData tag 1 [])))

/-- WR_REQ (R212): written to one enabled window with WR = 1, else answered UR. -/
def execWrReq (seq : PktHead) (addr tag : Nat) (data : List Byte) (s : State) : Host.Outcome State Fault Refusal :=
  .next (s.guestPacket seq false data.length data.length (fun t =>
    if t.gmapHolds addr data.length true then (t.storeFrom 3 addr data).trySend (.cpl tag 0)
    else t.winErr.trySend (.cpl tag 1)))

/-- WR_POSTED (R212): as WR_REQ, without a completion. -/
def execWrPosted (seq : PktHead) (addr : Nat) (data : List Byte) (s : State) : Host.Outcome State Fault Refusal :=
  .next (s.guestPacket seq false data.length data.length (fun t =>
    if t.gmapHolds addr data.length true then t.storeFrom 3 addr data else t.winErr))

/-! ### Reads of the guest's window, responses and timeouts (R211, R222 to R224) -/

/-- The read requests of one tile in the guest's window: address and length of each (R204, R211). -/
def tileReads (maxPkt : Nat) : List (Nat × Nat) :=
  (List.range (ceilDiv tileSize maxPkt)).map (fun i => (i * maxPkt, clampNat 0 maxPkt (tileSize - i * maxPkt)))

/-- A fetch from the guest's window sends its read requests in the tick it is issued in, while the TAGs that come next are free; beyond the window's
declared size nothing is sent (R44, R204, R211). -/
def State.askGuest (fid : Nat) (s : State) : State :=
  match mapFind s.ck.fetches fid with
  | none => s
  | some f =>
    let g := s.guest
    let l := tileReads g.maxPkt
    if decide (regionOf s.part f.src ≠ .guest) || !f.asked.isEmpty || !g.accepted
        || decide (g.winSize < f.src - guestBase + tileSize) || decide (4096 < (s.lnk 3).txns.length + l.length)
        || (s.lnk 3).txns.any (fun x => decide ((x.tag + 4096 - g.rdTag) % 4096 < l.length)) then s
    else
      let tags := l.zipIdx.map (fun x => ((g.rdTag + x.2) % 4096, x.1))
      let s := s.setGuest { g with rdTag := (g.rdTag + l.length) % 4096 }
      let s := s.setCk { s.ck with
        fetches := mapModify (fun x => { x with asked := tags.map (fun t => (t.1, t.2.1)) }) s.ck.fetches fid }
      tags.foldl (fun (t : State) x => t.trySend (.rdReq (f.src + x.2.1) x.2.2 x.1 (some fid) none)) s

/-- The next read request of a DMA_OUT at an address in the guest's window, of MAX_PKT bytes at most, while the next TAG is free; nothing
is asked beyond the window's declared size (R44, R204, R211). -/
def State.askDmaPart (rid : Nat) (s : State) : State :=
  match s.req rid with
  | none => s
  | some r => match r.guestRead with
    | none => s
    | some g =>
      let off := r.objA % 2 ^ 64 - guestBase
      let len := clampNat 0 s.guest.maxPkt (clampNat 0 r.count (s.guest.winSize - off) - g.next)
      let tag := s.guest.rdTag
      if len = 0 ∨ !s.guest.accepted ∨ (s.lnk 3).txns.any (fun x => x.tag == tag) then s
      else
        let s := s.setGuest { s.guest with rdTag := (tag + 1) % 4096 }
        let s := s.modReq rid (fun q => { q with
          guestRead := some { g with next := g.next + len, asked := g.asked ++ [(tag, g.next)] } })
        s.trySend (.rdReq (guestBase + off + g.next) len tag none (some rid))

/-- The read requests of a DMA_OUT that can be sent now. -/
def State.askDma (rid : Nat) (s : State) : State :=
  let n := match s.req rid with
    | some r => if r.guestRead.isSome then clampNat 0 4096 (ceilDiv r.count 64) else 0
    | none => 0
  (List.range n).foldl (fun t _ => t.askDmaPart rid) s

/-- Every fetch and every DMA that reads the guest's window asks for what it has not asked for yet. -/
def State.guestReads (s : State) : State :=
  (s.sch.reqs.map (·.1)).foldl (fun t rid => t.askDma rid) ((s.ck.fetches.map (·.1)).foldl (fun t fid => t.askGuest fid) s)

/-- All that a DMA_OUT reads of the guest's window has come: its bytes, with 0 beyond the window's declared size. -/
def State.dmaGuest (s : State) (r : Req) : Option (List Byte) :=
  match r.guestRead with
  | none => none
  | some g =>
    let inside := clampNat 0 r.count (s.guest.winSize - (r.objA % 2 ^ 64 - guestBase))
    if inside ≤ g.next ∧ g.asked.all (fun a => (mapFind g.parts a.2).isSome) then some (padTo r.count (g.parts.flatMap (·.2))) else none

/-- A fetch with the data of one of its read requests. -/
def Fetch.withPart (tag : Nat) (data : List Byte) (f : Fetch) : Fetch :=
  match f.asked.find? (fun a => a.1 == tag) with
  | some a => { f with parts := mapInsert f.parts a.2 data }
  | none => f

/-- The data of one read request reach their fetch. -/
def State.fetchPart (fid tag : Nat) (data : List Byte) (s : State) : State :=
  s.setCk { s.ck with fetches := mapModify (fun f => f.withPart tag data) s.ck.fetches fid }

/-- The data of one read request reach the DMA that reads the guest's window. -/
def State.dmaPart (rid tag : Nat) (data : List Byte) (s : State) : State :=
  s.modReq rid (fun r => { r with guestRead := r.guestRead.map (fun g => match g.asked.find? (fun a => a.1 == tag) with
    | some a => { g with parts := mapInsert g.parts a.2 data }
    | none => g) })

/-- A response to a non-posted transaction: accepted while the transaction is outstanding; suppressed by INJ_RSP_DROP; a
response after its LINK_TIMEOUT is discarded and counted (R223). A response with UR or ABORT fails the tier it was read
from. -/
def State.response (l tag status : Nat) (data : List Byte) (s : State) : State :=
  if !s.linkUsable l || !s.linkUp l then s
  else if s.on (CL.INJ_RSP_DROP l) then s.wr (CL.INJ_RSP_DROP l) 0
  else
    let k := s.lnk l
    match k.txns.find? (fun x => x.tag == tag) with
    | none =>
      if k.timedOut.contains tag then
        (s.setLnk l { k with timedOut := k.timedOut.filter (fun x => x != tag) }).inc (CL.LATE_RSP_CNT l)
      else s
    | some x =>
      let s := s.setLnk l { k with txns := k.txns.filter (fun y => y.tag != tag) }
      match x.rid, x.fetch with
      | some rid, _ => if status = 0 then s.dmaPart rid tag data else s.endReq rid ocTierFailed 0
      | none, some fid => if status = 0 then s.fetchPart fid tag data else s.failFetch fid ocTierFailed none
      | none, none => s

/-- MAX_PKT of a link within the device that is forced to packetised mode (R197). -/
def forcedMaxPkt : Nat := 4096

/-- A completion on a link: a packet where the link runs packetised, dropped and counted with an unlisted TYPE or a bad LEN (R204, R207);
on a native link it comes in a frame of its own count. -/
def State.completion (link : Nat) (tag : CplTag) (status : Nat) (data : List Byte) (s : State) : State :=
  if s.isGuestLink link then
    s.guestPacket tag.head true data.length data.length (fun t => t.response link tag.tag status data)
  else if s.linkUsable link && s.linkUp link && s.on (CL.LINK_CFG_MODE link) then
    s.receive link tag.head.seq data.length tag.head.crcOk (fun t =>
      let t := t.acked link tag.head.ackSeq
      if !tag.head.listed || decide (forcedMaxPkt < data.length) || decide (data.length % 4 ≠ 0) then t.inc (CL.PROTO_ERR_CNT link)
      else t.response link tag.tag status data)
  else s.response link tag.tag status data

/-- RD_CPL (R222, R223). -/
def execRdCpl (link : Nat) (tag : CplTag) (status : Nat) (data : List Byte) (s : State) : Host.Outcome State Fault Refusal :=
  .next (s.completion link tag status data)

/-- WR_CPL (R222, R223). -/
def execWrCpl (link : Nat) (tag : CplTag) (status : Nat) (s : State) : Host.Outcome State Fault Refusal :=
  .next (s.completion link tag status [])

/-- CREDIT (R205, R206, R208): cumulative counts modulo 65,536 of the credits the guest has returned; packets that waited for them
are sent. -/
def execCredit (req cpl data : Nat) (s : State) : Host.Outcome State Fault Refusal :=
  .next (
    if s.guest.accepted then
      let g := s.guest
      (s.setGuest { g with
        credReq := g.credReq + (req + 65536 - g.retReq) % 65536, retReq := req % 65536
        credCpl := g.credCpl + (cpl + 65536 - g.retCpl) % 65536, retCpl := cpl % 65536
        credData := g.credData + (data + 65536 - g.retData) % 65536, retData := data % 65536 }).sendWaiting
    else s)

/-- TXN_TIMEOUT as it counts (R222). -/
def State.txnTimeout (s : State) (l : Nat) : Nat :=
  if s.rd (CL.TXN_TIMEOUT l) < 8 then 8 else s.rd (CL.TXN_TIMEOUT l)

/-- TXN_TIMEOUT_EXPIRY (R222): at the end of tick s + TXN_TIMEOUT with no response. -/
def execTxnTimeoutExpiry (link tag : Nat) (s : State) : Host.Outcome State Fault Refusal :=
  .next (s.setLnk link { s.lnk link with
    txns := (s.lnk link).txns.map (fun x =>
      if x.tag = tag ∧ x.expired = none ∧ x.issue + s.txnTimeout link ≤ s.tick then { x with expired := some s.tick } else x) })

/-- Requests that a transaction ends with LINK_TIMEOUT: its own, or those that wait on the fetch it serves and that nothing has ended yet. -/
def State.timesOut (s : State) (x : Txn) : Nat :=
  match x.rid, x.fetch with
  | some rid, _ => b2n (s.req rid).isSome
  | none, some fid => match mapFind s.ck.fetches fid with
    | some f => (f.waits.filter (fun w => (s.req w.1).isSome)).length
    | none => 0
  | none, none => 0

/-- LINK_TIMEOUT (R223, R224): in the first tick after expiry such that the link was UP at the end of the tick before; each outcome is
counted (Table CLS-9). -/
def execLinkTimeout (link tag : Nat) (s : State) : Host.Outcome State Fault Refusal :=
  .next (
    let k := s.lnk link
    match k.txns.find? (fun x => x.tag == tag && x.expired.any (fun t => decide (t < s.tick))) with
    | none => s
    | some x =>
      if k.upLast && s.rd (CL.LINK_STAT_STATE link) != lsFatal then
        let s := s.setLnk link { k with txns := k.txns.filter (fun y => y.tag != tag), timedOut := tag :: k.timedOut }
        let s := (s.incBy (CL.TIMEOUT_CNT link) (s.timesOut x)).raiseIrq (pgCl link) 1
        match x.rid, x.fetch with
        | some rid, _ => s.endReq rid ocLinkTimeout 0
        | none, some fid => s.failCheck fid ocLinkTimeout none
        | none, none => s
      else s)

/-! ### Guest completions (R46, R211, R214 to R216) -/

/-- Outcomes the Crown accepts from a guest (R215). -/
def guestOutcome (oc cause : Nat) : Nat × Nat :=
  if oc = ocDone ∨ oc = ocNumericNan ∨ oc = ocZeroPivot ∨ oc = ocFaultDetected then (oc, cause)
  else (ocFaultDetected, 0xFF)

/-- The guest's ticks are used: TIME_SYNC declared, END_TICK not later than now, START_DELTA not before dispatch. -/
def guestTicksOk (sync : Bool) (endTick startDelta now dispatch : Nat) : Bool :=
  sync && decide (endTick ≤ now) && decide (startDelta ≤ endTick) && decide (dispatch ≤ endTick - startDelta)

/-- MSG_KIND and LEN of a COMPLETE, the one message the guest sends (Table CLS-12). -/
def guestComplete (m : GuestMsg) : Bool := m.kind == 0x02 && m.len == 40

/-- COMPLETE (R46, R214 to R216): the record of an outstanding entry is accepted and completed by the Crown; the answer to a CANCEL
frees its entry and is discarded; one for no entry is discarded and counted, and so is a MSG of another kind, another LEN, or the
Crown's side. -/
def execComplete (guestTag : GuestMsg) (outcome cause endTick startDelta : Nat) (s : State) : Host.Outcome State Fault Refusal :=
  .next (s.guestPacket guestTag.head false guestTag.len guestTag.len (fun s =>
    if !guestComplete guestTag then s.inc (CL.PROTO_ERR_CNT 3)
    else match s.guest.work.find? (fun e => e.tag == guestTag.tag) with
      | none => s.inc (CL.PROTO_ERR_CNT 3)
      | some e =>
        let s := s.setGuest { s.guest with work := s.guest.work.filter (fun x => x.tag != guestTag.tag) }
        match (if e.cancelled then none else s.req e.rid) with
        | none => s
        | some r =>
          let ok := guestTicksOk s.guestSync endTick startDelta s.tick e.disp
          let s := if s.guestSync && !ok then s.inc (CL.PROTO_ERR_CNT 3) else s
          let (oc, c) := guestOutcome outcome cause
          let start := if ok then endTick - startDelta else e.sent.getD e.disp
          let fin := if ok then endTick else s.tick
          let oc := if oc = ocDone then finalOutcome r.cls r.deadline fin r.overload else oc
          let s := s.modReq e.rid (fun q => { q with start := some start })
          s.endAs e.rid { rep := none, outcome := oc, cause := c, endTick := some fin }))

/-! ### The lane monitor and the lane test (R226, R229, R232, R233, R236) -/

/-- The lane monitor runs on a link: while it is up; in L1 exit; during the drain of the Facet behind a FATAL link; and for two bursts
after a REPLAY fatal; not while CL_TEST owns the link (R226, R229, R233). -/
def State.monitorRuns (s : State) (l : Nat) : Bool :=
  let k := s.lnk l
  let st := s.rd (CL.LINK_STAT_STATE l)
  let drains := decide (l < 4) && (s.bst (pgFct l 0) == .fenced) && !(s.blk (pgFct l 0)).drained
  s.linkUsable l && k.testEnd.isNone && (s.linkUp l || (st == lsL1 && s.pwr.wake.isSome)
    || (st == lsFatal && (decide (0 < k.burstsLeft) || drains)))

/-- LANE_MONITOR_BURST (R229): the burst of a tick. Each lane's burst in error is counted, in its module's counter; a lane in error in
two consecutive ticks, or stuck, is failed and the link enters FATAL; of several lanes the lowest is named (log entry 91). After
a REPLAY fatal the two following bursts only record a failed lane (R226). -/
def execLaneMonitorBurst (link : Nat) (bad stuck : List Nat) (s : State) : Host.Outcome State Fault Refusal :=
  .next (
    let k := s.lnk link
    let fatal := s.rd (CL.LINK_STAT_STATE link) == lsFatal
    if !s.monitorRuns link || k.burstTick == some s.tick then s
    else
      let s := (List.range 4).foldl (fun (t : State) m =>
        t.incBy (CL.LANE_BURST_ERR link m) ((bad.filter (fun x => x / 64 == m)).length)) s
      let before := if k.burstTick.any (fun t => t + 1 == s.tick) then k.badLanes else []
      let failed := (bad.filter (fun x => before.contains x)) ++ stuck
      let s := s.setLnk link { k with badLanes := bad, burstTick := some s.tick, burstsLeft := k.burstsLeft - 1 }
      match failed.min? with
      | none => s
      | some x =>
        if !fatal then s.linkFatal link 0x07 1 x
        else if 0 < k.burstsLeft then s.wr (CL.LINK_STAT_FAIL_LANE link) x else s)

/-- A START on the enabled, unlocked CL_TEST page (R232): refused unless the link's page is OFF or FAULTED and no test runs. -/
def State.clTestStart (link duration : Nat) (s : State) : State :=
  let b := s.bst (pgCl link)
  if (b == .off || b == .faulted) && !s.on CL_TEST.TEST_STAT_BUSY then
    ((s.wr CL_TEST.TEST_STAT_BUSY 1).wr CL_TEST.TEST_STAT_RESULT 0).setLnk link
      { s.lnk link with testEnd := some (s.tick + atLeast1 duration) }
  else s.wr CL_TEST.TEST_STAT_RESULT 3

/-- CL_TEST_START (R232, R236): a write of TEST_CTRL with START: LINK and DURATION are set while the page is unlocked; the test starts
only while the page is enabled too. -/
def execClTestStart (rq : Requester) (link duration : Nat) (s : State) : Host.Outcome State Fault Refusal :=
  .next (s.access rq 0x02F (fun t => t.expert 0x02F (fun u =>
    let u := (u.wr CL_TEST.TEST_CTRL_LINK link).wr CL_TEST.TEST_CTRL_DURATION duration
    if (u.bst 0x02F).up then u.clTestStart (link % 8) (duration % 65536) else u)))

/-- CL_TEST_DONE (R232): after DURATION ticks the lanes in error are reported. -/
def execClTestDone (errLanes : List Nat) (s : State) : Host.Outcome State Fault Refusal :=
  .next (
    let l := ((List.range 8).find? (fun l => (s.lnk l).testEnd.isSome)).getD 0
    match (s.lnk l).testEnd with
    | none => s
    | some e =>
      if s.tick < e then s
      else
        let lanes := (errLanes.filter (fun x => decide (x < 256))).eraseDups
        let s := s.setLnk l { s.lnk l with testEnd := none }
        let s := (s.wr CL_TEST.TEST_STAT_BUSY 0).wr CL_TEST.TEST_STAT_RESULT (if lanes.isEmpty then 1 else 2)
        let s := s.wr CL_TEST.TEST_STAT_ERR_LANES lanes.length
        (List.range 8).foldl (fun (t : State) w => t.wr (CL_TEST.TEST_LANE_MAP w)
          (lanes.foldl (fun n x => if x / 32 = w then n + 2 ^ (x % 32) else n) 0)) s)

end Sys2Proof.Machine
end

