-- ==== Sys2Proof/Machine/Casket.lean ====
section
/-! DEFINITION. The Casket's tier movers and memory errors: installing tiles, late and failed fetches, write-backs, quota
writes, lending a Locket, scrubbing (R244 to R275, R627, R635). -/

namespace Sys2Proof.Machine

/-! ### Reads -/

/-- The engines of a request read tiles: each that they have not read before in the step counts in its quadrant and, where it lies in
another than their own, over the crossbar, and meets its store's injected error. An uncorrectable word ends the request with FAULT_DETECTED, and
nothing is read (R276, R277, R633). -/
def State.reads (rid w : Nat) (l : List (Nat × Nat)) (s : State) : Bool × State :=
  l.foldl (fun (q : Bool × State) x =>
    let s := q.2
    match s.req rid, s.tileAddr w x.1 x.2 with
    | some r, some a =>
      if !q.1 || r.seen.contains x then q
      else
        let s := ((s.modReq rid (fun y => { y with seen := x :: y.seen })).started rid).readTo (s.homeOf rid) a tileSize
        (match s.eccRead 0x01 a w with
         | (some rep, s) => (false, s.endFor (some rep) rid ocFaultDetected 0)
         | (none, s) => (true, s))
    | _, _ => q) (true, s)

/-- A tile is needed and, once in place, read. -/
def State.useTile (rid w id i : Nat) (s : State) : Need × State :=
  match s.needTile rid w id i with
  | (.here, t) => (match t.reads rid w [(id, i)] with
    | (true, u) => (.here, u)
    | (false, u) => (.fetching, u))
  | q => q

/-- Every tile of an object is needed and, once all are in place, read. -/
def State.useObj (rid w id : Nat) (s : State) : Need × State :=
  match s.needObj rid w id with
  | (.here, t) => (match t.reads rid w (match t.objOf w id with
      | some o => (List.range o.tiles).map (fun i => (id, i))
      | none => []) with
    | (true, u) => (.here, u)
    | (false, u) => (.fetching, u))
  | q => q

/-- What a block reads of the Casket: the bytes, counted in their quadrant and over the crossbar; none where they do not lie in the
Casket (R31) or hold an uncorrectable word (R633). -/
def State.blockRead (page a n : Nat) (s : State) : Option (List Byte) × State :=
  if !inCasket a n then (none, s)
  else
    let s := s.readTo ((homeQuad page).getD 0) a n
    match s.eccRead 0x01 a 0x7F with
    | (some _, s) => (none, s)
    | (none, s) => (some (s.dpaRead a n), s)

/-! ### Installing -/

/-- CHECKSUM is checked at install (R244, R621). -/
def State.tileCheckOn (s : State) : Bool := s.on CK_CTRL.TILE_CHECK_EN || s.sentinel

/-- The bytes of a fetch from the guest's window have all come, or lie beyond its declared size. -/
def State.guestHere (s : State) (f : Fetch) : Bool :=
  decide (regionOf s.part f.src ≠ .guest) || decide (s.guest.winSize < f.src - guestBase + tileSize)
    || (!f.asked.isEmpty && f.asked.all (fun a => (mapFind f.parts a.2).isSome))

/-- The bytes a fetch delivers: from HBM, a lent copy or flash as the device holds them; from a peer or the host
as the command carries them; from the guest as its completions have brought them, and 0 beyond its window's declared size, which
is counted (R44, R211). -/
def State.fetchData (f : Fetch) (data : List Byte) (s : State) : List Byte × State :=
  match regionOf s.part f.src with
  | .hbm => (s.dpaRead f.src tileSize, s.countRead f.src tileSize)
  | .alias_ _ => (s.dpaRead f.src tileSize, s)
  | .flash => (s.nvmeRead (f.src - flashBase) tileSize, s.inc64 NVP.RD_BYTES_LO NVP.RD_BYTES_HI tileSize)
  | .guest =>
    if f.src - guestBase + tileSize ≤ s.guest.winSize then (padTo tileSize (f.parts.flatMap (·.2)), s)
    else (List.replicate tileSize 0, s.inc (CL.WIN_ERR_CNT 3))
  | _ => (padTo tileSize data, s)

/-- The tier an address lies in can be asked now: the host link is up, or the SSD is ready (R295, R588). -/
def State.tierUp (s : State) (a : Nat) : Bool :=
  match regionOf s.part a with
  | .host => s.hifUp
  | .flash => decide (s.rd NVP.NVP_STAT_CTRL_STATE = 2)
  | _ => true

/-- n bytes outside the package are asked for: an RDMA READ of the lender, reads of host memory, or an NVMe Read (R103, R552, R580,
R588). -/
def State.askFar (w a n : Nat) (s : State) : State :=
  match regionOf s.part a with
  | .peer p => s.emit (.rdma p 0 (a - peerBase p) n [])
  | .host => s.hostAsk w (a - hostBase) n
  | .flash => s.emit (.nvme false (a - flashBase) n)
  | _ => s

/-- A fetch from T3, T4 or T5 that has not asked for its tile does so once its tier can be reached: one RDMA READ of the lender, the
reads of host memory, or one NVMe Read of 32 KiB. The guest's window has read requests of its own. -/
def State.askTier (fid : Nat) (s : State) : State :=
  match mapFind s.ck.fetches fid with
  | none => s
  | some f =>
    let asks := fun (t : State) => t.setCk { t.ck with fetches := mapModify (fun x => { x with asked := [(0, 0)] }) t.ck.fetches fid }
    let far := fun (n : Nat) => decide (3 ≤ n) && decide (n ≤ 5)
    if !f.asked.isEmpty || s.sourceDead f.src || decide (regionOf s.part f.src = .guest)
        || !far (tierOfAddr s.part f.src) || !(regionPieces f.src tileSize).all (fun x => s.tierUp x.1) then s
    else (regionPieces f.src tileSize).foldl (fun (t : State) x => t.askFar f.ws x.1 x.2) (asks s)

/-- Every fetch from T3, T4 or T5 asks for its tile. -/
def State.tierReads (s : State) : State := (s.ck.fetches.map (·.1)).foldl (fun t fid => t.askTier fid) s

/-- The quadrant a fetch's bytes enter the Casket from: that of the stack, the lent Locket or the block they come through (Table MACH-3). -/
def fetchQuad (part : Part) (a : Nat) : Nat :=
  match regionOf part a with
  | .hbm => a / stackSize
  | .alias_ n => n
  | .guest => 3
  | .peer _ => 1
  | _ => 0

/-- A copy of OBJECT mode that has come in after the last request that wanted it ended is dropped (R247). -/
def State.dropUnwanted (a : Nat) (s : State) : State :=
  match mapFind s.ck.slots a with
  | none => s
  | some e => if e.copy && e.pin.isNone && e.holders.isEmpty && !s.hintMode e.ws then s.dropSlot a else s

/-- The injected error of the memory inside the package that a fetch reads from (R267). -/
def State.fetchEcc (f : Fetch) (s : State) : Option Nat × State :=
  match regionOf s.part f.src with
  | .hbm => s.eccRead 0x01 f.src f.ws
  | .alias_ _ => s.eccRead 0x01 f.src f.ws
  | _ => (none, s)

/-- A tile that has passed its check is in its slot: its waits end, its age and that of the copy it came from are now, and a lent copy of a
read-only tile is made (R244, R252, R270). -/
def State.installed (fetch : Nat) (f : Fetch) (a : Nat) (d : List Byte) (s : State) : State :=
  let s := (s.endFetch fetch true).store a d
  let s := ((s.crossed (fetchQuad s.part f.src) (quadOf a) tileSize).accessed a).accessed f.src
  let s := if f.lent then s.setCk { s.ck with
      lent := mapModify (fun c => { c with age := s.tick }) s.ck.lent f.src } else s
  let ro := match s.objOf f.ws f.obj with
    | some o => placeReadOnly o.place
    | none => false
  let s := if ro && inCasket a 1 then s.addLentCopy f.ws f.obj f.tile d else s
  s.dropUnwanted a

/-- The bytes of a fetch have come: an uncorrectable word of a memory inside the package ends its requests with FAULT_DETECTED, a tile
that fails its check ends them with TIER_FAILED, CAUSE 0x00, and any other is installed (R244, R267). -/
def State.install (fetch : Nat) (f : Fetch) (a : Nat) (data : List Byte) (s : State) : State :=
  let q := s.fetchData f data
  let s := match regionOf s.part f.src with
    | .peer p => q.2.roceProgress p
    | _ => q.2
  match s.fetchEcc f with
  | (some r, s) => s.failFetch fetch ocFaultDetected (some r)
  | (none, s) =>
    if installOk s.tileCheckOn q.1 then s.installed fetch f a q.1
    else (s.inc CK_CTRL.CHECK_ERR_CNT).failCheck fetch ocTierFailed none

/-- TILE_INSTALL (R244, R266, R267, R270): the tile is checked and installed in its slot for the requests still waiting and later
ones, or it is refused and every waiting request ends. -/
def execTileInstall (fetch : Nat) (data : List Byte) (s : State) : Host.Outcome State Fault Refusal :=
  .next (
    match mapFind s.ck.fetches fetch with
    | none => s
    | some f =>
      match f.dest with
      | none => s
      | some a =>
        if s.sourceDead f.src then s.failFetch fetch ocTierFailed none
        else if s.guestHere f then s.install fetch f a data
        else s)

/-- TIER_LATE (R266, R269): a request whose span of L ticks has passed without the tile ends; one that is preempted then
ends when it next runs. The fetch goes on. -/
def execTierLate (rid fetch : Nat) (s : State) : Host.Outcome State Fault Refusal :=
  .next (
    match mapFind s.ck.fetches fetch with
    | some f =>
      (match f.waits.find? (fun w => w.1 == rid) with
       | some w => if s.spanOver f w then s.endReq rid ocTierLate 0 else s
       | none => s)
    | none => s)

/-- TIER_FAILED (R267, R271, R273): the tier of a fetch outside the package reports an error, or its window is unbacked. -/
def execTierFailed (fetch : Nat) (st : BusStatus) (s : State) : Host.Outcome State Fault Refusal :=
  .next (
    match mapFind s.ck.fetches fetch with
    | none => s
    | some f =>
      if (decide (st ≠ .ok) && decide (3 ≤ f.tier) && !f.lent) || s.sourceDead f.src then
        s.failFetch fetch ocTierFailed none
      else s)

/-! ### Write-backs (R253) -/

/-- The dirty data of a slot goes to the home of its tile; with an uncorrectable word the tile is LOST (R253, R635). -/
def State.writeHome (a : Nat) (s : State) : State :=
  match mapFind s.ck.slots a with
  | none => s
  | some e => match s.homeAddr e.ws e.obj e.tile with
    | none => s
    | some h =>
      match s.eccRead 0x01 a e.ws with
      | (some _, s) => (s.modSlot h (fun x => { x with lost := true })).modSlot a (fun x => { x with dirty := false })
      | (none, s) =>
        (((s.store h (s.dpaRead a tileSize)).readTo (if h < hbmSize then h / stackSize else quadOf a) a tileSize).modSlot h (fun x => { x with age := s.tick, lost := false })).modSlot a
          (fun x => { x with dirty := false })

/-- A slot freed by a write-back goes to the fetch that waits for it: as a borrowing where the tile evicted was one and the
workspace has no quota left. -/
def State.giveSlot (a : Nat) (borrowed : Bool) (s : State) : State :=
  match s.ck.fetches.find? (fun e => decide (e.2.waitSlot = some a)) with
  | none => s
  | some (fid, f) =>
    let b := borrowed && !decide (s.used f.ws 1 0 < s.quota f.ws 1)
    let place := match s.objOf f.ws f.obj with
      | some o => o.place
      | none => 0
    let s := s.putSlot a (newSlot f.ws f.obj f.tile 1 b true place s.tick (f.waits.map (·.1)))
    s.setCk { s.ck with
      fetches := mapModify (fun x => { x with dest := some a, waitSlot := none }) s.ck.fetches fid }

/-! ### Quotas (R256, R354) -/

/-- After a raised quota: borrowings become quota-backed, most recently used first, until the quota is full (R256). -/
def State.fillQuota (w tier : Nat) : Nat → State → State
  | 0, s => s
  | n + 1, s =>
    if s.used w tier 0 - s.borrows w tier < s.quota w tier then
      (match s.newest (fun a e => slotIn tier 0 a e && decide (e.ws = w) && e.borrowed) with
       | some a => State.fillQuota w tier n (s.modSlot a (fun e => { e with borrowed := false }))
       | none => s)
    else s

/-- After a lowered quota: excess tiles become borrowings, oldest first (R256). -/
def State.spillQuota (w tier : Nat) : Nat → State → State
  | 0, s => s
  | n + 1, s =>
    if s.quota w tier < s.used w tier 0 - s.borrows w tier then
      (match s.oldest (fun a e => slotIn tier 0 a e && decide (e.ws = w) && !e.borrowed && e.pin.isNone) with
       | some a => State.spillQuota w tier n (s.modSlot a (fun e => { e with borrowed := true }))
       | none => s)
    else s

/-- The tiles follow the quotas of a workspace in a tier with a pool. -/
def State.requota (w tier : Nat) (s : State) : State :=
  let n := s.ck.slots.length
  State.trimPool tier n (State.spillQuota w tier n (State.fillQuota w tier n s))

/-- A quota write would make the sum in a tier exceed its capacity (R256), or fall below the pinned tiles (R354). -/
def State.quotaBad (s : State) (w tier q : Nat) : Bool :=
  decide (s.tierCap tier < s.quotaSum tier - s.quota w tier + q)
    || (if tier = 0 then (List.range 4).any (fun f => decide (q < s.pinned w 0 f)) else decide (q < s.pinned w tier 0))

/-- A refused quota write. -/
def State.quotaRefused (w : Nat) (s : State) : State :=
  (s.setW1c CK_QUOTA.QUOTA_STAT_OVERCOMMIT 1).wr CK_QUOTA.QUOTA_STAT_WS w

/-- The effect of a write of a quota word of a workspace: word 0 holds T0 and T1, word 1 holds T2 and the mode. -/
def State.quotaWrite (w word value : Nat) (s : State) : State :=
  if 64 ≤ w then s
  else if word = 0 then
    (let t0 := bitsOf value 15 0
     let t1 := bitsOf value 31 16
     if s.quotaBad w 0 t0 || s.quotaBad w 1 t1 then s.quotaRefused w
     else ((s.wr (CK_QUOTA.QUOTA_T0 w) t0).wr (CK_QUOTA.QUOTA_T1 w) t1).requota w 1)
  else if word = 1 then
    (let t2 := bitsOf value 23 0
     if s.quotaBad w 2 t2 then s.quotaRefused w
     else ((s.wr (CK_QUOTA.QUOTA_T2 w) t2).wr (CK_QUOTA.PLACE_MODE w) (bitsOf value 24 24)).requota w 2)
  else s

/-- QUOTA_WRITE (R256). -/
def execQuotaWrite (rq : Requester) (w word value : Nat) (s : State) : Host.Outcome State Fault Refusal :=
  .next (s.access rq 0x019 (State.quotaWrite w word value))

/-! ### Lending and reclaim (R270, R271) -/

/-- LOCKET_LEND (R270): Locket n is lent in the tick in which every condition holds. -/
def execLocketLend (n : Nat) (s : State) : Host.Outcome State Fault Refusal :=
  .next (if n < 4 ∧ s.mayLend n then s.putBit CK_TIER.LOCKET_LENT n true else s)

/-- A DMA_OUT at an address is reading from a peer's window. -/
def Req.dmaPeer (part : Part) (p : Nat) (r : Req) : Bool :=
  decide (r.op = opDmaOut) && r.hostOut && decide (2 ^ 64 ≤ r.objA)
    && (regionPieces (r.objA % 2 ^ 64) r.count).any (fun x => decide (regionOf part x.1 = .peer p))

/-- A borrowed window is unbacked: it reads GONE, and every fetch and every DMA that reads from it ends its requests with TIER_FAILED
(R104, R271). -/
def State.unbackWindow (p : Nat) (s : State) : State :=
  let s := (s.setBorrow p 3).setCk { s.ck with notices := mapErase s.ck.notices p }
  let s := s.endWhere none (fun _ r => r.dmaPeer s.part p) ocTierFailed 0
  (mapKeys (fun _ f => decide (regionOf s.part f.src = .peer p)) s.ck.fetches).foldl
    (fun t fid => t.failFetch fid ocTierFailed none) s

/-- RECLAIM_PERIOD_END (R271): 5,000 ticks after the notice the window is unbacked. -/
def execReclaimPeriodEnd (slot : Nat) (s : State) : Host.Outcome State Fault Refusal :=
  .next (
    match mapFind s.ck.notices slot with
    | none => s
    | some n => if n + 5000 ≤ s.tick ∧ s.borrowState slot = 2 then s.unbackWindow slot else s)

/-! ### Scrubbing (R626, R627, R628) -/

/-- A scrub pass reads every word of a store: an injected error is met at its base address (log entry 23). -/
def State.scrubStore (mech a : Nat) (s : State) : State := (s.eccRead mech a 0x7F).2

/-- CASKET_SCRUB (R627): while it is on, a full pass of the Casket and of each Locket whose die is powered completes. -/
def execCasketScrub (s : State) : Host.Outcome State Fault Refusal :=
  .next (
    if s.on CK_CTRL.SCRUB_CTRL_EN && decide (s.pm ≤ 1) && s.clockOn 0x010 then
      let s := (s.wr CK_CTRL.SCRUB_PASSES (s.rd CK_CTRL.SCRUB_PASSES + 1)).scrubStore 0x02 casketBase
      (List.range 4).foldl (fun t n => if t.hasFacet n then t.scrubStore 0x02 (locketBase n) else t) s
    else s)

/-- PATROL_SCRUB: while it is on for a stack, a full pass of the stack completes (Table CK-13). -/
def execPatrolScrub (stack : Nat) (s : State) : Host.Outcome State Fault Refusal :=
  .next (
    if decide (stack < 4) && s.on (HBM.PATROL_CTRL_EN stack) && decide (s.pm ≤ 1) && s.clockOn (pgHbm stack) then
      (s.wr (HBM.PATROL_PASSES stack) (s.rd (HBM.PATROL_PASSES stack) + 1)).scrubStore 0x03 (stack * stackSize)
    else s)

end Sys2Proof.Machine
end

