-- ==== Sys2Proof/Machine/Num.lean ====
section
/-! DEFINITION. Number formats and arithmetic: exact values, rounding to nearest with ties to even, conversion between the
formats, and IEEE 754 operations (R326 to R332, Tables FCT-2 to FCT-4). -/

namespace Sys2Proof.Machine

/-- A number: not a number, an infinity, or m × 2^e with a sign. -/
inductive Fp where
  | nan
  | inf (neg : Bool)
  | fin (neg : Bool) (m : Nat) (e : Int)
deriving DecidableEq, Repr, Inhabited

/-- A binary floating-point format: exponent bits, fraction bits, largest finite code, whether it has infinities and
NaN, and its canonical NaN. -/
structure FpFmt where
  eb : Nat
  mb : Nat
  maxCode : Nat
  hasInf : Bool
  hasNan : Bool
  nanCode : Nat
deriving DecidableEq, Repr, Inhabited

def f32 : FpFmt := ⟨8, 23, 0x7F7F_FFFF, true, true, 0x7FC0_0000⟩
def f16 : FpFmt := ⟨5, 10, 0x7BFF, true, true, 0x7E00⟩
def bf16 : FpFmt := ⟨8, 7, 0x7F7F, true, true, 0x7FC0⟩
def e4m3 : FpFmt := ⟨4, 3, 0x7E, false, true, 0x7F⟩
def e5m2 : FpFmt := ⟨5, 2, 0x7B, true, true, 0x7E⟩
def e3m2 : FpFmt := ⟨3, 2, 0x1F, false, false, 0⟩
def e2m3 : FpFmt := ⟨2, 3, 0x1F, false, false, 0⟩
def e2m1 : FpFmt := ⟨2, 1, 0x7, false, false, 0⟩
def f64 : FpFmt := ⟨11, 52, 0x7FEF_FFFF_FFFF_FFFF, true, true, 0x7FF8_0000_0000_0000⟩

/-- Exponent bias. -/
def FpFmt.bias (f : FpFmt) : Nat := 2 ^ (f.eb - 1) - 1

/-- The value of a code. -/
def fpDecode (f : FpFmt) (c : Nat) : Fp :=
  let neg := c.testBit (f.eb + f.mb)
  let mag := c % 2 ^ (f.eb + f.mb)
  let ex := mag / 2 ^ f.mb
  let fr := mag % 2 ^ f.mb
  if mag ≤ f.maxCode then
    (if ex = 0 then .fin neg fr (1 - (f.bias : Int) - f.mb)
     else .fin neg (2 ^ f.mb + fr) ((ex : Int) - f.bias - f.mb))
  else if f.hasInf && decide (fr = 0) then .inf neg
  else .nan

/-- m / 2^k rounded to nearest, ties to even. -/
def rneShift (m k : Nat) : Nat :=
  let q := m / 2 ^ k
  let r := m % 2 ^ k
  if 2 * r < 2 ^ k then q else if 2 ^ k < 2 * r then q + 1 else if q % 2 = 0 then q else q + 1

/-- The magnitude code nearest to m × 2^e, ties to even, subnormals kept; it may pass the largest finite code. -/
def roundMag (f : FpFmt) (m : Nat) (e : Int) : Nat :=
  if m = 0 then 0
  else
    let top := (Nat.log2 m : Int) + e
    let emin := 1 - (f.bias : Int)
    let q := (if top < emin then emin else top) - f.mb
    let mm := if q ≤ e then m * 2 ^ (e - q).toNat else rneShift m (q - e).toNat
    if mm < 2 ^ f.mb then mm
    else ((q + f.mb + f.bias).toNat) * 2 ^ f.mb + (mm - 2 ^ f.mb)

/-- The sign bit of a code. -/
def signCode (f : FpFmt) (neg : Bool) : Nat := if neg then 2 ^ (f.eb + f.mb) else 0

/-- The infinity of a format, or its largest finite value where it has none (Table FCT-4). -/
def infCode (f : FpFmt) (neg : Bool) : Nat :=
  signCode f neg + (if f.hasInf then (2 ^ f.eb - 1) * 2 ^ f.mb else f.maxCode)

/-- Conversion to a format, with whether a finite value overflowed (R329, Table FCT-4). -/
def fpEncode (f : FpFmt) : Fp → Nat × Bool
  | .nan => (f.nanCode, false)
  | .inf neg => (infCode f neg, false)
  | .fin neg m e =>
    let c := roundMag f m e
    if c ≤ f.maxCode then (signCode f neg + c, false) else (infCode f neg, true)

/-- Rounding a value to a format. -/
def fpRound (f : FpFmt) (x : Fp) : Fp := fpDecode f (fpEncode f x).1

/-- NaN or an infinity. -/
def Fp.nonfinite : Fp → Bool
  | .fin _ _ _ => false
  | _ => true

/-- A value as an integer over a common power of two. -/
def fpScaled (neg : Bool) (m : Nat) (e q : Int) : Int :=
  let v : Int := ((m * 2 ^ (e - q).toNat : Nat) : Int)
  if neg then -v else v

/-- The exact value of an integer times 2^q; zero takes the sign given. -/
def fpOfInt (v q : Int) (zeroNeg : Bool) : Fp :=
  if v = 0 then .fin zeroNeg 0 0 else .fin (decide (v < 0)) v.natAbs q

/-- Exact sum; a zero sum of values of opposite sign is +0. -/
def fpAdd : Fp → Fp → Fp
  | .nan, _ => .nan
  | _, .nan => .nan
  | .inf a, .inf b => if a = b then .inf a else .nan
  | .inf a, _ => .inf a
  | _, .inf b => .inf b
  | .fin a m e, .fin b n d =>
    let q := if e < d then e else d
    fpOfInt (fpScaled a m e q + fpScaled b n d q) q (a && b)

/-- The value with its sign changed. -/
def fpNeg : Fp → Fp
  | .nan => .nan
  | .inf a => .inf (!a)
  | .fin a m e => .fin (!a) m e

/-- The magnitude of a value. -/
def fpAbs : Fp → Fp
  | .nan => .nan
  | .inf _ => .inf false
  | .fin _ m e => .fin false m e

/-- Exact difference. -/
def fpSub (x y : Fp) : Fp := fpAdd x (fpNeg y)

/-- Exact product. -/
def fpMul : Fp → Fp → Fp
  | .nan, _ => .nan
  | _, .nan => .nan
  | .inf a, .inf b => .inf (a != b)
  | .inf a, .fin b m _ => if m = 0 then .nan else .inf (a != b)
  | .fin a m _, .inf b => if m = 0 then .nan else .inf (a != b)
  | .fin a m e, .fin b n d => .fin (a != b) (m * n) (e + d)

/-- Quotient to 80 bits with a sticky bit, which rounds to any of the formats as the exact quotient does. -/
def fpDiv : Fp → Fp → Fp
  | .nan, _ => .nan
  | _, .nan => .nan
  | .inf _, .inf _ => .nan
  | .inf a, .fin b _ _ => .inf (a != b)
  | .fin a _ _, .inf b => .fin (a != b) 0 0
  | .fin a m e, .fin b n d =>
    if n = 0 then (if m = 0 then .nan else .inf (a != b))
    else if m = 0 then .fin (a != b) 0 0
    else
      let k := 80 + (Nat.log2 n + 1)
      let q := m * 2 ^ k / n
      let st := if m * 2 ^ k % n = 0 then 0 else 1
      .fin (a != b) (2 * q + st) (e - d - k - 1)

/-- The integer square root of v, found bit by bit from 2^n down. -/
def isqrtFrom (v : Nat) : Nat → Nat → Nat
  | 0, r => if (r + 1) * (r + 1) ≤ v then r + 1 else r
  | n + 1, r =>
    let t := r + 2 ^ (n + 1)
    isqrtFrom v n (if t * t ≤ v then t else r)

/-- Integer square root. -/
def isqrt (v : Nat) : Nat := isqrtFrom v (Nat.log2 v / 2 + 1) 0

/-- Square root to at least 80 bits with a sticky bit; NaN for a negative number. -/
def fpSqrt : Fp → Fp
  | .nan => .nan
  | .inf false => .inf false
  | .inf true => .nan
  | .fin a m e =>
    if m = 0 then .fin a 0 0
    else if a then .nan
    else
      let k : Nat := 160 + (if (e % 2 = 0) then 0 else 1)
      let v := m * 2 ^ k
      let r := isqrt v
      .fin false (2 * r + (if r * r = v then 0 else 1)) ((e - k) / 2 - 1)

/-- x < y for numbers; false with a NaN. -/
def fpLt : Fp → Fp → Bool
  | .nan, _ => false
  | _, .nan => false
  | .inf a, .inf b => a && !b
  | .inf a, _ => a
  | _, .inf b => !b
  | .fin a m e, .fin b n d =>
    let q := if e < d then e else d
    decide (fpScaled a m e q < fpScaled b n d q)

/-- x ≤ y for numbers. -/
def fpLe (x y : Fp) : Bool :=
  match x, y with
  | .nan, _ => false
  | _, .nan => false
  | _, _ => !fpLt y x

/-- The exact value of an integer. -/
def fpOfNat (n : Nat) : Fp := .fin false n 0
def fpOfSigned (v : Int) : Fp := fpOfInt v 0 false

/-- FP32 codes and values. -/
def f32v (c : Nat) : Fp := fpDecode f32 c
def f32c (x : Fp) : Nat := (fpEncode f32 x).1

/-- FP32 operations on codes: one rounding each. -/
def f32Add (a b : Nat) : Nat := f32c (fpAdd (f32v a) (f32v b))
def f32Sub (a b : Nat) : Nat := f32c (fpSub (f32v a) (f32v b))
def f32Mul (a b : Nat) : Nat := f32c (fpMul (f32v a) (f32v b))
def f32Div (a b : Nat) : Nat := f32c (fpDiv (f32v a) (f32v b))
def f32Fma (a b c : Nat) : Nat := f32c (fpAdd (fpMul (f32v a) (f32v b)) (f32v c))
def f32Sqrt (a : Nat) : Nat := f32c (fpSqrt (f32v a))
def f32Zero : Nat := 0
def f32One : Nat := 0x3F80_0000

/-- FP64 operations on codes. -/
def f64v (c : Nat) : Fp := fpDecode f64 c
def f64c (x : Fp) : Nat := (fpEncode f64 x).1

def f64Add (a b : Nat) : Nat := f64c (fpAdd (f64v a) (f64v b))
def f64Sub (a b : Nat) : Nat := f64c (fpSub (f64v a) (f64v b))
def f64Mul (a b : Nat) : Nat := f64c (fpMul (f64v a) (f64v b))
def f64Div (a b : Nat) : Nat := f64c (fpDiv (f64v a) (f64v b))
def f64Sqrt (a : Nat) : Nat := f64c (fpSqrt (f64v a))
/-- An FP32 code as an FP64 code, and an FP64 code rounded to FP32. -/
def f32to64 (c : Nat) : Nat := f64c (f32v c)
def f64to32 (c : Nat) : Nat := f32c (f64v c)

/-- The integer nearest to a value, ties to even; infinities answer none. -/
def fpToInt : Fp → Option Int
  | .nan => none
  | .inf _ => none
  | .fin neg m e =>
    let n := if 0 ≤ e then m * 2 ^ e.toNat else rneShift m (-e).toNat
    some (if neg then -(n : Int) else n)

/-- The floating-point format of a code of Table FCT-2; none for the others. -/
def fmtOf (code : Nat) : Option FpFmt :=
  if code = 0x00 then some f32 else if code = 0x01 then some f16 else if code = 0x02 then some bf16
  else if code = 0x03 then some e4m3 else if code = 0x04 then some e5m2 else if code = 0x05 then some e3m2
  else if code = 0x06 then some e2m3 else if code = 0x07 then some e2m1 else none

/-- Bits of an integer format; none for the others. -/
def intBits (code : Nat) : Option Nat :=
  if code = 0x0A then some 32 else if code = 0x0B then some 16 else if code = 0x0C then some 8
  else if code = 0x0D then some 4 else none

/-- Bits of an element code of a scalar format (Table FCT-2). -/
def elemBits (code : Nat) : Nat :=
  if code = 0x00 ∨ code = 0x0A then 32
  else if code = 0x01 ∨ code = 0x02 ∨ code = 0x0B then 16
  else if code = 0x03 ∨ code = 0x04 ∨ code = 0x08 ∨ code = 0x0C ∨ code = 0x0E then 8
  else if code = 0x05 ∨ code = 0x06 then 6
  else if code = 0x07 ∨ code = 0x09 ∨ code = 0x0D ∨ code = 0x0F then 4 else 1

/-- What a conversion reports besides its codes: whether an element held or was given a NaN or infinity; how many overflowed. -/
structure ConvFlags where
  nonfinite : Bool
  saturated : Nat
deriving DecidableEq, Repr, Inhabited

/-- Conversion of one value to a scalar format (Table FCT-4). -/
def convOne (code : Nat) (x : Fp) : Nat × ConvFlags :=
  match fmtOf code with
  | some f =>
    let (c, o) := fpEncode f x
    (c, ⟨x.nonfinite || (fpDecode f c).nonfinite, b2n o⟩)
  | none =>
    match intBits code with
    | none =>
      -- a value already divided by its row's SCALE (Q8R, Q4R)
      (let top : Int := 2 ^ elemBits code - 1
       match x with
       | .nan => (0, ⟨true, 0⟩)
       | .inf neg => (if neg then 0 else top.toNat, ⟨true, 0⟩)
       | x =>
         let v := (fpToInt x).getD 0
         ((clampInt 0 top v).toNat, ⟨false, b2n (decide (v < 0) || decide (top < v))⟩))
    | some n =>
      let hi : Int := (2 : Int) ^ (n - 1) - 1
      let lo : Int := -((2 : Int) ^ (n - 1))
      match x with
      | .nan => (0, ⟨true, 0⟩)
      | .inf neg => (ofSigned n (if neg then lo else hi), ⟨true, 0⟩)
      | x =>
        let v := (fpToInt x).getD 0
        (ofSigned n (clampInt lo hi v), ⟨false, b2n (decide (v < lo) || decide (hi < v))⟩)

/-- Flags of several conversions together. -/
def ConvFlags.or (a b : ConvFlags) : ConvFlags := ⟨a.nonfinite || b.nonfinite, a.saturated + b.saturated⟩

/-- Floor of log2 of a magnitude that is not 0. -/
def fpExp : Fp → Int
  | .fin _ m e => (Nat.log2 m : Int) + e
  | _ => 0

/-- The shared scale of an MX block: ⌊log2(amax)⌋ less the element's largest exponent, held in −127 to 127; −127 for a
block of zeros; 0xFF where the block holds a NaN (Tables FCT-3, FCT-4, R332). -/
def mxScale (emax : Int) (xs : List Fp) : Nat :=
  if xs.contains .nan then 0xFF
  else
    let fin := xs.filter (fun x => match x with
      | .fin _ m _ => m != 0
      | _ => false)
    match fin with
    | [] => 0
    | y :: r =>
      let top := r.foldl (fun (b : Int) x => if b < fpExp x then fpExp x else b) (fpExp y)
      (clampInt (-127) 127 (top - emax) + 127).toNat

/-- The value of an E8M0 scale. -/
def mxScaleVal (c : Nat) : Fp := if c = 0xFF then .nan else .fin false 1 ((c : Int) - 127)

/-- An MX block: element codes and the scale byte, with what the conversion reports. -/
def mxBlock (f : FpFmt) (emax : Int) (xs : List Fp) : List Nat × Nat × ConvFlags :=
  let sc := mxScale emax xs
  if sc = 0xFF then (xs.map (fun _ => 0), 0xFF, ⟨true, 0⟩)
  else
    let q := xs.map (fun x => match x with
      | .fin n m e => Fp.fin n m (e - ((sc : Int) - 127))
      | y => y)
    let cs := q.map (fun x => match x with
      | .nan => (0, true)
      | .inf n => (signCode f n + f.maxCode, false)
      | .fin n m e => let c := roundMag f m e
        if c ≤ f.maxCode then (signCode f n + c, false) else (signCode f n + f.maxCode, true))
    (cs.map (·.1), sc, ⟨xs.any Fp.nonfinite, (cs.filter (·.2)).length⟩)

/-- Codes of n bits packed without gaps, least significant first (R327). -/
def packBits (n : Nat) (cs : List Nat) : List Byte :=
  leBytes (ceilDiv (n * cs.length) 8) (cs.foldr (fun c acc => c % 2 ^ n + acc * 2 ^ n) 0)

/-- The k codes of n bits that bytes hold. -/
def unpackBits (n k : Nat) (l : List Byte) : List Nat :=
  let v := leNat l
  (List.range k).map (fun i => v / 2 ^ (n * i) % 2 ^ n)

/-- A list cut into pieces of n, at most `fuel` of them. -/
def chunksOf {α : Type} (n : Nat) : Nat → List α → List (List α)
  | 0, _ => []
  | _, [] => []
  | fuel + 1, l => l.take n :: chunksOf n fuel (l.drop n)

/-- One row of values converted and stored in a format (R328, R329, R332). -/
def convRow (code : Nat) (xs : List Fp) : List Byte × ConvFlags :=
  if code = 0x08 ∨ code = 0x09 then
    (let f := if code = 0x08 then e4m3 else e2m1
     let em : Int := if code = 0x08 then 8 else 2
     (chunksOf 32 xs.length xs).foldl (fun (acc : List Byte × ConvFlags) b =>
       let (cs, sc, fl) := mxBlock f em b
       (acc.1 ++ packBits (f.eb + f.mb + 1) cs ++ leBytes 1 sc, acc.2.or fl)) ([], ⟨false, 0⟩))
  else
    let cs := xs.map (convOne code)
    (packBits (elemBits code) (cs.map (·.1)), cs.foldl (fun a c => a.or c.2) ⟨false, 0⟩)

/-- The MX blocks of a row of n elements of some bits each: the element codes and the scale byte of each block, the last with the elements
that are left (Table FCT-3). -/
def mxBlocksOf (bits n : Nat) (l : List Byte) : List (List Nat × Nat) :=
  (List.range (ceilDiv n 32)).map (fun i =>
    let k := if n < 32 * i + 32 then n - 32 * i else 32
    let b := l.drop (i * (4 * bits + 1))
    (unpackBits bits k b, (b.getD (ceilDiv (bits * k) 8) 0).toNat))

/-- The value of a scalar code. -/
def elemVal (code c : Nat) : Fp :=
  match fmtOf code with
  | some f => fpDecode f c
  | none => match intBits code with
    | some n => fpOfSigned (toSigned n c)
    | none => fpOfNat c

/-- The values of one row of n elements stored in a format. -/
def rowVals (code n : Nat) (l : List Byte) : List Fp :=
  if code = 0x08 ∨ code = 0x09 then
    (let f := if code = 0x08 then e4m3 else e2m1
     (mxBlocksOf (elemBits code) n l).flatMap (fun b => b.1.map (fun c => fpMul (fpDecode f c) (mxScaleVal b.2))))
  else (unpackBits (elemBits code) n l).map (elemVal code)

/-! ### Row codes (R327, R380) -/

/-- An FP16 code as an FP32 code. -/
def f16to32 (c : Nat) : Nat := f32c (fpDecode f16 c)
/-- An FP32 code converted to FP16 (Table FCT-4). -/
def f32to16 (c : Nat) : Nat := (fpEncode f16 (f32v c)).1

/-- The greatest integer not above a value. -/
def fpFloor (neg : Bool) (m : Nat) (e : Int) : Int :=
  let v : Int := if neg then -(m : Int) else m
  if 0 ≤ e then v * 2 ^ e.toNat else v / 2 ^ (-e).toNat

/-- A code from its FP32 quotient: to nearest, or with u added and cut (R380). An infinite quotient is clamped, NaN gives 0
(Table FCT-4). -/
def quantCode (bits : Nat) (u : Option Nat) (x : Fp) : Nat :=
  let top : Int := 2 ^ bits - 1
  match x with
  | .nan => 0
  | .inf neg => if neg then 0 else top.toNat
  | .fin neg m e =>
    let v : Int := match u with
      | none => (fpToInt (.fin neg m e)).getD 0
      | some k => (match fpAdd (.fin neg m e) (.fin false k (-16)) with
        | .fin n m e => fpFloor n m e
        | _ => 0)
    (clampInt 0 top v).toNat

/-- The least and the greatest of FP32 codes. -/
def f32Min (xs : List Nat) : Nat := xs.tail.foldl (fun a x => if fpLt (f32v x) (f32v a) then x else a) (xs.headD 0)

def f32Max (xs : List Nat) : Nat := xs.tail.foldl (fun a x => if fpLt (f32v a) (f32v x) then x else a) (xs.headD 0)

/-- SCALE and OFFSET of a row whose least and greatest elements are given, for codes of some bits; a SCALE beyond FP16 is an infinity
(R380). -/
def rowScale (bits : Nat) (lo hi : Fp) : Nat × Nat :=
  (if fpLt lo hi then (fpEncode f16 (fpDiv (fpSub hi lo) (fpOfNat (2 ^ bits - 1)))).1 else 0, (fpEncode f16 lo).1)

/-- The code of an FP32 element in a row of some SCALE and OFFSET, with u of R380 where it rounds at random. -/
def rowCode (bits : Nat) (u : Option Nat) (sc off x : Nat) : Nat :=
  quantCode bits u (f32v (f32Div (f32Sub x (f16to32 off)) (f16to32 sc)))

/-- The formats whose elements are the codes of a map row. -/
def rowFormat (fmt : Nat) : Bool := fmt == 0x0E || fmt == 0x0F

/-- Bytes of a stored row of n elements: one of row codes has the header of a map row in front (Table MAP-2). -/
def storedBytes (fmt n : Nat) : Nat := (if rowFormat fmt then 16 else 0) + rowBytes fmt n

/-- The header of a row of codes that is no table's: its SCALE and OFFSET, and VALID (Table MAP-2; log entry 111). -/
def codeHeader (sc off : Nat) : List Byte := leBytes 4 0 ++ leBytes 2 sc ++ leBytes 2 off ++ leBytes 8 1

/-- A row of values encoded as row codes: SCALE and OFFSET by the finite elements, held within FP16; every element that is not finite or
lies outside is clamped as Table FCT-4 states (log entry 111). -/
def encodeRow (fmt : Nat) (xs : List Fp) : List Byte × ConvFlags :=
  let bits := elemBits fmt
  let cs := xs.map f32c
  let held := (cs.filter (fun c => !(f32v c).nonfinite)).map (fun c =>
    if fpLt (fpOfNat 65504) (f32v c) then f32c (fpOfNat 65504) else if fpLt (f32v c) (fpNeg (fpOfNat 65504)) then f32c (fpNeg (fpOfNat 65504)) else c)
  let q := rowScale bits (f32v (f32Min held)) (f32v (f32Max held))
  let clamped := (cs.filter (fun c => !(f32v c).nonfinite && fpLt (fpOfNat 65504) (fpAbs (f32v c)))).length
  (codeHeader q.1 q.2 ++ packBits bits (cs.map (fun c => if q.1 = 0 ∧ !(f32v c).nonfinite then 0 else rowCode bits none q.1 q.2 c)),
    ⟨xs.any Fp.nonfinite, clamped⟩)

/-- One row of values in the format it is stored in (R329). -/
def storeRow (fmt : Nat) (xs : List Fp) : List Byte × ConvFlags := if rowFormat fmt then encodeRow fmt xs else convRow fmt xs

end Sys2Proof.Machine
end

