-- ==== Sys2Proof/Machine/Steps.lean ====
section
/-! DEFINITION. What a running request's step reads and writes: the objects it names, their tiles and formats, its
outputs, the weights of a model and its window, and the move to the next step (R245, R246, R259 to R261, R331, R335). -/

namespace Sys2Proof.Machine

/-- The object a step reads: object 0 stands for OBJ_A (log entry 6). -/
def Req.inId (r : Req) (o : Nat) : Nat := if o = 0 then r.objA else o
/-- The object a step writes: object 0 stands for OBJ_B. -/
def Req.outId (r : Req) (o : Nat) : Nat := if o = 0 then r.objB else o

/-- Every tile of several objects is sent for. -/
def State.sendObjs (rid w : Nat) (ids : List Nat) (s : State) : Need × State :=
  ids.foldl (fun (q : Need × State) id =>
    match q.1 with
    | .ends oc c => (.ends oc c, q.2)
    | .here => q.2.needObj rid w id
    | .fetching => match q.2.needObj rid w id with
      | (.here, t) => (.fetching, t)
      | x => x) (.here, s)

/-- A request needs every tile of several objects, and reads those in place. -/
def State.needObjs (rid w : Nat) (ids : List Nat) (s : State) : Need × State :=
  ids.foldl (fun (q : Need × State) id =>
    match q.1 with
    | .ends oc c => (.ends oc c, q.2)
    | .here => q.2.useObj rid w id
    | .fetching => match q.2.useObj rid w id with
      | (.here, t) => (.fetching, t)
      | x => x) (.here, s)

/-- The headers of an object's tiles. -/
def State.objHdrs (s : State) (w id : Nat) : List TileHdr :=
  match s.objOf w id with
  | none => []
  | some o => (List.range o.tiles).filterMap (fun i => (s.tileBytesOf w id i).map hdrOf)

/-- Every tile of an object has the geometry of R245 and the format a step expects (R331). -/
def State.objFits (s : State) (w id : Nat) (ok : TileHdr → Bool) : Bool :=
  (s.objHdrs w id).all (fun h => hdrRangesOk h && ok h)

/-- A step goes on once its input objects are in place, and read where they are as it expects; else its request ends with TIER_FAILED
and the cause that `misfit` names, and nothing is read. -/
def State.withObjs (rid w : Nat) (ids : List Nat) (misfit : State → Option Nat) (go : State → State) (s : State) : State :=
  State.needThen rid (s.sendObjs rid w ids) (fun t =>
    match misfit t with
    | some cause => t.endReq rid ocTierFailed cause
    | none => State.needThen rid (t.needObjs rid w ids) go)

/-- A step goes on with its input objects in place and fit; a tile that does not fit ends the request with TIER_FAILED,
CAUSE 0x00, and nothing is read (R245, R331). -/
def State.withInputs (rid : Nat) (r : Req) (ids : List Nat) (ok : TileHdr → Bool) (go : State → State) (s : State) :
    State :=
  let ids := ids.map r.inId
  s.withObjs rid r.ws ids (fun t => if ids.all (fun id => t.objFits r.ws id ok) then none else some 0) go

/-! ### Weights and windows (R259 to R261, R351) -/

/-- A plan step runs on Facets. -/
def isPhase : PlanStep → Bool
  | .phase _ _ _ _ _ _ _ _ _ => true
  | _ => false

/-- The index of the phase a request runs, counted over its plan. -/
def phaseIdx (r : Req) : Nat :=
  match r.slot with
  | none => 0
  | some p => (p.plan.steps.filter isPhase).length - (r.steps.filter isPhase).length

/-- Weight objects of all phases, layer by layer. -/
def modelLayers (m : ModelSection) : List Nat := m.phases.flatMap (·.layers)

/-- The layer a request's current tile uses, counted over the model: the layers of a phase take its tiles in even shares
(log entry 24). -/
def layerNow (m : ModelSection) (p done tiles : Nat) : Nat :=
  ((m.phases.take p).flatMap (·.layers)).length
    + (match m.phases[p]? with
       | none => 0
       | some ph => if tiles = 0 then 0 else done * ph.layers.length / tiles)

/-- The slot that holds a weight tile, in any tier the engines read (R24): one of its own plan's, or one that no plan has pinned. A slot that
another plan pins serves that plan's model alone (R259, R261). -/
def State.weightSlot (s : State) (lockets : Nat) (pins : List Nat) (w id i : Nat) : Option Nat :=
  (s.ck.slots.find? (fun e => decide (e.2.ws = w) && decide (e.2.obj = id) && decide (e.2.tile = i)
    && decide (e.2.tier ≤ 1) && s.reaches lockets e.1 && (e.2.pin.isNone || pins.contains e.1))).map (·.1)

/-- A window slot that may be filled: empty, or with a tile that no fetch fills and whose layer every request that runs with the window
has read (R259), or that lies beyond the layers now sent for, as an earlier request has left it (R260, log entry 96). -/
def State.windowSlot (s : State) (window done span : List Nat) : Option Nat :=
  let may := fun (p : Slot → Bool) => window.find? (fun a => match mapFind s.ck.slots a with
    | some e => p e && !s.ck.fetches.any (fun f => decide (f.2.dest = some a))
    | none => false)
  match may (fun e => decide (e.obj = noObj) || done.contains e.obj) with
  | some a => some a
  | none => may (fun e => !span.contains e.obj)

/-- A fetch of a tile from its home into a slot, or into one still to be found. -/
def State.issueFetch (rid w : Nat) (o : Obj) (i : Nat) (dest : Option Nat) (wait : Bool) (s : State) : State :=
  let lent := s.lentCopy w o.id i
  let f : Fetch := {
    ws := w, obj := o.id, tile := i, tier := o.home, src := lent.getD (s.originAddr w o.id i), lent := lent.isSome,
    dest := dest, waitSlot := none, issue := s.tick, waits := if wait then [(rid, s.tick)] else [], asked := [], parts := [] }
  s.setCk { s.ck with fetches := mapInsert s.ck.fetches (mapNext s.ck.fetches) f }

/-- The formats that a request's step multiplies its activations by, those its weights have (R331; log entry 111). -/
def Req.weightFormats (r : Req) : List Nat :=
  match r.steps with
  | .phase _ _ _ _ _ prods _ _ _ :: _ => prods.map (·.2)
  | _ => []

/-- A weight tile in place has a format that its step expects (R245, R331). -/
def State.weightFits (s : State) (w id i : Nat) (formats : List Nat) : Bool :=
  match s.tileBytesOf w id i with
  | none => true
  | some b => hdrRangesOk (hdrOf b) && decide ((hdrOf b).format < 0x10) && (formats.isEmpty || formats.contains (hdrOf b).format)

/-- One weight tile of a window: in place, being fetched, or fetched now into a window slot. A tile the current layer needs waits, where
no slot may be filled until one may, its span running (R260, R266); a tile of a later layer is only sent for. -/
def State.weightTile (rid w : Nat) (p : PlanSlot) (formats done span : List Nat) (id i : Nat) (must : Bool) (s : State) : Need × State :=
  if s.nameBad w (s.locketsOf rid) id i false then (if must then .ends ocTierFailed 1 else .here, s)
  else if must && s.cameLate rid id i then (.ends ocTierLate 0, s)
  else match s.weightSlot (s.locketsOf rid) p.pinned w id i with
  | some a =>
    if s.ck.fetches.any (fun e => decide (e.2.dest = some a)) then
      (if must then
        (.fetching, s.setCk { s.ck with
          fetches := mapAll (fun _ f => if f.dest = some a then f.join rid s.tick else f) s.ck.fetches })
       else (.here, s))
    else if !must then (.here, s)
    else if !s.weightFits w id i formats then (.ends ocTierFailed 0, s)
    else (match (s.hold a rid).reads rid w [(id, i)] with
      | (true, t) => (.here, t)
      | (false, t) => (.fetching, t))
  | none =>
    match s.objOf w id with
    | none => if must then (.ends ocTierFailed 0, s) else (.here, s)
    | some o =>
      let waiting := s.ck.fetches.find? (fun e => decide (e.2.ws = w) && decide (e.2.obj = id) && decide (e.2.tile = i)
        && e.2.dest.isNone)
      match s.windowSlot p.window done span, waiting with
      | none, some (fid, _) =>
        (if must then .fetching else .here, if must then s.setCk { s.ck with
          fetches := mapModify (fun f => f.join rid s.tick) s.ck.fetches fid } else s)
      | none, none => if must then (.fetching, s.issueFetch rid w o i none true) else (.here, s)
      | some a, x =>
        if (s.lentCopy w id i).isNone && s.sourceDead (s.originAddr w id i) || o.lost || s.tileLost w id i then
          (if must then (.ends ocTierFailed 0, s) else (.here, s))
        else
          let s := (s.modSlot a (fun e => {
            e with obj := id, tile := i, copy := true, dirty := false, lost := false, age := s.tick })).accessed (s.originAddr w id i)
          match x with
          | some (fid, _) => (if must then .fetching else .here, s.setCk { s.ck with
              fetches := mapModify (fun f => { (if must then f.join rid s.tick else f) with dest := some a }) s.ck.fetches fid })
          | none => (if must then .fetching else .here, s.issueFetch rid w o i (some a) must)

/-- The layers of a model that a request has read: those before its current one. -/
def Req.layersRead (m : ModelSection) (r : Req) : Nat :=
  match r.steps with
  | .phase _ tiles _ _ _ _ _ _ _ :: _ => layerNow m (phaseIdx r) r.done tiles
  | _ => 0

/-- The layers that every request running with a window has read (R259, R261). -/
def State.sharedDone (s : State) (rid : Nat) (m : ModelSection) (window : List Nat) (l : Nat) : Nat :=
  s.sch.reqs.foldl (fun n e => match e.2.slot with
    | some p => if e.1 ≠ rid ∧ e.2.phase = .running ∧ e.2.op = opRun ∧ p.window = window ∧ e.2.layersRead m < n then e.2.layersRead m else n
    | none => n) l

/-- A weight tile of the current layer that no window serves: brought to T1 as any tile is, and read if it is as its step expects. -/
def State.weightBrought (rid w : Nat) (formats : List Nat) (id i : Nat) (s : State) : Need × State :=
  match s.needTile rid w id i with
  | (.here, t) => if t.weightFits w id i formats then t.useTile rid w id i else (.ends ocTierFailed 0, t)
  | x => x

/-- The weights a model's run needs now: every tile of its current layer, and in order the layers of the prefetch depth behind it, of the
objects that carry STREAM or are kept in the plan's slots; another object of the current layer is brought to T1 as any tile is (R246,
R259, R260). -/
def State.streamWeights (rid : Nat) (r : Req) (tiles : Nat) (s : State) : Need × State :=
  match r.slot with
  | none => (.here, s)
  | some p =>
    match p.plan.model with
    | none => (.here, s)
    | some m =>
      let all := modelLayers m
      let l := layerNow m (phaseIdx r) r.done tiles
      let done := all.take (s.sharedDone rid m p.window l)
      let ahead := (all.drop l).take (m.depth + 1)
      ahead.zipIdx.foldl (fun (q : Need × State) x =>
        match q.1 with
        | .ends oc c => (.ends oc c, q.2)
        | n =>
          match q.2.objOf r.ws x.1 with
          | none => if x.2 = 0 then (.ends ocTierFailed 0, q.2) else q
          | some o =>
            let res := (List.range o.tiles).foldl (fun (z : Need × State) i =>
              let one := if placeStream o.place || (z.2.weightSlot r.lockets p.pinned r.ws x.1 i).isSome then
                  z.2.weightTile rid r.ws p r.weightFormats done ahead x.1 i (decide (x.2 = 0))
                else if x.2 = 0 then z.2.weightBrought rid r.ws r.weightFormats x.1 i else (.here, z.2)
              match z.1, one with
              | .ends oc c, _ => (.ends oc c, z.2)
              | .fetching, (.here, t) => (.fetching, t)
              | _, y => y) (Need.here, q.2)
            match res.1, n with
            | .here, .fetching => (.fetching, res.2)
            | y, _ => (y, res.2)) (.here, s)

/-! ### Moving on -/

/-- The next step of a request begins in the next tick. -/
def State.startStep (rid : Nat) (s : State) : State := s.modReq rid (fun q => { q with stepTick := s.tick + 1 })

/-- A Facet request's reads of a phase's inputs over a link are outstanding: one transaction stands for them, and one frame, whose
payload, the on-chip network's, is a free value; on a link forced to packetised mode one RD_REQ, whose address and length are free values
(R201, R202, R204, R222; log entry 93). -/
def State.linkTxn (rid f : Nat) (s : State) : State :=
  let s :=
    if s.on (CL.LINK_CFG_MODE f) then
      (let (a, s) := s.freeBits 48
       let (n, s) := s.freeBits 10
       s.sendLinkFrame f (.rdReq a (4 * n) (rid % 4096) none (some rid)))
    else (let (b, s) := s.freeBytes 248
          s.sendLinkFrame f (.frame b))
  let k := s.lnk f
  s.setLnk f { k with txns := k.txns ++ [{ tag := rid % 4096, rid := some rid, fetch := none, issue := s.tick, expired := none }] }

/-- The host side of a DMA begins: reads for DMA_IN; writes for DMA_OUT once its object is in place, or at once where its
address is backed, with what lies outside the package asked for (R104, R211, R580, R582). -/
def State.startDma (rid : Nat) (r : Req) (s : State) : State :=
  if r.hostOut then s
  else if r.op = opDmaIn then
    (s.modReq rid (fun q => { q with hostOut := true })).hostAsk r.ws r.objB r.count
  else if r.op = opDmaOut ∧ 2 ^ 64 ≤ r.objA then
    (let a := r.objA % 2 ^ 64
     if (regionPieces a r.count).any (fun x => s.deadAt x.1 x.2) then s.endReq rid ocTierFailed 0
     else
       let s := s.modReq rid (fun q => { q with
         hostOut := true, guestRead := if regionOf s.part a = .guest then some { next := 0, asked := [], parts := [] } else none })
       (hostPieces tileSize a r.count).foldl (fun (t : State) x => t.askFar r.ws x.1 x.2) s)
  else if r.op = opDmaOut then
    State.needThen rid (s.needObj rid r.ws r.objA) (fun t => t.modReq rid (fun q => { q with hostOut := true }))
  else s

/-- The inputs of a step are sent for as the step begins, those of a phase over the links of its Facets; a MERGE step sends
for its own (R222, R432). An output that the request may not write ends it here, where its plan first uses the name (R102). -/
def State.beginStep (rid : Nat) (r : Req) (s : State) : State :=
  match r.steps with
  | [] => s
  | st :: _ =>
    if (stepOutputs st).any (fun o => s.nameBad r.ws r.lockets (r.outId o) 0 true) then s.endReq rid ocTierFailed 1
    else match st with
    | .merge _ _ _ _ _ _ => s
    | _ =>
    let s := match st with
      | .phase set _ _ _ ins _ _ _ _ => if ins.isEmpty then s else (setBitsBelow 4 set).foldl (fun (t : State) f => t.linkTxn rid f) s
      | _ => s
    let s := State.needThen rid (s.sendObjs rid r.ws ((stepInputs st).map r.inId)) id
    match st with
    | .phase _ tiles _ _ _ _ _ _ _ =>
      (match s.req rid with
       | some q => State.needThen rid (s.streamWeights rid q tiles) id
       | none => s)
    | _ => s

/-- A step needs a C link that retrains, and is held for it (R201). -/
def State.stepHeld (s : State) (r : Req) : Bool :=
  match r.steps with
  | .phase set _ _ _ _ _ _ _ _ :: _ => (setBitsBelow 4 set).any (fun f => s.training f)
  | _ => false

/-- At the start of a tick: the steps that begin in it, and DMAs whose object has come in. -/
def State.beginSteps (s : State) : State :=
  (s.sch.reqs.filter (fun e => e.2.phase = .running)).foldl (fun (t : State) e =>
    match t.req e.1 with
    | none => t
    | some r =>
      if r.op = opDmaIn ∨ r.op = opDmaOut then t.startDma e.1 r
      else if r.stepTick = t.tick then
        (if t.stepHeld r then t.startStep e.1 else t.beginStep e.1 r)
      else t) s

/-- A step of a request is done; the next one begins. -/
def State.stepDone (rid : Nat) (s : State) : State :=
  (s.modReq rid (fun r => { r with
    steps := r.steps.drop 1
    done := 0
    perFacet := []
    resharded := 0
    srcDims := []
    partials := []
    abft := none
    flushing := false
    seen := []
    failedIns := [] })).startStep rid |>.turnPorts (match s.req rid with
    | some r => r.ports
    | none => [])

/-- The request runs now, with the step at its head, on a unit it claims. -/
def State.running (s : State) (rid : Nat) : Option (Req × PlanStep) :=
  match s.req rid with
  | none => none
  | some r =>
    if r.phase = .running then
      (match r.steps with
       | [] => none
       | st :: _ => some (r, st))
    else none

/-- The request claims a unit. -/
def Req.claims (r : Req) (u : Nat) : Bool := r.est.any (fun e => e.1 == u)

/-- CAUSE bits of valid work are gathered for the final record (R330). -/
def State.addCause (rid bits : Nat) (s : State) : State :=
  s.modReq rid (fun r => { r with causeBits := Nat.lor r.causeBits bits })

/-- An object is written as tiles of one row of raw bytes each (LAYOUT 7, FORMAT 0x0C), from tile 0 on. -/
def State.putRaw (rid w id : Nat) (aux : List Byte) (bytes : List Byte) (s : State) : Need × State :=
  ((chunksOf 32704 (bytes.length + 1) bytes).zipIdx).foldl (fun (q : Need × State) c =>
    match q.1 with
    | .here => q.2.putTile rid w id c.2 0x0C 7 1 c.1.length c.1.length 0 aux c.1
    | _ => q) (.here, s)

end Sys2Proof.Machine
end

