-- ==== Sys2Proof/Machine/Tensor.lean ====
section
/-! DEFINITION. The work of a Facet's tile: tensor products with their checksums, the operations of the vector cores, and the check of a
tensor-core tile (R320, R325 to R329, R339, R340, Table FCT-1). -/

namespace Sys2Proof.Machine

/-! ### Tensor products (R320, R326, R328) -/

/-- The value of an operand element: in an MX format its code times its block's scale (Table FCT-3). -/
def operandVal (fmt c : Nat) : Fp :=
  if fmt = 0x08 then fpMul (fpDecode e4m3 (c % 256)) (mxScaleVal (c / 256 % 256))
  else if fmt = 0x09 then fpMul (fpDecode e2m1 (c % 16)) (mxScaleVal (c / 256 % 256))
  else elemVal fmt (c % 2 ^ elemBits fmt)

/-- An integer element as a number modulo 2^32. -/
def operandInt (fmt c : Nat) : Int := toSigned (elemBits fmt) (c % 2 ^ elemBits fmt)

/-- The sum of FP32 values where no order of its additions can change it: a NaN among them or infinities of both signs; or finite parts
whose magnitudes together stay within the 24 bits of an FP32 significand. -/
def exactSum (xs : List Fp) : Option Fp :=
  let parts := xs.filterMap (fun x => match x with
    | .fin _ m e => if m = 0 then none else some (m, e)
    | _ => none)
  let q := parts.foldl (fun (b : Int) x => if x.2 < b then x.2 else b) 127
  let total := parts.foldl (fun n x => n + x.1 * 2 ^ (x.2 - q).toNat) 0
  if xs.contains .nan || (xs.contains (.inf false) && xs.contains (.inf true)) then some .nan
  else if decide (total < 2 ^ 24) && (parts.isEmpty || (decide (-149 ≤ q) && decide (q ≤ 103)))
      && !xs.all (fun x => match x with
        | .fin n m _ => n && decide (m = 0)
        | _ => false) then some (xs.foldl fpAdd (.fin false 0 0))
  else none

/-- One accumulator: the sum of the products of two lists of elements, in INT32 modulo 2^32 or in FP32. The manual gives the FP32
accumulation no order: where the order matters the sum is a free value of the operands (R320, R326, R328; log entry 111). -/
def dotOf (fmtA fmtB : Nat) (a b : List Nat) : Nat :=
  if tensorInt fmtA then
    (((a.zipWith (fun x y => operandInt fmtA x * operandInt fmtB y) b).foldl (· + ·) 0) % 2 ^ 32).toNat
  else match exactSum (a.zipWith (fun x y => fpMul (operandVal fmtA x) (operandVal fmtB y)) b) with
    | some v => f32c v
    | none => (Config.accumulate fmtA fmtB a b).toNat

/-- A checksum: the lists of a matrix summed element by element, multiplied by another list (R339). -/
def checkOf (fmtA fmtB : Nat) (as : List (List Nat)) (b : List Nat) : Nat :=
  if tensorInt fmtA then
    ((as.foldl (fun (n : Int) (a : List Nat) => n + (a.zipWith (fun x y => operandInt fmtA x * operandInt fmtB y) b).foldl (· + ·) 0) 0) % 2 ^ 32).toNat
  else match exactSum (as.flatMap (fun a => a.zipWith (fun x y => fpMul (operandVal fmtA x) (operandVal fmtB y)) b)) with
    | some v => f32c v
    | none => (Config.accumulateCheck fmtA fmtB as b).toNat

/-! ### Vector operations (R327, R328, Table FCT-1) -/

/-- Formats that the vector cores decode by converting (Table FCT-2). -/
def vectorFormat (fmt : Nat) : Bool := decide (fmt < 0x0E)

/-- A tile of integers, whose results are INT32. -/
def vectorInt (op : VecOp) (fmt : Nat) : Bool :=
  match op with
  | .convert => (intBits fmt).isSome
  | .fma => (intBits fmt).isSome
  | .kernel isFloat => !isFloat
  | _ => false

/-- An operation takes a format (Tables FCT-1, FCT-2). -/
def vectorOk (op : VecOp) (fmt : Nat) : Bool :=
  match op with
  | .convert => vectorFormat fmt
  | .decode _ => rowFormat fmt
  | .fma => [0x00, 0x01, 0x02, 0x0B, 0x0C].contains fmt
  | .fn _ => fmt == 0x00
  | .kernel _ => true

/-- A fused multiply-add with the one rounding of its format, or the integer multiply-accumulate modulo 2^32; as a 32-bit word. -/
def fmaWord (fmt x y z : Nat) : Nat :=
  match fmtOf fmt with
  | some f => f32c (fpRound f (fpAdd (fpMul (operandVal fmt x) (operandVal fmt y)) (operandVal fmt z)))
  | none => ((operandInt fmt x * operandInt fmt y + toSigned 32 (z % 2 ^ 32)) % 2 ^ 32).toNat

/-- One row of a vector operation, as 32-bit words: FP32 codes, or INT32. -/
def vectorRow (op : VecOp) (fmt i : Nat) (a b c : List Nat) : List Nat :=
  match op with
  | .convert => a.map (fun x => if (intBits fmt).isSome then (operandInt fmt x % 2 ^ 32).toNat else f32c (operandVal fmt x))
  | .decode ps =>
    let p := ps.getD i (0, 0)
    a.map (fun x => f32Add (f32Mul (f32c (fpOfNat (x % 2 ^ elemBits fmt))) (f16to32 (p.1 % 2 ^ 16))) (f16to32 (p.2 % 2 ^ 16)))
  | .fma => (a.zip (b.zip c)).map (fun x => fmaWord fmt x.1 x.2.1 x.2.2)
  | .fn f => a.map (fun x => (Config.vectorFn f (BitVec.ofNat 32 x)).toNat)
  | .kernel _ => a.map (· % 2 ^ 32)

/-! ### Tiles -/

/-- The tile is a tensor-core product. -/
def workIsProduct : TileWork → Bool
  | .product _ _ _ _ _ => true
  | .vector _ _ _ _ _ _ => false

/-- Every list of a matrix has n elements. -/
def allOf (n : Nat) (m : List (List Nat)) : Bool := m.all (fun r => r.length == n)

/-- The operands of a tile fit its operation: a product of formats that the step names and the tensor cores multiply, or a vector operation
in a format it takes, over matrices that match (R320, R325). -/
def workFits (prods : List (Nat × Nat)) : TileWork → Bool
  | .product fa fb a b _ => prods.contains (fa, fb) && productOk (fa, fb) && !a.isEmpty && !b.isEmpty
      && decide (0 < (a.headD []).length) && allOf (a.headD []).length a && allOf (a.headD []).length b
  | .vector op fmt a b c _ =>
    let n := (a.headD []).length
    vectorOk op fmt && !a.isEmpty && decide (0 < n) && allOf n a
      && (match op with
        | .fma => decide (b.length = a.length) && decide (c.length = a.length) && allOf n b && allOf n c
        | .decode ps => decide (ps.length = a.length)
        | _ => true)

/-- What a tile's work gives: its accumulators, with the checksums of a product (R320, R339). -/
def workResult : TileWork → TileSums
  | .product fa fb a b layout => {
      isFloat := !tensorInt fa
      rows := a.map (fun r => b.map (fun c => dotOf fa fb r c))
      rowCheck := a.map (fun r => checkOf fb fa b r)
      colCheck := b.map (fun c => checkOf fa fb a c)
      layout := layout }
  | .vector op fmt a b c layout => {
      isFloat := !vectorInt op fmt
      rows := a.zipIdx.map (fun x => vectorRow op fmt x.2 x.1 (b.getD x.2 []) (c.getD x.2 []))
      rowCheck := []
      colCheck := []
      layout := layout }

/-- Cycles in which a tensor core issues the MACs of a product, at the rate of its group (R320, Table FCT-1). -/
def workMacCycles : TileWork → Nat
  | .product fa _ a b _ => ceilDiv (a.length * b.length * (a.headD []).length) (4096 * 2 ^ tensorGroup fa)
  | .vector _ _ _ _ _ _ => 0

/-- Cycles of a vector core for an operation whose rate Table FCT-1 gives; none for the others. -/
def workVecCycles : TileWork → Option Nat
  | .product _ _ _ _ _ => some 0
  | .vector op fmt a _ _ _ =>
    let n := a.length * (a.headD []).length
    match op with
    | .fma => some (ceilDiv n (if fmt = 0x00 then 64 else if fmt = 0x0C then 256 else 128))
    | .fn _ => some (ceilDiv n 16)
    | _ => none

/-! ### ABFT (R339, R340, R343) -/

/-- Accumulators of a tile as values. -/
def accVal (isFloat : Bool) (c : Nat) : Fp := if isFloat then f32v c else fpOfSigned (toSigned 32 c)

/-- A row or column of a tile agrees with its checksum (R339). -/
def sumOk (isFloat : Bool) (tol : Nat) (cs : List Nat) (chk : Nat) : Bool :=
  if isFloat then
    (let vs := cs.map f32v
     let sum := vs.foldl fpAdd (.fin false 0 0)
     let mag := fpAdd (vs.foldl (fun a v => fpAdd a (fpAbs v)) (.fin false 0 0)) (fpAbs (f32v chk))
     fpLe (fpAbs (fpSub sum (f32v chk))) (fpMul mag (.fin false 1 (-(tol : Int)))))
  else decide (cs.foldl (· + ·) 0 % 2 ^ 32 = chk % 2 ^ 32)

/-- Columns of a tile. -/
def tsCols (t : TileSums) : Nat := (t.rows.headD []).length
/-- The accumulators of column j. -/
def tsCol (t : TileSums) (j : Nat) : List Nat := t.rows.map (fun r => r.getD j 0)

/-- A tile in shape: a rectangle with one checksum for each row and each column. -/
def tsShaped (t : TileSums) : Bool :=
  decide (0 < t.rows.length) && decide (0 < tsCols t) && t.rows.all (fun r => r.length == tsCols t)
    && decide (t.rowCheck.length = t.rows.length) && decide (t.colCheck.length = tsCols t)

/-- Rows and columns that fail the check. -/
def tsBadRows (tol : Nat) (t : TileSums) : List Nat :=
  ((t.rows.zipIdx).filter (fun x => !sumOk t.isFloat tol x.1 (t.rowCheck.getD x.2 0))).map (·.2)
def tsBadCols (tol : Nat) (t : TileSums) : List Nat :=
  (List.range (tsCols t)).filter (fun j => !sumOk t.isFloat tol (tsCol t j) (t.colCheck.getD j 0))

/-- The check of R339 passes. -/
def tsOk (tol : Nat) (t : TileSums) : Bool := (tsBadRows tol t).isEmpty && (tsBadCols tol t).isEmpty

/-- The result or a checksum holds NaN or an infinity (R343). -/
def tsNonfinite (t : TileSums) : Bool :=
  t.isFloat && ((t.rows.any (fun r => r.any (fun c => (f32v c).nonfinite))) || t.rowCheck.any (fun c => (f32v c).nonfinite)
    || t.colCheck.any (fun c => (f32v c).nonfinite))

/-- A list with the bits of one of its words changed. -/
def xorAt (l : List Nat) (i bits : Nat) : List Nat := l.zipIdx.map (fun x => if x.2 = i then Nat.xor x.1 (bits % 2 ^ 32) else x.1)

/-- A tile with one fault in its accumulation (R340). -/
def tsFault (t : TileSums) (x : SumFault) : TileSums :=
  if x.row < t.rows.length then
    (if x.col = tsCols t then { t with rowCheck := xorAt t.rowCheck x.row x.bits }
     else { t with rows := t.rows.zipIdx.map (fun y => if y.2 = x.row then xorAt y.1 x.col x.bits else y.1) })
  else if x.row = t.rows.length then { t with colCheck := xorAt t.colCheck x.col x.bits }
  else t

/-- A tile with the faults that struck its accumulation. -/
def tsFaults (t : TileSums) (l : List SumFault) : TileSums := l.foldl tsFault t

/-- What a tile ends with as it is computed. -/
def runSums (run : TileRun) : TileSums := tsFaults (workResult run.work) run.faults

/-- One bit of one accumulator flipped. -/
def tsFlip (i j b : Nat) (t : TileSums) : TileSums := tsFault t { row := i, col := j, bits := 2 ^ (b % 32) }

/-- The words of a tile and its checksums that hold NaN or an infinity, one flag each (R343). -/
def tsWhere (t : TileSums) : List Bool :=
  if t.isFloat then (t.rows.flatMap id ++ t.rowCheck ++ t.colCheck).map (fun c => (f32v c).nonfinite) else []

/-- A recomputed tile holds a non-finite value in a place where the first held none (R343). -/
def tsElsewhere (first again : TileSums) : Bool := ((tsWhere first).zip (tsWhere again)).any (fun x => !x.1 && x.2)

/-- The check of a recomputed tile (R341, R343). -/
def tsAgainOk (tol : Nat) (first again : TileSums) : Bool := tsOk tol again && !tsElsewhere first again

end Sys2Proof.Machine
end

