-- ==== Sys2Proof/Machine/Facets.lean ====
section
/-! DEFINITION. Facets: tensor-core tiles and their ABFT check, recomputation, vector pairing, exchange steps, the reshard
of output tiles on store, and the end of a model load (R262 to R265, R320 to R357, R667). -/

namespace Sys2Proof.Machine

/-! ### Reshard on store (R262 to R264, R667) -/

/-- Row-major index of a tuple within extents. -/
def flat : List Nat → List Nat → Nat
  | _ :: es, i :: is => i * es.foldl (· * ·) 1 + flat es is
  | _, _ => 0

/-- The tuple of a row-major index. -/
def unflat : List Nat → Nat → List Nat
  | [], _ => []
  | _ :: es, n => n / es.foldl (· * ·) 1 :: unflat es (n % es.foldl (· * ·) 1)

/-- A list with one place changed. -/
def setAt (l : List Nat) (i v : Nat) : List Nat := l.set i v

/-- The used extents. -/
def Rsd.exts (r : Rsd) : List Nat := r.dims.take r.rank
/-- Extents of a source part and of a destination part. -/
def Rsd.srcExts (r : Rsd) : List Nat := setAt r.exts r.srcAxis (r.ext r.srcAxis / r.srcParts)
def Rsd.dstExts (r : Rsd) : List Nat := setAt r.exts r.dstAxis (r.ext r.dstAxis / r.dstParts)
/-- Columns and rows of a part's matrix. -/
def colsOf (es : List Nat) : Nat := es.getLast?.getD 1
def rowsOf (es : List Nat) : Nat := es.dropLast.foldl (· * ·) 1

/-- The destination part, row and column of the element at a row and column of a source part. -/
def Rsd.dstOf (r : Rsd) (part row col : Nat) : Nat × Nat × Nat :=
  let idx := unflat r.srcExts (row * colsOf r.srcExts + col)
  let g := setAt idx r.srcAxis (idx.getD r.srcAxis 0 + part * (r.ext r.srcAxis / r.srcParts))
  let w := r.ext r.dstAxis / r.dstParts
  let n := flat r.dstExts (setAt g r.dstAxis (g.getD r.dstAxis 0 % w))
  (g.getD r.dstAxis 0 / w, n / colsOf r.dstExts, n % colsOf r.dstExts)

/-- Side of the blocks of layouts 2 and 3; 0 for the others. -/
def blockSide (layout : Nat) : Nat := if layout = 2 then 16 else if layout = 3 then 32 else 0

/-- Stored rows and columns of a destination part: columns count as rows under layout 1. -/
def Rsd.storedRows (r : Rsd) : Nat := if r.dstLayout = 1 then colsOf r.dstExts else rowsOf r.dstExts
def Rsd.storedCols (r : Rsd) : Nat := if r.dstLayout = 1 then rowsOf r.dstExts else colsOf r.dstExts

/-- PITCH of a destination tile: a row rounded up to 64 bytes, or a row of a block. -/
def Rsd.pitch (r : Rsd) : Nat :=
  if blockSide r.dstLayout = 0 then roundUp (storedBytes r.format r.storedCols) 64
  else storedBytes r.format (blockSide r.dstLayout)

/-- Rows or blocks per destination tile. -/
def Rsd.perTile (r : Rsd) : Nat :=
  atLeast1 (if blockSide r.dstLayout = 0 then 32704 / atLeast1 r.pitch
    else 32704 / atLeast1 (blockSide r.dstLayout * r.pitch))

/-- Blocks across, and rows or blocks in all. -/
def Rsd.across (r : Rsd) : Nat := ceilDiv r.storedCols (blockSide r.dstLayout)
def Rsd.units (r : Rsd) : Nat :=
  if blockSide r.dstLayout = 0 then r.storedRows else ceilDiv r.storedRows (blockSide r.dstLayout) * r.across

/-- Tiles of one destination part. -/
def Rsd.partTiles (r : Rsd) : Nat := ceilDiv r.units r.perTile

/-- The tile of a destination part, and the position in it, that hold the element at a row and column. -/
def Rsd.place (r : Rsd) (row col : Nat) : Nat × Nat :=
  let (i, j) := if r.dstLayout = 1 then (col, row) else (row, col)
  let b := blockSide r.dstLayout
  if b = 0 then (i / r.perTile, i % r.perTile * r.storedCols + j)
  else
    let k := i / b * r.across + j / b
    (k / r.perTile, k % r.perTile * (b * b) + i % b * b + j % b)

/-- Rows or blocks that tile t of a part holds. -/
def Rsd.unitsIn (r : Rsd) (t : Nat) : Nat := clampNat 0 r.perTile (r.units - t * r.perTile)

/-- Elements of the tensor that tile t of a part holds; padding does not count. -/
def Rsd.elemsIn (r : Rsd) (t : Nat) : Nat :=
  let b := blockSide r.dstLayout
  if b = 0 then r.unitsIn t * r.storedCols
  else (List.range (r.unitsIn t)).foldl (fun n k =>
    let u := t * r.perTile + k
    n + clampNat 0 b (r.storedRows - u / r.across * b) * clampNat 0 b (r.storedCols - u % r.across * b)) 0

/-- Codes of a row as the store path moves them: for the MX formats each with its block's scale, for row codes each with the SCALE and
OFFSET of its row. -/
def rowCodes (fmt n : Nat) (l : List Byte) : List Nat :=
  if fmt = 0x08 ∨ fmt = 0x09 then
    (mxBlocksOf (elemBits fmt) n l).flatMap (fun b => b.1.map (fun c => c + 256 * b.2))
  else if rowFormat fmt then (unpackBits (elemBits fmt) n (l.drop 16)).map (fun c => c + 256 * fieldAt l 4 4)
  else unpackBits (elemBits fmt) n l

/-- The value of such a code. -/
def movedVal (fmt c : Nat) : Fp :=
  if rowFormat fmt then
    f32v (f32Add (f32Mul (f32c (fpOfNat (c % 256))) (f16to32 (c / 256 % 2 ^ 16))) (f16to32 (c / 2 ^ 24 % 2 ^ 16)))
  else fpMul (fpDecode (if fmt = 0x08 then e4m3 else e2m1) (c % 256)) (mxScaleVal (c / 256))

/-- A row of such codes as bytes. Elements of one MX block, or of one row of codes, that come with different scales are encoded again by
Table FCT-4 (log entry 25). -/
def codesRow (fmt : Nat) (cs : List Nat) : List Byte :=
  if fmt = 0x08 ∨ fmt = 0x09 then
    (chunksOf 32 cs.length cs).flatMap (fun b =>
      let sc := (b.getD 0 0) / 256
      if b.all (fun c => c / 256 == sc) then packBits (elemBits fmt) (b.map (· % 256)) ++ leBytes 1 sc
      else (convRow fmt (b.map (movedVal fmt))).1)
  else if rowFormat fmt then
    (let sc := (cs.headD 0) / 256
     if cs.all (fun c => c / 256 == sc) then codeHeader (sc % 2 ^ 16) (sc / 2 ^ 16) ++ packBits (elemBits fmt) (cs.map (· % 256))
     else (encodeRow fmt (cs.map (movedVal fmt))).1)
  else packBits (elemBits fmt) cs

/-- The bytes of destination tile t from its elements. -/
def Rsd.tilePayload (r : Rsd) (t : Nat) (elems : NMap Nat) : List Byte :=
  let b := blockSide r.dstLayout
  let n := if b = 0 then r.storedCols else b
  let rows := if b = 0 then r.unitsIn t else r.unitsIn t * b
  (List.range rows).flatMap (fun i =>
    padTo r.pitch (codesRow r.format ((List.range n).map (fun j => mapGet (fun _ => 0) elems (i * n + j)))))

/-- Rows, columns of destination tile t's header. The manual gives DIM0, DIM1 and PITCH of layouts 2 and 3 no value: the rows of all its
blocks, the side of a block and the bytes of a block's row (DESIGN CHOICE, log entry 105). -/
def Rsd.tileDims (r : Rsd) (t : Nat) : Nat × Nat :=
  let b := blockSide r.dstLayout
  if b = 0 then (r.unitsIn t, r.storedCols) else (r.unitsIn t * b, b)

/-- A malformed reshard descriptor is named (R264). -/
def State.rsdBadStat (i : Nat) (s : State) : State :=
  (s.setW1c CK_RESHARD.RSD_STAT_BAD 1).wr CK_RESHARD.RSD_STAT_BAD_ID (i % 256)

/-- The copies of a destination tile's elements so far. -/
def State.reshardElems (s : State) (rid obj tile : Nat) : NMap Nat :=
  match s.ck.reshard.find? (fun e => decide (e.rid = rid) && decide (e.obj = obj) && decide (e.tile = tile)) with
  | some e => e.elems
  | none => []

/-- The state with the elements of one destination tile recorded; none when it is complete. -/
def State.setReshard (rid obj tile : Nat) (el : Option (NMap Nat)) (s : State) : State :=
  let rest := s.ck.reshard.filter (fun e => !(decide (e.rid = rid) && decide (e.obj = obj) && decide (e.tile = tile)))
  s.setCk { s.ck with reshard := match el with
    | some m => rest ++ [{ rid := rid, obj := obj, tile := tile, elems := m, written := false }]
    | none => rest }

/-- A destination tile has been written while its source tile's other destinations still wait. -/
def State.reshardWritten (s : State) (rid obj tile : Nat) : Bool :=
  s.ck.reshard.any (fun e => decide (e.rid = rid) && decide (e.obj = obj) && decide (e.tile = tile) && e.written)

/-- The marks of written destinations are cleared: their source tile is stored whole. -/
def State.clearWritten (rid : Nat) (s : State) : State :=
  s.setCk { s.ck with reshard := s.ck.reshard.filter (fun e => !(e.rid == rid && e.written)) }

/-- One destination tile takes a source tile's elements; when its last source tile has been stored it is written with a
new VERSION and RESHARDED = 1 (R263, R667). -/
def State.reshardOne (rid w : Nat) (r : Rsd) (part tile : Nat) (got : List (Nat × Nat)) (s : State) : Need × State :=
  let obj := r.dstObj + part
  let elems := got.foldl (fun m e => mapInsert m e.1 e.2) (s.reshardElems rid obj tile)
  if s.reshardWritten rid obj tile then (.here, s)
  else if elems.length < r.elemsIn tile then (.here, s.setReshard rid obj tile (some elems))
  else
    let d := r.tileDims tile
    match s.putTileIn (some (r.qmap / 2 ^ (2 * part) % 4)) rid w obj tile r.format r.dstLayout d.1 d.2 r.pitch
        flagResharded [] (r.tilePayload tile elems) with
    | (.here, t) =>
      let t := (t.setReshard rid obj tile none).inc CK_RESHARD.RESHARD_TILES
      let t := t.setCk { t.ck with reshard := t.ck.reshard ++ [{ rid := rid, obj := obj, tile := tile, elems := [], written := true }] }
      (.here, t.modReq rid (fun q => { q with resharded := q.resharded + 1 }))
    | (n, t) => (n, if n = .fetching then t.setReshard rid obj tile (some elems) else t)

/-- Where the element at a stored row x and column y of source tile i, of n rows and m columns, lies in its part's matrix: the tiles cut
the matrix, whose columns count as rows under LAYOUT 1, into a grid of `grid` rows and columns to a tile, in row-major order, and the last
holds what is left; or each holds the next blocks in row-major block order. None for the padding of a block (R667; log entry 68). -/
def Rsd.srcAt (r : Rsd) (layout i : Nat) (last : Bool) (grid : Nat × Nat) (n m x y : Nat) : Option (Nat × Nat) :=
  let rows := rowsOf r.srcExts
  let cols := colsOf r.srcExts
  let b := blockSide layout
  let p := if b = 0 then
      (let all := if layout = 1 then (cols, rows) else (rows, cols)
       let across := atLeast1 (ceilDiv all.2 (atLeast1 grid.2))
       let at_ := if last then (all.1 - n, all.2 - m) else (i / across * grid.1, i % across * grid.2)
       if layout = 1 then (at_.2 + y, at_.1 + x) else (at_.1 + x, at_.2 + y))
    else
      let across := ceilDiv cols b
      let u := (if last then ceilDiv rows b * across - n / b else i * (n / b)) + x / b
      (u / across * b + x % b, u % across * b + y)
  if p.1 < rows ∧ p.2 < cols then some p else none

/-- The most rows and columns that a tile of a source part has had in a request's step, this one among them. -/
def Req.gridOf (r : Req) (part n m : Nat) : Nat × Nat :=
  match mapFind r.srcDims part with
  | some g => (max g.1 n, max g.2 m)
  | none => (n, m)

/-- A source tile is stored through a reshard descriptor: its elements go to their destination tiles; a tile that would
feed more than 8 destination tiles, or has another FORMAT, is not stored and the request ends with TIER_FAILED, CAUSE
0x01 (R263, R264). Source 59 fires when every destination tile of the request is complete. -/
def State.reshardStore (rid w : Nat) (r : Rsd) (fmt part : Nat) (at_ : Nat → Nat → Option (Nat × Nat)) (rows : List (List Nat))
    (s : State) : Need × State :=
  let els := (rows.zipIdx).flatMap (fun x => (x.1.zipIdx).filterMap (fun y => (at_ x.2 y.2).map (fun c =>
    let d := r.dstOf part c.1 c.2
    let p := r.place d.2.1 d.2.2
    (d.1, p.1, p.2, y.1))))
  let dests := (els.map (fun e => (e.1, e.2.1))).eraseDups
  if decide (fmt ≠ r.format) || decide (8 < dests.length) then
    (.ends ocTierFailed 1, s.rsdBadStat r.index)
  else
    let q := dests.foldl (fun (q : Need × State) d =>
      match q.1 with
      | .here => q.2.reshardOne rid w r d.1 d.2
          ((els.filter (fun e => decide (e.1 = d.1) && decide (e.2.1 = d.2))).map (fun e => (e.2.2.1, e.2.2.2)))
      | _ => q) (.here, s)
    match q.1, q.2.req rid with
    | .here, some x =>
      (.here, if x.resharded = r.dstParts * r.partTiles then (q.2.clearWritten rid).fire 59 w else q.2.clearWritten rid)
    | n, _ => (n, q.2)

/-! ### ABFT (R339 to R348) -/

/-- INJ_TC flips one accumulator bit; the manual does not say which, so a free value chooses it. -/
def State.flipTile (sums : TileSums) (s : State) : TileSums × State :=
  let (i, s) := s.freeBits 16
  let (j, s) := s.freeBits 16
  let (b, s) := s.freeBits 5
  (tsFlip (i % atLeast1 sums.rows.length) (j % atLeast1 (tsCols sums)) b sums, s)

/-- ABFT_TOL as it counts. -/
def State.abftTol (s : State) (f : Nat) : Nat := clampNat 8 20 (s.rd (FCT1.ABFT_TOL f))

/-- A tensor core may receive tiles. -/
def State.coreUp (s : State) (f core : Nat) : Bool :=
  decide (core < 8) && s.bitOn (FCT0.TC_EN f) core && !s.bitOn (FCT0.TC_OUT f) core

/-- TC_AVAIL follows the cores enabled and not out. -/
def State.syncCores (f : Nat) (s : State) : State := s.wr (FCT0.TC_AVAIL f) (s.tcAvail f)

/-- The vector cores take SENTINEL at a tile boundary (R344, R622). -/
def State.syncVc (f : Nat) (s : State) : State := s.wr (FCT0.VC_PAIRED f) (b2n s.sentinel)

/-- With no core left, a Facet enters FAULTED (R342). -/
def State.coresLeft (f : Nat) (s : State) : State := if s.tcAvail f = 0 then s.faultBlock (pgFct f 0) true none else s

/-- One strike of a core; at TC_STRIKE_MAX it is taken out, and with no core left the Facet is FAULTED (R341, R342). -/
def State.strike (f core : Nat) (s : State) : State :=
  let s := s.inc (FCT1.TC_STRIKES f core)
  if atLeast1 (s.rd (FCT0.TC_STRIKE_MAX f)) ≤ s.rd (FCT1.TC_STRIKES f core) ∧ !s.bitOn (FCT0.TC_OUT f) core then
    (((s.orBits (FCT0.TC_OUT f) (2 ^ core)).syncCores f).raiseIrq (pgFct f 0) 2).coresLeft f
  else s

/-- A failed check leaves its place in ABFT_LAST. -/
def State.abftLast (f core : Nat) (sums : TileSums) (s : State) : State :=
  let tol := s.abftTol f
  ((s.wr (FCT1.ABFT_LAST_ROW f) (((tsBadRows tol sums).getLast?).getD 0 % 256)).wr (FCT1.ABFT_LAST_COL f)
    (((tsBadCols tol sums).getLast?).getD 0 % 256)).wr (FCT1.ABFT_LAST_CORE f) core

/-! ### Output tiles -/

/-- PITCH of a tensor tile: its row rounded up to 64 bytes. -/
def tensorPitch (fmt cols : Nat) : Nat := roundUp (storedBytes fmt cols) 64

/-- A tensor tile fits the payload of a tile in its output format. -/
def tensorFits (fmt : Nat) (sums : TileSums) : Bool :=
  decide (fmt < 0x10) && decide (sums.layout ≤ 3) && decide (sums.rows.length % atLeast1 (blockSide sums.layout) = 0) && decide (tensorPitch fmt (tsCols sums) * (sums.rows.length - 1) + storedBytes fmt (tsCols sums) ≤ 32704)

/-- The output tile t of a phase is converted, counted and stored, through a reshard descriptor or in its own place
(R329, R330, R335). -/
def State.writeTensor (rid f t tiles : Nat) (sums : TileSums) (rows : List (List Nat)) (out fmt : Nat) (rsd : Option Nat)
    (s : State) : Need × State :=
  match s.req rid with
  | none => (.here, s)
  | some r =>
    let conv : List (List Byte × ConvFlags) := rows.map (fun x => storeRow fmt (x.map (accVal sums.isFloat)))
    let fl := conv.foldl (fun a c => a.or c.2) (⟨false, 0⟩ : ConvFlags)
    let cols := (rows.headD []).length
    let pitch := tensorPitch fmt cols
    let res : Need × State := match rsd with
      | some k =>
        (match r.rsds.find? (fun (x : Rsd) => x.index == k) with
         | none => (Need.ends ocTierFailed 1, s.rsdBadStat k)
         | some d =>
           let part := t % atLeast1 d.srcParts
           let i := t / atLeast1 d.srcParts
           let grid := r.gridOf part rows.length cols
           (s.modReq rid (fun q => { q with srcDims := mapInsert q.srcDims part grid })).reshardStore rid r.ws d fmt part
             (d.srcAt sums.layout i (decide (tiles ≤ (i + 1) * d.srcParts)) grid rows.length cols)
             (conv.map (fun c => rowCodes fmt cols c.1)))
      | none => s.putTile rid r.ws (r.outId out) t fmt sums.layout rows.length cols pitch 0 []
          ((conv.dropLast.flatMap (fun (c : List Byte × ConvFlags) => padTo pitch c.1)) ++ ((conv.getLast?).map Prod.fst).getD [])
    match res with
    | (.here, u) =>
      let u := u.incBy (FCT1.SAT_CNT f) fl.saturated
      (.here, u.addCause rid ((if fl.nonfinite then causeNonfinite else 0)
        + (if 0 < fl.saturated then causeSaturated else 0)))
    | q => q

/-- All the tiles of a phase are stored, and every destination tile of its reshard is complete: the phase is done (R335). -/
def State.phaseEnd (rid : Nat) (s : State) : State :=
  match s.running rid with
  | some (r, .phase _ tiles _ _ _ _ _ _ rsd) =>
    let whole := match rsd with
      | none => true
      | some k => match r.rsds.find? (fun (x : Rsd) => x.index == k) with
        | none => true
        | some d => decide (d.dstParts * d.partTiles ≤ r.resharded)
    if decide (tiles ≤ r.done) && whole then s.stepDone rid else s
  | _ => s

/-- The Facets of a set before f, and in all. -/
def facetRank (set f : Nat) : Nat := ((List.range f).filter (fun g => bit set g)).length
def facetCount (set : Nat) : Nat := ((List.range 4).filter (fun g => bit set g)).length

/-- The output tile that a Facet's next tile makes: the Facets of the set take the tiles in turn, ascending. For a
reduction, every Facet computes its part of the same tile. -/
def tileOf (r : Req) (set f : Nat) (reduce : Bool) : Nat :=
  let k := mapGet (fun _ => 0) r.perFacet f
  if reduce then k else k * facetCount set + facetRank set f

/-- An accepted tile whose output waits for a slot is kept until the slot is free (R253). -/
def State.storeTile (rid f : Nat) (sums : TileSums) (a : Need × State) : Need × State :=
  match a with
  | (.fetching, t) => (.fetching, t.modReq rid (fun q => { q with store := some (f, sums), abft := none }))
  | q => q

/-- A tile of a Facet is accepted: its partial sums wait for the exchange, or it is stored. A phase that writes no output
ends with its first tile. -/
def State.acceptTile (rid f : Nat) (sums : TileSums) (s : State) : State :=
  match s.running rid with
  | some (r, .phase set tiles _ reduce _ _ out fmt rsd) =>
    let next := fun (q : Req) => { q with perFacet := mapInsert q.perFacet f (mapGet (fun _ => 0) q.perFacet f + 1), abft := none }
    if tiles = 0 then (s.modReq rid next).phaseEnd rid
    else if reduce then s.modReq rid (fun q => { next q with partials := q.partials ++ [(f, sums)] })
    else
      State.needThen rid (State.storeTile rid f sums (s.writeTensor rid f (tileOf r set f false) tiles sums sums.rows out fmt rsd)) (fun u =>
        ((u.modReq rid (fun q => { next q with done := q.done + 1, store := none })).turnPorts r.ports).phaseEnd rid)
  | _ => s

/-- The accepted tiles that waited for a slot are stored, where one is free now (R253). -/
def State.retryStores (s : State) : State :=
  s.sch.reqs.foldl (fun (t : State) e => match e.2.store with
    | none => t
    | some x => t.acceptTile e.1 x.1 x.2) s

/-- The cycles in which tensor cores issued the MACs of a tile add to those of its class, and those of vector cores to VC_BUSY: by the
rates of Table FCT-1, and a free value for an operation it gives no rate (R37, R320, Tables FCT-9 and FCT-12; log entry 18). -/
def State.coreCycles (f : Nat) (r : Req) (work : TileWork) (s : State) : State :=
  let s := s.inc64 (FCT5.MAC_CYC_LO f r.cls) (FCT5.MAC_CYC_HI f r.cls) (workMacCycles work)
  match workVecCycles work with
  | some n => s.inc64 (FCT2.VC_BUSY_LO f) (FCT2.VC_BUSY_HI f) n
  | none => let (n, s) := s.freeBits 32
    s.inc64 (FCT2.VC_BUSY_LO f) (FCT2.VC_BUSY_HI f) n

/-- A failed check, or a tile that holds NaN or an infinity, waits for the recomputation of its tile (R341, R343). -/
def State.failTile (rid f core : Nat) (work : TileWork) (sums : TileSums) (both : Bool) (s : State) : State :=
  (s.abftLast f core sums).modReq rid (fun q => { q with
    abft := some { f := f, core := core, work := work, sums := sums, nonfinite := tsNonfinite sums, both := both, tick := s.tick } })

/-- A vector tile has ended: while the pairs run, a difference within a pair is found before its result is written, and ends the request
(R344). -/
def State.vectorEnds (rid f : Nat) (run : TileRun) (vcMismatch : Bool) (s : State) : State :=
  let paired := s.on (FCT0.VC_PAIRED f)
  let vcInj := paired && s.on (FCT6.INJ_VC_EN f)
  let s := if vcInj then s.wr (FCT6.INJ_VC_EN f) 0 else s
  let s := s.syncVc f
  let sums := runSums run
  if paired && (vcMismatch || vcInj || sums != workResult run.work) then
    ((s.inc (FCT2.VC_PAIR_MISMATCH f)).raiseIrq (pgFct f 0) 3).detectC1 0x09 (pgFct f 2)
      (if vcInj then s.rd (FCT6.INJ_VC_CORE f) else 0xFFFF) rid
  else s.acceptTile rid f sums

/-- A tensor-core tile as a core ends it: with the faults that struck it, and with the bit that INJ_TC flips; and whether its recomputation
is struck too. -/
def State.productSums (f core : Nat) (run : TileRun) (s : State) : TileSums × Bool × State :=
  let inj := s.on (FCT6.INJ_TC_EN f) && decide (s.rd (FCT6.INJ_TC_CORE f) = core)
  let sums := runSums run
  if inj then
    (let q := (s.wr (FCT6.INJ_TC_EN f) 0).flipTile sums
     (q.1, s.on (FCT6.INJ_TC_BOTH f), q.2))
  else (sums, false, s)

/-- A tensor-core tile has ended on a core: injection and the ABFT check (R339, R341, R343, R345, R346). -/
def State.productEnds (rid f core : Nat) (run : TileRun) (s : State) : State :=
  let (sums, both, s) := s.productSums f core run
  let s := s.syncVc f
  if s.on (FCT1.ABFT_DIS f) && !s.sentinel then s.acceptTile rid f sums
  else
    let s := s.inc64 (FCT1.ABFT_TILES_LO f) (FCT1.ABFT_TILES_HI f) 1
    if !tsNonfinite sums && tsOk (s.abftTol f) sums then s.acceptTile rid f sums
    else s.failTile rid f core run.work sums both

/-- A Facet's tile has ended. -/
def State.tileEnds (rid f core : Nat) (run : TileRun) (vcMismatch : Bool) (s : State) : State :=
  if workIsProduct run.work then s.productEnds rid f core run else s.vectorEnds rid f run vcMismatch

/-- A tile is one of a phase: the Facet belongs to its set, its request claims the cores that compute it, and the tile fits the step and
its output (R320, R325). -/
def tileOfPhase (r : Req) (st : PlanStep) (f : Nat) (work : TileWork) : Bool :=
  match st with
  | .phase set _ _ _ _ prods _ fmt _ =>
    decide (f < 4) && bit set f && r.claims (if workIsProduct work then f else 4 + f) && workFits prods work && tensorFits fmt (workResult work)
  | _ => false

/-- A Facet's tile may end now for a request: it runs, with a phase that names the Facet at its head and a tile left, no
tile waits for its recomputation, and the core may receive tiles. -/
def State.tileDue (s : State) (rid f core : Nat) (work : TileWork) : Bool :=
  match s.running rid with
  | some (r, .phase set tiles tp reduce ins prods out fmt rsd) =>
    tileOfPhase r (.phase set tiles tp reduce ins prods out fmt rsd) f work && (s.bst (pgFct f 0)).up && r.abft.isNone && r.store.isNone
      && !s.training f && (s.coreUp f core || !workIsProduct work) && (decide (tileOf r set f reduce < tiles) || decide (tiles = 0))
      && !(reduce && r.partials.any (fun p => p.1 == f))
  | _ => false

/-- A tile that ends has had its operands: the reads of its request over the link are answered (R222). -/
def State.linkAnswered (rid f : Nat) (s : State) : State :=
  s.setLnk f { s.lnk f with txns := (s.lnk f).txns.filter (fun x => x.rid != some rid) }

/-- The input objects of a phase are in place and each has the format it expects there; a tile that has another ends the request with
TIER_FAILED, CAUSE 0x00, and nothing is read (R245, R331). -/
def State.withTensors (rid : Nat) (r : Req) (ins : List (Nat × Nat)) (go : State → State) (s : State) : State :=
  s.withObjs rid r.ws (ins.map (fun x => r.inId x.1)) (fun t =>
    if ins.all (fun x => t.objFits r.ws (r.inId x.1) (fun h => h.format == x.2 && decide (h.format < 0x10))) then none else some 0) go

/-- The step that a request ran when a fence of a Facet ended it in this tick (R337, R347). -/
def State.endedStep (s : State) (rid f : Nat) : Option (Req × PlanStep) :=
  let b := s.blk (pgFct f 0)
  match mapFind s.sch.reqs rid with
  | none => none
  | some r =>
    if r.gone ∧ r.phase = .running ∧ b.st = .fenced ∧ b.entry = s.tick then (r.steps.head?).map (fun st => (r, st)) else none

/-- A tile that ends in the tick of its Facet's fence, after it, is checked and not stored: a check that fails there ends the request with
FAULT_DETECTED (R18, R347). -/
def State.checkEnded (rid f core : Nat) (run : TileRun) (s : State) : State :=
  match s.endedStep rid f with
  | none => s
  | some (r, st) =>
    if tileOfPhase r st f run.work && workIsProduct run.work && s.coreUp f core && r.abft.isNone && !(s.on (FCT1.ABFT_DIS f) && !s.sentinel) then
      (let (sums, both, s) := s.productSums f core run
       let s := s.inc64 (FCT1.ABFT_TILES_LO f) (FCT1.ABFT_TILES_HI f) 1
       if tsNonfinite sums || tsOk (s.abftTol f) sums then s else s.failTile rid f core run.work sums both)
    else s

/-- FACET_TILE (R339): a Facet's tile ends, with its operands and the weights of its layer in place (R260); one of a tensor core is
checked. -/
def execFacetTile (rid f core : Nat) (run : TileRun) (vcMismatch : Bool) (s : State) : Host.Outcome State Fault Refusal :=
  .next (
    if s.tileDue rid f core run.work then
      (let s := s.linkAnswered rid f
       match s.running rid with
       | some (r, .phase _ tiles _ _ ins _ _ _ _) =>
         s.withTensors rid r ins (fun t =>
           State.needThen rid (t.streamWeights rid r tiles) (fun u =>
             (u.coreCycles f r run.work).tileEnds rid f core run vcMismatch))
       | _ => s)
    else s.checkEnded rid f core run)

/-- Another core of the Facet may recompute a tile; with none, the same core does (R341, R348). -/
def State.recomputeCore (s : State) (f first core : Nat) : Bool :=
  s.coreUp f core && (decide (core ≠ first) || !(List.range 8).any (fun c => decide (c ≠ first) && s.coreUp f c))

/-- A tile that failed its check after a preemption of its request was decided is recomputed when the request is next dispatched
(R346). -/
def Abft.mayRecompute (a : Abft) (r : Req) : Bool := r.yieldBy.all (fun y => decide (a.tick < y.1))

/-- The tile that waits, computed again from the same operands (R322, R341): its core, its cycles and its counts. -/
def State.recompute (f : Nat) (r : Req) (a : Abft) (faults : List SumFault) (s : State) : TileSums × State :=
  let s := s.coreCycles f r a.work
  let again := runSums { work := a.work, faults := faults }
  let (sums, s) := if a.both then s.flipTile again else (again, s)
  (sums, ((s.inc (FCT1.ABFT_RECOMP f)).raiseIrq (pgFct f 0) 0).inc64 (FCT1.ABFT_TILES_LO f) (FCT1.ABFT_TILES_HI f) 1)

/-- A tile fails its second check: its request ends with FAULT_DETECTED (R341). -/
def State.failAgain (rid f core : Nat) (sums : TileSums) (s : State) : State :=
  (((s.inc (FCT1.ABFT_FAIL f)).abftLast f core sums).raiseIrq (pgFct f 0) 1).detectC1 0x08 (pgFct f 1) core rid

/-- ABFT_RECOMPUTE (R341, R343, R346 to R348): the tile that waits is recomputed and checked again: equal non-finite
results are accepted; a pass is used and charges the first core a strike; a failure ends the request with FAULT_DETECTED, also in the
tick in which a fence has ended it. -/
def execAbftRecompute (rid f core : Nat) (faults : List SumFault) (s : State) : Host.Outcome State Fault Refusal :=
  .next (
    match s.running rid with
    | some (r, _) =>
      (match r.abft with
       | none => s
       | some a =>
         if a.f = f ∧ a.mayRecompute r ∧ !s.training f ∧ s.recomputeCore f a.core core then
           let (sums, s) := s.recompute f r a faults
           if a.nonfinite ∧ sums.rows = a.sums.rows then
             ((s.inc (FCT1.NONFINITE_TILES f)).addCause rid (causeNonfinite + causeRecomputed)).acceptTile rid f sums
           else if tsAgainOk (s.abftTol f) a.sums sums then
             (((s.corrected (pgFct f 1)).addCause rid causeRecomputed).acceptTile rid f sums).strike f a.core
           else s.failAgain rid f core sums
         else s)
    | none =>
      match s.endedStep rid f with
      | none => s
      | some (r, _) => match r.abft with
        | none => s
        | some a =>
          if a.f = f ∧ a.mayRecompute r ∧ s.recomputeCore f a.core core then
            let (sums, s) := s.recompute f r a faults
            if (a.nonfinite ∧ sums.rows = a.sums.rows) ∨ tsAgainOk (s.abftTol f) a.sums sums then
              s.modReq rid (fun q => { q with abft := none })
            else s.failAgain rid f core sums
          else s)

/-- A check that failed in the tick of its Facet's fence: the request ends with FAULT_DETECTED (R18, R347). -/
def State.checkFailed (rid : Nat) (s : State) : State :=
  match mapFind s.sch.reqs rid with
  | none => s
  | some r => match r.abft with
    | none => s
    | some a =>
      if (s.endedStep rid a.f).isSome ∧ a.tick = s.tick ∧ !a.nonfinite then
        (s.modReq rid (fun q => { q with abft := none })).detectC1 0x08 (pgFct a.f 1) a.core rid
      else s

/-- Every request whose check failed in the tick of its Facet's fence. -/
def State.checksFailed (s : State) : State := (s.sch.reqs.map (·.1)).foldl (fun (t : State) rid => t.checkFailed rid) s

/-- The sum of partial sums in the order of a list, element by element (R334). -/
def sumPartials (isFloat : Bool) : List (List (List Nat)) → List (List Nat)
  | [] => []
  | p :: ps => ps.foldl (fun acc q => acc.zipWith (fun a b => a.zipWith
      (fun x y => if isFloat then f32Add x y else (x + y) % 2 ^ 32) b) q) p

/-- The side links of a set carry its exchange: each between neighbours of the set is UP, a ring with 4 Facets and a chain otherwise (R33,
R201, R333). -/
def State.sidesUp (s : State) (set : Nat) : Bool :=
  (linksOfSet set).all (fun l => !s.training l && (decide (l < 4) || decide (s.rd (CL.LINK_STAT_STATE l) = lsUp)))

/-- EXCHANGE_STEP (R33, R201, R334, R336): the partial sums of one output tile, one from each Facet of the set, are added in
ascending Facet order and the tile is stored. -/
def execExchangeStep (rid : Nat) (s : State) : Host.Outcome State Fault Refusal :=
  .next (
    match s.running rid with
    | some (r, .phase set tiles _ true _ _ out fmt rsd) =>
      let fs := setBitsBelow 4 set
      let parts := fs.filterMap (fun f => (r.partials.find? (fun p => p.1 == f)).map (·.2))
      match parts with
      | [] => s
      | p :: _ =>
        if s.sidesUp set && decide (parts.length = fs.length) && parts.all (fun q => q.rows.map List.length == p.rows.map List.length && q.layout == p.layout) then
          let rows := sumPartials p.isFloat (parts.map (·.rows))
          let first := fs.headD 0
          State.needThen rid (s.writeTensor rid first r.done tiles p rows out fmt rsd) (fun u =>
            let u := fs.foldl (fun (t : State) f => t.inc (FCT4.XCHG_STEPS f)) u
            (u.modReq rid (fun q => { q with done := q.done + 1, partials := [] })).phaseEnd rid)
        else s
    | _ => s)

/-! ### Loading a model (R351, R355) -/

/-- A plan that has left its slot: its pins are released when the last request that runs with it ends (R355). -/
def State.retirePlan (ws id : Nat) (old : Option PlanSlot) (s : State) : State :=
  match old with
  | none => s
  | some o =>
    let rids := mapKeys (fun _ r => decide (r.op = opRun) && decide (r.ws = ws) && decide (r.planId = id) && decide (r.slot = some o)) s.sch.reqs
    if rids.isEmpty then s.unpin o.pinned
    else s.setSch { s.sch with oldPins := s.sch.oldPins ++ [(rids, o.pinned)] }

/-- A plan slot takes a plan, or is emptied (R355). -/
def State.replacePlan (ws id : Nat) (p : Option PlanSlot) (s : State) : State :=
  let k := planKey ws id
  let old := mapFind s.sch.plans k
  (s.setSch { s.sch with plans := match p with
    | some x => mapInsert s.sch.plans k x
    | none => mapErase s.sch.plans k }).retirePlan ws id old

/-- An accepted load is complete: what stood in its slot before retires, and the load ends with DONE or MODEL_STREAMED (R351, R355). -/
def State.loadEnds (rid : Nat) (s : State) : State :=
  match s.req rid with
  | none => s
  | some r => match r.slot with
    | none => s
    | some p =>
      let s := (s.modReq rid (fun q => { q with slot := none, prior := none })).retirePlan r.ws r.planId r.prior
      s.endReq rid (if p.streamed then ocModelStreamed else finalOutcome r.cls r.deadline s.tick r.overload) 0

/-- The accepted loads whose last pinned tile has been installed end in that tick (R351). -/
def State.endLoads (s : State) : State :=
  (mapKeys (fun _ r => decide (r.op = opLoadPlan) && r.slot.isSome && r.want.isEmpty) s.sch.reqs).foldl
    (fun (t : State) rid => if t.waits rid then t else t.loadEnds rid) s

/-- MODEL_LOAD_COMPLETE (R351): the last pinned tile of an accepted load is installed. -/
def execModelLoadComplete (rid : Nat) (s : State) : Host.Outcome State Fault Refusal :=
  .next (
    match s.req rid with
    | none => s
    | some r => if r.op = opLoadPlan ∧ r.slot.isSome ∧ r.want.isEmpty ∧ !s.waits rid then s.loadEnds rid else s)

end Sys2Proof.Machine
end

