-- ==== Sys2Proof/Machine/Cell.lean ====
section
/-! DEFINITION. The cell as the engines see it: this device's identity, its eligible members, views and the owner of a
range (R553 to R563, Table FAB-4). -/

namespace Sys2Proof.Machine

/-- The state with the cell fabric's record replaced. -/
def State.setFab (f : Fab) (s : State) : State := { s with fab := f }

/-- DEVICE_ID: the EUI-64 of the MAC address of ETH0, its bytes in order (Table FAB-4). -/
def State.deviceId (s : State) : Nat :=
  let m := leBytes 4 (s.rd (ETH.MAC_LO 0)) ++ leBytes 2 (s.rd (ETH.MAC_HI 0))
  leNat (m.take 3 ++ [0xFF, 0xFE] ++ m.drop 3)

/-- Peer states (Table FAB-7). -/
def peerFree : Nat := 0
def peerJoining : Nat := 1
def peerMember : Nat := 2
def peerLeaving : Nat := 3

/-- The state of a peer slot. -/
def State.peerState (s : State) (p : Nat) : Nat := s.rd (FAB.PEER_STAT_STATE p)

/-- The peer slot of a device. -/
def State.peerOf (s : State) (dev : Nat) : Option Nat := (s.fab.peers.find? (fun e => decide (e.2.dev = dev))).map (·.1)

/-- A number put in its place in a rising list. -/
def insertSorted (v : Nat) : List Nat → List Nat
  | [] => [v]
  | x :: r => if v ≤ x then v :: x :: r else x :: insertSorted v r

/-- A list in rising order. -/
def sortNat (l : List Nat) : List Nat := l.foldr insertSorted []

/-- The eligible set in ascending order: every peer in MEMBER, and this device when it announces SHARD_EN = 1 (R562). -/
def State.eligible (s : State) : List Nat :=
  sortNat ((if s.fab.sharding then [s.deviceId] else [])
    ++ (s.fab.peers.filter (fun e => decide (s.peerState e.1 = peerMember))).map (fun e => e.2.dev))

/-- The view ID of a set of members (R562). -/
def viewIdOf (seed : Nat) (members : List Nat) : Nat :=
  crc32c (leBytes 4 seed ++ members.flatMap (leBytes 8))

/-- h(m) of a range of a table (R563). -/
def rangeHash (seed table range dev : Nat) : Nat :=
  crc32c (leBytes 4 seed ++ leBytes 1 table ++ [0, 0, 0] ++ leBytes 4 range ++ leBytes 8 dev)

/-- The member that owns a range under a view: the greatest hash, ties to the lower DEVICE_ID (R563). -/
def rangeOwner (seed table range : Nat) (members : List Nat) : Option Nat :=
  (members.foldl (fun (b : Option (Nat × Nat)) m =>
    let h := rangeHash seed table range m
    match b with
    | none => some (m, h)
    | some (n, k) => if k < h ∨ (h = k ∧ m < n) then some (m, h) else some (n, k)) none).map (·.1)

/-- The owner of a range of a sharded table under a view of this device. -/
def State.ownerIn (s : State) (v : View) (table range : Nat) : Option Nat :=
  rangeOwner (s.rd FAB.CELL_SEED) table range v.members

/-- The owner of a range now, as requests name it: 0 this device, p + 1 peer slot p; none with an empty eligible set (R563,
R567). -/
def State.ownerNow (s : State) (table range : Nat) : Option Nat :=
  match s.ownerIn s.fab.cur table range with
  | none => none
  | some d => if d = s.deviceId then some 0 else (s.peerOf d).map (· + 1)

/-- FAB is READY or ACTIVE. -/
def State.fabUp (s : State) : Bool := (s.bst 0x08C).up

end Sys2Proof.Machine
end

