-- ==== Sys2Proof/Machine/Rows.lean ====
section
/-! DEFINITION. Map rows: slots and pointers and where they lie, the arithmetic of rows and optimisers, requantisation, the
frequency sketch and the row cache (R358 to R381). -/

namespace Sys2Proof.Machine

/-- The state with the row engines' record replaced. -/
def State.setRows (r : Rows) (s : State) : State := { s with rows := r }

/-! ### Tiles wherever they lie -/

/-- A tile at any device physical address, as its tier holds it. -/
def State.tileFrom (s : State) (a : Nat) : List Byte :=
  match regionOf s.part a with
  | .host => s.hostRead (a - hostBase) tileSize
  | .flash => s.nvmeRead (a - flashBase) tileSize
  | _ => s.dpaRead a tileSize

/-- Where the newest contents of a tile lie: where engines read it, unless a fetch is still to bring it there, else at its home. -/
def State.freshAddr (s : State) (w id i : Nat) : Option Nat :=
  match (s.tileAddr w id i).filter (fun a => !s.filling a) with
  | some a => some a
  | none => s.homeAddr w id i

/-- The newest contents of a tile; none where it does not exist or is LOST. -/
def State.freshTile (s : State) (w id i : Nat) : Option (List Byte) :=
  if s.tileLost w id i then none else (s.freshAddr w id i).map s.tileFrom

/-- Bytes of a tile's payload, read where the newest contents lie. -/
def State.freshBytes (s : State) (w id i off n : Nat) : Option (List Byte) :=
  (s.freshTile w id i).map (fun l => padTo n ((l.drop (64 + off)).take n))

/-- Bytes written from quadrant q into the payload of a tile in place: the tile takes the next VERSION and is dirty where it is a copy (R246,
R250). A tile without a header yet takes the format and layout given. -/
def State.patchTile (q w id i off fmt layout : Nat) (b : List Byte) (s : State) : State :=
  match s.freshAddr w id i, s.objOf w id with
  | some a, some o =>
    let raw := s.tileFrom a
    let h := hdrOf raw
    let old := if h.tag = tileTag then payloadOf raw else []
    let n := if old.length < off + b.length then off + b.length else old.length
    let pay := padTo off old ++ b ++ (padTo n old).drop (off + b.length)
    let h := if h.tag = tileTag then { h with version := (h.version + 1) % 2 ^ 32 }
      else {
        h with
        format := fmt, layout := layout, dim0 := 1, dim1 := 1, pitch := 0, flags := 0, obj := id, index := i, version := 1
        ws := w, home := o.home, aux := [] }
    (s.storeFrom q a (tileBytes h pay)).modSlot a (fun e => { e with age := s.tick, dirty := e.copy })
  | _, _ => s

/-- The bytes of a tile at an address, as its tier holds them: of the guest's window 0 beyond its declared size, which is counted; what
else the guest or a peer holds is a free value (R44, R104). -/
def State.farBytes (a : Nat) (s : State) : List Byte × State :=
  match regionOf s.part a with
  | .guest => if a - guestBase + tileSize ≤ s.guest.winSize then s.freeBytes tileSize
      else (List.replicate tileSize 0, s.inc (CL.WIN_ERR_CNT 3))
  | .peer _ => s.freeBytes tileSize
  | _ => (s.tileFrom a, s)

/-- A tile that a block reads for work that waits for nothing: from T0 or T1 in place; else a tier mover carries it, within the tick, to a
port of the block's quadrant (R30, R45; DESIGN CHOICE, log entry 99). The read is counted wherever it passes and meets an injected
error; none where the tile is LOST, cannot be reached, or holds an uncorrectable word (R253, R273, R633). -/
def State.moverRead (page w id i : Nat) (s : State) : Option (List Byte) × State :=
  match (if s.tileLost w id i then none else s.freshAddr w id i) with
  | none => (none, s)
  | some a =>
    if s.sourceDead a then (none, s)
    else
      let q := (homeQuad page).getD 0
      let port := casketBase + q * 0x0400_0000
      let s := if (s.freshAddr w id i) = (s.tileAddr w id i) then s.readTo q a tileSize
        else ((((s.countRead a tileSize).askFar w a tileSize).crossed (fetchQuad s.part a) q tileSize).countWrite port tileSize).countRead port tileSize
      match s.eccRead 0x01 a w with
      | (some _, s) => (none, s)
      | (none, s) => let (b, s) := s.farBytes a
                     (some b, s)

/-- Several tiles are read so; their bytes where all could be. -/
def State.moverReads (page w : Nat) (l : List (Nat × Nat)) (s : State) : Option (List (List Byte)) × State :=
  l.foldl (fun (q : Option (List (List Byte)) × State) x =>
    let (b, t) := q.2.moverRead page w x.1 x.2
    (match q.1, b with
      | some m, some c => some (m ++ [c])
      | _, _ => none, t)) (some [], s)

/-- Every tile of an object. -/
def State.objTiles (s : State) (w id : Nat) : List (Nat × Nat) :=
  match s.objOf w id with
  | none => []
  | some o => (List.range o.tiles).map (fun i => (id, i))

/-! ### Tiles for work that no request asks for (R30, R389, R433) -/

/-- Tiles that a peer's work needs are brought to where the engines read (R30, R389): `here` once all are in place. -/
def State.comeAll (l : List (Nat × Nat × Nat)) (s : State) : Need × State :=
  l.foldl (fun (q : Need × State) x =>
    match q.1 with
    | .ends oc c => (.ends oc c, q.2)
    | .here => q.2.needTile peerRid x.1 x.2.1 x.2.2
    | .fetching => match q.2.needTile peerRid x.1 x.2.1 x.2.2 with
      | (.here, u) => (.fetching, u)
      | y => y) (.here, s)

/-- Tiles in place are read for a page's unit: counted, over the crossbar where they lie in another quadrant, and checked; an uncorrectable
word is a detection, and the work cannot be done (R277, R633). -/
def State.readAll (mech page : Nat) (l : List (Nat × Nat × Nat)) (s : State) : Need × State :=
  l.foldl (fun (q : Need × State) x =>
    match q.1, q.2.tileAddr x.1 x.2.1 x.2.2 with
    | .here, some a =>
      let u := q.2.readTo ((homeQuad page).getD 0) a tileSize
      (match u.eccRead mech a x.1 with
       | (some _, v) => (.ends ocFaultDetected 0, v)
       | (none, v) => (.here, v))
    | _, _ => q) (.here, s)

/-- Tiles that a peer's work needs are brought to where the engines read, and, once all are there, read (R30, R277, R389, R633). -/
def State.bring (mech page : Nat) (l : List (Nat × Nat × Nat)) (s : State) : Need × State :=
  match s.comeAll l with
  | (.here, t) => t.readAll mech page l
  | q => q

/-! ### Slots and pointers (R359, R360) -/

/-- Bytes of a row's codes. -/
def MapTab.codeBytes (t : MapTab) : Nat := if t.fmt = 0x0E then t.elems else t.elems / 2
/-- Where the optimiser state begins in a slot: the next multiple of 4. -/
def MapTab.stateOff (t : MapTab) : Nat := roundUp (16 + t.codeBytes) 4
/-- Bytes of optimiser state (Table MAP-3). -/
def MapTab.stateBytes (t : MapTab) : Nat :=
  if t.opt = 2 then 2 * t.elems else if t.opt = 3 then 4 else if t.opt = 4 then 4 + 4 * t.elems else 0
/-- S, the size of a slot. -/
def MapTab.slotSize (t : MapTab) : Nat := roundUp (t.stateOff + t.stateBytes) 64
/-- k, the slots of a tile. -/
def MapTab.perTile (t : MapTab) : Nat := 32704 / t.slotSize
/-- Bits of a code. -/
def MapTab.bits (t : MapTab) : Nat := if t.fmt = 0x0E then 8 else 4

/-- The object, tile and payload offset of a slot; none beyond the table. -/
def MapTab.locate (t : MapTab) (slot : Nat) : Option (Nat × Nat × Nat) :=
  if slot < t.rows then some (t.slotObj, slot / t.perTile, slot % t.perTile * t.slotSize)
  else if slot < t.rows + t.shadow then
    some (t.shadowObj, (slot - t.rows) / t.perTile, (slot - t.rows) % t.perTile * t.slotSize)
  else none

/-- Pointers of a tile, and the slot of an empty row. -/
def ptrPerTile : Nat := 4088
def emptySlot : Nat := 0xFFFF_FFFF
/-- The ID that is padding (R363). -/
def padId : Nat := 0xFFFF_FFFF

/-- The pointer of a row: its slot and version. -/
def State.pointer (s : State) (t : MapTab) (row : Nat) : Nat × Nat :=
  match s.freshBytes t.ws t.ptrObj (row / ptrPerTile) (8 * (row % ptrPerTile)) 8 with
  | none => (emptySlot, 0)
  | some b => (fieldAt b 0 4, fieldAt b 4 4)

/-- The bytes of a slot; none where its tile cannot be read. -/
def State.slotBytes (s : State) (t : MapTab) (slot : Nat) : Option (List Byte) :=
  match t.locate slot with
  | none => none
  | some (o, i, off) => s.freshBytes t.ws o i off t.slotSize

/-- Fields of a slot (Table MAP-2). -/
def slotVersion (d : List Byte) : Nat := fieldAt d 0 4
def slotValid (d : List Byte) : Bool := !d.isEmpty && bit (fieldAt d 8 2) 0

/-- An active table. -/
def State.tabOf (s : State) (table : Nat) : Option MapTab := mapFind s.rows.tabs table

/-- The state with a table's record changed. -/
def State.modTab (table : Nat) (f : MapTab → MapTab) (s : State) : State :=
  s.setRows { s.rows with tabs := mapModify f s.rows.tabs table }

/-- The range ID of a row. -/
def MapTab.rangeOf (t : MapTab) (row : Nat) : Nat := row / 2 ^ t.shift
/-- The GSE that writes a row of this device (R372). -/
def MapTab.writer (t : MapTab) (row : Nat) : Nat := t.rangeOf row % 2

/-- The owner of a row: 0 this device, p + 1 peer slot p, none with an empty eligible set (R387, R563, R567). -/
def State.rowOwner (s : State) (table : Nat) (t : MapTab) (row : Nat) : Option Nat :=
  if t.sharded then s.ownerNow table (t.rangeOf row) else some 0

/-! ### Free slots (R373, R375) -/

/-- A slot's tile has its home in a pool tile, where no learned row may go (R51). -/
def State.slotInPool (s : State) (t : MapTab) (slot : Nat) : Bool :=
  match t.locate slot with
  | none => false
  | some (o, i, _) => match (s.homeAddr t.ws o i).bind (mapFind s.ck.slots) with
    | some e => e.borrowed
    | none => false

/-- The lowest free slot of a table that is no pool tile's: a freed slot of SLOT_OBJ, else the lowest free shadow slot (R51, log
entry 22). -/
def State.freeSlotOf (s : State) (t : MapTab) : Option Nat :=
  match (sortNat t.freed).find? (fun x => !s.slotInPool t x) with
  | some x => some x
  | none =>
    let pool := mapCount (fun _ e => e.borrowed && !e.copy) s.ck.slots
    (firstIdx (fun i => !t.used.contains (t.rows + i) && !s.slotInPool t (t.rows + i))
      (List.range (clampNat 0 t.shadow (t.used.length + t.perTile * pool + 1)))).map (t.rows + ·)

/-- A slot taken, and a slot given back. -/
def MapTab.take (t : MapTab) (slot : Nat) : MapTab :=
  if slot < t.rows then { t with freed := t.freed.filter (fun x => x != slot) } else { t with used := slot :: t.used }
def MapTab.give (t : MapTab) (slot : Nat) : MapTab :=
  if slot < t.rows then { t with freed := slot :: t.freed } else { t with used := t.used.filter (fun x => x != slot) }

/-- Free slots of a table. -/
def MapTab.freeCount (t : MapTab) : Nat := t.shadow - t.used.length + t.freed.length

/-! ### Rows as numbers (R359, R379 to R381) -/

/-- The codes of a slot. -/
def MapTab.codes (t : MapTab) (d : List Byte) : List Nat := unpackBits t.bits t.elems ((d.drop 16).take t.codeBytes)

/-- The elements of a row in FP32: q × SCALE + OFFSET, each operation rounded. -/
def MapTab.values (t : MapTab) (d : List Byte) : List Nat :=
  let sc := f16to32 (fieldAt d 4 2)
  let of := f16to32 (fieldAt d 6 2)
  (t.codes d).map (fun q => f32Add (f32Mul (f32c (fpOfNat q)) sc) of)

/-- The optimiser state of a row in FP32. -/
structure OptState where
  a : Nat
  step : Nat
  m : List Nat
  v : List Nat
deriving DecidableEq, Repr, Inhabited

/-- The state with every field 0. -/
def MapTab.zeroState (t : MapTab) : OptState :=
  { a := 0, step := 0, m := List.replicate t.elems 0, v := List.replicate t.elems 0 }

/-- The optimiser state a slot holds (Table MAP-3). -/
def MapTab.optState (t : MapTab) (d : List Byte) : OptState :=
  let b := d.drop t.stateOff
  let halves := fun off => (unpackBits 16 t.elems ((b.drop off).take (2 * t.elems))).map f16to32
  if t.opt = 2 then { t.zeroState with m := halves 0 }
  else if t.opt = 3 then { t.zeroState with a := fieldAt b 0 4 }
  else if t.opt = 4 then { a := 0, step := fieldAt b 0 4, m := halves 4, v := halves (4 + 2 * t.elems) }
  else t.zeroState

/-- The bytes of an optimiser state. -/
def MapTab.stateBytesOf (t : MapTab) (o : OptState) : List Byte :=
  let halves := fun (l : List Nat) => packBits 16 (l.map f32to16)
  if t.opt = 2 then halves o.m else if t.opt = 3 then leBytes 4 o.a
  else if t.opt = 4 then leBytes 4 o.step ++ halves o.m ++ halves o.v else []

/-- Some stored field of the state is NaN or an infinity (R381). -/
def MapTab.stateBad (t : MapTab) (o : OptState) : Bool :=
  let bad := fun (l : List Nat) => l.any (fun c => (fpDecode f16 (f32to16 c)).nonfinite)
  if t.opt = 2 then bad o.m else if t.opt = 3 then (f32v o.a).nonfinite
  else if t.opt = 4 then bad o.m || bad o.v else false

/-- A value cut to its top bits; one far below every FP32 number is 0. -/
def fpTrunc : Fp → Fp
  | .fin s m e =>
    if m = 0 ∨ (Nat.log2 m : Int) + e < -1000 then .fin s 0 0
    else .fin s (m / 2 ^ (Nat.log2 m - 256)) (e + (Nat.log2 m - 256 : Nat))
  | x => x

/-- acc × b^t by repeated squaring. -/
def fpPowLoop : Nat → Nat → Fp → Fp → Fp
  | 0, _, _, acc => acc
  | n + 1, t, b, acc =>
    if t = 0 then acc
    else fpPowLoop n (t / 2) (fpTrunc (fpMul b b)) (if t % 2 = 1 then fpTrunc (fpMul acc b) else acc)

/-- b^t rounded once to FP32, from an FP32 code. -/
def f32Pow (b t : Nat) : Nat := f32c (fpPowLoop 33 t (f32v b) (fpOfNat 1))

/-- One step of an optimiser over a row (Table MAP-5), each operation in FP32; the new elements use the FP32 values of m and v
before they are stored (log entry 27). -/
def MapTab.optimise (t : MapTab) (xs : List Nat) (o : OptState) (g : List Nat) : List Nat × OptState :=
  let lr := t.lr
  let b1 := f16to32 t.beta1
  let b2 := f16to32 t.beta2
  if t.opt = 1 then (xs.zipWith (fun x y => f32Sub x (f32Mul lr y)) g, o)
  else if t.opt = 2 then
    let m := o.m.zipWith (fun a y => f32Add (f32Mul b1 a) y) g
    (xs.zipWith (fun x a => f32Sub x (f32Mul lr a)) m, { o with m := m })
  else if t.opt = 3 then
    let sum := g.foldl (fun acc y => f32Add acc (f32Mul y y)) 0
    let a := f32Add o.a (f32Div sum (f32c (fpOfNat t.elems)))
    let den := f32Add (f32Sqrt a) t.eps
    (xs.zipWith (fun x y => f32Sub x (f32Div (f32Mul lr y) den)) g, { o with a := a })
  else if t.opt = 4 then
    let st := if o.step + 1 < 2 ^ 32 then o.step + 1 else 2 ^ 32 - 1
    let c1 := f32Sub f32One (f32Pow b1 st)
    let c2 := f32Sub f32One (f32Pow b2 st)
    let m := o.m.zipWith (fun a y => f32Add (f32Mul b1 a) (f32Mul (f32Sub f32One b1) y)) g
    let v := o.v.zipWith (fun a y => f32Add (f32Mul b2 a) (f32Mul (f32Sub f32One b2) (f32Mul y y))) g
    let step := m.zipWith (fun a b => f32Div (f32Mul lr (f32Div a c1)) (f32Add (f32Sqrt (f32Div b c2)) t.eps)) v
    (xs.zipWith f32Sub step, { o with step := st, m := m, v := v })
  else (xs, o)

/-- One advance of the generator of R380. -/
def lfsrNext (st : Nat) : Nat := if st % 2 = 1 then Nat.xor (st / 2) 0x8020_0003 else st / 2

/-- The generator's states after each of n advances. -/
def lfsrRun : Nat → Nat → List Nat
  | 0, _ => []
  | n + 1, st => lfsrNext st :: lfsrRun n (lfsrNext st)

/-- Requantisation (R380, R381): SCALE, OFFSET and the codes, or none where the update is dropped; and the generator's state
after it. -/
def MapTab.requant (t : MapTab) (xs : List Nat) (gen : Nat) : Option (Nat × Nat × List Nat) × Nat :=
  let lo := f32v (f32Min xs)
  let hi := f32v (f32Max xs)
  if xs.any (fun c => (f32v c).nonfinite) || fpLt (fpOfNat 65504) (fpAbs lo) || fpLt (fpOfNat 65504) (fpAbs hi) then
    (none, gen)
  else
    let (sc, off) := rowScale t.bits lo hi
    let sts := if t.stoch then lfsrRun t.elems gen else []
    let gen2 := (sts.getLast?).getD gen
    if !fpLt lo hi then (some (0, off, List.replicate xs.length 0), gen2)
    else
      if (fpDecode f16 sc).nonfinite then (none, gen2)
      else
        let cs := xs.zipIdx.map (fun x => rowCode t.bits ((sts[x.2]?).map (· / 65536)) sc off x.1)
        (some (sc, off, cs), gen2)

/-- Home quadrant of the writing GSE: OWNER_SHARD (Tables MAP-2, MACH-3). -/
def gseQuad (g : Nat) : Nat := (homeQuad (pgGse g)).getD 0

/-- The bytes of a new slot of this device (Table MAP-2). -/
def MapTab.newSlot (t : MapTab) (g version epoch : Nat) (q : Nat × Nat × List Nat) (o : OptState) : List Byte :=
  padTo t.slotSize (padTo t.stateOff (leBytes 4 version ++ leBytes 2 q.1 ++ leBytes 2 q.2.1 ++ leBytes 2 (1 + 2 * b2n t.stoch)
    ++ leBytes 2 (gseQuad g % 4 + 0xFF00) ++ leBytes 4 epoch ++ packBits t.bits q.2.2) ++ t.stateBytesOf o)

/-- The new slot of an update or a PUT of a row, or none where it is dropped (R379, R381), and the generator after it. -/
def MapTab.rebuild (t : MapTab) (g version epoch gen : Nat) (isPut : Bool) (old : List Byte) (vals : List Nat) :
    Option (List Byte) × Nat :=
  let (xs, o) :=
    if isPut then (vals, t.zeroState)
    else if slotValid old then t.optimise (t.values old) (t.optState old) vals
    else t.optimise (List.replicate t.elems 0) t.zeroState vals
  if t.stateBad o then (none, gen)
  else
    match t.requant xs gen with
    | (none, gen2) => (none, gen2)
    | (some q, gen2) => (some (t.newSlot g version epoch q o), gen2)

/-! ### The sketch and the cache (R366 to R371) -/

/-- TABLE_ID and a row's bytes, as the hashes take them. -/
def rowKey (table row : Nat) : List Byte := leBytes 1 table ++ leBytes 4 row

/-- The index of counter i of a row. -/
def sketchIdx (i table row : Nat) : Nat := 65536 * i + crc32c (leBytes 1 i ++ rowKey table row) % 65536

/-- A counter of the sketch. -/
def State.counter (s : State) (k : Nat) : Nat := mapGet (fun _ => 0) s.rows.sketch k

/-- The estimate of a row. -/
def State.estimate (s : State) (table row : Nat) : Nat :=
  (List.range 4).foldl (fun n i => let c := s.counter (sketchIdx i table row); if c < n then c else n) 15

/-- A lookup of a cacheable row (R367). -/
def State.touch (table row : Nat) (s : State) : State :=
  let sk := (List.range 4).foldl (fun (m : NMap Nat) i =>
    let k := sketchIdx i table row
    mapSet (fun _ => 0) m k (clampNat 0 15 (mapGet (fun _ => 0) m k + 1))) s.rows.sketch
  if s.rd ROWCACHE.SKETCH_ACC + 1 = 2 ^ 20 then
    ((s.setRows { s.rows with
        sketch := (sk.map (fun e => (e.1, e.2 / 2))).filter (fun e => e.2 != 0) }).wr ROWCACHE.SKETCH_ACC 0).inc
      ROWCACHE.HALVINGS
  else (s.setRows { s.rows with sketch := sk }).wr ROWCACHE.SKETCH_ACC (s.rd ROWCACHE.SKETCH_ACC + 1)

/-- The sketch with every counter 0. -/
def State.clearSketch (s : State) : State := (s.setRows { s.rows with sketch := [] }).wr ROWCACHE.SKETCH_ACC 0

/-- Ways of a set, and sets of a partition. -/
def MapTab.ways (t : MapTab) : Nat := clampNat 0 8 t.perTile
def MapTab.sets (t : MapTab) : Nat := t.cacheTiles * (t.perTile / atLeast1 t.ways)
def MapTab.setOf (t : MapTab) (table row : Nat) : Nat := crc32c (rowKey table row) % atLeast1 t.sets

/-- The rows of a table are cacheable: it has a partition, and the cache is in use. -/
def State.cacheable (s : State) (t : MapTab) : Bool := decide (0 < t.sets) && (s.bst 0x063).live

/-- The cached copy of a row. -/
def State.cached (s : State) (table row : Nat) : Option CacheRow :=
  s.rows.cache.find? (fun c => decide (c.table = table) && decide (c.row = row))

/-- A replaced row's new contents in the cache: dirty, until they have reached the row's home slot (log entry 28). -/
def State.refresh (table row : Nat) (d : List Byte) (s : State) : State :=
  s.setRows { s.rows with cache := s.rows.cache.map (fun c =>
    if c.table = table ∧ c.row = row then { c with data := d, dirty := true } else c) }

/-- A dirty cached row is written to its home slot: the tile of the slot that its pointer names, if a copy of that tile holds it, is
written to its home (R51, R253, R368; log entry 28). -/
def State.rowBack (c : CacheRow) (s : State) : State :=
  if !c.dirty then s
  else
    let s := (s.setRows { s.rows with cache := s.rows.cache.map (fun x => if x = c then { x with dirty := false } else x) }).inc
      ROWCACHE.WRITEBACK_CNT
    match s.tabOf c.table with
    | none => s
    | some t => match t.locate (s.pointer t c.row).1 with
      | none => s
      | some (o, i, _) => match s.tileAddr t.ws o i, mapFind s.ck.slots ((s.tileAddr t.ws o i).getD 0) with
        | some a, some e => if e.copy && e.dirty && !e.writeback && !s.filling a then s.writeHome a else s
        | _, _ => s

/-- The dirty rows of the cache for which p holds are written back (R370, R394). -/
def State.rowsBack (p : CacheRow → Bool) (s : State) : State :=
  (s.rows.cache.filter (fun c => c.dirty && p c)).foldl (fun u c => u.rowBack c) s

/-- A row that has arrived is admitted to its set, or not (R368), if this device owns it (R366); `must` brings it in whatever its estimate
(R51). A dirty victim is written to its home slot first, within the tick (DESIGN CHOICE, log entry 28). -/
def State.admitRow (table : Nat) (t : MapTab) (row : Nat) (d : List Byte) (must : Bool) (s : State) : State :=
  if !s.cacheable t || (s.cached table row).isSome || decide (s.rowOwner table t row ≠ some 0) then s
  else
    let set := t.setOf table row
    let mine := s.rows.cache.filter (fun c => decide (c.table = table) && decide (c.set = set))
    let put := fun (w : Nat) (u : State) => (u.setRows { u.rows with
      cache := ({ table := table, row := row, set := set, way := w, data := d, dirty := false } : CacheRow) :: u.rows.cache }).inc
        ROWCACHE.ADMIT_CNT
    match firstIdx (fun w => !mine.any (fun c => c.way == w)) (List.range t.ways) with
    | some w => put w s
    | none =>
      match (List.range t.ways).foldl (fun (b : Option (CacheRow × Nat)) w =>
          match mine.find? (fun c => c.way == w) with
          | none => b
          | some c =>
            let e := s.estimate table c.row
            match b with
            | none => some (c, e)
            | some (x, n) => if e < n then some (c, e) else some (x, n)) none with
      | none => s
      | some (c, n) =>
        if must || decide (n < s.estimate table row) then
          let s := s.rowBack c
          put c.way ((s.setRows { s.rows with
            cache := s.rows.cache.filter (fun x => !(decide (x.table = c.table) && decide (x.row = c.row))) }).inc
              ROWCACHE.EVICT_CNT)
        else s.inc ROWCACHE.BYPASS_CNT

/-- RC_ALLOC: tiles held by partitions. -/
def State.cacheAlloc (s : State) : Nat := s.rows.tabs.foldl (fun n e => n + e.2.cacheTiles) 0

/-! ### Objects of row IDs and vectors -/

/-- Stored rows of a tile as 32-bit words. -/
def tileWords (l : List Byte) : List (List Nat) :=
  let h := hdrOf l
  (List.range h.dim0).map (fun i => unpackBits 32 h.dim1 (((payloadOf l).drop (i * h.pitch)).take (4 * h.dim1)))

/-- The rows of words of an object, tile after tile, in stored order (log entry 29). -/
def State.objWords (s : State) (w id : Nat) : List (List Nat) :=
  match s.objOf w id with
  | none => []
  | some o => (List.range o.tiles).flatMap (fun i => match s.freshTile w id i with
    | some l => tileWords l
    | none => [])

/-- The row IDs of an object, in order. -/
def State.rowIds (s : State) (w id : Nat) : List Nat := (s.objWords w id).flatMap (fun x => x)

/-- The table a step of a GSE names, and the objects of its IDs and, for an update, of its vectors. -/
def rowStep : PlanStep → Option (Nat × Nat × Option (Bool × Nat))
  | .gather t ids _ _ _ => some (t, ids, none)
  | .update t ids g => some (t, ids, some (false, g))
  | .put t ids v => some (t, ids, some (true, v))
  | _ => none

/-- A plan with an UPDATE or PUT step on an active table with LEARN = 0 (R386). -/
def State.updatesFixed (s : State) (p : Plan) : Bool :=
  p.steps.any (fun st => match rowStep st with
    | some (t, _, some _) => (match s.tabOf t with
      | some x => !x.learn
      | none => false)
    | _ => false)

/-- The GSEs that are fenced or faulted. -/
def State.gsesOut (s : State) : List Nat :=
  (List.range 2).filter (fun g => match s.bst (pgGse g) with
    | .fenced => true
    | .faulted => true
    | _ => false)

/-- The scheduler reads the row IDs of a plan's updates where a GSE is out (R30, R395, R277). -/
def State.readIds (w objA : Nat) (p : Plan) (s : State) : State :=
  if s.gsesOut.isEmpty then s
  else p.steps.foldl (fun (t : State) st => match rowStep st with
    | some (_, ids, some _) => (t.moverReads 0x003 w (t.objTiles w (if ids = 0 then objA else ids))).2
    | _ => t) s

/-- A plan with an update of a range whose GSE is fenced or faulted (R395): the GSE's unit. -/
def State.fencedWriter (s : State) (w objA : Nat) (p : Plan) : Option Nat :=
  let out := s.gsesOut
  if out.isEmpty then none
  else (p.steps.findSome? (fun st => match rowStep st with
    | some (t, ids, some _) => (match s.tabOf t with
      | some x => ((s.rowIds w (if ids = 0 then objA else ids)).find? (fun r =>
          decide (r < x.rows) && out.contains (x.writer r))).map x.writer
      | none => none)
    | _ => none)).map (10 + ·)

end Sys2Proof.Machine
end

