-- ==== Sys2Proof/Machine/Admit.lean ====
section
/-! DEFINITION. Admission: rings and their descriptors, the malformed cases, estimates and snapshots, the decision on a
head descriptor, and what an admitted ALLOC, FREE, LOAD_PLAN or FLUSH does (R247 to R256, R285 to R307, R349 to R356). -/

namespace Sys2Proof.Machine

/-! ### Rings (R286 to R289) -/

/-- The key of a ring. -/
def ringKey (w r : Nat) : Nat := 4 * w + r

/-- Base of a command ring; bits below its size are taken as 0 (R286, R657). -/
def State.ringBase (s : State) (w r : Nat) : Nat :=
  let n := 64 * s.ringSize w r
  s.rd64 (WS.RING_BASE_LO w r) (WS.RING_BASE_HI w r) / n * n

/-- The 64 bytes of an entry of a ring, in the Casket or in host memory. -/
def State.entryAt (s : State) (w r i : Nat) : List Byte :=
  let a := s.ringBase w r + 64 * (i % s.ringSize w r)
  if s.on (WS.RING_CFG_LOC w r) then s.hostRead a 64 else s.dpaRead a 64

/-- Submit ticks of a ring's pending descriptors, oldest first. -/
def State.submits (s : State) (w r : Nat) : List Nat := mapGet (fun _ => []) s.sch.submits (ringKey w r)

/-- The state with the submit ticks of a ring. -/
def State.setSubmits (w r : Nat) (l : List Nat) (s : State) : State :=
  s.setSch { s.sch with submits := mapSet (fun _ => []) s.sch.submits (ringKey w r) l }

/-- The head advances by n descriptors (R286). -/
def State.advance (w r n : Nat) (s : State) : State :=
  let s := s.wr (WS.RING_HEAD w r) ((s.rd (WS.RING_HEAD w r) + n) % s.ringSize w r)
  let s := s.setSubmits w r ((s.submits w r).drop n)
  s.setSch { s.sch with overloaded := s.sch.overloaded.filter (fun k => k != ringKey w r) }

/-- The first n pending descriptors of a ring are withdrawn without records (R288). -/
def State.withdraw (w r n : Nat) (s : State) : State :=
  if n = 0 then s else (s.incBy (WS.WITHDRAWN w) n).advance w r n

/-- Cancels written before this tick take effect: what was pending then is withdrawn (R285, R288). -/
def State.applyCancels (s : State) : State :=
  let due := s.sch.cancels.filter (fun e => decide (e.2 < s.tick))
  let s := s.setSch { s.sch with cancels := s.sch.cancels.filter (fun e => !decide (e.2 < s.tick)) }
  due.foldl (fun (t : State) e =>
    let w := e.1 / 4
    let r := e.1 % 4
    t.withdraw w r (((t.submits w r).filter (fun x => decide (x ≤ e.2))).length)) s

/-- The head descriptor of a ring that is a candidate: its page READY or ACTIVE, the ring not stopped, something
pending, and a host ring readable (R283, R289, R291). -/
def State.head (s : State) (w r : Nat) : Option Desc :=
  if (s.bst (pgWs w)).up && !s.on (WS.RING_CFG_STOPPED w r) && decide (0 < s.ringPending w r)
      && (!s.on (WS.RING_CFG_LOC w r) || s.hifUp) then
    some (descOf (s.entryAt w r (s.rd (WS.RING_HEAD w r))))
  else none

/-- Pending descriptors of one class, device-wide (SNAP_PENDING). -/
def State.pendingOf (s : State) (cls : Nat) : Nat :=
  (List.range 64).foldl (fun n w => (List.range 4).foldl (fun n r =>
    n + ((List.range (s.ringPending w r)).filter (fun i =>
      decide ((descOf (s.entryAt w r (s.rd (WS.RING_HEAD w r) + i))).cls = cls))).length) n) 0

/-! ### Names (R102, R248, R292) -/

/-- An object named by OBJ_A or OBJ_B: an ID, or by address the object that starts there, or the tiles there (R248). -/
def State.nameOf (s : State) (w : Nat) (addr : Bool) (x n : Nat) : Nat :=
  if !addr then x
  else match s.ck.objs.find? (fun o => decide (o.ws = w) && decide (o.addrs.head? = some x)) with
    | some o => o.id
    | none => addrName (x % 2 ^ 48) n

/-- The plan a RUN names. -/
def State.planOf (s : State) (w id : Nat) : Option PlanSlot := mapFind s.sch.plans (planKey w id)

/-- Unit claims of a descriptor (Table WK-2, Table WK-4). -/
def State.claimsOf (s : State) (w : Nat) (d : Desc) : List (Nat × Nat) :=
  if d.op = opRun then (match s.planOf w d.planId with
    | some p => p.plan.units
    | none => [])
  else if d.op = opDmaIn ∨ d.op = opDmaOut then [(15, ceilDiv d.count 128000)]
  else []

/-- The Lockets that a step's engines serve (R24). -/
def stepLockets : PlanStep → Nat
  | .phase set _ _ _ _ _ _ _ _ => set
  | _ => 0

/-- A step reads OBJ_A, and one writes OBJ_B, where it names object 0; an ISE solve has no other names (R442, log entry 6). -/
def stepReadsA : PlanStep → Bool
  | .merge _ _ _ _ inObj _ => inObj == 0
  | .solve => true
  | st => (stepInputs st).contains 0
def stepWritesB : PlanStep → Bool
  | .solve => true
  | st => (stepOutputs st).contains 0

/-- A step takes a name of the descriptor, OBJ_A to read or OBJ_B to write, that its engines may not reach (R24, R102, R246). -/
def State.stepNamesBad (s : State) (w a b : Nat) (st : PlanStep) : Bool :=
  (stepReadsA st && s.nameBad w (stepLockets st) a 0 false) || (stepWritesB st && s.nameBad w (stepLockets st) b 0 true)

/-- A descriptor that names what it may not: addresses (R102, R248), an object written where its home is in T3 to T5, or a Locket for
an engine of another die (R24, R246). HIF DMA runs on no Facet. -/
def State.namesBad (s : State) (w : Nat) (d : Desc) : Bool :=
  (match s.planOf w d.planId with
   | some p => d.op == opRun
       && p.plan.steps.any (s.stepNamesBad w (s.nameOf w d.addr d.objA 1) (s.nameOf w d.addr d.objB 1))
   | none => false)
  || (!d.addr && ((d.op == opDmaIn && s.nameBad w 0 d.objA 0 true)
      || ((d.op == opDmaOut || d.op == opLoadPlan) && s.nameBad w 0 d.objA 0 false)))
  || d.addr && (!s.addrVis w
    || (if d.op = opRun then s.addrBad 15 d.objA false || s.addrBad 15 d.objB false
        else if d.op = opDmaIn then s.rangeBad 0 d.objA d.count true
        else if d.op = opDmaOut then s.rangeBad 0 d.objA d.count false
        else if d.op = opLoadPlan then decide (d.objA ≠ 0) && s.rangeBad 0 d.objA tileSize false
        else if d.op = opAlloc then true
        else false))

/-- The table of reshard descriptors and the one at an index (R262, R264). -/
def State.rsdTableBad (s : State) (i : Nat) : Bool :=
  let base := s.rd64 CK_RESHARD.RSD_BASE_LO CK_RESHARD.RSD_BASE_HI / 8192 * 8192
  let n := clampNat 0 256 (s.rd CK_RESHARD.RSD_COUNT)
  decide (n ≤ i) || !inCasket base (32 * n)
    || rsdBad i (s.dpaRead (base + 32 * i) 32)

/-- The copy of a reshard descriptor. -/
def State.rsdAt (s : State) (i : Nat) : Rsd :=
  rsdOf i (s.dpaRead (s.rd64 CK_RESHARD.RSD_BASE_LO CK_RESHARD.RSD_BASE_HI / 8192 * 8192 + 32 * i) 32)

/-- The malformed reshard descriptor a RUN names, if it names one (R264). -/
def State.badRsd (s : State) (w : Nat) (d : Desc) : Option Nat :=
  if d.op = opRun then (match s.planOf w d.planId with
    | some p => (planRsds p.plan).find? (fun i => s.rsdTableBad i)
    | none => none)
  else none

/-- Some tile of an object is pinned by a plan slot (R292, R351). -/
def State.objPinned (s : State) (w id : Nat) : Bool :=
  s.ck.slots.any (fun e => decide (e.2.ws = w) && decide (e.2.obj = id) && e.2.pin.isSome)

/-- The home tier of an ALLOC by mode and placement word (R247, R249); none where they make it malformed. So does, in OBJECT mode, TIER 0
with QUAD 3 on the PMX-7241, whose Locket L3 is absent: the spec gives it no outcome (R2, R48; DESIGN CHOICE, log entry 102). -/
def State.allocHome (s : State) (w place : Nat) : Option Nat :=
  if placeBad place then none
  else if placeKeep place then some 1
  else if s.hintMode w then
    (if placeReadOnly place then (if 2 ≤ placeTier place then some (placeTier place) else none) else some 2)
  else if placeTier place = 0 then
    (if placeQuadEn place && s.hasFacet (placeQuad place) then some 0 else none)
  else some (placeTier place)

/-- The origin address of an ALLOC whose home is in T3 to T5 (R665). -/
def State.originOk (s : State) (w tier a n : Nat) : Bool :=
  let last := a + (n - 1) * tileSize
  decide (a % tileSize = 0)
    && (match regionOf s.part a with
        | .peer p => decide (tier = 3) && decide (regionOf s.part last = .peer p)
        | .guest => decide (tier = 3) && decide (regionOf s.part last = .guest)
        | .host => decide (tier = 4) && decide (regionOf s.part last = .host)
        | .flash => decide (tier = 5) && decide (regionOf s.part last = .flash)
        | _ => false)
    && (decide (tier = 4) || s.addrVis w)

/-- The malformed cases of R290 and the other descriptor errors that end a request in its decision tick with TIER_FAILED,
CAUSE 0x01 (R102, R247, R248, R264, R292, R582, R665). -/
def State.malformed (s : State) (w : Nat) (d : Desc) : Bool :=
  decide (opFlush < d.op) || d.reservedSet || (decide (d.cls = 0) && decide (d.deadline = 0)) || s.namesBad w d
    || (decide (d.op = opRun) && (decide (1023 < d.planId) || (s.planOf w d.planId).isNone || (s.badRsd w d).isSome))
    || (decide (d.op = opLoadPlan) && decide (1023 < d.planId))
    || ((decide (d.op = opDmaIn) || decide (d.op = opDmaOut))
        && (decide (d.count = 0) || decide (d.count % 64 ≠ 0) || decide (d.objB % 64 ≠ 0)))
    || (decide (d.op = opAlloc) && (decide (d.count = 0) || (s.objOf w d.objA).isSome
        || (match s.allocHome w d.place with
            | none => true
            | some t => decide (3 ≤ t) && !s.originOk w t d.objB d.count)))
    || ((decide (d.op = opFree) || decide (d.op = opFlush))
        && (match s.ck.objs.find? (fun o => decide (o.ws = w) && decide (o.id = s.nameOf w d.addr d.objA 1)) with
            | none => true
            | some o => decide (d.op = opFree) && o.freedBy.isNone && s.objPinned w o.id))

/-! ### Estimates and snapshots (R296, R298, Table WK-3) -/

/-- e(u): an estimate scaled to the operating point in force on the unit. -/
def State.scaled (s : State) (u e : Nat) : Nat := if u < 8 then ceilDiv (e * 2000) (opMHz (s.facetOp (u % 4))) else e

/-- Units claimed, each once, with the whole estimate on it. -/
def unitClaims (est : List (Nat × Nat)) : List (Nat × Nat) :=
  ((est.map (·.1)).eraseDups).map (fun u => (u, estOn est u))

/-- S(w, c). -/
def State.share (s : State) (w c : Nat) : Nat := s.rd (WS.SHARE w c)

/-- The bottleneck unit: the largest claim among the units of a request, ties to the lower unit. -/
def State.bottleneck (s : State) (units : List Nat) : Option Nat :=
  (units.foldl (fun (b : Option (Nat × Nat)) u =>
    let c := s.claimAll u
    match b with
    | none => some (u, c)
    | some (v, m) => if m < c ∨ (m = c ∧ u < v) then some (u, c) else some (v, m)) none).map (·.1)

/-- v in units of 0.5 % of a capacity, saturating. -/
def halfPercent (v cap : Nat) : Nat := if cap = 0 then 255 else satBits 8 (v * 200 / cap)

/-- The capacity snapshot of a decision, taken after it. With no unit claimed the manual gives SNAP_UNIT alone; the other
bytes are free values. -/
def State.snapOf (s : State) (w cls : Nat) (units : List Nat) : Snap × State :=
  let p := satBits 16 (s.pendingOf cls)
  match s.bottleneck units with
  | none =>
    let (a, s) := s.freeBits 8
    let (b, s) := s.freeBits 8
    let (c, s) := s.freeBits 8
    ({ unit := 0xFF, claim := a, headroom := b, op := c, pending := p }, s)
  | some u =>
    let cap := s.capacity u
    ({ unit := u, claim := halfPercent (s.claimAll u) cap,
       headroom := halfPercent (s.share w cls * cap - 1000 * s.claimOf w cls u) (1000 * cap),
       op := if u < 8 then s.facetOp (u % 4) else 0xF, pending := p }, s)

/-! ### Requests made from descriptors -/

/-- The objects a request names, in its descriptor or through its plan (R292). -/
def State.namesOf (s : State) (w : Nat) (d : Desc) : List Nat :=
  let a := s.nameOf w d.addr d.objA 1
  if d.op = opRun then
    (match s.planOf w d.planId with
     | none => []
     | some p =>
       let layers := match p.plan.model with
         | some m => modelLayers m
         | none => []
       (a :: s.nameOf w d.addr d.objB 1 :: p.plan.steps.flatMap (fun st => stepInputs st ++ stepOutputs st ++ (match st with
        | .merge _ _ _ n 0 _ => (List.range n).map (a + ·)
        | _ => []))) ++ layers)
  else if d.op = opDmaIn ∨ d.op = opDmaOut ∨ d.op = opLoadPlan ∨ d.op = opFlush then [a]
  else []

/-- The request a descriptor becomes (R288). -/
def State.reqOf (w r : Nat) (d : Desc) (desc : List Byte) (submit : Nat) (loan overload : Bool) (snap : Snap)
    (s : State) : Req :=
  let dma := d.op == opDmaIn || d.op == opDmaOut
  let p := if d.op = opRun then s.planOf w d.planId else none
  { ws := w, ring := r, op := d.op, cls := d.cls, irq := d.irq, addr := d.addr, tag := d.tag, planId := d.planId,
    deadline := d.due, objA := if d.addr && dma then addrName (d.objA % 2 ^ 48) (ceilDiv d.count tileSize) else s.nameOf w d.addr d.objA 1,
    objB := if d.op = opRun then s.nameOf w d.addr d.objB 64 else d.objB,
    place := d.place, count := d.count, args := d.args, submit := submit, admitTick := s.tick, start := none, loan := loan,
    overload := overload, preempts := 0, phase := .waiting, yieldBy := none, est := unitClaims (s.claimsOf w d),
    steps := (match p with
      | some x => x.plan.steps
      | none => []),
    snap := snap,
    rsds := (match p with
      | some x => (planRsds x.plan).eraseDups.map s.rsdAt
      | none => []),
    done := 0,
    held := (s.namesOf w d).eraseDups.filter (fun id => match s.objOf w id with
      | some o => o.freedBy.isNone
      | none => true),
    ports := [], hostOut := false, guarded := s.sentinel && s.on BZ_FAULT.GUARANTEE_OK, desc := desc.take 56, want := [],
    buf := [], guestRead := none, causeBits := 0, slot := p, perFacet := [], resharded := 0, srcDims := [], partials := [], abft := none, flushing := false, prior := none,
    stepTick := s.tick, failedIns := [], store := none, seen := [], late := [], ends := none }

/-- A descriptor that becomes a request and ends in its decision tick, with the units its decision looked at (R288, R298,
R305). -/
def State.endAtOnce (w r : Nat) (d : Desc) (submit outcome cause : Nat) (units : List Nat) (s : State) : State :=
  let ovl := s.sch.overloaded.contains (ringKey w r)
  let bytes := s.entryAt w r (s.rd (WS.RING_HEAD w r))
  let s := s.advance w r 1
  let (snap, s) := s.snapOf w d.cls units
  s.finalRecord (s.reqOf w r d bytes submit false ovl snap) outcome cause

/-! ### Taking the slots of an ALLOC or a load (R247, R249, R251 to R255, R351) -/

/-- The slot one want takes: the keep region, a Locket, or T1 or T2 by R252. A home without LOSS_OK takes no pool space
(R253), nor does a writable OBJECT home in T0 or T1 (R255), nor anything a load pins (R350). -/
def State.takeWant (rid : Nat) (r : Req) (x : Want) (s : State) : SlotAns × State :=
  if x.home && placeKeep r.place then
    (match s.freeKeep with
     | some a => (.got a false, s)
     | none => (.refuse ocRefusedCapacity, s))
  else if x.tier = 0 then s.takeFor rid 0 x.locket (State.takeLocket r.ws x.locket)
  else
    let pool := x.home && placePoolOk r.place && placeLossOk r.place
      && !(!s.hintMode r.ws && !placeReadOnly r.place && decide (x.tier = 1))
    let place := if x.home then r.place else ((s.objOf r.ws x.obj).map (·.place)).getD 0
    s.takeFor rid x.tier 0 (State.takeTile r.ws x.tier place pool)

/-- A slot that a load pins is named in its plan slot, wherever that stands: in the load, in the plan's place, and in the RUNs that the
scheduler admitted meanwhile (R351, R355). -/
def State.pinTo (r : Req) (a : Nat) (window : Bool) (s : State) : State :=
  match r.slot with
  | none => s
  | some p =>
    let more := fun (x : PlanSlot) => if x = p then { x with pinned := a :: p.pinned, window := if window then a :: p.window else p.window } else x
    s.setSch { s.sch with
      plans := mapModify more s.sch.plans (planKey r.ws r.planId)
      reqs := mapAll (fun _ q => if q.ws = r.ws ∧ q.planId = r.planId ∧ (q.op = opRun ∨ q.op = opLoadPlan) then
        { q with slot := q.slot.map more, prior := q.prior.map more } else q) s.sch.reqs }

/-- A slot taken for a want: its record, its place in the object or among the pins, and a fetch where it is for a weight
tile. -/
def State.gotWant (rid : Nat) (r : Req) (x : Want) (a : Nat) (borrowed : Bool) (s : State) : State :=
  let e := newSlot r.ws x.obj x.tile x.tier borrowed (!x.home) r.place s.tick [rid]
  let s := s.modReq rid (fun q => { q with want := q.want.drop 1 })
  if x.home then (s.putSlot a e).modObj r.ws x.obj (fun o => { o with addrs := o.addrs ++ [a] })
  else
    let s := s.putSlot a { e with pin := some (planKey r.ws r.planId), keep := false }
    let s := s.pinTo r a x.window
    let s := if x.tier = 0 then s.syncLent else s
    match s.objOf r.ws x.obj with
    | some o => if x.obj < 2 ^ 64 then (s.issueFetch rid r.ws o x.tile (some a) true).started rid else s
    | none => s

/-- A want that cannot be met: the object of an ALLOC is released again, a load leaves nothing pinned (R352). -/
def State.endWant (rid : Nat) (r : Req) (outcome : Nat) (s : State) : State :=
  let s := if r.op = opAlloc then s.releaseObj r.ws r.objA else s
  s.endReq rid outcome 0

/-- Everything is taken: an ALLOC ends with DONE; a load ends now unless a weight tile is still being fetched. -/
def State.wantsDone (rid : Nat) (r : Req) (s : State) : State :=
  if r.op = opAlloc then s.endReq rid (finalOutcome r.cls r.deadline s.tick r.overload) 0
  else if s.waits rid then s else s.loadEnds rid

/-- The wants of a request are met in order, as far as free slots allow; a slot being written back is waited for (R253). -/
def State.doWants (rid : Nat) : Nat → State → State
  | 0, s => s
  | n + 1, s =>
    match s.req rid with
    | none => s
    | some r =>
      match r.want with
      | [] => s.wantsDone rid r
      | x :: _ =>
        match s.takeWant rid r x with
        | (.got a b, t) => State.doWants rid n (t.gotWant rid r x a b)
        | (.wait _ _, t) => t
        | (.refuse oc, t) => t.endWant rid r oc

/-- The wants of every request that waits for a slot are tried again. -/
def State.retryWants (s : State) : State :=
  (mapKeys (fun _ r => !r.want.isEmpty) s.sch.reqs).foldl (fun t rid => match t.req rid with
    | none => t
    | some r => t.doWants rid (r.want.length + 1)) s

/-! ### What an admitted descriptor does at once -/

/-- ALLOC (R247, R249, R251, R255, R665). A Locket that is lent is reclaimed (R324). -/
def State.doAlloc (rid w : Nat) (d : Desc) (s : State) : State :=
  match s.allocHome w d.place with
  | none => s.endReq rid ocTierFailed 1
  | some home =>
    if placeKeep d.place && decide (w ≠ 0) then s.endReq rid ocRefusedQuota 0
    else
      let far := decide (3 ≤ home)
      let o : Obj := {
        ws := w, id := d.objA, tiles := d.count, home := home, place := d.place,
        addrs := if far then (List.range d.count).map (fun i => d.objB + i * tileSize) else [],
        lost := false, freedBy := none }
      let s := s.setCk { s.ck with objs := s.ck.objs ++ [o] }
      let wants : List Want := if far then [] else (List.range d.count).map (fun i =>
        { tier := home, locket := placeQuad d.place, obj := d.objA, tile := i, home := true, window := false })
      let s := s.modReq rid (fun q => { q with want := wants })
      (s.doWants rid (wants.length + 1)).syncLent

/-- FREE (R292): from now on the object cannot be named; its tiles are released when its last holder ends. One that an earlier FREE has
released cannot be named. -/
def State.doFree (rid w : Nat) (d : Desc) (s : State) : State :=
  let id := s.nameOf w d.addr d.objA 1
  if (s.objOf w id).any (fun o => o.freedBy.isSome) then s.endReq rid ocTierFailed 0
  else (s.modObj w id (fun o => { o with freedBy := some rid })).finishFrees [(w, id)]

/-- The dirty copies of an object, by slot. -/
def State.dirtyCopies (s : State) (w id : Nat) : List Nat :=
  mapKeys (fun _ e => decide (e.ws = w) && decide (e.obj = id) && e.copy && e.dirty) s.ck.slots

/-- FLUSH: dirty copies of the object are written to its home tier (R246, Table WK-2); an object that a FREE has released cannot be named
(R292). -/
def State.doFlush (rid w : Nat) (d : Desc) (s : State) : State :=
  let id := s.nameOf w d.addr d.objA 1
  if (s.objOf w id).any (fun o => o.freedBy.isSome) then s.endReq rid ocTierFailed 0
  else
    let s := (s.dirtyCopies w id).foldl (fun t a => (t.writeHome a).started rid) s
    match s.req rid with
    | none => s
    | some r => s.endReq rid (finalOutcome r.cls r.deadline s.tick r.overload) 0

/-! ### Loading a plan (R349 to R356) -/

/-- The bytes of an object, payload after payload, as the scheduler reads them; none where a tile is lost, unreachable or fails the
install check, or the scheduler may not reach it (R102, R244). The load test is made in the tick of admission (R353), so that the
image is read in it. -/
def State.imageOf (w id : Nat) (s : State) : Option (List Byte) × State :=
  if (s.objOf w id).isNone || s.nameBad w 0 id 0 false then (none, s)
  else
    let (m, s) := s.moverReads 0x003 w (s.objTiles w id)
    (m.bind (fun l => if l.all (installOk s.tileCheckOn) then some (l.flatMap payloadOf) else none), s)

/-- Planning bandwidth of the load test, in bytes per tick (Table FCT-6). -/
def planBw (origin : Nat) : Nat :=
  if origin = 2 then 1200000 else if origin = 3 then 2500 else if origin = 4 then 100000 else 6000

/-- avail_T0(f) and avail_T1 of the load test. -/
def State.availT0 (s : State) (w f : Nat) : Nat := s.quota w 0 - s.pinned w 0 f
def State.availT1 (s : State) (w : Nat) : Nat := s.quota w 1 - s.pinned w 1 0

/-- How the load test ends (R350): MODEL_EXCEEDS with a cause, or a load: the phases kept resident and whether it is
streamed. -/
inductive LoadAns where
  | exceeds (cause : Nat)
  | load (resident : Nat) (streamed : Bool)
deriving DecidableEq, Repr

/-- Phases in ascending KEEP_RANK, with their indices; equal ranks in phase order. -/
def byRank (ps : List ModelPhase) : List (Nat × ModelPhase) :=
  ps.zipIdx.foldl (fun l x => l.takeWhile (fun y => decide (y.2.keepRank ≤ x.1.keepRank)) ++ [(x.2, x.1)]
    ++ l.dropWhile (fun y => decide (y.2.keepRank ≤ x.1.keepRank))) []

/-- The load test of R350. -/
def State.loadTest (s : State) (w period : Nat) (m : ModelSection) : LoadAns :=
  let fs := setBitsBelow 4 m.facetSet
  if fs.any (fun f => decide (s.availT0 w f < m.a0Tiles)) || decide (s.availT1 w < m.a1Tiles) then .exceeds 1
  else
    let spare := fs.foldl (fun n f => n + (s.availT0 w f - m.a0Tiles)) (s.availT1 w - m.a1Tiles)
    if m.wTiles ≤ spare then .load (2 ^ m.phases.length - 1) false
    else if spare < m.winTiles then .exceeds 2
    else
      let kept := ((byRank m.phases).foldl (fun (a : Nat × Nat) x =>
        if x.2.wTiles ≤ a.1 then (a.1 - x.2.wTiles, a.2 + 2 ^ x.1) else a) (spare - m.winTiles, 0)).2
      let t := m.phases.zipIdx.foldl (fun n x =>
        let bytes := if bit kept x.2 then 0 else x.1.wTiles * tileSize
        let st := ceilDiv bytes (planBw m.origin)
        n + (if st < x.1.cTicks then x.1.cTicks else st)) 0
      if 0 < period ∧ 9 * period < 10 * t then .exceeds 3 else .load kept true

/-- Weight tiles of the resident phases. -/
def State.residentTiles (s : State) (w resident : Nat) (m : ModelSection) : List (Nat × Nat) :=
  m.phases.zipIdx.flatMap (fun x => if bit resident x.2 then
      x.1.layers.flatMap (fun id => match s.objOf w id with
        | some o => (List.range o.tiles).map (fun i => (id, i))
        | none => [])
    else [])

/-- What an accepted load pins (R351): activations in each Locket of the set and in T1, the window, the resident weights;
the spare of T1 is filled first, then the Lockets in ascending order (log entry 26). -/
def State.loadWants (s : State) (w resident : Nat) (streamed : Bool) (m : ModelSection) : List Want :=
  let fs := setBitsBelow 4 m.facetSet
  let act := fs.flatMap (fun f => List.replicate m.a0Tiles
      ({ tier := 0, locket := f, obj := noObj, tile := 0, home := false, window := false } : Want))
    ++ List.replicate m.a1Tiles { tier := 1, locket := 0, obj := noObj, tile := 0, home := false, window := false }
  let rest := (if streamed then List.replicate m.winTiles (noObj, 0, true) else [])
    ++ (s.residentTiles w resident m).map (fun x => (x.1, x.2, false))
  let room := (1, 0, s.availT1 w - m.a1Tiles) :: fs.map (fun f => (0, f, s.availT0 w f - m.a0Tiles))
  let placed := room.foldl (fun (acc : List Want × List (Nat × Nat × Bool)) p =>
    (acc.1 ++ (acc.2.take p.2.2).map (fun x =>
      ({ tier := p.1, locket := p.2.1, obj := x.1, tile := x.2.1, home := false, window := x.2.2 } : Want)),
     acc.2.drop p.2.2)) ([], rest)
  act ++ placed.1

/-- A pattern as Smipor compiles it: for each row its columns of the lower triangle, ascending, the diagonal last (R441). -/
def patternOk (c : IseSchedule) : Bool :=
  decide (c.pattern.length = c.n) && decide (c.pattern.foldl (fun n l => n + l.length) 0 = c.nnzL)
    && c.pattern.zipIdx.all (fun e => decide (e.1.getLast? = some e.2) && (e.1.zip e.1.tail).all (fun x => decide (x.1 < x.2)))

/-- The schedule section has every field in its range (Table ISE-1, R441). -/
def scheduleOk (c : IseSchedule) : Bool :=
  let ic := decide (c.prec = 3)
  let lev := fun (n : Nat) => if ic then decide (1 ≤ n) && decide (n ≤ 65535) else decide (n = 0)
  let one := fpOfNat 1
  decide (1 ≤ c.n) && decide (c.n ≤ 1048576) && decide (c.n ≤ c.nnz) && decide (c.nnz ≤ 67108864) && decide (c.prec ≤ 3)
    && (if c.prec = 2 then decide (1 ≤ c.block) && decide (c.block ≤ 8) else decide (c.block = 0))
    && (decide (c.factorTier = 1) || (ic && decide (c.factorTier = 2))) && decide (2 * c.nnzL = c.nnz + c.n)
    && lev c.levelsF && lev c.levelsB && decide (1 ≤ c.maxIter) && decide (c.maxIter ≤ 65535)
    && fpLt (.fin false 0 0) (f32v c.tol) && fpLt (f32v c.tol) one && patternOk c

/-- An ISE plan image that R440 or R441 calls malformed: it names one ISE, and its schedule section and pattern are sound. -/
def State.iseBad (w : Nat) (p : Plan) (s : State) : Bool × State :=
  let units := (p.units.map (·.1)).filter (fun u => u == 12 || u == 13)
  match p.ise with
  | none => (p.steps.any (fun st => st == .solve), s)
  | some c =>
    if decide (units.eraseDups.length ≠ 1) || !scheduleOk c
      || !(match s.objOf w c.patternObj with
        | some o => placeReadOnly o.place
        | none => false) then (true, s)
    else
      let (b, s) := s.imageOf w c.patternObj
      (b.isNone, s)

/-- An accepted load takes its plan slot in this tick, and RUNs admitted from it on run with the new plan; what stood there before is
kept until the load has ended (R352, R355). -/
def State.acceptLoad (rid : Nat) (r : Req) (p : PlanSlot) (s : State) : State :=
  let k := planKey r.ws r.planId
  let old := mapFind s.sch.plans k
  s.setSch { s.sch with
    plans := mapInsert s.sch.plans k p
    reqs := mapModify (fun q => { q with slot := some p, prior := old }) s.sch.reqs rid }

/-- The plan of an image is tested, and its load accepted or ended (R325, R333, R350, R356). -/
def State.tryLoad (rid : Nat) (r : Req) (plan : Plan) (s : State) : State :=
  let (bad, s) := s.iseBad r.ws plan
  if planBad s.part plan || s.updatesFixed plan || bad then s.endReq rid ocTierFailed 1
  else if planAbsent s.part plan then s.endReq rid ocUnitOffline 3
  else
    let slot : PlanSlot := { plan := plan, resident := 0, streamed := false, window := [], pinned := [] }
    match plan.model with
    | none => (s.acceptLoad rid r slot).loadEnds rid
    | some m =>
      match (setBitsBelow 4 m.facetSet).find? (fun f => s.unitOut f) with
      | some f => s.endReq rid ocUnitOffline (s.unitOutCause f)
      | none =>
        match s.loadTest r.ws (fieldAt r.args 0 4) m with
        | .exceeds c => s.endReq rid ocModelExceeds c
        | .load res st =>
          let wants := s.loadWants r.ws res st m
          ((s.acceptLoad rid r { slot with resident := res, streamed := st }).modReq rid (fun q => { q with want := wants })).doWants
            rid (wants.length + 1)

/-- LOAD_PLAN (R325, R333, R349 to R356). -/
def State.doLoad (rid w : Nat) (d : Desc) (s : State) : State :=
  match s.req rid with
  | none => s
  | some r =>
    if d.objA = 0 then
      (s.replacePlan w d.planId none).endReq rid (finalOutcome r.cls r.deadline s.tick r.overload) 0
    else match s.objOf w r.objA with
      | none => s.endReq rid ocTierFailed 0
      | some o =>
        if s.freedFor rid o then s.endReq rid ocTierFailed 0
        else match s.imageOf w r.objA with
          | (none, s) => s.endReq rid ocTierFailed 0
          | (some bytes, s) => s.tryLoad rid r (planOfBytes bytes)

/-! ### The decision (R298, R304) -/

/-- The state with a request told to yield by a preemption decided now (R302). -/
def State.preempt (rid : Nat) (overload : Bool) (s : State) : State :=
  s.modReq rid (fun q => if q.yieldBy.isSome then q
    else { q with yieldBy := some (s.tick, overload) })

/-- A deadline as it orders requests within a class: LEARN and BULK have none, and a MAP without one comes last (R297). -/
def deadlineKey (cls deadline : Nat) : Nat := if 1 < cls then 0 else if cls = 1 ∧ deadline = 0 then 2 ^ 64 else deadline

/-- The order of R297: class, deadline within FRAME and MAP, submit tick, workspace, ring. -/
def orderKey (cls deadline submit w r : Nat) : List Nat := [cls, deadlineKey cls deadline, submit, w, r]

/-- Lexicographic order. -/
def lexLt : List Nat → List Nat → Bool
  | a :: r, b :: q => if a < b then true else if b < a then false else lexLt r q
  | _, _ => false

def Req.key (r : Req) : List Nat := orderKey r.cls r.deadline r.submit r.ws r.ring

/-- The victims of a FRAME request admitted under the overload rules, on each unit it needs (Table WK-5): the request of the
lowest class, loans before in-share, the latest deadline first; never a FRAME with an earlier or equal deadline. -/
def State.frameVictim (s : State) (deadline u : Nat) : Option Nat :=
  (s.sch.reqs.foldl (fun (b : Option (Nat × Req)) e =>
    let q := e.2
    if q.phase = .running ∧ q.claims u ∧ q.yieldBy = none ∧ (0 < q.cls ∨ deadline < q.deadline) then
      (match b with
       | none => some e
       | some (k, v) =>
         if lexLt [v.cls, b2n v.loan, deadlineKey v.cls v.deadline] [q.cls, b2n q.loan, deadlineKey q.cls q.deadline] then some e else some (k, v))
    else b) none).map (·.1)

/-- What an admitted request does in its decision tick, by its opcode. -/
def State.begins (rid w : Nat) (d : Desc) (q : Req) (s : State) : State :=
  if d.op = opNop then s.endReq rid (finalOutcome q.cls q.deadline s.tick q.overload) 0
  else if d.op = opAlloc then s.doAlloc rid w d
  else if d.op = opFree then s.doFree rid w d
  else if d.op = opLoadPlan then s.doLoad rid w d
  else if d.op = opFlush then s.doFlush rid w d
  else if q.est.isEmpty then
    (s.modReq rid (fun x => { x with phase := .running })).startStep rid
  else s

/-- The descriptor is admitted: it becomes a request, its record's slot is reserved, and what it does at once happens; one that
this ends is over at once (R288, R294, R318). -/
def State.takeIn (w r : Nat) (d : Desc) (submit : Nat) (loan : Bool) (s : State) : State :=
  let ovl := s.sch.overloaded.contains (ringKey w r)
  let bytes := s.entryAt w r (s.rd (WS.RING_HEAD w r))
  let s := (s.advance w r 1).reserve w
  let q := s.reqOf w r d bytes submit loan ovl { unit := 0, claim := 0, headroom := 0, op := 0, pending := 0 }
  let rid := s.sch.nextRid
  let s := s.setSch { s.sch with reqs := mapInsert s.sch.reqs rid q, nextRid := rid + 1, busy := true }
  let (snap, s) := s.snapOf w d.cls (q.est.map (·.1))
  let s := (s.modReq rid (fun x => { x with snap := snap })).inc (WK_SCHED.ADMIT_CNT d.cls)
  let s := if s.bst (pgWs w) == .ready then s.goto (pgWs w) .active causeSched else s
  (s.begins rid w d q).finish rid

/-- A candidate stays pending, under the overload rules or for want of a completion slot. -/
def State.holdOver (w r : Nat) (s : State) : State :=
  s.setSch { s.sch with overloaded :=
    if s.sch.overloaded.contains (ringKey w r) then s.sch.overloaded else ringKey w r :: s.sch.overloaded }

/-- The head descriptor is read: from the Casket it counts in its quadrant, and may hold an uncorrectable word (R277, R633). -/
def State.fetchDesc (w r : Nat) (s : State) : Option Nat × State :=
  if s.on (WS.RING_CFG_LOC w r) then (none, s)
  else
    let a := s.ringBase w r + 64 * (s.rd (WS.RING_HEAD w r) % s.ringSize w r)
    (s.readTo 0 a 64).eccRead 0x01 a w

/-- The reshard descriptors that a RUN's plan names are read from their table (R262, R277, R633). -/
def State.fetchRsds (w : Nat) (d : Desc) (s : State) : Option Nat × State :=
  let base := s.rd64 CK_RESHARD.RSD_BASE_LO CK_RESHARD.RSD_BASE_HI / 8192 * 8192
  let n := clampNat 0 256 (s.rd CK_RESHARD.RSD_COUNT)
  match (if d.op = opRun ∧ inCasket base (32 * n) then s.planOf w d.planId else none) with
  | none => (none, s)
  | some p => ((planRsds p.plan).filter (fun i => decide (i < n))).foldl (fun (q : Option Nat × State) i =>
      if q.1.isSome then q else (q.2.readTo 0 (base + 32 * i) 32).eccRead 0x01 (base + 32 * i) w) (none, s)

/-- What is read before the decision on a head descriptor: the descriptor, and the reshard descriptors of its plan. -/
def State.fetchHead (w r : Nat) (d : Desc) (s : State) : Option Nat × State :=
  let (bad, t) := s.fetchDesc w r
  if bad.isSome then (bad, t) else t.fetchRsds w d

/-- The row IDs that a RUN's updates name are read before its units are looked at (R395). -/
def State.headIds (w : Nat) (d : Desc) (s : State) : State :=
  match (if d.op = opRun then s.planOf w d.planId else none) with
  | some p => s.readIds w (s.nameOf w d.addr d.objA 1) p.plan
  | none => s

/-- The decision on a head descriptor (R294, R298, R304, R307): whether it stays pending, and the state after. -/
def State.decideHead (w r : Nat) (d : Desc) (s : State) : Bool × State :=
  let submit := (s.submits w r).headD s.tick
  let (bad, s) := if s.cplFree w = 0 then (none, s) else s.fetchHead w r d
  let est := unitClaims (s.claimsOf w d)
  let fin := fun (oc c : Nat) (t : State) => (false, t.endAtOnce w r d submit oc c (est.map (·.1)))
  let none_ := fun (oc c : Nat) (t : State) => (false, t.endAtOnce w r d submit oc c [])
  if s.cplFree w = 0 then (true, (s.setW1c (WS.CPL_STAT_FULL w) 1).raiseIrq (pgWs w) 2)
  else if bad.isSome then none_ ocFaultDetected 0 s
  else if s.devFaulted then none_ ocFaultDetected 0 s
  else if s.malformed w d then
    (match s.badRsd w d with
     | some i => fin ocTierFailed 1 (s.rsdBadStat i)
     | none => none_ ocTierFailed 1 s)
  else
    let s := s.headIds w d
    match (match (est.map (·.1)).find? s.unitOut with
      | some u => some u
      | none => if d.op = opRun then (match s.planOf w d.planId with
        | some p => s.fencedWriter w (s.nameOf w d.addr d.objA 1) p.plan
        | none => none) else none) with
    | some u => fin ocUnitOffline (s.unitOutCause u) s
    | none =>
      if est.any (fun e => decide (s.capacity e.1 < s.scaled e.1 e.2)) then fin ocRefusedCapacity 0 s
      else if d.cls = 0 ∧ d.deadline < s.tick then fin ocDeadlineMissed 0 s
      else if est.all (fun e => decide ((s.claimOf w d.cls e.1 + s.scaled e.1 e.2) * 1000
          ≤ s.share w d.cls * s.capacity e.1)) then (false, s.takeIn w r d submit false)
      else if est.all (fun e => decide (s.claimAll e.1 + s.scaled e.1 e.2 ≤ s.capacity e.1)) then
        (false, s.takeIn w r d submit true)
      else if d.cls = 0 then
        let victims := est.filterMap (fun e => s.frameVictim d.deadline e.1)
        (false, (victims.foldl (fun t v => t.preempt v true) s).takeIn w r d submit false)
      else if d.cls = 1 then (true, s.holdOver w r)
      else if d.cls = 2 then
        (if decide (s.rd WK_SCHED.LEARN_MAX_AGE = 0) || decide (s.rd WK_SCHED.LEARN_MAX_AGE < s.tick - submit) then
          fin ocRefusedClass 0 s
         else (true, s.holdOver w r))
      else fin ocRefusedClass 0 s

/-- Decisions are made now (R300): ADMIT_EN is 1, boot has ended, in FAILED too (R183), and the device is in AWAKE, with no entry under
way. -/
def State.admitting (s : State) : Bool :=
  s.on WK_SCHED.SCHED_CTRL_ADMIT_EN && s.awake && s.pwr.entry.isNone && s.booted

/-- The candidate first in the order of R297 among rings not yet held in this round. -/
def State.nextCandidate (s : State) (skip : List Nat) : Option (Nat × Nat × Desc) :=
  ((List.range 64).foldl (fun (b : Option (List Nat × Nat × Nat × Desc)) w =>
    (List.range 4).foldl (fun b r =>
      if skip.contains (ringKey w r) then b
      else match s.head w r with
        | none => b
        | some d =>
          let k := orderKey d.cls d.deadline ((s.submits w r).headD s.tick) w r
          match b with
          | none => some (k, w, r, d)
          | some (m, x) => if lexLt k m then some (k, w, r, d) else some (m, x)) b) none).map (·.2)

/-- The decisions of one tick, candidate after candidate. -/
def State.admitLoop : Nat → List Nat → State → State
  | 0, _, s => s
  | n + 1, skip, s =>
    match s.nextCandidate skip with
    | none => s
    | some (w, r, d) =>
      match s.decideHead w r d with
      | (true, t) => State.admitLoop n (ringKey w r :: skip) t
      | (false, t) => State.admitLoop n skip t

/-- Pending descriptors of all rings. -/
def State.pendingAll (s : State) : Nat :=
  (List.range 64).foldl (fun n w => (List.range 4).foldl (fun n r => n + s.ringPending w r) n) 0

/-- The admission of a tick (R297, R298). -/
def State.admission (s : State) : State :=
  let s := s.applyCancels
  if s.admitting then State.admitLoop (s.pendingAll + 1) [] s else s

end Sys2Proof.Machine
end

