-- ==== Sys2Proof/Machine/MapRows.lean ====
section
/-! DEFINITION. The GSEs' commands: activating tables, GATHER, UPDATE and PUT steps, flips and free slots, rounds with other
devices, and the pages' own commands (R358 to R398). -/

namespace Sys2Proof.Machine

/-! ### The table directory (R358, R361, R362, R370, R393) -/

/-- A directory entry's table, as Table MAP-1 lays it out. -/
def tabOfEntry (b : List Byte) : MapTab :=
  let fl := fieldAt b 4 1
  { fmt := fieldAt b 1 1, elems := fieldAt b 2 2, learn := bit fl 0, stoch := bit fl 1, sharded := bit fl 2,
    opt := fieldAt b 5 1, rmw := decide (fieldAt b 6 1 = 1), shift := fieldAt b 7 1, rows := fieldAt b 8 4,
    shadow := fieldAt b 12 4, ptrObj := fieldAt b 16 8, slotObj := fieldAt b 24 8, shadowObj := fieldAt b 32 8,
    lr := fieldAt b 40 4, beta1 := fieldAt b 44 2, beta2 := fieldAt b 46 2, eps := fieldAt b 48 4,
    cacheTiles := fieldAt b 52 2, ws := fieldAt b 54 1, used := [], freed := [], leaving := false }

/-- ENTRY_CRC, TABLE_ID or a reserved byte is wrong (Table MAP-4, 0x01). -/
def entryBad (table : Nat) (b : List Byte) : Bool :=
  decide (fieldAt b 60 4 ≠ crc32c (b.take 60)) || decide (fieldAt b 0 1 ≠ table) || decide (8 ≤ fieldAt b 4 1)
    || decide (fieldAt b 55 5 ≠ 0)

/-- A field of the entry is out of range (0x02). -/
def entryRange (b : List Byte) : Bool :=
  let t := tabOfEntry b
  !(decide (t.fmt = 0x0E) || decide (t.fmt = 0x0F)) || decide (t.elems < 16) || decide (2048 < t.elems)
    || decide (t.elems % 16 ≠ 0) || decide (4 < t.opt) || decide (1 < fieldAt b 6 1) || decide (t.shift < 8)
    || decide (24 < t.shift) || decide (t.rows = 0) || decide (268435456 < t.rows) || decide (16777216 < t.shadow)
    || (t.learn && decide (t.opt = 0))

/-- An object of the owner's workspace. -/
def State.ownObj (s : State) (w id : Nat) : Option Obj := s.ck.objs.find? (fun o => decide (o.ws = w) && decide (o.id = id))

/-- An object that learning may not write: read-only, a home other than T1 or T2, or pool tiles (0x05). -/
def State.notLearnable (s : State) (o : Obj) : Bool :=
  placeReadOnly o.place || !(decide (o.home = 1) || decide (o.home = 2))
    || s.ck.slots.any (fun e => decide (e.2.ws = o.ws) && decide (e.2.obj = o.id) && !e.2.copy && e.2.borrowed)

/-- The first check of Table MAP-4 that fails; 0 when all pass (R361). An object that a FREE has taken can no longer be named
(R292). -/
def State.activateReason (s : State) (table : Nat) (b : List Byte) : Nat :=
  let t := tabOfEntry b
  if entryBad table b then 1
  else if entryRange b then 2
  else
    let named := fun id => (s.ownObj t.ws id).filter (fun o => o.freedBy.isNone)
    match named t.ptrObj, named t.slotObj, named t.shadowObj with
    | some p, some q, sh =>
      if t.shadow ≠ 0 ∧ sh.isNone then 3
      else if p.tiles * ptrPerTile < t.rows ∨ q.tiles * t.perTile < t.rows
          ∨ (t.shadow ≠ 0 ∧ (sh.getD p).tiles * t.perTile < t.shadow) then 4
      else if t.learn && (decide (t.shadow = 0) || s.notLearnable p || s.notLearnable (sh.getD p)) then 5
      else if (if (s.bst 0x063).up then s.rowCacheTiles - s.cacheAlloc else 0) < t.cacheTiles then 6
      else if t.sharded && !s.fabUp then 7
      else 0
    | _, _, _ => 3

/-- Shadow slots that the row pointers name at activation, where the GSEs read them (R30; log entry 99). -/
def State.usedShadow (t : MapTab) (s : State) : List Nat × State :=
  if t.learn then
    (let (m, s) := s.moverReads (pgGse 0) t.ws ((List.range (ceilDiv t.rows ptrPerTile)).map (fun i => (t.ptrObj, i)))
     (((m.getD []).zipIdx.flatMap (fun l => (List.range (clampNat 0 ptrPerTile (t.rows - l.2 * ptrPerTile))).filterMap (fun j =>
          let x := fieldAt ((l.1.drop (64 + 8 * j)).take 4) 0 4
          if t.rows ≤ x ∧ x < t.rows + t.shadow then some x else none))).eraseDups, s))
  else ([], s)

/-- TBL_CMD_STAT, and ACTIVE, of a command. -/
def State.tblStat (table result reason : Nat) (s : State) : State :=
  ((s.wr MAP_DIR.TBL_CMD_STAT_RESULT result).wr MAP_DIR.TBL_CMD_STAT_TABLE table).wr MAP_DIR.TBL_CMD_STAT_REASON reason

/-- A table's bit of ACTIVE0 to ACTIVE7. -/
def State.setActive (table : Nat) (b : Bool) (s : State) : State :=
  s.putBit (MAP_DIR.ACTIVE (table / 32)) (table % 32) b

/-- The directory entry of a table as it is read from the Casket; bits [13:0] of DIR_BASE are taken as 0. None where it lies elsewhere
or holds an uncorrectable word: it is then no sound entry (R358, R633). -/
def State.dirEntry (table : Nat) (s : State) : Option (List Byte) × State :=
  s.blockRead 0x062 (s.rd64 MAP_DIR.DIR_BASE_LO MAP_DIR.DIR_BASE_HI / 16384 * 16384 + 64 * table) 64

/-- The effect of TBL_CMD with ACT = 1 (R361). -/
def State.tblAct (table : Nat) (s : State) : State :=
  if !(s.bst 0x062).up then s
  else if (s.tabOf table).isSome then s.tblStat table 1 0
  else
    let (e, s) := s.dirEntry table
    let b := e.getD []
    let c := s.activateReason table b
    if c ≠ 0 then s.tblStat table 2 c
    else
      let t := tabOfEntry b
      let (u, s) := s.usedShadow t
      let s := s.setRows { s.rows with tabs := mapInsert s.rows.tabs table { t with used := u } }
      (s.setActive table true).tblStat table 1 0

/-- TBL_CMD_ACT (R361). -/
def execTblCmdAct (rq : Requester) (table : Nat) (s : State) : Host.Outcome State Fault Refusal :=
  .next (s.access rq 0x062 (State.tblAct (table % 256)))

/-- A request holds a table: a step it has yet to end names it; or an update of the table waits for its flip. -/
def State.tableHeld (s : State) (table : Nat) : Bool :=
  s.sch.reqs.any (fun e => e.2.steps.any (fun st => match rowStep st with
    | some (t, _, _) => t == table
    | none => false)) || s.rows.flips.any (fun f => f.table == table)

/-- A table is inactive: its partition is released, its dirty rows written back first (R370). -/
def State.dropTable (table : Nat) (s : State) : State :=
  let s := s.rowsBack (fun c => c.table == table)
  (s.setRows { s.rows with
    tabs := mapErase s.rows.tabs table
    cache := s.rows.cache.filter (fun c => c.table != table)
    grace := s.rows.grace.filter (fun c => c.table != table) }).setActive table false

/-- The effect of TBL_CMD with DEACT = 1 (R361). -/
def State.tblDeact (table : Nat) (s : State) : State :=
  if !(s.bst 0x062).up then s
  else if (s.tabOf table).isNone then s.tblStat table 1 0
  else if s.tableHeld table then (s.modTab table (fun t => { t with leaving := true })).tblStat table 3 0
  else (s.dropTable table).tblStat table 1 0

/-- TBL_CMD_DEACT (R361). -/
def execTblCmdDeact (rq : Requester) (table : Nat) (s : State) : Host.Outcome State Fault Refusal :=
  .next (s.access rq 0x062 (State.tblDeact (table % 256)))

/-- TABLE_DEACT_COMPLETE (R361): no request holds the table any more. -/
def execTableDeactComplete (table : Nat) (s : State) : Host.Outcome State Fault Refusal :=
  .next (
    match s.tabOf table with
    | none => s
    | some t =>
      if t.leaving && !s.tableHeld table then
        let s := s.dropTable table
        if s.rd MAP_DIR.TBL_CMD_STAT_TABLE = table then s.tblStat table 1 0 else s
      else s)

/-! ### Lookups and batches (R363, R364, R368, R387 to R390) -/

/-- An ID at or beyond ROWS (R363). -/
def State.badRow (g : Nat) (s : State) : State := s.inc (GSE.BAD_ROW_CNT g)

/-- A lookup or update joins its owner's batch in this tick. -/
def State.joinBatch (l : Lookup) (s : State) : State := s.setRows { s.rows with lookups := s.rows.lookups ++ [l] }

/-- A lookup in its first state. -/
def State.newLookup (s : State) (rid g table row pos owner slot ver : Nat) (upd : Option (Bool × List Nat))
    (answer : Option (List Byte)) : Lookup :=
  { rid := rid, g := g, table := table, row := row, pos := pos, owner := owner, slot := slot, ver := ver,
    joined := s.tick, issue := none, epoch := s.rd MAP_DIR.EPOCH, round := none, upd := upd, answer := answer }

/-- The slot of a lookup whose pointer is still to be read. -/
def unread : Nat := 2 ^ 32

/-- A slot's tile needs no fetch: it is in place, or the slot lies beyond the table. Such a miss joins no batch, since R387
batches the rows whose tile is fetched (log entry 39). -/
def State.slotInPlace (s : State) (t : MapTab) (slot : Nat) : Bool :=
  match t.locate slot with
  | none => true
  | some (o, i, _) => (s.tileAddr t.ws o i).isSome
      && !s.ck.fetches.any (fun e => decide (e.2.ws = t.ws) && decide (e.2.obj = o) && decide (e.2.tile = i))

/-- The round of a miss that has just been looked up: 0, before the first round, where no fetch is needed. -/
def State.missRound (s : State) (t : MapTab) (slot : Nat) : Option Nat := if s.slotInPlace t slot then some 0 else none

/-- A lookup of a row of this device raises the row's counters of the sketch, if it is cacheable (R367). -/
def State.looked (table row : Nat) (t : MapTab) (s : State) : State := if s.cacheable t then s.touch table row else s

/-- One position of a GATHER: padding costs nothing; a row of this device is a hit, an empty row or a miss; a row of a peer
joins its batch. -/
def State.lookup (rid g table : Nat) (t : MapTab) (pos row : Nat) (s : State) : Need × State :=
  if row = padId then (.here, s)
  else if t.rows ≤ row then (.ends ocTierFailed 0, s.badRow g)
  else
    let s := s.inc64 (GSE.LOOKUP_CNT_LO g) (GSE.LOOKUP_CNT_HI g) 1
    match s.rowOwner table t row with
    | none => (.ends ocTierFailed 0, s)
    | some 0 =>
      let s := s.looked table row t
      (match s.cached table row with
       | some c =>
         (.here, (s.inc64 (GSE.HIT_CNT_LO g) (GSE.HIT_CNT_HI g) 1).joinBatch
           (s.newLookup rid g table row pos 0 0 0 none (some c.data)))
       | none =>
         let (slot, ver) := s.pointer t row
         (.here, s.joinBatch { s.newLookup rid g table row pos 0 slot ver none (if slot = emptySlot then some [] else none) with
           round := s.missRound t slot }))
    | some o => (.here, s.joinBatch (s.newLookup rid g table row pos o 0 0 none none))

/-- Several tiles are needed, and read: here when all are in place. -/
def State.needTiles (rid : Nat) (l : List (Nat × Nat × Nat)) (s : State) : Need × State :=
  l.foldl (fun (q : Need × State) x =>
    match q.1 with
    | .ends oc c => (.ends oc c, q.2)
    | .here => q.2.useTile rid x.1 x.2.1 x.2.2
    | .fetching => match q.2.useTile rid x.1 x.2.1 x.2.2 with
      | (.here, u) => (.fetching, u)
      | y => y) (.here, s)

/-- The pointer tiles that the misses among some rows need. -/
def State.missPointers (s : State) (table : Nat) (t : MapTab) (rows : List Nat) : List (Nat × Nat × Nat) :=
  ((rows.filter (fun r => decide (r < t.rows) && decide (s.rowOwner table t r = some 0) && (s.cached table r).isNone)).map
    (fun r => (t.ws, t.ptrObj, r / ptrPerTile))).eraseDups

/-- Every position of a GATHER is looked up, once the pointers it reads are in place. -/
def State.lookupAll (rid g table : Nat) (t : MapTab) (rows : List Nat) (s : State) : Need × State :=
  match s.needTiles rid (s.missPointers table t rows) with
  | (.here, u) =>
    (match rows.zipIdx.foldl (fun (q : Need × State) x => match q.1 with
        | .here => q.2.lookup rid g table t x.2 x.1
        | _ => q) (Need.here, u) with
     | (.here, v) => (.here, v.modReq rid (fun r => { r with done := 1 }))
     | q => q)
  | q => q

/-- An injected error of the next row read of a GSE: a correctable one is counted; an uncorrectable one is class C1 and ends
the request (R395). -/
def State.rowEcc (g rid : Nat) (s : State) : Bool × State :=
  let v := s.rd (GSE.INJ_ECC g)
  if v = 0 then (false, s)
  else
    let s := s.wr (GSE.INJ_ECC g) 0
    if v = 1 then (false, s.corrected (pgGse g)) else (true, s.detectC1 0x01 (pgGse g) 0xFFFF rid)

/-- The row of a lookup has arrived: every issued lookup that read the same pointer is served from it, and the admission test
runs once (R368, R371), for a row that has not been replaced meanwhile (R374). -/
def State.deliver (l : Lookup) (d : List Byte) (s : State) : State :=
  let s := s.setRows { s.rows with
    lookups := s.rows.lookups.map (fun x =>
      if x.owner = 0 ∧ x.table = l.table ∧ x.row = l.row ∧ x.slot = l.slot ∧ x.ver = l.ver ∧ x.round.isSome ∧ x.answer.isNone
      then { x with answer := some d } else x)
    grace := s.rows.grace.map (fun x => if x.table = l.table ∧ x.slot = l.slot then { x with since := s.tick } else x) }
  match s.tabOf l.table with
  | none => s
  | some t => if s.pointer t l.row = (l.slot, l.ver) then s.admitRow l.table t l.row d false else s

/-- A slot's VERSION is that of the pointer read, or of the pointer read once more (R377). -/
def State.sameVersion (s : State) (t : MapTab) (row ver : Nat) (d : List Byte) : Bool :=
  decide (slotVersion d = ver) || decide (slotVersion d = (s.pointer t row).2)

/-- One issued lookup of a row of this device: its slot's tile is needed; then the row is read and its VERSION compared with
the pointer's (R374, R377). A pointer beyond the table names no slot: the bytes are a free value. -/
def State.readRow (l : Lookup) (t : MapTab) (s : State) : State :=
  match t.locate l.slot with
  | none =>
    let (b, s) := s.freeBits 64
    s.deliver l (padTo t.slotSize (leBytes 8 b))
  | some (o, i, off) =>
    State.needThen l.rid (s.useTile l.rid t.ws o i) (fun u =>
      match u.rowEcc l.g l.rid with
      | (true, u) => u
      | (false, u) =>
        let d := (u.freshBytes t.ws o i off t.slotSize).getD []
        if u.sameVersion t l.row l.ver d then u.deliver l d
        else u.detectC1 0x0F (pgGse l.g) 0xFFFF l.rid)

/-- The lookups of a request. -/
def State.lookupsOf (s : State) (rid : Nat) : List Lookup := s.rows.lookups.filter (fun l => l.rid == rid)

/-- A lookup that has come back to this device is a hit, or reads its row's pointer, once that tile is in place (R367, R368, R374,
R389). -/
def State.readPointer (l : Lookup) (t : MapTab) (s : State) : State :=
  let put := fun (f : Lookup → Lookup) (u : State) => u.setRows { u.rows with lookups := u.rows.lookups.map (fun x => if x = l then f x else x) }
  match s.cached l.table l.row with
  | some c => ((s.looked l.table l.row t).inc64 (GSE.HIT_CNT_LO l.g) (GSE.HIT_CNT_HI l.g) 1 |> put (fun x => {
      x with slot := 0, round := some 0, answer := some c.data }))
  | none =>
    State.needThen l.rid (s.useTile l.rid t.ws t.ptrObj (l.row / ptrPerTile)) (fun u =>
      let (slot, ver) := u.pointer t l.row
      (u.looked l.table l.row t) |> put (fun x => {
        x with slot := slot, ver := ver, round := u.missRound t slot, answer := if slot = emptySlot then some [] else none }))

/-- The issued lookups of a request are served as far as their tiles are in place. -/
def State.serveLookups (rid : Nat) (s : State) : State :=
  (s.lookupsOf rid).foldl (fun (u : State) l =>
    match u.rows.lookups.find? (fun x => decide (x.rid = l.rid) && decide (x.pos = l.pos)) with
    | none => u
    | some x =>
      if x.slot = unread ∧ x.upd.isNone then
        (match u.tabOf x.table with
         | none => u
         | some t => u.readPointer x t)
      else if x.owner = 0 ∧ x.round.isSome ∧ x.answer.isNone ∧ x.upd.isNone then
        (match u.tabOf x.table with
         | none => u
         | some t => u.readRow x t)
      else u) s

/-- Bytes of an output row of a GATHER, and of a raw one: header and codes. -/
def gatherRowBytes (t : MapTab) (fmt : Nat) (raw : Bool) : Nat := if raw then 16 + t.codeBytes else rowBytes fmt t.elems

/-- The output row of a position: zeros for padding and for an empty row (R363, R364). -/
def gatherRow (t : MapTab) (fmt : Nat) (raw : Bool) (d : List Byte) : List Byte :=
  let n := gatherRowBytes t fmt raw
  if !slotValid d then List.replicate n 0
  else if raw then padTo n d
  else padTo n (convRow fmt ((t.values d).map f32v)).1

/-- The rows of a GATHER are written, tile after tile (R363, R364). -/
def State.writeRows (rid : Nat) (r : Req) (t : MapTab) (rows : List Nat) (out fmt : Nat) (raw : Bool) (s : State) : State :=
  let ls := s.lookupsOf rid
  let datas := rows.zipIdx.map (fun x => ((ls.find? (fun l => l.pos == x.2)).bind (·.answer)).getD [])
  let rb := gatherRowBytes t fmt raw
  let per := 32704 / atLeast1 rb
  let tiles := chunksOf per (datas.length + 1) datas
  let empty := (rows.zip datas).any (fun x => decide (x.1 ≠ padId) && !slotValid x.2)
  let res : Need × State := (tiles.zipIdx.drop (r.done - 1)).foldl (fun (q : Need × State) x =>
    match q.1 with
    | .here =>
      (match q.2.putTile rid r.ws (r.outId out) x.2 (if raw then t.fmt else fmt) (if raw then 7 else 0) x.1.length t.elems rb 0
          [] (x.1.flatMap (gatherRow t fmt raw)) with
       | (.here, u) => (.here, u.modReq rid (fun q => { q with done := q.done + 1 }))
       | y => y)
    | _ => q) (Need.here, s)
  State.needThen rid res (fun u =>
    let u := u.setRows { u.rows with lookups := u.rows.lookups.filter (fun l => l.rid != rid) }
    (if empty then u.addCause rid 16 else u).stepDone rid)

/-- Every lookup of a request has delivered its row. -/
def State.allAnswered (s : State) (rid : Nat) : Bool := (s.lookupsOf rid).all (fun l => l.answer.isSome)

/-- A GATHER goes on: issued lookups are served, and with the last row the output is written. -/
def State.gatherOn (rid : Nat) (r : Req) (t : MapTab) (ids out fmt : Nat) (raw : Bool) (s : State) : State :=
  let s := s.serveLookups rid
  match s.req rid with
  | none => s
  | some q => if s.allAnswered rid && (fmt ≤ 2 || raw) then
      s.writeRows rid q t (s.rowIds r.ws (r.inId ids)) out fmt raw
    else s

/-- The GSE may work on a step of a request: the request runs on it, and its page is READY or ACTIVE. -/
def State.gseWorks (s : State) (r : Req) (g : Nat) : Bool := decide (g < 2) && r.claims (10 + g) && (s.bst (pgGse g)).up

/-- GATHER (R362 to R368, R374, R377). -/
def execGather (rid g : Nat) (s : State) : Host.Outcome State Fault Refusal :=
  .next (
    match s.running rid with
    | some (r, .gather table ids out fmt raw) =>
      if !s.gseWorks r g then s
      else
        (match s.tabOf table with
         | none => s.endReq rid ocTierFailed 1
         | some t =>
           s.withInputs rid r [ids] (fun h => h.format == 0x0A) (fun u =>
             if r.done = 0 then
               State.needThen rid (u.lookupAll rid g table t (u.rowIds r.ws (r.inId ids))) (fun v =>
                 v.gatherOn rid r t ids out fmt raw)
             else u.gatherOn rid r t ids out fmt raw))
    | _ => s)

/-! ### Replacements (R372 to R385) -/

/-- A replacement of the row waits for its flip: a second update of a row starts only after the first one's (R373). -/
def State.flipPending (s : State) (table row : Nat) : Bool :=
  s.rows.flips.any (fun f => decide (f.table = table) && decide (f.row = row))

/-- The generator state of a GSE; 1 after reset (Table MAP-7). -/
def State.gen (s : State) (g : Nat) : Nat := mapGet (fun _ => 1) s.rows.lfsr g

/-- The state with the generator of a GSE. -/
def State.setGen (g v : Nat) (s : State) : State :=
  s.setRows { s.rows with lfsr := mapSet (fun _ => 1) s.rows.lfsr g v }

/-- A row whose only copy lies in T3 to T5, one of a slot there that is not in the cache (R51). -/
def State.farRow (s : State) (table : Nat) (t : MapTab) (row slot : Nat) : Bool :=
  (s.cached table row).isNone && (match t.locate slot with
    | some (o, _, _) => (match s.objOf t.ws o with
      | some x => decide (3 ≤ x.home)
      | none => false)
    | none => false)

/-- A GSE waits in this tick for a reason of its own: the wait is counted once a tick. -/
def State.waitOnce (k : Nat) (f : FRef) (s : State) : State :=
  if s.rows.waited.contains k then s else (s.setRows { s.rows with waited := k :: s.rows.waited }).inc f

/-- No shadow slot is free: each tick of waiting counts once, and the flag is up (R376). -/
def State.shadowWait (g : Nat) (s : State) : State := (s.waitOnce (2 * g) (GSE.SHADOW_WAIT g)).raiseIrq (pgGse g) 0

/-- A full merge buffer: each tick of waiting counts once, and the flag is up (R382). -/
def State.mergeWait (g : Nat) (s : State) : State := (s.waitOnce (2 * g + 1) (GSE.MERGE_WAIT g)).raiseIrq (pgGse g) 1

/-- A replacement is computed and its new slot written; its pointer is written in the next tick (R373, R379 to R381). Its
tiles are in place. A far row is first brought into the cache (R51). -/
def State.replaceRow (rid peer : Option Nat) (g table : Nat) (t : MapTab) (row slot : Nat) (isPut : Bool) (version : Option Nat)
    (vals : List Nat) (s : State) : State :=
  let (old, ver) := s.pointer t row
  let s := if !isPut && s.farRow table t row old then s.admitRow table t row ((s.slotBytes t old).getD []) true else s
  let d := match s.cached table row with
    | some c => c.data
    | none => if old = emptySlot then [] else (s.slotBytes t old).getD []
  let v := match version with
    | some x => x
    | none => (ver + 1) % 2 ^ 32
  let (res, gen) := t.rebuild g v (s.rd MAP_DIR.EPOCH) (s.gen g) isPut d vals
  let s := s.setGen g gen
  let s := match rid with
    | none => s
    | some q => if !isPut && !slotValid d then s.addCause q 16 else s
  match res with
  | none =>
    let s := (s.inc (GSE.UPD_DROP_CNT g)).raiseIrq (pgGse g) 2
    let s := match rid with
      | some q => s.addCause q 32
      | none => s
    (match peer with
     | some p => s.emit (.peerAnswer p table row .ack)
     | none => s)
  | some b =>
    match t.locate slot with
    | none => s
    | some (o, i, off) =>
      let s := (s.patchTile (gseQuad g) t.ws o i off t.fmt 4 b).modTab table (fun x => x.take slot)
      s.setRows { s.rows with flips := s.rows.flips ++ [{
        rid := rid, peer := peer, g := g, table := table, row := row, newSlot := slot, oldSlot := old, version := v,
        written := s.tick }] }

/-- How an update of one row goes: made, sent on, waiting, or the request has ended. -/
inductive RowAns where
  | made | waits | ended
deriving DecidableEq, Repr

/-- One update or PUT of a request to one row, at position pos of its step (R363, R372 to R376, R387, R395). -/
def State.updateRow (rid g table : Nat) (t : MapTab) (pos row : Nat) (isPut : Bool) (vals : List Nat) (s : State) :
    RowAns × State :=
  match s.rowOwner table t row with
  | none => (.ended, s.endReq rid ocTierFailed 0)
  | some (p + 1) => (.made, s.joinBatch (s.newLookup rid g table row pos (p + 1) 0 0 (some (isPut, vals)) none))
  | some 0 =>
    let og := t.writer row
    match s.bst (pgGse og) with
    | .fenced => (.ended, s.endReq rid ocUnitOffline 2)
    | .faulted => (.ended, s.endReq rid ocFaultDetected 0)
    | .off => (.waits, s)
    | _ =>
      if s.flipPending table row then (.waits, s)
      else match s.freeSlotOf t with
        | none => (.waits, s.shadowWait og)
        | some slot =>
          match s.useTile rid t.ws t.ptrObj (row / ptrPerTile) with
          | (.ends oc c, u) => (.ended, u.endReq rid oc c)
          | (.fetching, u) => (.waits, u)
          | (.here, u) =>
            let (old, _) := u.pointer t row
            let oldAt := if isPut || (u.cached table row).isSome then none else t.locate old
            let need := (match oldAt with
                | some (o, i, _) => [(t.ws, o, i)]
                | none => []) ++ (match t.locate slot with
                | some (o, i, _) => [(t.ws, o, i)]
                | none => [])
            (match u.needTiles rid need with
             | (.ends oc c, v) => (.ended, v.endReq rid oc c)
             | (.fetching, v) => (.waits, v)
             | (.here, v) =>
               match (if oldAt.isSome then v.rowEcc og rid else (false, v)) with
               | (true, v) => (.ended, v)
               | (false, v) =>
                 (.made, v.replaceRow (some rid) none og table t row slot isPut none vals))

/-- Positions of an RMW UPDATE or of a PUT, in order, until one waits (R383). -/
def State.rmwLoop (rid g table : Nat) (isPut : Bool) (rows : List Nat) (vecs : List (List Nat)) : Nat → State → State
  | 0, s => s
  | n + 1, s =>
    match s.req rid, s.tabOf table with
    | some r, some t =>
      (match rows[r.done]? with
       | none => s
       | some row =>
         let next := fun (u : State) => u.modReq rid (fun q => { q with done := q.done + 1 })
         if row = padId then State.rmwLoop rid g table isPut rows vecs n (next s)
         else if t.rows ≤ row then (s.badRow g).endReq rid ocTierFailed 0
         else match s.updateRow rid g table t r.done row isPut (vecs.getD r.done []) with
           | (.made, u) => State.rmwLoop rid g table isPut rows vecs n (next u)
           | (_, u) => u)
    | _, _ => s

/-- Entries of a GSE's merge buffer, and of a request. -/
def State.mergeUsed (s : State) (g : Nat) : Nat := (s.rows.merge.filter (fun e => e.g == g)).length
def State.mergeOf (s : State) (rid : Nat) : List MergeEntry := s.rows.merge.filter (fun e => e.rid == rid)

/-- The entry of the least row of a request. -/
def leastEntry (l : List MergeEntry) : Option MergeEntry :=
  l.foldl (fun (b : Option MergeEntry) e => match b with
    | none => some e
    | some x => if e.row < x.row then some e else some x) none

/-- Tiles of a tier that a request holds for its own working data. -/
def State.scratchOf (s : State) (rid tier : Nat) : Nat :=
  mapCount (fun _ e => decide (e.obj = noObj) && decide (e.tier = tier) && e.pin.isNone && e.holders == [rid] && e.waiter.isNone) s.ck.slots

/-- A request takes n tiles of its workspace for working data, with POOL_OK (R252, R385, R461). -/
def State.takeScratch (rid w tier : Nat) : Nat → State → Need × State
  | 0, s => (.here, s)
  | n + 1, s =>
    match s.takeFor rid tier 0 (State.takeTile w tier 0 true) with
    | (.got a b, u) =>
      State.takeScratch rid w tier n (u.putSlot a (newSlot w noObj 0 tier b false 0 u.tick [rid]))
    | (.wait _ _, u) => (.fetching, u)
    | (.refuse oc, u) => (.ends oc 0, u)

/-- Working tiles that n accumulators of a table take (R382). -/
def accTiles (elems n : Nat) : Nat := ceilDiv n (32704 / atLeast1 (4 * elems))

/-- The working tile that holds an accumulator of a request. -/
def State.accAddr (s : State) (rid elems row : Nat) : Option Nat :=
  let l := mapKeys (fun _ e => decide (e.obj = noObj) && decide (e.tier = 1) && e.pin.isNone && e.holders == [rid] && e.waiter.isNone) s.ck.slots
  ((s.mergeOf rid).findIdx? (fun e => decide (e.row = row))).bind (fun k => l[k / (32704 / atLeast1 (4 * elems))]?)

/-- The GSE reads an accumulator of a request; one with an uncorrectable word ends the request (R277, R395, R633). -/
def State.accRead (rid w g elems row : Nat) (s : State) : Bool × State :=
  match s.accAddr rid elems row with
  | none => (true, s)
  | some a => match (s.readTo (gseQuad g) a (4 * elems)).eccRead 0x01 a w with
    | (some q, s) => (false, s.endFor (some q) rid ocFaultDetected 0)
    | (none, s) => (true, s)

/-- The GSE writes an accumulator: counted where it lies (R277). -/
def State.accWrite (rid g elems row : Nat) (s : State) : State :=
  match s.accAddr rid elems row with
  | none => s
  | some a => let s := s.countWrite a (4 * elems)
              if inCasket a 1 then s.crossed (gseQuad g) (quadOf a) (4 * elems) else s

/-- A gradient is added to its row's accumulator, in FP32 (R382): made; waiting for a place; or the request has ended. -/
def State.accumulate (rid w g table elems row : Nat) (grad : List Nat) (s : State) : RowAns × State :=
  match s.rows.merge.find? (fun e => decide (e.rid = rid) && decide (e.row = row)) with
  | some _ =>
    (match s.accRead rid w g elems row with
     | (false, s) => (.ended, s)
     | (true, s) => (.made, (s.accWrite rid g elems row).setRows { s.rows with merge := s.rows.merge.map (fun e =>
        if e.rid = rid ∧ e.row = row then { e with acc := e.acc.zipWith f32Add grad } else e) }))
  | none =>
    let need := accTiles elems ((s.mergeOf rid).length + 1)
    match s.takeScratch rid w 1 (need - s.scratchOf rid 1) with
    | (.ends oc c, u) => (.ended, u.endReq rid oc c)
    | (.fetching, u) => (.waits, u)
    | (.here, u) =>
      (.made, (u.setRows { u.rows with merge := u.rows.merge ++ [{
        rid := rid, g := g, table := table, row := row, acc := (List.replicate elems 0).zipWith f32Add grad }] }).accWrite rid g elems row)

/-- The merged rows of a request are updated once each, ascending, until one waits (R382). -/
def State.flushLoop (rid g table : Nat) : Nat → State → Bool × State
  | 0, s => (false, s)
  | n + 1, s =>
    match leastEntry (s.mergeOf rid), s.tabOf table, s.req rid with
    | none, _, _ => (true, s)
    | some e, some t, some r =>
      (match s.accRead rid r.ws e.g t.elems e.row with
       | (false, u) => (false, u)
       | (true, u) => match u.updateRow rid g table t r.done e.row false e.acc with
         | (.made, v) => State.flushLoop rid g table n (v.setRows { v.rows with
             merge := v.rows.merge.filter (fun x => !(decide (x.rid = rid) && decide (x.row = e.row))) })
         | (_, v) => (false, v))
    | _, _, _ => (false, s)

/-- Positions of a MERGE UPDATE, in order, until one waits (R382). -/
def State.mergeLoop (rid g table : Nat) (rows : List Nat) (vecs : List (List Nat)) : Nat → State → State
  | 0, s => s
  | n + 1, s =>
    match s.req rid, s.tabOf table with
    | some r, some t =>
      if r.flushing then
        (match s.flushLoop rid g table (s.rows.merge.length + 1) with
         | (true, u) => State.mergeLoop rid g table rows vecs n (u.modReq rid (fun q => { q with flushing := false }))
         | (false, u) => u)
      else
        (match rows[r.done]? with
         | none => (s.flushLoop rid g table (s.rows.merge.length + 1)).2
         | some row =>
           let next := fun (u : State) => u.modReq rid (fun q => { q with done := q.done + 1 })
           if row = padId then State.mergeLoop rid g table rows vecs n (next s)
           else if t.rows ≤ row then (s.badRow g).endReq rid ocTierFailed 0
           else
             let og := t.writer row
             let has := (s.mergeOf rid).any (fun e => e.row == row)
             if !has && decide (65536 ≤ s.mergeUsed og) then
               (if (s.mergeOf rid).isEmpty then s.mergeWait og
                else State.mergeLoop rid g table rows vecs n (s.modReq rid (fun q => { q with flushing := true })))
             else match s.accumulate rid r.ws og table t.elems row (vecs.getD r.done []) with
               | (.made, u) => State.mergeLoop rid g table rows vecs n (next u)
               | (_, u) => u)
    | _, _ => s

/-- An UPDATE or PUT step is done: every position taken, nothing merged left, every flip made, every owner heard. -/
def State.updateEnd (rid n : Nat) (s : State) : State :=
  match s.req rid with
  | none => s
  | some r =>
    if decide (n ≤ r.done) && (s.mergeOf rid).isEmpty && !s.rows.flips.any (fun f => f.rid == some rid)
        && s.allAnswered rid then
      let s := s.setRows { s.rows with lookups := s.rows.lookups.filter (fun l => l.rid != rid) }
      (s.dropScratch rid).stepDone rid
    else s

/-- The objects of an UPDATE or PUT in place: IDs in INT32, and one FP32 vector of ELEMS elements per ID. -/
def State.updateInputs (s : State) (r : Req) (t : MapTab) (ids vecs : Nat) : Bool :=
  s.objFits r.ws (r.inId ids) (fun h => h.format == 0x0A)
    && s.objFits r.ws (r.inId vecs) (fun h => h.format == 0x00 && h.dim1 == t.elems)
    && decide ((s.rowIds r.ws (r.inId ids)).length ≤ (s.objWords r.ws (r.inId vecs)).length)

/-- An update that came back to this device, as a range it owns now, is made here (R372, R389). -/
def State.localUpdates (rid g : Nat) (s : State) : State :=
  (s.lookupsOf rid).foldl (fun (u : State) l =>
    match l.upd, u.tabOf l.table with
    | some (p, v), some t =>
      if l.owner = 0 ∧ l.answer.isNone ∧ (u.req rid).isSome then
        (match u.updateRow rid g l.table t l.pos l.row p v with
         | (.made, w) => w.setRows { w.rows with lookups := w.rows.lookups.map (fun x =>
             if x = l then { x with answer := some [] } else x) }
         | (_, w) => w)
      else u
    | _, _ => u) s

/-- The work of an UPDATE or PUT step in this tick. A request told to yield starts no further row (R50, R302). -/
def State.updateStep (rid g : Nat) (r : Req) (table ids vecs : Nat) (isPut : Bool) (s : State) : State :=
  if !s.gseWorks r g || r.yieldBy.isSome then s
  else
    match s.tabOf table with
    | none => s.endReq rid ocTierFailed 1
    | some t =>
      if !t.learn then s.endReq rid ocTierFailed 1
      else
        s.withObjs rid r.ws [r.inId ids, r.inId vecs] (fun u => if u.updateInputs r t ids vecs then none else some 0) (fun u =>
            let rows := u.rowIds r.ws (r.inId ids)
            let vs := u.objWords r.ws (r.inId vecs)
            let u := if isPut || t.rmw then u.rmwLoop rid g table isPut rows vs (rows.length + 1)
              else u.mergeLoop rid g table rows vs (3 * rows.length + 3)
            let u := u.localUpdates rid g
            u.updateEnd rid rows.length)

/-- UPDATE (R379, R382, R383, R386). -/
def execUpdate (rid g : Nat) (s : State) : Host.Outcome State Fault Refusal :=
  .next (
    match s.running rid with
    | some (r, .update table ids grads) => s.updateStep rid g r table ids grads false
    | _ => s)

/-- PUT (R379, R386). -/
def execPut (rid g : Nat) (s : State) : Host.Outcome State Fault Refusal :=
  .next (
    match s.running rid with
    | some (r, .put table ids values) => s.updateStep rid g r table ids values true
    | _ => s)

/-- SLOT_OBJ of a table is writable: its freed slots are used again (R375). -/
def State.slotObjWritable (s : State) (t : MapTab) : Bool :=
  match s.ownObj t.ws t.slotObj with
  | some o => !placeReadOnly o.place && decide (o.home ≤ 2)
  | none => false

/-- A flip that will not come: its new slot is free again (R378). -/
def State.dropFlip (f : FlipOp) (s : State) : State :=
  (s.setRows { s.rows with flips := s.rows.flips.filter (fun x => x != f) }).modTab f.table (fun t => t.give f.newSlot)

/-- A flip's request ends, if it has one; the update of a peer is then not answered. -/
def FlipOp.fails (f : FlipOp) (oc cause : Nat) (s : State) : State :=
  match f.rid with
  | some q => (s.dropFlip f).endReq q oc cause
  | none => s.dropFlip f

/-- One flip: the row's pointer is written in one 64-bit write, and the old slot may be reused after its last lookup (R373,
R375). -/
def State.flipOne (f : FlipOp) (s : State) : State :=
  let s := s.setRows { s.rows with flips := s.rows.flips.filter (fun x => x != f) }
  match s.tabOf f.table with
  | none => s
  | some t =>
    let s := s.patchTile (gseQuad f.g) t.ws t.ptrObj (f.row / ptrPerTile) (8 * (f.row % ptrPerTile)) 0x0C 7
      (leBytes 4 f.newSlot ++ leBytes 4 f.version)
    let s := s.inc (GSE.UPDATE_CNT f.g)
    let s : State := match s.slotBytes t f.newSlot with
      | some d => s.refresh f.table f.row d
      | none => s
    let s : State := match f.peer with
      | some p => s.emit (.peerAnswer p f.table f.row .ack)
      | none => s
    if f.oldSlot ≠ emptySlot ∧ (t.rows ≤ f.oldSlot ∨ s.slotObjWritable t) then
      s.setRows { s.rows with grace := s.rows.grace ++ [{ g := f.g, table := f.table, slot := f.oldSlot, since := s.tick }] }
    else s

/-- A flip falls due: made once its pointer's tile is in place; a GSE that has stopped gives its updates up (R30, R53, R373, R395). -/
def State.flipDue (f : FlipOp) (s : State) : State :=
  match s.bst (pgGse f.g), s.tabOf f.table with
  | .fenced, _ => f.fails ocUnitOffline 2 s
  | .faulted, _ => f.fails ocFaultDetected 0 s
  | .off, _ => s
  | _, none => s.dropFlip f
  | _, some t => match s.needTile (f.rid.getD peerRid) t.ws t.ptrObj (f.row / ptrPerTile) with
    | (.here, u) => u.flipOne f
    | (.fetching, u) => u
    | (.ends oc c, u) => f.fails oc c u

/-- Every new slot of a GSE that was complete in an earlier tick has its flip. -/
def State.flips (g : Nat) (s : State) : State :=
  (s.rows.flips.filter (fun f => decide (f.g = g) && decide (f.written < s.tick))).foldl (fun u f => u.flipDue f) s

/-- FLIP (R373, R374). -/
def execFlip (g : Nat) (s : State) : Host.Outcome State Fault Refusal := .next (s.flips g)

/-- The old slots of a GSE whose lookups had all delivered in an earlier tick are free (R375). -/
def State.slotsFree (g : Nat) (s : State) : State :=
  let ready := s.rows.grace.filter (fun x => decide (x.g = g) && decide (x.since < s.tick)
    && !s.rows.lookups.any (fun l => decide (l.table = x.table) && decide (l.slot = x.slot) && decide (l.owner = 0)
      && l.answer.isNone))
  ready.foldl (fun (u : State) x => (u.setRows { u.rows with grace := u.rows.grace.filter (fun y => y != x) }).modTab
    x.table (fun t => t.give x.slot)) s

/-- SLOT_FREE (R375): old slots join the free list in the tick after every lookup that read the old pointer has delivered. -/
def execSlotFree (g : Nat) (s : State) : Host.Outcome State Fault Refusal := .next (s.slotsFree g)

/-- What the GSEs do at the start of a tick, before its lookups and updates: the flips of the tick, then the slots that are free from
it on (R373 to R375). -/
def State.rowsTick (s : State) : State := (((s.flips 0).flips 1).slotsFree 0).slotsFree 1

/-! ### Page commands (R369, R380, Tables MAP-7 and MAP-9) -/

/-- The effect of a write of SR_SEED: the generator is reseeded at once; 0 is taken as 1. -/
def State.seed (g value : Nat) (s : State) : State :=
  (s.wr (GSE.SR_SEED g) value).setGen g (atLeast1 (value % 2 ^ 32))

/-- SR_SEED_WRITE (R380). -/
def execSrSeedWrite (rq : Requester) (g value : Nat) (s : State) : Host.Outcome State Fault Refusal :=
  .next (if g < 2 then s.access rq (pgGse g) (State.seed g value) else s)

/-- The effect of a write of RC_SIZE (R369). -/
def State.rcSize (value : Nat) (s : State) : State :=
  let n := clampNat 0 6144 (value % 8192)
  if s.bst 0x063 ≠ .off then s.reject 0x063
  else if 8192 - 512 - n < s.quotaSum 1 then s.setW1c CK_QUOTA.QUOTA_STAT_OVERCOMMIT 1
  else s.wr ROWCACHE.RC_SIZE value

/-- RC_SIZE_WRITE (R369). -/
def execRcSizeWrite (rq : Requester) (value : Nat) (s : State) : Host.Outcome State Fault Refusal :=
  .next (s.access rq 0x063 (State.rcSize value))

/-- SKETCH_CLEAR (Table MAP-9): only while the page is unlocked. -/
def execSketchClear (rq : Requester) (s : State) : Host.Outcome State Fault Refusal :=
  .next (s.access rq 0x063 (fun t => t.expert 0x063 State.clearSketch))

/-! ### Rounds (R387 to R392) -/

/-- The batch a lookup belongs to: 0 to 3 the quadrants, 4 the guest, 8 + p peer slot p (R387). -/
def State.batchOf (s : State) (l : Lookup) : Nat :=
  if l.owner ≠ 0 then 7 + l.owner
  else
    match s.tabOf l.table with
    | none => 0
    | some t => match t.locate l.slot with
      | none => 0
      | some (o, i, _) =>
        match s.lentCopy t.ws o i with
        | some a => (a - aliasBase 0) / 0x0010_0000_0000 % 4
        | none =>
          let a := (s.freshAddr t.ws o i).getD 0
          match regionOf s.part a with
          | .hbm => a / stackSize
          | .locket n => n
          | .guest => 4
          | _ => 0

/-- Requests of a GSE that wait for a round. -/
def State.waitingBatch (s : State) (g : Nat) : List Lookup :=
  s.rows.lookups.filter (fun l => l.g == g && l.round.isNone && l.answer.isNone
    && (decide (l.owner ≠ 0) || (l.upd.isNone && decide (l.slot ≠ unread))))

/-- A request's step has reached its phase boundary: every row it names is looked up or updated (log entry 30). -/
def State.rowsJoined (s : State) (rid : Nat) : Bool :=
  match s.running rid with
  | some (r, st) => (match rowStep st with
    | some (_, _, none) => decide (0 < r.done)
    | some (_, ids, some _) => decide ((s.rowIds r.ws (r.inId ids)).length ≤ r.done) && (s.mergeOf rid).isEmpty
    | none => false)
  | none => false

/-- ROUND_BATCH and ROUND_TICKS as they count. -/
def State.roundBatch (s : State) (g : Nat) : Nat :=
  let n := s.rd (GSE.ROUND_BATCH g)
  if 1 ≤ n ∧ n ≤ 4096 then n else 4096

/-- A GSE opens a round now (R388). -/
def State.roundDue (s : State) (g : Nat) : Bool :=
  let b := s.waitingBatch g
  let ks := b.map s.batchOf
  !b.isEmpty && decide ((s.rows.rounds.filter (fun x => x.1 == g)).length < 4)
    && (b.any (fun l => s.rowsJoined l.rid)
      || ks.eraseDups.any (fun k => decide (s.roundBatch g ≤ (ks.filter (fun x => x == k)).length))
      || b.any (fun l => decide (l.joined + atLeast1 (s.rd (GSE.ROUND_TICKS g)) ≤ s.tick)))

/-- The requests of a batch as they are sent to a peer. -/
def itemOf (l : Lookup) : RemoteItem :=
  match l.upd with
  | none => { table := l.table, row := l.row, isUpdate := false, isPut := false, values := [] }
  | some (p, v) => { table := l.table, row := l.row, isUpdate := true, isPut := p, values := v }

/-- The peer batches of a round are sent, each request under the epoch it joined with (R387, R388). -/
def State.sendBatches (ls : List Lookup) (s : State) : State :=
  ((ls.filter (fun l => l.owner != 0)).map (fun l => (l.owner - 1, l.epoch))).eraseDups.foldl (fun (u : State) k =>
    u.emit (.peerItems k.1 k.2 ((ls.filter (fun l => decide (l.owner = k.1 + 1) && decide (l.epoch = k.2))).map itemOf))) s

/-- ROUND_OPEN (R388): the round takes every batch of the GSE; fetches are issued and peer batches sent. -/
def execRoundOpen (g : Nat) (s : State) : Host.Outcome State Fault Refusal :=
  .next (
    if g < 2 ∧ s.roundDue g then
      let b := s.waitingBatch g
      let num := s.rd64 (GSE.ROUND_NUM_LO g) (GSE.ROUND_NUM_HI g) + 1
      let s := s.wr64 (GSE.ROUND_NUM_LO g) (GSE.ROUND_NUM_HI g) num
      let s := s.setRows { s.rows with
        rounds := s.rows.rounds ++ [(g, num)]
        lookups := s.rows.lookups.map (fun l => if b.contains l then
          { l with round := some num, issue := (match l.issue with
            | some i => some i
            | none => some s.tick) } else l) }
      let s := s.wr (GSE.ROUNDS_OPEN g) ((s.rows.rounds.filter (fun x => x.1 == g)).length)
      let s := s.sendBatches b
      b.foldl (fun (u : State) l =>
        if l.owner = 0 then
          (match u.tabOf l.table with
           | none => u
           | some t => match t.locate l.slot with
             | none => u
             | some (o, i, _) => if (u.req l.rid).isSome then State.needThen l.rid (u.needTile l.rid t.ws o i) id else u)
        else u) s
    else s)

/-- ROUND_CLOSE (R388): every batch of the round has its reply; source 87 fires with the round's number. -/
def execRoundClose (g round : Nat) (s : State) : Host.Outcome State Fault Refusal :=
  .next (
    if s.rows.rounds.contains (g, round)
        && !s.rows.lookups.any (fun l => l.g == g && l.round == some round && l.answer.isNone) then
      let s := s.setRows { s.rows with rounds := s.rows.rounds.filter (fun x => x != (g, round)) }
      (s.wr (GSE.ROUNDS_OPEN g) ((s.rows.rounds.filter (fun x => x.1 == g)).length)).fire 87 (round % 2 ^ 32)
    else s)

/-- A lookup or update is reissued in the next round, under the epoch and the owner in force now (Table MAP-6). -/
def State.reissue (l : Lookup) (s : State) : State :=
  let s := (s.inc (GSE.REISSUE_CNT l.g)).addCause l.rid 8
  match s.tabOf l.table with
  | none => s.endReq l.rid ocTierFailed 1
  | some t =>
    match s.rowOwner l.table t l.row with
    | none => s.endReq l.rid ocTierFailed 0
    | some o =>
      s.setRows { s.rows with lookups := s.rows.lookups.map (fun x =>
        if x = l then {
          x with
          round := none, joined := s.tick, owner := o, epoch := s.rd MAP_DIR.EPOCH, slot := if o = 0 then unread else 0, ver := 0
          answer := none }
        else x) }

/-- The answer of a peer to one request (Table MAP-6). -/
def State.remoteAnswer (l : Lookup) (a : RemoteAnswer) (s : State) : State :=
  let served := fun (d : List Byte) => s.setRows { s.rows with
    lookups := s.rows.lookups.map (fun x => if x = l then { x with answer := some d } else x) }
  match a with
  | .row v d => served (if d.isEmpty then [] else leBytes 4 v ++ d.drop 4)
  | .ack => served []
  | .notOwner =>
    let u := s.reissue l
    (match u.req l.rid with
     | some _ => u.localUpdates l.rid l.g
     | none => u)
  | .absent => (s.badRow l.g).endReq l.rid ocTierFailed 0

/-- REMOTE_REPLY (R389, R392, Table MAP-6): the oldest outstanding request to the peer that the answer fits; a reply for none
is discarded. -/
def execRemoteReply (slot table row : Nat) (a : RemoteAnswer) (s : State) : Host.Outcome State Fault Refusal :=
  .next (
    let fits := fun (l : Lookup) => match a with
      | .row _ _ => l.upd.isNone
      | .ack => l.upd.isSome
      | _ => true
    match s.rows.lookups.find? (fun l => decide (l.owner = slot + 1) && decide (l.table = table) && decide (l.row = row)
        && l.round.isSome && l.answer.isNone && fits l) with
    | none => s
    | some l => (s.roceProgress slot).remoteAnswer l a)

/-- REMOTE_LATE_EXPIRY (Table MAP-6): no answer by the end of tick i + REMOTE_LATE − 1. -/
def execRemoteLateExpiry (rid : Nat) (s : State) : Host.Outcome State Fault Refusal :=
  .next (
    match s.rows.lookups.find? (fun l => decide (l.rid = rid) && decide (l.owner ≠ 0) && l.answer.isNone
        && (match l.issue with
          | some i => decide (i + atLeast1 (s.rd (GSE.REMOTE_LATE l.g)) ≤ s.tick)
          | none => false)) with
    | none => s
    | some l => (s.raiseIrq (pgGse l.g) 3).endReq rid ocTierLate 0)

/-- The remote requests of a peer that has left (Table MAP-6): lookups and updates not yet sent are reissued; an update sent
and unacknowledged ends its request. -/
def State.peerRowsGone (slot : Nat) (s : State) : State :=
  (s.rows.lookups.filter (fun l => decide (l.owner = slot + 1) && l.answer.isNone)).foldl (fun (u : State) l =>
    if u.rows.lookups.contains l then
      (if l.upd.isSome ∧ l.round.isSome then u.endReq l.rid ocTierFailed 0 else u.remoteAnswer l .notOwner)
    else u) s

/-- At the end of a tick: what the peers that departed in it have left unanswered (R392). -/
def State.peersGone (s : State) : State :=
  s.fab.gone.foldl (fun u p => u.peerRowsGone p) (s.setFab { s.fab with gone := [] })

/-! ### Serving peers (R389, R564, R565) -/

/-- A request is served, held until its range has been received or its claim has room, or turned away. -/
inductive ServeAns where
  | serve | hold | refuse
deriving DecidableEq, Repr

/-- Which view a peer's request carries decides whether this device answers for the range (R564). -/
def State.servesRange (s : State) (epoch table range : Nat) (update : Bool) : ServeAns :=
  let self := some s.deviceId
  if epoch = s.fab.cur.id then
    (if s.ownerIn s.fab.cur table range = self then
      (if s.fab.ins.any (fun x => decide (x.1 = table) && decide (x.2.1 = range)) then .hold else .serve)
     else .refuse)
  else if epoch = s.fab.prev.id ∧ s.ownerIn s.fab.prev table range = self then
    (if s.ownerIn s.fab.cur table range = self then .serve
     else match s.fab.outs.find? (fun x => decide (x.1 = table) && decide (x.2.1 = range)) with
       | some (_, _, frozen) => if update && frozen then .refuse else .serve
       | none => .refuse)
  else .refuse

/-- Cost units of a peer's request (R365), and whether the MAP claim of OWNER_WS on the owning GSE has room for them. -/
def rowCost (t : MapTab) (x : RemoteItem) : Nat :=
  (if x.isPut then 2 else if x.isUpdate then 4 else 1) * ceilDiv t.elems 128

def State.chargeFits (s : State) (w u n : Nat) : Bool :=
  let claims := s.sch.reqs.foldl (fun k e => if e.2.ws = w ∧ e.2.cls = 1 then k + estOn e.2.est u else k) 0
  decide (1000 * claims + s.chargeOf (some w) u + n ≤ s.share w 1 * s.capacity u)

/-- Work of a peer is charged to a MAP claim, in thousandths of a unit-tick (R389, R433). -/
def State.charge (w u n : Nat) (s : State) : State :=
  if n = 0 then s else s.setSch { s.sch with charges := s.sch.charges ++ [(w, u, n)] }

/-- The row of a peer's lookup, read as it stands (R367, R368, R374, R377, R389): its version, header and codes; nothing of an empty row. A
hit is served from the cache, and a row read from its slot is tested for admission; one whose VERSION is not the pointer's is a
detection, and is not answered. -/
def State.peerLookup (p g : Nat) (x : RemoteItem) (t : MapTab) (s : State) : State :=
  let answer := fun (ver : Nat) (d : List Byte) (u : State) => u.emit (.peerAnswer p x.table x.row (.row ver (d.take (16 + t.codeBytes))))
  let s := (s.looked x.table x.row t).inc64 (GSE.LOOKUP_CNT_LO g) (GSE.LOOKUP_CNT_HI g) 1
  let (slot, ver) := s.pointer t x.row
  match s.cached x.table x.row with
  | some c => answer ver c.data (s.inc64 (GSE.HIT_CNT_LO g) (GSE.HIT_CNT_HI g) 1)
  | none =>
    if slot = emptySlot then answer ver [] s
    else
      let d := (s.slotBytes t slot).getD []
      if s.sameVersion t x.row ver d then answer ver d (s.admitRow x.table t x.row d false)
      else (s.detect 0x0F 1 (pgGse g) 0xFFFF t.ws none).2

/-- The injected error of the next row read, met by a peer's: an uncorrectable one is a detection, and the peer is not answered (R395,
R396). -/
def State.peerEcc (g ws : Nat) (s : State) : Bool × State :=
  let v := s.rd (GSE.INJ_ECC g)
  if v = 0 then (false, s)
  else
    let s := s.wr (GSE.INJ_ECC g) 0
    if v = 1 then (false, s.corrected (pgGse g)) else (true, (s.detect 0x01 1 (pgGse g) 0xFFFF ws none).2)

/-- The tiles of a row's pointer, then of the slot it names, where they are read, and of a new slot, are brought to where the GSE
reads (R30). -/
def State.bringRow (g table : Nat) (t : MapTab) (row : Nat) (reads : Bool) (new : Option Nat) (s : State) : Need × State :=
  match s.bring 0x01 (pgGse g) [(t.ws, t.ptrObj, row / ptrPerTile)] with
  | (.here, u) =>
    let at_ := fun (slot : Nat) => match t.locate slot with
      | some (o, i, _) => [(t.ws, o, i)]
      | none => []
    u.bring 0x01 (pgGse g) ((if reads && (u.cached table row).isNone then at_ (u.pointer t row).1 else [])
      ++ (match new with
        | some x => at_ x
        | none => []))
  | q => q

/-- A peer's request goes on once its tiles are in place; it waits while they come, or while its workspace has no tile for them; where
they cannot come it is not answered (R389, log entry 100). -/
def State.onceHere (a : Need × State) (hold go : State → State) : State :=
  match a with
  | (.here, t) => go t
  | (.fetching, t) => hold t
  | (.ends oc _, t) => if oc = ocRefusedQuota ∨ oc = ocRefusedCapacity then hold t else t

/-- A hand-over row is written in a new slot with the VERSION received (R373, R565). -/
def State.handRow (g table : Nat) (t : MapTab) (row slot : Nat) (d : List Byte) (s : State) : State :=
  match t.locate slot with
  | none => s
  | some (o, i, off) =>
    let old := (s.pointer t row).1
    let b := padTo t.slotSize (d.take 10 ++ leBytes 2 (gseQuad g % 4 + 0xFF00) ++ leBytes 4 (s.rd MAP_DIR.EPOCH) ++ d.drop 16)
    let s := (s.patchTile (gseQuad g) t.ws o i off t.fmt 4 b).modTab table (fun x => x.take slot)
    s.setRows { s.rows with flips := s.rows.flips ++ [{
      rid := none, peer := none, g := g, table := table, row := row, newSlot := slot, oldSlot := old,
      version := slotVersion d, written := s.tick }] }

/-- A row as it is handed over: neither a lookup nor an update, with the bytes of its slot. -/
def isHandRow (x : RemoteItem) : Bool := x.isPut && !x.isUpdate

/-- A request of a peer waits for an earlier one to the same row (R383). -/
def State.behind (s : State) (x : RemoteItem) : Bool :=
  s.fab.held.any (fun h => decide (h.2.2.table = x.table) && decide (h.2.2.row = x.row))

/-- The GSE may take a row of a peer: its page is up and clocked (R125), and the row waits for no flip. -/
def State.gseTakes (s : State) (g : Nat) (x : RemoteItem) : Bool :=
  (s.bst (pgGse g)).live && s.clockOn (pgGse g) && !s.flipPending x.table x.row

/-- A hand-over row is taken while its range is still to be received; it waits as a batch of a peer does (R389, R565). -/
def State.handItem (p epoch : Nat) (x : RemoteItem) (s : State) : State :=
  match s.tabOf x.table with
  | none => s
  | some t =>
    if t.rows ≤ x.row ∨ !s.fab.ins.any (fun e => decide (e.1 = x.table) && decide (e.2.1 = t.rangeOf x.row)) then s
    else
      let g := t.writer x.row
      let hold := fun (u : State) => u.setFab { u.fab with held := u.fab.held ++ [(p, epoch, x)] }
      if s.behind x || !s.gseTakes g x then hold s
      else match s.freeSlotOf t with
        | none => hold (s.shadowWait g)
        | some slot => State.onceHere (s.bringRow g x.table t x.row false (some slot)) hold (fun u =>
            u.handRow g x.table t x.row slot (x.values.map (BitVec.ofNat 8)))

/-- One request of a peer whose batch fits its claim (R389): answered, or held for its range, its GSE or its tiles. -/
def State.peerItem (p epoch : Nat) (x : RemoteItem) (s : State) : State :=
  let answer := fun (a : RemoteAnswer) (u : State) => u.emit (.peerAnswer p x.table x.row a)
  let hold := fun (u : State) => u.setFab { u.fab with held := u.fab.held ++ [(p, epoch, x)] }
  if isHandRow x then s.handItem p epoch x
  else match s.tabOf x.table with
  | none => answer .notOwner s
  | some t =>
    if t.rows ≤ x.row then answer .absent s
    else match s.servesRange epoch x.table (t.rangeOf x.row) x.isUpdate with
      | .refuse => answer .notOwner s
      | .hold => hold s
      | .serve =>
        let g := t.writer x.row
        if s.behind x || !(s.bst (pgGse g)).live || !s.clockOn (pgGse g) then hold s
        else if !x.isUpdate then
          State.onceHere (s.bringRow g x.table t x.row true none) hold (fun u =>
            match (if (u.cached x.table x.row).isSome then (false, u) else u.peerEcc g t.ws) with
            | (true, u) => u
            | (false, u) => (u.inc (GSE.PEER_SERVED_CNT g)).peerLookup p g x t)
        else if !t.learn then answer .notOwner s
        else if s.flipPending x.table x.row then hold s
        else match s.freeSlotOf t with
          | none => hold (s.shadowWait g)
          | some slot => State.onceHere (s.bringRow g x.table t x.row (!x.isPut) (some slot)) hold (fun u =>
              match (if x.isPut || (u.cached x.table x.row).isSome then (false, u) else u.peerEcc g t.ws) with
              | (true, u) => u
              | (false, u) => (u.inc (GSE.PEER_SERVED_CNT g)).replaceRow none (some p) g x.table t x.row slot x.isPut none x.values)

/-- What the requests of a batch cost, by the workspace and the unit whose MAP claim is charged (R365, R389): those that this device
serves, or will serve. -/
def State.batchCost (epoch : Nat) (items : List RemoteItem) (s : State) : List (Nat × Nat × Nat) :=
  items.foldl (fun l x => match s.tabOf x.table with
    | none => l
    | some t =>
      if t.rows ≤ x.row ∨ (!isHandRow x ∧ s.servesRange epoch x.table (t.rangeOf x.row) x.isUpdate = .refuse) then l
      else
        let u := 10 + t.writer x.row
        let n := rowCost t x
        if l.any (fun e => decide (e.1 = t.ws) && decide (e.2.1 = u)) then
          l.map (fun e => if e.1 = t.ws ∧ e.2.1 = u then (e.1, e.2.1, e.2.2 + n) else e)
        else l ++ [(t.ws, u, n)]) []

/-- A batch of a peer: charged as a whole, and its requests then taken in turn; one that does not fit its claims waits, and so does one
that names a row of a batch that waits (R383, R389). -/
def State.peerBatch (p epoch : Nat) (items : List RemoteItem) (s : State) : State :=
  let cost := s.batchCost epoch items
  let after := s.fab.batches.any (fun b => b.2.2.any (fun y => items.any (fun x => decide (x.table = y.table) && decide (x.row = y.row))))
  if after || !cost.all (fun c => s.chargeFits c.1 c.2.1 c.2.2) then
    s.setFab { s.fab with batches := s.fab.batches ++ [(p, epoch, items)] }
  else items.foldl (fun u x => u.peerItem p epoch x) (cost.foldl (fun (u : State) c => u.charge c.1 c.2.1 c.2.2) s)

/-- Held requests of peers are tried again, in order, then the batches that wait. -/
def State.retryHeld (s : State) : State :=
  let l := s.fab.held
  let b := s.fab.batches
  let s := l.foldl (fun (u : State) h => u.peerItem h.1 h.2.1 h.2.2) (s.setFab { s.fab with held := [] })
  b.foldl (fun (u : State) x => u.peerBatch x.1 x.2.1 x.2.2) (s.setFab { s.fab with batches := [] })

/-- A hand-over row of a range waits. -/
def State.handWaits (s : State) (table range : Nat) : Bool :=
  (s.fab.held.map (·.2.2) ++ s.fab.batches.flatMap (·.2.2)).any (fun h => isHandRow h && decide (h.table = table) && (match s.tabOf table with
    | some t => decide (t.rangeOf h.row = range)
    | none => false))

/-- Held requests are tried again; a range whose HANDOVER_END has come is received once none of its rows waits, and what was
held for it is then answered (R564). -/
def State.serveHeld (s : State) : State :=
  let s := s.retryHeld
  let done := s.fab.ended.filter (fun e => !s.handWaits e.1 e.2)
  if done.isEmpty then s
  else (s.setFab { s.fab with
    ended := s.fab.ended.filter (fun e => !done.contains e)
    ins := s.fab.ins.filter (fun e => !done.contains (e.1, e.2.1)) }).retryHeld

/-- PEER_BATCH (R126, R389, R564): each request of the batch is answered in turn; the batch leaves DOZE. -/
def execPeerBatch (slot epoch : Nat) (items : List RemoteItem) (s : State) : Host.Outcome State Fault Refusal :=
  .next (
    if s.fabUp && (mapFind s.fab.peers slot).isSome then s.leaveDoze.peerBatch slot epoch items else s)

/-! ### What other chapters call -/

/-- In DEEP the cache, the sketch and the free lists are lost and every table becomes inactive (R394). -/
def State.rowsLost (s : State) : State :=
  let s := s.rows.tabs.foldl (fun (u : State) e => u.setActive e.1 false) s
  (s.setRows { s.rows with tabs := [], cache := [], flips := [], grace := [], merge := [], lookups := [], rounds := [] }).clearSketch

/-- Rows of ranges this device no longer owns leave the cache (R366). -/
def State.cacheOwned (s : State) : State :=
  s.setRows { s.rows with cache := s.rows.cache.filter (fun c => match s.tabOf c.table with
    | some t => decide (s.rowOwner c.table t c.row = some 0)
    | none => false) }

end Sys2Proof.Machine
end

