-- ==== Sys2Proof/Machine/Loupe.lean ====
section
/-! DEFINITION. Loupe: indexes, distances, the approximate walk, exact search over list scans, result tiles, the merge of
shard results, and searches served for peers (R399 to R439). -/

namespace Sys2Proof.Machine

/-- The state with the Loupes' record replaced. -/
def State.setLps (l : Lps) (s : State) : State := { s with lps := l }

/-! ### Indexes and nodes (R399 to R406) -/

/-- Bytes of a node's vector, where its neighbours begin, its stride, and the nodes of a tile (R401). -/
def LpIndex.vecBytes (x : LpIndex) : Nat := rowBytes x.fmt x.dims
def LpIndex.nbrOff (x : LpIndex) : Nat := roundUp (16 + x.vecBytes) 4
def LpIndex.stride (x : LpIndex) : Nat := roundUp (x.nbrOff + 4 * x.degree) 64
def LpIndex.perTile (x : LpIndex) : Nat := atLeast1 (32704 / x.stride)

/-- A directory entry's index, as Table LP-1 lays it out. -/
def indexOfEntry (b : List Byte) : LpIndex :=
  let fl := fieldAt b 3 1
  { fmt := fieldAt b 1 1, metric := fieldAt b 2 1, normed := bit fl 0, peerServe := bit fl 1, dims := fieldAt b 4 2,
    degree := fieldAt b 6 1, ws := fieldAt b 7 1, nodesM1 := fieldAt b 8 4, entry := fieldAt b 12 4,
    nodeObj := fieldAt b 16 8, listObj := fieldAt b 24 8, centObj := fieldAt b 32 8, lists := fieldAt b 40 4,
    shard := fieldAt b 44 2, table := [], leaving := false }

/-- A field of the entry is out of range (Table LP-3, 0x02). -/
def indexRange (b : List Byte) : Bool :=
  let x := indexOfEntry b
  let bin := decide (x.fmt = 0x10)
  !([0x00, 0x01, 0x02, 0x03, 0x0C, 0x10].contains x.fmt) || decide (3 < x.metric) || decide (x.dims < 16)
    || decide (2048 < x.dims) || decide (x.dims % (if bin then 64 else 16) ≠ 0) || decide (x.degree < 8)
    || decide (64 < x.degree) || decide (x.degree % 8 ≠ 0) || decide (x.lists = 0) || decide (65536 < x.lists)
    || (decide (x.listObj = 0) && (decide (x.lists ≠ 1) || decide (x.centObj ≠ 0))) || decide (x.shard = 65535)
    || (decide (x.metric = 3) != bin) || decide (x.nodesM1 < x.entry) || (x.normed && decide (x.metric ≠ 2))

/-- Entries of a list table to a tile, and centroids. -/
def listPerTile : Nat := 2044
def LpIndex.centPerTile (x : LpIndex) : Nat := 32704 / atLeast1 x.vecBytes

/-- The list table of an index: FIRST and COUNT of each list, and whether its reserved bytes are 0; one list of all nodes where
LIST_OBJ is 0 (R402). -/
def State.listTable (s : State) (x : LpIndex) : List (Nat × Nat × Nat) :=
  if x.listObj = 0 then [(0, x.nodesM1 + 1, 0)]
  else
    let l := (List.range (ceilDiv x.lists listPerTile)).flatMap (fun i => match s.freshTile x.ws x.listObj i with
      | none => []
      | some b => chunksOf 16 listPerTile ((b.drop 64).take 32704))
    (l.take x.lists).map (fun e => (fieldAt e 0 4, fieldAt e 4 4, fieldAt e 8 8))

/-- Lists hold consecutive local IDs in ascending order of FIRST, every node exactly once (R402); a list of none holds no node, wherever
its FIRST stands in that order. -/
def listsOk (nodes : Nat) (l : List (Nat × Nat × Nat)) : Bool :=
  let r := l.foldl (fun (a : Bool × Nat × Nat) e =>
    (a.1 && decide (a.2.1 ≤ e.1) && (decide (e.2.1 = 0) || decide (e.1 = a.2.2)) && decide (e.2.2 = 0), e.1, a.2.2 + e.2.1)) (true, 0, 0)
  r.1 && decide (r.2.2 = nodes)

/-- The first check of Table LP-3 that fails; 0 when all pass (R403). -/
def State.indexReason (s : State) (index : Nat) (b : List Byte) : Nat :=
  let x := indexOfEntry b
  if fieldAt b 60 4 ≠ crc32c (b.take 60) ∨ fieldAt b 0 1 ≠ index ∨ 4 ≤ fieldAt b 3 1 ∨ leNat ((b.drop 46).take 14) ≠ 0 then 1
  else if indexRange b then 2
  else
    let extra := decide (x.listObj ≠ 0)
    let named := fun id => (s.ownObj x.ws id).filter (fun o => o.freedBy.isNone)
    match named x.nodeObj, named x.listObj, named x.centObj with
    | some n, l, c =>
      if extra && (l.isNone || c.isNone) then 3
      else if decide (n.tiles * x.perTile ≤ x.nodesM1)
          || (extra && (decide ((l.getD n).tiles * listPerTile < x.lists)
            || decide ((c.getD n).tiles * x.centPerTile < x.lists))) then 4
      else if !listsOk (x.nodesM1 + 1) (s.listTable x) then 5
      else 0
    | none, _, _ => 3

/-- IDX_CMD_STAT of a command. -/
def State.idxStat (lp index result reason : Nat) (s : State) : State :=
  ((s.wr (LP.IDX_CMD_STAT_RESULT lp) result).wr (LP.IDX_CMD_STAT_INDEX lp) index).wr (LP.IDX_CMD_STAT_REASON lp) reason

/-- An index's bit of IDX_ACTIVE. -/
def State.setIdxActive (lp index : Nat) (b : Bool) (s : State) : State :=
  if index < 32 then s.putBit (LP.IDX_ACTIVE_LO lp) index b else s.putBit (LP.IDX_ACTIVE_HI lp) (index - 32) b

/-- An active index of a Loupe. -/
def State.indexOf (s : State) (lp index : Nat) : Option LpIndex := mapFind s.lps.idx (64 * lp + index)

/-- The directory entry of an index as it is read from the Casket; none where it lies elsewhere or holds an uncorrectable word: it is then
no sound entry (R31, R399, R633). -/
def State.indexEntry (lp index : Nat) (s : State) : Option (List Byte) × State :=
  s.blockRead (pgLp lp) (s.rd64 (LP.IDX_BASE_LO lp) (LP.IDX_BASE_HI lp) / 4096 * 4096 + 64 * index) 64

/-- The tiles of an index's list table are brought to the Loupe and read (R30; log entry 99): whether all could be. -/
def State.readLists (lp : Nat) (x : LpIndex) (s : State) : Bool × State :=
  if x.listObj = 0 then (true, s)
  else
    let (m, s) := s.moverReads (pgLp lp) x.ws ((List.range (ceilDiv x.lists listPerTile)).map (fun i => (x.listObj, i)))
    (m.isSome, s)

/-- The effect of IDX_CMD with ACT = 1 (R403): the checks of Table LP-3 in their order, and the list table read for the last of them. -/
def State.idxAct (lp index : Nat) (s : State) : State :=
  if !(s.bst (pgLp lp)).up then s
  else if (s.indexOf lp index).isSome then s.idxStat lp index 1 0
  else
    let (e, s) := s.indexEntry lp index
    let b := e.getD []
    let c := s.indexReason index b
    let x := indexOfEntry b
    let x := { x with table := (s.listTable x).map (fun e => (e.1, e.2.1)) }
    if c ≠ 0 ∧ c ≠ 5 then s.idxStat lp index 2 c
    else
      let (read, s) := s.readLists lp x
      if c ≠ 0 ∨ !read then s.idxStat lp index 2 5
      else ((s.setLps { s.lps with idx := mapInsert s.lps.idx (64 * lp + index) x }).setIdxActive lp index true).idxStat lp index 1 0

/-- IDX_CMD_ACT (R403). -/
def execIdxCmdAct (rq : Requester) (lp index : Nat) (s : State) : Host.Outcome State Fault Refusal :=
  .next (if lp < 2 then s.access rq (pgLp lp) (State.idxAct lp (index % 64)) else s)

/-- The Loupe a request's Loupe steps run on. -/
def lpOf (r : Req) : Nat := if r.claims 8 then 0 else 1

/-- A request holds an index: a SEARCH step it has yet to end names it. -/
def State.indexHeld (s : State) (lp index : Nat) : Bool :=
  s.sch.reqs.any (fun e => decide (lpOf e.2 = lp) && e.2.steps.any (fun st => match st with
    | .search _ i _ _ _ _ _ _ => i == index
    | _ => false))

/-- An index is inactive. -/
def State.dropIndex (lp index : Nat) (s : State) : State :=
  (s.setLps { s.lps with idx := mapErase s.lps.idx (64 * lp + index) }).setIdxActive lp index false

/-- The effect of IDX_CMD with DEACT = 1 (R403). -/
def State.idxDeact (lp index : Nat) (s : State) : State :=
  if !(s.bst (pgLp lp)).up then s
  else if (s.indexOf lp index).isNone then s.idxStat lp index 1 0
  else if s.indexHeld lp index then
    (s.setLps { s.lps with idx := mapModify (fun x => { x with leaving := true }) s.lps.idx (64 * lp + index) }).idxStat lp index 3 0
  else (s.dropIndex lp index).idxStat lp index 1 0

/-- IDX_CMD_DEACT (R403). -/
def execIdxCmdDeact (rq : Requester) (lp index : Nat) (s : State) : Host.Outcome State Fault Refusal :=
  .next (if lp < 2 then s.access rq (pgLp lp) (State.idxDeact lp (index % 64)) else s)

/-- INDEX_DEACT_COMPLETE (R403): no request holds the index any more. -/
def execIndexDeactComplete (lp index : Nat) (s : State) : Host.Outcome State Fault Refusal :=
  .next (
    match s.indexOf lp index with
    | none => s
    | some x =>
      if x.leaving && !s.indexHeld lp index then
        let s := s.dropIndex lp index
        if s.rd (LP.IDX_CMD_STAT_INDEX lp) = index then s.idxStat lp index 1 0 else s
      else s)

/-! ### Distances (R407 to R410) -/

/-- Sums of neighbouring pairs. -/
def pairUp : List Nat → List Nat
  | a :: b :: r => f32Add a b :: pairUp r
  | l => l

/-- A pairwise tree of n levels over FP32 codes. -/
def treeSum : Nat → List Nat → Nat
  | 0, l => l.headD 0
  | n + 1, l => treeSum n (pairUp l)

/-- The FP32 sum of terms: a pairwise tree over each 64, the chunks added in ascending order; a last chunk is filled with zeros
(R408, log entry 31). -/
def laneSum (l : List Nat) : Nat :=
  match (chunksOf 64 (l.length + 1) l).map (fun c => treeSum 6 (c ++ List.replicate (64 - c.length) 0)) with
  | [] => 0
  | c :: cs => cs.foldl f32Add c

/-- Elements of a vector as the lanes take them: FP32 codes, INT8 codes, or bits. -/
def vecOf (fmt n : Nat) (b : List Byte) : List Nat :=
  let cs := unpackBits (elemBits fmt) n b
  if fmt = 0x00 ∨ fmt = 0x0C ∨ fmt = 0x10 then cs else cs.map (fun c => f32c (elemVal fmt c))

/-- The norm of a query, in FP32, computed once (R408). -/
def queryNorm (fmt : Nat) (v : List Nat) : Nat :=
  if fmt = 0x0C then f32Sqrt (f32c (fpOfSigned (v.foldl (fun n c => n + toSigned 8 c * toSigned 8 c) 0)))
  else f32Sqrt (laneSum (v.map (fun c => f32Mul c c)))

/-- An FP32 code as a number in the order of R409: NaN and +Inf last; zeros of either sign alike. -/
def f32Key (c : Nat) : Int :=
  if (f32v c) = .nan then 0x7F80_0000
  else if 2 ^ 31 ≤ c then -((c % 2 ^ 31 : Nat) : Int) else (c : Int)

/-- A distance: its order, the FP32 code reported, and whether it was NaN (R407, R409, R410). -/
def distance (x : LpIndex) (qv : List Nat) (qn : Nat) (nodeNorm : Nat) (nv : List Nat) : Int × Nat × Bool :=
  let exact := fun (v : Int) => (v, f32c (fpOfSigned v), false)
  let float := fun (c : Nat) => if (f32v c) = .nan then (f32Key c, 0x7F80_0000, true) else (f32Key c, c, false)
  let xn := if x.normed then f32One else nodeNorm
  let cosine := fun (dot : Nat) =>
    if f32Key qn = 0 ∨ f32Key xn = 0 then (f32Key f32One, f32One, false)
    else float (f32Sub f32One (f32Div dot (f32Mul qn xn)))
  if x.metric = 3 then exact (((qv.zip nv).filter (fun e => e.1 != e.2)).length : Nat)
  else if x.fmt = 0x0C then
    (let prod := (qv.zip nv).foldl (fun (n : Int) e => n + toSigned 8 e.1 * toSigned 8 e.2) 0
     if x.metric = 0 then exact ((qv.zip nv).foldl (fun (n : Int) e =>
         n + (toSigned 8 e.1 - toSigned 8 e.2) * (toSigned 8 e.1 - toSigned 8 e.2)) 0)
     else if x.metric = 1 then exact (-prod)
     else cosine (f32c (fpOfSigned prod)))
  else if x.metric = 0 then
    float (laneSum ((qv.zip nv).map (fun e => let d := f32Sub e.1 e.2; f32Mul d d)))
  else
    let dot := laneSum ((qv.zip nv).map (fun e => f32Mul e.1 e.2))
    if x.metric = 1 then float (f32c (fpNeg (f32v dot))) else cosine dot

/-- Lane-cycles of one distance (R425). -/
def laneCost (x : LpIndex) : Nat := ceilDiv x.dims (if x.fmt = 0x10 then 512 else 64)

/-- A node's record (Table LP-2), where its newest tile lies. -/
def State.nodeRec (s : State) (x : LpIndex) (n : Nat) : List Byte :=
  (s.freshBytes x.ws x.nodeObj (n / x.perTile) (n % x.perTile * x.stride) x.stride).getD []

/-- Valid neighbours of a record, in list order. -/
def nbrsOf (x : LpIndex) (b : List Byte) : List Nat :=
  (List.range (clampNat 0 x.degree (fieldAt b 0 2))).map (fun i => fieldAt b (x.nbrOff + 4 * i) 4)

/-- One distance is computed: it is counted, and its lane-cycles (R425, Table LP-9). -/
def State.countDist (lp : Nat) (x : LpIndex) (nan : Bool) (s : State) : State :=
  let used := mapGet (fun _ => 0) s.lps.lanes lp
  let now := used + laneCost x
  let s := s.inc64 (LP.DIST_CNT_LO lp) (LP.DIST_CNT_HI lp) 1
  let s := s.setLps { s.lps with lanes := mapSet (fun _ => 0) s.lps.lanes lp now }
  let s := s.incBy (LP.LANE_BUSY lp) (now / 1024 - used / 1024)
  if nan then s.inc (LP.NAN_DIST_CNT lp) else s

/-- The candidate a node is for a query. -/
def State.candidate (lp : Nat) (x : LpIndex) (q : LpQuery) (n : Nat) (s : State) : Cand × State :=
  let b := s.nodeRec x n
  let (k, c, nan) := distance x q.vec q.norm (fieldAt b 4 4) (vecOf x.fmt x.dims ((b.drop 16).take x.vecBytes))
  ({ key := k, code := c, node := n, expanded := false, deleted := bit (fieldAt b 2 2) 0 }, s.countDist lp x nan)

/-- A query with one more distance of its own (R420, R425). -/
def LpQuery.took (q : LpQuery) (x : LpIndex) : LpQuery := { q with lanes := q.lanes + laneCost x }

/-- The order of R409. -/
def candLt (a b : Cand) : Bool := decide (a.key < b.key) || (decide (a.key = b.key) && decide (a.node < b.node))

/-- A candidate put in its place in a queue of at most l. -/
def insertCand (l : Nat) (c : Cand) (q : List Cand) : List Cand :=
  (q.filter (fun x => candLt x c) ++ c :: q.filter (fun x => !candLt x c)).take l

/-! ### The approximate walk (R412 to R415) -/

/-- A neighbour is met: skipped if visited or queued, else visited, evaluated and queued (R404, R412, R414). -/
def State.meet (lp : Nat) (x : LpIndex) (l n : Nat) (q : LpQuery) (s : State) : LpQuery × State :=
  if x.nodesM1 < n then (q, s.inc (LP.BAD_NBR_CNT lp))
  else if q.visited.contains n || q.queue.any (fun c => c.node == n) then (q, s)
  else
    let full := decide (4096 ≤ q.visited.length)
    let q := if full then { q with sat := true } else { q with visited := n :: q.visited }
    let (c, s) := s.candidate lp x q n
    ({ q.took x with queue := insertCand l c q.queue }, s)

/-- Tiles of the neighbours an expansion evaluates. -/
def nbrTiles (x : LpIndex) (q : LpQuery) (ns : List Nat) : List (Nat × Nat × Nat) :=
  ((ns.filter (fun n => decide (n ≤ x.nodesM1) && !q.visited.contains n)).map (fun n => (x.ws, x.nodeObj, n / x.perTile))).eraseDups

/-- An injected error of a Loupe's next node read: an uncorrectable one ends the requests the node is read for (R438, R633). -/
def State.lpEcc (lp : Nat) (rids : List Nat) (s : State) : Bool × State :=
  let v := s.rd (LP.INJ_ECC lp)
  let s := if v = 0 then s else s.wr (LP.INJ_ECC lp) 0
  if v = 0 then (false, s)
  else if v = 1 then (false, s.corrected (pgLp lp))
  else (true, s.detectAll 0x01 (pgLp lp) 0xFFFF rids)

/-- An injected error of a lane's next distance, which the pairs find: it ends the request (R428). -/
def State.lpLane (lp rid : Nat) (s : State) : Bool × State :=
  if s.sentinel && s.on (LP.INJ_LANE_EN lp) then
    (true, (((s.wr (LP.INJ_LANE_EN lp) 0).inc (LP.PAIR_MISMATCH lp)).raiseIrq (pgLp lp) 3).detectAll 0x0A (pgLp lp)
      (s.rd (LP.INJ_LANE_LANE lp)) [rid])
  else (false, s)

/-- A node is read, and its distance computed, for a request: whether an injected error ends it. -/
def State.lpInject (lp rid : Nat) (s : State) : Bool × State :=
  match s.lpEcc lp [rid] with
  | (true, s) => (true, s)
  | (false, s) => s.lpLane lp rid

/-- How far a query gets: its end, a wait for a tile, or the end of its request. -/
inductive WalkAns where
  | done | waits | ended
deriving DecidableEq, Repr

/-- A tile is to be in place for a query, of a request or of a peer. -/
def State.walkTile (rid : Nat) (x : LpIndex) (id i : Nat) (s : State) : Need × State := s.needTile rid x.ws id i

/-- Tiles are needed for a query, and read once all are in place. -/
def State.walkTiles (rid lp : Nat) (l : List (Nat × Nat × Nat)) (s : State) : Need × State :=
  if rid = peerRid then s.bring 0x01 (pgLp lp) l else s.needTiles rid l

/-- The expansions of a walk, until it ends or waits; the tiles of each are let go once it is done (R412, R413). -/
def State.walk (rid lp : Nat) (x : LpIndex) (l visitMax : Nat) : Nat → LpQuery → State → WalkAns × LpQuery × State
  | 0, q, s => (.done, q, s)
  | fuel + 1, q, s =>
    match q.queue.find? (fun c => !c.expanded) with
    | none => (.done, q, s)
    | some c =>
      if visitMax ≤ q.expansions then (.done, { q with budget := true }, s)
      else
        match s.walkTile rid x x.nodeObj (c.node / x.perTile) with
        | (.fetching, u) => (.waits, q, u)
        | (.ends oc k, u) => (.ended, q, u.endReq rid oc k)
        | (.here, u) =>
          let ns := (nbrsOf x (u.nodeRec x c.node)).filter (fun n => n != c.node)
          let tiles := ((x.ws, x.nodeObj, c.node / x.perTile) :: nbrTiles x q ns).eraseDups
          (match u.walkTiles rid lp tiles with
           | (.fetching, v) => (.waits, q, v)
           | (.ends oc k, v) => (.ended, q, v.endReq rid oc k)
           | (.here, v) =>
             match v.lpInject lp rid with
             | (true, v) => (.ended, q, v)
             | (false, v) =>
               let q := { q with
                 expansions := q.expansions + 1
                 queue := q.queue.map (fun y => if y.node = c.node then { y with expanded := true } else y) }
               let r := ns.foldl (fun (a : LpQuery × State) n => a.2.meet lp x l n a.1) (q, v)
               State.walk rid lp x l visitMax fuel r.1 (r.2.letGo rid x.ws x.nodeObj (tiles.map (·.2.2))))

/-- A walk begins with the entry node in the queue and the visited set. -/
def State.walkStart (lp : Nat) (x : LpIndex) (q : LpQuery) (s : State) : LpQuery × State :=
  let (c, s) := s.candidate lp x q x.entry
  ({ q.took x with started := true, queue := [c], visited := [x.entry] }, s)

/-! ### Exact search (R418 to R422) -/

/-- The centroids in one tile of an index: its rows. -/
def State.centRows (s : State) (x : LpIndex) (i : Nat) : List (List Nat) :=
  match s.freshTile x.ws x.centObj i with
  | none => []
  | some b =>
    let h := hdrOf b
    (List.range h.dim0).map (fun j => vecOf x.fmt x.dims (((payloadOf b).drop (j * h.pitch)).take x.vecBytes))

/-- The norm of a centroid, which has no record to read it from (log entry 31). -/
def centNorm (x : LpIndex) (v : List Nat) : Nat := queryNorm x.fmt v

/-- A query probes every list of an index (R418). -/
def probesAll (x : LpIndex) (probe : Nat) : Bool := decide (probe = 0) || decide (x.lists ≤ probe)

/-- The next tile of centroids is compared with a query: the nearest lists so far stand in its queue, ties to the lower list (R418). -/
def State.seeCents (lp : Nat) (x : LpIndex) (probe : Nat) (q : LpQuery) (s : State) : LpQuery × State :=
  let rows := (s.centRows x q.centTile).take (x.lists - q.centRow)
  let r := rows.zipIdx.foldl (fun (a : LpQuery × State) e =>
    let (k, c, nan) := distance x q.vec q.norm (centNorm x e.1) e.1
    ({ a.1.took x with queue := insertCand probe { key := k, code := c, node := q.centRow + e.2, expanded := false, deleted := false } a.1.queue },
     a.2.countDist lp x nan)) (q, s)
  ({ r.1 with centTile := q.centTile + 1, centRow := q.centRow + rows.length }, r.2)

/-- The tiles of an index's centroids are compared with a query, one after another, until all are or one is not in place. -/
def State.centLoop (rid lp : Nat) (x : LpIndex) (probe : Nat) : Nat → LpQuery → State → WalkAns × LpQuery × State
  | 0, q, s => (.done, q, s)
  | n + 1, q, s =>
    if x.lists ≤ q.centRow then (.done, q, s)
    else match s.walkTiles rid lp [(x.ws, x.centObj, q.centTile)] with
      | (.fetching, u) => (.waits, q, u)
      | (.ends oc c, u) => (.ended, q, u.endReq rid oc c)
      | (.here, u) => match u.lpLane lp rid with
        | (true, u) => (.ended, q, u)
        | (false, u) =>
          let a := u.seeCents lp x probe q
          State.centLoop rid lp x probe n a.1 (a.2.letGo rid x.ws x.centObj [q.centTile])

/-- Tiles of an index's centroids. -/
def State.centTiles (s : State) (x : LpIndex) : Nat :=
  match s.objOf x.ws x.centObj with
  | some o => o.tiles
  | none => 0

/-- Tiles of a list: those its nodes lie in. -/
def LpIndex.listTiles (x : LpIndex) (list : Nat) : List Nat :=
  match x.table[list]? with
  | none => []
  | some (f, n) => if n = 0 then [] else (List.range ((f + n - 1) / x.perTile + 1 - f / x.perTile)).map (f / x.perTile + ·)

/-- Nodes of a list in one tile. -/
def LpIndex.listNodes (x : LpIndex) (list tile : Nat) : List Nat :=
  match x.table[list]? with
  | none => []
  | some (f, n) => (List.range x.perTile).filterMap (fun i =>
      let v := tile * x.perTile + i
      if f ≤ v ∧ v < f + n then some v else none)

/-- A query sees a tile of a list: its nodes are compared, the k nearest not deleted are kept, and the tile counts as seen. -/
def State.seeTile (lp : Nat) (x : LpIndex) (k list tile : Nat) (q : LpQuery) (s : State) : LpQuery × State :=
  let r := (x.listNodes list tile).foldl (fun (a : LpQuery × State) n =>
    let (c, u) := a.2.candidate lp x a.1 n
    (if c.deleted then a.1.took x else { a.1.took x with queue := insertCand k c a.1.queue }, u)) (q, s)
  let all := (x.listTiles list).length
  ({ r.1 with needs := (r.1.needs.map (fun e => if e.1 = list then (e.1, tile :: e.2) else e)).filter (fun e =>
      decide (e.1 ≠ list) || decide (e.2.length < all)) }, r.2)

/-- An exact query begins with the lists it needs: all, or the nearest centroids' once all are compared; those with no node are seen at
once (R418, R422). -/
def State.exactStart (rid lp : Nat) (x : LpIndex) (probe : Nat) (q : LpQuery) (s : State) : WalkAns × LpQuery × State :=
  let begin_ := fun (ls : List Nat) (q : LpQuery) => { q with
    started := true, queue := [], needs := (ls.filter (fun l => !(x.listTiles l).isEmpty)).map (fun l => (l, [])) }
  if probesAll x probe then (.done, begin_ (List.range x.lists) q, s)
  else match s.centLoop rid lp x probe (s.centTiles x) q with
    | (.done, q, u) => (.done, begin_ (q.queue.map (·.node)) q, u)
    | a => a

/-! ### Queries and contexts (R411, R416, R424) -/

/-- The query formats an index takes (Table LP-4). -/
def queryFmtOk (x : LpIndex) (f : Nat) : Bool :=
  if x.fmt = 0x0C ∨ x.fmt = 0x10 then decide (f = x.fmt) else decide (f ≤ 2)

/-- A query tile is as R411 says. -/
def queryTileOk (x : LpIndex) (h : TileHdr) : Bool := decide (h.layout = 0) && queryFmtOk x h.format && decide (h.dim1 = x.dims)

/-- The queries of an object: each row of each tile. -/
def State.queryRows (s : State) (w id : Nat) (x : LpIndex) : List (List Nat) :=
  match s.objOf w id with
  | none => []
  | some o => (List.range o.tiles).flatMap (fun i => match s.freshTile w id i with
      | none => []
      | some b =>
        let h := hdrOf b
        (List.range h.dim0).map (fun j => vecOf h.format x.dims (((payloadOf b).drop (j * h.pitch)).take (rowBytes h.format x.dims))))

/-- A query that has not begun. -/
def newQuery (rid lp index qi : Nat) (x : LpIndex) (v : List Nat) : LpQuery :=
  { rid := rid, lp := lp, index := index, qi := qi, vec := v, norm := if x.metric = 2 then queryNorm x.fmt v else 0, ctx := false,
    started := false, queue := [], visited := [], expansions := 0, sat := false, budget := false, needs := [], centTile := 0, centRow := 0,
    lanes := 0, finished := false }

/-- The queries of a request. -/
def State.queriesOf (s : State) (rid : Nat) : List LpQuery := s.lps.queries.filter (fun q => q.rid == rid)

/-- The state with one query replaced. -/
def State.putQuery (q : LpQuery) (s : State) : State :=
  s.setLps { s.lps with queries := s.lps.queries.map (fun y => if y.rid = q.rid ∧ y.qi = q.qi then q else y) }

/-- A query counts below FRAME for the contexts: its request does, or it is a peer's (R424, R433). -/
def State.queryLow (s : State) (q : LpQuery) : Bool :=
  match s.req q.rid with
  | some r => decide (r.cls ≠ 0)
  | none => decide (q.rid = peerRid)

/-- Contexts of a Loupe that hold a query, and those of them that requests below FRAME hold. -/
def State.ctxBusy (s : State) (lp : Nat) : Nat :=
  (s.lps.queries.filter (fun q => decide (q.lp = lp) && q.ctx && !q.finished)).length
def State.ctxLow (s : State) (lp : Nat) : Nat :=
  (s.lps.queries.filter (fun q => decide (q.lp = lp) && q.ctx && !q.finished && s.queryLow q)).length

/-- RSV_FRAME as it counts. -/
def State.rsvFrame (s : State) (lp : Nat) : Nat := clampNat 0 1024 (s.rd (LP.RSV_FRAME lp))

/-- The place of a query among those that wait for a context: its request's in the order of dispatch, then the query order; those of
peers, which no request carries, after them (R424; log entry 109). -/
def State.ctxKey (s : State) (q : LpQuery) : Option (List Nat) :=
  match s.req q.rid with
  | some r => if r.phase == .running then some ((b2n r.loan :: r.key) ++ [q.qi]) else none
  | none => if q.rid = peerRid then some [2, q.qi] else none

/-- The next query to be granted a context (R424). -/
def State.nextCtx (s : State) (lp : Nat) : Option LpQuery :=
  (s.lps.queries.foldl (fun (b : Option (LpQuery × List Nat)) q =>
    match s.ctxKey q with
    | some k =>
      if decide (q.lp = lp) && !q.ctx && (!s.queryLow q || decide (s.ctxLow lp + s.rsvFrame lp < 1024)) then
        (match b with
         | none => some (q, k)
         | some (y, m) => if lexLt k m then some (q, k) else some (y, m))
      else b
    | none => b) none).map (·.1)

/-- Free contexts go to waiting queries (R424). -/
def State.grantCtx (lp : Nat) : Nat → State → State
  | 0, s => s
  | n + 1, s =>
    if 1024 ≤ s.ctxBusy lp then s
    else match s.nextCtx lp with
      | none => s
      | some q => State.grantCtx lp n (s.putQuery { q with ctx := true })

/-- CTX_BUSY follows the contexts. -/
def State.syncCtx (lp : Nat) (s : State) : State := s.wr (LP.CTX_BUSY lp) (s.ctxBusy lp)

/-! ### Results (R413, R414, R417, R427) -/

/-- A result entry (Table LP-6). -/
def resultEntry (id code flags : Nat) : List Byte := leBytes 8 id ++ leBytes 4 code ++ leBytes 4 flags

/-- The padding of R417. -/
def padGlobal : Nat := 2 ^ 64 - 1
def infF32 : Nat := 0x7F80_0000

/-- FLAGS of a query's entries. -/
def queryFlags (q : LpQuery) : Nat := b2n q.budget + 2 * b2n q.sat

/-- The entries of a query's result: its first k candidates that are not deleted, then padding. -/
def queryEntries (x : LpIndex) (k : Nat) (q : LpQuery) : List Byte :=
  let best := (q.queue.filter (fun c => !c.deleted)).take k
  best.flatMap (fun c => resultEntry (x.shard * 2 ^ 32 + c.node) c.code (queryFlags q))
    ++ (List.replicate (k - best.length) (resultEntry padGlobal infF32 (queryFlags q))).flatMap (fun b => b)

/-- A query is finished: counted, with its budget stop and its full visited set (R413, R414). -/
def State.queryEnds (q : LpQuery) (s : State) : State :=
  let p := pgLp q.lp
  let s := s.inc64 (LP.QUERY_CNT_LO q.lp) (LP.QUERY_CNT_HI q.lp) 1
  let s := if q.budget then (s.inc (LP.BUDGET_STOP_CNT q.lp)).raiseIrq p 0 else s
  if q.sat then (s.inc (LP.VISIT_SAT_CNT q.lp)).raiseIrq p 2 else s

/-- ENGINE_AUX of a result tile (Table LP-7). -/
def resultAux (k metric : Nat) (budget missing : Bool) (queries first missMask : Nat) : List Byte :=
  leBytes 2 k ++ leBytes 1 metric ++ leBytes 1 (b2n budget + 2 * b2n missing) ++ leBytes 2 queries ++ leBytes 4 first
    ++ leBytes 8 missMask ++ leBytes 2 0

/-- Queries of a result tile. -/
def resultsPerTile (k : Nat) : Nat := atLeast1 (32704 / atLeast1 (16 * k))

/-- Result tiles whose queries have all finished are written in order; with the last one the step is done (R427). -/
def State.writeResults (rid lp : Nat) (x : LpIndex) (k outObj : Nat) (s : State) : State :=
  let qs := s.queriesOf rid
  let per := resultsPerTile k
  match s.req rid with
  | none => s
  | some r =>
    let tiles := chunksOf per (qs.length + 1) qs
    let res : Need × State := (tiles.zipIdx.drop r.done).foldl (fun (a : Need × State) t =>
      match a.1 with
      | .here =>
        if t.1.all (·.finished) then
          (match a.2.putTile rid r.ws (r.outId outObj) t.2 0x00 7 t.1.length (4 * k) (16 * k) 0
              (resultAux k x.metric (t.1.any (·.budget)) false t.1.length (t.2 * per) 0) (t.1.flatMap (queryEntries x k)) with
           | (.here, u) => (.here, u.modReq rid (fun q => { q with done := q.done + 1 }))
           | y => y)
        else (.fetching, a.2)
      | _ => a) (Need.here, s)
    State.needThen rid res (fun u =>
      let u := (u.dropQueries rid).syncCtx lp
      (if qs.any (·.budget) then u.addCause rid 64 else u).stepDone rid)

/-! ### SEARCH (R406, R411, R416) -/

/-- The Loupe of a request works: its page is READY or ACTIVE, and the request is not told to yield (R426). -/
def State.lpWorks (s : State) (r : Req) : Bool :=
  (r.claims 8 || r.claims 9) && (s.bst (pgLp (lpOf r))).up && r.yieldBy.isNone

/-- The queries of a SEARCH step are set up, once, with its query tiles in place. -/
def State.searchStart (rid lp index : Nat) (r : Req) (x : LpIndex) (inObj : Nat) (s : State) : State :=
  if (s.queriesOf rid).isEmpty && decide (r.done = 0) then
    s.setLps { s.lps with queries := s.lps.queries
      ++ (s.queryRows r.ws (r.inId inObj) x).zipIdx.map (fun e => newQuery rid lp index e.2 x e.1) }
  else s

/-- A SEARCH step runs as far as it can: `go` runs one query that holds a context. -/
def State.searchStep (rid : Nat) (r : Req) (index k outObj inObj : Nat) (bad : Bool)
    (go : LpIndex → LpQuery → State → WalkAns × LpQuery × State) (s : State) : State :=
  let lp := lpOf r
  if !s.lpWorks r then s
  else
    match s.indexOf lp index with
    | none => s.endReq rid ocTierFailed 1
    | some x =>
      if bad then s.endReq rid ocTierFailed 1
      else
        s.withInputs rid r [inObj] (queryTileOk x) (fun u =>
          let u := u.searchStart rid lp index r x inObj
          let u := (u.grantCtx lp (u.lps.queries.length)).syncCtx lp
          let u := (u.queriesOf rid).foldl (fun (v : State) q0 =>
            match (v.queriesOf rid).find? (fun y => y.qi == q0.qi) with
            | some q => if q.ctx && !q.finished then
                (match go x q v with
                 | (.done, q, w) => (w.putQuery { q with finished := true }).queryEnds q
                 | (.waits, q, w) => w.putQuery q
                 | (.ended, _, w) => w)
              else v
            | none => v) u
          let u := (u.grantCtx lp (u.lps.queries.length)).syncCtx lp
          if (u.req rid).isSome then u.writeResults rid lp x k outObj else u)

/-- An approximate query goes on: it begins with the entry node once its tile is in place, then walks (R412, R413). -/
def State.approxTurn (rid lp l visitMax : Nat) (x : LpIndex) (q : LpQuery) (u : State) : WalkAns × LpQuery × State :=
  if q.started then u.walk rid lp x l visitMax (visitMax + 1) q
  else match u.walkTiles rid lp [(x.ws, x.nodeObj, x.entry / x.perTile)] with
    | (.here, v) => (match v.lpInject lp rid with
      | (true, v) => (.ended, q, v)
      | (false, v) =>
        let a := v.walkStart lp x q
        (a.2.letGo rid x.ws x.nodeObj [x.entry / x.perTile]).walk rid lp x l visitMax (visitMax + 1) a.1)
    | (.fetching, v) => (.waits, q, v)
    | (.ends oc c, v) => (.ended, q, v.endReq rid oc c)

/-- SEARCH_APPROXIMATE (R412 to R417). -/
def execSearchApproximate (rid : Nat) (s : State) : Host.Outcome State Fault Refusal :=
  .next (
    match s.running rid with
    | some (r, .search false index k l visitMax _ inObj outObj) =>
      s.searchStep rid r index k outObj inObj
        (decide (k = 0) || decide (256 < k) || decide (l < k) || decide (1024 < l) || decide (visitMax = 0))
        (State.approxTurn rid (lpOf r) l visitMax)
    | _ => s)

/-- The scan of a list of an index. -/
def State.scanOf (s : State) (lp index : Nat) (x : LpIndex) (list : Nat) : Option ListScan :=
  s.lps.scans.find? (fun c => decide (c.lp = lp) && decide (c.index = index) && decide (c.x = x) && decide (c.list = list))

/-- The state with a scan replaced. -/
def State.putScan (c : ListScan) (s : State) : State :=
  s.setLps { s.lps with scans := s.lps.scans.map (fun y =>
    if y.lp = c.lp ∧ y.index = c.index ∧ y.x = c.x ∧ y.list = c.list then c else y) }

/-- BATCH_WINDOW and BATCH_MAX as they count. -/
def State.batchMax (s : State) (lp : Nat) : Nat :=
  let n := s.rd (LP.BATCH_MAX lp)
  if 1 ≤ n ∧ n ≤ 1024 then n else 256

/-- A waiting batch of a list becomes a running scan BATCH_WINDOW ticks after it opened, or with BATCH_MAX queries in it (R419). -/
def State.startScan (lp index list : Nat) (s : State) : State :=
  s.setLps { s.lps with scans := s.lps.scans.map (fun c =>
    if c.lp = lp ∧ c.index = index ∧ c.list = list ∧ (c.opened + atLeast1 (s.rd (LP.BATCH_WINDOW lp)) ≤ s.tick
        ∨ s.batchMax lp ≤ (s.inScan c).length) then { c with running := true } else c) }

/-- Batches are opened for the lists that a query needs and no scan holds; a full one starts at once (R419). -/
def State.openScans (lp index : Nat) (x : LpIndex) (q : LpQuery) (s : State) : State :=
  q.needs.foldl (fun (u : State) e =>
    (if (u.scanOf lp index x e.1).isSome then u
     else u.setLps { u.lps with scans := u.lps.scans ++ [{
       lp := lp, index := index, x := x, list := e.1, opened := u.tick, running := false, pos := 0 }] }).startScan lp index e.1) s

/-- K of a query: of its request's step, or of its peer's search. -/
def State.queryK (s : State) (q : LpQuery) : Nat :=
  if q.rid = peerRid then ((s.lps.peers.find? (fun p => decide (p.qi = q.qi))).map (·.k)).getD 1
  else match s.req q.rid with
    | some r => (match r.steps.head? with
      | some (.search _ _ k _ _ _ _ _) => k
      | _ => 1)
    | none => 1

/-- The queries of peers among some are given up: their searches end. -/
def State.dropPeerQs (qs : List LpQuery) (s : State) : State :=
  s.setLps { s.lps with queries := s.lps.queries.filter (fun q => !(decide (q.rid = peerRid) && qs.any (fun y =>
    decide (y.rid = peerRid) && decide (y.qi = q.qi)))) }

/-- A tile of a scan is needed for all the queries that lack it, and in place for all is read, once for all of them; an uncorrectable word
ends each of their requests (R419, R420, R438). The answer is whether it has been read. -/
def State.scanTile (lp : Nat) (x : LpIndex) (tile : Nat) (lack : List LpQuery) (s : State) : Bool × State :=
  let rids := (lack.map (·.rid)).eraseDups
  let got : Bool × State := rids.foldl (fun (a : Bool × State) r => match a.2.needTile r x.ws x.nodeObj tile with
    | (.here, u) => (a.1, u)
    | (.fetching, u) => (false, u)
    | (.ends oc c, u) => (a.1, if r = peerRid then u.dropPeerQs lack else u.endReq r oc c)) (true, s)
  if !got.1 then got
  else
    let u := rids.foldl (fun (t : State) r => t.started r) got.2
    match u.tileAddr x.ws x.nodeObj tile with
    | none => (true, u)
    | some a =>
      let w := match rids.findSome? u.req with
        | some r => r.ws
        | none => 0x7F
      match (u.readTo ((homeQuad (pgLp lp)).getD 0) a tileSize).eccRead 0x01 a w with
      | (some rep, u) => (true, (rids.foldl (fun (t : State) r => t.endFor (some rep) r ocFaultDetected 0) u).dropPeerQs lack)
      | (none, u) => match u.lpEcc lp rids with
        | (true, u) => (true, u.dropPeerQs lack)
        | (false, u) => (true, u)

/-- A query, if it is still there, sees a tile of a scan, unless an injected error of its lane ends it. -/
def State.seeScan (lp : Nat) (x : LpIndex) (list tile : Nat) (q : LpQuery) (s : State) : State :=
  match (s.queriesOf q.rid).find? (fun y => y.qi == q.qi) with
  | none => s
  | some y => if !s.queryRuns y then s else match s.lpLane lp q.rid with
    | (true, u) => u.dropPeerQs [y]
    | (false, u) => let a := u.seeTile lp x (u.queryK y) list tile y
      a.2.putQuery a.1

/-- A running scan reads one tile after another, each once for all its queries, until no query of the request needs it or a
tile is not in place; each is let go once all have seen it (R419 to R421). -/
def State.scanLoop (rid lp index : Nat) (x : LpIndex) (list : Nat) : Nat → State → State
  | 0, s => s
  | n + 1, s =>
    match s.scanOf lp index x list with
    | none => s
    | some c =>
      let qs := s.inScan c
      if !c.running || !(qs.any (fun q => q.rid == rid)) then s
      else
        let tiles := x.listTiles list
        let tile := tiles.getD (c.pos % atLeast1 tiles.length) 0
        let lack := qs.filter (fun q => q.needs.any (fun e => decide (e.1 = list) && !e.2.contains tile))
        let next := fun (u : State) => u.putScan { c with pos := (c.pos + 1) % atLeast1 tiles.length }
        if lack.isEmpty then State.scanLoop rid lp index x list n (next s)
        else match s.scanTile lp x tile lack with
          | (false, u) => u
          | (true, u) =>
            let u := lack.foldl (fun (v : State) q => v.seeScan lp x list tile q) u
            State.scanLoop rid lp index x list n (next (((lack.map (·.rid)).eraseDups).foldl (fun (v : State) r =>
              v.letGo r x.ws x.nodeObj [tile]) u))

/-- An exact query goes on: it begins once the centroids it compares have come and opens or joins its lists' scans; those
that run go on; it ends when it needs no list any more (R418 to R420). -/
def State.exactTurn (rid lp index probe : Nat) (x : LpIndex) (q : LpQuery) (u : State) : WalkAns × LpQuery × State :=
  match (if q.started then (.done, q, u) else u.exactStart rid lp x probe q) with
  | (.done, q, v) =>
    let v := (v.putQuery q).openScans lp index x q
    let w := q.needs.foldl (fun (w : State) e => w.scanLoop rid lp index x e.1 (2 * (x.listTiles e.1).length + 1)) v
    (match (w.queriesOf rid).find? (fun y => y.qi == q.qi) with
     | none => (.ended, q, w)
     | some y => if y.needs.isEmpty then (.done, y, w.stopScans) else (.waits, y, w))
  | a => a

/-- SEARCH_EXACT (R418 to R422): queries begin and open or join scans; the running scans of their lists go on. -/
def execSearchExact (rid : Nat) (s : State) : Host.Outcome State Fault Refusal :=
  .next (
    match s.running rid with
    | some (r, .search true index k _ _ probe inObj outObj) =>
      s.searchStep rid r index k outObj inObj (decide (k = 0) || decide (256 < k)) (State.exactTurn rid (lpOf r) index probe)
    | _ => s)

/-- LIST_SCAN_START (R419). -/
def execListScanStart (lp index list : Nat) (s : State) : Host.Outcome State Fault Refusal := .next (s.startScan lp index list)

/-! ### MERGE (R430 to R434) -/

/-- The input objects of a MERGE step. -/
def mergeIns (r : Req) (n inObj : Nat) : List Nat := (List.range n).map (r.inId inObj + ·)

/-- One input of a merge: in place, on its way, or failed by the cell fabric. -/
inductive InputAns where
  | here | coming | failed
deriving DecidableEq, Repr

/-- An input's tiles are needed; an input in a peer's window that is gone has failed (R432). The first end that is no such
failure ends the request. -/
def State.inputState (rid : Nat) (r : Req) (j id : Nat) (s : State) : InputAns × Option (Nat × Nat) × State :=
  if r.failedIns.contains j then (.failed, none, s)
  else
    let peer := match s.homeAddr r.ws id 0 with
      | some a => (match regionOf s.part a with
        | .peer _ => true
        | _ => false)
      | none => false
    match s.useObj rid r.ws id with
    | (.here, u) => (.here, none, u)
    | (.fetching, u) => (.coming, none, u)
    | (.ends oc c, u) => if peer && decide (oc = ocTierFailed) then (.failed, none, u) else (.failed, some (oc, c), u)

/-- Corresponding tiles of the inputs agree in METRIC, K and query range, and their K is at least the step's (R431). -/
def mergeFits (k : Nat) (tiles : List (List TileHdr)) : Bool :=
  match tiles with
  | [] => true
  | t :: rest => t.all (fun h => decide (k ≤ fieldAt h.aux 0 2))
      && rest.all (fun u => decide (u.length = t.length) && (u.zip t).all (fun e =>
        e.1.aux.take 3 == e.2.aux.take 3 && (e.1.aux.drop 4).take 6 == (e.2.aux.drop 4).take 6))

/-- The entries of each query of an input: global ID, distance code, flags. -/
def State.inputEntries (s : State) (w id : Nat) : List (List (Nat × Nat × Nat)) :=
  match s.objOf w id with
  | none => []
  | some o => (List.range o.tiles).flatMap (fun i => match s.freshTile w id i with
      | none => []
      | some b =>
        let h := hdrOf b
        let k := fieldAt h.aux 0 2
        (List.range (fieldAt h.aux 4 2)).map (fun q => (List.range k).map (fun e =>
          let x := ((payloadOf b).drop ((q * k + e) * 16)).take 16
          (fieldAt x 0 8, fieldAt x 8 4, fieldAt x 12 4))))

/-- An entry put in its place in the order of R409, by distance and global ID. -/
def insertEntry (e : Nat × Nat × Nat) : List (Nat × Nat × Nat) → List (Nat × Nat × Nat)
  | [] => [e]
  | x :: r => if f32Key e.2.1 < f32Key x.2.1 ∨ (f32Key e.2.1 = f32Key x.2.1 ∧ e.1 ≤ x.1) then e :: x :: r else x :: insertEntry e r

/-- The first entry of each global ID. -/
def firstOfId : List (Nat × Nat × Nat) → List Nat → List (Nat × Nat × Nat)
  | [], _ => []
  | e :: r, seen => if seen.contains e.1 then firstOfId r seen else e :: firstOfId r (e.1 :: seen)

/-- The merged entries of one query: padding ignored, each global ID once with its least distance, the first k (R430). -/
def mergeQuery (k : Nat) (ins : List (List (Nat × Nat × Nat))) : List Byte :=
  let all := ins.flatMap (fun l => l.filter (fun e => e.1 != padGlobal))
  let best := (firstOfId (all.foldr insertEntry []) []).take k
  let fl := ins.foldl (fun n l => Nat.lor n (l.headD (0, 0, 0)).2.2) 0
  best.flatMap (fun e => resultEntry e.1 e.2.1 fl)
    ++ (List.replicate (k - best.length) (resultEntry padGlobal infF32 fl)).flatMap (fun b => b)

/-- The merge of the inputs present is written; `missing` are the others (R430, R432). -/
def State.mergeWrite (rid : Nat) (r : Req) (k outObj : Nat) (present missing : List (Nat × Nat)) (s : State) : State :=
  let hdrs := present.map (fun e => s.objHdrs r.ws e.2)
  if !mergeFits k hdrs || decide (k = 0) || decide (256 < k) then s.endReq rid ocTierFailed 0
  else
    let metric := fieldAt ((hdrs.headD []).headD default).aux 2 1
    let first := fieldAt ((hdrs.headD []).headD default).aux 6 4
    let ins := present.map (fun e => s.inputEntries r.ws e.2)
    let n := (ins.headD []).length
    let per := resultsPerTile k
    let mask := missing.foldl (fun m e => m + 2 ^ e.1) 0
    let rows := (List.range n).map (fun q => ins.map (fun i => i.getD q []))
    let res : Need × State := ((chunksOf per (n + 1) rows).zipIdx.drop r.done).foldl (fun (a : Need × State) t =>
      match a.1 with
      | .here =>
        let budget := t.1.any (fun q => q.any (fun l => (l.headD (0, 0, 0)).2.2 % 2 == 1))
        (match a.2.putTile rid r.ws (r.outId outObj) t.2 0x00 7 t.1.length (4 * k) (16 * k) 0
            (resultAux k metric budget (!missing.isEmpty) t.1.length (first + t.2 * per) mask) (t.1.flatMap (mergeQuery k)) with
         | (.here, u) => (.here, u.modReq rid (fun q => { q with done := q.done + 1 }))
         | y => y)
      | _ => a) (Need.here, s)
    State.needThen rid res (fun u => (if missing.isEmpty then u else u.addCause rid 128).stepDone rid)

/-- Inputs of a MERGE step are missing (R432): counted; under STRICT, or with none present, the request ends. -/
def State.mergeMissing (rid : Nat) (r : Req) (partialOk : Bool) (k outObj : Nat) (present missing : List (Nat × Nat)) (failed : Bool)
    (s : State) : State :=
  let lp := lpOf r
  let s := if missing.isEmpty || r.flushing then s
    else (((s.leaveFetches rid).incBy (LP.SHARD_MISS_CNT lp) missing.length).raiseIrq (pgLp lp) 1).modReq rid (fun q => {
      q with
      flushing := true
      failedIns := missing.map (·.1) })
  if missing.isEmpty || (partialOk && !present.isEmpty) then s.mergeWrite rid r k outObj present missing
  else s.endReq rid (if failed then ocTierFailed else ocTierLate) 0

/-- A MERGE step looks at its inputs: with each in place or failed it ends; from its SHARD_LATE-th tick on, one not in place is
missing (R432). -/
def State.mergeStep (rid : Nat) (r : Req) (partialOk : Bool) (k late nIn inObj outObj : Nat) (s : State) : State :=
  if nIn = 0 ∨ 64 < nIn then s.endReq rid ocTierFailed 1
  else
    let a := (mergeIns r nIn inObj).zipIdx.foldl (fun (b : List (Nat × Nat × InputAns) × Option (Nat × Nat) × State) e =>
      match b.2.1 with
      | some _ => b
      | none =>
        let (ans, stop, u) := b.2.2.inputState rid r e.2 e.1
        (b.1 ++ [(e.2, e.1, ans)], stop, u)) ([], none, s)
    match a.2.1 with
    | some (oc, c) => a.2.2.endReq rid oc c
    | none =>
      let u := a.2.2
      let present := (a.1.filter (fun e => e.2.2 == .here)).map (fun e => (e.1, e.2.1))
      let other := (a.1.filter (fun e => e.2.2 != .here)).map (fun e => (e.1, e.2.1))
      let failed := a.1.any (fun e => e.2.2 == .failed)
      if 0 < r.done then u.mergeWrite rid r k outObj present other
      else if decide (r.stepTick + atLeast1 late ≤ u.tick) || !a.1.any (fun e => e.2.2 == .coming) || (failed && !partialOk) then
        u.mergeMissing rid r partialOk k outObj present other failed
      else u

/-- MERGE (R430 to R432). -/
def execMerge (rid : Nat) (s : State) : Host.Outcome State Fault Refusal :=
  .next (
    match s.running rid with
    | some (r, .merge partialOk k late nIn inObj outObj) =>
      if s.lpWorks r then s.mergeStep rid r partialOk k late nIn inObj outObj else s
    | _ => s)

/-- SHARD_LATE_EXPIRY (R432): SHARD_LATE ticks after the step started, inputs not in place are missing. -/
def execShardLateExpiry (rid : Nat) (s : State) : Host.Outcome State Fault Refusal :=
  .next (
    match s.running rid with
    | some (r, .merge partialOk k late nIn inObj outObj) =>
      if s.lpWorks r && decide (r.stepTick + atLeast1 late ≤ s.tick) then s.mergeStep rid r partialOk k late nIn inObj outObj else s
    | _ => s)

/-! ### Searches of peers (R433, R435) -/

/-- The answer to a peer's search goes to its slot, if the peer is still there (R435); the search is over, and its context free. -/
def State.answerSearch (p : PeerSearch) (result : Option (List Byte)) (s : State) : State :=
  let s := s.inc (if result.isNone then LP.PEER_REFUSED_CNT p.lp else LP.PEER_SERVED_CNT p.lp)
  let s := s.setLps { s.lps with
    queries := s.lps.queries.filter (fun q => !(decide (q.rid = peerRid) && decide (q.qi = p.qi)))
    peers := s.lps.peers.filter (fun e => !decide (e.qi = p.qi)) }
  let s := s.stopScans.syncCtx p.lp
  if (mapFind s.fab.peers p.slot).isSome then
    s.emit (.peerSearch p.slot p.lp p.index result.isNone (result.getD []))
  else s

/-- The query of a peer's search. -/
def State.peerQuery (s : State) (p : PeerSearch) : Option LpQuery := (s.queriesOf peerRid).find? (fun q => q.qi == p.qi)

/-- The lane-cycles of a peer's query so far are charged to PEER_WS, in thousandths of a unit-tick (R425, R433). -/
def State.chargePeer (p : PeerSearch) (lanes : Nat) (s : State) : State :=
  let now := ceilDiv (1000 * lanes) 25600
  (s.setLps { s.lps with peers := s.lps.peers.map (fun e => if e.qi = p.qi then { e with charged := now } else e) }).charge
    (s.rd (LP.PEER_WS p.lp)) (8 + p.lp) (now - p.charged)

/-- One turn of a peer's search: once it has a context, and while the Loupe's clock runs, it goes on as a request's query does; it ends
with its answer, or waits. A Loupe that has stopped answers as refused (R125, R424, R433, R435, R438). -/
def State.servePeer (p : PeerSearch) (s : State) : State :=
  let lp := p.lp
  let stopped := match s.bst (pgLp lp) with
    | .off => true
    | .fenced => true
    | .faulted => true
    | _ => false
  if stopped then s.answerSearch p none
  else if !s.clockOn (pgLp lp) then s
  else
    let s := (s.grantCtx lp s.lps.queries.length).syncCtx lp
    match s.peerQuery p with
    | none => s.answerSearch p none
    | some q =>
      if !q.ctx then s
      else
        let a := if p.exact then s.exactTurn peerRid lp p.index p.probe p.x q else s.approxTurn peerRid lp p.l p.visitMax p.x q
        let u := a.2.2.chargePeer p a.2.1.lanes
        match a.1 with
        | .done => (u.queryEnds a.2.1).answerSearch p (some (queryEntries p.x p.k a.2.1))
        | .ended => u.answerSearch p none
        | .waits => u.putQuery a.2.1

/-- The searches of peers go on, in the order they came. -/
def State.servePeers (s : State) : State := s.lps.peers.foldl (fun (u : State) p => u.servePeer p) s

/-- Tiles that the work of peers used are held no longer once none of it is left. -/
def State.peersRest (s : State) : State :=
  if s.fab.held.isEmpty && s.fab.batches.isEmpty && s.lps.peers.isEmpty && !s.rows.flips.any (fun f => f.rid.isNone) then
    ((((s.rows.tabs.map (·.2.ws)) ++ (s.lps.idx.map (·.2.ws))).eraseDups.foldl (fun (u : State) w => u.dropUnused peerRid w) s).releaseHolds
      peerRid).trimPools
  else s

/-- PEER_SEARCH (R126, R433): it leaves DOZE; run on an active index with PEER_SERVE = 1; else answered as refused. -/
def execPeerSearch (lp slot index k l visitMax : Nat) (exact : Bool) (probe : Nat) (query : List Nat) (s : State) :
    Host.Outcome State Fault Refusal :=
  .next (
    if !(decide (lp < 2) && s.fabUp && (mapFind s.fab.peers slot).isSome) then s
    else
      let s := s.leaveDoze
      let refuse := (s.inc (LP.PEER_REFUSED_CNT lp)).emit (.peerSearch slot lp index true [])
      let bad := decide (k = 0) || decide (256 < k) || (!exact && (decide (l < k) || decide (1024 < l) || decide (visitMax = 0)))
      match s.indexOf lp index with
      | none => refuse
      | some x =>
        if !x.peerServe || bad || decide (query.length ≠ x.dims) || !(s.bst (pgLp lp)).live then refuse
        else
          let qi := (s.lps.peers.map (·.qi + 1)).foldl max 0
          let p : PeerSearch := {
            slot := slot, lp := lp, index := index, qi := qi, x := x, k := k, l := l, visitMax := visitMax, exact := exact, probe := probe
            charged := 0 }
          (s.setLps { s.lps with
            queries := s.lps.queries ++ [newQuery peerRid lp index qi x query]
            peers := s.lps.peers ++ [p] }).servePeer p)

/-- In DEEP every index becomes inactive (R437). -/
def State.indexesLost (s : State) : State :=
  s.lps.idx.foldl (fun (u : State) e => u.dropIndex (e.1 / 64) (e.1 % 64)) s

end Sys2Proof.Machine
end

