-- ==== Sys2Proof/Machine/Ise.lean ====
section
/-! DEFINITION. ISE: the matrix and its product, the preconditioners, the conjugate-gradient iteration with its rechecks, and
the solve report (R440 to R470). -/

namespace Sys2Proof.Machine

/-! ### Vectors (R447) -/

/-- An FP64 sum of the products of two FP32 vectors, in ascending order. -/
def dot64 (a b : List Nat) : Nat :=
  (a.zip b).foldl (fun n e => f64Add n (f64Mul (f32to64 e.1) (f32to64 e.2))) 0

/-- A Euclidean norm in FP64. -/
def norm64 (a : List Nat) : Nat := f64Sqrt (dot64 a a)

/-- How a part of a solve ends: with its result, or with an outcome and CAUSE of Table ISE-4. -/
abbrev Part? (α : Type) := Except (Nat × Nat) α

/-- A vector stored in FP32; an element that is not finite then ends the solve (Table ISE-4, 0x04). -/
def storeVec (l : List Nat) : Part? (List Nat) :=
  let v := l.map f64to32
  if v.any (fun c => (f32v c).nonfinite) then .error (ocNumericNan, 4) else .ok v

/-- A scalar that is not finite ends the solve (Table ISE-4, 0x04). -/
def finite64 (c : Nat) : Part? Nat := if (f64v c).nonfinite then .error (ocNumericNan, 4) else .ok c

/-- x + a·y, element by element. -/
def axpy (x : List Nat) (a : Nat) (y : List Nat) : Part? (List Nat) :=
  storeVec ((x.zip y).map (fun e => f64Add (f32to64 e.1) (f64Mul a (f32to64 e.2))))

/-! ### The matrix (R442) -/

/-- The lower triangle, row by row: column and FP32 code of each entry, the diagonal last. -/
abbrev LowerTri := List (List (Nat × Nat))

/-- The lower triangle of a pattern and its values. -/
def lowerOf : List (List Nat) → List Nat → LowerTri
  | [], _ => []
  | cs :: r, vs => cs.zip vs :: lowerOf r (vs.drop cs.length)

/-- Row i with its mirrored entries, columns ascending. -/
def fullRow (a : LowerTri) (i : Nat) : List (Nat × Nat) :=
  a.getD i [] ++ ((a.zipIdx.drop (i + 1)).filterMap (fun e => (e.1.find? (fun c => c.1 == i)).map (fun c => (e.2, c.2))))

/-- The FP64 sum of a row times a vector. -/
def rowDot (row : List (Nat × Nat)) (x : List Nat) : Nat :=
  row.foldl (fun n e => f64Add n (f64Mul (f32to64 e.2) (f32to64 (x.getD e.1 0)))) 0

/-- A·x in FP64. -/
def matVec (a : LowerTri) (x : List Nat) : List Nat := (List.range a.length).map (fun i => rowDot (fullRow a i) x)

/-- The true residual b − A·x, stored. -/
def residualOf (a : LowerTri) (b x : List Nat) : Part? (List Nat) :=
  storeVec ((b.zip (matVec a x)).map (fun e => f64Sub (f32to64 e.1) e.2))

/-- The diagonal entry of a row. -/
def diagOf (row : List (Nat × Nat)) : Nat := (row.getLast?.getD (0, 0)).2

/-! ### Preconditioners (Tables ISE-3 and ISE-4, R455 to R459) -/

def f64One : Nat := 0x3FF0_0000_0000_0000
/-- A number of FP64 codes greater than 0. -/
def pos64 (c : Nat) : Bool := fpLt (.fin false 0 0) (f64v c)

/-- Jacobi: the reciprocals of the diagonal, in FP32. -/
def buildJacobi (a : LowerTri) : Part? (List (List Nat)) :=
  let d := a.map (fun r => f32to64 (diagOf r))
  let q := d.map (fun c => f64to32 (f64Div f64One c))
  if d.all pos64 && !q.any (fun c => (f32v c).nonfinite) then .ok [q] else .error (ocNumericNan, 3)

/-- A square block of the matrix in FP64: its lower triangle, row by row. -/
def blockOf (a : LowerTri) (start n : Nat) : List (List Nat) :=
  (List.range n).map (fun i => (List.range (i + 1)).map (fun j =>
    match (a.getD (start + i) []).find? (fun c => c.1 == start + j) with
    | some c => f32to64 c.2
    | none => 0))

/-- Sum of products of two FP64 lists, in ascending order. -/
def dotF64 (x y : List Nat) : Nat := (x.zip y).foldl (fun n e => f64Add n (f64Mul e.1 e.2)) 0

/-- One row of an FP64 Cholesky factor from the rows above; none where the pivot is not positive. -/
def cholRow (ls : List (List Nat)) (row : List Nat) : Option (List Nat) :=
  let off := (row.dropLast.zipIdx).foldl (fun (acc : List Nat) e =>
    let lj := ls.getD e.2 []
    acc ++ [f64Div (f64Sub e.1 (dotF64 acc (lj.take e.2))) (lj.getLast?.getD 0)]) []
  let d := f64Sub (row.getLast?.getD 0) (dotF64 off off)
  if pos64 d then some (off ++ [f64Sqrt d]) else none

/-- The rows of an FP64 Cholesky factor. -/
def cholesky (rows : List (List Nat)) : Option (List (List Nat)) :=
  rows.foldl (fun (q : Option (List (List Nat))) r => match q with
    | none => none
    | some ls => (cholRow ls r).map (fun x => ls ++ [x])) (some [])

/-- The rows of the inverse of a lower-triangular factor. -/
def invertLower (ls : List (List Nat)) : List (List Nat) :=
  ls.foldl (fun (g : List (List Nat)) l =>
    let i := g.length
    let dii := l.getLast?.getD 0
    let off := (List.range i).map (fun j =>
      let col := (List.range i).map (fun k => (g.getD k []).getD j 0)
      f64Div (f64c (fpNeg (f64v (dotF64 ((l.take i).drop j) (col.drop j))))) dii)
    g ++ [off ++ [f64Div f64One dii]]) []

/-- Block-Jacobi: the inverse factor of each diagonal block, in FP32, one list of lower rows to a block. -/
def buildBlock (a : LowerTri) (b : Nat) : Part? (List (List Nat)) :=
  let n := a.length
  (List.range (ceilDiv n b)).foldl (fun (q : Part? (List (List Nat))) k =>
    match q with
    | .error e => .error e
    | .ok acc =>
      let m := if n - k * b < b then n - k * b else b
      match cholesky (blockOf a (k * b) m) with
      | none => .error (ocNumericNan, 3)
      | some ls =>
        let g := (invertLower ls).flatMap (fun r => r.map f64to32)
        if g.any (fun c => (f32v c).nonfinite) then .error (ocNumericNan, 3) else .ok (acc ++ [g])) (.ok [])

/-- A failed IC(0) build: the row, and its CAUSE. -/
structure PivotFail where
  row : Nat
  cause : Nat
deriving DecidableEq, Repr, Inhabited

/-- One row of IC(0) from the rows above and their inverse pivots (R455): its entries and its inverse pivot in FP32, or the CAUSE.
The diagonal entry is taken times `scale` (R456). -/
def icRow (ls : LowerTri) (inv : List Nat) (scale : Nat) (row : List (Nat × Nat)) : Except Nat (List (Nat × Nat) × Nat) :=
  let off := row.dropLast.foldl (fun (acc : List (Nat × Nat)) (e : Nat × Nat) =>
    let s := ((ls.getD e.1 []).dropLast).foldl (fun n c => match acc.find? (fun x => x.1 == c.1) with
      | some x => f64Add n (f64Mul (f32to64 x.2) (f32to64 c.2))
      | none => n) 0
    acc ++ [(e.1, f64to32 (f64Mul (f64Sub (f32to64 e.2) s) (f32to64 (inv.getD e.1 0))))]) []
  let sq := dot64 (off.map (·.2)) (off.map (·.2))
  let d := f64Sub (f64Mul (f32to64 (diagOf row)) scale) sq
  if !pos64 d then .error 1
  else
    let root := f64Sqrt d
    let iv := f64Div f64One root
    if fpLt (fpDecode f32 f32.maxCode) (f64v iv) then .error 2
    else .ok (off ++ [((row.getLast?.getD (0, 0)).1, f64to32 root)], f64to32 iv)

/-- An IC(0) build with the diagonal scaled: the factor's rows and the inverse pivots. -/
def buildIc (a : LowerTri) (scale : Nat) : Except PivotFail (LowerTri × List Nat) :=
  a.foldl (fun (q : Except PivotFail (LowerTri × List Nat)) row => match q with
    | .error f => .error f
    | .ok (ls, inv) => match icRow ls inv scale row with
      | .error c => .error ⟨ls.length, c⟩
      | .ok (r, iv) => .ok (ls ++ [r], inv ++ [iv])) (.ok ([], []))

/-- The diagonal's factor at retry k; retry 0 is the build itself (R456). -/
def shiftScale (e0 step k : Nat) : Nat :=
  if k = 0 then f64One else f64Add f64One (f64c (.fin false 1 (((k - 1) * step : Nat) - (e0 : Int))))

/-- What an IC(0) build with its retries leaves: the factor or the last failure, retries made, and the row of the last failed
attempt. -/
structure IcAns where
  factor : Option (LowerTri × List Nat)
  cause : Nat
  shifts : Nat
  row : Nat
deriving DecidableEq, Repr, Inhabited

/-- Builds from retry k on, at most `left` more retries (R456, R457). -/
def icTries (a : LowerTri) (e0 step : Nat) : Nat → Nat → Nat → IcAns
  | left, k, row =>
    match buildIc a (shiftScale e0 step k) with
    | .ok f => ⟨some f, 0, k, row⟩
    | .error p =>
      match left with
      | 0 => ⟨none, p.cause, k, p.row⟩
      | n + 1 =>
        if pos64 (f32to64 (diagOf (a.getD p.row []))) then icTries a e0 step n (k + 1) p.row
        else ⟨none, 1, k, p.row⟩

/-- The entries of a factor as codes, row by row, with the inverse pivots last: what the build stores. -/
def packIc (f : LowerTri × List Nat) : List (List Nat) := f.1.map (fun r => r.map (·.2)) ++ [f.2]

/-- Forward and backward solve with an IC(0) factor (R447, Table ISE-3). -/
def applyIc (pattern : List (List Nat)) (pre : List (List Nat)) (r : List Nat) : List Nat :=
  let inv := pre.getLast?.getD []
  let ls := (pattern.zip pre).map (fun e => e.1.zip e.2)
  let y := (ls.zip r).foldl (fun (y : List Nat) e =>
    let i := y.length
    y ++ [f64to32 (f64Mul (f64Sub (f32to64 e.2) (rowDot e.1.dropLast y)) (f32to64 (inv.getD i 0)))]) []
  ((List.range ls.length).reverse).foldl (fun (z : List Nat) i =>
    let up := (fullRow ls i).drop ((ls.getD i []).length)
    let s := up.foldl (fun n e => f64Add n (f64Mul (f32to64 e.2) (f32to64 (z.getD (e.1 - i - 1) 0)))) 0
    f64to32 (f64Mul (f64Sub (f32to64 (y.getD i 0)) s) (f32to64 (inv.getD i 0))) :: z) []

/-- Rows of a lower triangle stored as one list. -/
def lowerRows : Nat → Nat → List Nat → List (List Nat)
  | 0, _, _ => []
  | n + 1, i, l => l.take (i + 1) :: lowerRows n (i + 1) (l.drop (i + 1))

/-- One block's Gᵀ·(G·r), the inner product stored (log entry 33). -/
def applyBlock (g : List Nat) (r : List Nat) : List Nat :=
  let rows := lowerRows r.length 0 g
  let w := rows.map (fun x => f64to32 (dot64 x r))
  (List.range r.length).map (fun i =>
    f64to32 (dot64 ((rows.drop i).map (fun x => x.getD i 0)) (w.drop i)))

/-- z = M⁻¹·r (Table ISE-3); an element that is not finite ends the solve. -/
def applyPre (c : IseSchedule) (pre : List (List Nat)) (r : List Nat) : Part? (List Nat) :=
  let z :=
    if c.prec = 1 then (r.zip (pre.headD [])).map (fun e => f64to32 (f64Mul (f32to64 e.1) (f32to64 e.2)))
    else if c.prec = 2 then ((chunksOf c.block r.length r).zip pre).flatMap (fun e => applyBlock e.2 e.1)
    else if c.prec = 3 then applyIc c.pattern pre r
    else r
  if z.any (fun x => (f32v x).nonfinite) then .error (ocNumericNan, 4) else .ok z

/-! ### Costs (Table ISE-5) -/

/-- Cycles of a product, an apply, an iteration. -/
def cycProduct (c : IseSchedule) : Nat := ceilDiv c.nnz 64
def cycApply (c : IseSchedule) : Nat :=
  if c.prec = 1 then ceilDiv c.n 64 else if c.prec = 2 then ceilDiv (c.n * c.block) 64
  else if c.prec = 3 then 2 * ceilDiv c.nnzL 64 + 64 * (c.levelsF + c.levelsB) else 0
def cycIteration (c : IseSchedule) : Nat := cycProduct c + cycApply c + ceilDiv (6 * c.n) 64 + 1000

/-! ### A solve's request (R442, R444) -/

/-- Elements of a full tile. -/
def elemsPerTile : Nat := 8176

/-- What a RUN names for a solve (Table ISE-2), with the schedule's defaults taken. -/
structure SolveArgs where
  rhs : Nat
  maxIter : Nat
  warm : Bool
  tol : Nat
  reserved : Bool
deriving DecidableEq, Repr, Inhabited

def solveArgs (c : IseSchedule) (r : Req) : SolveArgs :=
  let it := fieldAt r.args 8 2
  let fl := fieldAt r.args 10 1
  let tol := fieldAt r.args 12 4
  { rhs := fieldAt r.args 0 8, maxIter := if it = 0 then c.maxIter else it, warm := bit fl 0,
    tol := if tol = 0 then c.tol else tol, reserved := decide (2 ≤ fl) || decide (fieldAt r.args 11 1 ≠ 0) }

/-- A tolerance is finite and between 0 and 1, both excluded. -/
def tolOk (c : Nat) : Bool := fpLt (.fin false 0 0) (f32v c) && fpLt (f32v c) (f32v f32One)

/-- An object is there with tiles for n elements. -/
def State.objHolds (s : State) (w id n : Nat) : Bool :=
  match s.objOf w id with
  | none => false
  | some o => decide (n ≤ o.tiles * elemsPerTile)

/-- The tiles of an object that hold its first n elements are FP32 and long enough. -/
def State.objIsF32 (s : State) (w id n : Nat) : Bool :=
  (List.range (ceilDiv n elemsPerTile)).all (fun i => match s.tileBytesOf w id i with
    | none => false
    | some l =>
      let h := hdrOf l
      let k := if n - i * elemsPerTile < elemsPerTile then n - i * elemsPerTile else elemsPerTile
      decide (h.tag = tileTag) && decide (h.format = 0) && decide (4 * k ≤ h.len))

/-- An object that is only written has no tile of another format: its tiles' headers are read where they lie (log entry 99). -/
def State.outIsF32 (e w id n : Nat) (s : State) : Bool × State :=
  (List.range (ceilDiv n elemsPerTile)).foldl (fun (a : Bool × State) i =>
    match a.2.moverRead (pgIse e) w id i with
    | (none, t) => (a.1, t)
    | (some l, t) => let h := hdrOf l
      (a.1 && (decide (h.tag ≠ tileTag) || decide (h.format = 0)), t)) (true, s)

/-- The first n FP32 codes of an object. -/
def State.f32sOf (s : State) (w id n : Nat) : List Nat :=
  ((List.range (ceilDiv n elemsPerTile)).flatMap (fun i => match s.tileBytesOf w id i with
    | none => List.replicate elemsPerTile 0
    | some l => unpackBits 32 elemsPerTile (payloadOf l))).take n

/-- The input tiles of a solve with their versions. -/
def State.inputVers (s : State) (w : Nat) (ids : List Nat) : List (Nat × Nat × Nat) :=
  ids.flatMap (fun id => match s.objOf w id with
    | none => []
    | some o => (List.range o.tiles).map (fun i => (id, i, s.tileVersion w id i)))

/-- Tiles of the working set in T1, and of a factor in T2 (R461). -/
def workTiles (c : IseSchedule) : Nat × Nat :=
  let v := ceilDiv c.n elemsPerTile
  let f := if c.prec = 1 then v
    else if c.prec = 2 then ceilDiv (c.n * (c.block + 1)) (2 * elemsPerTile)
    else if c.prec = 3 then ceilDiv (c.nnzL + c.n) elemsPerTile else 0
  if c.prec = 3 ∧ c.factorTier = 2 then (5 * v, f) else (5 * v + f, 0)

/-- The working set of a solve is held, or the code that R252 selects. -/
def State.workingSet (rid w : Nat) (c : IseSchedule) (s : State) : Need × State :=
  let t := workTiles c
  match s.takeScratch rid w 1 (t.1 - s.scratchOf rid 1) with
  | (.here, u) => u.takeScratch rid w 2 (t.2 - u.scratchOf rid 2)
  | a => a

/-! ### The state of a solve -/

/-- The solve of a request. -/
def State.iseOf (s : State) (rid : Nat) : Option IseRun := s.ises.find? (fun k => k.rid == rid)

/-- The state with a solve's record replaced. -/
def State.putIse (k : IseRun) (s : State) : State :=
  { s with ises := s.ises.map (fun x => if x.rid = k.rid then k else x) }

/-- The ISE of a request. -/
def iseUnit (r : Req) : Nat := if r.claims 12 then 0 else 1

/-- A solve stops, or fails with an outcome of Table ISE-4: counted and signalled; its outputs are written next (R454). -/
def State.solveStops (k : IseRun) (stop outcome cause : Nat) (s : State) : State :=
  let p := pgIse k.ise
  let s := s.putIse { k with stop := some (stop, outcome, cause) }
  if stop = 0 then s.inc (ISE.CONV_CNT k.ise)
  else if stop = 1 then (s.inc (ISE.CAP_CNT k.ise)).raiseIrq p 0
  else if stop = 3 then s.raiseIrq p 1
  else if stop = 4 then s.raiseIrq p 2 else s

/-- A solve fails: STOP is 3 for NUMERIC_NAN and 4 for ZERO_PIVOT. -/
def State.solveFails (k : IseRun) (e : Nat × Nat) (s : State) : State :=
  s.solveStops k (if e.1 = ocZeroPivot then 4 else 3) e.1 e.2

/-- The solve report (Table ISE-6). -/
def solveReport (k : IseRun) (stop tag : Nat) : List Byte :=
  leBytes 2 k.i ++ leBytes 1 stop ++ leBytes 1 k.shifts ++ leBytes 4 (if 3 ≤ stop then f32.nanCode else f64to32 k.resid)
    ++ leBytes 2 (satBits 16 k.restarts) ++ leBytes 4 k.pivotRow ++ leBytes 4 k.seq ++ leBytes 2 tag

/-- The tiles of x in the order they are written: tile 0, with the report, last (R463, R464). -/
def xOrder (n : Nat) : List Nat := (List.range (ceilDiv n elemsPerTile)).drop 1 ++ [0]

/-- The outputs of a stopped solve are written; then the step is done, or the request ends (R452, R454, R463). -/
def State.writeSolution (rid : Nat) (r : Req) (c : IseSchedule) (k : IseRun) (stop outcome cause : Nat) (s : State) : State :=
  let x := if 3 ≤ stop then List.replicate c.n f32.nanCode else k.x
  let res : Need × State := ((xOrder c.n).drop r.done).foldl (fun (a : Need × State) i =>
    match a.1 with
    | .here =>
      let l := (x.drop (i * elemsPerTile)).take elemsPerTile
      (match a.2.putTile rid r.ws r.objB i 0x00 0 1 l.length (4 * l.length) 0
          (if i = 0 then solveReport k stop r.tag else []) (packBits 32 l) with
       | (.here, u) => (.here, u.modReq rid (fun q => { q with done := q.done + 1 }))
       | y => y)
    | _ => a) (Need.here, s)
  State.needThen rid res (fun u =>
    let u := u.wr (ISE.LAST_STATUS_STOP k.ise) stop
    if 3 ≤ stop then u.endReq rid outcome cause else (u.dropQueries rid).stepDone rid)

/-! ### Reading the inputs (R443, R468) -/

/-- An injected error of the next value read (Table ISE-7): true where the request has ended. -/
def State.iseInject (rid e : Nat) (s : State) : Bool × State :=
  let (v, s) := s.takeInj (ISE.INJ_ECC e)
  if v = 0 then (false, s) else if v = 1 then (false, s.corrected (pgIse e))
  else (true, s.detectC1 0x01 (pgIse e) 0xFFFF rid)

/-- The tiles that a solve holds as its working set are read once a turn, and those of its vectors, the first of them in T1, are written; an
uncorrectable word ends the request (R277, R461, R468; DESIGN CHOICE, log entry 116). The answer is whether it has ended. -/
def State.readWorking (rid w e vecs : Nat) (s : State) : Bool × State :=
  let q := (homeQuad (pgIse e)).getD 0
  let l := mapKeys (fun _ x => decide (x.obj = noObj) && x.pin.isNone && x.holders == [rid] && x.waiter.isNone) s.ck.slots
  let t1 := (l.filter (fun a => inCasket a 1)).take vecs
  l.foldl (fun (a : Bool × State) x =>
    if a.1 then a
    else match (a.2.readTo q x tileSize).eccRead 0x01 x w with
      | (some rep, u) => (true, u.endFor (some rep) rid ocFaultDetected 0)
      | (none, u) => (false, if t1.contains x then (u.countWrite x tileSize).crossed q (quadOf x) tileSize else u)) (false, s)

/-- The inputs of a solve under way are in place with the versions they were first read with (R443); then it goes on. -/
def State.withValues (rid : Nat) (r : Req) (ids : List Nat) (k : IseRun) (go : State → State) (s : State) : State :=
  State.needThen rid (s.needObjs rid r.ws ids) (fun u =>
    if u.inputVers r.ws ids ≠ k.vers then (u.inc (ISE.INPUT_CHANGED_CNT k.ise)).endReq rid ocTierFailed 0
    else match u.iseInject rid k.ise with
      | (true, v) => v
      | (false, v) => match v.readWorking rid r.ws k.ise (5 * ceilDiv k.x.length elemsPerTile) with
        | (true, z) => z
        | (false, z) => go z)

/-! ### Setup (R446, R451, R455) -/

/-- A solve whose inputs are read and whose preconditioner is stored: r, z, p and ρ. -/
def startVectors (c : IseSchedule) (a : LowerTri) (b : List Nat) (k : IseRun) : Part? IseRun :=
  match residualOf a b k.x with
  | .error e => .error e
  | .ok r => match applyPre c k.pre r with
    | .error e => .error e
    | .ok z => match finite64 (dot64 r z) with
      | .error e => .error e
      | .ok rho => .ok { k with r := r, z := z, p := z, rho := rho, nr := norm64 r, cycles := 0 }

/-- The preconditioner is built; IC(0) with its retries and what they leave in the registers (R455 to R457). -/
def State.buildPre (c : IseSchedule) (a : LowerTri) (k : IseRun) (s : State) : Part? (List (List Nat)) × IseRun × State :=
  if c.prec = 1 then (buildJacobi a, k, s)
  else if c.prec = 2 then (buildBlock a c.block, k, s)
  else if c.prec = 3 then
    (let m := if s.on (ISE.SHIFT_CTRL_EN k.ise) then clampNat 0 8 (s.rd (ISE.SHIFT_CTRL_SHIFT_MAX k.ise)) else 0
     let q := icTries a (s.rd (ISE.SHIFT_CTRL_SHIFT_E0 k.ise)) (s.rd (ISE.SHIFT_CTRL_SHIFT_STEP k.ise)) m 0 0xFFFF_FFFF
     let s := s.incBy (ISE.SHIFT_CNT k.ise) q.shifts
     let s := if q.row = 0xFFFF_FFFF then s else s.wr (ISE.LAST_PIVOT_ROW k.ise) q.row
     let k := { k with shifts := q.shifts, pivotRow := q.row }
     match q.factor with
     | some f => (.ok (packIc f), k, s)
     | none => (.error (ocZeroPivot, q.cause), k, s))
  else (.ok [], k, s)

/-- The inputs of a solve that has been counted are read and it is set up (R446). -/
def State.setup (rid : Nat) (r : Req) (c : IseSchedule) (q : SolveArgs) (k : IseRun) (s : State) : State :=
  let b := s.f32sOf r.ws q.rhs c.n
  let bad := fun (l : List Nat) => l.any (fun x => (f32v x).nonfinite)
  if bad b || bad k.x then s.solveFails k (ocNumericNan, 1)
  else
    let nb := norm64 b
    if nb = 0 then s.solveStops { k with x := List.replicate c.n 0, nb := 0, resid := 0 } 2 ocDone 0
    else
      match s.iseInject rid k.ise with
      | (true, s) => s
      | (false, s) =>
        let vals := s.f32sOf r.ws r.objA c.nnzL
        if bad vals then s.solveFails k (ocNumericNan, 1)
        else
          let a := lowerOf c.pattern vals
          let (pre, k, s) := s.buildPre c a { k with nb := nb }
          match pre with
          | .error e => s.solveFails k e
          | .ok pre =>
            match startVectors c a b { k with pre := pre } with
            | .error e => s.solveFails k e
            | .ok k => s.putIse k

/-- A solve step begins: its checks (R444), its working set (R461), its inputs, its number (log entry 33). -/
def State.beginSolve (rid : Nat) (r : Req) (c : IseSchedule) (s : State) : State :=
  let q := solveArgs c r
  let e := iseUnit r
  let ins := [q.rhs, r.objA, c.patternObj] ++ (if q.warm then [r.objB] else [])
  if !tolOk q.tol || q.reserved || !s.objHolds r.ws r.objA c.nnzL || !s.objHolds r.ws q.rhs c.n
      || !s.objHolds r.ws r.objB c.n || (s.objOf r.ws c.patternObj).isNone then s.endReq rid ocTierFailed 1
  else
    let (fits, s) := s.outIsF32 e r.ws r.objB c.n
    if !fits then s.endReq rid ocTierFailed 1
    else State.needThen rid (s.workingSet rid r.ws c) (fun t =>
      let misfit := fun (v : State) =>
        if v.objIsF32 r.ws r.objA c.nnzL && v.objIsF32 r.ws q.rhs c.n && (!q.warm || v.objIsF32 r.ws r.objB c.n) then none else some 1
      t.withObjs rid r.ws ins misfit (fun v =>
          let v := v.inc64 (ISE.SOLVE_CNT_LO e) (ISE.SOLVE_CNT_HI e) 1
          let k : IseRun := {
            ise := e, rid := rid, tol := q.tol, maxIter := q.maxIter
            x := if q.warm then v.f32sOf r.ws r.objB c.n else List.replicate c.n 0
            r := [], z := [], p := [], rho := 0, nb := 0, nr := 0, i := 0, restarts := 0, shifts := 0, pivotRow := 0xFFFF_FFFF
            seq := v.rd (ISE.SOLVE_CNT_LO e), resid := 0, cycles := 0, due := false, vers := v.inputVers r.ws ins, pre := []
            stop := none }
          let v : State := { v with ises := v.ises ++ [k] }
          v.setup rid r c q k))

/-! ### Rechecks and iterations (R446, R448, R449, R453) -/

/-- ‖r‖ ≤ tol·‖b‖, in FP64. -/
def meetsTol (k : IseRun) (n : Nat) : Bool := fpLe (f64v n) (f64v (f64Mul (f32to64 k.tol) k.nb))

/-- RECHECK_BITS and RECHECK_TICKS as they count. -/
def State.recheckBits (s : State) (e : Nat) : Nat := clampNat 4 20 (s.rd (ISE.RECHECK_BITS e))
def State.recheckTicks (s : State) (e : Nat) : Nat :=
  if s.rd (ISE.RECHECK_TICKS e) < 100 then 100 else s.rd (ISE.RECHECK_TICKS e)

/-- How a recheck ends: the request has ended; the solve fails; or the true residual and its norm, and whether the gap is too
large. -/
inductive RecheckAns where
  | ended | fails (e : Nat × Nat) | done (rt : List Nat) (n : Nat) (big : Bool)
deriving DecidableEq, Repr

/-- A recheck (R448). The two products of a gap too large agree unless INJ_RECHECK spoils the first, in which case the request
ends with FAULT_DETECTED. -/
def State.recheck (rid : Nat) (a : LowerTri) (b : List Nat) (k : IseRun) (s : State) : RecheckAns × State :=
  let s := s.inc (ISE.RECHECK_CNT k.ise)
  if s.on (ISE.INJ_RECHECK_EN k.ise) then
    (.ended, (((s.wr (ISE.INJ_RECHECK_EN k.ise) 0).inc (ISE.RECHECK_FAULT_CNT k.ise)).raiseIrq (pgIse k.ise) 3).detectC1 0x0D
      (pgIse k.ise) 0xFFFF rid)
  else
    match residualOf a b k.x with
    | .error e => (.fails e, s)
    | .ok rt =>
      let d := (rt.zip k.r).map (fun e => f64Sub (f32to64 e.1) (f32to64 e.2))
      let gap := f64Div (f64Sqrt (dotF64 d d)) k.nb
      (.done rt (norm64 rt) (!fpLe (f64v gap) (.fin false 1 (-(s.recheckBits k.ise : Int)))), s)

/-- RESIDUAL of a recheck, and the cycles from its end. -/
def IseRun.rechecked (k : IseRun) (n : Nat) : IseRun := { k with resid := f64Div n k.nb, cycles := 0, due := false }

/-- A restart (R446): r, z, p and ρ from the true residual. -/
def State.restart (c : IseSchedule) (k : IseRun) (rt : List Nat) (s : State) : State :=
  match applyPre c k.pre rt with
  | .error e => s.solveFails k e
  | .ok z => match finite64 (dot64 rt z) with
    | .error e => s.solveFails k e
    | .ok rho => (s.putIse { k with r := rt, z := z, p := z, rho := rho, nr := norm64 rt, restarts := k.restarts + 1 }).inc
        (ISE.RESTART_CNT k.ise)

/-- ρ' of an iteration ends it: negative, or zero with r not zero (Table ISE-4, 0x02). -/
def rhoBad (rho : Nat) (r : List Nat) : Bool :=
  fpLt (f64v rho) (.fin false 0 0)
    || (fpLe (f64v rho) (.fin false 0 0) && fpLe (.fin false 0 0) (f64v rho) && r.any (fun c => c % 2 ^ 31 != 0))

/-- One turn of the loop of R446 from q = A·p to ρ = ρ'. -/
def iterate (c : IseSchedule) (a : LowerTri) (k : IseRun) : Except ((Nat × Nat) × Bool) IseRun :=
  let early := fun (e : Nat × Nat) => (e, false)
  let late := fun (e : Nat × Nat) => (e, true)
  match storeVec (matVec a k.p) with
  | .error e => .error (early e)
  | .ok q =>
    let sigma := dot64 k.p q
    if fpLe (f64v sigma) (.fin false 0 0) then .error ((ocNumericNan, 2), false)
    else match finite64 sigma, finite64 (f64Div k.rho sigma) with
      | .error e, _ => .error (early e)
      | _, .error e => .error (early e)
      | .ok _, .ok alpha =>
        match axpy k.x alpha k.p, axpy k.r (f64c (fpNeg (f64v alpha))) q with
        | .error e, _ => .error (early e)
        | _, .error e => .error (early e)
        | .ok x, .ok r =>
          match applyPre c k.pre r with
          | .error e => .error (late e)
          | .ok z =>
            let rho := dot64 r z
            if rhoBad rho r then .error ((ocNumericNan, 2), true)
            else match finite64 rho, finite64 (f64Div rho k.rho) with
              | .error e, _ => .error (late e)
              | _, .error e => .error (late e)
              | .ok _, .ok beta => match axpy z beta k.p with
                | .error e => .error (late e)
                | .ok p => .ok { k with
                    x := x
                    r := r
                    z := z
                    p := p
                    rho := rho
                    nr := norm64 r
                    i := k.i + 1
                    cycles := k.cycles + cycIteration c }

/-- A recheck is due after an iteration (R449, R453). -/
def State.recheckDue (s : State) (k : IseRun) : Bool :=
  decide (s.recheckTicks k.ise * 2000 ≤ k.cycles) && !(s.on (ISE.RECHECK_DIS k.ise) && !s.sentinel)

/-- A turn of a solve with its inputs in place: the recheck of R449, the test at the loop's head, or an iteration. -/
def State.solveTurn (rid : Nat) (r : Req) (c : IseSchedule) (k : IseRun) (s : State) : State :=
  let q := solveArgs c r
  let a := lowerOf c.pattern (s.f32sOf r.ws r.objA c.nnzL)
  let b := s.f32sOf r.ws q.rhs c.n
  let head := meetsTol k k.nr || decide (k.i = k.maxIter)
  if k.due || head then
    match s.recheck rid a b k with
    | (.ended, s) => s
    | (.fails e, s) => s.solveFails k e
    | (.done rt n big, s) =>
      let k' := k.rechecked n
      if k.due then (if big then s.restart c k' rt else s.putIse k')
      else if meetsTol k' n then s.solveStops k' 0 ocDone 0
      else if k.i = k.maxIter then s.solveStops k' 1 ocDone 0
      else s.restart c k' rt
  else
    match iterate c a k with
    | .error (e, counted) =>
      let s := if counted then s.inc (ISE.ITER_CNT k.ise) else s
      s.solveFails { k with i := k.i + b2n counted } e
    | .ok k =>
      let s := s.inc (ISE.ITER_CNT k.ise)
      s.putIse { k with due := s.recheckDue k }

/-- The inputs a solve reads. -/
def solveIns (c : IseSchedule) (r : Req) : List Nat :=
  let q := solveArgs c r
  [q.rhs, r.objA, c.patternObj] ++ (if q.warm then [r.objB] else [])

/-- A solve goes on by one turn, or writes what it stopped with. -/
def State.solveOn (rid : Nat) (r : Req) (c : IseSchedule) (k : IseRun) (s : State) : State :=
  let wrapUp := fun (u : State) => match u.iseOf rid, u.req rid with
    | some k, some r => (match k.stop with
      | some (st, oc, cause) => u.writeSolution rid r c k st oc cause
      | none => u)
    | _, _ => u
  match k.stop with
  | some (st, oc, cause) => s.writeSolution rid r c k st oc cause
  | none => s.withValues rid r (solveIns c r) k (fun u => wrapUp (u.solveTurn rid r c k))

/-- The schedule a running solve step works by, on an ISE that works and with no yield decided (R462). -/
def State.solving (s : State) (rid : Nat) : Option (Req × IseSchedule) :=
  match s.running rid with
  | some (r, .solve) =>
    (match r.slot with
     | some p => (match p.plan.ise with
       | some c => if (r.claims 12 || r.claims 13) && (s.bst (pgIse (iseUnit r))).up && r.yieldBy.isNone then some (r, c) else none
       | none => none)
     | none => none)
  | _ => none

/-- SOLVE (R442 to R466): a solve begins, makes one turn of its loop, or writes its outputs. -/
def execSolve (rid : Nat) (s : State) : Host.Outcome State Fault Refusal :=
  .next (
    match s.solving rid with
    | none => s
    | some (r, c) =>
      match s.iseOf rid with
      | some k => s.solveOn rid r c k
      | none =>
        let s := s.beginSolve rid r c
        match s.iseOf rid, s.req rid with
        | some k, some r => (match k.stop with
          | some (st, oc, cause) => s.writeSolution rid r c k st oc cause
          | none => s)
        | _, _ => s)

/-- RECHECK_DUE (R449): the recheck that an iteration of the ISE's solve left due is made. -/
def execRecheckDue (ise : Nat) (s : State) : Host.Outcome State Fault Refusal :=
  .next (
    match s.ises.find? (fun k => decide (k.ise = ise) && k.due && k.stop.isNone) with
    | none => s
    | some k =>
      match s.solving k.rid with
      | some (r, c) => s.solveOn k.rid r c k
      | none => s)

end Sys2Proof.Machine
end

