-- ==== Sys2Proof/Machine/Time.lean ====
section
/-! DEFINITION. Cell time as the engines see it: its advance within a tick, instants, the active domain, seconds and
nanoseconds (R505, R506, R525 to R531, R539). -/

namespace Sys2Proof.Machine

/-- The state with Hallmark's record replaced. -/
def State.setHm (h : Hm) (s : State) : State := { s with hm := h }

/-- One nanosecond and one second in units of 2^-32 ns. -/
def nsUnit : Int := 2 ^ 32
def secUnit : Int := 10 ^ 9 * 2 ^ 32

/-- A domain after reset. -/
def domReset : Dom :=
  { time := 0, rate := 0, good := 0, bad := 0, lastSync := 0, logInt := none, delay := 0, sync := none, waitSync := none,
    dreq := none, preq := none, presp := none, gm := none, seq := 0, sent := [], cfgNext := [] }

/-- A domain; 0 is the primary and 1 the secondary. -/
def State.dom (s : State) (d : Nat) : Dom := mapGet (fun _ => domReset) s.hm.doms d

/-- The state with a domain replaced. -/
def State.setDom (d : Nat) (x : Dom) (s : State) : State :=
  s.setHm { s.hm with doms := mapSet (fun _ => domReset) s.hm.doms d x }

/-- Domain states (Table HM-6). -/
def dsDisabled : Nat := 0
def dsAcquiring : Nat := 1
def dsLocked : Nat := 2
def dsHoldover : Nat := 3
def dsLost : Nat := 4
def dsMaster : Nat := 5

/-- The state of a domain. -/
def State.domState (s : State) (d : Nat) : Nat := s.rd (HM_DOM.DOM_STAT_STATE d)

/-- A domain is LOCKED or MASTER. -/
def State.domGood (s : State) (d : Nat) : Bool := decide (s.domState d = dsLocked) || decide (s.domState d = dsMaster)

/-- The active domain. -/
def State.activeDom (s : State) : Nat := s.rd HM.CELL_STAT_ACTIVE

/-- PLL 2 runs the timing core: HM is ACTIVE and clocked (Table HM-8). -/
def State.hmRuns (s : State) : Bool :=
  (s.bst 0x080 == .active) && (s.awake || (decide (s.pm = 1) && s.on (HDR.BLK_CTRL_CLK_REQ 0x080)))
    && !s.on HM.CELL_STAT_COARSE

/-- 50 ppm of a tick, in 2^-32 ns (R528). -/
def slewStep : Int := 214748364

/-- What cell time lacks to the active domain's time. -/
def State.cellOffset (s : State) : Int := (s.dom s.activeDom).time - s.hm.cell

/-- The advance of cell time over this tick (R506, R528). -/
def State.cellStep (s : State) : Int :=
  1000 * (nsUnit + s.hm.rate)
    + (if s.on HM.CELL_STAT_SLEWING then clampInt (-slewStep) slewStep s.cellOffset else 0)

/-- Cell time n ns after the start of this tick; in the keeper it shows steps of 125 ns (R539). -/
def State.cellAt (s : State) (n : Nat) : Int :=
  s.hm.cell + s.cellStep * (((if s.on HM.CELL_STAT_COARSE then n / 125 * 125 else n) : Nat) : Int) / 1000

/-- Seconds, nanoseconds and 2^-16 ns of a time in 2^-32 ns (Table HM-1). -/
def secOf (t : Int) : Nat := (t / secUnit).toNat
def nsOf (t : Int) : Nat := (t % secUnit / nsUnit).toNat
def subnsOf (t : Int) : Nat := (t % nsUnit / 65536).toNat

/-- The time of seconds, nanoseconds and 2^-16 ns. -/
def timeOf (sec ns subns : Nat) : Int := (sec : Int) * secUnit + (ns : Int) * nsUnit + (subns : Int) * 65536

/-- The stamp of an edge n ns after the start of this tick on a line, as the routine computes it when it serves the entry at
once (R513). -/
def State.edgeStamp (s : State) (line n : Nat) : Int :=
  s.cellAt n - 6 * nsUnit - toSigned 16 (s.rd (HM.LINE_DELAY line)) * (nsUnit / 16)

end Sys2Proof.Machine
end

