-- ==== Sys2Proof/Machine/Filigree.lean ====
section
/-! DEFINITION. Filigree: the channel path from modulator bits or samples to records, commits and their limits, settling,
calibration and offline filtering (R471 to R504). -/

namespace Sys2Proof.Machine

/-! ### Channels and their settings (R472, R482, Table FIL-10) -/

/-- The state with Filigree's record replaced. -/
def State.setFil (f : Fil) (s : State) : State := { s with fil := f }

/-- A channel before its first configuration (R490). -/
def chanReset : FilChan :=
  { cfg := [], next := none, integ := [0, 0, 0, 0, 0], combs := [0, 0, 0, 0, 0], phase := 0, raw := [], ranked := [], fir := [],
    n := 0, num := 0, edges := [], grid := none, anchor := 0, taken := 0, lastAt := 0, fresh := true, queue := [], evFlags := 0,
    halted := 0, clkOff := false, wrote := false }

/-- A channel, and the state with a channel replaced. -/
def State.chan (s : State) (k : Nat) : FilChan := mapGet (fun _ => chanReset) s.fil.chans k
def State.setChan (k : Nat) (c : FilChan) (s : State) : State :=
  s.setFil { s.fil with chans := mapSet (fun _ => chanReset) s.fil.chans k c }

/-- Settings as CFG_A to CFG_D hold them. -/
abbrev FilCfg := List Nat

def cfgEn (c : FilCfg) : Bool := bit (c.getD 0 0) 0
def cfgRankEn (c : FilCfg) : Bool := bit (c.getD 0 0) 1
/-- W of a two-bit code. -/
def rankWidth (code : Nat) : Nat := 3 + 2 * code
def cfgW (c : FilCfg) : Nat := rankWidth (bitsOf (c.getD 0 0) 3 2)
def cfgR (c : FilCfg) : Nat := bitsOf (c.getD 0 0) 7 4
def cfgRom (c : FilCfg) : Nat := bitsOf (c.getD 0 0) 12 8
def cfgOrder (c : FilCfg) : Nat := bitsOf (c.getD 0 0) 18 16
def cfgDLog (c : FilCfg) : Nat := bitsOf (c.getD 0 0) 23 20
def cfgD (c : FilCfg) : Nat := 2 ^ cfgDLog c
def cfgRange (c : FilCfg) : Nat := bitsOf (c.getD 0 0) 25 24
def cfgShift (c : FilCfg) (i : Nat) : Nat := bitsOf (c.getD 1 0) (4 * i + 3) (4 * i)
def cfgPort (c : FilCfg) : Nat := bitsOf (c.getD 1 0) 25 24
def cfgCs (c : FilCfg) : Nat := bitsOf (c.getD 1 0) 27 26
def cfgMode (c : FilCfg) : Nat := bitsOf (c.getD 2 0) 1 0
def cfgFsync (c : FilCfg) : Nat := bitsOf (c.getD 2 0) 3 2
def cfgRate (c : FilCfg) : Nat := bitsOf (c.getD 2 0) 31 8
def cfgSpi (c : FilCfg) : Nat := bitsOf (c.getD 3 0) 23 0

/-- The staged settings of a channel. -/
def State.staged (s : State) (k : Nat) : FilCfg :=
  (List.range 4).map (fun i => (s.word 0x079 (0x100 + 16 * k + 4 * i)).toNat)

/-- Channels 0 to 15 take bitstreams. -/
def isSdm (k : Nat) : Bool := decide (k < 16)

/-- A modulator frequency held to its bounds (R605). -/
def sdmBound (f : Nat) : Nat := clampNat 1000000 25000000 f

/-- f_M of an SDM input (R603). -/
def State.sdmFreq (s : State) (n : Nat) : Nat :=
  let sel := s.rd (SDM.IN_CFG_SEL n)
  if sel = 0 then 0 else if sel = 3 then sdmBound (s.rd (SDM.EXP_FREQ n)) else sdmBound (s.rd (SDM.CLK_CFG_FREQ (sel - 1)))

/-- Taps of a ROM response (Table FIL-5). -/
def romTaps (code : Nat) : Nat :=
  ([1, 15, 23, 31, 47, 63, 15, 23, 31, 47, 63, 15, 23, 31, 47, 63, 127, 95, 63, 63, 47, 31, 23, 15, 127, 63, 31, 15, 127, 95,
    47, 23] : List Nat).getD code 1

/-- S of R488: FIR outputs that are unsettled after an event. -/
def settleLen (k : Nat) (c : FilCfg) : Nat :=
  (if isSdm k then cfgOrder c else 0) + (if cfgRankEn c then cfgW c - 1 else 0) + (romTaps (cfgRom c) - 1)

/-- The settings in force of an FSYNC output. -/
def State.fsOf (s : State) (f : Nat) : FsOut := mapGet (fun _ => ⟨0, 0, 0, 0⟩) s.hm.fs f

/-- The period of an FSYNC output in ns; 0 while it is off (R536). -/
def State.fsPeriodNs (s : State) (f : Nat) : Nat :=
  let o := s.fsOf f
  if o.mode = 1 then 1000 * o.period else if o.mode = 2 then o.period else 0

/-- The first limit of Table FIL-3 that settings break; 0 when they break none. -/
def State.commitReason (s : State) (k : Nat) (c : FilCfg) : Nat :=
  let fM := s.sdmFreq k
  let (num, den) := if isSdm k then (fM, cfgD c) else (cfgSpi c, 1)
  let mode := cfgMode c
  let p := s.fsPeriodNs (cfgFsync c)
  if (isSdm k && (decide (cfgOrder c < 3) || decide (5 < cfgOrder c) || decide (cfgDLog c < 2) || decide (9 < cfgDLog c)))
      || decide (cfgW c ≤ cfgR c) || decide (mode = 3) || (decide (mode ≠ 0) && decide (cfgRate c = 0))
      || (!isSdm k && decide (cfgSpi c = 0)) then 1
  else if 640 < romTaps (cfgRom c) * ceilDiv num (den * 1000000) then 2
  else if (if mode = 0 then decide (1000000 * den < num)
      else if mode = 2 then decide (num < cfgRate c * den) || decide (1000000 < cfgRate c)
      else decide (p ≠ 0) && (decide (num * p < cfgRate c * 1000000000 * den) || decide (p < 1000 * cfgRate c))) then 3
  else if decide (mode ≠ 0) && (!(s.bst 0x080).up || (decide (mode = 1) && decide (p = 0))) then 4
  else if isSdm k && (decide (fM = 0) || decide (25000000 < fM)) then 5
  else 0

/-! ### The path (R472, R476 to R478) -/

/-- v wrapped to n bits. -/
def wrapInt (n : Nat) (v : Int) : Int := toSigned n (ofSigned n v)

/-- A value saturated to signed 24 bits, and whether it was. -/
def sat24 (v : Int) : Int × Bool :=
  let w := clampInt (-8388608) 8388607 v
  (w, decide (w ≠ v))

/-- The integrators after one bit: each adds the one before it, in 48 bits. -/
def integrate (b : Bool) (l : List Nat) : List Nat :=
  (l.foldl (fun (a : List Nat × Nat) x =>
    let y := (x + a.2) % 2 ^ 48
    (a.1 ++ [y], y)) ([], if b then 1 else 2 ^ 48 - 1)).1

/-- An arithmetic shift right with rounding (R476). -/
def roundShift (n : Nat) (v : Int) : Int := if n = 0 then v else (v + 2 ^ (n - 1)) / (2 ^ n : Nat)

/-- The combs of the stages in use, each with its shift: the CIC output and the new delays. -/
def combStages (c : FilCfg) (y : Int) (delays : List Int) : Int × List Int :=
  (delays.zipIdx).foldl (fun (a : Int × List Int) d =>
    if d.2 < cfgOrder c then (roundShift (cfgShift c d.2) (wrapInt 48 (a.1 - d.1)), a.2 ++ [a.1]) else (a.1, a.2 ++ [d.1])) (y, [])

/-- The element of rank r of a list. -/
def rankOf (r : Nat) (l : List Int) : Int :=
  (l.foldr (fun v (acc : List Int) => acc.filter (fun x => decide (x ≤ v)) ++ v :: acc.filter (fun x => !decide (x ≤ v))) []).getD r 0

/-- A list of samples, latest first, filled with zeros to n (R496). -/
def latest (n : Nat) (l : List (Int × Bool)) : List (Int × Bool) := (l ++ List.replicate n (0, false)).take n

/-- The rank filter over samples, latest first (R477). -/
def rankStage (en : Bool) (w r : Nat) (raw : List (Int × Bool)) : Int × Bool :=
  if en then
    (let l := latest w raw
     (rankOf r (l.map (·.1)), l.any (·.2)))
  else raw.headD (0, false)

/-- The FIR over samples, latest first (R478): a 48-bit accumulator, scaled and saturated to signed 24 bits. Bypass passes its
sample. Responses are symmetric, so the coefficient of a tap is that of its mirror. -/
def firStage (rom : Nat) (x : List (Int × Bool)) : Int × Bool :=
  let t := romTaps rom
  if rom = 0 then (let v := x.headD (0, false)
                   let y := sat24 v.1
                   (y.1, v.2 || y.2))
  else
    let l := latest t x
    let acc := (l.zipIdx).foldl (fun (n : Int) e =>
      let i := if e.2 < t - 1 - e.2 then e.2 else t - 1 - e.2
      wrapInt 48 (n + (Config.firTap rom i).toInt * e.1.1)) 0
    let y := sat24 (Config.firScale rom (BitVec.ofInt 48 acc))
    (y.1, y.2 || l.any (·.2))

/-- A record due: RAW, SAT, its instant G in 2^-32 ns, SAMPLE_NUM, and whether it is unsettled. -/
structure FilRec where
  raw : Int
  sat : Bool
  at_ : Int
  num : Nat
  unsettled : Bool
deriving DecidableEq, Repr, Inhabited

/-- One sample enters the rank filter and the FIR; in FREE mode its output, at the instant given, is a record (R479). -/
def FilChan.push (k : Nat) (c : FilChan) (v : Int × Bool) (g : Int) : FilChan × List FilRec :=
  let f := c.cfg
  let raw := (v :: c.raw).take 9
  let rk := rankStage (cfgRankEn f) (cfgW f) (cfgR f) raw
  let ranked := (rk :: c.ranked).take 127
  let y := firStage (cfgRom f) ranked
  let c' := { c with raw := raw, ranked := ranked, fir := (y :: c.fir).take 64, n := c.n + 1 }
  if cfgMode f = 0 then
    ({ c' with num := c.num + 1 },
      [{ raw := y.1, sat := y.2, at_ := g, num := c.num, unsettled := decide (c.n < settleLen k f) }])
  else (c', [])

/-- The modulator bits of an SDM channel, in order; `slot` is the instant of the slot, by which the last bit has come. -/
def FilChan.takeBits (k fM : Nat) (slot : Int) : List Bool → FilChan → List FilRec → FilChan × List FilRec
  | [], c, out => (c, out)
  | b :: rest, c, out =>
    let integ := integrate b c.integ
    let c := { c with integ := integ, phase := c.phase + 1 }
    if c.phase < cfgD c.cfg then FilChan.takeBits k fM slot rest c out
    else
      let y := toSigned 48 (integ.getD (cfgOrder c.cfg - 1) 0)
      let (v, combs) := combStages c.cfg y c.combs
      let g := slot - (rest.length : Int) * secUnit / (atLeast1 fM : Nat)
      let (c, r) := FilChan.push k { c with combs := combs, phase := 0 } (sat24 v) g
      FilChan.takeBits k fM slot rest c (out ++ r)

/-- Flags of records (Table FIL-2). -/
def rfValid : Nat := 1
def rfUnsettled : Nat := 2
def rfRange : Nat := 4
def rfSat : Nat := 8
def rfClk : Nat := 16
def rfSlip : Nat := 32
def rfCalDefault : Nat := 64
def rfUnlocked : Nat := 128

/-- A settling event (Table FIL-7): indexes begin anew, and unsettled records carry its flags. -/
def FilChan.event (c : FilChan) (flags : Nat) : FilChan := { c with n := 0, evFlags := flags, fresh := true }

/-- A start or a switch also clears the path's history; a start begins the grid anew (R481, R490). -/
def FilChan.clear (c : FilChan) : FilChan :=
  { c with combs := [0, 0, 0, 0, 0], phase := 0, raw := [], ranked := [], fir := [], grid := none }
def FilChan.startEvent (c : FilChan) : FilChan :=
  let d := (c.event 0).clear
  { d with num := 0, edges := [], wrote := false, halted := 0, clkOff := false, queue := [] }

/-- A timing slip: the sample is discarded and the next one anchors (R474). -/
def FilChan.slip (c : FilChan) : FilChan := c.event rfSlip

/-- The samples of an SPI channel, in order (R473, R474). -/
def FilChan.takeSamples (k : Nat) : List (Int × Int) → FilChan → List FilRec → FilChan × List FilRec
  | [], c, out => (c, out)
  | (v, t) :: rest, c, out =>
    let rate : Int := ((atLeast1 (cfgSpi c.cfg) : Nat) : Int)
    if c.fresh then
      let c := { c with fresh := false, anchor := t, taken := 1, lastAt := t }
      let (c, r) := FilChan.push k c (v, false) t
      FilChan.takeSamples k rest c (out ++ r)
    else
      let due := c.anchor + (c.taken : Int) * secUnit / rate
      let off := (t - due).natAbs
      if decide (secUnit < 4 * rate * (off : Int)) || decide (3 * secUnit < 2 * rate * (t - c.lastAt)) then
        FilChan.takeSamples k rest { c.slip with lastAt := t } out
      else
        let c := { c with taken := c.taken + 1, lastAt := t }
        let (c, r) := FilChan.push k c (v, false) due
        FilChan.takeSamples k rest c (out ++ r)

/-! ### The output grid (R479, R480, R483) -/

/-- The instant of a CELL grid position. -/
def cellInstant (rate : Nat) (g : Nat × Nat) : Int := (g.1 : Int) * secUnit + (g.2 : Int) * secUnit / ((atLeast1 rate : Nat) : Int)

/-- The first CELL grid position at or after an instant. -/
def cellFirst (rate : Nat) (t : Int) : Nat × Nat :=
  let sec := secOf t
  let r := t - (sec : Int) * secUnit
  let i := ((r * (rate : Int) + secUnit - 1) / secUnit).toNat
  if rate ≤ i then (sec + 1, 0) else (sec, i)

/-- The next grid instant of a channel. -/
def FilChan.nextGrid (c : FilChan) : Option Int :=
  if cfgMode c.cfg = 1 then
    (match c.edges with
     | [] => none
     | (e, p, j) :: _ => some (e + (j : Int) * (p : Int) / ((atLeast1 (cfgRate c.cfg) : Nat) : Int)))
  else if cfgMode c.cfg = 2 then c.grid.map (cellInstant (cfgRate c.cfg))
  else none

/-- The grid moves past its next instant. -/
def FilChan.stepGrid (c : FilChan) : FilChan :=
  let m := cfgRate c.cfg
  { c with
    num := c.num + 1,
    edges := (match c.edges with
      | [] => []
      | (e, p, j) :: r => if m ≤ j + 1 then r else (e, p, j + 1) :: r),
    grid := c.grid.map (fun g => if m ≤ g.2 + 1 then (g.1 + 1, 0) else (g.1, g.2 + 1)) }

/-- Grid instants before a time pass without a record; SAMPLE_NUM counts them (R475, R498). -/
def FilChan.skipGrid (t : Int) (c : FilChan) : FilChan :=
  if cfgMode c.cfg = 2 then
    (match c.grid with
     | none => c
     | some g =>
       let h := cellFirst (cfgRate c.cfg) t
       let d := (h.1 * cfgRate c.cfg + h.2) - (g.1 * cfgRate c.cfg + g.2)
       if d = 0 then c else { c with grid := some h, num := c.num + d })
  else if cfgMode c.cfg = 1 then
    c.edges.foldl (fun (a : FilChan) e =>
      let m := cfgRate c.cfg
      let n := (((t - e.1) * ((m : Nat) : Int) + (e.2.1 : Int) - 1) / ((atLeast1 e.2.1 : Nat) : Int)).toNat
      let n := clampNat e.2.2 m n
      { a with
        num := a.num + (n - e.2.2),
        edges := if m ≤ n then a.edges else a.edges ++ [(e.1, e.2.1, n)] }) { c with edges := [] }
  else c

/-- 64 × t of R480 for an instant, in FIR samples since output 0; `ref` is the instant by which an SDM channel's last bit came. -/
def FilChan.pos64 (k fM : Nat) (ref x : Int) (c : FilChan) : Int :=
  if isSdm k then
    64 * ((c.n : Int) - 1)
      + (64 * (c.phase : Int) * secUnit + 64 * (x - ref) * (fM : Int)) / ((cfgD c.cfg : Int) * secUnit)
  else 64 * (x - c.anchor) * (cfgSpi c.cfg : Int) / secUnit

/-- The resampled output at a position (R480). -/
def FilChan.resample (t64 : Int) (c : FilChan) : Int × Bool :=
  let p := (t64 % 64).toNat
  let back := ((c.n : Int) - 1 - t64 / 64).toNat
  let l := (List.range 8).map (fun i => c.fir.getD (back + 7 - i) (0, false))
  let acc := (l.zipIdx).foldl (fun (n : Int) e => wrapInt 48 (n + (Config.resTap p e.2).toInt * e.1.1)) 0
  let y := sat24 (Config.resScale (BitVec.ofInt 48 acc))
  (y.1, y.2 || l.any (·.2))

/-- A record at a position is unsettled (R488): below S + 7, but one whose inputs all precede the event is not affected by it. -/
def FilChan.unsettledAt (k : Nat) (t64 : Int) (c : FilChan) : Bool :=
  decide (t64 < 64 * ((settleLen k c.cfg + 7 : Nat) : Int)) && (decide (0 ≤ t64) || decide (c.fir.length ≤ c.n))

/-- The outputs of the grid whose instants have come and whose FIR outputs exist. -/
def FilChan.gridOut (k fM : Nat) (slot ref : Int) : Nat → FilChan → List FilRec → FilChan × List FilRec
  | 0, c, out => (c, out)
  | fuel + 1, c, out =>
    match c.nextGrid with
    | none => (c, out)
    | some g =>
      let x := g + 40 * (k : Int) * nsUnit
      let t64 := c.pos64 k fM ref x
      if decide (slot < x) || decide ((c.n : Int) - 1 < t64 / 64) || (!isSdm k && c.fresh) then (c, out)
      else
        let y := c.resample t64
        FilChan.gridOut k fM slot ref fuel c.stepGrid (out ++ [{
          raw := y.1, sat := y.2, at_ := g, num := c.num, unsettled := c.unsettledAt k t64 }])

/-! ### Records (R481, R485, R490, R491) -/

/-- Size of the output ring. -/
def State.outSize (s : State) : Nat :=
  let l := s.rd FIL.OUT_CFG_LOG2
  2 ^ (if 6 ≤ l ∧ l ≤ 15 then l else 6)

/-- The 32 bytes of an output record. -/
def filRecord (value raw num k mode flags tick : Nat) (grid : Int) : List Byte :=
  leBytes 4 value ++ leBytes 4 raw ++ leBytes 4 num ++ leBytes 1 k ++ leBytes 1 mode ++ leBytes 2 flags ++ leBytes 8 tick
    ++ leBytes 4 (secOf grid) ++ leBytes 4 (nsOf grid)

/-- Bit 4k + r of SET_VALID. -/
def State.calSet (s : State) (k r : Nat) : Bool := s.bitOn (FIL_CAL.SET_VALID ((4 * k + r) / 32)) ((4 * k + r) % 32)

/-- The base of the ring lies in the Casket, aligned to its size. -/
def State.outBaseOk (s : State) : Bool :=
  let a := s.rd64 FIL.OUT_BASE_LO FIL.OUT_BASE_HI
  let n := 32 * s.outSize
  inCasket a n && decide (a % n = 0)

/-- A record is written to the ring, or dropped and counted (R485); writing is held off while the base is bad (log entry 41). -/
def State.ringRecord (k : Nat) (b : List Byte) (s : State) : State :=
  if !s.on FIL.OUT_CFG_EN || !s.outBaseOk || s.bitOn FIL.OUT_MASK k then s
  else
    let n := s.outSize
    let i := s.rd FIL.OUT_WR_IDX % n
    if (i + 1) % n = s.rd FIL.OUT_RD_IDX % n then ((s.setW1c FIL.OUT_STAT_OVERFLOW 1).inc FIL.OUT_LOST).raiseIrq 0x078 0
    else (s.storeFrom 2 (s.rd64 FIL.OUT_BASE_LO FIL.OUT_BASE_HI + 32 * i) b).wr FIL.OUT_WR_IDX ((i + 1) % n)

/-- A calibration collects a valid, settled record of its channel and range (R492, log entry 34). -/
def State.collect (k range : Nat) (raw : Int) (sat unsettled : Bool) (s : State) : State :=
  match s.fil.cal with
  | none => s
  | some c =>
    let want := let n := s.rd FIL_CAL.CAL_SAMPLES
      if n < 16 then 16 else n
    if decide (c.channel = k) && decide (c.range = range) && !unsettled && decide (c.raws.length < want) then
      s.setFil { s.fil with cal := some { c with raws := c.raws ++ [raw], sat := c.sat || sat } }
    else s

/-- A calibration ends with CAL_ABORTED (R494). -/
def State.calAbort (reason : Nat) (s : State) : State :=
  (((s.setFil { s.fil with cal := none }).wr FIL_CAL.CAL_STAT_RESULT 4).wr FIL_CAL.CAL_STAT_REASON reason).raiseIrq 0x078 2

/-- A calibration of the channel ends for a reason. -/
def State.calStop (k reason : Nat) (s : State) : State :=
  match s.fil.cal with
  | some c => if c.channel = k then s.calAbort reason else s
  | none => s

/-- One output of a channel: its record, its LAST registers and its bit of source 32 (R481, R485, R491). -/
def State.writeRec (k : Nat) (c : FilChan) (ok : Bool) (r : FilRec) (s : State) : State :=
  let range := cfgRange c.cfg
  let raw := if ok then r.raw else 0
  let code := ofSigned 32 raw
  let x := f32c (match fpOfSigned raw with
    | .fin n m e => .fin n m (e - 23)
    | y => y)
  let value := if ok then f32Mul (f32Sub x (s.rd (FIL_CAL.OFFSET k range))) (s.rd (FIL_CAL.GAIN k range)) else 0
  let sat := ok && r.sat
  let flags := (if ok then rfValid else 0) + (if r.unsettled then Nat.lor rfUnsettled c.evFlags else 0) + (if sat then rfSat else 0)
    + (if s.calSet k range then 0 else rfCalDefault) + (if s.on HM.CELL_STAT_LOCKED then 0 else rfUnlocked)
  let grid := r.at_ + 40 * (k : Int) * nsUnit
  let num := r.num % 2 ^ 32
  let s := s.ringRecord k (filRecord value code num k (range + 4 * cfgMode c.cfg) flags s.tick grid)
  let s := ((s.wr (FIL_CH.LAST_VALUE k) value).wr (FIL_CH.LAST_RAW k) code).wr (FIL_CH.LAST_FLAGS k) flags
  let s := ((s.wr (FIL_CH.LAST_RANGE k) range).wr (FIL_CH.LAST_SAMPLE_NUM k) num).fire 32 (2 ^ k)
  let s := if sat then (s.inc FIL.SAT_CNT).raiseIrq 0x078 3 else s
  if s.bitOn FIL.OUT_MASK k then s.calStop k 7
  else if ok then s.collect k range raw sat r.unsettled else s

/-- LAST registers before the first record (R490). -/
def State.clearLast (k : Nat) (s : State) : State :=
  ((((s.wr (FIL_CH.LAST_VALUE k) 0).wr (FIL_CH.LAST_RAW k) 0).wr (FIL_CH.LAST_FLAGS k) 0).wr (FIL_CH.LAST_RANGE k) 0).wr
    (FIL_CH.LAST_SAMPLE_NUM k) 0

/-! ### FIL's state (R497) -/

/-- CHAN_ACTIVE follows the channels, and FIL is ACTIVE while any is enabled or a FILTER step runs, else READY. -/
def State.syncFil (s : State) : State :=
  let m := s.fil.chans.foldl (fun n e => if cfgEn e.2.cfg then n + 2 ^ e.1 else n) 0
  let s := if s.rd FIL.CHAN_ACTIVE = m then s else s.wr FIL.CHAN_ACTIVE m
  match s.bst 0x078 with
  | .ready => if m = 0 then s else s.goto 0x078 .active causeSched
  | .active => s.settle 0x078 (s.pageBusy 0x078)
  | _ => s

/-- Flags of a discontinuity after a clock fault (R475). -/
def clkFlags (c : FilChan) : Nat := if c.clkOff then rfClk else 0

/-! ### Commits (R482, R484, R487) -/

/-- Settings other than RANGE. -/
def cfgRest (c : FilCfg) : FilCfg := c.set 0 (putBits (c.getD 0 0) 25 24 0)

/-- Before a commit that changes the path takes effect, the grid's outputs that need no input later than the previous slot's are made by
the path that was in force (R488); their records carry the range in force as they are written (R481). -/
def State.slotFlush (k : Nat) (new : FilCfg) (s : State) : State :=
  let c := s.chan k
  let slot := s.cellAt (40 * k)
  if cfgEn c.cfg && decide (c.halted = 0) && !c.clkOff && decide (cfgRest new ≠ cfgRest c.cfg) then
    let b := c.gridOut k (s.sdmFreq k) slot (slot - 1000 * nsUnit) 64 []
    let shown := { c with cfg := c.cfg.set 0 (putBits (c.cfg.getD 0 0) 25 24 (cfgRange new)) }
    b.2.foldl (fun (u : State) r => u.writeRec k shown true r) (s.setChan k { b.1 with wrote := b.1.wrote || !b.2.isEmpty })
  else s

/-- The settings of a commit take effect in the channel's slot (Table FIL-7, R494). -/
def State.applyCommit (k : Nat) (new : FilCfg) (s : State) : State :=
  let s := s.slotFlush k new
  let c := s.chan k
  let start := cfgEn new && !cfgEn c.cfg
  let range := decide (cfgRange new ≠ cfgRange c.cfg)
  let other := decide (cfgRest new ≠ cfgRest c.cfg)
  let s := s.calStop k (if range && !other then 6 else 5)
  let d := { c with cfg := new, next := none }
  let d := if start then d.startEvent
    else if other then (d.event (if range then rfRange else 0)).clear
    else if range then d.event rfRange else d
  let s := if start then s.clearLast k else s
  ((s.setChan k d).wr (FIL_CH.CFG_STAT_CONFIGURED k) 1).syncFil

/-- The effect of a write of COMMIT for one channel: refused whole with its first reason, or held for the channel's next slot. Two of one
tick are one commit, with the settings of the later: refused, it leaves nothing held of the earlier (R484). -/
def State.commitOne (k : Nat) (s : State) : State :=
  let new := s.staged k
  let r := s.commitReason k new
  if r ≠ 0 then
    let s := match (s.chan k).next with
      | some (_, t) => if t = s.tick then s.setChan k { s.chan k with next := none } else s
      | none => s
    ((s.setW1c (FIL_CH.CFG_STAT_REFUSED k) 1).wr (FIL_CH.CFG_STAT_REASON k) r).raiseIrq 0x078 1
  else (s.setChan k { s.chan k with next := some (new, s.tick) }).wr (FIL_CH.CFG_STAT_REFUSED k) 0

/-- The effect of a write of COMMIT. -/
def State.commit (mask : Nat) (s : State) : State := (setBitsBelow 24 mask).foldl (fun t k => t.commitOne k) s

/-- COMMIT (R482). -/
def execCommit (rq : Requester) (mask : Nat) (s : State) : Host.Outcome State Fault Refusal :=
  .next (s.access rq 0x079 (State.commit mask))

/-! ### The slot (R471, R474, R475, R491, R498 to R501) -/

/-- Filigree runs: its page is READY or ACTIVE, and its clock is on (R498). -/
def State.filRuns (s : State) : Bool :=
  (s.bst 0x078).up && (s.awake || (decide (s.pm = 1) && s.on (HDR.BLK_CTRL_CLK_REQ 0x078)))

/-- A channel of an engine that does not run: the integrators keep running, no record is written, and it stops (R498, R501). -/
def State.slotStopped (k : Nat) (inBits : List Bool) (s : State) : State :=
  let c := s.chan k
  let c := { c with integ := inBits.foldl (fun l b => integrate b l) c.integ }
  if cfgEn c.cfg then
    (let h := if s.pm = 0 then 2 else if c.halted = 0 then 1 else c.halted
     (s.setChan k { c with halted := h, queue := [] }).calStop k 7)
  else s.setChan k c

/-- A stop of the channel ends: a start, or a discontinuity that grid instants have passed over (Table FIL-7, R498). -/
def State.slotResume (k : Nat) (slot : Int) (s : State) : State :=
  let c := s.chan k
  if c.halted = 2 then (s.setChan k c.startEvent).clearLast k
  else if c.halted = 1 then s.setChan k ((({ c with halted := 0 }).skipGrid slot).event (clkFlags c))
  else s

/-- Whether this slot's results are discarded: an injected uncorrected error of its state, or a mismatch of the paired engine
(R499, R500). -/
def State.slotInject (k : Nat) (s : State) : Bool × State :=
  let (v, s) := s.takeInj FIL.INJ_ECC
  if v = 2 then
    (true, (s.detect 0x01 1 0x078 0xFFFF 0x7F none).2)
  else
    let s := if v = 1 then s.corrected 0x078 else s
    if s.sentinel && s.on FIL.INJ_PAIR_EN && decide (s.rd FIL.INJ_PAIR_CHANNEL = k) then
      let s := ((s.wr FIL.INJ_PAIR_EN 0).inc FIL.PAIR_MISMATCH).raiseIrq 0x078 5
      (true, (s.detect 0x0C 1 0x078 0xFFFF 0x7F none).2)
    else (false, s)

/-- SETTLE_LEFT of a channel. -/
def State.syncSettle (k : Nat) (s : State) : State :=
  let c := s.chan k
  s.wr (FIL_CH.CFG_STAT_SETTLE_LEFT k) (satBits 8 (settleLen k c.cfg - c.n))

/-- The path of an enabled channel in its slot: all input since the previous one, and the outputs due. -/
def State.slotPath (k : Nat) (inBits : List Bool) (slot : Int) (s : State) : State :=
  let c := s.chan k
  let fM := s.sdmFreq k
  let c := if cfgMode c.cfg = 2 ∧ c.grid = none then { c with grid := some (cellFirst (cfgRate c.cfg) (slot - 40 * (k : Int) * nsUnit)) }
    else c
  let a := if isSdm k then FilChan.takeBits k fM slot inBits c [] else FilChan.takeSamples k c.queue { c with queue := [] } []
  let b := a.1.gridOut k fM slot slot 64 a.2
  let (lost, s) := s.slotInject k
  let c := if lost then { b.1.event 0 with wrote := true } else { b.1 with wrote := b.1.wrote || !b.2.isEmpty }
  let s := b.2.foldl (fun (u : State) r => u.writeRec k b.1 (!lost) r) (s.setChan k c)
  s.syncSettle k

/-- An SDM channel under CLK_FAULT takes no bits and writes no record, which ends a calibration of it (R475, R494). -/
def State.slotNoClock (k : Nat) (slot : Int) (s : State) : State :=
  let c := s.chan k
  let s := if c.clkOff then s else s.raiseIrq 0x078 4
  (s.setChan k ({ c with clkOff := true }.skipGrid slot)).calStop k 7

/-- CHANNEL_SLOT (R471): slot k of a tick, 40k ns after its start; `bits` are the modulator bits of an SDM channel since its
previous slot. The samples of an SPI channel come from its port (R598). -/
def execChannelSlot (k : Nat) (bits : List Bool) (s : State) : Host.Outcome State Fault Refusal :=
  .next (
    if 24 ≤ k then s
    else if !s.filRuns then s.slotStopped k bits
    else
      let slot := s.cellAt (40 * k)
      let s := match (s.chan k).next with
        | some (new, t) => if t < s.tick then s.applyCommit k new else s
        | none => s
      let c := s.chan k
      if !cfgEn c.cfg then s.setChan k { c with integ := bits.foldl (fun l b => integrate b l) c.integ, queue := [] }
      else
        let s := s.slotResume k slot
        let c := s.chan k
        if isSdm k && s.bitOn SDM.CLK_FAULT k then s.slotNoClock k slot
        else
          let s := if c.clkOff then s.setChan k { c.event rfClk with clkOff := false } else s
          s.slotPath k bits slot)

/-- TIMING_SLIP (R474): more than 1.5 periods have passed on an SPI channel with no sample. A sample off its instant is met
in the channel's slot. -/
def execTimingSlip (k : Nat) (s : State) : Host.Outcome State Fault Refusal :=
  .next (
    let c := s.chan k
    if decide (16 ≤ k) && decide (k < 24) && s.filRuns && cfgEn c.cfg && !c.fresh && c.queue.isEmpty
        && decide (3 * secUnit < 2 * ((cfgSpi c.cfg : Nat) : Int) * (s.cellAt (40 * k) - c.lastAt)) then s.setChan k c.slip
    else s)

/-- A sample of a port's chip select goes to every channel bound to it (R598). -/
def State.deliverSample (port cs : Nat) (v t : Int) (s : State) : State :=
  ((List.range 8).map (16 + ·)).foldl (fun (u : State) k =>
    let c := u.chan k
    if cfgEn c.cfg && decide (cfgPort c.cfg = port) && decide (cfgCs c.cfg = cs) then
      u.setChan k { c with queue := c.queue ++ [(v, t)] } else u) s

/-- An edge of an FSYNC output begins M instants of the channels that follow it; a channel that is stopped counts them (R479,
R498). -/
def State.gridEdge (f : Nat) (t : Int) (p : Nat) (s : State) : State :=
  (List.range 24).foldl (fun (u : State) k =>
    let c := u.chan k
    if cfgEn c.cfg && decide (cfgMode c.cfg = 1) && decide (cfgFsync c.cfg = f) then
      (if c.halted = 0 && u.filRuns then u.setChan k { c with edges := c.edges ++ [(t, p, 0)] }
       else u.setChan k { c with num := c.num + cfgRate c.cfg })
    else u) s

/-- FIL has reached READY, or has stopped: every enabled channel starts, or meets a discontinuity, in its next slot. -/
def State.filHalt (kind : Nat) (s : State) : State :=
  let f := fun (_ : Nat) (c : FilChan) =>
    if cfgEn c.cfg then { c with halted := if c.halted < kind then kind else c.halted } else c
  s.setFil { s.fil with chans := mapAll f s.fil.chans }

/-- In DEEP the settings and calibration sets return to their values at HOST_READY (R498). -/
def State.filLost (s : State) : State :=
  let s := s.setFil { chans := mapAll (fun _ c => { chanReset with integ := c.integ }) s.fil.chans, cal := none }
  let s := { s with regs := s.regs.filter (fun e => !(decide (e.1 / 1024 = 0x079) && decide (64 ≤ e.1 % 1024))
    && !(decide (e.1 / 1024 = 0x07A) && decide (64 ≤ e.1 % 1024) && decide (e.1 % 1024 < 260))) }
  s.wr FIL.CHAN_ACTIVE 0

/-! ### The output ring's enable (R502) -/

/-- The effect of writing OUT_CFG.EN = 1. -/
def State.outEnable (s : State) : State :=
  let s := s.wr FIL.OUT_CFG_EN 1
  if s.outBaseOk then s else s.setW1c FIL.OUT_STAT_BASE_BAD 1

/-- OUT_ENABLE (Table FIL-9). -/
def execOutEnable (rq : Requester) (s : State) : Host.Outcome State Fault Refusal := .next (s.access rq 0x078 State.outEnable)

/-! ### Calibration (R492 to R495) -/

/-- The effect of CAL_CMD with START = 1. -/
def State.calStart (channel range : Nat) (ref : Bool) (s : State) : State :=
  if s.rd FIL_CAL.CAL_STAT_RESULT = 1 then s.reject 0x07A
  else
    let s := s.setFil { s.fil with cal := some {
      channel := channel, range := range, ref := ref, since := s.tick, raws := [], sat := false } }
    ((((s.wr FIL_CAL.CAL_STAT_RESULT 1).wr FIL_CAL.CAL_STAT_REASON 0).wr FIL_CAL.CAL_STAT_CHANNEL channel).wr
      FIL_CAL.CAL_STAT_RANGE range)

/-- CAL_START (R492, R494). -/
def execCalStart (rq : Requester) (channel range : Nat) (ref : Bool) (s : State) : Host.Outcome State Fault Refusal :=
  .next (s.access rq 0x07A (State.calStart (channel % 32) (range % 4) ref))

/-- Mean and population variance of the collected samples, in FP64: an exact sum, then sums in order. -/
def calMoments (raws : List Int) : Nat × Nat :=
  let n := f64c (fpOfNat raws.length)
  let scaled := fun (v : Int) => f64c (match fpOfSigned v with
    | .fin a m e => .fin a m (e - 23)
    | y => y)
  let mean := f64Div (scaled (raws.foldl (· + ·) 0)) n
  let var := f64Div (raws.foldl (fun a v => let d := f64Sub (scaled v) mean
                                           f64Add a (f64Mul d d)) 0) n
  (mean, var)

/-- |x| of an FP64 code. -/
def f64Abs (c : Nat) : Nat := c % 2 ^ 63
/-- x > y of FP64 codes. -/
def f64Gt (a b : Nat) : Bool := fpLt (f64v b) (f64v a)

/-- The reason a calibration is rejected for; 0 when every check passes (Table FIL-8). -/
def State.calReason (c : FilCal) (mean var : Nat) (s : State) : Nat :=
  let o := f32to64 (s.rd (FIL_CAL.OFFSET c.channel c.range))
  let g := f32to64 (s.rd (FIL_CAL.GAIN c.channel c.range))
  let r := f32to64 (s.rd FIL_CAL.CAL_REF)
  let d := f64Sub mean o
  if c.sat then 4
  else if f64Gt var (f32to64 (s.rd FIL_CAL.CAL_VAR_MAX)) then 1
  else if !c.ref then
    (if f64Gt (f64Abs (f64Sub (f64Mul d g) r)) (f32to64 (s.rd FIL_CAL.CAL_MEAN_TOL)) then 2 else 0)
  else if decide (f64Abs d = 0)
      || f64Gt (f64Abs (f64Sub (f64Div (f64Div r d) g) f64One)) (f32to64 (s.rd FIL_CAL.CAL_GAIN_TOL)) then 3
  else 0

/-- A calibration set's word is written: the set has been accepted or written (Table FIL-11). -/
def State.calWrite (k r : Nat) (gain : Bool) (v : Nat) (s : State) : State :=
  (s.wr (if gain then FIL_CAL.GAIN k r else FIL_CAL.OFFSET k r) v).orBits (FIL_CAL.SET_VALID ((4 * k + r) / 32)) (2 ^ ((4 * k + r) % 32))

/-- CAL_RESULT (R493): the samples are collected; the checks run and the set is updated or left. -/
def execCalResult (s : State) : Host.Outcome State Fault Refusal :=
  .next (
    match s.fil.cal with
    | none => s
    | some c =>
      let n := s.rd FIL_CAL.CAL_SAMPLES
      if c.raws.length < (if n < 16 then 16 else n) then s
      else
        let (mean, var) := calMoments c.raws
        let why := s.calReason c mean var
        let g := f32to64 (s.rd (FIL_CAL.GAIN c.channel c.range))
        let r := f32to64 (s.rd FIL_CAL.CAL_REF)
        let o := f32to64 (s.rd (FIL_CAL.OFFSET c.channel c.range))
        let s := if why ≠ 0 then s
          else if c.ref then s.calWrite c.channel c.range true (f64to32 (f64Div r (f64Sub mean o)))
          else s.calWrite c.channel c.range false (f64to32 (f64Sub mean (f64Div r g)))
        let s := ((s.wr FIL_CAL.CAL_MEAN (f64to32 mean)).wr FIL_CAL.CAL_VAR (f64to32 var)).wr FIL_CAL.CAL_COLLECTED c.raws.length
        let s := (s.wr FIL_CAL.CAL_STAT_RESULT (if why = 0 then 2 else 3)).wr FIL_CAL.CAL_STAT_REASON why
        ((s.setFil { s.fil with cal := none }).fire 33 c.channel).raiseIrq 0x078 2)

/-- CAL_TIMEOUT (R494). -/
def execCalTimeout (s : State) : Host.Outcome State Fault Refusal :=
  .next (
    match s.fil.cal with
    | none => s
    | some c => if c.since + atLeast1 (s.rd FIL_CAL.CAL_TIMEOUT) ≤ s.tick then s.calAbort 8 else s)

/-! ### Offline filtering (R496) -/

/-- The FIR at every sample of a list, latest first. -/
def firEach (rom : Nat) : List (Int × Bool) → List Int
  | [] => []
  | y :: rest => (firStage rom (y :: rest)).1 :: firEach rom rest

/-- A row filtered: each element from those up to it, zeros before the first. -/
def filterRow (rankEn : Bool) (w r rom : Nat) (xs : List Int) : List Int :=
  let ranked := (xs.foldl (fun (a : List (Int × Bool) × List (Int × Bool)) x =>
    let raw := ((x, false) :: a.1).take 9
    (raw, rankStage rankEn w r raw :: a.2)) ([], [])).2
  (firEach rom ranked).reverse

/-- A tile filtered: INT32 rows of its shape. -/
def filterTile (rankEn : Bool) (w r rom : Nat) (h : TileHdr) (pay : List Byte) : List Byte :=
  (List.range h.dim0).flatMap (fun i =>
    let row := (unpackBits 32 h.dim1 ((pay.drop (i * h.pitch)).take (4 * h.dim1))).map (toSigned 32)
    padTo (if h.pitch < 4 * h.dim1 then 4 * h.dim1 else h.pitch)
      (packBits 32 ((filterRow rankEn w r rom row).map (ofSigned 32))))

/-- FILTER (R496): one tile of the step's input is filtered; with the last one the step is done. -/
def execFilter (rid : Nat) (s : State) : Host.Outcome State Fault Refusal :=
  .next (
    match s.running rid with
    | some (r, .filter rankEn rankW rankR rom inObj outObj) =>
      if !(r.claims 14 && s.filRuns && r.yieldBy.isNone) then s
      else if 3 < rankW ∨ rankWidth rankW ≤ rankR ∨ 31 < rom then s.endReq rid ocTierFailed 1
      else
        let misfit := fun (u : State) =>
          if (u.objHdrs r.ws (r.inId inObj)).any (fun h => decide (h.format ≠ 0x0A) || decide (h.layout ≠ 0)) then some 1
          else if u.objFits r.ws (r.inId inObj) (fun _ => true) then none else some 0
        s.withObjs rid r.ws [r.inId inObj] misfit (fun u =>
            let hs := u.objHdrs r.ws (r.inId inObj)
            match (u.tileBytesOf r.ws (r.inId inObj) r.done) with
            | none => (u.inc FIL.FILTER_CNT).stepDone rid
            | some l =>
              let h := hdrOf l
              State.needThen rid (u.putTile rid r.ws (r.outId outObj) r.done 0x0A 0 h.dim0 h.dim1 h.pitch 0 []
                (padTo h.len (filterTile rankEn (rankWidth rankW) rankR rom h (payloadOf l)))) (fun v =>
                let v := v.modReq rid (fun q => { q with done := q.done + 1 })
                if hs.length ≤ r.done + 1 then (v.inc FIL.FILTER_CNT).stepDone rid else v))
    | _ => s)

end Sys2Proof.Machine
end

