-- ==== Sys2Proof/Machine/Hallmark.lean ====
section
/-! DEFINITION. Hallmark: snapshots and commands, stamp lines and their routine, the domains and their protocols, the switch
between domains, transmit stamps, PPS and FSYNC (R505 to R545). -/

namespace Sys2Proof.Machine

/-! ### Domain states (R521, R529) -/

/-- The state with CELL_STAT.SLEWING and SLEW_NS as the active domain's offset gives them: it slews while that domain is LOCKED
or MASTER and more than 1 ns away (R528, R531, log entry 35). -/
def State.startSlew (s : State) : State :=
  let o := s.cellOffset
  s.wr HM.CELL_STAT_SLEWING (b2n (s.domGood s.activeDom && decide (nsUnit < (o.natAbs : Int))))

/-- CELL_STAT.LOCKED follows the active domain; a change raises LOCK_CHANGE, and cell time slews towards a domain that is good again
(R528, R529, R531, R543). -/
def State.syncLocked (s : State) : State :=
  let v := b2n (s.domGood s.activeDom)
  if s.rd HM.CELL_STAT_LOCKED = v then s
  else
    let s := (s.wr HM.CELL_STAT_LOCKED v).raiseIrq 0x080 2
    if v = 1 then s.startSlew else s

/-- The event of a domain: its source with the state and what happened. -/
def State.domFire (d what : Nat) (s : State) : State := s.fire (9 + d) (s.domState d + 16 * what)

/-- The state with a domain changed. -/
def State.modDom (d : Nat) (f : Dom → Dom) (s : State) : State := s.setDom d (f (s.dom d))

/-- A change of a domain's state (R521). A domain that was MASTER goes on at the rate of cell time, which it equalled (Table HM-6). -/
def State.setDomState (d st what : Nat) (s : State) : State :=
  if s.domState d = st ∧ what = 0 then s
  else
    let s := if s.domState d = dsMaster ∧ st ≠ dsMaster then s.modDom d (fun x => { x with rate := s.hm.rate }) else s
    let s := s.wr (HM_DOM.DOM_STAT_STATE d) st
    let s := if st = dsLost then s.inc (HM_DOM.LOSS_CNT d) else s
    let s := if st = dsMaster then s.modDom d (fun x => { x with time := s.hm.cell }) else s
    (s.domFire d what).syncLocked

/-- SLEW_NS as it reads. -/
def State.slewNs (s : State) : Nat := if s.on HM.CELL_STAT_SLEWING then ofSigned 32 (s.cellOffset / nsUnit) else 0

/-- A step of cell time (R509, R518): recorded, signalled, and removed from the stamps of edges before it. -/
def State.stepCell (t : Int) (s : State) : State :=
  let s := s.setHm { s.hm with cell := t, ppsLast := none, entries := s.hm.entries.map (fun e => { e with stepped := true }) }
  let s := if s.domState s.activeDom = dsMaster then s.modDom s.activeDom (fun x => { x with time := t }) else s
  let s := ((s.wr HM.CELL_STAT_INIT 1).wr64 HM.STEP_TICK_LO HM.STEP_TICK_HI s.tick).raiseIrq 0x080 0
  s.startSlew

/-- A domain becomes active (R527, R528). -/
def State.switchTo (d cause : Nat) (s : State) : State :=
  if s.activeDom = d then s
  else
    let s := (s.wr HM.CELL_STAT_ACTIVE d).wr HM.CELL_STAT_SWITCH_CAUSE cause
    let s := if s.domState d = dsMaster then s else s.setHm { s.hm with rate := (s.dom d).rate }
    (((s.fire 11 d).raiseIrq 0x080 1).syncLocked).startSlew

/-! ### Commands at a tick boundary (R508, R511) -/

/-- Why a command is refused; 0 when it is applied (Table HM-2). -/
def State.hmReason (code : Nat) (active : Bool) (s : State) : Nat :=
  if !active then 3
  else if code = 0 ∨ 5 ≤ code then 4
  else if code = 1 then (if 999999999 < s.rd HM.SET_NS then 1 else 0)
  else if code = 2 then (if s.domGood s.activeDom then 0 else 2)
  else if s.domGood (code - 3) then 0 else 2

/-- The command written in the tick that has ended is applied or refused. -/
def State.hmApply (s : State) : State :=
  match s.hm.cmd with
  | none => s
  | some (code, active) =>
    let why := s.hmReason code active
    let s := s.setHm { s.hm with cmd := none }
    let s := if why ≠ 0 then s
      else if code = 1 then
        s.stepCell (timeOf (s.rd64 HM.SET_SEC_LO HM.SET_SEC_HI) (s.rd HM.SET_NS) (s.rd HM.SET_SUBNS))
      else if code = 2 then s.stepCell (s.dom s.activeDom).time
      else s.switchTo (code - 3) 0
    (((s.wr HM.HM_CMD_STAT_RESULT (if why = 0 then 2 else 3)).wr HM.HM_CMD_STAT_REASON why).wr HM.HM_CMD_STAT_TICK (s.tick % 65536))

/-- The effect of a write of HM_CMD: the last one of a tick is applied at its end (R511). -/
def State.hmCmd (code : Nat) (s : State) : State :=
  ((s.setHm { s.hm with cmd := some (code % 8, s.bst 0x080 == .active) }).wr HM.HM_CMD_STAT_RESULT 1)

/-- SET (R508, R509). -/
def execSet (rq : Requester) (s : State) : Host.Outcome State Fault Refusal := .next (s.access rq 0x080 (State.hmCmd 1))
/-- SNAP (R508, R509). -/
def execSnap (rq : Requester) (s : State) : Host.Outcome State Fault Refusal := .next (s.access rq 0x080 (State.hmCmd 2))
/-- SWITCH_PRI (R508). -/
def execSwitchPri (rq : Requester) (s : State) : Host.Outcome State Fault Refusal := .next (s.access rq 0x080 (State.hmCmd 3))
/-- SWITCH_SEC (R508). -/
def execSwitchSec (rq : Requester) (s : State) : Host.Outcome State Fault Refusal := .next (s.access rq 0x080 (State.hmCmd 4))
/-- HM_CMD_INVALID (R508): a code 0 or 5 to 7. -/
def execHmCmdInvalid (rq : Requester) (code : Nat) (s : State) : Host.Outcome State Fault Refusal :=
  .next (if code = 0 ∨ (5 ≤ code ∧ code ≤ 7) then s.access rq 0x080 (State.hmCmd code) else s)

/-! ### Domain settings (R520, R523) -/

/-- The bits of a settings word that exist. -/
def domMask (word : Nat) : Nat := if word = 0 then 0x0FFF_FF7F else if word = 1 then 0x00FF_FFFF else 0xFFF

/-- Settings of a domain written in the tick that has ended are applied, and it re-enters ACQUIRING, or DISABLED with no
source (R523); a domain that HM's own stop has DISABLED waits for the timing core (R542). -/
def State.domApply (d : Nat) (s : State) : State :=
  match (s.dom d).cfgNext with
  | [] => s
  | l =>
    let s := l.foldl (fun (u : State) e =>
      u.setWord 0x081 (0x100 + 64 * d + 4 * e.1) (BitVec.ofNat 32 (Nat.land e.2 (domMask e.1)))) s
    let s := s.modDom d (fun x => { x with
      cfgNext := []
      good := 0
      bad := 0
      lastSync := s.tick
      logInt := none
      sync := none
      waitSync := none
      gm := none })
    if s.rd (HM_DOM.DOM_CFG_SRC d) = 0 then s.setDomState d dsDisabled 0
    else if (s.bst 0x080 == .active) || decide (s.domState d ≠ dsDisabled) then s.setDomState d dsAcquiring 0
    else s

/-- The effect of a write of DOM_CFG, DOM_PRIO or DOM_INTERVAL. -/
def State.domWrite (d word value : Nat) (s : State) : State :=
  if d = s.activeDom ∧ s.bst 0x080 = .active then s.reject 0x081
  else s.modDom d (fun x => { x with cfgNext := x.cfgNext ++ [(word, value)] })

/-- DOMAIN_CONFIG_WRITE (R523): word 0, 1 or 2 of domain d. -/
def execDomainConfigWrite (rq : Requester) (d word value : Nat) (s : State) : Host.Outcome State Fault Refusal :=
  .next (if d < 2 ∧ word < 3 then s.access rq 0x081 (State.domWrite d word value) else s)

/-! ### The passing of a tick (R506, R521, R536) -/

/-- Cell time and the domains advance by a tick; a MASTER domain equals cell time (Table HM-6). -/
def State.timeTick (s : State) : State :=
  let cell := s.hm.cell + s.cellStep
  let doms := (List.range 2).foldl (fun (m : NMap Dom) d =>
    let x := s.dom d
    let t := if s.domState d = dsMaster then cell else x.time + 1000 * (nsUnit + x.rate)
    mapSet (fun _ => domReset) m d { x with time := t }) s.hm.doms
  s.setHm { s.hm with cell := cell, doms := doms }

/-- FSYNC settings applied in the tick that has ended take effect (R536). -/
def State.fsTick (s : State) : State :=
  s.hm.fsNext.foldl (fun (u : State) e => u.setHm { u.hm with
    fs := mapSet (fun _ => ⟨0, 0, 0, 0⟩) u.hm.fs e.1 e.2
    fsLast := mapErase u.hm.fsLast e.1
    fsNext := mapErase u.hm.fsNext e.1 }) s

/-- The boundary between two ticks as Hallmark sees it; the tick number is already the new one. -/
def State.hmTick (s : State) : State := (((s.timeTick.hmApply).domApply 0).domApply 1).fsTick

/-- AUTO_SWITCH (R527): the active domain is neither LOCKED nor MASTER, and the other one is. -/
def execAutoSwitch (s : State) : Host.Outcome State Fault Refusal :=
  .next (
    let other := 1 - s.activeDom
    if s.on HM.HM_CTRL_AUTO_SWITCH && (s.bst 0x080 == .active) && !s.domGood s.activeDom && s.domGood other then s.switchTo other 1
    else s)

/-- INITIAL_STEP (R526). -/
def execInitialStep (s : State) : Host.Outcome State Fault Refusal :=
  .next (
    if !s.on HM.CELL_STAT_INIT && s.on HM.HM_CTRL_INIT_STEP_EN && (s.bst 0x080 == .active) && s.domGood s.activeDom then
      s.stepCell (s.dom s.activeDom).time
    else s)

/-- SLEW_END (R528): cell time and the active domain are within 1 ns. -/
def execSlewEnd (s : State) : Host.Outcome State Fault Refusal :=
  .next (
    if s.on HM.CELL_STAT_SLEWING && decide ((s.cellOffset.natAbs : Int) ≤ nsUnit) then s.wr HM.CELL_STAT_SLEWING 0 else s)

/-! ### The timing core starts and stops (R539 to R542) -/

/-- The timing core stops: cell time goes on in the keeper, and every domain that is not DISABLED enters HOLDOVER. -/
def State.hmToKeeper (s : State) : State :=
  let s := s.wr HM.CELL_STAT_COARSE 1
  (List.range 2).foldl (fun (u : State) d =>
    if u.domState d = dsDisabled then u else u.setDomState d dsHoldover 0) (s.wr HM.CELL_STAT_SLEWING 0)

/-- HM is disabled: the domains enter DISABLED and cell time is the keeper's (R542). -/
def State.hmStop (s : State) : State :=
  let s := s.wr HM.CELL_STAT_COARSE 1
  (List.range 2).foldl (fun (u : State) d => u.setDomState d dsDisabled 0) (s.wr HM.CELL_STAT_SLEWING 0)

/-- The timing core takes cell time from the keeper with no step; loss intervals restart, and a domain with a source that was
DISABLED begins to acquire (R540). -/
def State.hmRestart (s : State) : State :=
  let s := s.wr HM.CELL_STAT_COARSE 0
  let s := (List.range 2).foldl (fun (u : State) d =>
    let u := u.modDom d (fun x => { x with
      lastSync := u.tick
      good := 0
      bad := 0
      sync := none
      waitSync := none
      dreq := none
      preq := none
      presp := none })
    if u.domState d = dsDisabled ∧ u.on (HM_DOM.DOM_CFG_SRC d) then u.setDomState d dsAcquiring 0 else u) s
  s.syncLocked

/-- HM_CORE_START (R542): HM is READY with ENABLE = 1 and PLL 2 is locked. -/
def execHmCoreStart (s : State) : Host.Outcome State Fault Refusal :=
  .next (
    if (s.bst 0x080 == .ready) && s.on (HDR.BLK_CTRL_ENABLE 0x080) && s.bitOn BZ_PM.PLL_LOCK 2 then
      (s.goto 0x080 .active causeSched).hmRestart
    else s)

/-! ### Snapshots and latched stamps (R507, R510) -/

/-- An instant within this tick that nothing fixes, in ns. -/
def State.someInstant (s : State) : Nat × State :=
  let (v, s) := s.freeBits 16
  (v % 1000, s)

/-- The live NS of cell time, with the snapshot it takes for a requester (R507). -/
def State.hmSnap (rq : Requester) (s : State) : Nat × State :=
  let (n, s) := s.someInstant
  let t := s.cellAt n
  let ws := [subnsOf t, secOf t % 2 ^ 32, secOf t / 2 ^ 32 % 2 ^ 32, s.tick % 2 ^ 32, s.tick / 2 ^ 32 % 2 ^ 32]
  (nsOf t, s.setHm { s.hm with snaps := mapInsert s.hm.snaps (rqCode rq) ws })

/-- A word of a requester's snapshot. -/
def State.hmSnapWord (rq : Requester) (i : Nat) (s : State) : Nat := ((mapFind s.hm.snaps (rqCode rq)).getD []).getD i 0

/-- STAMP_NS of a line, with the latch of its other words for a requester. -/
def State.stampSnap (rq : Requester) (l : Nat) (s : State) : Nat × State :=
  let w := fun i => (s.word 0x080 (0x300 + 32 * l + 4 * i)).toNat
  (w 0, s.setHm { s.hm with latched := mapInsert s.hm.latched (32 * rqCode rq + l) [w 1, w 2, w 3, w 4, w 5] })

/-- A latched word of a line. -/
def State.stampWord (rq : Requester) (l i : Nat) (s : State) : Nat :=
  ((mapFind s.hm.latched (32 * rqCode rq + l)).getD []).getD i 0

/-! ### Measurements and the servo (R520 to R522, R524) -/

/-- A stamp in cell time as a time of a domain, in 2^-16 ns. -/
def State.toDomain (d : Nat) (t : Int) (s : State) : Int := t + ((s.dom d).time - s.hm.cell) / 65536

/-- A PTP message of a domain leaves on its port, tagged where VLAN_ID is not 0 (Table HM-5). -/
def State.emitPtp (d kind seq : Nat) (t : Int) (s : State) : State :=
  s.emit (.ptp d (s.rd (HM_DOM.DOM_CFG_VLAN_ID d)) kind seq t)

/-- A domain in the ranges of its settings for the protocol: PTP or GPTP, with the timing core running. -/
def State.ptpRuns (s : State) (d : Nat) : Bool :=
  decide (d < 2) && s.hmRuns && (decide (s.rd (HM_DOM.DOM_CFG_SRC d) = 1) || decide (s.rd (HM_DOM.DOM_CFG_SRC d) = 2))

/-- The delay mechanism is P2P (Table HM-10). -/
def State.domP2p (s : State) (d : Nat) : Bool :=
  decide (s.rd (HM_DOM.DOM_CFG_SRC d) = 2) || s.on (HM_DOM.DOM_CFG_DELAY_MECH d)

/-- The servo's new rate of a domain: the manual gives its gains and no law for it, so it is a free value within 500 ppm
(log entries 5 and 36). -/
def State.servo (d : Nat) (s : State) : State :=
  let (v, s) := s.freeBits 32
  let r := clampInt (-2147483) 2147483 (toSigned 32 v)
  let s := (s.modDom d (fun x => { x with rate := r })).wr (HM_DOM.RATE_PPB d) (ofSigned 32 (r * 10 ^ 9 / nsUnit))
  if s.activeDom = d then s.setHm { s.hm with rate := r } else s

/-- A measurement of a domain's offset, in 2^-16 ns (R521, R522). -/
def State.measure (d : Nat) (off : Int) (s : State) : State :=
  let ns := fun (n : Nat) => (n : Int) * 65536
  let a := (off.natAbs : Int)
  let s := (s.inc (HM_DOM.SYNC_RX_CNT d)).wr (HM_DOM.OFFSET_NS d) (ofSigned 32 (off / 65536))
  let inside := decide (a ≤ ns (s.rd (HM_DOM.LOCK_NS d)))
  let beyond := decide (ns (s.rd (HM_DOM.UNLOCK_NS d)) < a)
  let s := s.modDom d (fun x => { x with good := (if inside then x.good + 1 else 0), bad := (if beyond then x.bad + 1 else 0) })
  let st := s.domState d
  let s := if st = dsLost then s.setDomState d dsAcquiring 0
    else if st = dsHoldover then s.setDomState d (if beyond then dsAcquiring else dsLocked) 0
    else if st = dsLocked ∧ 2 ≤ (s.dom d).bad then s.setDomState d dsAcquiring 0
    else if st = dsAcquiring ∧ 8 ≤ (s.dom d).good then s.setDomState d dsLocked 0 else s
  let s := if s.domState d = dsAcquiring ∧ ns (s.rd (HM_DOM.STEP_NS d)) < a then
      (s.modDom d (fun x => { x with time := x.time - off * 65536, good := 0 })).domFire d 1
    else s
  s.servo d

/-- A valid Sync or PPS_IN edge has come (R522). -/
def State.syncSeen (d : Nat) (log : Option Int) (s : State) : State :=
  (s.modDom d (fun x => { x with
    lastSync := s.tick
    logInt := (match log with
      | none => x.logInt
      | l => l) })).wr (HM_DOM.LAST_SYNC_TICK d) (s.tick % 2 ^ 32)

/-- A domain follows a source: neither DISABLED nor MASTER. -/
def State.follows (s : State) (d : Nat) : Bool := decide (s.domState d ≠ dsDisabled) && decide (s.domState d ≠ dsMaster)

/-- The offset of a Sync from its origin time and receipt (R522). -/
def State.measureSync (d : Nat) (origin recv correction : Int) (s : State) : State :=
  let r := s.toDomain d recv
  let s := s.modDom d (fun x => { x with sync := some (origin + correction, r) })
  s.measure d (r - origin - correction - (s.dom d).delay)

/-- SYNC (R519, R522, R524): `logInterval` is the message's byte; times are in 2^-16 ns, the receipt as stamped in cell time. -/
def execSync (d : Nat) (valid twoStep : Bool) (seq logInterval : Nat) (origin recv correction : Int) (s : State) :
    Host.Outcome State Fault Refusal :=
  .next (
    let log := toSigned 8 logInterval
    if s.ptpRuns d && s.follows d && valid && decide (-7 ≤ log) && decide (log ≤ 1) then
      let s := s.syncSeen d (some log)
      if twoStep then s.modDom d (fun x => { x with waitSync := some (seq, recv, correction) })
      else s.measureSync d origin recv correction
    else s)

/-- FOLLOW_UP (R519). -/
def execFollowUp (d seq : Nat) (origin correction : Int) (s : State) : Host.Outcome State Fault Refusal :=
  .next (
    if s.ptpRuns d && s.follows d then
      (match (s.dom d).waitSync with
       | some (q, recv, c) => if q = seq then
           (s.modDom d (fun x => { x with waitSync := none })).measureSync d origin recv (c + correction) else s
       | none => s)
    else s)

/-- A mean path delay in 2^-16 ns is measured (R522). -/
def State.setDelay (d : Nat) (v : Int) (s : State) : State :=
  (s.modDom d (fun x => { x with delay := v })).wr (HM_DOM.MEAN_DELAY_NS d) (ofSigned 32 (v / 65536))

/-- DELAY_REQ (R519): a MASTER domain with the E2E mechanism answers with Delay_Resp. -/
def execDelayReq (d seq : Nat) (recv : Int) (s : State) : Host.Outcome State Fault Refusal :=
  .next (if s.ptpRuns d && !s.domP2p d && decide (s.domState d = dsMaster) then s.emitPtp d 0x9 seq (s.toDomain d recv) else s)

/-- DELAY_RESP (R522): the mean of both directions, from the last Sync and the Delay_Req it answers. -/
def execDelayResp (d seq : Nat) (recv correction : Int) (s : State) : Host.Outcome State Fault Refusal :=
  .next (
    if s.ptpRuns d && !s.domP2p d && s.follows d then
      (match (s.dom d).dreq, (s.dom d).sync with
       | some (q, t3), some (t1, t2) =>
         if q = seq then (s.modDom d (fun x => { x with dreq := none })).setDelay d (((t2 - t1) + (recv - correction - t3)) / 2) else s
       | _, _ => s)
    else s)

/-- A time of cell time that a sent message is stamped with, in 2^-16 ns: somewhere in this tick. -/
def State.sendStamp (line : Nat) (s : State) : Int × State :=
  let (n, s) := s.someInstant
  (s.edgeStamp line n / 65536, s)

/-- PDELAY_REQ (R519): answered with Pdelay_Resp, which carries the receipt, and its follow-up, which carries the sending. -/
def execPdelayReq (d seq : Nat) (recv : Int) (s : State) : Host.Outcome State Fault Refusal :=
  .next (
    if s.ptpRuns d && s.domP2p d then
      let s := s.emitPtp d 0x3 seq recv
      let (t, s) := s.sendStamp (4 + s.rd (HM_DOM.DOM_CFG_PORT d))
      s.emitPtp d 0xA seq t
    else s)

/-- PDELAY_RESP (R522): a one-step answer completes the measurement; a two-step one waits for its follow-up. -/
def execPdelayResp (d seq : Nat) (twoStep : Bool) (peerRecv recv correction : Int) (s : State) : Host.Outcome State Fault Refusal :=
  .next (
    if s.ptpRuns d && s.domP2p d then
      (match (s.dom d).preq with
       | some (q, t1) =>
         if q ≠ seq then s
         else if twoStep then s.modDom d (fun x => { x with presp := some (seq, peerRecv, recv, correction) })
         else (s.modDom d (fun x => { x with preq := none })).setDelay d ((recv - t1 - correction) / 2)
       | none => s)
    else s)

/-- PDELAY_RESP_FOLLOW_UP (R519). -/
def execPdelayRespFollowUp (d seq : Nat) (peerSend correction : Int) (s : State) : Host.Outcome State Fault Refusal :=
  .next (
    if s.ptpRuns d && s.domP2p d then
      (match (s.dom d).preq, (s.dom d).presp with
       | some (q, t1), some (p, t2, t4, c) =>
         if q = seq ∧ p = seq then
           (s.modDom d (fun x => { x with preq := none, presp := none })).setDelay d
             (((t4 - t1) - (peerSend - t2) - c - correction) / 2)
         else s
       | _, _ => s)
    else s)

/-! ### The best master (R519, R521) -/

/-- A port's clockIdentity, its bytes most significant first (R520). -/
def State.clockId (s : State) (p : Nat) : Nat :=
  let m := leBytes 4 (s.rd (ETH.MAC_LO p)) ++ leBytes 2 (s.rd (ETH.MAC_HI p))
  leNat ((m.take 3 ++ [0xFF, 0xFE] ++ m.drop 3).reverse)

/-- What an Announce is compared by, in order. -/
def announceKey (a : PtpAnnounce) : List Nat :=
  [a.priority1, a.clockClass, a.accuracy, a.variance, a.priority2, a.gmId, a.stepsRemoved]

/-- What this device would announce for a domain. -/
def State.ownKey (s : State) (d : Nat) : List Nat :=
  [s.rd (HM_DOM.DOM_PRIO_PRIORITY1 d), s.rd (HM_DOM.DOM_PRIO_CLOCK_CLASS d), Config.clockAccuracy, Config.clockVariance,
   s.rd (HM_DOM.DOM_PRIO_PRIORITY2 d), s.clockId (s.rd (HM_DOM.DOM_CFG_PORT d)), 0]

/-- ANNOUNCE_PTP (R505, R521): the best master is chosen; a new grandmaster or the device itself may take its place. -/
def execAnnouncePtp (d : Nat) (a : PtpAnnounce) (s : State) : Host.Outcome State Fault Refusal :=
  .next (
    if s.ptpRuns d && decide (s.domState d ≠ dsDisabled) then
      let s := s.wr (HM_DOM.UTC_OFFSET d) (a.utcOffset % 65536)
      let cur := (s.dom d).gm
      let best := match cur with
        | none => a
        | some g => if g.gmId = a.gmId ∨ lexLt (announceKey a) (announceKey g) then a else g
      let changed := match cur with
        | none => true
        | some g => g.gmId != best.gmId
      let s := s.modDom d (fun x => { x with gm := some best })
      let id := leBytes 8 best.gmId
      let s := (s.wr (HM_DOM.GM_ID_LO d) (leNat (id.reverse.take 4))).wr (HM_DOM.GM_ID_HI d) (leNat (id.reverse.drop 4))
      if !s.on (HM_DOM.DOM_CFG_SLAVE_ONLY d) && lexLt (s.ownKey d) (announceKey best) then s.setDomState d dsMaster 0
      else if changed || decide (s.domState d = dsMaster) then
        (s.modDom d (fun x => { x with good := 0, bad := 0 })).setDomState d dsAcquiring (if changed then 2 else 0)
      else s
    else s)

/-- MANAGEMENT_SIGNALING (Table HM-5): received and ignored. -/
def execManagementSignaling (_d : Nat) (s : State) : Host.Outcome State Fault Refusal := .next s

/-- 2^log seconds in ticks. -/
def logTicks (log : Int) : Nat := if 0 ≤ log then 1000000 * 2 ^ log.toNat else 1000000 / 2 ^ (-log).toNat

/-- A message of a type is due: its interval has passed since the last one. -/
def State.ptpDue (s : State) (d kind : Nat) (log : Int) : Bool :=
  match mapFind (s.dom d).sent kind with
  | none => true
  | some t => decide (t + logTicks log ≤ s.tick)

/-- With no foreign master heard, a domain that may be MASTER becomes it as its Announce falls due. -/
def State.becomeMaster (d : Nat) (s : State) : State :=
  if !s.on (HM_DOM.DOM_CFG_SLAVE_ONLY d) && (s.dom d).gm.isNone && s.follows d then s.setDomState d dsMaster 0 else s

/-- Whether a protocol instance sends a message type in its state. -/
def State.ptpSends (s : State) (d kind : Nat) : Bool :=
  if kind = 0x0 ∨ kind = 0xB then decide (s.domState d = dsMaster)
  else if kind = 0x1 then s.follows d && !s.domP2p d
  else if kind = 0x2 then decide (s.domState d ≠ dsDisabled) && s.domP2p d else false

/-- PTP_MESSAGE_SEND (R519, R520): Sync (0) with its Follow_Up (8), Delay_Req (1), Pdelay_Req (2) or Announce (0xB) at its
interval. -/
def execPtpMessageSend (d kind : Nat) (s : State) : Host.Outcome State Fault Refusal :=
  .next (
    let log := if kind = 0x0 then toSigned 4 (s.rd (HM_DOM.DOM_INTERVAL_LOG_SYNC d))
      else if kind = 0xB then toSigned 4 (s.rd (HM_DOM.DOM_INTERVAL_LOG_ANNOUNCE d))
      else toSigned 4 (s.rd (HM_DOM.DOM_INTERVAL_LOG_DELAY_REQ d))
    if s.ptpRuns d && s.ptpDue d kind log then
      let s := if kind = 0xB then s.becomeMaster d else s
      if s.ptpSends d kind then
        let q := (s.dom d).seq % 65536
        let (t, s) := s.sendStamp (4 + s.rd (HM_DOM.DOM_CFG_PORT d))
        let td := s.toDomain d t
        let s := s.modDom d (fun x => { x with
          seq := x.seq + 1
          sent := mapInsert x.sent kind s.tick
          dreq := (if kind = 1 then some (q, td) else x.dreq)
          preq := (if kind = 2 then some (q, t) else x.preq) })
        if kind = 0x0 then (s.emitPtp d 0x0 q 0).emitPtp d 0x8 q td else s.emitPtp d kind q 0
      else s
    else s)

/-- 3 · 2^log seconds in ticks, a tick begun counting as one. -/
def lossOf (log : Int) : Nat := if 0 ≤ log then 3000000 * 2 ^ log.toNat else ceilDiv 3000000 (2 ^ (-log).toNat)

/-- Three loss intervals of a domain in ticks (R521, R522). -/
def State.lossTicks (s : State) (d : Nat) : Nat :=
  if s.rd (HM_DOM.DOM_CFG_SRC d) = 3 then 3000000
  else lossOf (match (s.dom d).logInt with
    | some l => l
    | none => toSigned 4 (s.rd (HM_DOM.DOM_INTERVAL_LOG_SYNC d)))

/-- DOMAIN_LOSS (R521, R522): no valid Sync or PPS_IN edge for 3 intervals. -/
def execDomainLoss (d : Nat) (s : State) : Host.Outcome State Fault Refusal :=
  .next (
    if decide (d < 2) && s.hmRuns && s.follows d && decide (s.domState d ≠ dsLost)
        && decide ((s.dom d).lastSync + s.lossTicks d ≤ s.tick) then
      (s.modDom d (fun x => { x with gm := none, good := 0, bad := 0 })).setDomState d dsLost 0
    else s)

/-! ### Stamps (R513 to R518) -/

/-- Flags of a stamp (Table HM-9). -/
def stampFlags (valid coarse waitSat : Bool) (domain : Nat) (slewing stepped : Bool) : Nat :=
  b2n valid + 2 * b2n coarse + 4 * b2n waitSat + 8 * domain + 16 * b2n slewing + 32 * b2n stepped

/-- A line's latest stamp is shown (R516). -/
def State.showStamp (line : Nat) (t : Int) (flags tick : Nat) (s : State) : State :=
  let s := ((s.wr (HM.STAMP_NS line) (nsOf t)).wr (HM.STAMP_SUBNS line) (subnsOf t)).wr (HM.STAMP_FLAGS line) flags
  (s.wr64 (HM.STAMP_SEC_LO line) (HM.STAMP_SEC_HI line) (secOf t)).wr64 (HM.STAMP_TICK_LO line) (HM.STAMP_TICK_HI line) tick

/-- Stamps are taken: by the timing core, or in the keeper while HM is enabled below AWAKE or gated (Table HM-8). -/
def State.stampsOn (s : State) : Bool :=
  s.hmRuns || (decide (1 ≤ s.pm) && s.on (HDR.BLK_CTRL_ENABLE 0x080) && s.on HM.CELL_STAT_COARSE)

/-- An edge on a stamp line n ns after the start of the tick (R513, R517): a pending entry, or dropped with the queue full. -/
def State.stampEdge (line n : Nat) (s : State) : State :=
  if !s.stampsOn then s
  else if 4 ≤ (s.hm.entries.filter (fun e => e.line == line)).length then (s.inc HM.STAMP_OVERRUN_CNT).raiseIrq 0x080 3
  else s.setHm { s.hm with entries := s.hm.entries ++ [{
    line := line, cycle := 500 * s.tick + n / 2, cell := s.cellAt n, domain := s.activeDom, slewing := s.on HM.CELL_STAT_SLEWING
    coarse := s.on HM.CELL_STAT_COARSE, stepped := false }] }

/-- STAMP_EDGE (R513): `subTick` is the edge's place in the tick in ns. -/
def execStampEdge (line subTick : Nat) (s : State) : Host.Outcome State Fault Refusal :=
  .next (if line ≤ 16 ∧ subTick < 1000 then s.stampEdge line subTick else s)

/-- A PPS_IN stamp marks a second of a domain that follows it: the domain's SEC, to the nearest second (R520). -/
def State.ppsMeasure (d : Nat) (t : Int) (s : State) : State :=
  if decide (s.rd (HM_DOM.DOM_CFG_SRC d) = 3) && s.follows d && s.hmRuns then
    let x := s.toDomain d (t / 65536)
    let sec : Int := 10 ^ 9 * 65536
    (s.syncSeen d none).measure d (x - (x + sec / 2) / sec * sec)
  else s

/-- One entry is served: its stamp by R513, its flags, and where it is delivered (R516 to R518). `take` is the cycle the routine
takes it in. -/
def State.serveEntry (e : StampEntry) (take : Nat) (s : State) : State :=
  if e.coarse then
    s.showStamp e.line e.cell (stampFlags true true false e.domain e.slewing e.stepped) (e.cycle / 500)
  else
    let wait := take - e.cycle
    let sat := decide (4095 ≤ wait)
    let w : Int := ((clampNat 0 4095 wait : Nat) : Int)
    let tRead := e.cell + (nsUnit + s.hm.rate) * (48 + 2 * (wait : Int))
    let t := tRead - 48 * nsUnit - 2 * w * nsUnit - 6 * nsUnit - toSigned 16 (s.rd (HM.LINE_DELAY e.line)) * (nsUnit / 16)
    let s := if sat then s.inc HM.STAMP_SAT_CNT else s
    let s := s.showStamp e.line t (stampFlags (!sat) false sat e.domain e.slewing e.stepped) (e.cycle / 500)
    if e.line = 8 ∧ !sat then (s.ppsMeasure 0 t).ppsMeasure 1 t else s

/-- STAMP_ROUTINE (R513, R517): pending entries are served in ascending line order, oldest first within a line, 40 cycles each. -/
def execStampRoutine (s : State) : Host.Outcome State Fault Refusal :=
  .next (
    let ready := s.hm.entries.filter (fun e => e.coarse || s.hmRuns)
    let order := (List.range 17).flatMap (fun l => ready.filter (fun e => e.line == l))
    let first := ready.foldl (fun n e => if e.cycle < n then e.cycle else n) (500 * s.tick + 499)
    let begin_ := if first < 500 * s.tick then 500 * s.tick else first
    let s := s.setHm { s.hm with entries := s.hm.entries.filter (fun e => !(e.coarse || s.hmRuns)) }
    (order.foldl (fun (a : State × Nat) e =>
      let take := if a.2 < e.cycle then e.cycle else a.2
      (a.1.serveEntry e take, take + 40)) (s, begin_)).1)

/-! ### The transmit-stamp queue (R532 to R534) -/

/-- A port's queue. -/
def State.txq (s : State) (p : Nat) : List TxqEntry := mapGet (fun _ => []) s.hm.txq p

/-- The head entry and the level are shown (R545). -/
def State.showTxq (p : Nat) (s : State) : State :=
  let l := s.txq p
  let e := l.headD ⟨0, 0, 0, 0, 0, 0, 0⟩
  let s := ((s.wr (HM_TXQ.TXQ_E0_SEC p) (e.sec % 2 ^ 32)).wr (HM_TXQ.TXQ_E1_SEC_HI p) (e.sec / 2 ^ 32 % 65536)).wr
    (HM_TXQ.TXQ_E1_SEQ_ID p) e.seqId
  let s := ((s.wr (HM_TXQ.TXQ_E2_NS p) e.ns).wr (HM_TXQ.TXQ_E3_SUBNS p) e.subns).wr (HM_TXQ.TXQ_E3_MSG_TYPE p) e.msgType
  ((s.wr (HM_TXQ.TXQ_E3_FLAGS p) e.flags).wr (HM_TXQ.TXQ_E3_DOMAIN_NUM p) e.domainNum).wr (HM_TXQ.TXQ_LEVEL p) l.length

/-- The state with a port's queue replaced. -/
def State.setTxq (p : Nat) (l : List TxqEntry) (s : State) : State :=
  (s.setHm { s.hm with txq := mapSet (fun _ => []) s.hm.txq p l }).showTxq p

/-- A transmit stamp is added; one that finds 16 in its queue is dropped at the tick's end (R532, R533). -/
def State.txqAdd (p : Nat) (e : TxqEntry) (s : State) : State :=
  if 16 ≤ (s.txq p).length then s.setHm { s.hm with txqLate := s.hm.txqLate ++ [(p, e)] }
  else (s.setTxq p (s.txq p ++ [e])).fire 12 p

/-- The entries of the tick for which no pop made room are dropped and counted (R533). -/
def State.txqDrop (s : State) : State :=
  if s.hm.txqLate.isEmpty then s
  else s.hm.txqLate.foldl (fun (t : State) e => (t.setW1c (HM_TXQ.TXQ_STAT_OVF e.1) 1).inc (HM_TXQ.TXQ_LOST e.1))
    (s.setHm { s.hm with txqLate := [] })

/-- The stamp of an event message that software sends from a port, in its queue (R515, R532). -/
def State.txStamp (p seqId msgType domainNum : Nat) (s : State) : State :=
  if !s.stampsOn then s
  else
    let (n, s) := s.someInstant
    let coarse := s.on HM.CELL_STAT_COARSE
    let t := if coarse then s.cellAt n else s.edgeStamp (4 + p) n
    let slew := s.on HM.CELL_STAT_SLEWING
    let s := s.showStamp (4 + p) t (stampFlags true coarse false s.activeDom slew false) s.tick
    s.txqAdd p {
      sec := secOf t % 2 ^ 48, ns := nsOf t, subns := subnsOf t, seqId := seqId % 65536, msgType := msgType % 16,
      flags := b2n coarse + 2 * b2n slew + 4 * s.activeDom, domainNum := domainNum % 256 }

/-- The effect of writing TXQ_POP; a pop of a full queue lets in the entry that arrived in the same tick (R534). -/
def State.txqPop (p : Nat) (s : State) : State :=
  match s.txq p with
  | [] => s.reject 0x082
  | _ :: r =>
    let s := s.setTxq p r
    match s.hm.txqLate.find? (fun e => e.1 == p) with
    | none => s
    | some e => (s.setHm { s.hm with txqLate := s.hm.txqLate.erase e }).txqAdd p e.2

/-- TXQ_POP (R534). -/
def execTxqPop (rq : Requester) (p : Nat) (s : State) : Host.Outcome State Fault Refusal :=
  .next (if p < 4 then s.access rq 0x082 (State.txqPop p) else s)

/-! ### PPS and FSYNC (R535 to R538) -/

/-- PPS_IN_EDGE (R535). -/
def execPpsInEdge (subTick : Nat) (s : State) : Host.Outcome State Fault Refusal :=
  .next (if subTick < 1000 then (s.fire 8 0).stampEdge 8 subTick else s)

/-- The first multiple of a period after a start that is not before a time; all in ns since the epoch. -/
def firstEdge (start period : Nat) (t : Int) : Nat :=
  let ns := ((t + nsUnit - 1) / nsUnit).toNat
  if ns ≤ start then start else start + ceilDiv (ns - start) (atLeast1 period) * period

/-- PPS_OUT_EDGE (R535): a second of cell time starts in this tick. -/
def execPpsOutEdge (s : State) : Host.Outcome State Fault Refusal :=
  .next (
    let e := firstEdge 0 1000000000 s.hm.cell
    let sec := e / 1000000000
    let at_ := (e : Int) * nsUnit
    let before := match s.hm.ppsLast with
      | some l => decide (sec ≤ l)
      | none => false
    if s.on HM.PPS_CTRL_PPS_OUT_EN && decide (at_ < s.hm.cell + s.cellStep) && !before then
      let n := ((at_ - s.hm.cell) / nsUnit).toNat
      let s := s.setHm { s.hm with ppsLast := some sec, ppsPulse := s.tick + atLeast1 (s.rd HM.PPS_CTRL_PPS_WIDTH) }
      (s.fire 14 0).emit (.pps n)
    else s)

/-- An edge of an FSYNC output rises n ns into the tick: its event, its stamp, and the grid of the channels that follow it. -/
def State.fsEdge (f n key : Nat) (s : State) : State :=
  let o := s.fsOf f
  let s := s.setHm { s.hm with
    fsLast := mapInsert s.hm.fsLast f key
    fsPulse := mapInsert s.hm.fsPulse f (s.tick + o.width) }
  let s := ((s.fire (24 + f) 0).emit (.fsync f)).stampEdge (9 + f) n
  s.gridEdge f (if s.on HM.CELL_STAT_COARSE then s.cellAt n else s.edgeStamp (9 + f) n) (s.fsPeriodNs f * 2 ^ 32)

/-- FSYNC_OUT_EDGE (R536, R538): in TICK mode at the start of ticks START + jP; in CELL mode at the instants START + jP of cell
time, none twice. -/
def execFsyncOutEdge (f : Nat) (s : State) : Host.Outcome State Fault Refusal :=
  .next (
    if 4 ≤ f then s
    else
      let o := s.fsOf f
      let last := mapFind s.hm.fsLast f
      let fresh := fun (k : Nat) => match last with
        | some l => decide (l < k)
        | none => true
      if o.mode = 1 then
        (if decide (o.start ≤ s.tick) && decide ((s.tick - o.start) % atLeast1 o.period = 0) && fresh s.tick then s.fsEdge f 0 s.tick
         else s)
      else if o.mode = 2 then
        (let e := firstEdge o.start o.period s.hm.cell
         let at_ := (e : Int) * nsUnit
         if decide (at_ < s.hm.cell + s.cellStep) && fresh e then s.fsEdge f ((at_ - s.hm.cell) / nsUnit).toNat e else s)
      else s)

/-- The settings staged for an output. -/
def State.fsStaged (s : State) (f : Nat) : FsOut :=
  { mode := s.rd (HM.FS_CFG_MODE f), start := s.rd64 (HM.FS_START_LO f) (HM.FS_START_HI f), period := s.rd (HM.FS_PERIOD f),
    width := s.rd (HM.FS_WIDTH f) }

/-- Settings that are refused (R537). -/
def fsBad (o : FsOut) : Bool :=
  decide (o.mode = 3) || (decide (o.mode = 1) && decide (o.period < 100)) || (decide (o.mode = 2) && decide (o.period < 100000))
    || decide (o.width = 0) || (decide (o.mode = 1) && decide (o.period ≤ o.width))
    || (decide (o.mode = 2) && decide (o.period ≤ 1000 * o.width))

/-- The effect of a write of one bit of FS_APPLY. -/
def State.fsApply (f : Nat) (s : State) : State :=
  let o := s.fsStaged f
  if fsBad o then s.setW1c HM.FS_STAT_REFUSED (2 ^ f)
  else s.setHm { s.hm with fsNext := mapInsert s.hm.fsNext f o }

/-- FS_APPLY (R536, R537). -/
def execFsApply (rq : Requester) (f : Nat) (s : State) : Host.Outcome State Fault Refusal :=
  .next (if f < 4 then s.access rq 0x080 (State.fsApply f) else s)

end Sys2Proof.Machine
end

