-- ==== Sys2Proof/Machine/Fabric.lean ====
section
/-! DEFINITION. The cell fabric: Ethernet frames, RoCE v2, the Cell Fabric Protocol, views and hand-over, lending between
devices (R546 to R576). -/

namespace Sys2Proof.Machine

/-! ### Ethernet ports (R546 to R550) -/

/-- The priority code point of the device's own traffic: 3 for RoCE v2, 5 for CFP, 6 for PTP frames sent tagged. Frames of software
carry their own (R547). -/
def Out.pcp : Out → Option Nat
  | .rdma .. => some 3
  | .roceAck .. => some 3
  | .peerItems .. => some 3
  | .peerAnswer .. => some 3
  | .peerSearch .. => some 3
  | .cfp .. => some 5
  | .ptp _ vlan _ _ _ => if vlan = 0 then none else some 6
  | .read .. => none
  | .msix .. => none
  | .event .. => none
  | .hostWrite .. => none
  | .hostRead .. => none
  | .config .. => none
  | .link .. => none
  | .nvme .. => none
  | .frame .. => none
  | .pps .. => none
  | .fsync .. => none
  | .spi .. => none
  | .flash .. => none
  | .mspi .. => none
  | .tdo .. => none

/-- The port of an Ethernet page works: READY or ACTIVE. -/
def State.ethUp (s : State) (p : Nat) : Bool := decide (p < 4) && (s.bst (pgEth p)).up

/-- Entries of a port's rings: 2^k, k from 4 to 12. -/
def State.txrSize (s : State) (p : Nat) : Nat := 2 ^ clampNat 4 12 (s.rd (ETH.TXR_LOG2 p))
def State.rxrSize (s : State) (p : Nat) : Nat := 2 ^ clampNat 4 12 (s.rd (ETH.RXR_LOG2 p))

/-- A 16-bit field of a frame, in network order. -/
def be16 (f : List Byte) (i : Nat) : Nat := fieldAt f i 1 * 256 + fieldAt f (i + 1) 1

/-- Where the payload of a frame begins, after one 802.1Q tag at most, and its type. -/
def etherType (f : List Byte) : Nat × Nat := if be16 f 12 = 0x8100 then (18, be16 f 16) else (14, be16 f 12)

/-- The payload of a UDP frame over IPv4: its destination port and where it begins. -/
def udpOf (f : List Byte) : Option (Nat × Nat) :=
  let (i, ty) := etherType f
  if ty = 0x0800 ∧ fieldAt f i 1 / 16 = 4 ∧ fieldAt f (i + 9) 1 = 17 then
    (let j := i + 4 * (fieldAt f i 1 % 16)
     some (be16 f (j + 2), j + 8))
  else none

/-- An IPv4 fragment: More Fragments set, or an offset above 0. -/
def isFragment (f : List Byte) : Bool :=
  let (i, ty) := etherType f
  decide (ty = 0x0800) && decide (be16 f (i + 6) % 16384 ≠ 0)

/-- Where a PTP message begins in a frame, over Ethernet or UDP (Table HM-5). -/
def ptpAt (f : List Byte) : Option Nat :=
  let (i, ty) := etherType f
  if ty = 0x88F7 then some i
  else match udpOf f with
    | some (d, j) => if d = 319 ∨ d = 320 then some j else none
    | none => none

/-- A PTP event message: its sequenceId, messageType and domainNumber. -/
def ptpEvent (f : List Byte) : Option (Nat × Nat × Nat) :=
  match ptpAt f with
  | none => none
  | some i =>
    let ty := fieldAt f i 1 % 16
    if ty ≤ 3 then some (be16 f (i + 30), ty, fieldAt f (i + 4) 1) else none

/-- n frames queued on a port are discarded (R549). -/
def State.txDrop (p n : Nat) (s : State) : State :=
  if n = 0 then s else (s.incBy (ETH.TX_DROP p) n).raiseIrq (pgEth p) 2

/-- A frame is sent from a port. -/
def State.sendFrame (p : Nat) (f : List Byte) (s : State) : State := s.emit (.frame p f)

/-- One transmit entry: its frame is sent, with a stamp where one is asked for and the frame is a PTP event message; a frame
longer than 9,216 bytes, or not in the Casket, is dropped (Table FAB-1, R548). -/
def State.sendEntry (p : Nat) (e : List Byte) (s : State) : State :=
  let n := fieldAt e 8 2
  if 9216 < n then s.txDrop p 1
  else match s.blockRead (pgEth p) (fieldAt e 0 8) n with
    | (none, s) => s.txDrop p 1
    | (some f, s) =>
      let s := s.sendFrame p f
      if bit (fieldAt e 10 1) 0 then
        (match ptpEvent f with
         | some (q, ty, d) => s.txStamp p q ty d
         | none => s)
      else s

/-- The transmit entry at an address is read and its frame sent; an entry that is not in the Casket sends nothing and counts as one
dropped (R31). -/
def State.sendAt (p a : Nat) (s : State) : State :=
  match s.blockRead (pgEth p) a 32 with
  | (none, s) => s.txDrop p 1
  | (some e, s) => s.sendEntry p e

/-- Entries of a transmit ring not yet sent. -/
def State.txQueued (s : State) (p : Nat) : Nat :=
  let k := s.txrSize p
  (s.rd (ETH.TXR_TAIL p) + k - s.rd (ETH.TXR_HEAD p) % k) % k

/-- The queued entries of a port are sent while its link is up. -/
def State.txRun (p : Nat) (s : State) : State :=
  if s.ethUp p && s.on (ETH.LINK_STAT_UP p) then
    (let k := s.txrSize p
     let base := s.rd64 (ETH.TXR_BASE_LO p) (ETH.TXR_BASE_HI p)
     let h := s.rd (ETH.TXR_HEAD p)
     let n := s.txQueued p
     let t := (List.range n).foldl (fun (u : State) i => u.sendAt p (base + 32 * ((h + i) % k))) s
     t.wr (ETH.TXR_HEAD p) ((h + n) % k))
  else s

/-- The effect of a write of TXR_TAIL. -/
def State.txrTail (p tail : Nat) (s : State) : State := (s.wr (ETH.TXR_TAIL p) tail).txRun p

/-- TXR_TAIL (R548). -/
def execTxrTail (rq : Requester) (p tail : Nat) (s : State) : Host.Outcome State Fault Refusal :=
  .next (if p < 4 then s.access rq (pgEth p) (fun u => u.txrTail p tail) else s)

/-- ETH_LINK_CHANGE (R549). -/
def execEthLinkChange (p : Nat) (up : Bool) (s : State) : Host.Outcome State Fault Refusal :=
  .next (
    if s.ethUp p && s.on (ETH.LINK_STAT_UP p) != up then
      (let s := (((s.wr (ETH.LINK_STAT_UP p) (b2n up)).fire (80 + p) (b2n up)).raiseIrq (pgEth p) 0)
       if up then s.txRun p
       else (s.txDrop p (s.txQueued p)).wr (ETH.TXR_HEAD p) (s.rd (ETH.TXR_TAIL p) % s.txrSize p))
    else s)

/-- A received frame is dropped (R550). -/
def State.rxDrop (p : Nat) (s : State) : State := (s.inc (ETH.RX_DROP p)).raiseIrq (pgEth p) 1

/-- A frame the device takes for itself: CFP, RoCE v2, or PTP of a domain of the timing core on the port (R548). -/
def State.takesFrame (s : State) (p : Nat) (f : List Byte) : Bool :=
  (match udpOf f with
   | some (d, _) => decide (d = 47230) || decide (d = 4791)
   | none => false)
  || (match ptpAt f with
      | some i => (List.range 2).any (fun d => s.ptpRuns d && decide (s.rd (HM_DOM.DOM_CFG_PORT d) = p)
          && decide (s.rd (HM_DOM.DOM_CFG_DOMAIN_NUM d) = fieldAt f (i + 4) 1))
      | none => false)

/-- The receive record of a frame in the buffer its entry names, with the stamp of the port's line (Table FAB-2, R516). -/
def State.rxRecord (p a : Nat) (f : List Byte) (stampValid : Bool) (s : State) : List Byte :=
  let fl := s.rd (HM.STAMP_FLAGS p)
  let v := stampValid && bit fl 0
  leBytes 8 a ++ leBytes 2 f.length ++ leBytes 1 (b2n v + (if v then 2 * b2n (bit fl 1) + 4 * b2n (bit fl 3) else 0))
    ++ leBytes 5 0 ++ leBytes 4 (if v then s.rd (HM.STAMP_SEC_LO p) else 0) ++ leBytes 4 (if v then s.rd (HM.STAMP_NS p) else 0)
    ++ leBytes 2 (if v then s.rd (HM.STAMP_SUBNS p) else 0) ++ leBytes 6 0

/-- FRAME_RX (R548, R550): a bad frame is counted; a good one that the device does not take and that passes RX_FILTER goes to
the receive ring, or is dropped when it is full. -/
def execFrameRx (p : Nat) (frame : List Byte) (crcErr unicastOrBroadcast stampValid : Bool) (s : State) :
    Host.Outcome State Fault Refusal :=
  .next (
    if !(s.ethUp p && s.on (ETH.LINK_STAT_UP p)) then s
    else if crcErr then s.inc (ETH.CRC_ERR_CNT p)
    else if s.takesFrame p frame || isFragment frame then s
    else if s.rd (ETH.RX_FILTER p) = 0 ∨ (s.rd (ETH.RX_FILTER p) = 1 ∧ !unicastOrBroadcast) then s
    else
      let k := s.rxrSize p
      let w := s.rd (ETH.RXR_WR_IDX p) % k
      let e := s.rd64 (ETH.RXR_BASE_LO p) (ETH.RXR_BASE_HI p) + 32 * w
      if 9216 < frame.length ∨ (w + 1) % k = s.rd (ETH.RXR_RD_IDX p) % k then s.rxDrop p
      else match s.blockRead (pgEth p) e 32 with
        | (none, s) => s.rxDrop p
        | (some b, s) =>
          let a := fieldAt b 0 8
          if !inCasket a frame.length then s.rxDrop p
          else ((s.storeFrom 1 a frame).storeFrom 1 e (s.rxRecord p a frame stampValid)).wr (ETH.RXR_WR_IDX p) ((w + 1) % k))

/-! ### Peers and CFP messages (R554, R555) -/

/-- The state with the record of a peer slot changed. -/
def State.modPeer (p : Nat) (f : Peer → Peer) (s : State) : State :=
  s.setFab { s.fab with peers := mapModify f s.fab.peers p }

/-- CFP message types (Table FAB-5). -/
def cfpAnnounce : Nat := 1
def cfpAck : Nat := 2
def cfpLeave : Nat := 3
def cfpGone : Nat := 4
def cfpBorrowReq : Nat := 5
def cfpBorrowGrant : Nat := 6
def cfpBorrowDeny : Nat := 7
def cfpRelease : Nat := 8
def cfpReclaim : Nat := 9
def cfpHandoverEnd : Nat := 10

/-- A unicast message to a peer, resent until it is acknowledged (R554). -/
def State.cfpSend (p kind : Nat) (words : List Nat) (s : State) : State :=
  match mapFind s.fab.peers p with
  | none => s
  | some q => (s.modPeer p (fun x => {
      x with
      txSeq := (x.txSeq + 1) % 65536,
      unacked := x.unacked ++ [{ seq := q.txSeq, kind := kind, words := words, sent := s.tick, resends := 0 }] })).emit
        (.cfp p kind words)

/-- A received message passes R555; a message that does not is counted. -/
def State.cfpTaken (h : CfpHeader) (s : State) : Bool × State :=
  if !(s.fabUp && s.ethUp h.port) then (false, s)
  else if h.magic ≠ 0x4643 ∨ h.version ≠ 1 ∨ h.cellId ≠ s.rd FAB.CELL_ID ∨ h.deviceId = s.deviceId ∨ !h.listed then
    (false, s.inc FAB.CFP_IGNORED)
  else (true, s)

/-- A unicast message of a known peer, which is acknowledged: what it does to the peer's slot. -/
def State.fromPeer (h : CfpHeader) (eff : Nat → Peer → State → State) (s : State) : State :=
  let (ok, s) := s.cfpTaken h
  if !ok then s
  else match s.peerOf h.deviceId with
    | none => s
    | some p => match mapFind s.fab.peers p with
      | none => s
      | some q => eff p q (s.emit (.cfp p cfpAck [h.seq]))

/-- The enabled Ethernet ports. -/
def State.ethPorts (s : State) : List Nat := (List.range 4).filter (fun p => s.ethUp p)

/-! ### Lending (R569 to R572) -/

/-- Tiles granted to peers. -/
def State.granted (s : State) : Nat := s.fab.peers.foldl (fun n e => match e.2.grant with
  | some g => n + g.places.length
  | none => n) 0

/-- LEND_FREE (R569); 0 from a LEND_RECLAIM on, until LEND_T2_TILES is written again (R272; log entry 101). -/
def State.lendFree (s : State) : Nat := if s.fab.recalled.isSome then 0 else s.rd CK_TIER.LEND_T2_TILES - s.granted

/-- The tiles that a grant may take: of the lent part of HBM at its top, those in use by nothing. -/
def State.lendPlaces (s : State) (n : Nat) : List Nat :=
  let taken := s.fab.peers.flatMap (fun e => match e.2.grant with
    | some g => g.places
    | none => [])
  (((List.range (3145728 - s.tierCap 2)).map (fun i => (s.tierCap 2 + i) * tileSize)).filter
    (fun a => !taken.contains a && (mapFind s.ck.slots a).isNone)).take n

/-- PEER_GRANTED of a slot: tiles lent to the peer, else tiles borrowed from it. -/
def State.showGranted (p : Nat) (s : State) : State :=
  match mapFind s.fab.peers p with
  | none => s.wr (FAB.PEER_GRANTED p) 0
  | some q => s.wr (FAB.PEER_GRANTED p) (match q.grant with
    | some g => g.places.length
    | none => q.borrowed)

/-- The tiles lent to a peer return to the pool. -/
def State.endGrant (p : Nat) (s : State) : State := (s.modPeer p (fun q => { q with grant := none })).showGranted p

/-- A lender sends RECLAIM, once (R570). -/
def State.sendReclaim (p : Nat) (s : State) : State :=
  match mapFind s.fab.peers p with
  | some q => (match q.grant with
    | some g => if g.reclaim.isSome then s
      else (s.cfpSend p cfpReclaim []).modPeer p (fun x => { x with grant := some { g with reclaim := some s.tick } })
    | none => s)
  | none => s

/-- RECLAIM goes to every borrower (R272, R274). -/
def State.reclaimAll (s : State) : State := (s.fab.peers.map (·.1)).foldl (fun t p => t.sendReclaim p) s

/-- The newest grant not yet being reclaimed. -/
def State.newestGrant (s : State) : Option Nat :=
  (s.fab.peers.foldl (fun (b : Option (Nat × Nat)) e => match e.2.grant with
    | some g => if g.reclaim.isSome then b
      else (match b with
        | some (_, o) => if o < g.order then some (e.1, g.order) else b
        | none => some (e.1, g.order))
    | none => b) none).map (·.1)

/-- Tiles granted and not being reclaimed. -/
def State.grantedKept (s : State) : Nat := s.fab.peers.foldl (fun n e => match e.2.grant with
  | some g => if g.reclaim.isSome then n else n + g.places.length
  | none => n) 0

/-- Newest grants are reclaimed until the rest fit LEND_T2_TILES (R570). -/
def State.fitGrants : Nat → State → State
  | 0, s => s
  | n + 1, s =>
    if s.grantedKept ≤ s.rd CK_TIER.LEND_T2_TILES then s
    else match s.newestGrant with
      | none => s
      | some p => State.fitGrants n (s.sendReclaim p)

/-- The effect of a write of LEND_T2_TILES. -/
def State.lendTiles (v : Nat) (s : State) : State :=
  let s := (s.wr CK_TIER.LEND_T2_TILES v).setFab { s.fab with recalled := none }
  (s.trimPool 2 s.ck.slots.length).fitGrants s.fab.peers.length

/-- A write of LEND_RECLAIM: RECLAIM to every borrower, and no more is lent (R272). -/
def State.lendRecall (s : State) : State :=
  let s := s.reclaimAll
  s.setFab { s.fab with recalled := some (s.fab.recalled.getD s.tick) }

/-- LEND_RECLAIM (R272, R570). -/
def execLendReclaim (rq : Requester) (s : State) : Host.Outcome State Fault Refusal :=
  .next (s.access rq 0x018 State.lendRecall)

/-! ### Views and hand-over (R562 to R568) -/

/-- Range IDs of a table. -/
def MapTab.ranges (t : MapTab) : List Nat := List.range (ceilDiv t.rows (2 ^ t.shift))

/-- Active sharded tables with their ranges, in ascending order. -/
def State.shardedRanges (s : State) : List (Nat × Nat) :=
  (s.rows.tabs.filter (fun e => e.2.sharded)).flatMap (fun e => e.2.ranges.map (fun x => (e.1, x)))

/-- A range is lost to its hand-over: HANDOVER_LOST counts it (R566). -/
def State.handoverLost (s : State) : State := (s.inc FAB.HANDOVER_LOST).raiseIrq 0x08C 1

/-- A range's hand-over is over at its receiver: it is served from this device's slots from now on. -/
def State.endIn (table range : Nat) (s : State) : State :=
  (s.setFab { s.fab with
    ins := s.fab.ins.filter (fun e => !(decide (e.1 = table) && decide (e.2.1 = range)))
    ended := s.fab.ended.filter (fun e => e != (table, range)) }).serveHeld

/-- GONE goes to every peer once a graceful leave has nothing left to hand over (R558). -/
def State.leaveGoesOn (s : State) : State :=
  if s.fab.leaving && !s.fab.goneSent && s.fab.outs.isEmpty then
    (let t := (s.fab.peers.map (·.1)).foldl (fun (u : State) p => u.cfpSend p cfpGone []) s
     t.setFab { t.fab with goneSent := true })
  else s

/-- The ranges to hand over and to receive under a new view (R565, R566, R568). `old` is the view before. -/
def State.planHandover (old : View) (s : State) : State :=
  let me := s.deviceId
  let rs := s.shardedRanges
  let isOut := fun (e : Nat × Nat) => s.fab.outs.any (fun x => decide (x.1 = e.1) && decide (x.2.1 = e.2))
  let mine := fun (e : Nat × Nat) => decide (s.ownerIn s.fab.cur e.1 e.2 = some me)
  let outs := rs.filterMap (fun e =>
    if mine e || (s.ownerIn s.fab.cur e.1 e.2).isNone then none
    else if isOut e then s.fab.outs.find? (fun x => decide (x.1 = e.1) && decide (x.2.1 = e.2))
    else if s.ownerIn old e.1 e.2 = some me then some (e.1, e.2, false) else none)
  let came := rs.filterMap (fun e =>
    if !mine e || isOut e then none
    else match s.fab.ins.find? (fun x => decide (x.1 = e.1) && decide (x.2.1 = e.2)) with
      | some x => some x
      | none => match s.ownerIn old e.1 e.2 with
        | some d => if d = me then none else some (e.1, e.2, d)
        | none => none)
  let here := came.filter (fun e => (s.peerOf e.2.2).isSome)
  let lost := came.length - here.length
  let s := s.setFab { s.fab with
    outs := outs, ins := here, ended := s.fab.ended.filter (fun e => here.any (fun x => decide ((x.1, x.2.1) = e))) }
  (forEach (List.range lost) (fun _ t => t.handoverLost) s)

/-- A new view is adopted in the tick in which the eligible set changes (R562). -/
def State.syncView (s : State) : State :=
  let m := s.eligible
  if m = s.fab.cur.members then s
  else
    let old := s.fab.cur
    let v : View := { id := viewIdOf (s.rd FAB.CELL_SEED) m, members := m }
    let s := s.setFab { s.fab with cur := v, prev := old, viewTick := s.tick }
    let s := ((s.wr FAB.VIEW_ID v.id).wr FAB.PREV_VIEW_ID old.id).wr FAB.MEMBERS m.length
    let s := (s.wr MAP_DIR.EPOCH v.id).raiseIrq 0x08C 0
    ((s.planHandover old).cacheOwned).serveHeld

/-- The rows of a range as they are handed over: each valid row with the bytes of its slot (R565). -/
def State.handRows (s : State) (table range : Nat) : List RemoteItem :=
  match s.tabOf table with
  | none => []
  | some t =>
    ((List.range t.rows).filter (fun x => decide (t.rangeOf x = range))).filterMap (fun x =>
      let (slot, ver) := s.pointer t x
      let d := (s.slotBytes t slot).getD []
      if slot ≠ emptySlot ∧ slotValid d then
        some { table := table, row := x, isUpdate := false, isPut := true
               values := (leBytes 4 ver ++ d.drop 4).map (·.toNat) }
      else none)

/-- The tiles that the rows of a range lie in are read for its GSE, pointers first (R30, R565). -/
def State.handReads (table range : Nat) (s : State) : State :=
  match s.tabOf table with
  | none => s
  | some t =>
    let rows := (List.range t.rows).filter (fun x => decide (t.rangeOf x = range))
    let slots := rows.filterMap (fun x => (t.locate (s.pointer t x).1).map (fun e => (e.1, e.2.1)))
    (s.moverReads (pgGse (range % 2)) t.ws (rows.map (fun x => (t.ptrObj, x / ptrPerTile)) ++ slots).eraseDups).2

/-- The peer slot a range goes to now. -/
def State.handTo (s : State) (table range : Nat) : Option Nat :=
  match s.ownerIn s.fab.cur table range with
  | some d => s.peerOf d
  | none => none

/-- Updates accepted for a range that have not been made: they are applied before its rows are sent (R565). -/
def State.updatesWait (s : State) (table range : Nat) : Bool :=
  match s.tabOf table with
  | none => false
  | some t => s.rows.flips.any (fun f => decide (f.table = table) && decide (t.rangeOf f.row = range))
      || s.rows.lookups.any (fun l => decide (l.table = table) && decide (t.rangeOf l.row = range) && decide (l.owner = 0)
        && l.upd.isSome && l.answer.isNone)

/-- HANDOVER_RANGE (R565): the first of the ranges to hand over is frozen; once no accepted update of it is left to make, its
valid rows are sent and HANDOVER_END after them. -/
def execHandoverRange (table range : Nat) (s : State) : Host.Outcome State Fault Refusal :=
  .next (
    match s.fab.outs with
    | (t, x, frozen) :: rest =>
      if t ≠ table ∨ x ≠ range then s
      else match s.handTo table range with
        | none => s
        | some p =>
          if !frozen then s.setFab { s.fab with outs := (t, x, true) :: rest }
          else if s.updatesWait table range then s
          else
            let s := (s.handReads table range).emit (.peerItems p s.fab.cur.id (s.handRows table range))
            let s := s.cfpSend p cfpHandoverEnd [table, range, s.fab.cur.id]
            (s.setFab { s.fab with outs := rest }).leaveGoesOn
    | [] => s)

/-- SEND (R552, R565): hand-over rows of a peer. Batches, replies and searches are commands of their own. -/
def execSend (slot : Nat) (items : List RemoteItem) (s : State) : Host.Outcome State Fault Refusal :=
  .next (
    if s.fabUp && (mapFind s.fab.peers slot).isSome then
      (items.filter isHandRow).foldl (fun (u : State) x => u.peerItem slot u.fab.cur.id x) (s.roceProgress slot)
    else s)

/-- HANDOVER_END (R564). -/
def execHandoverEnd (h : CfpHeader) (table range viewId : Nat) (s : State) : Host.Outcome State Fault Refusal :=
  .next (s.fromPeer h (fun _ _ u =>
    if u.fab.ins.any (fun e => decide (e.1 = table) && decide (e.2.1 = range)) ∧ (viewId = u.fab.cur.id ∨ viewId = u.fab.prev.id)
    then (u.setFab { u.fab with ended := u.fab.ended ++ [(table, range)] }).serveHeld
    else u))

/-- HANDOVER_TIMEOUT (R566). -/
def execHandoverTimeout (table range : Nat) (s : State) : Host.Outcome State Fault Refusal :=
  .next (
    if s.fab.ins.any (fun e => decide (e.1 = table) && decide (e.2.1 = range))
        && decide (s.fab.viewTick + s.rd FAB.HANDOVER_TICKS ≤ s.tick) then
      s.handoverLost.endIn table range
    else s)

/-! ### Joins and departures (R556 to R561) -/

/-- The lowest free peer slot (R556). -/
def State.freePeer (s : State) : Option Nat :=
  firstIdx (fun p => (mapFind s.fab.peers p).isNone && (decide (s.borrowState p = 0) || decide (s.borrowState p = 3))
    && !s.rows.lookups.any (fun l => decide (l.owner = p + 1) && l.answer.isNone)) (List.range 64)

/-- What a peer's registers show. -/
def State.showPeer (p st port dev : Nat) (s : State) : State :=
  (((s.wr (FAB.PEER_STAT_STATE p) st).wr (FAB.PEER_STAT_PORT p) port).wr (FAB.PEER_ID_LO p) (dev % 2 ^ 32)).wr
    (FAB.PEER_ID_HI p) (dev / 2 ^ 32)

/-- A slot gives up its peer: its window is unbacked, ranges it still had to hand over are lost, its grant returns to the
pool, and what it had asked for is dropped. -/
def State.clearPeer (p : Nat) (q : Peer) (s : State) : State :=
  let s := if s.borrowState p = 1 ∨ s.borrowState p = 2 then s.unbackWindow p else s
  let lost := s.fab.ins.filter (fun e => e.2.2 == q.dev)
  let s := s.setFab { s.fab with
    peers := mapErase s.fab.peers p
    ins := s.fab.ins.filter (fun e => e.2.2 != q.dev)
    ended := s.fab.ended.filter (fun e => !lost.any (fun x => decide ((x.1, x.2.1) = e)))
    held := s.fab.held.filter (fun e => e.1 != p)
    batches := s.fab.batches.filter (fun e => e.1 != p) }
  let s := lost.foldl (fun (u : State) _ => u.handoverLost) s
  (s.showPeer p peerFree 0 0).showGranted p

/-- A peer's departure is handled (R559). -/
def State.depart (p : Nat) (s : State) : State :=
  match mapFind s.fab.peers p with
  | none => s
  | some q =>
    let s := ((s.fire 85 p).clearPeer p q).syncView
    (s.setFab { s.fab with gone := p :: s.fab.gone }).serveHeld

/-- The payload of this device's announcement (Table FAB-5). -/
def State.announceWords (s : State) (qpn : Nat) : List Nat :=
  [b2n s.fab.sharding + 2 * b2n s.fab.listen.isSome + 4 * b2n s.fab.leaving, clampNat 1000 (2 ^ 24 - 1) (s.rd FAB.ANN_INTERVAL),
   s.rd FAB.CELL_SEED, s.fab.cur.id, s.lendFree, qpn]

/-- The device announces on every enabled port; the number of its queue pair is a free value. -/
def State.announceNow (s : State) : State :=
  let (q, s) := s.freeBits 24
  let w := s.announceWords q
  let s := s.ethPorts.foldl (fun (t : State) p => t.emit (.cfp (64 + p) cfpAnnounce w)) s
  s.setFab { s.fab with lastAnn := s.tick }

/-- ANNOUNCE_SEND (R554). -/
def execAnnounceSend (s : State) : Host.Outcome State Fault Refusal :=
  .next (
    if s.fabUp && decide (s.fab.lastAnn + clampNat 1000 (2 ^ 24 - 1) (s.rd FAB.ANN_INTERVAL) ≤ s.tick) then s.announceNow else s)

/-- The fabric starts: it listens, and announces JOINING (R557). -/
def State.fabStart (s : State) : State :=
  (s.setFab { s.fab with listen := some s.tick, sharding := false, leaving := false, goneSent := false }).announceNow

/-- This device announces SHARD_EN as FAB_CTRL sets it, unless it listens or leaves. -/
def State.fabShard (s : State) : State :=
  if s.fabUp && s.fab.listen.isNone && !s.fab.leaving then
    (s.setFab { s.fab with sharding := s.on FAB.FAB_CTRL_SHARD_EN }).syncView
  else s

/-- JOIN_LISTEN_END (R557). -/
def execJoinListenEnd (s : State) : Host.Outcome State Fault Refusal :=
  .next (
    match s.fab.listen with
    | some t =>
      if s.fabUp ∧ t + s.rd FAB.JOIN_LISTEN ≤ s.tick then (s.setFab { s.fab with listen := none }).fabShard else s
    | none => s)

/-- The fabric stops with no peer known: windows are unbacked, grants return, and the view is empty (R574). -/
def State.fabStop (s : State) : State :=
  let s := s.fab.peers.foldl (fun (t : State) e => (t.clearPeer e.1 e.2).peerRowsGone e.1) s
  (s.setFab { s.fab with listen := none, sharding := false, leaving := false, goneSent := false }).syncView

/-- An uncorrected error in FAB's peer table: every peer departs (R576). -/
def State.fabFaulted (s : State) : State :=
  if s.bst 0x08C == .faulted then (s.fab.peers.map (·.1)).foldl (fun t p => t.depart p) s else s

/-- A graceful leave of this device, with the release of every borrow (R558, R575). -/
def State.fabLeave (s : State) : State :=
  if !s.fabUp || s.fab.leaving then s
  else
    let ps := s.fab.peers.map (·.1)
    let s := ps.foldl (fun (t : State) p =>
      if t.borrowState p = 1 ∨ t.borrowState p = 2 then
        ((t.cfpSend p cfpRelease []).unbackWindow p).modPeer p (fun q => { q with borrowed := 0 }) |>.showGranted p
      else t) s
    let s := ps.foldl (fun (t : State) p => t.cfpSend p cfpLeave []) s
    ((s.setFab { s.fab with leaving := true, sharding := false, listen := none }).announceNow.syncView).leaveGoesOn

/-- A new peer takes a slot (R556). -/
def State.addPeer (h : CfpHeader) (a : AnnouncePayload) (s : State) : State :=
  match s.freePeer with
  | none => (s.inc FAB.PEER_FULL_CNT).raiseIrq 0x08C 2
  | some p =>
    let st := if a.leaving then peerLeaving else if a.shardEn then peerMember else peerJoining
    let q : Peer := {
      dev := h.deviceId, interval := a.annInterval, lastAnn := s.tick, qpn := a.qpn, lendFree := a.lendFree, txSeq := 0,
      unacked := [], leaveAt := (if a.leaving then some s.tick else none), grant := none, borrowed := 0, remoteBase := 0, remoteKey := 0, retries := 0,
      retryTick := s.tick, rate := 25000, rateTick := s.tick }
    let s := s.setFab { s.fab with peers := mapInsert s.fab.peers p q }
    (((s.setBorrow p 0).showPeer p st h.port h.deviceId).fire 84 p).syncView

/-- A known peer announces again (R556, R557, R558). -/
def State.heardPeer (p : Nat) (h : CfpHeader) (a : AnnouncePayload) (s : State) : State :=
  let s := s.modPeer p (fun q => {
    q with interval := a.annInterval, lastAnn := s.tick, qpn := a.qpn, lendFree := a.lendFree })
  let s := if h.port < s.rd (FAB.PEER_STAT_PORT p) then s.wr (FAB.PEER_STAT_PORT p) h.port else s
  let st := s.peerState p
  let s :=
    if a.leaving ∧ st ≠ peerLeaving then
      (s.wr (FAB.PEER_STAT_STATE p) peerLeaving).modPeer p (fun q => { q with leaveAt := some s.tick })
    else if st = peerJoining ∧ a.shardEn then s.wr (FAB.PEER_STAT_STATE p) peerMember
    else s
  s.syncView

/-- ANNOUNCE (R555 to R557, R575). -/
def execAnnounce (h : CfpHeader) (a : AnnouncePayload) (s : State) : Host.Outcome State Fault Refusal :=
  .next (
    if s.pm = 2 ∨ s.pm = 3 then
      (if h.port < 4 ∧ s.on (HDR.BLK_CTRL_ENABLE (pgEth h.port)) ∧ a.joining ∧ h.magic = 0x4643 ∧ h.version = 1
          ∧ h.cellId = s.rd FAB.CELL_ID ∧ h.deviceId ≠ s.deviceId ∧ h.listed ∧ a.cellSeed = s.rd FAB.CELL_SEED then s.fire 84 0xFF
       else s)
    else
      let (ok, s) := s.cfpTaken h
      if !ok then s
      else if a.cellSeed ≠ s.rd FAB.CELL_SEED then s.inc FAB.CFP_IGNORED
      else match s.peerOf h.deviceId with
        | some p => s.heardPeer p h a
        | none => s.addPeer h a)

/-- ACK_CFP (R554). -/
def execAckCfp (h : CfpHeader) (acked : Nat) (s : State) : Host.Outcome State Fault Refusal :=
  .next (
    let (ok, s) := s.cfpTaken h
    if !ok then s
    else match s.peerOf h.deviceId with
      | none => s
      | some p => s.modPeer p (fun q => { q with unacked := q.unacked.filter (fun m => m.seq != acked) }))

/-- CFP_RESEND (R554): every 200 ticks, five times; then the peer is treated as left. -/
def execCfpResend (slot seq : Nat) (s : State) : Host.Outcome State Fault Refusal :=
  .next (
    match mapFind s.fab.peers slot with
    | none => s
    | some q => match q.unacked.find? (fun m => m.seq == seq) with
      | none => s
      | some m =>
        if s.tick < m.sent + 200 then s
        else if 5 ≤ m.resends then s.depart slot
        else (s.modPeer slot (fun x => {
          x with unacked := x.unacked.map (fun y => if y.seq = seq then { y with sent := s.tick, resends := y.resends + 1 } else y)
          })).emit (.cfp slot m.kind m.words))

/-- LEAVE (R558). -/
def execLeave (h : CfpHeader) (s : State) : Host.Outcome State Fault Refusal :=
  .next (s.fromPeer h (fun p q u =>
    (((u.wr (FAB.PEER_STAT_STATE p) peerLeaving).modPeer p (fun x => {
      x with leaveAt := (if q.leaveAt.isSome then q.leaveAt else some u.tick) })).syncView)))

/-- GONE (R558, R559). -/
def execGone (h : CfpHeader) (s : State) : Host.Outcome State Fault Refusal :=
  .next (s.fromPeer h (fun p _ u => u.depart p))

/-- LEAVE_TIMEOUT (R558). -/
def execLeaveTimeout (slot : Nat) (s : State) : Host.Outcome State Fault Refusal :=
  .next (
    match mapFind s.fab.peers slot with
    | none => s
    | some q => match q.leaveAt with
      | some t => if t + s.rd FAB.HANDOVER_TICKS ≤ s.tick then s.depart slot else s
      | none => s)

/-- PEER_SILENCE_TIMEOUT (R559). -/
def execPeerSilenceTimeout (slot : Nat) (s : State) : Host.Outcome State Fault Refusal :=
  .next (
    match mapFind s.fab.peers slot with
    | none => s
    | some q => if q.lastAnn + 3 * q.interval ≤ s.tick then s.depart slot else s)

/-! ### Borrowing (R569 to R573) -/

/-- The effect of a write of BORROW_CMD (R569, R571, R573). -/
def State.borrowCmd (p : Nat) (release : Bool) (s : State) : State :=
  if s.peerState p ≠ peerMember then s.reject 0x08C
  else if release then
    (((s.cfpSend p cfpRelease []).unbackWindow p).modPeer p (fun q => { q with borrowed := 0 })).showGranted p
  else if s.borrowState p = 1 ∨ s.borrowState p = 2 then s.reject 0x08C
  else s.cfpSend p cfpBorrowReq [clampNat 0 1048576 (s.rd FAB.BORROW_CMD_TILES)]

/-- BORROW_CMD_BORROW (R569, R573). -/
def execBorrowCmdBorrow (rq : Requester) (slot : Nat) (s : State) : Host.Outcome State Fault Refusal :=
  .next (s.access rq 0x08C (fun u => u.borrowCmd (slot % 64) false))

/-- BORROW_CMD_RELEASE (R571, R573). -/
def execBorrowCmdRelease (rq : Requester) (slot : Nat) (s : State) : Host.Outcome State Fault Refusal :=
  .next (s.access rq 0x08C (fun u => u.borrowCmd (slot % 64) true))

/-- The words of a BORROW_GRANT. -/
def Grant.words (g : Grant) : List Nat := [g.places.length, g.places.headD 0, g.key]

/-- BORROW_REQ (R569): a grant of the tiles wanted or of LEND_FREE, whichever is less; a repeated request is answered again
with the grant made. -/
def execBorrowReq (h : CfpHeader) (tiles : Nat) (s : State) : Host.Outcome State Fault Refusal :=
  .next (s.fromPeer h (fun p q u =>
    match q.grant with
    | some g => u.cfpSend p cfpBorrowGrant g.words
    | none =>
      if u.lendFree = 0 then u.cfpSend p cfpBorrowDeny []
      else
        let (key, u) := u.freeBits 32
        let g : Grant := {
          places := u.lendPlaces (clampNat 0 1048576 (clampNat 0 u.lendFree tiles)), key := key, order := u.fab.grants
          reclaim := none }
        let u := u.setFab { u.fab with grants := u.fab.grants + 1 }
        ((u.modPeer p (fun x => { x with grant := some g })).cfpSend p cfpBorrowGrant g.words).showGranted p))

/-- BORROW_GRANT (R569): the first granted tiles of the slot's window are backed. -/
def execBorrowGrant (h : CfpHeader) (tiles base key : Nat) (s : State) : Host.Outcome State Fault Refusal :=
  .next (s.fromPeer h (fun p _ u =>
    if u.borrowState p = 1 ∨ u.borrowState p = 2 then u
    else ((u.modPeer p (fun q => {
      q with borrowed := clampNat 0 1048576 tiles, remoteBase := base, remoteKey := key })).setBorrow p 1).showGranted p))

/-- BORROW_DENY (R569): the window stays as it is. -/
def execBorrowDeny (h : CfpHeader) (s : State) : Host.Outcome State Fault Refusal := .next (s.fromPeer h (fun _ _ u => u))

/-- RELEASE (R571). -/
def execRelease (h : CfpHeader) (s : State) : Host.Outcome State Fault Refusal :=
  .next (s.fromPeer h (fun p _ u => u.endGrant p))

/-- RECLAIM (R271, R570): the window reads RECLAIMING from this tick. -/
def execReclaim (h : CfpHeader) (s : State) : Host.Outcome State Fault Refusal :=
  .next (s.fromPeer h (fun p _ u =>
    if u.borrowState p = 1 then
      (let u := (u.setBorrow p 2).setCk { u.ck with notices := mapInsert u.ck.notices p u.tick }
       (u.wr64 CK_TIER.NOTICE_TICK_LO CK_TIER.NOTICE_TICK_HI u.tick).fire 86 p)
    else u))

/-- LEND_REVOKE (R570, R572). -/
def execLendRevoke (slot : Nat) (s : State) : Host.Outcome State Fault Refusal :=
  .next (
    match mapFind s.fab.peers slot with
    | none => s
    | some q => match q.grant with
      | none => s
      | some g => match g.reclaim with
        | some t => if t + 5000 + s.rd FAB.RECLAIM_GRACE ≤ s.tick then s.endGrant slot else s
        | none => s)

/-! ### RoCE v2 (R551 to R553) -/

/-- The parts of a range of a grant that each lie in one of its tiles: address and length. -/
def Grant.parts (g : Grant) (off len : Nat) : List (Nat × Nat) :=
  (hostPieces tileSize off len).map (fun x => (g.places.getD (x.1 / tileSize) 0 + x.1 % tileSize, x.2))

/-- Bytes written to a grant: FAB's port takes them, and a tier mover carries them to HBM (R30, R31, R277). -/
def Grant.write (g : Grant) (off : Nat) (data : List Byte) (s : State) : State :=
  ((g.parts off data.length).foldl (fun (q : List Byte × State) x =>
    (q.1.drop x.2, (q.2.throughPort 1 x.1 x.2 false).store x.1 (q.1.take x.2))) (data, s)).2

/-- A peer's read of its grant: a tier mover carries the bytes to FAB's port, each part is counted and may meet an error of its stack
(R30, R31, R277, R633), and the read is answered. -/
def State.readGrant (slot off len : Nat) (g : Grant) (s : State) : State :=
  let r := (g.parts off len).foldl (fun (q : List Byte × State) x =>
    (q.1 ++ s.dpaRead x.1 x.2, (((q.2.countRead x.1 x.2).throughPort 1 x.1 x.2 true).eccRead 0x01 x.1 0x7F).2)) ([], s)
  r.2.emit (.rdma slot 2 off len r.1)

/-- A fill of the window of a memory-class guest, which is filled like a peer's (R211, R273): posted writes over C3 of MAX_PKT bytes at
most; what lies beyond the window's declared size is discarded and counted (R44). -/
def State.fillGuest (off : Nat) (data : List Byte) (s : State) : State :=
  if s.part ≠ .pmx7241 ∨ s.deadAt guestBase 1 then s
  else (hostPieces s.guest.maxPkt off data.length).foldl (fun (t : State) p =>
    if p.1 + p.2 ≤ t.guest.winSize then t.trySend (.write (guestBase + p.1) ((data.drop (p.1 - off)).take p.2))
    else t.inc (CL.WIN_ERR_CNT 3)) s

/-- RDMA_WRITE (R552, R570): a fill of the memory lent to a peer, refused from the tick of the RECLAIM on; or a fill this
device sends to a window it has borrowed, which accepts none once it is being reclaimed (R271). The table's one fill command also fills
the window of a memory guest, which slot 64 names (R273; DESIGN CHOICE, log entry 110). -/
def execRdmaWrite (slot off : Nat) (incoming : Bool) (data : List Byte) (s : State) : Host.Outcome State Fault Refusal :=
  .next (
    if slot = 64 then (if incoming then s else s.fillGuest off data)
    else match mapFind s.fab.peers slot with
    | none => s
    | some q =>
      if !s.fabUp then s
      else if incoming then
        (match q.grant with
         | none => s.emit (.roceAck slot false)
         | some g =>
           if g.reclaim.isNone ∧ off + data.length ≤ g.places.length * tileSize then
             (g.write off data s).emit (.roceAck slot true)
           else s.emit (.roceAck slot false))
      else if s.borrowState slot = 1 ∧ off + data.length ≤ q.borrowed * tileSize then
        s.emit (.rdma slot 1 off data.length data)
      else s)

/-- RDMA_READ (R552, R570): a read of the memory lent to a peer, served until the key is revoked; or a read this device sends. -/
def execRdmaRead (slot off len : Nat) (incoming : Bool) (s : State) : Host.Outcome State Fault Refusal :=
  .next (
    match mapFind s.fab.peers slot with
    | none => s
    | some q =>
      if !s.fabUp then s
      else if incoming then
        (match q.grant with
         | none => s.emit (.roceAck slot false)
         | some g =>
           if off + len ≤ g.places.length * tileSize then s.readGrant slot off len g
           else s.emit (.roceAck slot false))
      else if (s.borrowState slot = 1 ∨ s.borrowState slot = 2) ∧ off + len ≤ q.borrowed * tileSize then
        s.emit (.rdma slot 0 off len [])
      else s)

/-- The ACK timeout of the queue pair to a peer, in ticks: 4.096 µs × 2^ACK_TIMEOUT of its port (Table FAB-3). -/
def State.ackTicks (s : State) (slot : Nat) : Nat :=
  ceilDiv (4096 * 2 ^ s.rd (ETH.ACK_TIMEOUT (s.rd (FAB.PEER_STAT_PORT slot)))) 1000

/-- ROCE_ACK_TIMEOUT (R551, R553): no acknowledgement for the ACK timeout; a retry, and with RETRY_CNT of them used the peer is treated as
left. -/
def execRoceAckTimeout (slot : Nat) (s : State) : Host.Outcome State Fault Refusal :=
  .next (
    match mapFind s.fab.peers slot with
    | none => s
    | some q =>
      if s.tick < q.retryTick + s.ackTicks slot then s
      else if q.retries < s.rd (ETH.RETRY_CNT (s.rd (FAB.PEER_STAT_PORT slot))) then
        s.modPeer slot (fun x => { x with retries := x.retries + 1, retryTick := s.tick })
      else s.depart slot)

/-- CNP (R551): the sending rate is halved. -/
def execCnp (slot : Nat) (s : State) : Host.Outcome State Fault Refusal :=
  .next (s.modPeer slot (fun q => { q with rate := q.rate / 2, rateTick := s.tick }))

/-- ROCE_RATE_RAISE (R551): 55 ticks without a CNP raise the rate by 1 Gb/s, to the port's 25 Gb/s at most. -/
def execRoceRateRaise (slot : Nat) (s : State) : Host.Outcome State Fault Refusal :=
  .next (
    match mapFind s.fab.peers slot with
    | none => s
    | some q =>
      if q.rateTick + 55 ≤ s.tick then
        s.modPeer slot (fun x => { x with rate := clampNat 0 25000 (x.rate + 1000), rateTick := s.tick })
      else s)

end Sys2Proof.Machine
end

