-- ==== Sys2Proof/Machine/Work.lean ====
section
/-! DEFINITION. Workspaces and the scheduler's commands: doorbells, cancels, the admission of a tick and the decision on one
head descriptor, shares, dispatch, latest starts, deadlines, interrupt moderation and the state audit (R283 to R319). -/

namespace Sys2Proof.Machine

/-! ### Doorbells and cancels (R283, R287, R288, R291, R295) -/

/-- A workspace page takes doorbells: READY or ACTIVE (R283); while the device is below AWAKE or entering a sleep state, a
page that is OFF with ENABLE = 1 latches them (Table TCK-8, R663). -/
def State.takesDoorbell (s : State) (w : Nat) : Bool :=
  (s.bst (pgWs w)).up
    || ((decide (2 ≤ s.pm) || s.pwr.entry.isSome) && (s.bst (pgWs w) == .off) && s.on (HDR.BLK_CTRL_ENABLE (pgWs w)))

/-- The tail write of a doorbell that is taken: newly pending descriptors take this tick as their submit tick, and source
64 + n / 4 fires, once for the tail writes of one ring in a tick (R287). -/
def State.ring (w r tail : Nat) (s : State) : State :=
  let s := s.wr (WS.RING_TAIL w r) tail
  let n := s.ringPending w r
  let old := s.submits w r
  let s := s.setSubmits w r (old.take n ++ List.replicate (n - old.length) s.tick)
  let k := regKey (pgWs w) (0x140 + 4 * r)
  if (mapFind s.bus.hot k).isSome then s
  else ({ s with bus := { s.bus with hot := mapInsert s.bus.hot k 0 } } : State).fire (64 + w / 4) (2 ^ (w % 4))

/-- A write to RING_TAIL (R283, R287, R291, R295). -/
def State.doorbell (w r tail : Nat) (s : State) : State :=
  if !s.takesDoorbell w then s.reject (pgWs w)
  else if s.on (WS.CPL_CFG_LOC w) && !s.shadowOk w then (s.reject (pgWs w)).setW1c (WS.CPL_STAT_SHADOW_BAD w) 1
  else if s.ringSize w r ≤ tail then s.inc (WS.DB_ERR_CNT w)
  else s.ring w r tail

/-- DOORBELL (R287): carried out in every power state once boot has ended; it leaves DOZE (R126). -/
def execDoorbell (rq : Requester) (ws ring tail : Nat) (s : State) : Host.Outcome State Fault Refusal :=
  .next (
    if ws < 64 ∧ ring < 4 ∧ rqReaches rq (pgWs ws) then
      (if s.booted then s.leaveDoze.doorbell ws ring (tail % 4096) else s.access rq (pgWs ws) id)
    else s)

/-- The effect of a write of CANCEL: the rings named are cancelled before the admission of the next tick; what an
earlier tick cancelled is withdrawn by then (R288). -/
def State.cancel (w rings : Nat) (s : State) : State :=
  (setBitsBelow 4 rings).foldl (fun t r => t.setSch { t.sch with cancels := mapInsert t.sch.cancels (ringKey w r) t.tick })
    s.applyCancels

/-- CANCEL (R288). -/
def execCancel (rq : Requester) (ws rings : Nat) (s : State) : Host.Outcome State Fault Refusal :=
  .next (if ws < 64 then s.access rq (pgWs ws) (State.cancel ws rings) else s)

/-! ### Admission (R297, R298) -/

/-- ADMISSION (R298): every head descriptor is decided, in the order of R297. -/
def execAdmission (s : State) : Host.Outcome State Fault Refusal := .next s.admission

/-- The decision on the head descriptor of one ring, if it carries the opcode. -/
def State.decideOne (w r op : Nat) (s : State) : State :=
  let s := s.applyCancels
  if s.admitting then
    (match s.head w r with
     | some d => if d.op = op then (s.decideHead w r d).2 else s
     | none => s)
  else s

/-- NOP (R290, Table WK-2). -/
def execNop (ws ring : Nat) (s : State) : Host.Outcome State Fault Refusal := .next (s.decideOne ws ring opNop)
/-- RUN (R298, R300). -/
def execRun (ws ring : Nat) (s : State) : Host.Outcome State Fault Refusal := .next (s.decideOne ws ring opRun)
/-- ALLOC (R246 to R257, R292, R665, R666). -/
def execAlloc (ws ring : Nat) (s : State) : Host.Outcome State Fault Refusal := .next (s.decideOne ws ring opAlloc)
/-- FREE (R292). -/
def execFree (ws ring : Nat) (s : State) : Host.Outcome State Fault Refusal := .next (s.decideOne ws ring opFree)
/-- LOAD_PLAN (R349 to R356). -/
def execLoadPlan (ws ring : Nat) (s : State) : Host.Outcome State Fault Refusal :=
  .next (s.decideOne ws ring opLoadPlan)
/-- DMA_IN (R580, R582). -/
def execDmaIn (ws ring : Nat) (s : State) : Host.Outcome State Fault Refusal := .next (s.decideOne ws ring opDmaIn)
/-- DMA_OUT (R580, R582). -/
def execDmaOut (ws ring : Nat) (s : State) : Host.Outcome State Fault Refusal := .next (s.decideOne ws ring opDmaOut)
/-- FLUSH (R246, R292). -/
def execFlush (ws ring : Nat) (s : State) : Host.Outcome State Fault Refusal := .next (s.decideOne ws ring opFlush)

/-- EVICTION_WRITEBACK_DONE (R253): the evicted copy is in its home tier; its slot is free and goes to the request that
needs it. -/
def execEvictionWritebackDone (slot : Nat) (s : State) : Host.Outcome State Fault Refusal :=
  .next (
    match mapFind s.ck.slots slot with
    | none => s
    | some e =>
      if !e.writeback then s
      else
        let s := s.writeHome slot
        let s := if s.ck.fetches.any (fun f => decide (f.2.waitSlot = some slot)) then (s.eraseSlot slot).giveSlot slot e.borrowed
          else match e.waiter with
            | none => s.dropSlot slot
            | some x => match s.req x.1 with
              | none => s.dropSlot slot
              | some r => s.putSlot slot { newSlot r.ws noObj 0 e.tier x.2 true 0 s.tick [x.1] with waiter := some x }
        s.retryWants.retryStores)

/-! ### Shares (R284, R296) -/

/-- The sum of all shares, and of one class. -/
def State.shareSum (s : State) (c : Nat) : Nat := (List.range 64).foldl (fun n w => n + s.share w c) 0
def State.shareTotal (s : State) : Nat := (List.range 4).foldl (fun n c => n + s.shareSum c) 0

/-- SHARE_SUM_A and SHARE_SUM_B follow the shares (Table WK-7). -/
def State.syncShares (s : State) : State :=
  (((s.wr WK_SCHED.SHARE_SUM_A_FRAME (s.shareSum 0)).wr WK_SCHED.SHARE_SUM_A_MAP (s.shareSum 1)).wr
    WK_SCHED.SHARE_SUM_B_LEARN (s.shareSum 2)).wr WK_SCHED.SHARE_SUM_B_BULK (s.shareSum 3)

/-- The effect of a share write: ignored, with OVERCOMMIT, where the sum would exceed 1,000 (R296). -/
def State.shareWrite (w c value : Nat) (s : State) : State :=
  if 1000 < s.shareTotal - s.share w c + value % 1024 then
    (s.setW1c WK_SCHED.SHARE_STAT_OVERCOMMIT 1).wr WK_SCHED.SHARE_STAT_WS w
  else (s.wr (WS.SHARE w c) value).syncShares

/-- SHARE_WRITE (R284, R296). -/
def execShareWrite (rq : Requester) (ws c value : Nat) (s : State) : Host.Outcome State Fault Refusal :=
  .next (
    if ws < 64 ∧ c < 4 then
      s.access rq (pgWs ws) (fun t => t.pfOnly rq (pgWs ws) (State.shareWrite ws c value))
    else s)

/-! ### Dispatch (R213, R238, R270, R299, R302) -/

/-- A unit is free: its block READY or ACTIVE, no running request on it, and its link, if it has one, not retraining (R201). A Loupe
serves many requests at once, from its contexts (R424, log entry 32), and so does the guest, from its work ring, while the entry
at the tail is not in use (R213, log entry 90). -/
def State.unitFree (s : State) (u : Nat) : Bool :=
  (s.bst (pageOfUnit u)).up
    && (u == 8 || u == 9 || u == 16 || !s.sch.reqs.any (fun e => e.2.phase == .running && e.2.claims u))
    && !(decide (u < 8) && s.training (u % 4)) && !(u == 16 && s.training 3)
    && (decide (u ≠ 16) || !s.guest.work.any (fun e => e.place == s.guest.tail))

/-- The order of dispatch: in-share before loans, each in the order of R297 (R299). -/
def Req.dispatchKey (r : Req) : List Nat := b2n r.loan :: r.key

/-- The waiting request first in dispatch order for which p holds. -/
def State.firstWaiting (s : State) (p : Req → Bool) : Option (Nat × Req) :=
  s.sch.reqs.foldl (fun (b : Option (Nat × Req)) e =>
    if e.2.phase = .waiting ∧ e.2.ends = none ∧ p e.2 then
      (match b with
       | none => some e
       | some (k, v) => if lexLt e.2.dispatchKey v.dispatchKey then some e else some (k, v))
    else b) none

/-- The work entry of a request on the guest and its WORK message (R213, Table CLS-11). -/
def State.guestWork (rid : Nat) (r : Req) (s : State) : State :=
  let g := s.guest
  let entry := padTo 56 r.desc ++ leBytes 4 g.nextTag ++ leBytes 1 (r.ws % 64 + 64 * r.ring) ++ leBytes 1 (b2n r.loan)
    ++ leBytes 2 0
  let a := guestBase + 64 * g.tail
  let tail := (g.tail + 1) % 256
  let s := s.setGuest {
    g with
    work := g.work ++ [{ place := g.tail, tag := g.nextTag, rid := rid, disp := s.tick, sent := none, cancelled := false }]
    tail := tail, nextTag := (g.nextTag + 1) % 2 ^ 32 }
  ((s.dpaWrite a entry).trySend (.write a entry)).trySend (.work tail)

/-- A request is dispatched: its units' blocks are ACTIVE, the ports that are free are bound to it, its first step begins, and lent Lockets of
its Facets are reclaimed (R80, R238, R270, R299). -/
def State.start (rid : Nat) (r : Req) (s : State) : State :=
  let s := s.modReq rid (fun q => { q with phase := .running })
  let s := r.pages.foldl (fun (t : State) p => if t.bst p == .ready then t.goto p .active causeSched else t) s
  let s := s.turnPorts (r.unitPorts.filter (fun p => (s.portHolder p).isNone))
  let s := (setBitsBelow 4 (facetsOf r.est)).foldl (fun (t : State) f => t.syncVc f) s
  let s := if r.claims 16 then s.guestWork rid r else s
  (s.syncLent).startStep rid

/-- A unit is a request's now (R299): it is free, and of the waiting requests that claim it this one is first. -/
def State.unitGiven (s : State) (rid u : Nat) : Bool :=
  s.unitFree u && (s.firstWaiting (fun r => r.claims u)).any (fun e => e.1 == rid)

/-- A loan that makes way for an in-share request that waits for a unit it holds; never a FRAME for one whose deadline is later or the
same (Table WK-5). -/
def State.loanYields (s : State) (r q : Req) : Bool :=
  decide (q.phase = .running) && q.loan && r.est.any (fun e => q.claims e.1 && !s.unitFree e.1)
    && !(decide (r.cls = 0) && decide (q.cls = 0) && decide (q.deadline ≤ r.deadline))

/-- DISPATCH (R299, R302): a unit that comes free goes to the first request in order that waits for it, which begins once all its units
have. An in-share request that waits for a unit a loan holds makes the loan yield (Table WK-5). -/
def execDispatch (unit : Nat) (s : State) : Host.Outcome State Fault Refusal :=
  .next (
    let s := match s.firstWaiting (fun r => r.claims unit && !r.loan) with
      | none => s
      | some (_, r) => (mapKeys (fun _ q => s.loanYields r q) s.sch.reqs).foldl (fun t v => t.preempt v false) s
    match s.firstWaiting (fun r => r.claims unit) with
    | none => s
    | some (rid, r) => if r.est.all (fun e => s.unitGiven rid e.1) then s.start rid r else s)

/-- LATEST_START_REACHED (R302): a FRAME or MAP request still waits past its deadline less its remaining estimate; running
requests of the same class with a later deadline, or of a lower class, on the units it needs yield. -/
def execLatestStartReached (rid : Nat) (s : State) : Host.Outcome State Fault Refusal :=
  .next (
    match s.req rid with
    | none => s
    | some r =>
      let rest := r.est.foldl (fun n e => if n < e.2 then e.2 else n) 0
      if r.phase = .waiting ∧ r.ends = none ∧ r.cls ≤ 1 ∧ r.deadline ≠ 0 ∧ r.deadline < s.tick + rest then
        (mapKeys (fun _ q => decide (q.phase = .running) && r.est.any (fun e => q.claims e.1)
          && (decide (r.cls < q.cls) || (decide (q.cls = r.cls) && (decide (q.deadline = 0) || decide (r.deadline < q.deadline)))))
          s.sch.reqs).foldl (fun t v => t.preempt v false) s
      else s)

/-- DEADLINE_MISSED (R309): a FRAME request not ended by the end of its deadline tick ends in the next. -/
def execDeadlineMissed (rid : Nat) (s : State) : Host.Outcome State Fault Refusal :=
  .next (
    match s.req rid with
    | none => s
    | some r => if r.cls = 0 ∧ r.deadline < s.tick then s.endReq rid ocDeadlineMissed 0 else s)

/-- IRQ_MODERATION_EXPIRY (R319): MODERATE ticks after an interrupt, one held back is raised. -/
def execIrqModerationExpiry (ws : Nat) (s : State) : Host.Outcome State Fault Refusal :=
  .next (
    match mapFind s.sch.moder ws with
    | none => s
    | some (t, held) =>
      if s.tick < t then s
      else
        let s := s.setSch { s.sch with moder := mapErase s.sch.moder ws }
        if held then s.cplIrq ws else s)

/-! ### The audit (R312 to R317) -/

/-- A page is examined by the audit: READY, ACTIVE or DRAINING, clocked, its last transition more than 16 ticks old; in
DOZE only blocks with CLK_REQ = 1 are clocked (R125, R313). -/
def State.examined (s : State) (page : Nat) : Bool :=
  (s.bst page).live && (s.awake || s.on (HDR.BLK_CTRL_CLK_REQ page)) && decide ((s.blk page).entry + 16 < s.tick)

/-- A page that mismatches at two consecutive audits is fenced; an HBM controller is a device fault (R29, R314, R315). -/
def State.auditFence (page : Nat) (s : State) : State :=
  let hbm := decide (0x0A0 ≤ page) && decide (page ≤ 0x0A3)
  let (q, s) := s.detect 0x13 (if hbm then 3 else 2) page 0xFFFF 0x7F none
  let s := (s.fence page causeAudit ocUnitOffline (some q)).inc WK_SCHED.AUDIT_FENCE_CNT
  let f := page - 0x020
  if 0x020 ≤ page ∧ page ≤ 0x023 ∧ !s.isGuestLink f then s.fence (pgFct f 0) causeAudit ocUnitOffline (some q) else s

/-- One page of an audit (R313). -/
def State.auditPage (diverged : List Nat) (page : Nat) (s : State) : State :=
  let b := s.blk page
  if !s.examined page then s.setBlk page { b with mism := 0 }
  else if diverged.contains page || (s.on WK_SCHED.AUDIT_INJ_EN && decide (s.rd WK_SCHED.AUDIT_INJ_PAGE = page)) then
    let s := (s.inc WK_SCHED.AUDIT_MISMATCH_CNT).wr WK_SCHED.AUDIT_LAST_PAGE page
    let s := s.setBlk page { b with mism := b.mism + 1 }
    if 2 ≤ b.mism + 1 then s.auditFence page else s
  else s.setBlk page { b with mism := 0 }

/-- STATE_AUDIT (R313 to R317): `diverged` names the pages whose data path reports another state, or has refreshed no
report for more than 16 ticks. What the GSEs do at the start of a tick comes after its audit (R316; log entry 3). -/
def execStateAudit (diverged : List Nat) (s : State) : Host.Outcome State Fault Refusal :=
  .next (
    if decide (s.tick % 100 = 0) && decide (s.sch.audited < s.tick) then
      let t := s.setSch { s.sch with audited := s.tick }
      let t := if decide (s.pm ≤ 1) && !(s.on WK_SCHED.AUDIT_DIS && !s.sentinel) then
          (auditedPages.filter (pagePresent s.part)).foldl (fun t p => t.auditPage diverged p) t
        else t
      if s.stage = 8 then t.rowsTick else t
    else s)

end Sys2Proof.Machine
end

