-- ==== Sys2Proof/Machine/Ports.lean ====
section
/-! DEFINITION. The ports: host interface and DMA, NVMe, cameras, sensor SPI and boot flash, sigma-delta clocks, the frame
faults of the management SPI, and the test access port (R579 to R618). -/

namespace Sys2Proof.Machine

/-- The state with the ports' record replaced. -/
def State.setIo (i : Io) (s : State) : State := { s with io := i }

/-! ### Host interface (R580 to R584, R295) -/

/-- A DMA ends with an error (R582). -/
def State.dmaError (rid : Nat) (s : State) : State :=
  ((s.inc HIF.DMA_ERR_CNT).raiseIrq 0x090 1).endReq rid ocTierFailed 0

/-- The tile that data of a DMA_IN makes: the old tile's shape where the data fill it, else one row of bytes. -/
def State.dmaTile (rid w id i : Nat) (b : List Byte) (s : State) : Need × State :=
  let h := hdrOf ((s.freshTile w id i).getD [])
  if h.tag = tileTag ∧ h.len = b.length ∧ hdrRangesOk h then
    s.putTile rid w id i h.format h.layout h.dim0 h.dim1 h.pitch (h.flags % 16) h.aux b
  else s.putTile rid w id i 0x0C 7 1 b.length b.length 0 [] b

/-- The address a DMA with CTRL.ADDR = 1 names, whose bytes move as they lie there (R248, Table WK-1). -/
def dmaAddr (r : Req) : Option Nat := if 2 ^ 64 ≤ r.objA then some (r.objA % 2 ^ 64) else none

/-- The bytes of a DMA_IN whose data have all arrived: the payloads of its object's tiles, in order, or the bytes at its
address, by way of the Casket. -/
def State.dmaStore (rid : Nat) (r : Req) (s : State) : Need × State :=
  match dmaAddr r with
  | some a => (.here, (regionPieces a r.count).foldl (fun (t : State) x =>
      (t.throughPort (portQuad 48) x.1 x.2 false).storeFrom (portQuad 48) x.1 ((r.buf.drop (x.1 - a)).take x.2)) s)
  | none => ((chunksOf 32704 (r.count + 1) (r.buf.take r.count)).zipIdx).foldl (fun (q : Need × State) c =>
    match q.1 with
    | .here => q.2.dmaTile rid r.ws r.objA c.2 c.1
    | _ => q) (.here, s)

/-- The bytes at addresses of one region that a DMA_OUT reads (R104, R582): in the Casket or HBM as they lie there, of the host and
flash windows as host memory and namespace 1 hold them; what a peer holds is a free value. -/
def State.bytesAt (a n : Nat) (s : State) : List Byte × State :=
  match regionOf s.part a with
  | .hbm => (s.dpaRead a n, s)
  | .casket => (s.dpaRead a n, s)
  | .host => (s.hostRead (a - hostBase) n, s)
  | .flash => (s.nvmeRead (a - flashBase) n, s.inc64 NVP.RD_BYTES_LO NVP.RD_BYTES_HI n)
  | _ => s.freeBytes n

/-- An access to the guest's window that reaches past its declared size is counted (R44). -/
def State.pastWindow (upTo : Nat) (s : State) : State := if s.guest.winSize < upTo then s.inc (CL.WIN_ERR_CNT 3) else s

/-- The parts of a range that hold no uncorrectable word as they are read, or the report of the first that does (R633). -/
def State.eccPieces (w : Nat) (l : List (Nat × Nat)) (s : State) : Option Nat × State :=
  l.foldl (fun (q : Option Nat × State) x => if q.1.isSome then q else q.2.eccRead 0x01 x.1 w) (none, s)

/-- The bytes of a DMA's parts, in order, by way of the Casket and the DMA's stream port (R31, R582). -/
def State.piecesAt (l : List (Nat × Nat)) (s : State) : List Byte × State :=
  l.foldl (fun (z : List Byte × State) x =>
    let r := ((z.2.throughPort (portQuad 48) x.1 x.2 true).readTo (portQuad 48) x.1 x.2).bytesAt x.1 x.2
    (z.1 ++ r.1, r.2)) ([], s)

/-- A DMA's parts are read; an uncorrectable word in them ends it with FAULT_DETECTED (R633). -/
def State.dmaPieces (rid w : Nat) (l : List (Nat × Nat)) (s : State) : Option (List Byte) × State :=
  match s.eccPieces w l with
  | (some q, t) => (none, t.endFor (some q) rid ocFaultDetected 0)
  | (none, t) => match t.piecesAt l with
    | (b, u) => (some b, u)

/-- The bytes of a DMA_OUT: the payload of its object, once in place, or those at its address, region by region and by way of the
Casket, where every part is still backed (R104) and the guest's reads have all come (R44, R211). An uncorrectable word in what is
read ends the request with FAULT_DETECTED (R633). -/
def State.dmaLoad (rid : Nat) (r : Req) (s : State) : Option (List Byte) × State :=
  match dmaAddr r with
  | some a =>
    let l := regionPieces a r.count
    if l.any (fun x => s.deadAt x.1 x.2) then (none, s.endReq rid ocTierFailed 0)
    else if r.guestRead.isSome then
      (match s.dmaGuest r with
       | some b => (some b, (s.throughPort (portQuad 48) a r.count true).pastWindow (a - guestBase + r.count))
       | none => (none, s))
    else s.dmaPieces rid r.ws l
  | none =>
    if !s.objReady r.ws r.objA then (none, s)
    else
      match s.useObj rid r.ws r.objA with
      | (.here, s) => (some ((s.objPayload r.ws r.objA).take r.count), s)
      | (_, s) => (none, s)

/-- A DMA that has moved all its bytes ends. -/
def State.dmaDone (rid : Nat) (r : Req) (s : State) : State :=
  (s.inc64 HIF.DMA_BYTES_LO HIF.DMA_BYTES_HI r.count).endReq rid (finalOutcome r.cls r.deadline s.tick r.overload) r.causeBits

/-- DMA_COMPLETION (R582, R291): a completion for a DMA request, with the data of its reads; from 2^32 on the number names a
ring, 4 × workspace + ring, whose descriptor fetch has failed. -/
def execDmaCompletion (rid : Nat) (st : BusStatus) (data : List Byte) (s : State) : Host.Outcome State Fault Refusal :=
  .next (
    if 2 ^ 32 ≤ rid then
      (let w := (rid - 2 ^ 32) / 4
       let r := rid % 4
       if w < 64 ∧ s.on (WS.RING_CFG_LOC w r) ∧ st ≠ .ok ∧ 0 < s.ringPending w r then
         (s.setW1c (WS.RING_CFG_STOPPED w r) 1).raiseIrq (pgWs w) 1
       else s)
    else match s.req rid with
      | none => s
      | some r =>
        if !r.hostOut then s
        else
          let inj := s.on HIF.INJ_DMA_ERR
          let s := if inj then s.wr HIF.INJ_DMA_ERR 0 else s
          if inj ∨ st ≠ .ok then
            (if r.op = opDmaOut then
               (let (b, s) := s.freeBytes r.count
                (s.hostWrite r.ws r.objB b).dmaError rid)
             else s.dmaError rid)
          else if r.op = opDmaOut then
            (match s.dmaLoad rid r with
             | (some b, s) => (s.hostWrite r.ws r.objB b).dmaDone rid r
             | (none, s) => s)
          else
            let r := { r with buf := r.buf ++ data }
            let s := s.modReq rid (fun q => { q with buf := r.buf })
            if r.buf.length < r.count then s
            else State.needThen rid (s.dmaStore rid r) (fun t => t.dmaDone rid r))

/-- A field of a workspace page that only the physical function writes: SHARE and the grant windows (R284). -/
def wsPfWord (off : Nat) : Bool := decide (0x180 ≤ off) && decide (off < 0x1D0)

/-- An FLR of one workspace (R583). -/
def State.flrWs (w : Nat) (s : State) : State :=
  let page := pgWs w
  let mine := (s.sch.reqs.filter (fun e => decide (e.2.ws = w)))
  let s := mine.foldl (fun (t : State) e => (((t.guestCancel e.1).dropLoad e.2).dropReq e.1 e.2).inc HIF.FLR_ABANDONED_CNT) s
  let gone := (s.ck.objs.filter (fun o => decide (o.ws = w) && (match o.freedBy with
    | some f => mine.any (fun e => e.1 == f)
    | none => false))).map (·.id)
  let s := gone.foldl (fun (t : State) id => t.releaseObj w id) s
  let s := s.setSch { s.sch with
    submits := s.sch.submits.filter (fun e => e.1 / 4 != w)
    overloaded := s.sch.overloaded.filter (fun k => k / 4 != w)
    cancels := s.sch.cancels.filter (fun e => e.1 / 4 != w)
    moder := mapErase s.sch.moder w
    held := s.sch.held.filter (fun e => e.1 != w)
    reserved := mapErase s.sch.reserved w }
  let s := s.goto page .off causeSoftware
  { s with
    regs := s.regs.filter (fun e => e.1 / 1024 != page || wsPfWord (e.1 % 1024 * 4))
    bus := { s.bus with
      armed := s.bus.armed.filter (fun e => e.1 % 1024 != page)
      latch := s.bus.latch.filter (fun e => e.1 / 1024 % 1024 != page)
      stage := s.bus.stage.filter (fun e => e.1 / 1024 % 1024 != page) } }

/-- FLR (R583): of function n, on workspace n; of the physical function, on all 64, with SR-IOV disabled. -/
def execFlr (fn : Nat) (s : State) : Host.Outcome State Fault Refusal :=
  .next (
    if 64 ≤ fn then s
    else
      let s := s.inc HIF.FLR_CNT
      if fn = 0 then
        (let s := (List.range 64).foldl (fun (t : State) w => t.flrWs w) s
         (s.wr HIF.NUM_VFS 0).setIo { s.io with vfOn := 0 })
      else s.flrWs fn)

/-- Fetches from the host fail. -/
def State.hostFetchesFail (s : State) : State :=
  (mapKeys (fun _ f => decide (f.tier = 4) && !f.lent) s.ck.fetches).foldl (fun t fid => t.failFetch fid ocTierFailed none) s

/-- HIF_LINK_DOWN (R584): after HOST_READY with PERST_N high, it is counted and requests with a host access outstanding end. -/
def execHifLinkDown (s : State) : Host.Outcome State Fault Refusal :=
  .next (
    if !s.boot.linkUp then s
    else
      let s : State := { s with boot := { s.boot with linkUp := false } }
      let s := ((s.wr HIF.LINK_STAT_SPEED 0).wr HIF.LINK_STAT_WIDTH 0).wr HIF.LINK_STAT_FLIT 0
      if s.boot.perstHigh && s.stage == 8 then
        (((s.inc HIF.LINK_DOWN_CNT).raiseIrq 0x090 0).endWhere none (fun _ r => r.hostOut) ocTierFailed 0).hostFetchesFail
      else s)

/-- Records held in shadows go to host memory, in order (R295); one whose shadow holds an uncorrectable word does not go (R633; DESIGN
CHOICE, log entry 107). -/
def State.sendHeld (s : State) : State :=
  let l := s.sch.held
  let s := l.foldl (fun (t : State) e =>
    (if t.shadowOk e.1 then
       (match t.blockRead 0x090 (t.rd64 (WS.CPL_SHADOW_BASE_LO e.1) (WS.CPL_SHADOW_BASE_HI e.1) + 32 * e.2) 32 with
        | (some b, t) => t.hostWrite e.1 (t.cplBase e.1 + 32 * e.2) b
        | (none, t) => t)
     else t).wr (WS.CPL_STAT_HELD e.1) 0) s
  s.setSch { s.sch with held := [] }

/-- HIF answers after a boot error with this code and unit (Table BOOT-5). -/
def hifAnswers (code unit : Nat) : Bool :=
  !(code == 0x01 || code == 0x0D || code == 0x0E || (code == 0x02 && (unit == 0x3F8 || unit == 0x3FB)))

/-- The HIF link may train: PERST_N is high, boot has passed CLOCKS, and no boot error keeps the link down (R167, R182). -/
def State.hifMayTrain (s : State) : Bool :=
  ((decide (2 ≤ s.stage) && decide (s.stage ≤ 8))
    || (decide (s.stage = 0xF) && hifAnswers (s.rd DEV.BOOT_ERR) (s.rd DEV.BOOT_UNIT)))
    && decide (s.boot.perstRel ≤ s.tick) && !s.pwr.tripped

/-- HIF_LINK_UP (R182, R295): the trained link carries traffic from now on. -/
def execHifLinkUp (s : State) : Host.Outcome State Fault Refusal :=
  .next (
    if s.hifMayTrain && s.on HIF.LINK_STAT_SPEED && s.boot.perstHigh && !s.boot.linkUp then
      ({ s with boot := { s.boot with linkUp := true } } : State).sendHeld
    else s)

/-! ### NVMe (R586 to R591) -/

/-- CTRL_STATE codes (Table PRT-11). -/
def nvDown : Nat := 0
def nvInit : Nat := 1
def nvReady : Nat := 2
def nvFailed : Nat := 3

/-- Initialisation begins (R587). -/
def State.nvpStart (s : State) : State :=
  (s.wr NVP.NVP_STAT_CTRL_STATE nvInit).setIo { s.io with nvpSince := s.tick, nvpTimeouts := 0 }

/-- Initialisation ends once NVP_PERST_N has been high as long as the SSD takes: 1 ms, and the ticks it needs (R587). -/
def State.nvpInitEnds (s : State) : State :=
  match s.io.ssd with
  | none => s
  | some d =>
    if s.rd NVP.NVP_STAT_CTRL_STATE = nvInit ∧ s.io.nvpSince + 1000 + d.ticks ≤ s.tick then
      let s := ((s.wr NVP.NVP_STAT_CTRL_STATE nvReady).wr NVP.NVP_STAT_SPEED d.speed).wr NVP.NVP_STAT_WIDTH d.width
      (s.wr NVP.LBA_LOG2 d.lbaLog2).wr64 NVP.NS_BYTES_LO NVP.NS_BYTES_HI d.bytes
    else s

/-- NVP_INIT_TIMEOUT (R587). -/
def execNvpInitTimeout (s : State) : Host.Outcome State Fault Refusal :=
  .next (
    if s.rd NVP.NVP_STAT_CTRL_STATE = nvInit ∧ s.io.nvpSince + 2000000 ≤ s.tick then
      (s.wr NVP.NVP_STAT_CTRL_STATE nvFailed).raiseIrq 0x091 0
    else s)

/-- The port stops: CTRL_STATE reads DOWN. -/
def State.nvpStop (s : State) : State :=
  ((s.wr NVP.NVP_STAT_CTRL_STATE nvDown).wr NVP.NVP_STAT_SPEED 0).wr NVP.NVP_STAT_WIDTH 0

/-- A fetch reads the flash window. -/
def State.flashFetch (s : State) (f : Fetch) : Bool :=
  match regionOf s.part f.src with
  | .flash => true
  | _ => false

/-- An error status is recorded. -/
def State.nvmeError (st : BusStatus) (s : State) : State :=
  match st with
  | .errorStatus c => (s.inc NVP.ERR_STATUS_CNT).wr NVP.LAST_STATUS c
  | _ => s

/-- NVME_COMPLETION (R588, R590, Table PRT-11 INJ_TIMEOUT): of a Read; its tile is installed, or its fetch fails. -/
def execNvmeCompletion (fetch : Nat) (st : BusStatus) (data : List Byte) (s : State) : Host.Outcome State Fault Refusal :=
  match mapFind s.ck.fetches fetch with
  | none => .next s
  | some f =>
    if !s.flashFetch f || decide (s.rd NVP.NVP_STAT_CTRL_STATE ≠ nvReady) then .next s
    else if s.on NVP.INJ_TIMEOUT then .next (s.wr NVP.INJ_TIMEOUT 0)
    else
      let s := s.setIo { s.io with nvpTimeouts := 0 }
      if st = .ok then execTileInstall fetch data s
      else .next ((s.nvmeError st).failFetch fetch ocTierFailed none)

/-- The controller is reset: every outstanding fetch fails, and initialisation runs again (R590). -/
def State.nvpReset (s : State) : State :=
  let s := (mapKeys (fun _ f => s.flashFetch f) s.ck.fetches).foldl (fun t fid => t.failFetch fid ocTierFailed none) s
  s.nvpStart

/-- A command of the controller has had no completion in time; the third in a row resets the controller (R590). -/
def State.nvpTimedOut (s : State) : State :=
  let n := s.io.nvpTimeouts + 1
  let s := (s.inc NVP.TIMEOUT_CNT).setIo { s.io with nvpTimeouts := n }
  if 3 ≤ n then s.nvpReset else s

/-- NVP_TIMEOUT (R590): NVP_TIMEOUT ms without a completion; the third in a row resets the controller. -/
def execNvpTimeout (fetch : Nat) (s : State) : Host.Outcome State Fault Refusal :=
  .next (
    match mapFind s.ck.fetches fetch with
    | none => s
    | some f =>
      if s.flashFetch f && decide (s.rd NVP.NVP_STAT_CTRL_STATE = nvReady)
          && decide (f.issue + 1000 * atLeast1 (s.rd NVP.NVP_TIMEOUT) ≤ s.tick) then
        (s.failFetch fetch ocTierFailed none).nvpTimedOut
      else s)

/-- The effect of a write of WR_CMD.START (R589, R590); bits [14:0] of WR_SRC are taken as 0 (R657). -/
def State.wrCmd (s : State) : State :=
  let src := s.rd64 NVP.WR_SRC_LO NVP.WR_SRC_HI / tileSize * tileSize
  let dst := s.rd64 NVP.WR_DST_LO NVP.WR_DST_HI
  let n := s.rd NVP.WR_TILES
  let len := (if 1 ≤ n ∧ n ≤ 256 then n else 1) * tileSize
  if s.io.nvpWrite.isSome then s.reject 0x091
  else if s.rd NVP.NVP_STAT_CTRL_STATE = nvReady ∧ dst % tileSize = 0 ∧ inCasket src len
      ∧ dst + len ≤ s.rd64 NVP.NS_BYTES_LO NVP.NS_BYTES_HI then
    ((s.wr NVP.WR_STAT_RESULT 1).setIo { s.io with nvpWrite := some { op := 0, flash := dst, casket := src, len := len, since := s.tick } }).emit
      (.nvme true dst len)
  else s.wr NVP.WR_STAT_RESULT 3

/-- WR_CMD (R589). -/
def execWrCmd (rq : Requester) (s : State) : Host.Outcome State Fault Refusal :=
  .next (s.access rq 0x091 State.wrCmd)

/-- T1 copies of tiles whose home lies in a range of the flash are dropped (R589). -/
def State.dropFlashCopies (off len : Nat) (s : State) : State :=
  (mapKeys (fun _ e => e.copy && (match s.homeAddr e.ws e.obj e.tile with
    | some h => decide (flashBase + off ≤ h) && decide (h < flashBase + off + len)
    | none => false)) s.ck.slots).foldl (fun t a => t.dropSlot a) s

/-- A flash write that fails leaves free bytes in its range. -/
def State.flashWriteFails (o : FlashOp) (s : State) : State :=
  let (b, s) := s.freeBytes o.len
  (s.nvmeWrite o.flash b).wr NVP.WR_STAT_RESULT 3

/-- A flash write ends, well or not (R589). -/
def State.flashWriteEnds (o : FlashOp) (s : State) : State := ((s.raiseIrq 0x091 1).fire 61 0).dropFlashCopies o.flash o.len

/-- What a flash write's last completion does: the bytes of the Casket reach the namespace; an error status is recorded, and an
uncorrectable word in what is read fails the write (R589, R590, R633). -/
def State.flashWriteLast (o : FlashOp) (st : BusStatus) (s : State) : State :=
  let s := s.setIo { s.io with nvpWrite := none, nvpTimeouts := 0 }
  if st = .ok then
    (match s.blockRead 0x091 o.casket o.len with
     | (some d, s) => (s.nvmeWrite o.flash d).wr NVP.WR_STAT_RESULT 2
     | (none, s) => s.flashWriteFails o)
  else (s.nvmeError st).flashWriteFails o

/-- FLASH_WRITE_DONE (R589, R590): the write ends; with no completion within NVP_TIMEOUT ms it is aborted. -/
def execFlashWriteDone (st : BusStatus) (s : State) : Host.Outcome State Fault Refusal :=
  .next (
    match s.io.nvpWrite with
    | none => s
    | some o =>
      if st = .timeout then
        (if o.since + 1000 * atLeast1 (s.rd NVP.NVP_TIMEOUT) ≤ s.tick then
           (((s.setIo { s.io with nvpWrite := none }).flashWriteFails o).flashWriteEnds o).nvpTimedOut
         else s)
      else if s.on NVP.INJ_TIMEOUT then s.wr NVP.INJ_TIMEOUT 0
      else (s.flashWriteLast o st).flashWriteEnds o)

/-! ### Cameras (R592 to R596) -/

/-- A CSI page works. -/
def State.csiUp (s : State) (n : Nat) : Bool := decide (n < 8) && (s.bst (pgCsi n)).up

/-- A CSI page takes the packets of frames in capture: it works, or drains (R80, R595). -/
def State.csiTakes (s : State) (n : Nat) : Bool := decide (n < 8) && ((s.bst (pgCsi n)).up || (s.bst (pgCsi n) == .draining))

/-- Elements of a line, and bytes of an element, by data type; none for a type not supported (Table PRT-4, R593). -/
def dtShape (dt : Nat) : Option (Nat × Nat) :=
  if dt = 0x2A then some (1, 1) else if dt = 0x1E then some (2, 1) else if dt = 0x24 then some (3, 1)
  else if 0x2B ≤ dt ∧ dt ≤ 0x2D then some (1, 2) else none

/-- Elements of a line of a stream, bytes of an element. -/
def State.strShape (s : State) (n k : Nat) : Nat × Nat :=
  let (e, b) := (dtShape (s.rd (CSI.STR_CFG_DT n k))).getD (1, 1)
  (e * s.rd (CSI.FRAME_SIZE_WIDTH n k), b)

/-- PITCH of a stream's buffers, and L, the lines of a tile. -/
def State.strPitch (s : State) (n k : Nat) : Nat := roundUp ((s.strShape n k).1 * (s.strShape n k).2) 64
def State.strLines (s : State) (n k : Nat) : Nat := 32704 / s.strPitch n k

/-- Buffers of a stream. -/
def State.strBufs (s : State) (n k : Nat) : Nat :=
  let v := s.rd (CSI.STR_CFG_NBUF n k)
  if 2 ≤ v ∧ v ≤ 8 then v else 2

/-- Address of a buffer; bits [14:0] of the base are 0. -/
def State.bufAddr (s : State) (n k i : Nat) : Nat :=
  s.rd64 (CSI.BUF_BASE_LO n k) (CSI.BUF_BASE_HI n k) / tileSize * tileSize + i * s.rd (CSI.BUF_STRIDE n k) * tileSize

/-- A tile of a frame buffer takes its next VERSION (R593, R594); a buffer outside the Casket takes none, as CSI writes into the Casket
only (R31). -/
def State.frameTile (n k buf i : Nat) (payload aux : List Byte) (s : State) : State :=
  let a := s.bufAddr n k buf + i * tileSize
  let w := s.rd (CSI.STR_WS n k)
  let old := hdrOf (s.dpaRead a 64)
  let (e, b) := s.strShape n k
  let pitch := s.strPitch n k
  let h : TileHdr := {
    tag := tileTag, format := (if b = 1 then 0x0C else 0x0B), layout := 0, dim0 := payload.length / atLeast1 pitch, dim1 := e
    pitch := pitch, flags := 0, len := 0, obj := 0, index := i
    version := ((if old.tag = tileTag then old.version else 0) + 1) % 2 ^ 32, ws := w, home := 1, aux := aux, checksum := 0 }
  if s.inGrant w a tileSize false ∧ inCasket a tileSize then s.storeFrom 2 a (tileBytes h payload) else s

/-- A frame's record (Table PRT-5). -/
def frameRecord (c : Capture) (feTick dt : Nat) : List Byte :=
  leBytes 8 c.fsTick ++ leBytes 4 (feTick - c.fsTick) ++ leBytes 2 c.frameNum ++ leBytes 2 c.lines ++ leBytes 2 c.flags
    ++ leBytes 1 c.vc ++ leBytes 1 dt

/-- The key of a stream's capture. -/
def capKey (n k : Nat) : Nat := 4 * n + k

/-- The state with a stream's capture. -/
def State.setCapture (n k : Nat) (c : Option Capture) (s : State) : State :=
  s.setIo { s.io with capture := (match c with
    | some x => mapInsert s.io.capture (capKey n k) x
    | none => mapErase s.io.capture (capKey n k)) }

/-- Tile 0 of a buffer with the lines received in place of the old ones. -/
def State.tileZero (s : State) (n k : Nat) (c : Capture) : List Byte :=
  let full := s.strPitch n k * clampNat 1 (s.strLines n k) (s.rd (CSI.FRAME_SIZE_HEIGHT n k))
  c.tile0 ++ (padTo full (payloadOf (s.dpaRead (s.bufAddr n k c.buf) tileSize))).drop c.tile0.length

/-- A frame ends: tile 0 is committed with its record (R594, R595). -/
def State.endFrame (n k flags : Nat) (s : State) : State :=
  match mapFind s.io.capture (capKey n k) with
  | none => s
  | some c =>
    let c := { c with flags := Nat.lor c.flags flags }
    let s := s.frameTile n k c.buf 0 (s.tileZero n k c) (frameRecord c s.tick (s.rd (CSI.STR_CFG_DT n k)))
    (s.setCapture n k none).settle (pgCsi n) (s.io.capture.any (fun e => decide (e.1 / 4 = n) && decide (e.1 ≠ capKey n k)))

/-- The enabled streams bound to a virtual channel. -/
def State.streamsOf (s : State) (n vc : Nat) : List Nat :=
  (List.range 4).filter (fun k => s.on (CSI.STR_CFG_EN n k) && decide (s.rd (CSI.STR_CFG_VC n k) = vc))

/-- A stream takes its next buffer for a frame that began in a tick, or drops the frame whole while that buffer is held (R594, R596). -/
def State.startFrame (n k vc frameNum at_ : Nat) (s : State) : State :=
  let s := s.endFrame n k 4
  let i := s.rd (CSI.NEXT n k) % s.strBufs n k
  if s.bitOn (CSI.HELD n k) i then (s.inc (CSI.DROP_CNT n k)).raiseIrq (pgCsi n) 0
  else
    let s := (s.setW1c (CSI.HELD n k) (2 ^ i)).wr (CSI.NEXT n k) ((i + 1) % s.strBufs n k)
    let s := if s.bst (pgCsi n) == .ready then s.goto (pgCsi n) .active causeSched else s
    s.setCapture n k (some {
      tile0 := [], cur := [], buf := i, fsTick := at_, frameNum := frameNum % 65536, lines := 0, flags := 0, vc := vc })

/-- A receiver without its clock whose frame starts the sampler still sees: one that is up in DOZE, or that an entry to a sleep state
has put in DRAINING or OFF with ENABLE = 1 (R56, R120, R129, log entry 80). -/
def State.csiAsleep (s : State) (n : Nat) : Bool :=
  decide (n < 8) && (s.csiUp n || ((decide (2 ≤ s.pm) || s.pwr.entry.isSome)
    && ((s.bst (pgCsi n) == .off) || (s.bst (pgCsi n) == .draining))
    && decide ((s.blk (pgCsi n)).cause = causePower) && s.on (HDR.BLK_CTRL_ENABLE (pgCsi n))))

/-- FRAME_START (R56, R120, R129, R191, R594 to R596): that of a receiver without its clock is sampled, and takes effect once the receiver
is clocked; a receiver in OFF or DRAINING captures only frames that start after it has reached READY. -/
def execFrameStart (n vc frameNum : Nat) (s : State) : Host.Outcome State Fault Refusal :=
  .next (
    if s.csiUp n && s.clockOn (pgCsi n) then
      match s.streamsOf n vc with
      | [] => s.inc (CSI.UNBOUND_CNT n)
      | l => l.foldl (fun (t : State) k => t.startFrame n k vc frameNum t.tick) (s.fire (16 + n) vc)
    else if s.csiAsleep n && !(s.streamsOf n vc).isEmpty then
      (let wait := if s.csiUp n then [(n, vc, frameNum, s.tick)] else []
       let s := (s.streamsOf n vc).foldl (fun (t : State) k => t.endFrame n k 4) (s.fire (16 + n) vc)
       s.setIo { s.io with fsWait := s.io.fsWait ++ wait })
    else s)

/-- The frame starts that waited take effect at receivers that are clocked again, in order and with their true ticks (R120); those of a
receiver that is no longer up are dropped (R191). -/
def State.framesWake (s : State) : State :=
  let l := s.io.fsWait
  let ready := fun (x : Nat × Nat × Nat × Nat) => s.csiUp x.1 && s.clockOn (pgCsi x.1)
  let s := s.setIo { s.io with fsWait := l.filter (fun x => !ready x && s.csiUp x.1) }
  (l.filter ready).foldl (fun (t : State) x =>
    (t.streamsOf x.1 x.2.1).foldl (fun (u : State) k => u.startFrame x.1 k x.2.1 x.2.2.1 x.2.2.2) t) s

/-- One line as it stands in a tile: the elements of the line, cut or filled with zeros to its width, in PITCH bytes. -/
def State.lineBytes (s : State) (n k : Nat) (pixels : List Nat) : List Byte :=
  let (e, b) := s.strShape n k
  padTo (s.strPitch n k) (((pixels ++ List.replicate e 0).take e).flatMap (fun v => leBytes b v))

/-- A line is taken by a stream's frame (R594, Table PRT-6). -/
def State.takeLine (n k : Nat) (pixels : List Nat) (flags : Nat) (s : State) : State :=
  match mapFind s.io.capture (capKey n k) with
  | none => s
  | some c =>
    let height := s.rd (CSI.FRAME_SIZE_HEIGHT n k)
    let flags := Nat.lor (Nat.lor c.flags flags) (if pixels.length = (s.strShape n k).1 then 0 else 32)
    if height ≤ c.lines then s.setCapture n k (some { c with flags := Nat.lor flags 8 })
    else
      let l := s.strLines n k
      let b := c.cur ++ s.lineBytes n k pixels
      let m := c.lines + 1
      let i := c.lines / atLeast1 l
      let full := decide (m % atLeast1 l = 0) || decide (m = height)
      let s := if full && decide (0 < i) then s.frameTile n k c.buf i b [] else s
      s.setCapture n k (some {
        c with lines := m, flags := flags, tile0 := (if i = 0 then b else c.tile0), cur := (if full then [] else b) })

/-- LINE_PACKET (R594, R595). -/
def execLinePacket (n vc dt : Nat) (hdrOk eccCorr crcOk : Bool) (pixels : List Nat) (s : State) :
    Host.Outcome State Fault Refusal :=
  .next (
    if !(s.csiTakes n && s.clockOn (pgCsi n)) then s
    else if !hdrOk then s.inc (CSI.HDR_ERR_CNT n)
    else if (dtShape dt).isNone then s.inc (CSI.UNBOUND_CNT n)
    else
      let bad := !crcOk || s.on (CSI.INJ_CRC n)
      let s := s.wr (CSI.INJ_CRC n) 0
      let s := if bad then (s.inc (CSI.CRC_ERR_CNT n)).raiseIrq (pgCsi n) 1 else s
      ((s.streamsOf n vc).filter (fun k => decide (s.rd (CSI.STR_CFG_DT n k) = dt))).foldl
        (fun (t : State) k => t.takeLine n k pixels (b2n bad + 2 * b2n eccCorr)) s)

/-- FRAME_END (R594, R595). -/
def execFrameEnd (n vc : Nat) (s : State) : Host.Outcome State Fault Refusal :=
  .next (
    (List.range 4).foldl (fun (t : State) k =>
      match mapFind t.io.capture (capKey n k) with
      | some c => if c.vc = vc ∧ n < 8 then
          t.endFrame n k (if c.lines < t.rd (CSI.FRAME_SIZE_HEIGHT n k) then 16 else 0) else t
      | none => t) s)

/-- A stream's EN is written 1: refused where a frame does not fit BUF_STRIDE tiles (R596). -/
def State.enableStream (n k : Nat) (s : State) : State :=
  if s.rd (CSI.BUF_STRIDE n k) * s.strLines n k < s.rd (CSI.FRAME_SIZE_HEIGHT n k) then
    (s.setW1c (CSI.RX_STAT_CFG_ERR n) 1).raiseIrq (pgCsi n) 2
  else s.wr (CSI.STR_CFG_EN n k) 1

/-- A stream's EN is written 0: a frame in progress ends in that tick (R595). -/
def State.disableStream (n k : Nat) (s : State) : State := (s.endFrame n k 4).wr (CSI.STR_CFG_EN n k) 0

/-- ENABLE of a receiver is written 0: its frames in progress end in that tick (Table PRT-6). -/
def State.csiEnds (page : Nat) (s : State) : State :=
  if 0x092 ≤ page ∧ page ≤ 0x099 then (List.range 4).foldl (fun (t : State) k => t.endFrame (page - 0x092) k 4) s else s

/-- STREAM_ENABLE (R596). -/
def execStreamEnable (rq : Requester) (n s' : Nat) (s : State) : Host.Outcome State Fault Refusal :=
  .next (if n < 8 ∧ s' < 4 then s.access rq (pgCsi n) (fun u => u.enableStream n s') else s)

/-! ### Sensor SPI masters (R597 to R600) -/

/-- Bytes read from a chip select. -/
def State.rdLen (s : State) (p c : Nat) : Nat := s.rd (SPM.CS_CFG_RD_LEN p c) + 1

/-- A chip select's SAMPLE_BITS fit what is read. -/
def State.csOk (s : State) (p c : Nat) : Bool :=
  let b := s.rd (SPM.CS_CFG_SAMPLE_BITS p c)
  decide (8 ≤ b) && decide (b ≤ 24) && decide (b ≤ 8 * s.rdLen p c)

/-- The command bytes of the next transaction of a port's list are sent. -/
def State.spmNext (p : Nat) (s : State) : State :=
  match mapFind s.io.spmList p with
  | some (c :: _) =>
    s.emit (.spi p c ((leBytes 4 (s.rd (SPM.CS_CMD p c))).take (clampNat 0 4 (s.rd (SPM.CS_CFG_CMD_LEN p c)))))
  | _ => s

/-- DRDY_EDGE (R598, R600): `subTick` is the edge's place in the tick in ns. -/
def execDrdyEdge (p subTick : Nat) (rising : Bool) (s : State) : Host.Outcome State Fault Refusal :=
  .next (
    if 4 ≤ p ∨ 1000 ≤ subTick then s
    else if !(s.bst 0x09A).up || !s.clockOn 0x09A || !s.on (SPM.PORT_CFG_EN p) || !s.on (SPM.PORT_CFG_DRDY_EN p)
        || s.on (SPM.PORT_CFG_DRDY_POL p) != rising then s
    else if !((mapFind s.io.spmList p).getD []).isEmpty then s.inc (SPM.OVERRUN_CNT p)
    else
      let l := (List.range 4).filter (fun c => s.on (SPM.CS_CFG_LIST p c))
      let good := l.filter (fun c => s.csOk p c)
      let t := if s.on HM.CELL_STAT_COARSE then s.cellAt subTick else s.edgeStamp (13 + p) subTick
      let s := s.stampEdge (13 + p) subTick
      let s := if good.length < l.length then s.setW1c (SPM.PORT_CFG_CFG_ERR p) 1 else s
      (s.setIo { s.io with spmList := mapInsert s.io.spmList p good, spmEdge := mapInsert s.io.spmEdge p t }).spmNext p)

/-- The signed sample in the first bits read, most significant bit first, left-aligned in 24 bits. -/
def sampleOf (bits : Nat) (b : List Byte) : Nat :=
  let v := b.foldl (fun n x => 256 * n + x.toNat) 0
  v / 2 ^ (8 * b.length - bits) * 2 ^ (24 - bits) % 2 ^ 24

/-- SAMPLE_TRANSACTION_DONE (R598). -/
def execSampleTransactionDone (p cs : Nat) (readBytes : List Byte) (s : State) : Host.Outcome State Fault Refusal :=
  .next (
    match mapFind s.io.spmList p with
    | some (c :: rest) =>
      if c ≠ cs ∨ 4 ≤ p then s
      else
        let v := sampleOf (s.rd (SPM.CS_CFG_SAMPLE_BITS p c)) (padTo (s.rdLen p c) readBytes)
        let s := ((s.wr (SPM.LAST_SAMPLE_VALUE p) v).wr (SPM.LAST_SAMPLE_CS p) c).fire (34 + p) c
        let s := s.deliverSample p c (toSigned 24 v) (mapGet (fun _ => 0) s.io.spmEdge p)
        (s.setIo { s.io with spmList := mapInsert s.io.spmList p rest }).spmNext p
    | _ => s)

/-- The effect of a write of XFER.START (R599, R600); a block in OFF, FENCED or FAULTED accepts no work (Table REG-3). -/
def State.xfer (p cs len : Nat) (s : State) : State :=
  if s.on (SPM.PORT_CFG_DRDY_EN p) ∨ s.on (SPM.XFER_BUSY p) ∨ !s.on (SPM.PORT_CFG_EN p) ∨ !(s.bst 0x09A).up then s.reject 0x09A
  else
    let s := ((s.wr (SPM.XFER_CS p) cs).wr (SPM.XFER_LEN p) len).wr (SPM.XFER_BUSY p) 1
    s.emit (.spi p (cs % 4) ((leBytes 8 (s.rd64 (SPM.XFER_TX_LO p) (SPM.XFER_TX_HI p))).take (len % 8 + 1)))

/-- XFER (R599, R600). -/
def execXfer (rq : Requester) (p cs len : Nat) (s : State) : Host.Outcome State Fault Refusal :=
  .next (if p < 4 then s.access rq 0x09A (fun u => u.xfer p cs len) else s)

/-- XFER_DONE (R599). -/
def execXferDone (p : Nat) (rx : List Byte) (s : State) : Host.Outcome State Fault Refusal :=
  .next (
    if p < 4 ∧ s.on (SPM.XFER_BUSY p) then
      (s.wr64 (SPM.XFER_RX_LO p) (SPM.XFER_RX_HI p) (leNat (padTo (s.rd (SPM.XFER_LEN p) + 1) rx))).wr (SPM.XFER_BUSY p) 0
    else s)

/-! ### The boot flash (R601) -/

/-- Bytes of a slot of the boot flash (R173). -/
def slotSize : Nat := 0x0080_0000

/-- A flash range touches the slot the firmware runs from. -/
def State.touchesRunning (s : State) (a n : Nat) : Bool :=
  let b := s.rd DEV.BOOT_FW_SLOT * slotSize
  decide (a < b + slotSize) && decide (b < a + n)

/-- BSPI_STAT. -/
def State.bspiStat (result reason : Nat) (s : State) : State :=
  (s.wr SPM.BSPI_STAT_RESULT result).wr SPM.BSPI_STAT_REASON reason

/-- A START of BSPI_CMD with an operation: refused with its REASON, or begun (R601); a block that is not up, or busy with an operation,
accepts none (Table REG-3). -/
def State.bspiStart (op : Nat) (s : State) : State :=
  let a := s.rd SPM.BSPI_FLASH_ADDR
  let n := clampNat 0 slotSize (s.rd SPM.BSPI_LEN)
  if s.io.bspi.isSome || !(s.bst 0x09A).up then s.reject 0x09A
  else if op = 3 then s.bspiStat 3 5
  else if s.touchesRunning a n ∧ !s.on SPM.BSPI_CMD_ALLOW_RUNNING then s.bspiStat 3 1
  else if (op = 2 ∧ a % 4096 ≠ 0) ∨ (op = 1 ∧ a % 256 ≠ 0) then s.bspiStat 3 2
  else
    let o : FlashOp := { op := op, flash := a, casket := s.rd64 SPM.BSPI_CASKET_LO SPM.BSPI_CASKET_HI, len := n, since := s.tick }
    ((s.bspiStat 1 0).setIo { s.io with bspi := some o }).emit (.flash op a n)

/-- The effect of a START of BSPI_CMD: only while the page is unlocked. -/
def State.bspiCmd (op : Nat) (s : State) : State :=
  s.expert 0x09A (fun u => (u.wr SPM.BSPI_CMD_OP op).bspiStart op)

/-- BSPI_READ (R601). -/
def execBspiRead (rq : Requester) (s : State) : Host.Outcome State Fault Refusal :=
  .next (s.access rq 0x09A (fun u => u.bspiCmd 0))

/-- BSPI_PROGRAM (R601). -/
def execBspiProgram (rq : Requester) (s : State) : Host.Outcome State Fault Refusal :=
  .next (s.access rq 0x09A (fun u => u.bspiCmd 1))

/-- BSPI_ERASE (R601). -/
def execBspiErase (rq : Requester) (s : State) : Host.Outcome State Fault Refusal :=
  .next (s.access rq 0x09A (fun u => u.bspiCmd 2))

/-- BSPI_OP_INVALID (R601). -/
def execBspiOpInvalid (rq : Requester) (s : State) : Host.Outcome State Fault Refusal :=
  .next (s.access rq 0x09A (fun u => u.bspiCmd 3))

/-- What an operation does to the flash or the Casket when it ends well. -/
def State.bspiApply (o : FlashOp) (s : State) : State :=
  if o.op = 0 then (if inCasket o.casket o.len then s.storeFrom 2 o.casket (s.flashRead o.flash o.len) else s)
  else if o.op = 1 then
    (match s.blockRead 0x09A o.casket o.len with
     | (some d, s) => s.flashWrite o.flash d
     | (none, s) => s)
  else s.flashWrite o.flash (List.replicate (roundUp o.len 4096) 0xFF)

/-- BSPI_DONE (R601): a failed program or erase leaves free bytes in its range; the flash is found busy only once it has been for more
than 400 ms. -/
def execBspiDone (busyTimeout verifyFail : Bool) (s : State) : Host.Outcome State Fault Refusal :=
  .next (
    match s.io.bspi with
    | none => s
    | some o =>
      if busyTimeout ∧ s.tick ≤ o.since + 400000 then s
      else
      let s := s.setIo { s.io with bspi := none }
      let bad := busyTimeout || (verifyFail && decide (o.op = 1))
      if !bad then (s.bspiApply o).bspiStat 2 0
      else
        let s := s.bspiStat 3 (if busyTimeout then 3 else 4)
        if o.op = 0 then s
        else
          let (b, s) := s.freeBytes (if o.op = 1 then o.len else roundUp o.len 4096)
          s.flashWrite o.flash b)

/-! ### Sigma-delta clocks (R603 to R605) -/

/-- One input's count of a tick (R604). An input with SEL = 0 has no clock to count. -/
def State.sdmCheck (n edges : Nat) (s : State) : State :=
  let c := if s.bitOn SDM.INJ_CLK_STOP n then 0 else edges
  let l := (c :: mapGet (fun _ => []) s.io.sdmCounts n).take 256
  let total : Nat := l.foldl (fun a b => a + b) 0
  let e := 256 * s.sdmFreq n
  let off := ((total : Int) * 1000000 - (e : Int)).natAbs
  let bad := s.on (SDM.IN_CFG_SEL n) && (c == 0 || decide (e < 100 * off))
  let clean := if bad then 0 else satBits 9 (mapGet (fun _ => 0) s.io.sdmClean n + 1)
  let s := s.setIo { s.io with
    sdmCounts := mapInsert s.io.sdmCounts n l, sdmClean := mapInsert s.io.sdmClean n clean }
  let s := s.wr (SDM.WIN_CNT n) total
  if bad && !s.bitOn SDM.CLK_FAULT n then
    ((s.orBits SDM.CLK_FAULT (2 ^ n)).setW1c SDM.CLK_FAULT_STICKY (2 ^ n)).fire 38 (2 ^ n)
  else if 256 ≤ clean then s.clearBits SDM.CLK_FAULT (2 ^ n)
  else s

/-- SDM_CLOCK_CHECK (R604): the edges each input has seen in this tick. -/
def execSdmClockCheck (edges : List Nat) (s : State) : Host.Outcome State Fault Refusal :=
  .next (if (s.bst 0x09B).up && s.clockOn 0x09B then forEach (List.range 16) (fun n t => t.sdmCheck n (edges.getD n 0)) s else s)

/-- An input with an enabled Filigree channel selects a clock. -/
def State.sdmClkUsed (s : State) (x : Nat) : Bool :=
  (List.range 16).any (fun n => decide (s.rd (SDM.IN_CFG_SEL n) = x + 1) && cfgEn (s.chan n).cfg)

/-- The effect of a write of CLK_CFG (R605). -/
def State.sdmClkCfg (x value : Nat) (s : State) : State :=
  if s.sdmClkUsed x then s.reject 0x09B
  else (s.wr (SDM.CLK_CFG_FREQ x) value).wr (SDM.CLK_CFG_EN x) (value / 2 ^ 31)

/-- SDM_CLK_CFG_WRITE (R605). -/
def execSdmClkCfgWrite (rq : Requester) (x value : Nat) (s : State) : Host.Outcome State Fault Refusal :=
  .next (if x < 2 then s.access rq 0x09B (fun u => u.sdmClkCfg x value) else s)

/-! ### Frames of the management SPI (R606 to R608) -/

/-- Bits of MSPI_STAT. -/
def msAbort : Nat := 1
def msOverclk : Nat := 2
def msUnderclk : Nat := 4
def msShort : Nat := 8
def msBadCmd : Nat := 16
def msTimeout : Nat := 32

/-- MSPI_BAD_CMD (R606, R607): the rest of the frame is ignored, and its end adds no other flag (R608). -/
def execMspiBadCmd (op : Nat) (s : State) : Host.Outcome State Fault Refusal :=
  .next (if op % 16 = 1 ∨ op % 16 = 2 ∨ s.io.mspiIdle then s
    else ((s.setW1c MSPI.MSPI_STAT msBadCmd).setIo { s.io with mspiIdle := true }).emit (.mspi (s.rd MSPI.MSPI_STAT) [] false))

/-- MSPI_WAIT_TIMEOUT (R607): N words not ready within WAIT_MAX bits are returned as all ones. -/
def execMspiWaitTimeout (n : Nat) (s : State) : Host.Outcome State Fault Refusal :=
  .next (
    let n := clampNat 1 16 n
    let stat := s.rd MSPI.MSPI_STAT
    if s.io.mspiIdle then s
    else
      let s := (s.setW1c MSPI.MSPI_STAT msTimeout).incBy MSPI.WORD_CNT n
      (s.setIo { s.io with mspiWake := true }).emit (.mspi stat (List.replicate n 0xFFFF_FFFF) true))

/-- MSPI_CS_RISE (R608, Table PRT-7): the frame ends, and is counted; one that UNDERCLK or BAD_CMD has ended sets no
flag more. -/
def execMspiCsRise (midWord wordsLeft overclocked : Bool) (s : State) : Host.Outcome State Fault Refusal :=
  .next (
    let f := if s.io.mspiIdle then 0 else if midWord then msAbort else if wordsLeft then msShort
      else if overclocked then msOverclk else 0
    ((s.setW1c MSPI.MSPI_STAT f).inc MSPI.FRAME_CNT).setIo { s.io with mspiIdle := false })

/-- MSPI_IDLE_TIMEOUT (R608): a frame that is already ignored sets no flag more. -/
def execMspiIdleTimeout (s : State) : Host.Outcome State Fault Refusal :=
  .next (if s.io.mspiIdle then s else (s.setW1c MSPI.MSPI_STAT msUnderclk).setIo { s.io with mspiIdle := true })

/-! ### Test access port (R610) -/

/-- Bits of a number, least significant first. -/
def bitsLsb (n v : Nat) : List Bool := (List.range n).map (fun i => v.testBit i)

/-- TAP_RESET: IDCODE is the current instruction, and the pins leave the boundary register. -/
def execTapReset (s : State) : Host.Outcome State Fault Refusal :=
  .next (s.setIo { s.io with tapIr := 0x01, tapData := 0, tapDone := false, chain := 0, pinsFrom := 0 })

/-- IDCODE (Table PRT-8). -/
def execIdcode (s : State) : Host.Outcome State Fault Refusal :=
  .next ((s.setIo { s.io with tapIr := 0x01, pinsFrom := 0 }).emit (.tdo (bitsLsb 32 (s.rd TAP.TAP_IDCODE))))

/-- SAMPLE_PRELOAD: the boundary register captures the pins, which are shifted out, and is loaded. -/
def execSamplePreload (capture shift : List Bool) (s : State) : Host.Outcome State Fault Refusal :=
  .next ((s.setIo { s.io with tapIr := 0x02, pinsFrom := 0, boundary := shift }).emit (.tdo capture))

/-- EXTEST: the boundary register drives the pins. -/
def execExtest (s : State) : Host.Outcome State Fault Refusal := .next (s.setIo { s.io with tapIr := 0x03, pinsFrom := 1 })

/-- CLAMP: the boundary register holds the outputs, and the bypass register is selected. -/
def execClamp (s : State) : Host.Outcome State Fault Refusal :=
  .next ((s.setIo { s.io with tapIr := 0x04, pinsFrom := 1 }).emit (.tdo [false]))

/-- HIGHZ: the outputs float, and the bypass register is selected. -/
def execHighz (s : State) : Host.Outcome State Fault Refusal :=
  .next ((s.setIo { s.io with tapIr := 0x05, pinsFrom := 2 }).emit (.tdo [false]))

/-- STAP_SELECT: the IEEE 1838 chain Crown → Ff → Lf; on the PMX-7241 the guest's STAP stands in F3's place (R228, Table CLS-7). A
number that names no chain leaves the selection as it is. -/
def execStapSelect (chain : Nat) (s : State) : Host.Outcome State Fault Refusal :=
  .next (s.setIo { s.io with tapIr := 0x20, pinsFrom := 0, chain := if chain < 4 then chain + 1 else s.io.chain })

/-- The die a number names on the selected chain (0 the Crown, 1 the Facet or the guest, 2 the Locket, which the guest has none of), as the
wrapper registers are keyed: 0 the Crown, 1 + n Facet n or the guest, 5 + n Locket n. -/
def State.chainDie (s : State) (die : Nat) : Option Nat :=
  let c := s.io.chain
  if die = 0 then some 0
  else if c = 0 then none
  else if die = 1 then some c
  else if die = 2 ∧ s.hasFacet (c - 1) then some (c + 4)
  else none

/-- The die and the cell at the other end of a cell's wire (R23, R227, Tables MACH-2 and CLS-7). The Crown's cells are those of C0 to C3; a
Facet's those of its Crown link, of its stack, of the side link to the Facet after it and of the one before it (log entry 103). -/
def State.wireEnd (s : State) (key i : Nat) : Option (Nat × Nat) :=
  let l := Config.linkWires
  let t := l + Config.stackWires
  let w := Config.sideWires
  let n := key - 1
  if key = 0 then (if i < 4 * l then some (i / l + 1, i % l) else none)
  else if 5 ≤ key then (if i < Config.stackWires then some (key - 4, l + i) else none)
  else if i < l then some (0, n * l + i)
  else if !s.hasFacet n then none
  else if i < t then some (key + 4, i - l)
  else if i < t + w then (if s.hasFacet ((n + 1) % 4) then some ((n + 1) % 4 + 1, i + w) else none)
  else if i < t + 2 * w then (if s.hasFacet ((n + 3) % 4) then some ((n + 3) % 4 + 1, i - w) else none)
  else none

/-- What a die's wrapper register captures: on each wire the level that the die at its other end drives, where one drives it, and a free
value where none does (R227). -/
def State.dwrCapture (key n : Nat) (s : State) : List Bool × State :=
  let (v, s) := s.freeBits n
  ((List.range n).map (fun i => match s.wireEnd key i with
    | some (d, j) => (((mapFind s.io.dwr d).getD [])[j]?).getD (v.testBit i)
    | none => v.testBit i), s)

/-- DWR_ACCESS: a die's wrapper register captures its wires, what it has captured is shifted out, and what is shifted in drives them from
now on (R227). A die that is not on the selected chain has no register to shift. -/
def execDwrAccess (die : Nat) (shift : List Bool) (s : State) : Host.Outcome State Fault Refusal :=
  .next (
    let s := s.setIo { s.io with tapIr := 0x21, pinsFrom := 0 }
    match s.chainDie die with
    | none => s.emit (.tdo [false])
    | some key =>
      let (b, s) := s.dwrCapture key shift.length
      (s.setIo { s.io with dwr := mapInsert s.io.dwr key shift }).emit (.tdo b))

/-- Codes of Table PRT-8 other than BYPASS. -/
def tapCodes : List Nat := [0x01, 0x02, 0x03, 0x04, 0x05, 0x10, 0x20, 0x21]

/-- BYPASS: its code, and any other code that Table PRT-8 does not list. -/
def execBypass (code : Nat) (s : State) : Host.Outcome State Fault Refusal :=
  .next (if tapCodes.contains (code % 256) then s
    else (s.setIo { s.io with tapIr := 0xFF, pinsFrom := 0 }).emit (.tdo [false]))

end Sys2Proof.Machine
end

