-- ==== Sys2Proof/Machine/Blocks.lean ====
section
/-! DEFINITION. Blocks as software controls them: the clocks that feed them, enabling, disabling, resetting and draining, the
expert lock, and the apertures onto the Casket and HBM (R63 to R69, R79 to R87, R93 to R98, R105, R121, R639, R641, R659). -/

namespace Sys2Proof.Machine

/-! ### Clocks (R121, R123, Table TCK-3) -/

/-- The PLLs that feed the block of a page on a part. -/
def pllsOf (part : Part) (page : Nat) : List Nat :=
  if alwaysOn page ∨ page = 0x09C ∨ page = 0x09D then []
  else if 0x020 ≤ page ∧ page ≤ 0x023 then (if page = 0x023 ∧ part = .pmx7241 then [0] else [0, 4 + (page - 0x020)])
  else if 0x024 ≤ page ∧ page ≤ 0x027 then [4 + (page - 0x024), 4 + (page - 0x023) % 4]
  else if 0x040 ≤ page ∧ page ≤ 0x05F then [4 + (page - 0x040) / 8]
  else if page = 0x068 ∨ page = 0x069 then [1]
  else if 0x080 ≤ page ∧ page ≤ 0x082 then [2]
  else if (0x010 ≤ page ∧ page ≤ 0x01B) ∨ (0x060 ≤ page ∧ page ≤ 0x07A) ∨ (0x0A0 ≤ page ∧ page ≤ 0x0A3) then [0]
  else [3]

/-- Pages of the part that are blocks of their own, the always-on ones left out. -/
def State.blockPages (s : State) : List Nat :=
  (List.range 0x140).filter (fun p => pagePresent s.part p && !alwaysOn p && !followsPage p)

/-- A page is a Clasp link that this part never runs: S23 and S30 stay OFF on the PMX-7241 (R43). -/
def deadLink (part : Part) (page : Nat) : Bool := decide (part = .pmx7241) && (decide (page = 0x026) || decide (page = 0x027))

/-- Every PLL that feeds a page is locked. -/
def State.clocked (s : State) (page : Nat) : Bool := (pllsOf s.part page).all (fun n => s.bitOn BZ_PM.PLL_LOCK n)

/-- The PLLs of a list that do not run are enabled (R121). -/
def State.startPlls (ns : List Nat) (s : State) : State :=
  ns.foldl (fun (t : State) n =>
    if (mapFind t.pwr.pllOn n).isSome then t
    else { t with pwr := { t.pwr with pllOn := mapInsert t.pwr.pllOn n t.tick } }) s

/-- A PLL stops. -/
def State.stopPll (n : Nat) (s : State) : State :=
  ({ s with pwr := { s.pwr with pllOn := mapErase s.pwr.pllOn n } } : State).clearBits BZ_PM.PLL_LOCK (2 ^ n)

/-- A PLL is needed: a block it feeds is outside OFF, waits to become READY, or has CLK_REQ = 1; PLL 3 also feeds the
management cores. -/
def State.pllNeeded (s : State) (n : Nat) : Bool :=
  n == 3 || s.blockPages.any (fun p => (pllsOf s.part p).contains n
    && (s.bst p != .off || s.on (HDR.BLK_CTRL_ENABLE p) || s.on (HDR.BLK_CTRL_CLK_REQ p)))

/-- PLLs that nothing needs stop, once boot has ended. -/
def State.syncPlls (s : State) : State :=
  if s.stage = 8 ∧ s.pm ≤ 1 then
    (s.pwr.pllOn.map (·.1)).foldl (fun (t : State) n => if t.pllNeeded n then t else t.stopPll n) s
  else s

/-! ### Reaching READY and OFF -/

/-- A block is READY with its cause; what then begins of itself. -/
def State.toReady (page cause : Nat) (s : State) : State :=
  let s := s.goto page .ready cause
  if page = 0x08C then s.fabStart
  else if page = 0x091 then s.nvpStart
  else if page = 0x078 then s.syncFil
  else s

/-- What a block's units hold is given up as it reaches OFF through software. -/
def State.onOff (page : Nat) (s : State) : State :=
  if page = 0x08C then s.fabStop
  else if page = 0x091 then s.nvpStop
  else if page = 0x080 then s.hmStop
  else if 0x088 ≤ page ∧ page ≤ 0x08B then s.wr (ETH.LINK_STAT_UP (page - 0x088)) 0
  else if 0x092 ≤ page ∧ page ≤ 0x099 then
    s.setIo { s.io with capture := s.io.capture.filter (fun e => decide (e.1 / 4 ≠ page - 0x092)) }
  else if page = 0x09A then s.setIo { s.io with spmList := [] }
  else s

/-- What a block's units hold is given up as it reaches OFF on the way to a sleep state; HM, FAB and the Ethernet ports keep
what R539 and R575 say. -/
def State.onPowerOff (page : Nat) (s : State) : State :=
  if page = 0x080 ∨ (0x088 ≤ page ∧ page ≤ 0x08C) then s else s.onOff page

/-- A block that may become READY does so, or its PLLs are started. -/
def State.tryReady (page cause : Nat) (s : State) : State :=
  if s.bst page != .off || deadLink s.part page then s
  else if s.clocked page then s.toReady page cause
  else s.startPlls (pllsOf s.part page)

/-- Blocks in OFF with ENABLE = 1 whose PLLs are now locked become READY (R80). -/
def State.readyWaiting (cause : Nat) (s : State) : State :=
  s.blockPages.foldl (fun (t : State) p =>
    if t.bst p == .off && t.on (HDR.BLK_CTRL_ENABLE p) && t.clocked p then t.tryReady p cause else t) s

/-- The pages of a unit. -/
def unitPages (page : Nat) : List Nat :=
  if 0x040 ≤ page ∧ page ≤ 0x05F then (List.range 8).map (unitPage page + ·) else [page]

/-- A block has no work in flight. -/
def State.pageIdle (s : State) (page : Nat) : Bool :=
  !s.pageBusy page && !s.io.capture.any (fun e => pgCsi (e.1 / 4) == page) && !s.lps.peers.any (fun p => pgLp p.lp == page) && !s.rows.flips.any (fun f => pgGse f.g == page)
    && (page != 0 || s.sch.reqs.isEmpty) && !(decide (0x100 ≤ page) && decide (0 < s.inflight (page - 0x100)))

/-- A write of ENABLE and CLK_REQ (R80); a block with CLK_REQ = 1 has its PLLs run (R121). ENABLE = 1 written to a DRAINING block, for
which Table REG-5 names no transition, takes effect once the block has reached OFF: it is READY, with CAUSE 0x02, at the start of a later
tick (DESIGN CHOICE, log entry 105). -/
def State.enableWrite (page value : Nat) (s : State) : State :=
  let en := bit value 0
  let s := (s.wr (HDR.BLK_CTRL_CLK_REQ page) (value / 4 % 2)).wr (HDR.BLK_CTRL_ENABLE page) (b2n en)
  let s := if bit value 2 then s.startPlls (pllsOf s.part page) else s
  if en then
    (let s := if page = 0x078 ∧ s.bst page = .off then s.filHalt 2 else s
     s.tryReady page causeSoftware)
  else
    let s := if 0x100 ≤ page then s.cancel (page - 0x100) 15 else s.csiEnds page
    match s.bst page with
    | .ready => ((s.onOff page).goto page .off causeSoftware).syncPlls
    | .active => s.goto page .draining causeSoftware
    | _ => s.syncPlls

/-! ### SOFT_RESET (R84, R85, R641, R642) -/

/-- Temperature of a Facet in 1/16 °C: the higher of its two readings (R141). -/
def State.facetTemp (s : State) (f : Nat) : Int :=
  let a := toSigned 16 (s.rd (BZ_THERM.SENS_VALUE (8 + 2 * f)))
  let b := toSigned 16 (s.rd (BZ_THERM.SENS_VALUE (9 + 2 * f)))
  if a < b then b else a

/-- The temperature R145 and R146 use: with THROTTLE_TEST (R152). -/
def State.testTemp (s : State) (f : Nat) : Int := s.facetTemp f + 16 * toSigned 8 (s.rd BZ_THERM.THROTTLE_TEST)

/-- A fence can be cleared now (Table FLT-5); R152's offset counts for the reading of R146. -/
def State.fenceClears (s : State) (page : Nat) : Bool :=
  let c := (s.blk page).cause
  if c = causePower then
    (match facetOfPage (unitPage page) with
     | some f => decide (s.testTemp f ≤ 102 * 16)
     | none => true)
  else c == causeAudit || c == causeSentinel

/-- A SOFT_RESET is accepted now (Table REG-5). -/
def State.resetOk (s : State) (page : Nat) : Bool :=
  let b := s.blk page
  match b.st with
  | .off => true
  | .ready => true
  | .fenced => b.drained && s.fenceClears page
  | .faulted => b.faultLocal
  | _ => false

/-- A word that SOFT_RESET returns to its reset value: basic and expert registers, BLK_CTRL, IRQ_EN, IRQ_FORCE. -/
def resetsWord (off : Nat) : Bool := decide (0x100 ≤ off) || off == 0x00C || off == 0x01C || off == 0x024

/-- A word that SOFT_RESET leaves although it resets its like: TC_OUT, since a core taken out stays out until a device reset
(R342). -/
def outlivesReset (page off : Nat) : Bool :=
  decide (0x040 ≤ page) && decide (page ≤ 0x05F) && (page - 0x040) % 8 == 0 && off == 0x108

/-- The registers of one page after a SOFT_RESET, its lock, and what is held per requester. -/
def State.resetRegs (page : Nat) (s : State) : State :=
  let s : State := {
    s with
    regs := s.regs.filter (fun e => e.1 / 1024 != page || !resetsWord (e.1 % 1024 * 4) || outlivesReset page (e.1 % 1024 * 4)),
    bus := {
      armed := s.bus.armed.filter (fun e => e.1 % 1024 != page)
      latch := s.bus.latch.filter (fun e => e.1 / 1024 % 1024 != page)
      stage := s.bus.stage.filter (fun e => e.1 / 1024 % 1024 != page)
      raised := s.bus.raised
      hot := mapInsert s.bus.hot (regKey page 0x040) 1 } }
  let keep := s.rd (HDR.IRQ_STAT page) / 2 ^ 29 % 4 * 2 ^ 29
  (s.wr (HDR.EXP_STATE_UNLOCKED page) 0).wr (HDR.IRQ_STAT page) (keep % 2 ^ 31)

/-- What a unit holds besides its registers goes with them. -/
def State.resetUnit (page : Nat) (s : State) : State :=
  if page = 0x060 ∨ page = 0x061 then
    s.setRows { s.rows with
      lfsr := mapErase s.rows.lfsr (page - 0x060), rounds := s.rows.rounds.filter (fun x => x.1 != page - 0x060) }
  else if page = 0x062 then s.rowsLost
  else if page = 0x063 then
    (s.setRows { s.rows with cache := [], tabs := mapAll (fun _ t => { t with cacheTiles := 0 }) s.rows.tabs }).clearSketch
  else if page = 0x068 ∨ page = 0x069 then
    { s with lps := { s.lps with
        idx := s.lps.idx.filter (fun e => e.1 / 64 != page - 0x068)
        scans := s.lps.scans.filter (fun c => c.lp != page - 0x068) } }
  else if page = 0x078 then s.filLost
  else if page = 0x07A then s.setFil { s.fil with cal := none }
  else if page = 0x080 then s.setHm { s.hm with doms := [], cmd := none, entries := [], fs := [], fsNext := [], fsPulse := [] }
  else if page = 0x082 then s.setHm { s.hm with txq := [], txqLate := [] }
  else if page = 0x08C then s.fabStop
  else if page = 0x091 then s.setIo { s.io with nvpWrite := none, nvpTimeouts := 0 }
  else if page = 0x09A then s.setIo { s.io with bspi := none, spmList := [] }
  else if page = 0x09B then s.setIo { s.io with sdmCounts := [], sdmClean := [] }
  else if 0x020 ≤ page ∧ page ≤ 0x027 then
    (let s := s.setLnk (page - 0x020) { linkReset with testEnd := (s.lnk (page - 0x020)).testEnd }
     if s.isGuestLink (page - 0x020) then s.setGuest guestReset else s)
  else if page = 0x02F then (List.range 8).foldl (fun (t : State) l => t.setLnk l { t.lnk l with testEnd := none }) s
  else if 0x040 ≤ page ∧ page ≤ 0x05F then (s.syncCores ((page - 0x040) / 8)).syncVc ((page - 0x040) / 8)
  else if page = 0x019 then (List.range 64).foldl (fun (t : State) w => (t.requota w 1).requota w 2) s
  else if page = 0x018 then
    (s.setCk { s.ck with notices := [] }).setFab { s.fab with peers := mapAll (fun _ q => { q with borrowed := 0 }) s.fab.peers }
  else if 0x100 ≤ page then
    (let w := page - 0x100
     (s.setSch { s.sch with
       submits := s.sch.submits.filter (fun e => e.1 / 4 != w)
       overloaded := s.sch.overloaded.filter (fun k => k / 4 != w)
       cancels := s.sch.cancels.filter (fun e => e.1 / 4 != w)
       moder := mapErase s.sch.moder w, held := s.sch.held.filter (fun e => e.1 != w) }).syncShares)
  else s

/-- An accepted SOFT_RESET (R85). -/
def State.doReset (page : Nat) (s : State) : State :=
  let was := s.bst page
  let s := (unitPages page).foldl (fun (t : State) p => t.resetRegs p) s
  let s := (s.resetUnit page).syncLocked
  if was == .off then s
  else
    let s := (s.onOff page).goto page .off causeSoftware
    (s.setBlk page { s.blk page with faultLocal := false, report := none, mism := 0 }).syncPlls

/-- A write of BLK_CTRL (R84). Pages that follow another block ignore it, but for the SOFT_RESET of HM_TXQ, which clears its
queues (R534). -/
def State.blkCtrl (page value : Nat) (s : State) : State :=
  if page = 0x082 ∧ bit value 1 then (s.resetRegs page).resetUnit page
  else if followsPage page then s
  else if bit value 1 && s.on (HDR.BLK_CAP_SRESET page) then
    (if s.resetOk page then s.doReset page else (s.reject page).enableWrite page value)
  else s.enableWrite page value

/-- BLOCK_ENABLE (R80). -/
def execBlockEnable (rq : Requester) (page : Nat) (clkReq : Bool) (s : State) : Host.Outcome State Fault Refusal :=
  .next (s.access rq page (State.blkCtrl page (1 + 4 * b2n clkReq)))

/-- BLOCK_DISABLE (R80). -/
def execBlockDisable (rq : Requester) (page : Nat) (clkReq : Bool) (s : State) : Host.Outcome State Fault Refusal :=
  .next (s.access rq page (State.blkCtrl page (4 * b2n clkReq)))

/-- SOFT_RESET (R84, R85). -/
def execSoftReset (rq : Requester) (page : Nat) (enable clkReq : Bool) (s : State) : Host.Outcome State Fault Refusal :=
  .next (s.access rq page (State.blkCtrl page (b2n enable + 2 + 4 * b2n clkReq)))

/-- NVP_ENABLE (R587): the SSD found below the port comes with the command. -/
def execNvpEnable (rq : Requester) (found : Option NvmeFound) (s : State) : Host.Outcome State Fault Refusal :=
  .next (s.access rq 0x091 (fun u => (u.setIo { u.io with ssd := found }).blkCtrl 0x091
    (1 + 4 * u.rd (HDR.BLK_CTRL_CLK_REQ 0x091))))

/-- The bits of the interrupt words of a header: [26:16] are reserved (Table REG-7). -/
def irqBit (i : Nat) : Bool := decide (i < 16) || (decide (27 ≤ i) && decide (i < 32))

/-- The effect of a write of IRQ_FORCE: the bits are set for this tick, as no condition that holds (R105); its reserved bits do nothing
(R13). -/
def State.irqForce (page bits : Nat) (s : State) : State :=
  ((setBitsBelow 32 bits).filter irqBit).foldl (fun (t : State) i => t.setIrq page i) s

/-- IRQ_FORCE (R105). -/
def execIrqForce (rq : Requester) (page bits : Nat) (s : State) : Host.Outcome State Fault Refusal :=
  .next (s.access rq page (State.irqForce page bits))

/-- DRAIN_COMPLETE (R79, R80, R639): a unit with no work left has written what it buffered; `lost` frames of it were lost on
the way. A DRAINING unit enters OFF; a FENCED one reads DRAINED = 1. -/
def execDrainComplete (page lost : Nat) (s : State) : Host.Outcome State Fault Refusal :=
  .next (
    let p := unitPage page
    if followsPage p ∨ !pagePresent s.part p then s
    else match s.bst p with
      | .draining =>
        if s.pageIdle p then
          (let c := (s.blk p).cause
           let s := if c = causePower then s.onPowerOff p else s.onOff p
           (s.goto p .off c).syncPlls)
        else s
      | .fenced =>
        if (s.blk p).drained then s
        else
          let s := s.setBlk p { s.blk p with drained := true }
          (match facetOfPage p with
           | some f => if 0x040 ≤ p then s.incBy (CL.DRAIN_LOST f) lost else s
           | none => if 0x020 ≤ p ∧ p ≤ 0x027 then s.incBy (CL.DRAIN_LOST (p - 0x020)) lost else s)
      | _ => s)

/-! ### The expert lock (R63 to R69) -/

/-- Key of a requester's unlock sequence. -/
def armKey (rq : Requester) (page : Nat) : Nat := 1024 * rqCode rq + page

/-- The tick a requester armed a page in. -/
def State.armedAt (s : State) (rq : Requester) (page : Nat) : Option Nat := mapFind s.bus.armed (armKey rq page)

/-- A requester's sequence on a page begins, or ends. -/
def State.arm (rq : Requester) (page : Nat) (on : Bool) (s : State) : State :=
  let a := s.bus.armed
  let a := if on then mapInsert a (armKey rq page) s.tick else mapErase a (armKey rq page)
  { s with bus := { s.bus with armed := a } }

/-- A write of EXP_UNLOCK by a requester (R63, R64, R66, R69). KEY 0x0000 relocks the page, and abandons a sequence whose window is
open; a page reset in this tick stays locked (R68). -/
def State.expWrite (rq : Requester) (page value : Nat) (s : State) : State :=
  let key := value % 65536
  match rq with
  | .vf _ => s.blocked page
  | _ =>
    let armed := (s.armedAt rq page).any (fun t => decide (s.tick ≤ t + 16))
    if 65536 ≤ value % 2 ^ 32 then (s.arm rq page false).blocked page
    else if key = 0x5A5A then s.arm rq page true
    else
      let s := s.arm rq page false
      if key = 0 then
        (let s := s.wr (HDR.EXP_STATE_UNLOCKED page) 0
         if armed then s.blocked page else s)
      else if key = 0xC3E7 ∧ armed = true then
        (if (mapFind s.bus.hot (regKey page 0x040)).isSome then s else s.wr (HDR.EXP_STATE_UNLOCKED page) 1)
      else s.blocked page

/-- A write of EXP_UNLOCK reaches a page; a virtual function's is ignored and counted on its own page (R69). -/
def State.expAccess (rq : Requester) (page value : Nat) (s : State) : State :=
  match rq with
  | .vf n => if 1 ≤ n ∧ n ≤ 63 then s.access rq (0x100 + n) (fun u => u.blocked (0x100 + n)) else s
  | _ => s.access rq page (State.expWrite rq page value)

/-- EXP_UNLOCK_FIRST_KEY (R63, R66): `upper` is what the write holds in its bits [31:16]. -/
def execExpUnlockFirstKey (rq : Requester) (page upper : Nat) (s : State) : Host.Outcome State Fault Refusal :=
  .next (s.expAccess rq page (0x5A5A + upper % 65536 * 65536))

/-- EXP_UNLOCK_SECOND_KEY (R63, R66): the value written. -/
def execExpUnlockSecondKey (rq : Requester) (page value : Nat) (s : State) : Host.Outcome State Fault Refusal :=
  .next (s.expAccess rq page value)

/-- EXP_RELOCK (R64, R66). -/
def execExpRelock (rq : Requester) (page upper : Nat) (s : State) : Host.Outcome State Fault Refusal :=
  .next (s.expAccess rq page (upper % 65536 * 65536))

/-- UNLOCK_WINDOW_EXPIRY (R63, R66): the requester is disarmed after the 16 ticks that follow its first key. -/
def execUnlockWindowExpiry (rq : Requester) (page : Nat) (s : State) : Host.Outcome State Fault Refusal :=
  .next (
    match s.armedAt rq page with
    | some t => if t + 16 < s.tick then s.arm rq page false else s
    | none => s)

/-! ### BAR2 and BAR4 (R93 to R98, R659) -/

/-- The pieces of an access, one for each 64-byte unit it touches: address and length. -/
def pieces : Nat → Nat → Nat → List (Nat × Nat)
  | 0, _, _ => []
  | n + 1, a, len =>
    if len = 0 then []
    else
      let k := 64 - a % 64
      let m := if len < k then len else k
      (a, m) :: pieces n (a + m) (len - m)

/-- The requester that is function n. -/
def fnRequester (fn : Nat) : Requester := if fn = 0 then .pf else .vf fn

/-- The completions of a read so far, the latest first: each with the 512 bytes, Max_Payload's most, that it serves, its data, and
whether they are poisoned (Table PRT-1, R659; log entry 88). -/
abbrev Cpls := List (Nat × List Byte × Bool)

/-- A piece's bytes join the completion of their 512 bytes. -/
def addPiece (at_ : Nat) (b : List Byte) (bad : Bool) : Cpls → Cpls
  | [] => [(at_ / 512, b, bad)]
  | (k, c, p) :: r => if k = at_ / 512 then (k, c ++ b, p || bad) :: r else (at_ / 512, b, bad) :: (k, c, p) :: r

/-- The completions of a read go to its requester, in order. -/
def State.answerRead (rq : Requester) (l : Cpls) (s : State) : State :=
  l.reverse.foldl (fun t c => t.emit (.read rq c.2.1 c.2.2)) s

/-- One piece read by a function: its bytes, and whether it is poisoned (R659). -/
def State.hostPiece (fn a n : Nat) (s : State) : List Byte × Bool × State :=
  let (q, s) := s.eccRead 0x01 a fn
  (s.dpaRead a n, q.isSome, s)

/-- The host link carries accesses to memory. -/
def State.hostOpen (s : State) : Bool := s.stage == 8 && s.hifUp

/-- BAR2_ACCESS (R93, R94, R97). -/
def execBar2Access (fn off len : Nat) (write : Bool) (data : List Byte) (s : State) : Host.Outcome State Fault Refusal :=
  .next (
    if !s.hostOpen || decide (64 ≤ fn) then s
    else
      let ps := pieces (len / 64 + 2) off len
      let open_ := fun (p : Nat × Nat) =>
        decide (p.1 + p.2 ≤ casketSize) && (fn == 0 || s.inGrant fn (casketBase + p.1) p.2 write)
      let deny := fun (t : State) => if fn = 0 then t else t.inc (WS.BAR2_ERR_CNT fn)
      if write then
        ps.foldl (fun (t : State) p =>
          if open_ p then
            (let a := casketBase + p.1
             t.storeFrom 0 a (padTo p.2 (data.drop (p.1 - off))))
          else deny t) s
      else
        let r := ps.foldl (fun (q : Cpls × State) p =>
          if open_ p then
            (let (b, bad, t) := q.2.hostPiece fn (casketBase + p.1) p.2
             (addPiece p.1 b bad q.1, t.readTo 0 (casketBase + p.1) p.2))
          else (addPiece p.1 (List.replicate p.2 0) false q.1, deny q.2)) ([], s)
        r.2.answerRead (fnRequester fn) r.1)

/-- The base of the BAR4 window: a multiple of its size (R585). -/
def State.bar4Base (s : State) : Nat :=
  let n := 2 ^ s.rd HIF.BAR4_SIZE
  s.rd64 HIF.BAR4_WIN_BASE_LO HIF.BAR4_WIN_BASE_HI / n * n

/-- One piece of a BAR4 read appended to what has been read: the bytes of HBM, or 0 beyond it (R93, R98). -/
def bar4Piece (b : Nat) (q : Cpls × State) (p : Nat × Nat) : Cpls × State :=
  if inHbm (b + p.1) p.2 then
    (let (l, bad, t) := q.2.hostPiece 0 (b + p.1) p.2
     (addPiece p.1 l bad q.1, t.countRead (b + p.1) p.2))
  else (addPiece p.1 (List.replicate p.2 0) false q.1, q.2)

/-- BAR4_ACCESS (R93, R95, R98): HBM, by the physical function. -/
def execBar4Access (off len : Nat) (write : Bool) (data : List Byte) (s : State) : Host.Outcome State Fault Refusal :=
  .next (
    if !s.hostOpen || decide (2 ^ s.rd HIF.BAR4_SIZE < off + len) then s
    else
      let b := s.bar4Base
      let ps := pieces (len / 64 + 2) off len
      if write then
        ps.foldl (fun (t : State) p =>
          if inHbm (b + p.1) p.2 then t.store (b + p.1) (padTo p.2 (data.drop (p.1 - off))) else t) s
      else
        let r := ps.foldl (bar4Piece b) ([], s)
        r.2.answerRead .pf r.1)

end Sys2Proof.Machine
end

