-- ==== Sys2Proof/Machine/Power.lean ====
section
/-! DEFINITION. The event sampler, the reference and the PLLs, the power states, telemetry, the power cap and the thermal
limits (R107 to R152, R160, R498, R575, R658, R660 to R664), and how a boot error ends boot (R182, R185). -/

namespace Sys2Proof.Machine

/-- The state with the manager's record replaced. -/
def State.setPwr (p : Pwr) (s : State) : State := { s with pwr := p }

/-- The state with the boot record replaced. -/
def State.setBoot (b : Boot) (s : State) : State := { s with boot := b }

/-! ### Boot errors (R172, R182, R185) -/

/-- Boot runs: from CLOCKS to HBM_TRAIN. -/
def State.booting (s : State) : Bool := decide (1 ≤ s.stage) && decide (s.stage ≤ 7)

/-- The pages whose blocks boot makes READY with ENABLE = 1 (Table BOOT-7). -/
def readyPages (part : Part) : List Nat :=
  ((List.range 12).map (0x010 + ·) ++ (List.range 8).map (0x020 + ·) ++ (List.range 4).map (fun f => 0x040 + 8 * f)
    ++ [0x030, 0x090, 0x09C, 0x09D] ++ (List.range 4).map (0x0A0 + ·)).filter (fun p => pagePresent part p && !deadLink part p)

/-- The blocks of a list of pages take their states of Table BOOT-7, but for one that is FENCED or FAULTED (R184, R188). -/
def State.releaseBlocks (ps : List Nat) (s : State) : State :=
  ps.foldl (fun (t : State) p =>
    match t.bst p with
    | .off =>
      let t := t.setBlk p { t.blk p with st := .ready, drained := true, cause := causeReset, entry := t.tick }
      (unitPages p).foldl (fun (u : State) q => u.wr (HDR.BLK_CTRL_ENABLE q) 1) t
    | _ => t) s

/-- The blocks that boot has released at a boot error (R182): CK pages from stage 3 on, a C link and its Facet once its position has ended,
side links from stage 7, the host interface once it answers (DESIGN CHOICE, log entry 105). -/
def State.releasedPages (s : State) (answers : Bool) : List Nat :=
  (readyPages s.part).filter (fun p =>
    (decide (p ≤ 0x01B) && decide (3 ≤ s.stage))
      || (decide (0x020 ≤ p) && decide (p ≤ 0x023) && decide (p - 0x020 < s.boot.facetsDone))
      || (decide (0x024 ≤ p) && decide (p ≤ 0x027) && decide (7 ≤ s.stage))
      || (decide (0x040 ≤ p) && decide (p ≤ 0x05F) && decide ((p - 0x040) / 8 < s.boot.facetsDone))
      || (p == 0x090 && answers))

/-- The HIF link is down and trained to nothing. -/
def State.hifNoLink (s : State) : State :=
  ((((s.wr HIF.LINK_STAT_SPEED 0).wr HIF.LINK_STAT_WIDTH 0).wr HIF.LINK_STAT_FLIT 0)).setBoot { s.boot with linkUp := false }

/-- A boot error: the sequence stops, the block at fault and DEV enter FAULTED, and BOOT_STAGE reads FAILED; THERMAL and
SUPPLY take precedence over another error of the same tick (R182, R185). -/
def State.bootError (code unit : Nat) (s : State) : State :=
  if s.booting then
    (let answers := hifAnswers code unit
     let s := s.releaseBlocks (s.releasedPages answers)
     let s := if pagePresent s.part unit && !alwaysOn unit then s.faultBlock unit false none else s
     let s := if s.devFaulted then s else (s.goto 0x000 .faulted causeFault).syncPin
     let s := ((s.wr DEV.BOOT_STAGE 0xF).wr DEV.BOOT_ERR code).wr DEV.BOOT_UNIT unit
     let s := if answers then s else s.hifNoLink
     s.setBoot { s.boot with stageTick := s.tick })
  else if s.stage = 0xF ∧ s.boot.stageTick = s.tick ∧ (code = 0x0D ∨ code = 0x0E) ∧ s.rd DEV.BOOT_ERR ≠ 0x0D
      ∧ s.rd DEV.BOOT_ERR ≠ 0x0E then
    ((s.wr DEV.BOOT_ERR code).wr DEV.BOOT_UNIT unit).hifNoLink
  else s

/-! ### The event sampler (R113 to R119) -/

/-- The bytes of a record (Table TCK-2). -/
def EvtRecord.bytes (r : EvtRecord) : List Byte :=
  leBytes 8 r.tick
    ++ leBytes 4 (r.source % 128 + sourceClass r.source * 2 ^ 8 + r.count % 256 * 2 ^ 16 + r.seq % 128 * 2 ^ 24)
    ++ leBytes 4 r.detail

/-- A source is masked from the log (R119). -/
def State.evtMasked (s : State) (i : Nat) : Bool :=
  if i < 8 then false
  else if i < 32 then s.bitOn BZ_EVT.EVT_MASK0 i
  else if i < 64 then s.bitOn BZ_EVT.EVT_MASK1 (i - 32)
  else s.bitOn BZ_EVT.EVT_MASK2 (i - 64)

/-- EVT_LOG_BASE lies in the Casket and is aligned (Table TCK-13). -/
def State.evtBaseOk (s : State) : Bool :=
  let b := s.rd64 BZ_EVT.EVT_LOG_BASE_LO BZ_EVT.EVT_LOG_BASE_HI
  decide (b % 16384 = 0) && inCasket b 16384

/-- A record goes to the log (R116, R118); logging is held off while the base is bad (log entry 41). -/
def State.logEvent (r : EvtRecord) (s : State) : State :=
  if !s.on BZ_EVT.EVT_CTRL_LOG_EN || !s.evtBaseOk || s.evtMasked r.source then s
  else
    let w := s.rd BZ_EVT.EVT_WR_IDX
    if (w + 1) % 1024 = s.rd BZ_EVT.EVT_RD_IDX then (s.setW1c BZ_EVT.EVT_STAT_OVERFLOW 1).inc BZ_EVT.EVT_LOST
    else
      let base := s.rd64 BZ_EVT.EVT_LOG_BASE_LO BZ_EVT.EVT_LOG_BASE_HI
      (s.storeFrom 0 (base + 16 * w) r.bytes).wr BZ_EVT.EVT_WR_IDX ((w + 1) % 1024)

/-- One record is delivered; an E0 event raises PF MSI-X vector 3 (R113, R648). -/
def State.deliverEvent (r : EvtRecord) (s : State) : State :=
  let s := (s.logEvent r).emit (.event r)
  if r.source < 8 then s.emit (.msix 0 3) else s

/-- TICK_EVENT_SAMPLING (R113 to R119): the tick's events are sampled once. What fires in the tick after that is sampled in the next
(R117, log entry 77). -/
def execTickEventSampling (s : State) : Host.Outcome State Fault Refusal :=
  .next (
    if !s.evt.sampled.isEmpty then s
    else
      let fired := s.evt.fired
      let s := (List.range fired.length).foldl (fun (t : State) i =>
        match fired[i]? with
        | some (src, cnt, det) =>
          t.deliverEvent { tick := t.tick, source := src, count := cnt, seq := i, detail := det % 2 ^ 32 }
        | none => t) s
      { s with evt := { s.evt with fired := [], sampled := fired.map (·.1) } })

/-- The sources of this tick: those sampled in it, or, while none has been, those that have fired for its sampling. -/
def State.sourcesNow (s : State) : List Nat :=
  if s.evt.sampled.isEmpty then s.evt.fired.map (·.1) else s.evt.sampled

/-- A write of LOG_EN = 1: with a base outside the Casket or not aligned logging is held off (Table TCK-13). -/
def State.evtLogEnable (s : State) : State :=
  let s := s.wr BZ_EVT.EVT_CTRL_LOG_EN 1
  if s.evtBaseOk then s else s.setW1c BZ_EVT.EVT_STAT_BASE_BAD 1

/-- EVT_LOG_ENABLE (R116, R155). -/
def execEvtLogEnable (rq : Requester) (s : State) : Host.Outcome State Fault Refusal :=
  .next (s.access rq 0x004 State.evtLogEnable)

/-- Sources that never fire (Table TCK-1). -/
def reservedSource (i : Nat) : Bool :=
  i == 15 || (decide (28 ≤ i) && decide (i ≤ 31)) || (decide (39 ≤ i) && decide (i ≤ 47)) || i == 63 || decide (95 ≤ i)

/-- The sources of an EVT_INJECT word fire in the next tick (Table TCK-13). -/
def State.evtInject (word bits : Nat) (s : State) : State :=
  let new := ((setBitsBelow 32 bits).map (32 * word + ·)).filter (fun i => !reservedSource i && !s.evt.inject.contains i)
  { s with evt := { s.evt with inject := s.evt.inject ++ new } }

/-- EVT_INJECT (R155). -/
def execEvtInject (rq : Requester) (word bits : Nat) (s : State) : Host.Outcome State Fault Refusal :=
  .next (if word < 3 then s.access rq 0x004 (fun t => t.expert 0x004 (State.evtInject word bits)) else s)

/-- The injected sources of the last tick fire, with DETAIL 0; source 2 or 3 ends boot (R155, R185). -/
def State.fireInjected (s : State) : State :=
  let l := s.evt.inject
  let s := l.foldl (fun (t : State) i => t.fire i 0) { s with evt := { s.evt with inject := [] } }
  let s := if l.contains 2 then s.bootError 0x0E 0 else s
  if l.contains 3 then s.bootError 0x0D 0 else s

/-! ### REFCLK_25 and the PLLs (R107 to R111, R121 to R124, R660, R661) -/

/-- A clock failure is class C3 for PLLs 0 and 3 and for REFCLK_25, C2 for the others (R633, R661). -/
def clockClass (pll : Nat) : Nat := if pll = 0 ∨ pll = 3 ∨ 8 ≤ pll then 3 else 2

/-- What a block's clock failure takes with it besides the block. -/
def State.clockGone (page : Nat) (s : State) : State :=
  if page = 0x080 then s.hmToKeeper
  else if page = 0x08C then s.fabFaulted
  else if 0x020 ≤ page ∧ page ≤ 0x027 then
    (if s.rd (CL.LINK_STAT_STATE (page - 0x020)) = lsFatal then s else s.wr (CL.LINK_STAT_STATE (page - 0x020)) lsDown)
  else s

/-- The blocks of a list of pages that a clock failure faults enter FAULTED: those outside OFF and, at a failed start, those
the start would have made READY (R123, R124). A block in OFF with ENABLE = 0 stays there. -/
def State.clockFault (ps : List Nat) (isLocal start : Bool) (rep : Nat) (s : State) : State :=
  ps.foldl (fun (t : State) p =>
    if t.bst p != .off || (start && t.on (HDR.BLK_CTRL_ENABLE p)) then
      (t.faultBlock p isLocal (some rep)).clockGone p
    else t) s

/-- The page named in a report of a PLL's failure: a block that the PLL feeds (Table FLT-6). -/
def pllPage (n : Nat) : Nat :=
  if 4 ≤ n then pgFct (n - 4) 0 else if n = 0 then 0x010 else if n = 1 then 0x068 else if n = 2 then 0x080 else 0x030

/-- A PLL has lost lock, or has not locked: one detection of the clock monitor (R123, R124, R633, R634). -/
def State.pllFault (n : Nat) (start : Bool) (s : State) : State :=
  let ps := s.blockPages.filter (fun p => (pllsOf s.part p).contains n)
  let s := s.stopPll n
  let (q, s) := s.detect 0x10 (clockClass n) (pllPage n) n 0x7F none
  let s := s.clockFault ps (clockClass n == 2) start q
  if n = 3 then s.endAll (some q) else s

/-- REFCLK_25 is lost while PLLs run: one detection for all of them (R660). -/
def State.refFault (s : State) : State :=
  let ns := s.pwr.pllOn.map (·.1)
  if ns.isEmpty then s
  else
    let ps := s.blockPages.filter (fun p => (pllsOf s.part p).any (fun n => ns.contains n))
    let s := ns.foldl (fun (t : State) n => t.stopPll n) s
    let (q, s) := s.detect 0x10 3 0x001 0xFF 0x7F none
    ((s.clockFault ps false false q)).endAll (some q)

/-- REFCLK_LOST (R110, R660). -/
def execRefclkLost (s : State) : Host.Outcome State Fault Refusal :=
  .next (
    if s.on BZ_AON.AON_STAT_REF_PRESENT then
      (let s := ((s.wr BZ_AON.AON_STAT_REF_PRESENT 0).setW1c BZ_AON.AON_STAT_REF_LOST 1).wr BZ_AON.AON_STAT_DISCIPLINED 0
       (s.setPwr { s.pwr with refBack := none }).refFault)
    else s)

/-- REFCLK_RETURN (R111, R171): the budget of CLOCKS counts from the presence of REFCLK_25. -/
def execRefclkReturn (s : State) : Host.Outcome State Fault Refusal :=
  .next (
    if s.on BZ_AON.AON_STAT_REF_PRESENT then s
    else
      let s := (s.wr BZ_AON.AON_STAT_REF_PRESENT 1).setPwr { s.pwr with refBack := some s.tick }
      if s.stage = 1 then s.setBoot { s.boot with stageTick := s.tick } else s)

/-- AONCLK_DISCIPLINED (R107, R111): at the end of the first 1 s window whose mean frequency is within 0.1 ppm; `freqErr` is
AONCLK's error in 0.1 ppm. -/
def execAonclkDisciplined (freqErr : Nat) (s : State) : Host.Outcome State Fault Refusal :=
  .next (
    match s.pwr.refBack with
    | some t =>
      if s.on BZ_AON.AON_CTRL_DISCIPLINE_EN && decide (t + 1000000 ≤ s.tick)
          && decide ((toSigned 16 freqErr).natAbs ≤ 1) then
        (((s.wr BZ_AON.AON_STAT_DISCIPLINED 1).wr BZ_AON.AON_STAT_FREQ_ERR freqErr).setPwr
          { s.pwr with refBack := none })
      else s
    | none => s)

/-- A write of AON_CTRL.DISCIPLINE_EN: with 0, AONCLK runs free (Table TCK-11). -/
def State.disciplineEn (on : Bool) (s : State) : State :=
  let was := s.on BZ_AON.AON_CTRL_DISCIPLINE_EN
  let s := s.wr BZ_AON.AON_CTRL_DISCIPLINE_EN (b2n on)
  if !on then s.wr BZ_AON.AON_STAT_DISCIPLINED 0
  else if !was && s.on BZ_AON.AON_STAT_REF_PRESENT then s.setPwr { s.pwr with refBack := some s.tick }
  else s

/-- A PLL enabled has locked, while REFCLK_25 is present. -/
def State.lockPll (n : Nat) (s : State) : State :=
  if (mapFind s.pwr.pllOn n).isSome && s.on BZ_AON.AON_STAT_REF_PRESENT then s.orBits BZ_PM.PLL_LOCK (2 ^ n) else s

/-- Every PLL that is enabled has locked. -/
def State.allLocked (s : State) : Bool := s.pwr.pllOn.all (fun e => s.bitOn BZ_PM.PLL_LOCK e.1)

/-- PLL_LOCK (R80, R121): outside boot, a sleep state and a wake, blocks that waited for it become READY. -/
def execPllLock (n : Nat) (s : State) : Host.Outcome State Fault Refusal :=
  .next (
    let s := s.lockPll n
    let s := if s.allLocked then s.setPwr { s.pwr with wakeLocks := false } else s
    if s.stage = 8 ∧ s.pm ≤ 1 ∧ s.pwr.entry.isNone ∧ s.pwr.wake.isNone then s.readyWaiting causeSoftware else s)

/-- The code and tick of a PM_REQ's result (Table TCK-12). -/
def State.pmResult (code : Nat) (s : State) : State :=
  (s.wr BZ_PM.PM_RESULT_CODE code).wr BZ_PM.PM_RESULT_TICK (s.tick % 65536)

def prDone : Nat := 0
def prInProgress : Nat := 1
def prQueue : Nat := 2
def prDrop : Nat := 3
def prWake : Nat := 4
def prBusy : Nat := 5
def prInvalid : Nat := 6
def prAbandoned : Nat := 7
def prPllFail : Nat := 8

/-- PLL_LOCK_TIMEOUT (R124): 40 ticks after it was enabled. In boot a PLL that does not lock is a boot error; in a wake the
result is PLL_FAIL. -/
def execPllLockTimeout (n : Nat) (s : State) : Host.Outcome State Fault Refusal :=
  .next (
    match mapFind s.pwr.pllOn n with
    | some t =>
      if s.bitOn BZ_PM.PLL_LOCK n || decide (s.tick < t + 40) then s
      else
        let boot := s.booting
        let waking := s.pwr.wake.isSome || s.pwr.wakeLocks
        let s := s.pllFault n true
        let s := if waking then s.pmResult prPllFail else s
        let s := s.setPwr { s.pwr with wakeLocks := s.pwr.wakeLocks && !s.allLocked }
        if boot then s.bootError 0x02 (0x3F8 + n) else s
    | none => s)

/-- CLOCK_MONITOR_FAULT (R123, R660): a running PLL loses lock or departs from its frequency; 0xFF stands for REFCLK_25. -/
def execClockMonitorFault (pll : Nat) (s : State) : Host.Outcome State Fault Refusal :=
  .next (
    if pll = 0xFF then (if s.on BZ_AON.AON_STAT_REF_PRESENT then s else s.refFault)
    else if (mapFind s.pwr.pllOn pll).isSome then s.pllFault pll false else s)

/-! ### DOZE (R125, R126) -/

/-- What stops in DOZE for want of CLK_REQ: Hallmark's timing core and Filigree's channels (R125, R498, Table HM-8). -/
def State.dozeStops (s : State) : State :=
  let s := if (s.bst 0x080 == .active) && !s.on (HDR.BLK_CTRL_CLK_REQ 0x080) then s.hmToKeeper else s
  if s.on (HDR.BLK_CTRL_CLK_REQ 0x078) then s else s.filHalt 1

/-- Hallmark's core runs again from the keeper, where HM is ACTIVE and clocked. -/
def State.hmResume (s : State) : State :=
  if (s.bst 0x080 == .active) && s.on HM.CELL_STAT_COARSE && s.bitOn BZ_PM.PLL_LOCK 2 then s.hmRestart else s

/-- Ticks of idleness before DOZE. -/
def State.dozeAfter (s : State) : Nat := atLeast1 (s.rd BZ_PM.AUTO_DOZE_IDLE_TICKS)

/-- AUTO_DOZE_ENTRY (R125, R189, Table TCK-6). -/
def execAutoDozeEntry (s : State) : Host.Outcome State Fault Refusal :=
  .next (
    if s.on BZ_PM.AUTO_DOZE_EN && s.awake && decide (s.stage = 8) && s.pwr.entry.isNone && s.pwr.wake.isNone
        && s.sch.reqs.isEmpty && decide (s.pendingAll = 0) && decide (s.dozeAfter ≤ s.pwr.idle) && !s.pwr.tripped then
      ((s.wr BZ_PM.PM_STATE_CUR 1).wr BZ_PM.PM_STATE_TARGET 1).dozeStops
    else s)

/-- A trigger of R126 has been sampled in this tick. -/
def State.dozeTriggered (s : State) (t : DozeTrigger) : Bool :=
  let l := s.sourcesNow
  match t with
  | .doorbell => l.any (fun i => decide (64 ≤ i) && decide (i ≤ 79))
  | .e0 => l.any (fun i => decide (i < 8))
  | _ => true

/-- DOZE_EXIT (R126): AWAKE reads two ticks after the trigger. -/
def execDozeExit (t : DozeTrigger) (s : State) : Host.Outcome State Fault Refusal :=
  .next (if s.dozeTriggered t then s.leaveDoze else s)

/-- The tick AWAKE reads in after DOZE has come (R126). -/
def State.dozeEnds (s : State) : State :=
  match s.pwr.dozeExit with
  | some t =>
    if t ≤ s.tick then
      ((((s.setPwr { s.pwr with dozeExit := none, idle := 0 }).wr BZ_PM.PM_STATE_CUR 0).wr BZ_PM.PM_STATE_TARGET 0).wr
        BZ_PM.PM_STATE_IN_TRANSITION 0).hmResume
    else s
  | none => s

/-! ### Wake sources (R129, R140) -/

/-- The wake sources among the events of this tick, in the bit order of WAKE_EN (Table TCK-12). -/
def State.wakeSources (s : State) : Nat :=
  let l := s.sourcesNow
  b2n (l.contains 13) + 2 * b2n (l.any (fun i => decide (64 ≤ i) && decide (i ≤ 79)))
    + 4 * b2n (l.any (fun i => decide (16 ≤ i) && decide (i ≤ 23))) + 8 * b2n (l.contains 8)
    + 16 * b2n (l.contains 84 || l.contains 86) + 32 * b2n s.io.mspiWake

/-- Enabled wake sources of this tick, and whether an E0 source is among its events. -/
def State.wakeNow (s : State) : Nat × Bool :=
  (Nat.land s.wakeSources (s.rd BZ_PM.WAKE_EN), s.sourcesNow.any (fun i => decide (i < 8)))

/-- The lowest event index of this tick; 0xFF where there is none. -/
def State.lowestEvent (s : State) : Nat :=
  s.sourcesNow.foldl (fun n i => if i < n then i else n) 0xFF

/-- WAKE_CAUSE as the waking tick sets it (R140, Table TCK-12). -/
def State.wakeCause (src : Nat) (e0 : Bool) (index : Nat) (s : State) : State :=
  let s := s.setPwr { s.pwr with wokeAt := some s.tick }
  ((s.wr BZ_PM.WAKE_CAUSE_SRC src).wr BZ_PM.WAKE_CAUSE_E0 (b2n e0)).wr BZ_PM.WAKE_CAUSE_INDEX index

/-- Wake latency of a state (Table TCK-5). -/
def wakeLatency (pm : Nat) : Nat := if pm = 1 then 2 else if pm = 2 then 25 else if pm = 3 then 400 else 9000

/-- Entry time of a state after drain (Table TCK-6). -/
def entryTime (target : Nat) : Nat := if target = 2 then 5 else if target = 3 then 100 else 2000

/-- A wake from NAP, SLEEP or DEEP begins: the PLLs are enabled in the next tick (R130, Tables TCK-7 and TCK-15). -/
def State.startWake (src : Nat) (e0 : Bool) (index result : Nat) (s : State) : State :=
  let s := s.setPwr { s.pwr with
    entry := none, entryFrom := none, wake := some (s.tick, s.tick + wakeLatency s.pm), wakeBad := ([], []) }
  let s := ((s.wr BZ_PM.PM_STATE_IN_TRANSITION 1).wr BZ_PM.PM_STATE_TARGET 0).pmResult result
  let ns := (List.range 8).filter (fun n => s.pllNeeded n)
  let s := s.setPwr { s.pwr with pllOn := ns.foldl (fun m n => mapInsert m n (s.tick + 1)) s.pwr.pllOn }
  s.wakeCause src e0 index

/-- An entry is abandoned (R137): from AWAKE or DOZE the device is in AWAKE at once, and blocks already OFF return to READY;
from a sleep state the wake from that state begins. -/
def State.abandon (src : Nat) (e0 : Bool) (index : Nat) (s : State) : State :=
  if 2 ≤ s.pm then s.startWake src e0 index prAbandoned
  else
    let s := s.setPwr { s.pwr with entry := none, entryFrom := none, idle := 0 }
    let s := ((s.wr BZ_PM.PM_STATE_CUR 0).wr BZ_PM.PM_STATE_TARGET 0).wr BZ_PM.PM_STATE_IN_TRANSITION 0
    ((s.pmResult prAbandoned).wakeCause src e0 index).hmResume.readyWaiting causePower

/-- A PM_REQ of this tick meets a wake source sampled in it: it is refused, and the entry that it requested does not begin (R127). -/
def State.refuseEntry (s : State) : State :=
  let s := s.setPwr { s.pwr with entry := none, entryFrom := none }
  ((s.wr BZ_PM.PM_STATE_TARGET s.pm).wr BZ_PM.PM_STATE_IN_TRANSITION 0).pmResult prWake

/-- The result a wake begins with: a PM_REQ of this tick that was refused WAKE_PENDING keeps its result (R127, R129). -/
def State.wakeResult (s : State) : Nat :=
  if s.rd BZ_PM.PM_RESULT_CODE = prWake ∧ s.rd BZ_PM.PM_RESULT_TICK = s.tick % 65536 then prWake else prInProgress

/-- The sources of the tick wake the device from where it rests: a doorbell or an E0 event from DOZE (R126), any enabled source or an
E0 event from a sleep state (R129, R130). -/
def State.sourcesWake (src : Nat) (e0 : Bool) (s : State) : State :=
  if s.pm = 1 then (if s.dozeTriggered .doorbell || e0 then s.leaveDoze else s)
  else if decide (2 ≤ s.pm) && s.pwr.wake.isNone then s.startWake src e0 s.lowestEvent s.wakeResult
  else s

/-- WAKE_START (R126, R127, R129, R130, R137, R140): a wake that began in this very tick takes the tick's sources into its WAKE_CAUSE; a
PM_REQ of the tick is refused, and the sources wake what they would have woken without it. -/
def execWakeStart (s : State) : Host.Outcome State Fault Refusal :=
  .next (
    let (src, e0) := s.wakeNow
    if s.pwr.wokeAt = some s.tick then s.wakeCause src e0 s.lowestEvent
    else if src = 0 ∧ !e0 then s
    else if s.pwr.entry.any (fun e => e.2.1 == s.tick) then s.refuseEntry.sourcesWake src e0
    else if s.pwr.entry.isSome then s.abandon src e0 s.lowestEvent
    else s.sourcesWake src e0)

/-! ### Entering NAP, SLEEP and DEEP (R127, R137, R138, R658, R663, R664) -/

/-- One block on the way down: idle it enters OFF, with work, a peer's too, it drains (R127); the row cache writes its dirty rows back
(R394). FAB and its ports wait for the graceful leave
(R575) and for the end of the reclaim of every grant (R274). -/
def State.powerDown (page : Nat) (s : State) : State :=
  if decide (0x088 ≤ page) && decide (page ≤ 0x08C)
      && ((s.fab.leaving && !s.fab.goneSent) || s.fab.peers.any (fun e => e.2.grant.isSome)) then s
  else match s.bst page with
    | .ready =>
      let s := if page = 0x063 then s.rowsBack (fun _ => true) else s
      if s.pageIdle page then (s.onPowerOff page).goto page .off causePower else s.goto page .draining causePower
    | .active =>
      let s := if page = 0x063 then s.rowsBack (fun _ => true) else s
      let s := if page = 0x080 then s.hmToKeeper else s
      s.goto page .draining causePower
    | .draining => s.setBlk page { s.blk page with cause := causePower }
    | _ => s

/-- Every block goes down (R127). -/
def State.powerDownAll (s : State) : State := s.blockPages.foldl (fun (t : State) p => t.powerDown p) s

/-- Nothing holds the entry back (R127, R274, R575, R658). -/
def State.allDown (s : State) : Bool :=
  s.blockPages.all (fun p => match s.bst p with
    | .off => true
    | .faulted => true
    | .fenced => (s.blk p).drained
    | _ => false)
    && s.fab.peers.all (fun e => e.2.grant.isNone) && (!s.fab.leaving || s.fab.goneSent)

/-- What an accepted PM_REQ for a sleep state sets in motion: Filigree stops, the graceful leave and the reclaim of what is lent begin
(R274, R498, R575). -/
def State.entryBegins (s : State) : State := ((s.filHalt 1).fabLeave).reclaimAll

/-- The entry goes on at the end of a tick, from the tick of the PM_REQ on: blocks go down, those enabled meanwhile too, and the entry
time counts from the tick in which nothing holds it back any more (R127, R658, R664). -/
def State.entryGoesOn (s : State) : State :=
  if s.pwr.entry.isSome && s.pwr.entryFrom.isNone then
    (let s := if s.pwr.entry.any (fun e => e.2.1 == s.tick) then s.entryBegins else s
     let s := s.powerDownAll
     if s.allDown then s.setPwr { s.pwr with entryFrom := some s.tick } else s)
  else s

/-- An accepted PM_REQ for NAP, SLEEP or DEEP: admission stops at once; blocks go down from the end of the tick on, when no wake source
of the tick has refused it (R127). -/
def State.startEntry (target : Nat) (s : State) : State :=
  let s := s.setPwr { s.pwr with entry := some (target, s.tick, s.pm), entryFrom := none }
  ((s.wr BZ_PM.PM_STATE_TARGET target).wr BZ_PM.PM_STATE_IN_TRANSITION 1).pmResult prInProgress

/-- A PM_REQ for a sleep state (R127, R138, R664). -/
def State.pmSleep (target : Nat) (dropT0 dropHbm : Bool) (s : State) : State :=
  let (src, e0) := s.wakeNow
  if s.on BZ_PM.PM_STATE_IN_TRANSITION then s.pmResult prBusy
  else if s.pm = target then s.pmResult prDone
  else if target < s.pm ∧ 2 ≤ s.pm then s.pmResult prInvalid
  else if s.pendingAll ≠ 0 then s.pmResult prQueue
  else if (3 ≤ target ∧ !dropT0) ∨ (target = 4 ∧ !dropHbm) then s.pmResult prDrop
  else if src ≠ 0 ∨ e0 then s.pmResult prWake
  else s.startEntry target

/-- PM_REQ_NAP (R127). -/
def execPmReqNap (rq : Requester) (dropT0 dropHbm : Bool) (s : State) : Host.Outcome State Fault Refusal :=
  .next (s.access rq 0x002 (State.pmSleep 2 dropT0 dropHbm))

/-- PM_REQ_SLEEP (R127, R664). -/
def execPmReqSleep (rq : Requester) (dropT0 dropHbm : Bool) (s : State) : Host.Outcome State Fault Refusal :=
  .next (s.access rq 0x002 (State.pmSleep 3 dropT0 dropHbm))

/-- PM_REQ_DEEP (R127, R664). -/
def execPmReqDeep (rq : Requester) (dropT0 dropHbm : Bool) (s : State) : Host.Outcome State Fault Refusal :=
  .next (s.access rq 0x002 (State.pmSleep 4 dropT0 dropHbm))

/-- A PM_REQ with TARGET = AWAKE (R126, R129, R137, R138). -/
def State.pmAwake (s : State) : State :=
  if s.pwr.entry.isSome then s.abandon 0 false 0xFF
  else if s.pwr.wake.isSome then s
  else if 2 ≤ s.pm then s.startWake 0 false 0xFF prInProgress
  else s.leaveDoze.pmResult prDone

/-- PM_REQ_AWAKE (R126, R129, R138). -/
def execPmReqAwake (rq : Requester) (s : State) : Host.Outcome State Fault Refusal := .next (s.access rq 0x002 State.pmAwake)

/-- A PM_REQ that is refused as it stands: TARGET 1 or 5 to 7 (Table TCK-12), or a shallower sleep state (R664). -/
def State.pmInvalid (target : Nat) (s : State) : State :=
  let bad := decide (target = 1) || decide (5 ≤ target) || (decide (2 ≤ s.pm) && decide (2 ≤ target) && decide (target < s.pm))
  if !bad then s
  else if s.on BZ_PM.PM_STATE_IN_TRANSITION then s.pmResult prBusy
  else s.pmResult prInvalid

/-- PM_REQ_INVALID (R138, R154, R664). -/
def execPmReqInvalid (rq : Requester) (target : Nat) (s : State) : Host.Outcome State Fault Refusal :=
  .next (s.access rq 0x002 (State.pmInvalid (target % 8)))

/-! ### What a sleep state loses (R131, R258, R324, R356, R394, R437, R498) -/

/-- A plan slot has a tile pinned in one of the tiers. -/
def State.pinsTier (s : State) (p : PlanSlot) (tiers : List Nat) : Bool :=
  p.pinned.any (fun a => match mapFind s.ck.slots a with
    | some e => tiers.contains e.tier
    | none => false)

/-- Every slot of the tiers is emptied, the keep region aside; objects at home there are LOST, and plan slots with a tile
pinned there are emptied (R258, R356). -/
def State.tiersLost (tiers : List Nat) (s : State) : State :=
  let plans := s.sch.plans.filter (fun e => !s.pinsTier e.2 tiers)
  let gone := s.sch.plans.filter (fun e => s.pinsTier e.2 tiers)
  let s := gone.foldl (fun (t : State) e => t.unpin e.2.pinned) s
  let s := s.setSch { s.sch with plans := plans }
  let lostObj := fun (o : Obj) => tiers.contains o.home && !placeKeep o.place && !o.lost
  let ids := (s.ck.objs.filter lostObj).map (fun o => (o.ws, o.id))
  let s := ids.foldl (fun (t : State) i => t.loseObj i.1 i.2) s
  s.setCk { s.ck with slots := s.ck.slots.filter (fun e => !tiers.contains e.2.tier || e.2.keep) }

/-- Pages of power-gated Facets relock, and unlock sequences on them end (R64, R136). -/
def State.relockFacets (s : State) : State :=
  let ps := (List.range 32).map (0x040 + ·)
  let s := ps.foldl (fun (t : State) p => t.wr (HDR.EXP_STATE_UNLOCKED p) 0) s
  { s with bus := { s.bus with armed := s.bus.armed.filter (fun e => !ps.contains (e.1 % 1024)) } }

/-- Sensors on dies that are power-gated in a state (R141); the guest die of the PMX-7241 is not gated, so the sensors of position 3
go on being read there (R128). -/
def staleSensors (part : Part) (pm : Nat) : List Nat :=
  ((if 3 ≤ pm then (List.range 12).map (8 + ·) ++ [58, 59, 60, 61] else []).filter
      (fun i => !(decide (part = .pmx7241) && [14, 15, 19, 61].contains i)))
    ++ (if pm = 4 then [20, 21, 22, 23, 62] else [])

/-- The sensors of Ff with its Locket, and those of HBM (Table TCK-9). -/
def facetSensors (f : Nat) : List Nat := [8 + 2 * f, 9 + 2 * f, 16 + f, 58 + f]
def hbmSensors : List Nat := [20, 21, 22, 23, 62]

/-- Sensors that are read again, or no more. -/
def State.setStale (l : List Nat) (b : Bool) (s : State) : State :=
  l.foldl (fun (t : State) i => t.wr (BZ_THERM.SENS_STALE i) (b2n b)) s

/-- Lockets lose their contents (R324); the wake initialises them (R131). -/
def State.locketsLost (s : State) : State :=
  let s := s.tiersLost [0]
  s.setCk { s.ck with lent := [] }

/-- What DEEP loses besides: what HBM and the Casket outside the keep region hold, tables, indexes and Filigree's settings; the wake
zeroes the memories (R132, R133). -/
def State.deepLost (s : State) : State := (((s.tiersLost [1, 2]).rowsLost).indexesLost).filLost

/-- A link enters L1; one that retrains to another mode has that mode when the wake has retrained it (R128, R201, R234). A guest that still
negotiates is left alone. -/
def State.linkToL1 (l : Nat) (s : State) : State :=
  if s.linkUp l then s.wr (CL.LINK_STAT_STATE l) lsL1
  else match (s.lnk l).retrain with
    | some (_, mode) =>
      if s.training l && !(s.isGuestLink l && s.slotStart.isSome) then
        (((s.setLnk l { s.lnk l with retrain := none }).wr (CL.LINK_CFG_MODE l) (b2n mode)).wr (CL.LINK_CFG_FORCED l)
          (b2n (mode && !s.isGuestLink l))).wr (CL.LINK_STAT_STATE l) lsL1
      else s
    | none => s

/-- POWER_STATE_ENTRY_COMPLETE (R127, R128, R141): the entry time has passed since nothing held the entry back. -/
def execPowerStateEntryComplete (s : State) : Host.Outcome State Fault Refusal :=
  .next (
    match s.pwr.entry, s.pwr.entryFrom with
    | some (target, _, _), some t =>
      if s.tick < t + entryTime target then s
      else
        let ns := s.pwr.pllOn.map (·.1)
        let s := ns.foldl (fun (u : State) n => u.stopPll n) s
        let s := s.setPwr { s.pwr with entry := none, entryFrom := none, dozeExit := none }
        let s := ((s.wr BZ_PM.PM_STATE_CUR target).wr BZ_PM.PM_STATE_TARGET target).wr BZ_PM.PM_STATE_IN_TRANSITION 0
        let s := (s.pmResult prDone).fabStop
        let s := (List.range 8).foldl (fun (u : State) l => u.linkToL1 l) s
        let s := (List.range 4).foldl (fun (u : State) h => u.wr (HBM.HBM_STAT_SELF_REFRESH h) (b2n (decide (target ≤ 3)))) s
        let s := if 3 ≤ target then s.locketsLost.relockFacets else s
        let s := if target = 4 then s.deepLost else s
        s.setStale (staleSensors s.part target) true
    | _, _ => s)

/-! ### Waking (R129 to R133, R139) -/

/-- A write of the wake timer (R139). -/
def State.wakeTimer (v : Nat) (s : State) : State :=
  let s := s.wr64 BZ_PM.WAKE_TICK_LO BZ_PM.WAKE_TICK_HI (v % 2 ^ 64)
  s.setPwr { s.pwr with timerLate := if v % 2 ^ 64 ≤ s.tick then some s.tick else none }

/-- WAKE_TIMER_SET (R129, R139). -/
def execWakeTimerSet (rq : Requester) (value : Nat) (s : State) : Host.Outcome State Fault Refusal :=
  .next (s.access rq 0x002 (State.wakeTimer value))

/-- The timer matches in this tick. -/
def State.timerMatches (s : State) : Bool :=
  match s.pwr.timerLate with
  | some t => decide (t < s.tick)
  | none => decide (s.rd64 BZ_PM.WAKE_TICK_LO BZ_PM.WAKE_TICK_HI = s.tick)

/-- WAKE_TIMER_MATCH (R129, R139): source 13 fires. -/
def execWakeTimerMatch (s : State) : Host.Outcome State Fault Refusal :=
  .next (if s.timerMatches then (s.setPwr { s.pwr with timerLate := none }).fire 13 0 else s)

/-- A link leaves L1. After SLEEP or DEEP, one whose restore or wake lane check fails is a link fatal (R132, R234). -/
def State.linkWakes (checked : Bool) (l : Nat) (s : State) : State :=
  if s.rd (CL.LINK_STAT_STATE l) = lsL1 then
    (let s := s.wr (CL.LINK_STAT_STATE l) lsUp
     if checked && s.pwr.wakeBad.1.contains l && !s.isGuestLink l then s.linkFatal l 0x06 4 0x1FF else s)
  else s

/-- HBM after DEEP: a stack that fails to restore is a device fault (R29, R132). -/
def State.hbmRestored (s : State) : State :=
  (List.range 4).foldl (fun (t : State) h =>
    if t.pwr.wakeBad.2.contains h then
      (let (q, t) := t.detect 0x01 3 (pgHbm h) h 0x7F none
       (t.faultBlock (pgHbm h) false (some q)).wr (HBM.HBM_STAT_TRAINED h) 0)
    else t) (s.dpaClear 0 hbmSize)

/-- Stacks that came back begin to zero themselves in the background (R133). -/
def State.zeroBegins (s : State) : State :=
  (List.range 4).foldl (fun (t : State) h =>
    if t.on (HBM.HBM_STAT_TRAINED h) then
      (t.setPwr { t.pwr with zero := mapInsert t.pwr.zero h { since := t.tick, next := 0, early := [] } }).wr
        (HBM.HBM_STAT_ZEROING h) 1
    else t) s

/-- One Facet position of a wake from SLEEP or DEEP in tick W + d: its sensors are read again once its gate is open; its Locket is
zero and its link is up after the wake lane check (R141, Table TCK-15). -/
def State.facetWakes (d f : Nat) (s : State) : State :=
  if !s.hasFacet f then s
  else if d = 40 + 40 * f then s.setStale (facetSensors f) false
  else if d = 140 + 40 * f then (s.dpaClear (locketBase f) locketSize).linkWakes true f
  else s

/-- The steps of Table TCK-15 that end in this tick of a wake (R131, R132). -/
def State.wakeSteps (s : State) : State :=
  match s.pwr.wake with
  | none => s
  | some (w, _) =>
    let d := s.tick - w
    if s.pm < 3 then s
    else
      let s := (List.range 4).foldl (fun (t : State) f => t.facetWakes d f) s
      let s := if d = 340 then [4, 5, 6, 7].foldl (fun (t : State) l => t.linkWakes true l) s else s
      if s.pm < 4 then s
      else if d = 40 then s.dpaClear (casketBase + keepSize) (casketSize - keepSize)
      else if d = 1000 then s.setStale hbmSensors false
      else if d = 7000 then s.hbmRestored
      else s

/-- The wake ends: CUR reads AWAKE, links that rested in L1 resume, and every block whose clocks run returns to READY. A PLL that has
not locked yet keeps its domain back until it locks or R124 faults it (R124, R128, R130, R133, R658). -/
def State.wakeEnds (s : State) : State :=
  let from_ := s.pm
  let s := s.setPwr { s.pwr with wake := none, idle := 0, wakeLocks := !s.allLocked }
  let s := ((s.wr BZ_PM.PM_STATE_CUR 0).wr BZ_PM.PM_STATE_TARGET 0).wr BZ_PM.PM_STATE_IN_TRANSITION 0
  let s := (List.range 4).foldl (fun (t : State) h => t.wr (HBM.HBM_STAT_SELF_REFRESH h) 0) s
  let s := (List.range 8).foldl (fun (t : State) l => t.linkWakes false l) s
  let s := if from_ = 4 then s.zeroBegins else s
  let s := if s.rd BZ_PM.PM_RESULT_CODE = prInProgress then s.pmResult prDone else s
  s.readyWaiting causePower

/-- WAKE_COMPLETE (R124, R130 to R134, R137, R575, R658): the wake latency has passed, and the wake ends. Sent before that, it says
which PLLs, links and stacks fail in their steps: such a PLL is treated as having lost lock (R132). -/
def execWakeComplete (pllFail linkFail stackFail : List Nat) (s : State) : Host.Outcome State Fault Refusal :=
  .next (
    match s.pwr.wake with
    | some (_, at_) =>
      let s := s.setPwr { s.pwr with wakeBad := (s.pwr.wakeBad.1 ++ linkFail, s.pwr.wakeBad.2 ++ stackFail) }
      let s := (pllFail.filter (fun n => (mapFind s.pwr.pllOn n).isSome)).foldl (fun (t : State) n =>
        (t.pllFault n true).pmResult prPllFail) s
      if s.tick < at_ then s else s.wakeEnds
    | none => s)

/-- A stack has had the time for its next region: 24 GiB in 21,475 ticks, at the full HBM bandwidth (R133, log entry 81). -/
def zeroDue (z : HbmZero) (now : Nat) : Bool := decide ((z.next + 1) * 21475 ≤ (now - z.since) * (stackSize / 0x20_0000))

/-- The controller of a stack runs: its block is neither off nor stopped, and its clock runs (R125, R127, R133). -/
def State.hbmRuns (s : State) (stack : Nat) : Bool :=
  decide (s.pm ≤ 1) && (s.bst (pgHbm stack)).live && s.clockOn (pgHbm stack)

/-- A tick in which a controller does not run is no tick of its background zeroing (R133). -/
def State.zeroWaits (s : State) : State :=
  s.setPwr { s.pwr with zero := mapAll (fun h z => if s.hbmRuns h then z else { z with since := z.since + 1 }) s.pwr.zero }

/-- HBM_BACKGROUND_ZERO (R133): one stack zeroes its next 2 MiB region, unless a write has had it zeroed already. -/
def execHbmBackgroundZero (stack : Nat) (s : State) : Host.Outcome State Fault Refusal :=
  .next (
    match mapFind s.pwr.zero stack with
    | none => s
    | some z =>
      if !zeroDue z s.tick || !s.hbmRuns stack then s
      else
        let s := if z.early.contains z.next then s
          else s.dpaClear (stack * stackSize + z.next * 0x20_0000) 0x20_0000
        if stackSize / 0x20_0000 ≤ z.next + 1 then
          (s.setPwr { s.pwr with zero := mapErase s.pwr.zero stack }).wr (HBM.HBM_STAT_ZEROING stack) 0
        else s.setPwr { s.pwr with zero := mapInsert s.pwr.zero stack { z with next := z.next + 1 } })

/-! ### Operating points (R122, R143, R144, R146, R147, R151) -/

/-- The Facets of the part. -/
def State.facets (s : State) : List Nat := (List.range 4).filter (fun f => s.hasFacet f)

/-- The operating point the cap allows a Facet. -/
def State.capOp (s : State) (f : Nat) : Nat := bitsOf s.pwr.capOp (4 * f + 3) (4 * f)

/-- The state with the cap's operating point of a Facet. -/
def State.setCapOp (f op : Nat) (s : State) : State :=
  s.setPwr { s.pwr with capOp := putBits s.pwr.capOp (4 * f + 3) (4 * f) op }

/-- A Facet is held at OP6 by heat (R146, R147). -/
def State.hotHeld (s : State) (f : Nat) : Bool := s.pwr.facetHeld.testBit f || s.pwr.crownHot.isSome

/-- The operating point in force: the lowest that the cap, heat and OP_FORCE allow (R151, Table TCK-12). -/
def State.opNow (s : State) (f : Nat) : Nat :=
  let forced := if s.on BZ_PM.OP_FORCE_EN then clampNat 0 6 (bitsOf (s.rd BZ_PM.OP_FORCE_OP) (4 * f + 3) (4 * f)) else 0
  let heat := if s.hotHeld f then 6 else 0
  let m := if forced < heat then heat else forced
  if m < s.capOp f then s.capOp f else m

/-- The operating point of the slowest Facet. -/
def State.slowest (s : State) : Nat := s.facets.foldl (fun n f => if n < s.facetOp f then s.facetOp f else n) 0

/-- The operating points follow what allows them; CAP_LIMITING and source 94 follow the cap (R144). -/
def State.syncOps (s : State) : State :=
  let old := s.slowest
  let was := s.on BZ_PM.PCAP_STAT_CAP_LIMITING
  let lim := s.facets.any (fun f => s.capOp f != 0)
  let s := s.facets.foldl (fun (t : State) f => t.setOp f (t.opNow f)) s
  let s := s.wr BZ_PM.PCAP_STAT_CAP_LIMITING (b2n lim)
  if was && !lim then s.fire 94 0
  else if lim && s.slowest != old then s.fire 94 s.slowest
  else s

/-! ### Telemetry (R141, R142, R145, R148, R149, R160, R662) -/

/-- Nominal voltage of a rail in mV (Table BOOT-1). -/
def railNominal (r : Nat) : Nat :=
  [750, 1800, 900, 750, 750, 750, 750, 1200, 700, 700, 700, 700, 750, 1800, 1100, 400].getD r 0

/-- A rail's reading lies outside its nominal by more than a number of percent. -/
def State.railOff (s : State) (r pct : Nat) : Bool :=
  let v := s.rd (BZ_THERM.SENS_VALUE (24 + r))
  decide (pct * railNominal r < 100 * (v - railNominal r)) || decide (pct * railNominal r < 100 * (railNominal r - v))

/-- The counts of a rail: ticks outside ±5 % since the release of SYS_RST_N, and inside after an excursion; 3 outside stands
for an excursion that has been reported (R160, R164). -/
def State.railTick (r : Nat) (s : State) : State :=
  if s.part = .pmx7241 ∧ r = 11 then s
  else
    let (o, i) := (mapFind s.pwr.rails r).getD (0, 0)
    let rails :=
      if s.tick < s.boot.sysRel then mapErase s.pwr.rails r
      else if s.railOff r 5 then mapInsert s.pwr.rails r (if o < 2 then o + 1 else o, 0)
      else if o < 2 ∨ 1 ≤ i then mapErase s.pwr.rails r
      else mapInsert s.pwr.rails r (o, i + 1)
    let n := (mapFind s.pwr.rails3 r).getD 0
    let rails3 := if s.railOff r 3 then mapInsert s.pwr.rails3 r (if n < 2 then n + 1 else n) else mapErase s.pwr.rails3 r
    s.setPwr { s.pwr with rails := rails, rails3 := rails3 }

/-- Package power in 0.1 W: each rail's mV times its 10 mA, summed and rounded (R662). -/
def State.packagePower (s : State) : Nat :=
  ((List.range 16).foldl (fun n r => n + s.rd (BZ_THERM.SENS_VALUE (24 + r)) * s.rd (BZ_THERM.SENS_VALUE (40 + r))) 0 + 5000)
    / 10000

/-- Temperature of the Crown in 1/16 °C (R142). -/
def State.crownTemp (s : State) : Int :=
  (List.range 8).foldl (fun (m : Int) i =>
    let v := toSigned 16 (s.rd (BZ_THERM.SENS_VALUE i))
    if m < v then v else m) (-32768)

/-- The throttle level that follows a level at a temperature (Table TCK-10). -/
def throttleNext (level : Nat) (t : Int) : Nat :=
  let up := if 105 * 16 ≤ t then 3 else if 100 * 16 ≤ t then 2 else if 95 * 16 ≤ t then 1 else 0
  let lv := if level < up then up else level
  let lv := if lv = 3 ∧ up < 3 ∧ t ≤ 102 * 16 then 2 else lv
  let lv := if lv = 2 ∧ up < 2 ∧ t ≤ 97 * 16 then 1 else lv
  if lv = 1 ∧ up < 1 ∧ t ≤ 92 * 16 then 0 else lv

/-- A warning source: it fires when the reading first reaches its threshold, and again only after a fall of 3 °C below it
(R149). -/
def State.warn (i : Nat) (t : Int) (limit : Nat) (s : State) : State :=
  if s.pwr.warned.testBit i then
    (if t ≤ ((limit : Int) - 3) * 16 then s.setPwr { s.pwr with warned := Nat.xor s.pwr.warned (2 ^ i) } else s)
  else if (limit : Int) * 16 ≤ t then
    (s.setPwr { s.pwr with warned := Nat.lor s.pwr.warned (2 ^ i) }).fire (88 + i) (ofSigned 32 (t / 16))
  else s

/-- One reading, unless the sensor's die is power-gated (R141). -/
def State.reading (i : Nat) (v : Int) (s : State) : State :=
  if s.on (BZ_THERM.SENS_STALE i) then s else s.wr (BZ_THERM.SENS_VALUE i) (ofSigned 16 v)

/-- A limit of 105 °C is reached anew only after the reading has been below it (R146, R147). -/
def State.limitsFall (s : State) : State :=
  s.setPwr { s.pwr with
    facetHot := ((List.range 4).filter (fun f => s.pwr.facetHot.testBit f && decide (105 * 16 ≤ s.testTemp f))).foldl
      (fun n f => n + 2 ^ f) 0
    crownOver := s.pwr.crownOver && decide (105 * 16 ≤ s.crownTemp) }

/-- TELEMETRY_SAMPLE (R141, R142, R145, R148, R149, R662): the readings of this tick, and what follows from them at once. The
reading for sensor 56 is computed. -/
def execTelemetrySample (values : List Int) (s : State) : Host.Outcome State Fault Refusal :=
  .next (
    let s := (List.range 64).foldl (fun (t : State) i => match values[i]? with
      | some v => t.reading i v
      | none => t) s
    let s := (s.wr (BZ_THERM.SENS_VALUE 56) s.packagePower).limitsFall
    let s := (List.range 16).foldl (fun (t : State) r => t.railTick r) s
    if s.pwr.tripped then s
    else
      let s := s.wr BZ_THERM.FACET_TEMP
        ((List.range 4).foldl (fun n f => n + ofSigned 8 (s.facetTemp f / 16) * 2 ^ (8 * f)) 0)
      let s := s.facets.foldl (fun (t : State) f =>
        if t.on (BZ_THERM.SENS_STALE (8 + 2 * f)) then t else t.warn f (t.facetTemp f) (t.rd BZ_THERM.THERM_WARN_FACET)) s
      let s := s.warn 4 s.crownTemp (s.rd BZ_THERM.THERM_WARN_CROWN)
      let levels := s.facets.foldl (fun n f =>
        let cur := bitsOf (s.rd BZ_THERM.LKT_THROTTLE) (2 * f + 1) (2 * f)
        n + (if s.on (BZ_THERM.SENS_STALE (8 + 2 * f)) then cur else throttleNext cur (s.testTemp f)) * 4 ^ f) 0
      let s := s.setPwr { s.pwr with lktNext := levels }
      (List.range 4).foldl (fun (t : State) h =>
        if t.on (BZ_THERM.SENS_STALE (20 + h)) then t
        else t.wr (HBM.HBM_STAT_REFRESH_2X h)
          (b2n (decide (85 * 16 < toSigned 16 (t.rd (BZ_THERM.SENS_VALUE (20 + h))))))) s)

/-- The throttle levels of the last reading are in force from this tick on (R145). -/
def State.applyLevels (s : State) : State :=
  let old := s.rd BZ_THERM.LKT_THROTTLE
  let new := s.pwr.lktNext
  let s := s.wr BZ_THERM.LKT_THROTTLE new
  s.facets.foldl (fun (t : State) f =>
    let lv := bitsOf new (2 * f + 1) (2 * f)
    if lv = bitsOf old (2 * f + 1) (2 * f) then t
    else (t.wr (FCT3.LKT_LEVEL f) lv).raiseIrq (pgFct f 0) 4) s

/-- The hold of a hot Crown ends in the tick after every Crown sensor read 102 °C or below; the Facets return step by step
(R147). They do so as the cap's points do, so CAP_LIMITING reads 1 and source 94 fires meanwhile (DESIGN CHOICE, log entry 59). -/
def State.crownCools (s : State) : State :=
  if s.pwr.crownHot.isSome && decide (s.crownTemp ≤ 102 * 16) then
    (s.facets.foldl (fun (t : State) f => t.setCapOp f 6) (s.setPwr { s.pwr with crownHot := none })).syncOps
  else s

/-! ### The cap and the limits (R143, R144, R146 to R148, R150, R151, R160) -/

/-- FRAME work in flight on a Facet: the spec gives no measure; the model sums the remaining estimates on its two units of the admitted
requests of class FRAME, waiting ones included (DESIGN CHOICE, log entry 82). -/
def State.frameWork (s : State) (f : Nat) : Nat :=
  s.sch.reqs.foldl (fun n e => if e.2.cls = 0 then n + estOn e.2.est f + estOn e.2.est (4 + f) else n) 0

/-- The Facet with the least, or the most, FRAME work; ties go to the lower position. -/
def State.byWork (s : State) (most : Bool) (l : List Nat) : Option Nat :=
  l.foldl (fun (b : Option Nat) f => match b with
    | none => some f
    | some g =>
      if (if most then decide (s.frameWork g < s.frameWork f) else decide (s.frameWork f < s.frameWork g)) then some f
      else b) none

/-- POWER_CAP_STEP (R143, R144, R150, R151, R154): sensor 56 of the tick joins the last 1,000; at most one step of one Facet. The mean
is shown rounded down (DESIGN CHOICE, log entry 82). A step is one of the point that the cap allows, also where OP_FORCE already holds
the Facet lower (DESIGN CHOICE, log entry 105). -/
def execPowerCapStep (s : State) : Host.Outcome State Fault Refusal :=
  .next (
    if s.pwr.tripped then s
    else
      let s := s.setPwr { s.pwr with power := (s.rd (BZ_THERM.SENS_VALUE 56) :: s.pwr.power).take 1000 }
      let n := s.pwr.power.length
      let sum := s.pwr.power.foldl (· + ·) 0
      let cap := clampNat 60 180 (s.rd BZ_PM.PCAP_CAP_W)
      let s := s.wr BZ_PM.PCAP_STAT_POWER (satBits 12 (sum / n))
      -- a Facet that is READY again after its fence takes part in cap control once more (R151)
      let back := s.facets.filter (fun f => s.pwr.facetHeld.testBit f && (s.bst (pgFct f 0)).up
        && decide (s.testTemp f < 105 * 16))
      let s := back.foldl (fun (t : State) f =>
        t.setPwr { t.pwr with facetHeld := Nat.xor t.pwr.facetHeld (2 ^ f) }) s
      let part := s.facets.filter (fun f => !s.pwr.facetHeld.testBit f)
      if cap * 1020 * n < sum * 100 then
        (match s.byWork false (part.filter (fun f => decide (s.facetOp f < 6))) with
         | some f => (s.setCapOp f (clampNat 0 6 (s.capOp f + 1))).syncOps
         | none =>
           if !s.pwr.capOver && s.facets.all (fun f => s.facetOp f == 6) then
             ((s.setPwr { s.pwr with capOver := true }).setW1c BZ_PM.PCAP_STAT_UNREACHABLE 1).fire 94 6
           else s.syncOps)
      else
        let s := s.setPwr { s.pwr with capOver := false }
        if sum * 100 < cap * 950 * n then
          (match s.byWork true (part.filter (fun f => decide (0 < s.capOp f))) with
           | some f => (s.setCapOp f (s.capOp f - 1)).syncOps
           | none => s.syncOps)
        else s.syncOps)

/-- The hotter of a Facet's two sensors. -/
def State.facetSensor (s : State) (f : Nat) : Nat :=
  if toSigned 16 (s.rd (BZ_THERM.SENS_VALUE (8 + 2 * f))) < toSigned 16 (s.rd (BZ_THERM.SENS_VALUE (9 + 2 * f))) then 9 + 2 * f
  else 8 + 2 * f

/-- A Facet is at its limit: its reading has reached 105 °C anew, or is there while the Facet runs (R146, R152). -/
def State.facetLimit (s : State) (f : Nat) : Bool :=
  s.hasFacet f && decide (105 * 16 ≤ s.testTemp f) && (!s.pwr.facetHot.testBit f || (s.bst (pgFct f 0)).live) && !s.pwr.tripped
    && !s.on (BZ_THERM.SENS_STALE (8 + 2 * f))

/-- FACET_THERMAL_LIMIT (R146, R152, R185): OP6, and a fence with CAUSE 0x02 whose requests end with UNIT_OFFLINE. In boot it is THERMAL,
whose BOOT_UNIT reads 0 (DESIGN CHOICE, log entry 105). -/
def execFacetThermalLimit (f : Nat) (s : State) : Host.Outcome State Fault Refusal :=
  .next (
    if s.facetLimit f then
      (let s := s.setPwr { s.pwr with facetHeld := Nat.lor s.pwr.facetHeld (2 ^ f), facetHot := Nat.lor s.pwr.facetHot (2 ^ f) }
       let s := s.setW1c BZ_THERM.THERM_STAT_FACET_CRIT (2 ^ f)
       let n := s.facetSensor f
       let (q, s) := s.detect 0x12 2 (pgFct f 0) n 0x7F none
       let s := s.fence (pgFct f 0) causePower ocUnitOffline (some q)
       (s.syncOps).bootError 0x0E 0)
    else s)

/-- CROWN_THERMAL_LIMIT (R147, R185, R634): OP6 for every Facet, and a fault of class C3 under which every admitted request
ends. -/
def execCrownThermalLimit (sensor : Nat) (s : State) : Host.Outcome State Fault Refusal :=
  .next (
    if decide (sensor < 8) && decide (105 * 16 ≤ toSigned 16 (s.rd (BZ_THERM.SENS_VALUE sensor))) && !s.pwr.crownOver
        && !s.pwr.tripped then
      (let s := (s.setPwr { s.pwr with
        crownHot := some s.tick, crownOver := true, crownReach := s.tick :: s.pwr.crownReach }).setW1c BZ_THERM.THERM_STAT_CROWN_CRIT 1
       let (q, s) := s.detect 0x12 3 0x005 sensor 0x7F none
       ((s.endAll (some q)).syncOps).bootError 0x0E 0)
    else s)

/-- HBM_THERMAL_LIMIT (R148): half bandwidth from 95 °C, until 90 °C. -/
def execHbmThermalLimit (stack : Nat) (s : State) : Host.Outcome State Fault Refusal :=
  .next (
    if stack < 4 ∧ !s.on (BZ_THERM.SENS_STALE (20 + stack)) then
      (let t := toSigned 16 (s.rd (BZ_THERM.SENS_VALUE (20 + stack)))
       if s.bitOn BZ_THERM.THERM_STAT_HBM_LIMIT stack then
         (if t ≤ 90 * 16 then
            (s.clearBits BZ_THERM.THERM_STAT_HBM_LIMIT (2 ^ stack)).wr (HBM.HBM_STAT_BW_LIMITED stack) 0
          else s)
       else if 95 * 16 ≤ t then
         ((s.orBits BZ_THERM.THERM_STAT_HBM_LIMIT (2 ^ stack)).wr (HBM.HBM_STAT_BW_LIMITED stack) 1).fire 93 stack
       else s)
    else s)

/-- SUPPLY_OUT_OF_RANGE (R160, R185, R634): the second consecutive tick of an excursion. -/
def execSupplyOutOfRange (rail : Nat) (s : State) : Host.Outcome State Fault Refusal :=
  .next (
    match mapFind s.pwr.rails rail with
    | some (o, i) =>
      if o = 2 then
        (let s := s.setPwr { s.pwr with rails := mapInsert s.pwr.rails rail (3, i) }
         let (q, s) := s.detect 0x11 3 0x002 (24 + rail) 0x7F none
         (s.endAll (some q)).bootError 0x0D 0)
      else s
    | none => s)

end Sys2Proof.Machine
end

