-- ==== Sys2Proof/Machine/Boot.lean ====
section
/-! DEFINITION. Reset and boot: the reset inputs, the stages from CLOCKS to HOST_READY, the firmware slots and their checks,
boot errors, the watchdog, THERMTRIP and the host link's training (R147, R157 to R195, R649 to R652). -/

namespace Sys2Proof.Machine

/-! ### Reports as registers show them (R644, R645) -/

/-- FIRST_REPORT and LAST_REPORT of open reports show them as they stand. -/
def State.refreshReports (s : State) : State :=
  let s := match mapFind s.flt.opens (s.rd BZ_FAULT.REPORT_CNT) with
    | some r => s.showReport BZ_FAULT.LAST_REPORT (r.words true)
    | none => s
  if s.flt.firstHeld then
    (match s.flt.opens.find? (fun e => e.2.seq % 65536 == s.rd (BZ_FAULT.FIRST_REPORT 5) / 65536) with
     | some e => s.showReport BZ_FAULT.FIRST_REPORT (e.2.words true)
     | none => s)
  else s

/-- Of two reports opened in one tick the one numbered first: by event source, then by page (R113, R644). -/
def reportBefore (a b : Report) : Bool :=
  decide (sourceOfMech a.mech < sourceOfMech b.mech) || (sourceOfMech a.mech == sourceOfMech b.mech && decide (a.page < b.page))

/-- A report takes its place among those of its tick. -/
def placeReport (r : Report) : List Report → List Report
  | [] => [r]
  | x :: l => if reportBefore r x then r :: x :: l else x :: placeReport r l

/-- Old and new numbers of the reports opened in this tick. -/
def State.newNumbers (s : State) : List (Nat × Report) :=
  let fresh := s.flt.opens.filter (fun e => decide (e.2.tick = s.tick))
  (fresh.map (·.1)).zip ((fresh.map (·.2)).foldl (fun l r => placeReport r l) [])

/-- The number of a report after its tick. -/
def newNumber (l : List (Nat × Report)) (q : Nat) : Nat :=
  match l.find? (fun e => e.2.seq == q) with
  | some e => e.1
  | none => q

/-- DEV_CAUSE.SEQ follows the number of the report that made DEV FAULTED in this tick (R637). -/
def State.renumberCause (l : List (Nat × Report)) (s : State) : State :=
  match l.find? (fun e => s.devFaulted && e.2.seq % 65536 == s.rd DEV.DEV_CAUSE_SEQ && e.2.mech == s.rd DEV.DEV_CAUSE_MECH) with
  | some e => s.wr DEV.DEV_CAUSE_SEQ (e.1 % 65536)
  | none => s

/-- FIRST_REPORT, where it holds a report of this tick, holds the one numbered first (R645). -/
def State.renumberFirst (l : List (Nat × Report)) (s : State) : State :=
  match l with
  | [] => s
  | e :: _ =>
    if s.flt.firstHeld && l.any (fun x => x.2.seq % 65536 == s.rd (BZ_FAULT.FIRST_REPORT 5) / 65536) then
      s.showReport BZ_FAULT.FIRST_REPORT (({ e.2 with seq := e.1 } : Report).words true)
    else s

/-- Reports opened in this tick are numbered in the order of their event sources, then by page (R644); whatever names one by its number
follows. -/
def State.numberReports (s : State) : State :=
  let l := s.newNumbers
  if l.all (fun e => e.1 == e.2.seq) then s
  else
    let s := s.setFlt { s.flt with opens := l.foldl (fun m e => mapInsert m e.1 { e.2 with seq := e.1 }) s.flt.opens }
    let s := (s.blocks.filter (fun e => e.2.report.isSome)).foldl
      (fun (t : State) e => t.setBlk e.1 { e.2 with report := e.2.report.map (newNumber l) }) s
    ((s.renumberCause l).renumberFirst l).refreshReports

/-! ### Resets (Table BOOT-2, R165 to R170, R650 to R652) -/

/-- A register word that survives a device reset: BZ_AON, and the fields of DEV and BZ_RESET marked Kept (R172, R195, R655). -/
def keptWord (page off : Nat) : Bool :=
  page == 0x001 || (page == 0x000 && (decide (0x108 ≤ off) && decide (off ≤ 0x114)))
    || (page == 0x006 && decide (0x100 ≤ off) && decide (off < 0x800))

/-- Everything outside the always-on domain at its reset value; the always-on registers kept are those of `keep`. Cell time
runs on in the keeper, with CELL_STAT.INIT (R539, R540); the test port and what lies outside the device stay. -/
def State.wiped (keep : Nat → Nat → Bool) (s : State) : State :=
  let init := s.rd HM.CELL_STAT_INIT
  let regs := s.regs.filter (fun e => keep (e.1 / 1024) (e.1 % 1024 * 4))
  let t : State := {
    State.reset with
    part := s.part
    tick := s.tick
    regs := regs
    evt := { s.evt with inject := [] }
    boot := { s.boot with linkUp := false, stageTick := s.tick, staged := 0, facetsDone := 0, hbmDone := 0, resetNext := none }
    mem := s.mem
    hm := { State.reset.hm with cell := s.hm.cell, rate := s.hm.rate }
    io := { State.reset.io with
      ssd := s.io.ssd, tapIr := s.io.tapIr, boundary := s.io.boundary, tapData := s.io.tapData, tapDone := s.io.tapDone,
      chain := s.io.chain, dwr := s.io.dwr, pinsFrom := s.io.pinsFrom }
    out := s.out
    free := s.free
    pending := s.pending }
  t.wr HM.CELL_STAT_INIT init

/-- The code of a reset cause (R650). -/
def resetCode : ResetCause → Nat
  | .sysRst _ => 1
  | .perst _ => 2
  | .watchdog => 3
  | .commanded => 4

/-- Ticks for which a reset holds: a pin's for as long as it stays low, and for 10 at least (R166). -/
def holdTicks : ResetCause → Nat
  | .sysRst low => if low < 10 then 10 else low
  | .perst low => if low < 10 then 10 else low
  | _ => 0

/-- A device reset (R64, R165, R166, R650, R651): the cause is recorded, every page relocks, and boot runs again from RESET once the
reset is released. -/
def State.deviceReset (c : ResetCause) (s : State) : State :=
  let s := s.refreshReports
  let first := (List.range 8).map (fun i => s.rd (BZ_FAULT.FIRST_REPORT i))
  let faulted := s.devFaulted
  let trips := s.pwr.tripped
  let consec := if c = .watchdog then satBits 4 (s.rd BZ_RESET.WDOG_CONSEC + 1) else 0
  let ref := s.pwr.refBack
  let s := s.wiped keptWord
  let s := s.setPwr { s.pwr with refBack := ref, tripped := trips && resetCode c != 1 }
  let s := s.setBoot { s.boot with sysRel := s.tick + holdTicks c }
  let s := ((s.wr (HDR.EXP_STATE_UNLOCKED 0x001) 0).wr DEV.BOOT_STAGE 0).wr BZ_RESET.RESET_CAUSE (resetCode c)
  let s := s.wr64 BZ_RESET.RESET_TICK_LO BZ_RESET.RESET_TICK_HI s.tick
  let s := if faulted then s.setW1c BZ_RESET.RESET_FLAGS_WAS_FAULTED 1 else s
  (s.showReport BZ_RESET.PRIOR_REPORT first).wr BZ_RESET.WDOG_CONSEC consec

/-- A reset has already been carried out in this tick. -/
def State.justReset (s : State) : Bool :=
  s.on BZ_RESET.RESET_CAUSE && decide (s.rd64 BZ_RESET.RESET_TICK_LO BZ_RESET.RESET_TICK_HI = s.tick) && decide (s.stage = 0)

/-- A reset is accepted: of several in one tick one is carried out, and the watchdog gives way to any other cause, every other
to SYS_RST_N (R169, R652). -/
def State.acceptReset (c : ResetCause) (s : State) : State :=
  if s.pwr.tripped && resetCode c != 1 then s
  else if s.justReset && !s.pwr.tripped then
    (let was := s.rd BZ_RESET.RESET_CAUSE
     if resetCode c = 1 ∨ (was = 3 ∧ resetCode c ≠ 3) then
       (let s := s.wr BZ_RESET.RESET_CAUSE (resetCode c)
        let s := if was = 3 then s.wr BZ_RESET.WDOG_CONSEC 0 else s
        let t := s.tick + holdTicks c
        if s.boot.sysRel < t then s.setBoot { s.boot with sysRel := t } else s)
     else s)
  else s.deviceReset c

/-- WDOG_CFG.TIMEOUT as it counts (Table FLT-9). -/
def State.wdogLimit (s : State) : Nat := let v := s.rd BZ_RESET.WDOG_CFG_TIMEOUT; if v < 1000 then 1000 else v

/-- The watchdog has not been restarted for WDOG_TIMEOUT ticks, with SYS_RST_N released (R187, R651). -/
def State.wdogExpired (s : State) : Bool :=
  decide (s.boot.sysRel ≤ s.tick) && decide (s.boot.wdogTick + s.wdogLimit ≤ s.tick)
    && decide (s.boot.sysRel + s.wdogLimit ≤ s.tick)

/-- PERST_N has fallen, and stays low for a number of ticks, 10 at least as the device takes it (R166). -/
def State.perstFalls (low : Nat) (s : State) : State :=
  s.setBoot { s.boot with perstHigh := false, perstRel := s.tick + holdTicks (.perst low) }

/-- DEVICE_RESET (R165, R166, R650): `perst` acts only after HOST_READY, `watchdog` only when it has expired, `commanded` only
in the tick after the command. -/
def execDeviceReset (c : ResetCause) (s : State) : Host.Outcome State Fault Refusal :=
  .next (
    match c with
    | .sysRst low => s.acceptReset (.sysRst low)
    | .perst low => if s.stage = 8 then (s.perstFalls low).acceptReset (.perst low) else s
    | .watchdog => if s.wdogExpired then s.acceptReset .watchdog else s
    | .commanded => match s.boot.resetNext with
      | some t => if t < s.tick then s.acceptReset .commanded else s
      | none => s)

/-- ALWAYS_ON_POWER_ON_RESET (R109, R165, R170): everything but the fuses and what lies outside the device; the queue and the
model's counter of free values are no part of the device. -/
def execAlwaysOnPowerOnReset (s : State) : Host.Outcome State Fault Refusal :=
  .next (
    let fuse := s.rd DEV.SEC_VER_FUSE
    let ref := s.rd BZ_AON.AON_STAT_REF_PRESENT
    let t : State := {
      State.reset with
      part := s.part
      mem := { s.mem with dpa := [] }
      pwr := { pwrReset with refBack := if ref = 0 then none else some 0 }
      io := { State.reset.io with ssd := s.io.ssd }
      free := s.free
      pending := s.pending }
    (t.wr DEV.SEC_VER_FUSE fuse).wr BZ_AON.AON_STAT_REF_PRESENT ref)

/-- The configuration space of HIF at its reset: no virtual function enabled, BAR4 of 1 GiB (R95, R583, Table BOOT-2). -/
def State.configReset (s : State) : State :=
  ({ s with io := { s.io with vfOn := 0 } } : State).wr HIF.NUM_VFS 0 |>.wr HIF.BAR4_SIZE 30

/-- PERST_N is low still: its release, and that of a device reset it has caused, come no sooner than the next tick (R166). -/
def State.perstStays (s : State) : State :=
  let t := s.tick + 1
  let s := s.setBoot { s.boot with perstRel := max s.boot.perstRel t }
  if s.stage = 0 ∧ s.rd BZ_RESET.RESET_CAUSE = 2 then s.setBoot { s.boot with sysRel := max s.boot.sysRel t } else s

/-- PERST_N has fallen and is not released yet. -/
def State.perstLow (s : State) : Bool := !s.boot.perstHigh && decide (s.tick < s.boot.perstRel)

/-- PERST_N_FALL (R166, R167): a device reset after HOST_READY; before that the HIF link alone is reset. While the pin stays low the
command comes again, and holds the release back. -/
def execPerstNFall (s : State) : Host.Outcome State Fault Refusal :=
  .next (
    if s.perstLow then s.perstStays
    else
    let s := s.perstFalls 0
    if s.stage = 8 then s.acceptReset (.perst 0)
    else
      let s := s.setBoot { s.boot with linkUp := false }
      (((s.wr HIF.LINK_STAT_SPEED 0).wr HIF.LINK_STAT_WIDTH 0).wr HIF.LINK_STAT_FLIT 0).configReset)

/-- Power is removed from every domain but the always-on one (R147, R652); the sensors of the dies hold their last values (R141). -/
def State.trip (s : State) : State :=
  let s := (s.setW1c BZ_RESET.RESET_FLAGS_THERMTRIP 1).finishAll
  let blocks := s.blocks.filter (fun e => alwaysOn e.1)
  let pwr := { s.pwr with
    entry := none, entryFrom := none, wake := none, wakeLocks := false, wokeAt := none, dozeExit := none, pllOn := [], zero := [], tripped := true }
  let flt := s.flt
  let evt := s.evt
  let s := s.wiped (fun page _ => alwaysOn page)
  let s := (({ s with blocks := blocks, flt := flt, evt := evt } : State).setPwr pwr).wr BZ_PM.PLL_LOCK 0
  let s := ((s.wr BZ_PM.PM_STATE_CUR 0).wr BZ_PM.PM_STATE_TARGET 0).wr BZ_PM.PM_STATE_IN_TRANSITION 0
  s.setStale ((List.range 24) ++ [57, 58, 59, 60, 61, 62]) true

/-- THERMTRIP (R147, R652): a Crown sensor still reads 105 °C 1,000 ticks after one reached it; where none does, that count ends. -/
def execThermtrip (s : State) : Host.Outcome State Fault Refusal :=
  .next (
    if s.pwr.tripped || !s.pwr.crownReach.any (fun t => decide (t + 1000 ≤ s.tick)) then s
    else if 105 * 16 ≤ s.crownTemp then s.trip
    else s.setPwr { s.pwr with crownReach := s.pwr.crownReach.filter (fun t => decide (s.tick < t + 1000)) })

/-! ### The host link (R167, R181, R186) -/

/-- HIF_LINK_TRAINING (R167): PERST_N is high and boot has passed CLOCKS; the link trains to what the far end gives. -/
def execHifLinkTraining (speed lanes : Nat) (flit : Bool) (s : State) : Host.Outcome State Fault Refusal :=
  .next (
    if s.hifMayTrain && !s.boot.linkUp then
      ((((s.setBoot { s.boot with perstHigh := true }).wr HIF.LINK_STAT_SPEED speed).wr HIF.LINK_STAT_WIDTH lanes).wr
        HIF.LINK_STAT_FLIT (b2n flit))
    else s)

/-- What an identity request reads: the class code over the Device ID of the function (Table PRT-1). -/
def State.configIdentity (fn : Nat) (s : State) : Nat :=
  0x12_0000 * 2 ^ 16 + (if fn = 0 then (if s.part = .pmx7240 then 0x7240 else 0x7241) else 0x7250)

/-- A configuration write of the physical function: at most 63 virtual functions, a BAR4 of 2^28 to 2^37 bytes (R95, Table
PRT-1). -/
def State.configWrite (c : ConfigAccess) (s : State) : State :=
  match c with
  | .enableVfs n =>
    if n ≤ 63 then ({ s with io := { s.io with vfOn := 2 ^ (n + 1) - 2 } } : State).wr HIF.NUM_VFS n else s
  | .bar4Size k => if 28 ≤ k ∧ k ≤ 37 then s.wr HIF.BAR4_SIZE k else s
  | .identity => s
  | .other => s

/-- CONFIGURATION_REQUEST (R181, R182, R186, R579): answered from link-up on, with Request Retry Status before HOST_READY and
normally from HOST_READY or FAILED on. -/
def execConfigurationRequest (fn : Nat) (c : ConfigAccess) (s : State) : Host.Outcome State Fault Refusal :=
  .next (
    if !s.boot.linkUp then s
    else if 8 ≤ s.stage then
      (if fn = 0 then s.configWrite c else s).emit (.config true (if c = .identity then s.configIdentity fn else 0))
    else s.emit (.config false 0))

/-! ### The stages (R171 to R180, Table BOOT-3) -/

/-- The state at the start of a stage. -/
def State.toStage (n : Nat) (s : State) : State := (s.wr DEV.BOOT_STAGE n).setBoot { s.boot with stageTick := s.tick }

/-- Boot can go on: no error has ended it, DEV is not FAULTED, and the device has its power. -/
def State.bootOn (s : State) (stage : Nat) : Bool := decide (s.stage = stage) && !s.devFaulted && !s.pwr.tripped

/-- SYS_RST_N is released: CLOCKS begins, and the fields of the boot before are cleared (R171, R172). -/
def State.beginBoot (s : State) : State :=
  if s.bootOn 0 && decide (s.boot.sysRel ≤ s.tick) then
    (let s := (((s.wr DEV.BOOT_ERR 0).wr DEV.BOOT_UNIT 0).wr DEV.FW_SLOT_A_ERR 0).wr DEV.BOOT_FW_SLOT 0
     let s := s.setBoot { s.boot with
       slot := if 3 ≤ s.rd BZ_RESET.WDOG_CONSEC then 1 else 0
       wdogTick := s.tick
       facetsDone := 0
       hbmDone := 0
       errB := 0 }
     s.toStage 1)
  else s

/-- BOOT_CLOCKS (R171): with REFCLK_25 present PLL 0 and PLL 3 are enabled; with both locked the stage ends. -/
def execBootClocks (s : State) : Host.Outcome State Fault Refusal :=
  .next (
    let s := s.beginBoot
    if s.bootOn 1 && s.on BZ_AON.AON_STAT_REF_PRESENT then
      (let s := s.startPlls [0, 3]
       if s.bitOn BZ_PM.PLL_LOCK 0 && s.bitOn BZ_PM.PLL_LOCK 3 then s.toStage 2 else s)
    else s)

/-- REF_ABSENT_TIMEOUT (R171, Table BOOT-5). -/
def execRefAbsentTimeout (s : State) : Host.Outcome State Fault Refusal :=
  .next (
    let s := s.beginBoot
    if decide (s.stage = 1) && !s.on BZ_AON.AON_STAT_REF_PRESENT && decide (s.boot.sysRel + 100000 ≤ s.tick) then s.bootError 0x01 0
    else s)

/-- STORE_INIT (R171): the Casket is zero. -/
def execStoreInit (s : State) : Host.Outcome State Fault Refusal :=
  .next (if s.bootOn 2 then (s.dpaClear casketBase casketSize).toStage 3 else s)

/-- Bytes of a slot header, and offset of the image (Table BOOT-4). -/
def slotHeaderLen : Nat := 4096

/-- Check 1 of R174: MAGIC, HDR_VER and IMG_LEN. -/
def slotHeaderOk (h : List Byte) : Bool :=
  let n := fieldAt h 8 4
  decide (fieldAt h 0 4 = 0x464D_5545) && decide (fieldAt h 4 4 = 1) && decide (n % 4 = 0) && decide (4 ≤ n)
    && decide (n ≤ 2097152)

/-- The error of the first check that a slot fails; 0 where it passes all (R174, Table BOOT-5). -/
def slotError (h img : List Byte) (fuse : Nat) : Nat :=
  let pub := (h.drop 80).take 97
  if !slotHeaderOk h then 0x04
  else if Config.sha384 pub ≠ Config.keyHashFuses then 0x05
  else if !Config.ecdsaP384 pub (h.take 192) ((h.drop 192).take 96) then 0x06
  else if fieldAt h 12 4 < fuse then 0x07
  else if Config.sha384 img ≠ (h.drop 32).take 48 then 0x08
  else 0

/-- A slot has failed: the other slot is loaded if it has not been tried, else boot ends with slot B's error (R175, R187). -/
def State.slotFailed (code : Nat) (s : State) : State :=
  let bFirst := decide (3 ≤ s.rd BZ_RESET.WDOG_CONSEC)
  let s := s.dpaClear casketBase s.boot.staged
  let s := if s.boot.slot = 0 then s.wr DEV.FW_SLOT_A_ERR code else s.setBoot { s.boot with errB := code }
  if s.boot.slot = b2n bFirst then (s.setBoot { s.boot with slot := 1 - s.boot.slot, staged := 0 }).toStage 3
  else s.bootError s.boot.errB 0

/-- FW_LOAD (R173 to R175): the header, and the image where the header passes check 1, are staged in Casket Q0. A header of
all ones or all zeros is a flash that does not answer. -/
def execFwLoad (s : State) : Host.Outcome State Fault Refusal :=
  .next (
    if s.bootOn 3 then
      (let base := s.boot.slot * slotSize
       let h := s.flashRead base slotHeaderLen
       if h.all (fun b => b == 0xFF) || h.all (fun b => b == 0) then s.slotFailed 0x03
       else
         let n := if slotHeaderOk h then fieldAt h 8 4 else 0
         let s := s.dpaWrite casketBase (h ++ s.flashRead (base + slotHeaderLen) n)
         (s.setBoot { s.boot with staged := slotHeaderLen + n }).toStage 4)
    else s)

/-- FW_VERIFY (R172, R174, R175): the checks in order; then the staging area is zero and the image runs. FW_SLOT names the slot whose
image was accepted, so it reads 0 until then and after both have failed (DESIGN CHOICE, log entry 83). -/
def execFwVerify (s : State) : Host.Outcome State Fault Refusal :=
  .next (
    if s.bootOn 4 then
      (let h := s.dpaRead casketBase slotHeaderLen
       let img := s.dpaRead (casketBase + slotHeaderLen) (s.boot.staged - slotHeaderLen)
       let e := slotError h img (s.rd DEV.SEC_VER_FUSE)
       if e ≠ 0 then s.slotFailed e
       else
         let s := (s.wr DEV.BOOT_FW_SLOT s.boot.slot).wr DEV.FW_VER (fieldAt h 16 4)
         let s := (s.dpaClear casketBase s.boot.staged).setBoot { s.boot with
           secVer := fieldAt h 12 4
           staged := 0 }
         s.toStage 5)
    else s)

/-- A link that boot has trained and checked is UP, and its parameters are saved (R177 to R180, R198). -/
def State.trained (l : Nat) (s : State) : State :=
  let s := (s.wr (CL.LINK_STAT_STATE l) lsUp).wr (CL.LINK_CFG_MODULES l) (linkModules l)
  s.setBoot { s.boot with savedLinks := Nat.lor s.boot.savedLinks (2 ^ l) }

/-- A link that boot gives up is FATAL, with its cause and the tick (R178, R198, Table CLS-9). -/
def State.linkFails (l failCause : Nat) (s : State) : State :=
  (((s.wr (CL.LINK_STAT_STATE l) lsFatal).wr (CL.LINK_STAT_FAIL_CAUSE l) failCause).wr64 (CL.FATAL_TICK_LO l)
    (CL.FATAL_TICK_HI l) s.tick).raiseIrq (pgCl l) 2

/-- A Facet position has ended (R177); with position 3 of the PMX-7241 negotiation begins (R184). -/
def State.positionEnds (s : State) : State :=
  let s := s.setBoot { s.boot with facetsDone := s.boot.facetsDone + 1, stageTick := s.tick }
  if s.boot.facetsDone = 4 then s.toStage 6
  else if s.hasFacet s.boot.facetsDone then s
  else s.wr (CL.CAP_STAT_NEG_STATE 3) 1

/-- FACETS (R177, R178, R184): one Facet position, in order; a step that fails leaves what the steps before it did. Position 3 of the PMX-7241 ends once negotiation has been accepted
or rejected. -/
def execFacets (f : Nat) (r : BootResult) (s : State) : Host.Outcome State Fault Refusal :=
  .next (
    if s.bootOn 5 && decide (f = s.boot.facetsDone) then
      (if !s.hasFacet f then (if 2 ≤ s.rd (CL.CAP_STAT_NEG_STATE 3) then s.positionEnds else s)
       else
         let clocked := s.startPlls [4 + f]
         let released := clocked.lockPll (4 + f)
         let checked := (released.trained f).dpaClear (locketBase f) locketSize
         match r with
         | .ok => (checked.setBoot { checked.boot with facetFw := true }).positionEnds
         | .train => (released.linkFails f 3).bootError 0x0A (pgCl f)
         | .laneCheck => ((released.trained f).linkFails f 4).bootError 0x0B (pgCl f)
         | .powerUp => s.bootError 0x09 (pgFct f 0)
         | .selfTest => checked.bootError 0x09 (pgFct f 0)
         | .pll => clocked.bootError 0x09 (pgFct f 0)
         | .fail => s.bootError 0x09 (pgFct f 0))
    else s)

/-- The side links the part trains (R179). -/
def sideLinks (part : Part) : List Nat := if part = .pmx7240 then [4, 5, 6, 7] else [4, 5]

/-- SIDE_LINKS (R178, R179): all of them together; the lowest that fails is the unit of the error. -/
def execSideLinks (fails : List Nat) (r : BootResult) (s : State) : Host.Outcome State Fault Refusal :=
  .next (
    if s.bootOn 6 then
      (let ls := sideLinks s.part
       let lane := decide (r = .laneCheck)
       let s := ls.foldl (fun (t : State) l =>
         let t := if lane || !fails.contains l then t.trained l else t
         if fails.contains l then t.linkFails l (if lane then 4 else 3) else t) s
       match ls.find? (fun l => fails.contains l) with
       | some l => s.bootError (if lane then 0x0B else 0x0A) (pgCl l)
       | none => s.toStage 7)
    else s)

/-- HBM_TRAIN (R29, R180): a stack has trained, or has failed; with all four trained every HBM byte is zero. -/
def execHbmTrain (stack : Nat) (r : BootResult) (s : State) : Host.Outcome State Fault Refusal :=
  .next (
    if s.bootOn 7 && decide (stack < 4) then
      (match r with
       | .ok =>
         let s := s.setBoot { s.boot with
           hbmDone := Nat.lor s.boot.hbmDone (2 ^ stack)
           savedHbm := Nat.lor s.boot.savedHbm (2 ^ stack) }
         let s := s.wr (HBM.HBM_STAT_TRAINED stack) 1
         if s.boot.hbmDone = 0xF then s.dpaClear 0 hbmSize else s
       | _ => s.bootError 0x0C (pgHbm stack))
    else s)

/-- Every block that is not FENCED or FAULTED has the tick of HOST_READY in ENTRY_TICK (R188, log entry 42). -/
def State.stampBlocks (s : State) : State :=
  ((List.range 0x140).filter (fun p => pagePresent s.part p && decide (unitPage p = p))).foldl (fun (t : State) p =>
    match t.bst p with
    | .fenced => t
    | .faulted => t
    | _ => t.setBlk p { t.blk p with cause := causeReset, entry := t.tick }) s

/-- HOST_READY (R171, R176, R181, R188, R651): every block takes its state of Table BOOT-7. -/
def execHostReady (s : State) : Host.Outcome State Fault Refusal :=
  .next (
    if s.bootOn 7 && decide (s.boot.hbmDone = 0xF) then
      (let s := s.toStage 8
       let s := s.releaseBlocks (readyPages s.part)
       let s := (readyPages s.part).foldl (fun (t : State) p => t.wr (HDR.BLK_CTRL_ENABLE p) 1) s.stampBlocks
       let fuse := s.rd DEV.SEC_VER_FUSE
       let s := if fuse < s.boot.secVer then s.wr DEV.SEC_VER_FUSE (satBits 5 s.boot.secVer) else s
       let s := s.setPwr { s.pwr with idle := 0 }
       (s.wr BZ_RESET.WDOG_CONSEC 0).wr BZ_PM.PM_STATE_CUR 0)
    else s)

/-- The budget of a stage (Table BOOT-3). -/
def stageBudget (stage : Nat) : Nat :=
  if stage = 1 then 100 else if stage = 2 then 1000 else if stage = 3 then 45000 else if stage = 4 then 5000
  else if stage = 5 then 8000 else if stage = 6 then 6000 else 80000

/-- STAGE_TIMEOUT (R171, R175, Table BOOT-5): a stage that overruns its budget; CLOCKS counts from the presence of REFCLK_25,
FACETS for each position. Position 3 of the PMX-7241 is R184's: once its slot is over and negotiation has ended, boot goes on, unless DEV is FAULTED. The
spec does not say whether an overrun of FW_LOAD or FW_VERIFY on slot A falls back to slot B; here it ends boot (DESIGN CHOICE, log
entry 83). -/
def execStageTimeout (s : State) : Host.Outcome State Fault Refusal :=
  .next (
    let n := s.stage
    let guest := n == 5 && !s.hasFacet s.boot.facetsDone
    let waits := (n == 1 && !s.on BZ_AON.AON_STAT_REF_PRESENT) || (guest && !s.devFaulted)
    if s.bootOn 5 && guest && decide (2 ≤ s.rd (CL.CAP_STAT_NEG_STATE 3)) && decide (s.boot.stageTick + 8000 ≤ s.tick) then
      s.positionEnds
    else if s.booting && !waits && decide (s.boot.stageTick + stageBudget n < s.tick) then
      s.bootError 0x0F (if n = 5 then pgFct s.boot.facetsDone 0 else 0)
    else s)

/-! ### The always-on watchdog (R187, R651, R652) -/

/-- WATCHDOG_EXPIRY (R187, R651): a device reset before HOST_READY, or with ACTION = 1; else a fault of class C3 under MECH
0x14. -/
def execWatchdogExpiry (s : State) : Host.Outcome State Fault Refusal :=
  .next (
    if !s.wdogExpired || s.pwr.tripped then s
    else if s.stage ≠ 8 ∨ s.on BZ_RESET.WDOG_CFG_ACTION then
      (if s.stage = 8 then s.fire 7 0 else s).acceptReset .watchdog
    else
      let s := s.setBoot { s.boot with wdogTick := s.tick }
      let (q, s) := s.detect 0x14 3 0x006 0xFFFF 0x7F none
      s.endAll (some q))

/-- WATCHDOG_RESTART (R651). -/
def execWatchdogRestart (s : State) : Host.Outcome State Fault Refusal :=
  .next (s.setBoot { s.boot with wdogTick := s.tick })

end Sys2Proof.Machine
end

