-- ==== Sys2Proof/Machine/Faults.lean ====
section
/-! DEFINITION. The fault collector's commands: closing reports and the log, the limit of a drain, SENTINEL, FAULT_N, the test
report, the commanded reset and the lockstep comparisons (R541, R621, R622, R626, R640, R643 to R650, R654). -/

namespace Sys2Proof.Machine

/-- FLOG_BASE lies in the keep region and is aligned (R645). -/
def State.flogBaseOk (s : State) : Bool :=
  let b := s.rd64 BZ_FAULT.FLOG_BASE_LO BZ_FAULT.FLOG_BASE_HI
  decide (b % 8192 = 0) && inKeep b 8192

/-- A closed report goes to the log, or is counted as lost (R644, R645). Logging is held off while the base is bad (log entry
41). -/
def State.logReport (r : Report) (s : State) : State :=
  let w := s.rd BZ_FAULT.FLOG_WR_IDX
  if !s.on BZ_FAULT.FLOG_CFG_EN || !s.flogBaseOk then s.inc BZ_FAULT.FLOG_LOST
  else if (w + 1) % 256 = s.rd BZ_FAULT.FLOG_RD_IDX then (s.inc BZ_FAULT.FLOG_LOST).raiseIrq 0x003 2
  else
    (s.storeFrom 0 (s.rd64 BZ_FAULT.FLOG_BASE_LO BZ_FAULT.FLOG_BASE_HI + 32 * w) r.bytes).wr BZ_FAULT.FLOG_WR_IDX ((w + 1) % 256)

/-- A report number as REPORT_CNT had it shows in a run of registers. -/
def State.shows (s : State) (f : Nat → FRef) (r : Report) : Bool := s.rd (f 5) / 65536 == r.seq % 65536

/-- A report that has closed is shown without OPEN where the registers show it (Table FLT-6). -/
def State.showClosed (r : Report) (s : State) : State :=
  let s := if s.shows BZ_FAULT.LAST_REPORT r then s.showReport BZ_FAULT.LAST_REPORT (r.words false) else s
  if s.flt.firstHeld && s.shows BZ_FAULT.FIRST_REPORT r then s.showReport BZ_FAULT.FIRST_REPORT (r.words false) else s

/-- FAULT_REPORT_CLOSE (R643 to R645): CORR_WINDOW ticks after the first detection, that tick included. -/
def execFaultReportClose (seq : Nat) (s : State) : Host.Outcome State Fault Refusal :=
  .next (
    match mapFind s.flt.opens seq with
    | none => s
    | some r =>
      if s.tick < r.tick + s.corrWindow then s
      else
        let s := { s with flt := { s.flt with opens := mapErase s.flt.opens seq } }
        (s.showClosed r).logReport r)

/-- The report of a fence carries DRAIN_TIMEOUT (R640): while it is open in the report itself, after that where the registers
show it. -/
def State.drainFlag (q : Nat) (s : State) : State :=
  if (mapFind s.flt.opens q).isSome then s.modReport q (fun r => { r with flags := Nat.lor r.flags 8 })
  else
    [BZ_FAULT.LAST_REPORT, BZ_FAULT.FIRST_REPORT].foldl (fun (t : State) f =>
      if t.rd (f 5) / 65536 = q % 65536 then t.orBits (f 3) (8 * 2 ^ 24) else t) s

/-- DRAIN_LIMIT_EXPIRY (R640): a unit not drained within DRAIN_LIMIT ticks of its fence enters FAULTED. A fault that followed a
link fatal stays until a device reset, as its fence did (Table FLT-5). -/
def execDrainLimitExpiry (page : Nat) (s : State) : Host.Outcome State Fault Refusal :=
  .next (
    let b := s.blk page
    if (b.st == .fenced) && !b.drained && decide (b.entry + atLeast1 (s.rd BZ_FAULT.DRAIN_LIMIT) ≤ s.tick) then
      (let s := match b.report with
         | some q => s.drainFlag q
         | none => s
       s.faultBlock (unitPage page) (b.cause != causeLink) b.report)
    else s)

/-- The effect of a write of SENTINEL: checking changes on a Facet with no work at once, else at its next tile boundary (R344,
R621, R622). -/
def State.setSentinel (v : Bool) (s : State) : State :=
  let s := s.wr BZ_FAULT.SENTINEL (b2n v)
  s.facets.foldl (fun (t : State) f => if t.pageBusy (pgFct f 0) then t else t.syncVc f) s

/-- SENTINEL_WRITE (R622). -/
def execSentinelWrite (rq : Requester) (value : Bool) (s : State) : Host.Outcome State Fault Refusal :=
  .next (s.access rq 0x003 (State.setSentinel value))

/-- A write of FLOG_CFG.EN = 1 (R645, Table FLT-8). -/
def State.flogEnable (s : State) : State :=
  let s := s.wr BZ_FAULT.FLOG_CFG_EN 1
  if s.flogBaseOk then s else s.setW1c BZ_FAULT.FLOG_CFG_BASE_BAD 1

/-- FLOG_ENABLE (R654). -/
def execFlogEnable (rq : Requester) (s : State) : Host.Outcome State Fault Refusal :=
  .next (s.access rq 0x003 State.flogEnable)

/-- FIRST_REPORT is armed again; a report opened in this tick is captured (R646). -/
def State.firstClr (s : State) : State :=
  match s.flt.opens.find? (fun e => decide (e.2.tick = s.tick)) with
  | some e => ({ s with flt := { s.flt with firstHeld := true } } : State).showReport BZ_FAULT.FIRST_REPORT (e.2.words true)
  | none => { s with flt := { s.flt with firstHeld := false } }

/-- FIRST_CLR (R645, R646). -/
def execFirstClr (rq : Requester) (s : State) : Host.Outcome State Fault Refusal := .next (s.access rq 0x003 State.firstClr)

/-- FAULT_N is released unless DEV is FAULTED (R649). -/
def State.faultNClr (s : State) : State := ({ s with flt := { s.flt with pinHeld := false } } : State).syncPin

/-- FAULT_N_CLR (R649). -/
def execFaultNClr (rq : Requester) (s : State) : Host.Outcome State Fault Refusal := .next (s.access rq 0x003 State.faultNClr)

/-- The test report: MECH 0xFF, class C1; ignored while SENTINEL is 1 (Table FLT-8). -/
def State.injReport (s : State) : State :=
  if s.sentinel then s
  else
    let ((c, d), s) := s.recordWords 0xFF 0x7F none
    (s.openReport 0xFF 1 0x003 0xFFFF 0x7F c d 0x003).2

/-- INJ_REPORT (R654). -/
def execInjReport (rq : Requester) (s : State) : Host.Outcome State Fault Refusal :=
  .next (s.access rq 0x003 (fun t => t.expert 0x003 State.injReport))

/-- A write of KEY: 0xD5E7 commands a device reset for the next tick (R650). -/
def State.resetCmd (key : Nat) (s : State) : State :=
  if key % 65536 = 0xD5E7 then s.setBoot { s.boot with resetNext := some s.tick } else s

/-- RESET_CMD (R650): effective while BZ_RESET is unlocked. -/
def execResetCmd (rq : Requester) (key : Nat) (s : State) : Host.Outcome State Fault Refusal :=
  .next (s.access rq 0x006 (fun t => t.expert 0x006 (State.resetCmd key)))

/-- Pages of the Bezel, and of the Casket's quadrants and the HBM controllers: an uncorrected word of their own state is class C3
(R29, R633). -/
def bezelPage (page : Nat) : Bool := decide (page ≤ 0x006) || page == 0x030
def storePage (page : Nat) : Bool :=
  (decide (0x010 ≤ page) && decide (page ≤ 0x01B)) || (decide (0x0A0 ≤ page) && decide (page ≤ 0x0A3))

/-- An uncorrected error in the state of a Loupe's context (R438, R633): class C1, with SUB naming the context; the request whose query it
holds ends, and the Loupe goes on. The contexts in use are numbered in the order of their queries. -/
def State.contextWord (page ctx : Nat) (s : State) : State :=
  if (page = pgLp 0 ∨ page = pgLp 1) ∧ (s.bst page).live then
    match (s.lps.queries.filter (fun q => decide (pgLp q.lp = page) && q.ctx && !q.finished))[ctx]? with
    | none => s
    | some q => (s.detectAll 0x01 page ctx [q.rid]).dropPeerQs [q]
  else s

/-- An uncorrected error in a word of a block's own state (R29, R541, R576, R633, R634): class C3 in the Bezel, whose management
can no longer be trusted, and in the tables of the Casket's quadrants and the HBM controllers; else class C2, and the unit is
FAULTED. The Hallmark timing core's cell time goes on in the keeper. Workspace pages and links have no state of this kind. A number from 1024 on names
a context of a Loupe's page: page + 1024 × (context + 1) (log entry 87). -/
def State.ownWord (page : Nat) (s : State) : State :=
  if 1024 ≤ page then s.contextWord (page % 1024) (page / 1024 - 1)
  else
  let page := ownerPage page
  if bezelPage page then
    (let (q, s) := s.detect 0x01 3 page 0xFFFF 0x7F none
     s.endAll (some q))
  else if storePage page then (s.detect 0x01 3 page 0xFFFF 0x7F none).2
  else if !pagePresent s.part page || decide (0x100 ≤ page) || (decide (0x020 ≤ page) && decide (page ≤ 0x027))
      || s.bst page == .off then s
  else
    let (q, s) := s.detect 0x01 2 page 0xFFFF 0x7F none
    let s := s.faultBlock page true (some q)
    if page = 0x080 then s.hmToKeeper else s

/-- LOCKSTEP_MISMATCH (R29, R541, R576, R626, R633, R634): of a management core pair, class C3; of the Hallmark timing core, class C2:
HM is FAULTED, and cell time goes on in the keeper. It carries too an uncorrected error in the own state of the block of a page,
`pair`, since the table of commands has no row for one (log entry 87). -/
def execLockstepMismatch (timingCore : OwnFault) (pair : Nat) (s : State) : Host.Outcome State Fault Refusal :=
  .next (
    if s.pwr.tripped then s
    else match timingCore with
      | .timingCore =>
        if s.hmRuns then
          (let (q, s) := s.detect 0x05 2 0x080 0xFFFF 0x7F none
           (s.faultBlock 0x080 true (some q)).hmToKeeper)
        else s
      | .managementPair =>
        if 2 ≤ s.pm then s
        else
          let (q, s) := s.detect 0x04 3 0x000 (pair % 2) 0x7F none
          s.endAll (some q)
      | .stateWord => if 2 ≤ s.pm then s else s.ownWord pair)

/-! ### Ends and yields of requests (R294, R302, R303, R308) -/

/-- A running request stands at a tile boundary: no partial sums wait for their exchange, no tile for its recomputation but one
that waits until the request is dispatched again (R336, R346), no row it wrote waits for its pointer, no accepted tile for a
slot, and no destination tile of a reshard is half written (R49). -/
def State.atBoundary (s : State) (rid : Nat) (r : Req) : Bool :=
  (match r.abft with
   | none => r.partials.isEmpty
   | some a => !a.mayRecompute r) && !s.rows.flips.any (fun f => f.rid == some rid)
    && !s.ck.reshard.any (fun e => e.rid == rid) && r.store.isNone

/-- A preemption decided in tick p takes effect now: at a tile boundary, and at the latest in tick p + 2, but for a destination tile of
a reshard, which is completed first (R49, R302). -/
def State.yieldsNow (s : State) (rid : Nat) (r : Req) (p : Nat) : Bool :=
  s.atBoundary rid r || (decide (p + 2 ≤ s.tick) && !s.ck.reshard.any (fun e => e.rid == rid))

/-- A request yields: its record if the ring has room, its ports and units released, its claim kept (R294, R302). -/
def State.yieldNow (rid : Nat) (r : Req) (p : Nat) (ovl : Bool) (s : State) : State :=
  let r := { r with preempts := r.preempts + 1, overload := r.overload || ovl }
  let s := s.guestCancel rid
  let s := s.modReq rid (fun q => { q with
    phase := .waiting
    yieldBy := none
    preempts := r.preempts
    overload := r.overload })
  let s := s.turnPorts r.ports
  let s := if 1 ≤ s.cplFree r.ws then s.writeRecord r.ws r.irq (reqRecord r ocPreempted 0 s.tick)
    else s.inc (WS.CPL_STAT_PREEMPT_DROPPED r.ws)
  let s := s.inc WK_SCHED.PREEMPT_CNT
  let lat := satBits 5 (8 * (s.tick - p))
  let s := if s.rd WK_SCHED.PREEMPT_MAX_LAT < lat then s.wr WK_SCHED.PREEMPT_MAX_LAT lat else s
  r.pages.foldl (fun (t : State) pg => t.settle pg (t.pageBusy pg)) s.stopScans

/-- A running request has nothing left to do. -/
def State.workDone (s : State) (rid : Nat) (r : Req) : Bool :=
  r.phase == .running && decide (r.op = opRun) && r.steps.isEmpty && !s.waits rid && !r.hostOut && r.want.isEmpty
    && s.atBoundary rid r && !r.claims 16

/-- PREEMPTION_YIELD (R302, R303): at the next tile boundary after the decision; a request whose last tile is done ends instead. -/
def execPreemptionYield (rid : Nat) (s : State) : Host.Outcome State Fault Refusal :=
  .next (
    match s.req rid with
    | none => s
    | some r =>
      match r.yieldBy with
      | some (p, ovl) =>
        if r.phase = .running ∧ r.ends = none ∧ s.yieldsNow rid r p ∧ !s.workDone rid r then s.yieldNow rid r p ovl else s
      | none => s)

/-- The request claims cores of a Facet. -/
def Req.onFacet (r : Req) : Bool := r.est.any (fun e => decide (e.1 < 8))

/-- A request whose work is done ends now, with the outcome its deadline gives (R17, R308); its record carries the CAUSE bits of a
request that ran on a Facet, and of an ISE's none (R330, R452). -/
def State.workEnds (rid : Nat) (s : State) : State :=
  match s.req rid with
  | none => s
  | some r =>
    if s.workDone rid r then
      s.endReq rid (finalOutcome r.cls r.deadline s.tick r.overload) (if (r.claims 12 || r.claims 13) && !r.onFacet then 0 else r.causeBits)
    else s

/-- REQUEST_END (R17, R18, R293, R308, R330): the last output tile has its VERSION, or a cause of this tick has ended the request: its
record is written with the code that prevails. -/
def execRequestEnd (rid : Nat) (s : State) : Host.Outcome State Fault Refusal := .next (((s.checkFailed rid).workEnds rid).finish rid)

end Sys2Proof.Machine
end

