-- ==== Sys2Proof/Machine/Registers.lean ====
section
/-! DEFINITION. Reads and writes of register words: access codes, the live views, 64-bit registers with their latches and
stages, the effects of writing each field, and the commands that carry accesses (R12 to R15, R57 to R62, R65, R71 to R78,
R656, R657). -/

namespace Sys2Proof.Machine

/-! ### Where an access goes (R71, R72, Table REG-2) -/

/-- The page and offset of a requester's address: a BAR0 offset, or for a virtual function an offset in its own page. -/
def target (rq : Requester) (addr : Nat) : Option (Nat × Nat) :=
  match rq with
  | .vf n => if 1 ≤ n ∧ n ≤ 63 ∧ addr < 4096 then some (0x100 + n, addr) else none
  | _ => if addr < 0x40_0000 then some (addr / 4096, addr % 4096) else none

/-- The aligned words that n bytes from an address touch, in ascending order. -/
def wordsTouched (addr n : Nat) : List Nat :=
  if n = 0 then [] else (List.range ((addr + n - 1) / 4 - addr / 4 + 1)).map (fun i => 4 * (addr / 4 + i))

/-- Which word of a 64-bit register a page has at an offset (R656). -/
def pairAt (page off : Nat) : PairWord :=
  ((rowsAt page off).find? (fun r => r.pair != .none)).elim .none (fun r => r.pair)

/-- Key of a requester's latch and stage of a 64-bit register, by its low word; ERR_REC_B to D have latches of their own. -/
def pairKey (rq : Requester) (page off : Nat) : Nat := (1024 * rqCode rq + page) * 1024 + off / 4

/-- A word that a table lists for a page. -/
def wordDefined (page off : Nat) : Bool := !(rowsAt page off).isEmpty

/-! ### Live views -/

/-- BLK_STATE (R80, R312, R497, R541). -/
def State.blkStateWord (s : State) (page : Nat) : Nat :=
  let b := s.blk (ownerPage page)
  b.st.code + 8 * b2n b.drained + b.cause % 256 * 2 ^ 8 + b.entry % 65536 * 2 ^ 16

/-- BLK_DPSTATE (R82, R83): the state of the block, which AUDIT_INJ makes a wrong one. -/
def State.dpState (page : Nat) (s : State) : Nat × State :=
  if auditedPages.contains page && s.on WK_SCHED.AUDIT_INJ_EN && decide (s.rd WK_SCHED.AUDIT_INJ_PAGE = page) then
    (let (v, s) := s.freeBits 8
     (((s.bst page).code + 1 + v % 5) % 6, s))
  else ((s.blk (ownerPage page)).st.code, s)

/-- ARMED and WINDOW_LEFT for a requester, in place in EXP_STATE (R63, R67). -/
def State.expView (s : State) (rq : Requester) (page : Nat) : Nat :=
  match s.armedAt rq page with
  | some t => if s.tick ≤ t + 16 then 2 + (t + 16 - s.tick) * 2 ^ 8 else 0
  | none => 0

/-- Tiles of T1 in use in a quadrant (Table CK-8). -/
def State.quadUsed (s : State) (q : Nat) : Nat :=
  mapCount (fun a e => decide (e.tier = 1) && within a tileSize (casketBase + q * 0x0400_0000) 0x0400_0000) s.ck.slots

/-- Free tiles of a Locket (Table FCT-7). -/
def State.locketFree (s : State) (f : Nat) : Nat :=
  2048 - mapCount (fun a e => decide (e.tier = 0) && within a tileSize (locketBase f) locketSize) s.ck.slots

/-- The side link between two Facets. -/
def sideLink (f g : Nat) : Option Nat :=
  if g = (f + 1) % 4 then some (4 + f) else if f = (g + 1) % 4 then some (4 + g) else none

/-- RING_UP of a Facet: its neighbours over side links that are UP (Table FCT-11). -/
def State.ringUp (s : State) (f : Nat) : Nat :=
  (List.range 4).foldl (fun n g => match sideLink f g with
    | some l => if s.rd (CL.LINK_STAT_STATE l) = lsUp then n + 2 ^ g else n
    | none => n) 0

/-- Free shadow slots over the tables a GSE writes (Table MAP-7). -/
def State.shadowFree (s : State) (g : Nat) : Nat :=
  s.rows.tabs.foldl (fun n e =>
    if e.2.learn ∧ (g = 0 ∨ 2 ^ e.2.shift < e.2.rows) then n + (e.2.shadow - e.2.used.length) else n) 0

/-- UNIT_STAT of a scheduler unit (Table WK-7). -/
def State.unitStat (s : State) (u : Nat) : Nat :=
  let c := s.capacity u
  let q := s.claimAll u
  (if q = 0 then 0 else satBits 10 (if c = 0 then 1023 else q * 1000 / c)) + 4096 * b2n (s.unitOut u)

/-- The words whose value follows from other state; none for a stored word. -/
def State.view (s : State) (page off : Nat) : Option Nat :=
  if off = 0x010 then some (s.blkStateWord page)
  else if off < 0x100 then none
  else if page = 0x001 then
    (if off = 0x100 then some (s.tick % 2 ^ 32) else if off = 0x104 then some (s.tick / 2 ^ 32 % 2 ^ 32) else none)
  else if page = 0x010 then (if off = 0x104 then some (s.tierCap 1) else none)
  else if 0x011 ≤ page ∧ page ≤ 0x014 then (if off = 0x100 then some (s.quadUsed (page - 0x011)) else none)
  else if page = 0x019 then
    (if off = 0x500 then some (s.poolSize 1 % 65536 + s.poolUsed 1 % 65536 * 65536)
     else if off = 0x504 then some (s.poolSize 2)
     else if off = 0x508 then some (s.poolUsed 2)
     else if off < 0x500 then
       (let w := (off - 0x100) / 16
        if off % 16 = 8 then some (s.used w 1 0 % 65536 + s.borrows w 1 % 65536 * 65536)
        else if off % 16 = 12 then some (s.used w 2 0) else none)
     else none)
  else if page = 0x030 then
    (if 0x180 ≤ off ∧ off < 0x1C4 then some (s.unitStat ((off - 0x180) / 4)) else none)
  else if 0x100 ≤ page then
    (let w := page - 0x100
     if off = 0x1D0 then
       some (((List.range 4).foldl (fun n r => n + s.ringPending w r) 0) % 65536 + s.inflight w % 65536 * 65536)
     else none)
  else if 0x040 ≤ page ∧ page ≤ 0x05F then
    (let f := (page - 0x040) / 8
     let sub := (page - 0x040) % 8
     if sub = 0 then
       (if off = 0x110 then some (s.facetOp f) else if off = 0x114 then some (s.locketFree f) else none)
     else if sub = 3 then
       (if off < 0x200 then some (s.used ((off - 0x100) / 4) 0 f + s.pinned ((off - 0x100) / 4) 0 f * 65536)
        else if off = 0x200 then some (s.rd (FCT3.LKT_LEVEL f) + 256 * b2n (s.bitOn CK_TIER.LOCKET_LENT f))
        else none)
     else if sub = 4 then (if off = 0x100 then some (s.ringUp f) else none)
     else none)
  else if page = 0x060 ∨ page = 0x061 then
    (if off = 0x13C then some (s.mergeUsed (page - 0x060))
     else if off = 0x148 then some (satBits 24 (s.shadowFree (page - 0x060))) else none)
  else if page = 0x063 then
    (if off = 0x104 then some s.cacheAlloc
     else if off = 0x80C then some (s.estimate (s.rd ROWCACHE.PEEK_TABLE) (s.rd ROWCACHE.PEEK_ROW)) else none)
  else if page = 0x080 then (if off = 0x144 then some s.slewNs else none)
  else none

/-- AON_STAT: while AONCLK is not disciplined its error against REFCLK_25 is a free value (Table TCK-11, log entry 84). -/
def State.aonStat (s : State) : Nat × State :=
  let w := (s.word 0x001 0x108).toNat
  if s.on BZ_AON.AON_STAT_DISCIPLINED || s.tick == 0 then (w, s)
  else
    let (v, t) := s.freeBits 16
    (w % 2 ^ 16 + v * 2 ^ 16, t)

/-- The live value of a word for a requester. -/
def State.live (rq : Requester) (page off : Nat) (s : State) : Nat × State :=
  if page = 0x001 ∧ off = 0x108 then s.aonStat
  else if off = 0x014 then s.dpState page
  else if off = 0x044 then ((s.word page off).toNat + s.expView rq page, s)
  else if 0x092 ≤ page ∧ page ≤ 0x099 ∧ off = 0x104 then
    (let (v, t) := s.freeBits 1
     ((s.word page off).toNat / 2 * 2 + v, t))
  else if page = 0x080 ∧ off = 0x100 then s.hmSnap rq
  else if page = 0x080 ∧ 0x104 ≤ off ∧ off < 0x118 then (s.hmSnapWord rq ((off - 0x104) / 4), s)
  else if page = 0x080 ∧ 0x300 ≤ off ∧ off < 0x520 then
    (let l := (off - 0x300) / 32
     let i := (off - 0x300) % 32 / 4
     if i = 0 then s.stampSnap rq l else if i < 6 then (s.stampWord rq l (i - 1), s) else (0, s))
  else match s.view page off with
    | some v => (v, s)
    | none => ((s.word page off).toNat, s)

/-! ### Reads (R61, R75 to R77) -/

/-- The fields of a word with access code RC read as 0 from now on (R15). -/
def State.clearRc (page off : Nat) (s : State) : State :=
  let rs := (rowsAt page off).filter (fun r => r.acc == .rc)
  if rs.isEmpty then s
  else s.setWord page off (BitVec.ofNat 32 (rs.foldl (fun w r => putBits w r.hi r.lo 0) (s.word page off).toNat))

/-- A read of ERR_REC_A to D: that of A latches B to D for its requester, those of B to D return the latch (Table REG-7, R75). -/
def State.readErrRec (rq : Requester) (page off : Nat) (s : State) : Nat × State :=
  let empty := fun _ => (0 : Word)
  if off = 0x028 then
    ((s.word page 0x028).toNat, { s with bus := {
      s.bus with
      latch := [0x02C, 0x030, 0x034].foldl (fun m o => mapSet empty m (pairKey rq page o) (s.word page o)) s.bus.latch } })
  else ((mapGet empty s.bus.latch (pairKey rq page off)).toNat, s)

/-- A read of one word of a page that answers. -/
def State.readFull (rq : Requester) (page off : Nat) (s : State) : Nat × State :=
  if !wordDefined page off then (0, s)
  else
    let s := if page = 0x003 then s.refreshReports else s
    if 0x028 ≤ off ∧ off ≤ 0x034 then s.readErrRec rq page off
    else match pairAt page off with
    | .hi => ((mapGet (fun _ => (0 : Word)) s.bus.latch (pairKey rq page (off - 4))).toNat, s)
    | .lo =>
      let (v, s) := s.live rq page off
      let (h, s) := s.live rq page (off + 4)
      (v, { s with bus := {
        s.bus with
        latch := mapSet (fun _ => (0 : Word)) s.bus.latch (pairKey rq page off) (BitVec.ofNat 32 h) } })
    | .none =>
      let (v, s) := s.live rq page off
      (v, s.clearRc page off)

/-- A read of one word of a page whose die or device sleeps (R88, R135). -/
def State.readShadow (page off : Nat) (s : State) : Nat :=
  if off < 0x00C then (s.word page off).toNat
  else if off = 0x010 then s.blkStateWord page
  else if off = 0x014 then (s.blk (ownerPage page)).st.code
  else 0

/-- A read of one aligned word. -/
def State.readWord (rq : Requester) (addr : Nat) (s : State) : Nat × State :=
  match target rq addr with
  | none => (0, s)
  | some (page, off) =>
    match s.serve page with
    | .full => s.readFull rq page off
    | .readOnly => s.readFull rq page off
    | .shadow => (s.readShadow page off, s)
    | .nothing => (0, s)

/-- A read: of each aligned word it touches, in ascending order; bytes outside it are returned as 0 (R72). -/
def State.regRead (rq : Requester) (addr n : Nat) (s : State) : List Byte × State :=
  (wordsTouched addr n).foldl (fun (q : List Byte × State) a =>
    let (v, t) := q.2.readWord rq a
    let b := ((leBytes 4 v).zipIdx).map (fun x => if addr ≤ a + x.2 ∧ a + x.2 < addr + n then x.1 else 0)
    (q.1 ++ b, t)) ([], s)

/-- The state after a read, with what it returned. -/
def State.regReadOut (rq : Requester) (addr n : Nat) (s : State) : State :=
  let (b, t) := s.regRead rq addr n
  t.emit (.read rq b false)

/-! ### Writes of fields (R12, R14, R61, R65) -/

/-- A word with one field written: what its access code makes of the value. -/
def Row.write (r : Row) (unlocked : Bool) (hot v w : Nat) : Nat :=
  let n := bitsOf v r.hi r.lo
  let old := bitsOf w r.hi r.lo
  match r.acc with
  | .rw => putBits w r.hi r.lo n
  | .rwx => if unlocked then putBits w r.hi r.lo n else w
  | .w1c => putBits w r.hi r.lo (Nat.lor (Nat.xor old (Nat.land old n)) (Nat.land old (bitsOf hot r.hi r.lo)))
  | .w1s => putBits w r.hi r.lo (Nat.lor old n)
  | .ro => w
  | .wo => w
  | .rc => w

/-- The fields of a word written as their access codes say. -/
def State.writeFields (page off v : Nat) (s : State) : State :=
  let hot := (mapFind s.bus.hot (regKey page off)).getD 0
  let u := s.unlocked page
  match rowsAt page off with
  | [] => s
  | rs => s.setWord page off (BitVec.ofNat 32 (rs.foldl (fun w r => r.write u hot v w) (s.word page off).toNat))

/-- A write of PM_REQ (R127, R138, R154, R664). -/
def State.pmReq (v : Nat) (s : State) : State :=
  let t := v % 8
  if t = 0 then s.pmAwake
  else if t = 1 ∨ 5 ≤ t then s.pmInvalid t
  else s.pmSleep t (bit v 8) (bit v 9)

/-- A write of STR_CFG: EN = 0 ends a stream; EN = 1 is checked (R595, R596). -/
def State.strCfg (n k v : Nat) (s : State) : State :=
  let off := 0x140 + 32 * k
  if s.on (CSI.STR_CFG_EN n k) then
    (let t := if v % 2 = 0 then s.disableStream n k else s
     if v % 2 = 1 ∨ v / 16 % 2 ^ 16 ≠ (s.word (pgCsi n) off).toNat / 16 % 2 ^ 16 then t.reject (pgCsi n) else t)
  else
    let t := s.writeFields (pgCsi n) off (v / 2 * 2)
    if v % 2 = 1 then t.enableStream n k else t

/-- The effect of a write of a word of the power, fault, event and reset pages. -/
def State.writeBz (page off v : Nat) (s : State) : State :=
  let plain := s.writeFields page off v
  if page = 0x001 then (if off = 0x10C then s.disciplineEn (bit v 0) else plain)
  else if page = 0x002 then
    (if off = 0x104 then s.pmReq v else if off = 0x800 then plain.syncOps else plain)
  else if page = 0x003 then
    (if off = 0x100 then s.setSentinel (bit v 0)
     else if off = 0x11C then (if bit v 0 then plain.flogEnable else plain)
     else if off = 0x170 then (if bit v 0 then s.firstClr else s)
     else if off = 0x174 then (if bit v 8 then plain.faultNClr else plain)
     else if off = 0x800 then (if bit v 0 then s.injReport else s)
     else plain)
  else if page = 0x004 then
    (if off = 0x118 then s.writeFields page off (v / 256 * 256)
     else if off = 0x124 then (if bit v 0 then s.evtLogEnable else plain)
     else if 0x800 ≤ off ∧ off ≤ 0x808 then s.evtInject ((off - 0x800) / 4) v
     else plain)
  else if page = 0x006 then (if off = 0x804 then s.resetCmd v else plain)
  else plain

/-- The effect of a write of a word of the link, memory and scheduler pages. -/
def State.writeMem (rq : Requester) (page off v : Nat) (s : State) : State :=
  let plain := s.writeFields page off v
  if 0x020 ≤ page ∧ page ≤ 0x027 then
    (if off = 0x800 then s.modeForce (page - 0x020) (bit v 0)
     else if off = 0x820 then (if bit v 0 then s.retrainLink (page - 0x020) else s)
     else plain)
  else if page = 0x02F then
    (if off = 0x100 ∧ bit v 8 ∧ (s.bst page).up then plain.clTestStart (v % 8) (bitsOf v 31 16) else plain)
  else if page = 0x018 then
    (if off = 0x110 then plain.syncLent
     else if off = 0x114 then s.lendTiles (v % 2 ^ 24)
     else if off = 0x118 then (if bit v 0 then s.lendRecall else s)
     else plain)
  else if page = 0x019 then
    (if 0x100 ≤ off ∧ off < 0x500 then
       (if off % 16 = 0 then s.quotaWrite ((off - 0x100) / 16) 0 v
        else if off % 16 = 4 then s.quotaWrite ((off - 0x100) / 16) 1 v else s)
     else plain)
  else if 0x100 ≤ page then
    (let w := page - 0x100
     if 0x140 ≤ off ∧ off < 0x150 then s.doorbell w ((off - 0x140) / 4) (v % 4096)
     else if off = 0x150 then s.cancel w (v % 16)
     else if 0x180 ≤ off ∧ off < 0x190 then s.pfOnly rq page (State.shareWrite w ((off - 0x180) / 4) v)
     else plain)
  else plain

/-- The effect of a write of a word of the engines' pages. -/
def State.writeEngine (page off v : Nat) (s : State) : State :=
  let plain := s.writeFields page off v
  if 0x040 ≤ page ∧ page ≤ 0x05F then
    (if (page - 0x040) % 8 = 0 ∧ off = 0x104 then (plain.syncCores ((page - 0x040) / 8)).coresLeft ((page - 0x040) / 8) else plain)
  else if page = 0x060 ∨ page = 0x061 then (if off = 0x144 then s.seed (page - 0x060) v else plain)
  else if page = 0x062 then
    (if off = 0x108 then (if bit v 8 then s.tblAct (v % 256) else if bit v 9 then s.tblDeact (v % 256) else s) else plain)
  else if page = 0x063 then
    (if off = 0x100 then s.rcSize v else if off = 0x800 then (if bit v 0 then s.clearSketch else s) else plain)
  else if page = 0x068 ∨ page = 0x069 then
    (if off = 0x108 then
       (if bit v 8 then s.idxAct (page - 0x068) (v % 64) else if bit v 9 then s.idxDeact (page - 0x068) (v % 64) else s)
     else plain)
  else if page = 0x078 then (if off = 0x108 ∧ bit v 8 then plain.outEnable else plain)
  else if page = 0x079 then (if off = 0x280 then s.commit (v % 2 ^ 24) else plain)
  else if page = 0x07A then
    (if 0x100 ≤ off ∧ off < 0x400 then
       s.calWrite ((off - 0x100) / 32) ((off - 0x100) / 8 % 4) (decide (off % 8 = 4)) v
     else if off = 0x410 then (if bit v 16 then s.calStart (v % 32) (bitsOf v 9 8) (bit v 12) else s)
     else plain)
  else plain

/-- The effect of a write of a word of the pages of time, fabric and ports. -/
def State.writePort (page off v : Nat) (s : State) : State :=
  let plain := s.writeFields page off v
  if page = 0x080 then
    (if off = 0x130 then s.hmCmd (v % 8)
     else if off = 0x200 then (setBitsBelow 4 v).foldl (fun (t : State) f => t.fsApply f) s
     else plain)
  else if page = 0x081 then
    (if 0x100 ≤ off ∧ off < 0x180 ∧ (off - 0x100) % 64 < 12 then
       s.domWrite ((off - 0x100) / 64) ((off - 0x100) % 64 / 4) v
     else plain)
  else if page = 0x082 then
    (if 0x100 ≤ off ∧ off < 0x180 ∧ off % 32 = 0x14 then (if bit v 0 then s.txqPop ((off - 0x100) / 32) else s) else plain)
  else if 0x088 ≤ page ∧ page ≤ 0x08B then (if off = 0x120 then s.txrTail (page - 0x088) (v % 4096) else plain)
  else if page = 0x08C then
    (if off = 0x100 then plain.fabShard else if off = 0x138 then s.borrowCmd (v % 64) (bit v 8) else plain)
  else if page = 0x091 then (if off = 0x134 then (if bit v 0 then s.wrCmd else s) else plain)
  else if 0x092 ≤ page ∧ page ≤ 0x099 then
    (if 0x140 ≤ off ∧ off < 0x1C0 ∧ off % 32 = 0 then s.strCfg (page - 0x092) ((off - 0x140) / 32) v else plain)
  else if page = 0x09A then
    (if 0x100 ≤ off ∧ off < 0x200 ∧ off % 64 = 0x24 ∧ bit v 8 then s.xfer ((off - 0x100) / 64) (v % 4) (bitsOf v 6 4)
     else if off = 0x800 then (if bit v 8 then plain.bspiStart (v % 4) else plain)
     else plain)
  else if page = 0x09B then (if off = 0x100 ∨ off = 0x104 then s.sdmClkCfg ((off - 0x100) / 4) v else plain)
  else plain

/-- The effect of a write of one word that is no half of a 64-bit register. -/
def State.writeEffect (rq : Requester) (page off v : Nat) (s : State) : State :=
  if off = 0x00C then s.blkCtrl page v
  else if off = 0x024 then s.irqForce page v
  else if off = 0x020 then (s.writeFields page off v).recapture page v
  else if off = 0x040 then s.expWrite rq page v
  else if off < 0x100 then s.writeFields page off v
  else if page < 0x010 then s.writeBz page off v
  else if page < 0x040 ∨ 0x100 ≤ page then s.writeMem rq page off v
  else if page < 0x080 then s.writeEngine page off v
  else s.writePort page off v

/-! ### 64-bit registers (R75, R76, R78, R656) -/

/-- The commit of a 64-bit register: both words in one tick; a write of WAKE_TICK sets the timer (R139). -/
def State.commit64 (page off lo hi : Nat) (s : State) : State :=
  let s := (s.writeFields page off lo).writeFields page (off + 4) hi
  if page = 0x002 ∧ off = 0x118 then s.wakeTimer (lo + hi * 2 ^ 32) else s

/-- A write of a word of a 64-bit register: the high word is staged, the low word commits. -/
def State.writePair (rq : Requester) (page off v : Nat) (s : State) : State :=
  match pairAt page off with
  | .hi =>
    if (rowsAt page off).any (fun r => r.acc == .ro) then s
    else { s with bus := { s.bus with stage := mapInsert s.bus.stage (pairKey rq page (off - 4)) (BitVec.ofNat 32 v) } }
  | .lo =>
    let k := pairKey rq page off
    let hi := match mapFind s.bus.stage k with
      | some w => w.toNat
      | none => (s.word page (off + 4)).toNat
    let s : State := { s with bus := { s.bus with stage := mapErase s.bus.stage k } }
    s.commit64 page off v hi
  | .none => s.writeEffect rq page off v

/-! ### What turns a write away -/

/-- A write to an expert offset, or to a word with an RWX field, of a locked page (R65). -/
def State.lockedOut (s : State) (page off : Nat) : Bool :=
  !s.unlocked page && (decide (0x800 ≤ off) || (rowsAt page off).any (fun r => r.acc == .rwx))

/-- A write to settings that are held fixed: the index and table directories while any index or table is active, those of an
enabled stream (Tables LP-9 and MAP-8, R596), and the guest registers of a link that has no guest (R235). -/
def State.writeHeld (page off : Nat) (s : State) : Option State :=
  if (page = 0x068 ∨ page = 0x069) ∧ (off = 0x100 ∨ off = 0x104) ∧ s.lps.idx.any (fun e => e.1 / 64 == page - 0x068) then some s
  else if page = 0x062 ∧ (off = 0x100 ∨ off = 0x104) ∧ !s.rows.tabs.isEmpty then some s
  else if 0x092 ≤ page ∧ page ≤ 0x099 ∧ 0x140 ≤ off ∧ off < 0x1C0 ∧ 4 ≤ off % 32 ∧ off % 32 ≤ 0x14
      ∧ s.on (CSI.STR_CFG_EN (page - 0x092) ((off - 0x140) / 32)) then some (s.reject page)
  else if 0x020 ≤ page ∧ page ≤ 0x027 ∧ 0x180 ≤ off ∧ off < 0x280 ∧ (page ≠ 0x023 ∨ s.part ≠ .pmx7241) then some s
  else none

/-- A write of one word of a page that answers. -/
def State.writeFull (rq : Requester) (page off v : Nat) (s : State) : State :=
  if s.lockedOut page off then s.blocked page
  else if !wordDefined page off then s
  else if rqIsVf rq && (rowsAt page off).any (fun r => r.pf) then s.blocked page
  else match s.writeHeld page off with
    | some t => t
    | none => s.writePair rq page off v

/-- A write of a word that is turned away and counted: locked out, or a field that only the physical function sets. -/
def State.turnedAway (rq : Requester) (page off : Nat) (s : State) : Bool :=
  s.lockedOut page off || (wordDefined page off && rqIsVf rq && (rowsAt page off).any (fun r => r.pf))

/-- A 64-bit write to a page that answers: one write, so that one of which both words are turned away is counted once (R65, R76). -/
def State.writeBoth (rq : Requester) (page off lo hi : Nat) (s : State) : State :=
  if s.turnedAway rq page off && s.turnedAway rq page (off + 4) then s.blocked page
  else if pairAt page off = .lo then (s.writeFull rq page (off + 4) hi).writeFull rq page off lo
  else (s.writeFull rq page off lo).writeFull rq page (off + 4) hi

/-- A write of one aligned word. A doorbell is carried out in every power state (R126, R287); a virtual function's write of
EXP_UNLOCK is counted on its own page (R69). -/
def State.writeWord (rq : Requester) (addr v : Nat) (s : State) : State :=
  match target rq addr with
  | none => s
  | some (page, off) =>
    if 0x100 ≤ page ∧ page ≤ 0x13F ∧ 0x140 ≤ off ∧ off < 0x150 ∧ s.booted then
      s.leaveDoze.doorbell (page - 0x100) ((off - 0x140) / 4) (v % 4096)
    else s.access rq page (fun t => t.writeFull rq page off v)

/-- A write that R72 discards. -/
def badWrite (addr n : Nat) : Bool := !((n == 4 && addr % 4 == 0) || (n == 8 && addr % 8 == 0))

/-- A write: of one word, or of two; an aligned 64-bit one commits a 64-bit register whole (R72, R76). A discarded one is counted in
HIF and raises its REG_ACC_ERR (R612). -/
def State.regWrite (rq : Requester) (addr n v : Nat) (s : State) : State :=
  if badWrite addr n then (s.inc HIF.REG_ACC_ERR_CNT).raiseIrq 0x090 2
  else if n = 4 then s.writeWord rq addr (v % 2 ^ 32)
  else
    let lo := v % 2 ^ 32
    let hi := v / 2 ^ 32 % 2 ^ 32
    match target rq addr with
    | none => s
    | some (page, off) =>
      if 0x100 ≤ page ∧ page ≤ 0x13F ∧ 0x140 ≤ off ∧ off < 0x150 then (s.writeWord rq addr lo).writeWord rq (addr + 4) hi
      else s.access rq page (State.writeBoth rq page off lo hi)

/-! ### The commands -/

/-- REGISTER_WRITE (R72, R73). -/
def execRegisterWrite (rq : Requester) (addr width value : Nat) (s : State) : Host.Outcome State Fault Refusal :=
  .next (s.regWrite rq addr width value)

/-- RC_FIELD_READ (R15, R72). -/
def execRcFieldRead (rq : Requester) (addr width : Nat) (s : State) : Host.Outcome State Fault Refusal :=
  .next (s.regReadOut rq addr width)

/-- LOW_WORD_READ (R75). -/
def execLowWordRead (rq : Requester) (addr width : Nat) (s : State) : Host.Outcome State Fault Refusal :=
  .next (s.regReadOut rq addr width)

/-- HIGH_WORD_WRITE (R75). -/
def execHighWordWrite (rq : Requester) (addr value : Nat) (s : State) : Host.Outcome State Fault Refusal :=
  .next (s.regWrite rq addr 4 value)

/-- LOW_WORD_WRITE (R75). -/
def execLowWordWrite (rq : Requester) (addr width value : Nat) (s : State) : Host.Outcome State Fault Refusal :=
  .next (s.regWrite rq addr width value)

/-- HM_NS_READ (R507). -/
def execHmNsRead (rq : Requester) (width : Nat) (s : State) : Host.Outcome State Fault Refusal :=
  .next (s.regReadOut rq 0x080100 width)

/-- STAMP_NS_READ (R510). -/
def execStampNsRead (rq : Requester) (line : Nat) (s : State) : Host.Outcome State Fault Refusal :=
  .next (if line ≤ 16 then s.regReadOut rq (0x080300 + 32 * line) 4 else s)

/-! ### Frames of the management SPI (R606, R607, R609) -/

/-- An address is on a page that answers the management SPI in full. -/
def State.mspiServed (s : State) (addr : Nat) : Bool :=
  match target .mspi addr with
  | none => false
  | some (page, _) => s.serve page == .full

/-- MSPI_READ (R606, R607): N words, not ready for `waitBits` bits. -/
def execMspiRead (addr n waitBits : Nat) (s : State) : Host.Outcome State Fault Refusal :=
  .next (
    let n := clampNat 1 16 n
    let stat := s.rd MSPI.MSPI_STAT
    if s.io.mspiIdle then s
    else
      let s := s.setIo { s.io with mspiWake := true }
      if atLeast1 (s.rd MSPI.WAIT_MAX) < waitBits then
        ((s.setW1c MSPI.MSPI_STAT msTimeout).incBy MSPI.WORD_CNT n).emit (.mspi stat (List.replicate n 0xFFFF_FFFF) true)
      else
        let a := addr % 2 ^ 24 / 4 * 4
        let r := (List.range n).foldl (fun (q : List Word × State) i =>
          let (v, t) := q.2.readWord .mspi (a + 4 * i)
          (q.1 ++ [BitVec.ofNat 32 v], t)) ([], s)
        (r.2.incBy MSPI.WORD_CNT n).emit (.mspi stat r.1 false))

/-- MSPI_WRITE (R606, R607, R609): the words received, each applied as its last bit comes in. -/
def execMspiWrite (addr : Nat) (words : List Word) (s : State) : Host.Outcome State Fault Refusal :=
  .next (
    if s.io.mspiIdle then s
    else
      let a := addr % 2 ^ 24 / 4 * 4
      (words.take 16).zipIdx.foldl (fun (t : State) w =>
        let b := a + 4 * w.2
        let u := if t.mspiServed b then t.inc MSPI.WORD_CNT else t
        u.writeWord .mspi b w.1.toNat) ((s.setIo { s.io with mspiWake := true }).emit (.mspi (s.rd MSPI.MSPI_STAT) [] false)))

/-! ### The register access of the test access port (R610, Table PRT-8) -/

/-- REG_ACCESS: made at Update-DR; the next Capture-DR returns the data read. -/
def execRegAccess (write : Bool) (off : Nat) (data : Word) (s : State) : Host.Outcome State Fault Refusal :=
  .next (
    let dis := s.on TAP.TAP_REG_DIS
    let s := (s.inc TAP.REG_ACCESS_CNT).setIo { s.io with tapIr := 0x10, pinsFrom := 0 }
    let a := off % 2 ^ 24
    if dis then s.setIo { s.io with tapData := 0, tapDone := true }
    else if write then
      (let t := s.regWrite .tap a 4 data.toNat
       t.setIo { t.io with tapData := 0, tapDone := true })
    else
      let (b, t) := s.regRead .tap a 4
      t.setIo { t.io with tapData := leNat b % 2 ^ 32, tapDone := true })

end Sys2Proof.Machine
end

