-- ==== Sys2Proof/Machine/Dispatch.lean ====
section
/-! DEFINITION. What each command does to everything but the queue: one arm per command, each a direct call of its meaning. -/

namespace Sys2Proof.Machine

def exec (i : Instr) (s : State) : Host.Outcome State Fault Refusal :=
  match i with
  | .registerWrite rq addr width value => Sys2Proof.Machine.execRegisterWrite rq addr width value s
  | .rcFieldRead rq addr width => Sys2Proof.Machine.execRcFieldRead rq addr width s
  | .lowWordRead rq addr width => Sys2Proof.Machine.execLowWordRead rq addr width s
  | .highWordWrite rq addr value => Sys2Proof.Machine.execHighWordWrite rq addr value s
  | .lowWordWrite rq addr width value => Sys2Proof.Machine.execLowWordWrite rq addr width value s
  | .expUnlockFirstKey rq page upper => Sys2Proof.Machine.execExpUnlockFirstKey rq page upper s
  | .expUnlockSecondKey rq page value => Sys2Proof.Machine.execExpUnlockSecondKey rq page value s
  | .expRelock rq page upper => Sys2Proof.Machine.execExpRelock rq page upper s
  | .unlockWindowExpiry rq page => Sys2Proof.Machine.execUnlockWindowExpiry rq page s
  | .blockEnable rq page clkReq => Sys2Proof.Machine.execBlockEnable rq page clkReq s
  | .blockDisable rq page clkReq => Sys2Proof.Machine.execBlockDisable rq page clkReq s
  | .softReset rq page enable clkReq => Sys2Proof.Machine.execSoftReset rq page enable clkReq s
  | .irqForce rq page bits => Sys2Proof.Machine.execIrqForce rq page bits s
  | .drainComplete page lost => Sys2Proof.Machine.execDrainComplete page lost s
  | .bar2Access fn off len write data => Sys2Proof.Machine.execBar2Access fn off len write data s
  | .bar4Access off len write data => Sys2Proof.Machine.execBar4Access off len write data s
  | .tickEventSampling => Sys2Proof.Machine.execTickEventSampling s
  | .evtLogEnable rq => Sys2Proof.Machine.execEvtLogEnable rq s
  | .evtInject rq word bits => Sys2Proof.Machine.execEvtInject rq word bits s
  | .refclkLost => Sys2Proof.Machine.execRefclkLost s
  | .refclkReturn => Sys2Proof.Machine.execRefclkReturn s
  | .aonclkDisciplined freqErr => Sys2Proof.Machine.execAonclkDisciplined freqErr s
  | .pllLock n => Sys2Proof.Machine.execPllLock n s
  | .pllLockTimeout n => Sys2Proof.Machine.execPllLockTimeout n s
  | .clockMonitorFault pll => Sys2Proof.Machine.execClockMonitorFault pll s
  | .autoDozeEntry => Sys2Proof.Machine.execAutoDozeEntry s
  | .dozeExit t => Sys2Proof.Machine.execDozeExit t s
  | .pmReqNap rq dropT0 dropHbm => Sys2Proof.Machine.execPmReqNap rq dropT0 dropHbm s
  | .pmReqSleep rq dropT0 dropHbm => Sys2Proof.Machine.execPmReqSleep rq dropT0 dropHbm s
  | .pmReqDeep rq dropT0 dropHbm => Sys2Proof.Machine.execPmReqDeep rq dropT0 dropHbm s
  | .pmReqAwake rq => Sys2Proof.Machine.execPmReqAwake rq s
  | .pmReqInvalid rq target => Sys2Proof.Machine.execPmReqInvalid rq target s
  | .powerStateEntryComplete => Sys2Proof.Machine.execPowerStateEntryComplete s
  | .wakeTimerSet rq value => Sys2Proof.Machine.execWakeTimerSet rq value s
  | .wakeTimerMatch => Sys2Proof.Machine.execWakeTimerMatch s
  | .wakeStart => Sys2Proof.Machine.execWakeStart s
  | .wakeComplete pllFail linkFail stackFail => Sys2Proof.Machine.execWakeComplete pllFail linkFail stackFail s
  | .hbmBackgroundZero stack => Sys2Proof.Machine.execHbmBackgroundZero stack s
  | .telemetrySample values => Sys2Proof.Machine.execTelemetrySample values s
  | .powerCapStep => Sys2Proof.Machine.execPowerCapStep s
  | .facetThermalLimit f => Sys2Proof.Machine.execFacetThermalLimit f s
  | .crownThermalLimit sensor => Sys2Proof.Machine.execCrownThermalLimit sensor s
  | .thermtrip => Sys2Proof.Machine.execThermtrip s
  | .hbmThermalLimit stack => Sys2Proof.Machine.execHbmThermalLimit stack s
  | .supplyOutOfRange rail => Sys2Proof.Machine.execSupplyOutOfRange rail s
  | .alwaysOnPowerOnReset => Sys2Proof.Machine.execAlwaysOnPowerOnReset s
  | .deviceReset c => Sys2Proof.Machine.execDeviceReset c s
  | .perstNFall => Sys2Proof.Machine.execPerstNFall s
  | .hifLinkTraining speed lanes flit => Sys2Proof.Machine.execHifLinkTraining speed lanes flit s
  | .configurationRequest fn c => Sys2Proof.Machine.execConfigurationRequest fn c s
  | .bootClocks => Sys2Proof.Machine.execBootClocks s
  | .refAbsentTimeout => Sys2Proof.Machine.execRefAbsentTimeout s
  | .storeInit => Sys2Proof.Machine.execStoreInit s
  | .fwLoad => Sys2Proof.Machine.execFwLoad s
  | .fwVerify => Sys2Proof.Machine.execFwVerify s
  | .facets f r => Sys2Proof.Machine.execFacets f r s
  | .sideLinks fails r => Sys2Proof.Machine.execSideLinks fails r s
  | .hbmTrain stack r => Sys2Proof.Machine.execHbmTrain stack r s
  | .hostReady => Sys2Proof.Machine.execHostReady s
  | .stageTimeout => Sys2Proof.Machine.execStageTimeout s
  | .watchdogExpiry => Sys2Proof.Machine.execWatchdogExpiry s
  | .watchdogRestart => Sys2Proof.Machine.execWatchdogRestart s
  | .capDecl sidebandOk modules block => Sys2Proof.Machine.execCapDecl sidebandOk modules block s
  | .guestSlotTimeout => Sys2Proof.Machine.execGuestSlotTimeout s
  | .tickMessage => Sys2Proof.Machine.execTickMessage s
  | .tickAck echo => Sys2Proof.Machine.execTickAck echo s
  | .modeForce rq link packetised => Sys2Proof.Machine.execModeForce rq link packetised s
  | .retrain rq link => Sys2Proof.Machine.execRetrain rq link s
  | .linkRetrainComplete link modules => Sys2Proof.Machine.execLinkRetrainComplete link modules s
  | .nativeFrame link seq ackSeq nak crcOk => Sys2Proof.Machine.execNativeFrame link seq ackSeq nak crcOk s
  | .nak link seq => Sys2Proof.Machine.execNak link seq s
  | .ack link seq => Sys2Proof.Machine.execAck link seq s
  | .ackTimeoutReplay link => Sys2Proof.Machine.execAckTimeoutReplay link s
  | .rdReq seq addr len tag => Sys2Proof.Machine.execRdReq seq addr len tag s
  | .wrReq seq addr tag data => Sys2Proof.Machine.execWrReq seq addr tag data s
  | .wrPosted seq addr data => Sys2Proof.Machine.execWrPosted seq addr data s
  | .rdCpl link tag status data => Sys2Proof.Machine.execRdCpl link tag status data s
  | .wrCpl link tag status => Sys2Proof.Machine.execWrCpl link tag status s
  | .credit req cpl data => Sys2Proof.Machine.execCredit req cpl data s
  | .complete guestTag outcome cause endTick startDelta => Sys2Proof.Machine.execComplete guestTag outcome cause endTick startDelta s
  | .txnTimeoutExpiry link tag => Sys2Proof.Machine.execTxnTimeoutExpiry link tag s
  | .linkTimeout link tag => Sys2Proof.Machine.execLinkTimeout link tag s
  | .laneMonitorBurst link bad stuck => Sys2Proof.Machine.execLaneMonitorBurst link bad stuck s
  | .clTestStart rq link duration => Sys2Proof.Machine.execClTestStart rq link duration s
  | .clTestDone errLanes => Sys2Proof.Machine.execClTestDone errLanes s
  | .tileInstall fetch data => Sys2Proof.Machine.execTileInstall fetch data s
  | .tierLate rid fetch => Sys2Proof.Machine.execTierLate rid fetch s
  | .tierFailed fetch st => Sys2Proof.Machine.execTierFailed fetch st s
  | .evictionWritebackDone slot => Sys2Proof.Machine.execEvictionWritebackDone slot s
  | .quotaWrite rq w word value => Sys2Proof.Machine.execQuotaWrite rq w word value s
  | .locketLend n => Sys2Proof.Machine.execLocketLend n s
  | .lendReclaim rq => Sys2Proof.Machine.execLendReclaim rq s
  | .reclaimPeriodEnd slot => Sys2Proof.Machine.execReclaimPeriodEnd slot s
  | .casketScrub => Sys2Proof.Machine.execCasketScrub s
  | .patrolScrub stack => Sys2Proof.Machine.execPatrolScrub stack s
  | .doorbell rq ws ring tail => Sys2Proof.Machine.execDoorbell rq ws ring tail s
  | .cancel rq ws rings => Sys2Proof.Machine.execCancel rq ws rings s
  | .admission => Sys2Proof.Machine.execAdmission s
  | .nop ws ring => Sys2Proof.Machine.execNop ws ring s
  | .run ws ring => Sys2Proof.Machine.execRun ws ring s
  | .alloc ws ring => Sys2Proof.Machine.execAlloc ws ring s
  | .free ws ring => Sys2Proof.Machine.execFree ws ring s
  | .loadPlan ws ring => Sys2Proof.Machine.execLoadPlan ws ring s
  | .modelLoadComplete rid => Sys2Proof.Machine.execModelLoadComplete rid s
  | .dmaIn ws ring => Sys2Proof.Machine.execDmaIn ws ring s
  | .dmaOut ws ring => Sys2Proof.Machine.execDmaOut ws ring s
  | .flush ws ring => Sys2Proof.Machine.execFlush ws ring s
  | .shareWrite rq ws c value => Sys2Proof.Machine.execShareWrite rq ws c value s
  | .dispatch unit => Sys2Proof.Machine.execDispatch unit s
  | .preemptionYield rid => Sys2Proof.Machine.execPreemptionYield rid s
  | .latestStartReached rid => Sys2Proof.Machine.execLatestStartReached rid s
  | .requestEnd rid => Sys2Proof.Machine.execRequestEnd rid s
  | .deadlineMissed rid => Sys2Proof.Machine.execDeadlineMissed rid s
  | .irqModerationExpiry ws => Sys2Proof.Machine.execIrqModerationExpiry ws s
  | .stateAudit diverged => Sys2Proof.Machine.execStateAudit diverged s
  | .facetTile rid f core run vcMismatch => Sys2Proof.Machine.execFacetTile rid f core run vcMismatch s
  | .abftRecompute rid f core faults => Sys2Proof.Machine.execAbftRecompute rid f core faults s
  | .exchangeStep rid => Sys2Proof.Machine.execExchangeStep rid s
  | .tblCmdAct rq table => Sys2Proof.Machine.execTblCmdAct rq table s
  | .tblCmdDeact rq table => Sys2Proof.Machine.execTblCmdDeact rq table s
  | .tableDeactComplete table => Sys2Proof.Machine.execTableDeactComplete table s
  | .gather rid g => Sys2Proof.Machine.execGather rid g s
  | .update rid g => Sys2Proof.Machine.execUpdate rid g s
  | .put rid g => Sys2Proof.Machine.execPut rid g s
  | .flip g => Sys2Proof.Machine.execFlip g s
  | .slotFree g => Sys2Proof.Machine.execSlotFree g s
  | .srSeedWrite rq g value => Sys2Proof.Machine.execSrSeedWrite rq g value s
  | .rcSizeWrite rq value => Sys2Proof.Machine.execRcSizeWrite rq value s
  | .sketchClear rq => Sys2Proof.Machine.execSketchClear rq s
  | .roundOpen g => Sys2Proof.Machine.execRoundOpen g s
  | .roundClose g round => Sys2Proof.Machine.execRoundClose g round s
  | .peerBatch slot epoch items => Sys2Proof.Machine.execPeerBatch slot epoch items s
  | .remoteReply slot table row a => Sys2Proof.Machine.execRemoteReply slot table row a s
  | .remoteLateExpiry rid => Sys2Proof.Machine.execRemoteLateExpiry rid s
  | .idxCmdAct rq lp index => Sys2Proof.Machine.execIdxCmdAct rq lp index s
  | .idxCmdDeact rq lp index => Sys2Proof.Machine.execIdxCmdDeact rq lp index s
  | .indexDeactComplete lp index => Sys2Proof.Machine.execIndexDeactComplete lp index s
  | .searchApproximate rid => Sys2Proof.Machine.execSearchApproximate rid s
  | .searchExact rid => Sys2Proof.Machine.execSearchExact rid s
  | .listScanStart lp index list => Sys2Proof.Machine.execListScanStart lp index list s
  | .merge rid => Sys2Proof.Machine.execMerge rid s
  | .shardLateExpiry rid => Sys2Proof.Machine.execShardLateExpiry rid s
  | .peerSearch lp slot index k l visitMax exact probe query => Sys2Proof.Machine.execPeerSearch lp slot index k l visitMax exact probe query s
  | .solve rid => Sys2Proof.Machine.execSolve rid s
  | .recheckDue ise => Sys2Proof.Machine.execRecheckDue ise s
  | .channelSlot k bits => Sys2Proof.Machine.execChannelSlot k bits s
  | .commit rq mask => Sys2Proof.Machine.execCommit rq mask s
  | .timingSlip k => Sys2Proof.Machine.execTimingSlip k s
  | .filter rid => Sys2Proof.Machine.execFilter rid s
  | .outEnable rq => Sys2Proof.Machine.execOutEnable rq s
  | .calStart rq channel range ref => Sys2Proof.Machine.execCalStart rq channel range ref s
  | .hmNsRead rq width => Sys2Proof.Machine.execHmNsRead rq width s
  | .stampNsRead rq line => Sys2Proof.Machine.execStampNsRead rq line s
  | .set rq => Sys2Proof.Machine.execSet rq s
  | .snap rq => Sys2Proof.Machine.execSnap rq s
  | .switchPri rq => Sys2Proof.Machine.execSwitchPri rq s
  | .switchSec rq => Sys2Proof.Machine.execSwitchSec rq s
  | .hmCmdInvalid rq code => Sys2Proof.Machine.execHmCmdInvalid rq code s
  | .stampEdge line subTick => Sys2Proof.Machine.execStampEdge line subTick s
  | .txqPop rq p => Sys2Proof.Machine.execTxqPop rq p s
  | .sync d valid twoStep seq logInterval origin recv correction => Sys2Proof.Machine.execSync d valid twoStep seq logInterval origin recv correction s
  | .followUp d seq origin correction => Sys2Proof.Machine.execFollowUp d seq origin correction s
  | .delayReq d seq recv => Sys2Proof.Machine.execDelayReq d seq recv s
  | .delayResp d seq recv correction => Sys2Proof.Machine.execDelayResp d seq recv correction s
  | .pdelayReq d seq recv => Sys2Proof.Machine.execPdelayReq d seq recv s
  | .pdelayResp d seq twoStep peerRecv recv correction => Sys2Proof.Machine.execPdelayResp d seq twoStep peerRecv recv correction s
  | .pdelayRespFollowUp d seq peerSend correction => Sys2Proof.Machine.execPdelayRespFollowUp d seq peerSend correction s
  | .announcePtp d a => Sys2Proof.Machine.execAnnouncePtp d a s
  | .managementSignaling d => Sys2Proof.Machine.execManagementSignaling d s
  | .ptpMessageSend d kind => Sys2Proof.Machine.execPtpMessageSend d kind s
  | .domainLoss d => Sys2Proof.Machine.execDomainLoss d s
  | .domainConfigWrite rq d word value => Sys2Proof.Machine.execDomainConfigWrite rq d word value s
  | .ppsInEdge subTick => Sys2Proof.Machine.execPpsInEdge subTick s
  | .fsyncOutEdge f => Sys2Proof.Machine.execFsyncOutEdge f s
  | .fsApply rq f => Sys2Proof.Machine.execFsApply rq f s
  | .ethLinkChange p up => Sys2Proof.Machine.execEthLinkChange p up s
  | .txrTail rq p tail => Sys2Proof.Machine.execTxrTail rq p tail s
  | .frameRx p frame crcErr unicastOrBroadcast stampValid => Sys2Proof.Machine.execFrameRx p frame crcErr unicastOrBroadcast stampValid s
  | .send slot items => Sys2Proof.Machine.execSend slot items s
  | .rdmaWrite slot off incoming data => Sys2Proof.Machine.execRdmaWrite slot off incoming data s
  | .rdmaRead slot off len incoming => Sys2Proof.Machine.execRdmaRead slot off len incoming s
  | .roceAckTimeout slot => Sys2Proof.Machine.execRoceAckTimeout slot s
  | .cnp slot => Sys2Proof.Machine.execCnp slot s
  | .roceRateRaise slot => Sys2Proof.Machine.execRoceRateRaise slot s
  | .announce h a => Sys2Proof.Machine.execAnnounce h a s
  | .ackCfp h acked => Sys2Proof.Machine.execAckCfp h acked s
  | .cfpResend slot seq => Sys2Proof.Machine.execCfpResend slot seq s
  | .leave h => Sys2Proof.Machine.execLeave h s
  | .gone h => Sys2Proof.Machine.execGone h s
  | .leaveTimeout slot => Sys2Proof.Machine.execLeaveTimeout slot s
  | .peerSilenceTimeout slot => Sys2Proof.Machine.execPeerSilenceTimeout slot s
  | .handoverRange table range => Sys2Proof.Machine.execHandoverRange table range s
  | .handoverEnd h table range viewId => Sys2Proof.Machine.execHandoverEnd h table range viewId s
  | .handoverTimeout table range => Sys2Proof.Machine.execHandoverTimeout table range s
  | .borrowCmdBorrow rq slot => Sys2Proof.Machine.execBorrowCmdBorrow rq slot s
  | .borrowCmdRelease rq slot => Sys2Proof.Machine.execBorrowCmdRelease rq slot s
  | .borrowReq h tiles => Sys2Proof.Machine.execBorrowReq h tiles s
  | .borrowGrant h tiles base key => Sys2Proof.Machine.execBorrowGrant h tiles base key s
  | .borrowDeny h => Sys2Proof.Machine.execBorrowDeny h s
  | .release h => Sys2Proof.Machine.execRelease h s
  | .reclaim h => Sys2Proof.Machine.execReclaim h s
  | .lendRevoke slot => Sys2Proof.Machine.execLendRevoke slot s
  | .flr fn => Sys2Proof.Machine.execFlr fn s
  | .dmaCompletion rid st data => Sys2Proof.Machine.execDmaCompletion rid st data s
  | .nvpEnable rq found => Sys2Proof.Machine.execNvpEnable rq found s
  | .nvmeCompletion fetch st data => Sys2Proof.Machine.execNvmeCompletion fetch st data s
  | .nvpTimeout fetch => Sys2Proof.Machine.execNvpTimeout fetch s
  | .wrCmd rq => Sys2Proof.Machine.execWrCmd rq s
  | .flashWriteDone st => Sys2Proof.Machine.execFlashWriteDone st s
  | .frameStart n vc frameNum => Sys2Proof.Machine.execFrameStart n vc frameNum s
  | .linePacket n vc dt hdrOk eccCorr crcOk pixels => Sys2Proof.Machine.execLinePacket n vc dt hdrOk eccCorr crcOk pixels s
  | .frameEnd n vc => Sys2Proof.Machine.execFrameEnd n vc s
  | .streamEnable rq n stream => Sys2Proof.Machine.execStreamEnable rq n stream s
  | .drdyEdge p subTick rising => Sys2Proof.Machine.execDrdyEdge p subTick rising s
  | .sampleTransactionDone p cs readBytes => Sys2Proof.Machine.execSampleTransactionDone p cs readBytes s
  | .xfer rq p cs len => Sys2Proof.Machine.execXfer rq p cs len s
  | .xferDone p rx => Sys2Proof.Machine.execXferDone p rx s
  | .bspiRead rq => Sys2Proof.Machine.execBspiRead rq s
  | .bspiProgram rq => Sys2Proof.Machine.execBspiProgram rq s
  | .bspiErase rq => Sys2Proof.Machine.execBspiErase rq s
  | .bspiOpInvalid rq => Sys2Proof.Machine.execBspiOpInvalid rq s
  | .bspiDone busyTimeout verifyFail => Sys2Proof.Machine.execBspiDone busyTimeout verifyFail s
  | .sdmClockCheck edges => Sys2Proof.Machine.execSdmClockCheck edges s
  | .sdmClkCfgWrite rq x value => Sys2Proof.Machine.execSdmClkCfgWrite rq x value s
  | .mspiRead addr n waitBits => Sys2Proof.Machine.execMspiRead addr n waitBits s
  | .mspiWrite addr words => Sys2Proof.Machine.execMspiWrite addr words s
  | .mspiBadCmd op => Sys2Proof.Machine.execMspiBadCmd op s
  | .mspiWaitTimeout n => Sys2Proof.Machine.execMspiWaitTimeout n s
  | .mspiCsRise midWord wordsLeft overclocked => Sys2Proof.Machine.execMspiCsRise midWord wordsLeft overclocked s
  | .samplePreload capture shift => Sys2Proof.Machine.execSamplePreload capture shift s
  | .regAccess write off data => Sys2Proof.Machine.execRegAccess write off data s
  | .stapSelect chain => Sys2Proof.Machine.execStapSelect chain s
  | .dwrAccess die shift => Sys2Proof.Machine.execDwrAccess die shift s
  | .bypass code => Sys2Proof.Machine.execBypass code s
  | .faultReportClose seq => Sys2Proof.Machine.execFaultReportClose seq s
  | .drainLimitExpiry page => Sys2Proof.Machine.execDrainLimitExpiry page s
  | .sentinelWrite rq value => Sys2Proof.Machine.execSentinelWrite rq value s
  | .flogEnable rq => Sys2Proof.Machine.execFlogEnable rq s
  | .firstClr rq => Sys2Proof.Machine.execFirstClr rq s
  | .faultNClr rq => Sys2Proof.Machine.execFaultNClr rq s
  | .injReport rq => Sys2Proof.Machine.execInjReport rq s
  | .resetCmd rq key => Sys2Proof.Machine.execResetCmd rq key s
  | .lockstepMismatch timingCore pair => Sys2Proof.Machine.execLockstepMismatch timingCore pair s
  | .calResult => Sys2Proof.Machine.execCalResult s
  | .calTimeout => Sys2Proof.Machine.execCalTimeout s
  | .stampRoutine => Sys2Proof.Machine.execStampRoutine s
  | .autoSwitch => Sys2Proof.Machine.execAutoSwitch s
  | .initialStep => Sys2Proof.Machine.execInitialStep s
  | .slewEnd => Sys2Proof.Machine.execSlewEnd s
  | .hmCoreStart => Sys2Proof.Machine.execHmCoreStart s
  | .ppsOutEdge => Sys2Proof.Machine.execPpsOutEdge s
  | .announceSend => Sys2Proof.Machine.execAnnounceSend s
  | .joinListenEnd => Sys2Proof.Machine.execJoinListenEnd s
  | .hifLinkDown => Sys2Proof.Machine.execHifLinkDown s
  | .hifLinkUp => Sys2Proof.Machine.execHifLinkUp s
  | .nvpInitTimeout => Sys2Proof.Machine.execNvpInitTimeout s
  | .mspiIdleTimeout => Sys2Proof.Machine.execMspiIdleTimeout s
  | .tapReset => Sys2Proof.Machine.execTapReset s
  | .idcode => Sys2Proof.Machine.execIdcode s
  | .extest => Sys2Proof.Machine.execExtest s
  | .clamp => Sys2Proof.Machine.execClamp s
  | .highz => Sys2Proof.Machine.execHighz s

end Sys2Proof.Machine
end

