-- ==== Sys2Proof/Machine/Tick.lean ====
section
/-! DEFINITION. The passing of a tick, which is what a step does while no command waits: first what the end of the tick brings, then
the boundary to the next one and what falls due in it (R109, R113, R134, R297; log entry 3). -/

namespace Sys2Proof.Machine

/-- A list where a condition holds. -/
def onlyIf {α : Type} (b : Bool) (l : List α) : List α := if b then l else []

/-- The requester of a code. -/
def rqOf (n : Nat) : Requester :=
  if n = 0 then .bezel else if n = 1 then .tap else if n = 2 then .mspi else if n = 3 then .pf else .vf (n - 4)

/-! ### The end of a tick -/

/-- An audit stands in this tick (R313). -/
def State.audits (s : State) : Bool := decide (s.tick % 100 = 0) && decide (s.stage = 8) && decide (s.sch.audited < s.tick)

/-- The commands of the engines for the steps that run: one tick's work each (log entry 3). -/
def State.engineWork (s : State) : List Instr :=
  s.sch.reqs.flatMap (fun e =>
    match s.running e.1 with
    | none => []
    | some (r, st) => match st with
      | .phase _ _ _ reduce _ _ _ _ _ => onlyIf (reduce && !r.partials.isEmpty) [.exchangeStep e.1]
      | .gather _ _ _ _ _ => [.gather e.1 0, .gather e.1 1]
      | .update _ _ _ => [.update e.1 0, .update e.1 1]
      | .put _ _ _ => [.put e.1 0, .put e.1 1]
      | .search exact _ _ _ _ _ _ _ => if exact then [.searchExact e.1] else [.searchApproximate e.1]
      | .merge _ _ _ _ _ _ => [.merge e.1]
      | .solve => [.solve e.1]
      | .filter _ _ _ _ _ _ => [.filter e.1])

/-- Limits that the readings and rails of the tick have passed (R146 to R148, R160). Of several Crown sensors that reach 105 °C in one
tick the lowest is the one reported; the HBM limit is watched from HOST_READY on (DESIGN CHOICE, log entry 105). -/
def State.limitsMet (s : State) : List Instr :=
  if s.pwr.tripped then []
  else
    ((s.facets.filter (fun f => s.facetLimit f)).map .facetThermalLimit)
      ++ onlyIf (!s.pwr.crownOver && decide (105 * 16 ≤ s.crownTemp)) ((List.range 8).map .crownThermalLimit)
      ++ onlyIf (s.pwr.crownReach.any (fun t => decide (t + 1000 ≤ s.tick))) [.thermtrip]
      ++ onlyIf (decide (s.stage = 8)) ((List.range 4).map .hbmThermalLimit)
      ++ (s.pwr.rails.filter (fun e => decide (e.2.1 = 2))).map (fun e => .supplyOutOfRange e.1)

/-- Blocks that drain and hold no work (R79, R80, R639). -/
def State.drained (s : State) : List Instr :=
  ((s.blocks.filter (fun e => (e.2.st == .draining && s.pageIdle e.1) || (e.2.st == .fenced && !e.2.drained))).map
    (fun e => .drainComplete e.1 0))

/-- What the map units do at the end of a tick (R388). -/
def State.mapWork (s : State) : List Instr :=
  onlyIf (!s.rows.lookups.isEmpty || s.sch.reqs.any (fun e => e.2.steps.any (fun st => (rowStep st).isSome))) [.roundOpen 0, .roundOpen 1]
    ++ s.rows.rounds.map (fun x => .roundClose x.1 x.2)

/-- Where a request's record stands among those of its tick: by the lowest of its completion sources, one with none last (R113,
R293). -/
def Req.endKey (r : Req) : Nat := r.sources.foldl (fun m i => if i < m then i else m) 63

/-- The ends of the tick, in the order of their completion events (R293), after the yields of the tick (R302). -/
def State.endings (s : State) : List Instr :=
  (s.sch.reqs.filter (fun e => e.2.yieldBy.isSome)).map (fun e => .preemptionYield e.1)
    ++ (List.range 64).flatMap (fun i => (s.sch.reqs.filter (fun e => e.2.endKey == i)).map (fun e => .requestEnd e.1))

/-- What the scheduler does at the end of a tick, after the events have taken effect (R297 to R299, R302). -/
def State.schedule (s : State) : List Instr :=
  (s.sch.reqs.filter (fun e => e.2.phase == .waiting)).map (fun e => .latestStartReached e.1)
    ++ onlyIf (decide (s.pendingAll ≠ 0) || !s.sch.cancels.isEmpty) [.admission]
    ++ onlyIf (decide (s.pendingAll ≠ 0) || !s.sch.reqs.isEmpty) ((List.range 17).map .dispatch)

/-- The power manager at the end of a tick: the cap, DOZE and the wake sources sampled (R126, R129, R143). -/
def State.powerWork (s : State) : List Instr :=
  onlyIf (decide (s.pm = 1)) [.dozeExit .doorbell, .dozeExit .e0]
    ++ onlyIf (decide (2 ≤ s.pm) || s.pwr.entry.isSome || s.pwr.wokeAt == some s.tick) [.wakeStart]

/-- What the end of a tick brings, in order; a tick that none has audited is audited, with no page injected, before its engines work
(R313, R316). -/
def State.tickEnd (s : State) : List Instr :=
  s.limitsMet ++ [.powerCapStep] ++ onlyIf s.audits [.stateAudit []] ++ s.engineWork ++ s.mapWork ++ s.endings ++ s.drained ++ [.tickEventSampling]
    ++ s.powerWork ++ s.schedule

/-! ### The boundary between two ticks -/

/-- Grants that R239 forced in a tick in which two or more stream ports or tier movers could ask at one quadrant: which, in which cycles
of the tick, the model does not time, so their number is a free value (log entry 98). -/
def State.starved (s : State) : State :=
  let ports := (s.regs.filter (fun e => decide (e.1 / 1024 = 0x01A) && decide (0x40 ≤ e.1 % 1024) && decide (e.1 % 1024 < 0x80)
    && e.2.toNat.testBit 12)).length
  if 2 ≤ ports + s.ck.fetches.length then
    (List.range 4).foldl (fun (t : State) q =>
      let (n, t) := t.freeBits 32
      t.incBy (CK_Q.STARVE_CNT q) n) s
  else s

/-- The clock of a Facet has stopped: its thermal limit has fenced it, and it has drained (R146). -/
def State.facetStopped (s : State) (f : Nat) : Bool :=
  let b := s.blk (pgFct f 0)
  b.st == .fenced && b.cause == causePower && b.drained

/-- The counters of the tick that has ended: AWAKE and utilised ticks, the idle ticks before DOZE, and waiting exchanges (R37,
R125, R134, R334); the cores of a Facet whose clock has stopped have no cycles (R39, R146). Ticks of boot, and of a boot that has FAILED,
are not counted as ticks in AWAKE (DESIGN CHOICE, log entry 76). -/
def State.tickCounts (s : State) : State :=
  let up := s.awake && decide (s.stage = 8) && !s.pwr.tripped
  let busy := s.sch.busy
  let s := if up then s.inc64 BZ_PM.AWAKE_TICKS_LO BZ_PM.AWAKE_TICKS_HI 1 else s
  let s := if up && busy then
      (s.facets.filter (fun f => !s.facetStopped f)).foldl (fun (t : State) f => t.inc64 (FCT5.AVAIL_CYC_LO f) (FCT5.AVAIL_CYC_HI f) (t.tcAvail f * opMHz (t.facetOp f)))
        (s.inc64 BZ_PM.UTIL_TICKS_LO BZ_PM.UTIL_TICKS_HI 1)
    else s
  let s := if up then s.starved else s
  let s := s.sch.reqs.foldl (fun (t : State) e => e.2.partials.foldl (fun (u : State) p => u.inc (FCT4.XCHG_WAIT p.1)) t) s
  s.setPwr { s.pwr with idle := if up && !busy && decide (s.pendingAll = 0) then s.pwr.idle + 1 else 0 }

/-- What one tick of a unit takes off an estimate: its share of HORIZON (R296, log entry 37). -/
def State.tickShare (s : State) (u : Nat) : Nat := (s.tick + 1) * s.capacity u / s.horizon - s.tick * s.capacity u / s.horizon

/-- The estimates of running requests and the charges of peers' work fall as a tick's work is done (R296, R389). -/
def State.estimatesFall (s : State) : State :=
  let less := fun (e : Nat × Nat) => (e.1, e.2 - s.tickShare e.1)
  s.setSch {
    s.sch with
    reqs := mapAll (fun _ r => if r.phase = .running then { r with est := r.est.map less } else r) s.sch.reqs
    charges := (s.sch.charges.map (fun c => (c.1, c.2.1, c.2.2 - 1000 * s.tickShare c.2.1))).filter (fun c => c.2.2 != 0) }

/-- The replay windows of the links move on (R220, R223). -/
def State.linksTick (s : State) : State :=
  (List.range 8).foldl (fun (t : State) l =>
    let up := t.rd (CL.LINK_STAT_STATE l) == lsUp
    match mapFind t.links l with
    | none => if up then t.setLnk l { t.lnk l with upLast := true } else t
    | some k =>
      let reps := (0 :: k.replays).take 4
      (t.setLnk l { k with replays := reps, upLast := up }).wr (CL.LINK_STAT_REPLAY_WIN l)
        (satBits 8 (reps.foldl (· + ·) 0))) s

/-- Conditions of a page that last, as bits of its IRQ_RAW: a stopped ring, the host link down, a failed SSD, a link FATAL, cores
taken out, an SDM clock lost; every other condition is an occurrence, and holds for its tick (R105, log entry 73). -/
def State.lasting (s : State) (page : Nat) : Nat :=
  if 0x100 ≤ page then 2 * b2n ((List.range 4).any (fun r => s.on (WS.RING_CFG_STOPPED (page - 0x100) r)))
  else if page = 0x090 then b2n (!s.boot.linkUp)
  else if page = 0x091 then b2n (decide (s.rd NVP.NVP_STAT_CTRL_STATE = nvFailed))
  else if 0x020 ≤ page ∧ page ≤ 0x027 then 4 * b2n (decide (s.rd (CL.LINK_STAT_STATE (page - 0x020)) = lsFatal))
  else if 0x040 ≤ page ∧ page ≤ 0x05F ∧ (page - 0x040) % 8 = 0 then
    4 * b2n (s.on (FCT0.TC_OUT ((page - 0x040) / 8)))
  else if page = 0x078 then 16 * b2n (s.fil.chans.any (fun e => e.2.clkOff))
  else 0

/-- Conditions that something waits on, each tick anew: a full completion ring, no shadow slot free, a full merge buffer. -/
def waitBits (page : Nat) : Nat := if 0x100 ≤ page then 4 else if page = 0x060 ∨ page = 0x061 then 3 else 0

/-- The bits of IRQ_RAW that stay set into the next tick, by page: those set whose condition still holds. -/
def State.stillRaised (s : State) : List (Nat × Nat) :=
  (s.regs.filter (fun e => e.1 % 1024 == 6)).map (fun e =>
    (e.1 / 1024, Nat.land e.2.toNat (Nat.lor (s.lasting (e.1 / 1024))
      (Nat.land (waitBits (e.1 / 1024)) (s.raisedNow (e.1 / 1024))))))

/-- The tick number rises, and what lasts for one tick ends (R14, R105, R109). -/
def State.nextTick (s : State) : State :=
  let kept := s.stillRaised.filter (fun e => e.2 != 0)
  let s : State := { s with
    tick := s.tick + 1
    out := []
    regs := s.regs.filter (fun e => e.1 % 1024 != 6)
    bus := { s.bus with hot := [], raised := [] }
    flt := { s.flt with missed := [] }
    sch := { s.sch with busy := !s.sch.reqs.isEmpty }
    rows := { s.rows with waited := [] }
    evt := { s.evt with sampled := [], tickDone := false }
    io := { s.io with mspiWake := false }
    guest := { s.guest with gmapOld := s.gmapNow } }
  kept.foldl (fun (t : State) e => t.orBits (HDR.IRQ_RAW e.1) e.2) s

/-- Blocks wait for their clocks only while the device is awake; one enabled while it was DRAINING is READY here too (log entry 105). -/
def State.readyTick (s : State) : State :=
  if s.stage = 8 ∧ s.pm ≤ 1 ∧ s.pwr.entry.isNone ∧ s.pwr.wake.isNone ∧ !s.pwr.tripped then s.readyWaiting causePower else s

/-- A Facet with no core left is FAULTED, also after a SOFT_RESET that left FAULTED: the cores stay out until a device reset
(R85, R342). -/
def State.faultsReturn (s : State) : State := s.facets.foldl (fun (t : State) f => t.coresLeft f) s

/-- What the start of a tick does of itself; what the GSEs do then waits for the audit of the tick, where it has one (R316). -/
def State.tickStart (s : State) : State :=
  let s := ((((((s.guaranteeCheck.fireInjected).applyLevels).crownCools).dozeEnds).wakeSteps).faultsReturn).beginBoot
  let s := (((s.hmTick).readyTick).framesWake).nvpInitEnds
  (((((if s.audits then s else s.rowsTick).serveHeld).servePeers).fabFaulted).beginSteps).peersRest.refreshReports

/-! ### What falls due in a tick -/

/-- Limits of the access paths, boot and power (R63, R129, R131, R172, R184, R650). -/
def State.duePower (s : State) : List Instr :=
  onlyIf s.boot.resetNext.isSome [.deviceReset .commanded]
    ++ s.bus.armed.map (fun e => .unlockWindowExpiry (rqOf (e.1 / 1024)) (e.1 % 1024))
    ++ onlyIf s.timerMatches [.wakeTimerMatch]
    ++ onlyIf s.pwr.entry.isSome [.powerStateEntryComplete]
    ++ onlyIf (s.pwr.wake.any (fun w => decide (w.2 ≤ s.tick))) [.wakeComplete [] [] []]
    ++ (s.pwr.pllOn.filter (fun e => !s.bitOn BZ_PM.PLL_LOCK e.1)).map (fun e => .pllLockTimeout e.1)
    ++ onlyIf s.booting [.refAbsentTimeout, .stageTimeout] ++ onlyIf s.slotStart.isSome [.guestSlotTimeout]
    ++ onlyIf (s.on BZ_PM.AUTO_DOZE_EN && s.awake) [.autoDozeEntry]
    ++ s.pwr.zero.map (fun e => .hbmBackgroundZero e.1)

/-- The audit of an injected page, before any tile of the tick (R313, R316), and the limits of reports and drains (R639, R643). -/
def State.dueFaults (s : State) : List Instr :=
  onlyIf (decide (s.tick % 100 = 0) && decide (s.stage = 8) && s.on WK_SCHED.AUDIT_INJ_EN) [.stateAudit []]
    ++ s.flt.opens.map (fun e => .faultReportClose e.1)
    ++ (s.blocks.filter (fun e => e.2.st == .fenced && !e.2.drained)).map (fun e => .drainLimitExpiry e.1)

/-- Limits of links and memory tiers (R199, R222, R223, R253, R266, R270, R271, R587, R590). -/
def State.dueTiers (s : State) : List Instr :=
  (s.links.flatMap (fun e => e.2.txns.flatMap (fun x =>
    if x.expired.isSome then [.linkTimeout e.1 x.tag] else [.txnTimeoutExpiry e.1 x.tag])))
    ++ (s.links.filter (fun e => e.2.retrain.any (fun r => decide (r.1 + 5000 < s.tick))
        && !(s.isGuestLink e.1 && s.slotStart.isSome))).map (fun e => .linkRetrainComplete e.1 0)
    ++ onlyIf (s.guest.accepted && decide (s.tick % 1000 = 0)) [.tickMessage]
    ++ (s.ck.slots.filter (fun e => e.2.writeback)).map (fun e => .evictionWritebackDone e.1)
    ++ s.ck.fetches.flatMap (fun e =>
        e.2.waits.map (fun w => .tierLate w.1 e.1) ++ onlyIf (s.flashFetch e.2) [.nvpTimeout e.1])
    ++ s.ck.notices.map (fun e => .reclaimPeriodEnd e.1)
    ++ ((List.range 4).filter (fun n => s.bitOn CK_TIER.LOCKET_LEND_EN n && !s.bitOn CK_TIER.LOCKET_LENT n)).map .locketLend
    ++ onlyIf (decide (s.rd NVP.NVP_STAT_CTRL_STATE = nvInit)) [.nvpInitTimeout]

/-- Limits of requests, those of a higher outcome class first (R18, R291, R309, R319, R351, R361, R403, R419, R432, R449). -/
def State.dueWork (s : State) : List Instr :=
  (s.sch.reqs.flatMap (fun e => onlyIf (s.lookupsOf e.1 |>.any (fun l => l.owner != 0)) [.remoteLateExpiry e.1]
      ++ (match s.running e.1 with
          | some (_, .merge _ _ _ _ _ _) => [.shardLateExpiry e.1]
          | _ => [])
      ++ onlyIf (decide (e.2.cls = 0)) [.deadlineMissed e.1]
      ++ onlyIf (decide (e.2.op = opLoadPlan)) [.modelLoadComplete e.1]))
    ++ s.sch.moder.map (fun e => .irqModerationExpiry e.1)
    ++ (s.rows.tabs.filter (fun e => e.2.leaving)).map (fun e => .tableDeactComplete e.1)
    ++ (s.lps.idx.filter (fun e => e.2.leaving)).map (fun e => .indexDeactComplete (e.1 / 64) (e.1 % 64))
    ++ (s.lps.scans.filter (fun c => !c.running)).map (fun c => .listScanStart c.lp c.index c.list)
    ++ (s.ises.filter (fun k => k.due)).map (fun k => .recheckDue k.ise)

/-- What Filigree's calibration and Hallmark do in a tick (R492 to R494, R513, R519 to R528, R535, R536, R542). -/
def State.dueTime (s : State) : List Instr :=
  onlyIf s.fil.cal.isSome [.calResult, .calTimeout]
    ++ (s.fil.chans.filter (fun e => decide (16 ≤ e.1) && cfgEn e.2.cfg && !e.2.fresh)).map (fun e => .timingSlip e.1)
    ++ onlyIf (s.bst 0x080 == .ready) [.hmCoreStart]
    ++ onlyIf (!s.hm.entries.isEmpty) [.stampRoutine]
    ++ onlyIf (s.bst 0x080 == .active)
        ([.autoSwitch, .initialStep, .slewEnd, .domainLoss 0, .domainLoss 1]
          ++ ((List.range 2).filter (fun d => s.ptpRuns d)).flatMap (fun d =>
              [.ptpMessageSend d 0x0, .ptpMessageSend d 0x1, .ptpMessageSend d 0x2, .ptpMessageSend d 0xB]))
    ++ onlyIf (s.on HM.PPS_CTRL_PPS_OUT_EN) [.ppsOutEdge]
    ++ ((List.range 4).filter (fun f => decide ((s.fsOf f).mode ≠ 0))).map .fsyncOutEdge

/-- Limits of the cell fabric (R553 to R558, R560, R564 to R566, R570). -/
def State.dueFabric (s : State) : List Instr :=
  onlyIf s.fabUp [.announceSend] ++ onlyIf s.fab.listen.isSome [.joinListenEnd]
    ++ s.fab.peers.flatMap (fun e => [.peerSilenceTimeout e.1]
        ++ onlyIf e.2.leaveAt.isSome [.leaveTimeout e.1]
        ++ onlyIf e.2.grant.isSome [.lendRevoke e.1]
        ++ onlyIf (decide (e.2.rate < 25000)) [.roceRateRaise e.1]
        ++ e.2.unacked.map (fun m => .cfpResend e.1 m.seq))
    ++ (s.fab.outs.take 1).map (fun x => .handoverRange x.1 x.2.1)
    ++ s.fab.ins.map (fun x => .handoverTimeout x.1 x.2.1)

/-- What falls due in a tick, in order. -/
def State.tickDue (s : State) : List Instr :=
  s.duePower ++ s.dueFaults ++ s.dueTiers ++ s.dueWork ++ s.dueTime ++ s.dueFabric

/-! ### One step with no command waiting -/

/-- The boundary to the next tick, with what falls due there put in the queue. -/
def State.passTick (s : State) : State :=
  let s := s.peersGone.endLoads.checksFailed.finishAll.numberReports.guestReads.tierReads.returnCredits.entryGoesOn.syncPlls.txqDrop.zeroWaits
  let s := ((((s.tickCounts).estimatesFall).linksTick).nextTick).tickStart
  { s with pending := s.tickDue }

/-- What a step does while no command waits: at first the end of the tick is queued, then the tick passes (log entry 3). -/
def State.idleStep (s : State) : State :=
  if s.evt.tickDone then s.passTick
  else { s with evt := { s.evt with tickDone := true }, pending := s.tickEnd }

end Sys2Proof.Machine
end

