-- ==== Sys2Proof/Machine/Pins.lean ====
section
/-! DEFINITION. The pins: their directions, rails and pulls, and the level each output holds, before software first writes to the block that
drives it as Table BOOT-8 gives it and afterwards as that block's state makes it (R190, R611, Table PRT-9). -/

namespace Sys2Proof.Machine

/-- A pin, or a group of differential lanes, of Table PRT-9. -/
inductive Pin where
  | pwronRstN | sysRstN | perstN | refclk25
  | hifLanes | ethLanes (p : Nat) | nvpLanes | nvpRefclk | nvpPerstN
  | csiClk (n : Nat) | csiData (n : Nat)
  | spmSclk (p : Nat) | spmMosi (p : Nat) | spmCsN (p c : Nat) | spmMiso (p : Nat) | spmDrdy (p : Nat)
  | sdmData (n : Nat) | sdmCkin (n : Nat) | sdmClk (x : Nat)
  | ppsOut | fsyncOut (f : Nat) | ppsIn
  | mspiCsN | mspiSclk | mspiMosi | mspiMiso
  | tck | trstN | tms | tdi | tdo
  | bspiSclk | bspiCsN | bspiIo (i : Nat)
  | thermtripN | faultN | bootDone
deriving DecidableEq, Repr

/-- The direction of a pin. -/
inductive PinDir where
  /-- An input that may be driven while the device is unpowered (R162). -/
  | failSafeIn
  | input
  | output
  | inOut
  | openDrain
  | lanes
deriving DecidableEq, Repr

/-- The supply rail of a pin. -/
inductive PinRail where
  | vaonIo | vserdes | vio12
deriving DecidableEq, Repr

/-- The pull of an input. -/
inductive PinPull where
  | none | up | down
deriving DecidableEq, Repr

/-- Direction, rail and pull (Table PRT-9). -/
def Pin.spec : Pin → PinDir × PinRail × PinPull
  | .pwronRstN => (.failSafeIn, .vaonIo, .none)
  | .sysRstN => (.failSafeIn, .vaonIo, .none)
  | .perstN => (.failSafeIn, .vaonIo, .none)
  | .refclk25 => (.failSafeIn, .vaonIo, .none)
  | .hifLanes => (.lanes, .vserdes, .none)
  | .ethLanes _ => (.lanes, .vserdes, .none)
  | .nvpLanes => (.lanes, .vserdes, .none)
  | .nvpRefclk => (.lanes, .vserdes, .none)
  | .nvpPerstN => (.output, .vio12, .none)
  | .csiClk _ => (.input, .vio12, .none)
  | .csiData _ => (.input, .vio12, .none)
  | .spmSclk _ => (.output, .vio12, .none)
  | .spmMosi _ => (.output, .vio12, .none)
  | .spmCsN _ _ => (.output, .vio12, .none)
  | .spmMiso _ => (.input, .vio12, .down)
  | .spmDrdy _ => (.input, .vio12, .up)
  | .sdmData _ => (.input, .vio12, .down)
  | .sdmCkin _ => (.input, .vio12, .down)
  | .sdmClk _ => (.output, .vio12, .none)
  | .ppsOut => (.output, .vio12, .none)
  | .fsyncOut _ => (.output, .vio12, .none)
  | .ppsIn => (.input, .vio12, .down)
  | .mspiCsN => (.input, .vaonIo, .up)
  | .mspiSclk => (.input, .vaonIo, .down)
  | .mspiMosi => (.input, .vaonIo, .down)
  | .mspiMiso => (.output, .vaonIo, .none)
  | .tck => (.input, .vaonIo, .down)
  | .trstN => (.input, .vaonIo, .down)
  | .tms => (.input, .vaonIo, .up)
  | .tdi => (.input, .vaonIo, .up)
  | .tdo => (.output, .vaonIo, .none)
  | .bspiSclk => (.output, .vaonIo, .none)
  | .bspiCsN => (.output, .vaonIo, .none)
  | .bspiIo _ => (.inOut, .vaonIo, .none)
  | .thermtripN => (.openDrain, .vaonIo, .none)
  | .faultN => (.openDrain, .vaonIo, .none)
  | .bootDone => (.output, .vaonIo, .none)

/-- What an output pin shows between commands. -/
inductive Level where
  | low | high
  /-- A clock or data run on it. -/
  | running
  /-- Not driven; the board pulls an open-drain line high. -/
  | released
  | highZ
  /-- Not driven, with the device's pull-up. -/
  | pulledUp
  | idle
  /-- Driven by the boundary register (EXTEST, CLAMP). -/
  | boundary
deriving DecidableEq, Repr

/-- Low or high. -/
def level (b : Bool) : Level := if b then .high else .low

/-- The boot flash is being accessed: by FW_LOAD, or by an operation of BSPI_CMD (Table BOOT-8, R601). -/
def State.bspiRuns (s : State) : Bool := s.stage == 3 || s.io.bspi.isSome

/-- The chip select a sensor port serves, if any: of its sample list, or of a transfer (R598, R599). -/
def State.spmSelected (s : State) (p : Nat) : Option Nat :=
  match mapFind s.io.spmList p with
  | some (c :: _) => some c
  | _ => if s.on (SPM.XFER_BUSY p) then some (s.rd (SPM.XFER_CS p)) else none

/-- The level a block drives onto its output; none for an input. -/
def State.drives (s : State) : Pin → Option Level
  | .thermtripN => some (if s.pwr.tripped then .low else .released)
  | .faultN => some (if s.on DEV.FAULT_PIN then .low else .released)
  | .bootDone => some (level (s.stage == 8 || s.stage == 0xF))
  | .ppsOut => some (level (decide (s.tick < s.hm.ppsPulse)))
  | .fsyncOut f => some (level (decide (s.tick < mapGet (fun _ => 0) s.hm.fsPulse f)))
  | .sdmClk x => some (if s.on (SDM.CLK_CFG_EN x) && (s.bst 0x09B).up && s.clockOn 0x09B then .running else .low)
  | .spmSclk p => some (if (s.spmSelected p).isSome then .running else .low)
  | .spmMosi p => some (if (s.spmSelected p).isSome then .running else .low)
  | .spmCsN p c => some (level (s.spmSelected p != some c))
  | .bspiSclk => some (if s.bspiRuns then .running else .low)
  | .bspiCsN => some (level (!s.bspiRuns))
  | .bspiIo _ => some (if s.bspiRuns then .running else .pulledUp)
  | .mspiMiso => some .highZ
  | .tdo => some .highZ
  | .nvpPerstN => some (level (s.rd NVP.NVP_STAT_CTRL_STATE != 0 && decide (s.io.nvpSince + 1000 ≤ s.tick)))
  | .nvpRefclk => some (if s.rd NVP.NVP_STAT_CTRL_STATE = 0 then .idle else .running)
  | .nvpLanes => some (if s.rd NVP.NVP_STAT_CTRL_STATE = 0 then .idle else .running)
  | .hifLanes => some (if s.on HIF.LINK_STAT_SPEED then .running else .idle)
  | .ethLanes p => some (if s.ethUp p then .running else .idle)
  | .pwronRstN => none
  | .sysRstN => none
  | .perstN => none
  | .refclk25 => none
  | .csiClk _ => none
  | .csiData _ => none
  | .spmMiso _ => none
  | .spmDrdy _ => none
  | .sdmData _ => none
  | .sdmCkin _ => none
  | .ppsIn => none
  | .mspiCsN => none
  | .mspiSclk => none
  | .mspiMosi => none
  | .tck => none
  | .trstN => none
  | .tms => none
  | .tdi => none

/-- A pin that the boundary register reaches: an output other than TDO, MSPI_MISO and the differential lanes (PRESUMED, log entry 104: the
spec gives the register no layout). -/
def Pin.scanned (p : Pin) : Bool := p != .tdo && p != .mspiMiso && decide (p.spec.1 ≠ .lanes)

/-- The level of an output pin: EXTEST and CLAMP drive it from the boundary register, HIGHZ lets it float, and else its block drives it
(R190, R610, R611). -/
def State.pin (s : State) (p : Pin) : Option Level :=
  match s.drives p with
  | none => none
  | some l =>
    if !p.scanned then some l
    else if s.io.pinsFrom = 1 then some .boundary
    else if s.io.pinsFrom = 2 then some .highZ
    else some l

end Sys2Proof.Machine
end

