-- ==== Sys2Proof/Safety.lean ====
section
/-! DEFINITION. What statements about the device speak of: canonical states, accesses that a page answers, what a command
leaves alone. -/

namespace Sys2Proof.Machine

/-- The canonical forms hold: of every memory, of the registers and of the blocks. Every list of the state then has one form
for one content. -/
def State.canonical (s : State) : Bool := Memory.wf s.mem && s.regsWf

/-- A requester reaches a page, and the page answers as its tables say (R62, R69, R71, R88, R91). -/
abbrev State.answers (s : State) (rq : Requester) (page : Nat) : Prop :=
  rqReaches rq page = true ∧ s.serve page = .full

/-- The state in which an access to a page takes effect: one to a page other than an always-on one has left DOZE (R126). -/
def State.reached (s : State) (page : Nat) : State := if alwaysOn page then s else s.leaveDoze

/-- The command takes its effect and leaves a state of which P holds. -/
def leaves (c : Instr) (s : State) (P : State → Prop) : Prop := ∃ t, exec c s = .next t ∧ P t

/-- Every byte of the device's memory, of host memory, of the SSD and of the flash reads as before. -/
def sameMemory (s t : State) : Prop :=
  ∀ a, t.dpaRead a 1 = s.dpaRead a 1 ∧ t.hostRead a 1 = s.hostRead a 1 ∧ t.nvmeRead a 1 = s.nvmeRead a 1
    ∧ t.flashRead a 1 = s.flashRead a 1

/-- Every byte of the device's memory outside [b, b + n) reads as before, and all other memories. -/
def sameMemoryBut (b n : Nat) (s t : State) : Prop :=
  ∀ a, (a < b ∨ b + n ≤ a → t.dpaRead a 1 = s.dpaRead a 1) ∧ t.hostRead a 1 = s.hostRead a 1
    ∧ t.nvmeRead a 1 = s.nvmeRead a 1 ∧ t.flashRead a 1 = s.flashRead a 1

/-- Every register word reads as before, but those of the list (page, offset). -/
def sameWordsBut (l : List (Nat × Nat)) (s t : State) : Prop :=
  ∀ page off, (∀ e ∈ l, regKey page off ≠ regKey e.1 e.2) → t.word page off = s.word page off

/-- The words that count the bytes written into the Casket's quadrants and the HBM stacks, and those that cross the crossbar (Tables CK-8
and CK-13). -/
def writeCounts : List (Nat × Nat) :=
  (List.range 4).flatMap (fun q => [(0x011 + q, (CK_Q.WR_BYTES_LO q).off), (0x011 + q, (CK_Q.WR_BYTES_HI q).off),
    (0x011 + q, (CK_Q.XBAR_IN_LO q).off), (0x011 + q, (CK_Q.XBAR_IN_HI q).off),
    (pgHbm q, (HBM.WR_BYTES_LO q).off), (pgHbm q, (HBM.WR_BYTES_HI q).off)])

/-- The words that count the bytes read from the Casket's quadrants, through which a stream port passes what it moves (Table CK-8). -/
def portCounts : List (Nat × Nat) :=
  (List.range 4).flatMap (fun q => [(0x011 + q, (CK_Q.RD_BYTES_LO q).off), (0x011 + q, (CK_Q.RD_BYTES_HI q).off)])

/-- Where two fields share no bit: another word, or other bits of it. -/
def FRef.apart (f g : FRef) : Bool :=
  regKey f.page f.off != regKey g.page g.off
    || (f.page == g.page && f.off == g.off && decide (g.hi < 32) && (decide (g.hi < f.lo) || decide (f.hi < g.lo)))

/-- The record of a source (its index, count and detail) in a tick, with its number among the tick's records (Table TCK-2). -/
def sampledRecord (tick seq : Nat) (e : Nat × Nat × Nat) : EvtRecord :=
  { tick := tick, source := e.1, count := e.2.1, seq := seq, detail := e.2.2 % 2 ^ 32 }

/-- The head descriptor of a ring comes to a decision that refuses it for nothing of its own, in the state in which it and what
its plan names have been read: decisions are made, a completion slot is free, no word of it is uncorrectable, DEV is not FAULTED, it is sound and
its deadline has not passed (R294, R298, R300). -/
abbrev State.decides (s : State) (w r : Nat) (d : Desc) (u : State) : Prop :=
  s.sch.cancels = [] ∧ s.admitting = true ∧ s.head w r = some d ∧ s.cplFree w ≠ 0 ∧ (s.fetchHead w r d).1 = none
    ∧ (s.fetchHead w r d).2.headIds w d = u ∧ (s.fetchHead w r d).2.devFaulted = false ∧ (s.fetchHead w r d).2.malformed w d = false
    ∧ ¬(d.cls = 0 ∧ d.deadline < s.tick)

/-- Every unit a descriptor claims is up, large enough, and has room in the workspace's share (R298, R304). -/
def State.inShare (s : State) (w : Nat) (d : Desc) : Bool :=
  (unitClaims (s.claimsOf w d)).all (fun e => !s.unitOut e.1 && decide (s.scaled e.1 e.2 ≤ s.capacity e.1)
    && decide ((s.claimOf w d.cls e.1 + s.scaled e.1 e.2) * 1000 ≤ s.share w d.cls * s.capacity e.1))

/-- The key by which a head descriptor is ordered among candidates (R297). -/
def State.candKey (s : State) (w r : Nat) (d : Desc) : List Nat :=
  orderKey d.cls d.deadline ((s.submits w r).headD s.tick) w r

/-- The submit tick of a ring's head descriptor (R287). -/
def State.submitOf (s : State) (w r : Nat) : Nat := (s.submits w r).headD s.tick

/-- Where the next record of a workspace goes: its ring in the Casket, or its shadow there (R293, R295). -/
def State.recordAt (s : State) (w : Nat) : Nat :=
  (if s.on (WS.CPL_CFG_LOC w) then s.rd64 (WS.CPL_SHADOW_BASE_LO w) (WS.CPL_SHADOW_BASE_HI w)
    else s.cplBase w) + 32 * s.rd (WS.CPL_WR_IDX w)

/-- The data of an answered read reach the DMA that waits for them, where a request sent it (R211). -/
def State.dmaAnswer (x : Txn) (tag : Nat) (data : List Byte) (s : State) : State :=
  match x.rid with
  | some rid => s.dmaPart rid tag data
  | none => s

/-- A CFP message passes R555: FAB and the port it comes by are up, and its header is of this cell, of another device and of a
TYPE that Table FAB-5 lists. -/
abbrev State.hears (s : State) (h : CfpHeader) : Prop :=
  s.fabUp = true ∧ s.ethUp h.port = true ∧ h.magic = 0x4643 ∧ h.version = 1 ∧ h.cellId = s.rd FAB.CELL_ID ∧ h.deviceId ≠ s.deviceId
    ∧ h.listed = true

/-- It passes, and its sender is the peer q in slot p. -/
abbrev State.hearsPeer (s : State) (h : CfpHeader) (p : Nat) (q : Peer) : Prop :=
  s.hears h ∧ s.peerOf h.deviceId = some p ∧ mapFind s.fab.peers p = some q

end Sys2Proof.Machine
end

