-- ==== Sys2Proof/Certificates/Slice0/Obligations.lean ====
section
/-! DEFINITION. The statements about the device for the provers: the machine as a whole, then the commands family by family. -/

open Sys2Proof Sys2Proof.Machine


/-! ### The machine as a whole -/

/-- A step runs the command at the front of the queue on the state with the queue's rest; with none waiting it takes the idle
step (the model's choice, log entry 3). -/
def Obligations.StepRunsFrontCommand : Prop :=
  (∀ (c : Instr) (rest : List Instr) (s : State),
    step { s with pending := c :: rest } = exec c { s with pending := rest }) ∧
  (∀ (s : State),
    step { s with pending := [] } = .next (({ s with pending := [] } : State).idleStep))

/-- The state after reset: the tick number 0, nothing waiting, the always-on blocks ACTIVE and the others OFF, AWAKE, boot
stage 0, no PLL locked, SENTINEL 0, no event, report or request, and memory that reads 0 (log entries 1 and 4). -/
def Obligations.ResetState : Prop :=
  (State.reset.tick = 0 ∧ State.reset.pending = []) ∧
  (∀ (page : Nat),
    State.reset.bst page = if alwaysOn (unitPage page) then .active else .off) ∧
  (State.reset.rd BZ_PM.PM_STATE_CUR = 0 ∧ State.reset.rd DEV.BOOT_STAGE = 0
        ∧ State.reset.rd BZ_PM.PLL_LOCK = 0 ∧ State.reset.rd BZ_FAULT.SENTINEL = 0
        ∧ State.reset.evt.fired = [] ∧ State.reset.flt.opens = [] ∧ State.reset.sch.reqs = []) ∧
  (∀ (a : Nat),
    State.reset.dpaRead a 1 = [0])

/-- The state after reset is canonical. -/
def Obligations.ResetIsCanonical : Prop :=
  (State.reset.canonical = true)

/-- Every step keeps the canonical forms of the memories, the registers and the blocks. -/
def Obligations.StepKeepsCanonicalForms : Prop :=
  (∀ (s t : State),
    s.canonical = true →
    step s = .next t →
    t.canonical = true)

/-- Every command answers a next state, whatever the state, and leaves the queue and the part as they are. -/
def Obligations.EveryCommandAnswers : Prop :=
  (∀ (c : Instr) (s : State),
    leaves c s (fun t => t.pending = s.pending ∧ t.part = s.part))

/-- Time passes between commands only: no command but the power-on reset of the always-on domain changes the tick number, and a
step with none waiting raises it by 1 exactly when the end of the tick has been queued (log entry 3). -/
def Obligations.OnlyIdleStepsPassTime : Prop :=
  (∀ (c : Instr) (s : State),
    c ≠ .alwaysOnPowerOnReset →
    leaves c s (fun t => t.tick = s.tick)) ∧
  (∀ (s t : State),
    s.pending = [] →
    step s = .next t →
    t.tick = s.tick + b2n s.evt.tickDone)

/-- A field written reads as the value, its higher bits dropped; a field that shares no bit with it reads as before; and
nothing but the register words changes. -/
def Obligations.FieldWriteIsLocal : Prop :=
  (∀ (s : State) (f g : FRef) (v : Nat),
    f.hi < 32 →
    (s.wr f v).rd f = v % 2 ^ (f.hi + 1 - f.lo)
        ∧ (f.apart g = true → (s.wr f v).rd g = s.rd g)
        ∧ sameWordsBut [(f.page, f.off)] s (s.wr f v)
        ∧ s.wr f v = { s with regs := (s.wr f v).regs })

/-! ### Register accesses -/

/-- A write of one aligned word by a requester that reaches a page which answers: IRQ_EN (RW) reads as the value; IRQ_STAT (W1C)
loses the bits written as 1, save those the device has set in this tick (R14); a basic offset that no table lists is ignored (R61).
A write of another width or alignment is discarded and counted (R72). -/
def Obligations.RegisterWriteByAccessCode : Prop :=
  (∀ (rq : Requester) (addr page v : Nat) (s : State),
    target rq addr = some (page, 0x01C) ∧ s.answers rq page ∧ addr % 4 = 0 →
    leaves (.registerWrite rq addr 4 v) s (fun t =>
          (∀ i : Nat, i < 32 → (t.rd (HDR.IRQ_EN page)).testBit i
            = if irqBit i then v.testBit i else ((s.reached page).rd (HDR.IRQ_EN page)).testBit i)
          ∧ sameWordsBut [(page, 0x01C)] (s.reached page) t ∧ t = { s.reached page with regs := t.regs })) ∧
  (∀ (rq : Requester) (addr page v : Nat) (s : State),
    target rq addr = some (page, 0x020) ∧ s.answers rq page ∧ addr % 4 = 0 →
    leaves (.registerWrite rq addr 4 v) s (fun t =>
          (∀ i : Nat, i < 32 → (t.rd (HDR.IRQ_STAT page)).testBit i
            = (((s.reached page).rd (HDR.IRQ_STAT page)).testBit i
                && (!(irqBit i && v.testBit i) || ((mapFind (s.reached page).bus.hot (regKey page 0x020)).getD 0).testBit i)))
          ∧ sameWordsBut [(page, 0x020)] (s.reached page) t ∧ t = { s.reached page with regs := t.regs })) ∧
  (∀ (rq : Requester) (addr page off v : Nat) (s : State),
    target rq addr = some (page, off) ∧ s.answers rq page ∧ addr % 4 = 0 →
    wordDefined page off = false ∧ off < 0x800 →
    exec (.registerWrite rq addr 4 v) s = .next (s.reached page)) ∧
  (∀ (rq : Requester) (addr n v : Nat) (s : State),
    badWrite addr n = true →
    exec (.registerWrite rq addr n v) s = .next ((s.inc HIF.REG_ACC_ERR_CNT).raiseIrq 0x090 2)) ∧
  (∀ (rq : Requester) (addr page off v : Nat) (s : State),
    target rq addr = some (page, off) ∧ s.answers rq page ∧ addr % 4 = 0 ∧ s.lockedOut page off = false ∧ rqIsVf rq = false →
    0x020 ≤ page ∧ page ≤ 0x027 ∧ 0x180 ≤ off ∧ off < 0x280 ∧ (page ≠ 0x023 ∨ s.part ≠ .pmx7241) →
    exec (.registerWrite rq addr 4 v) s = .next (s.reached page))

/-- A read of an RC word returns what it held and leaves it 0 (R15); a read of a page that is absent or does not answer returns
zeros (R62, R91). -/
def Obligations.RcReadReturnsAndClears : Prop :=
  (∀ (rq : Requester) (addr page off : Nat) (s : State),
    target rq addr = some (page, off) ∧ s.answers rq page ∧ addr % 4 = 0 →
    (off = 0x038 ∨ off = 0x03C) ∧ page ≠ 0x003 →
    leaves (.rcFieldRead rq addr 4) s (fun t =>
          t.out = s.out ++ [.read rq (leBytes 4 (s.word page off).toNat) false] ∧ t.word page off = 0
          ∧ sameWordsBut [(page, off)] s t ∧ t = { s with regs := t.regs, out := t.out })) ∧
  (∀ (rq : Requester) (addr page off : Nat) (s : State),
    target rq addr = some (page, off) ∧ s.serve page = .nothing ∧ addr % 4 = 0 →
    exec (.rcFieldRead rq addr 4) s = .next (s.emit (.read rq [0, 0, 0, 0] false)))

/-- A read of the low word latches the high word for its requester; a write of the high word stages it; a write of the low word
commits both (R75). -/
def Obligations.SixtyFourBitRegisterAccess : Prop :=
  (∀ (rq : Requester) (s : State),
    rqIsVf rq = false →
    leaves (.lowWordRead rq 0x1100 4) s (fun t =>
          t.out = s.out ++ [.read rq (leBytes 4 (s.tick % 2 ^ 32)) false]
          ∧ mapGet (fun _ => (0 : Word)) t.bus.latch (pairKey rq 0x001 0x100) = BitVec.ofNat 32 (s.tick / 2 ^ 32 % 2 ^ 32)
          ∧ t = { s with bus := { s.bus with latch := t.bus.latch }, out := t.out })) ∧
  (∀ (rq : Requester) (addr page : Nat) (s : State),
    target rq addr = some (page, 0x048) ∧ s.answers rq page ∧ addr % 4 = 0 ∧ page ≠ 0x003 →
    leaves (.lowWordRead rq addr 4) s (fun t =>
          t.out = s.out ++ [.read rq (leBytes 4 (s.rd (HDR.TICK_STAMP_LO page))) false]
          ∧ mapGet (fun _ => (0 : Word)) t.bus.latch (pairKey rq page 0x048)
              = BitVec.ofNat 32 (s.rd (HDR.TICK_STAMP_HI page))
          ∧ t = { s with bus := { s.bus with latch := t.bus.latch }, out := t.out })) ∧
  (∀ (rq : Requester) (addr page off v : Nat) (s : State),
    target rq addr = some (page, off) ∧ s.answers rq page ∧ addr % 4 = 0 →
    pairAt page off = .hi ∧ s.lockedOut page off = false ∧ s.writeHeld page off = none →
    ((rowsAt page off).any (fun r => r.acc == .ro || (r.pf && rqIsVf rq))) = false →
    exec (.highWordWrite rq addr v) s = .next { s.reached page with
          bus := { (s.reached page).bus with
            stage := mapInsert (s.reached page).bus.stage (pairKey rq page (off - 4)) (BitVec.ofNat 32 v) } }) ∧
  (∀ (rq : Requester) (addr page off v : Nat) (s : State),
    target rq addr = some (page, off) ∧ s.answers rq page ∧ addr % 4 = 0 →
    pairAt page off = .lo ∧ s.lockedOut page off = false ∧ s.writeHeld page off = none ∧ (page, off) ≠ (0x002, 0x118) →
    (rowsAt page off).map (fun r => (r.acc, r.hi, r.lo)) = [(.rw, 31, 0)] →
    (rowsAt page (off + 4)).map (fun r => (r.acc, r.hi, r.lo)) = [(.rw, 31, 0)] →
    rqIsVf rq = false ∨ (rowsAt page off).any (fun r => r.pf) = false →
    leaves (.lowWordWrite rq addr 4 v) s (fun t =>
          t.word page off = BitVec.ofNat 32 v
          ∧ t.word page (off + 4) = (match mapFind s.bus.stage (pairKey rq page off) with
              | some w => w
              | none => (s.reached page).word page (off + 4))
          ∧ mapFind t.bus.stage (pairKey rq page off) = none
          ∧ sameWordsBut [(page, off), (page, off + 4)] (s.reached page) t
          ∧ t = { s.reached page with regs := t.regs, bus := { (s.reached page).bus with stage := t.bus.stage } })) ∧
  (∀ (rq : Requester) (addr page off v : Nat) (s : State),
    target rq addr = some (page, off) ∧ s.answers rq page ∧ addr % 4 = 0 →
    pairAt page off = .hi ∧ s.lockedOut page off = false ∧ s.writeHeld page off = none →
    rqIsVf rq = false ∧ (rowsAt page off).any (fun r => r.acc == .ro) = true →
    exec (.highWordWrite rq addr v) s = .next (s.reached page)) ∧
  (∀ (rq : Requester) (addr page : Nat) (s : State),
    target rq addr = some (page, 0x028) ∧ s.answers rq page ∧ addr % 4 = 0 ∧ page ≠ 0x003 →
    leaves (.lowWordRead rq addr 4) s (fun t =>
          t.out = s.out ++ [.read rq (leBytes 4 (s.rd (HDR.ERR_REC page 0))) false]
          ∧ mapGet (fun _ => (0 : Word)) t.bus.latch (pairKey rq page 0x02C) = s.word page 0x02C
          ∧ mapGet (fun _ => (0 : Word)) t.bus.latch (pairKey rq page 0x030) = s.word page 0x030
          ∧ mapGet (fun _ => (0 : Word)) t.bus.latch (pairKey rq page 0x034) = s.word page 0x034
          ∧ t = { s with bus := { s.bus with latch := t.bus.latch }, out := t.out })) ∧
  (∀ (rq : Requester) (addr page off : Nat) (s : State),
    target rq addr = some (page, off) ∧ s.answers rq page ∧ addr % 4 = 0 ∧ page ≠ 0x003 ∧ 0x02C ≤ off ∧ off ≤ 0x034 →
    exec (.lowWordRead rq addr 4) s = .next (s.emit (.read rq
          (leBytes 4 (mapGet (fun _ => (0 : Word)) s.bus.latch (pairKey rq page off)).toNat) false)))

/-- A read of HM_NS takes the snapshot of one instant for its requester (R507, the instant within the tick being free, log entry 5);
a read of STAMP_NS latches the other words of that line's stamp. -/
def Obligations.CellTimeReads : Prop :=
  (∀ (rq : Requester) (s : State),
    rqIsVf rq = false ∧ s.serve 0x080 = .full →
    leaves (.hmNsRead rq 4) s (fun t => ∃ n : Nat, n < 1000 ∧ (let c := t.cellAt n
          t.out = s.out ++ [Out.read rq (leBytes 4 (nsOf c)) false]
          ∧ mapFind t.hm.snaps (rqCode rq)
              = some [subnsOf c, secOf c % 2 ^ 32, secOf c / 2 ^ 32 % 2 ^ 32, s.tick % 2 ^ 32, s.tick / 2 ^ 32 % 2 ^ 32]
          ∧ t = { s with out := t.out, free := t.free, hm := { s.hm with snaps := t.hm.snaps } }))) ∧
  (∀ (rq : Requester) (line : Nat) (s : State),
    rqIsVf rq = false ∧ s.serve 0x080 = .full ∧ line ≤ 16 →
    leaves (.stampNsRead rq line) s (fun t => let w := fun i => (s.word 0x080 (0x300 + 32 * line + 4 * i)).toNat
          t.out = s.out ++ [.read rq (leBytes 4 (w 0)) false]
          ∧ mapFind t.hm.latched (32 * rqCode rq + line) = some [w 1, w 2, w 3, w 4, w 5]
          ∧ t = { s with out := t.out, hm := { s.hm with latched := t.hm.latched } }))

/-! ### Blocks, the expert lock and the apertures -/

/-- A write of EXP_UNLOCK: the first key arms the requester, the second within 16 ticks unlocks the page (R63), 0 locks it (R64), a
wrong key abandons and counts (R66); a virtual function's writes are counted on its own page (R69). -/
def Obligations.ExpertUnlockSequence : Prop :=
  (∀ (rq : Requester) (page upper : Nat) (s : State),
    rqIsVf rq = false ∧ s.serve page = .full ∧ upper % 65536 = 0 →
    exec (.expUnlockFirstKey rq page upper) s = .next ((s.reached page).arm rq page true)) ∧
  (∀ (rq : Requester) (page upper : Nat) (s : State),
    rqIsVf rq = false ∧ s.serve page = .full ∧ upper % 65536 ≠ 0 →
    exec (.expUnlockFirstKey rq page upper) s = .next (((s.reached page).arm rq page false).blocked page)) ∧
  (∀ (rq : Requester) (page a : Nat) (s : State),
    rqIsVf rq = false ∧ s.serve page = .full ∧ s.armedAt rq page = some a ∧ s.tick ≤ a + 16 →
    mapFind s.bus.hot (regKey page 0x040) = none →
    exec (.expUnlockSecondKey rq page 0xC3E7) s
        = .next (((s.reached page).arm rq page false).wr (HDR.EXP_STATE_UNLOCKED page) 1)) ∧
  (∀ (rq : Requester) (page a value : Nat) (s : State),
    rqIsVf rq = false ∧ s.serve page = .full ∧ s.armedAt rq page = some a →
    value % 2 ^ 32 ≠ 0x5A5A ∧ value % 2 ^ 32 ≠ 0 ∧ (value % 2 ^ 32 = 0xC3E7 → a + 16 < s.tick) →
    exec (.expUnlockSecondKey rq page value) s = .next (((s.reached page).arm rq page false).blocked page)) ∧
  (∀ (rq : Requester) (page upper : Nat) (s : State),
    rqIsVf rq = false ∧ s.serve page = .full ∧ upper % 65536 = 0 →
    let armed := (s.armedAt rq page).any (fun a => decide (s.tick ≤ a + 16))
        let l := ((s.reached page).arm rq page false).wr (HDR.EXP_STATE_UNLOCKED page) 0
        exec (.expRelock rq page upper) s = .next (if armed then l.blocked page else l)) ∧
  (∀ (rq : Requester) (page a : Nat) (s : State),
    s.armedAt rq page = some a ∧ a + 16 < s.tick →
    exec (.unlockWindowExpiry rq page) s = .next (s.arm rq page false)) ∧
  (∀ (n other value : Nat) (s : State),
    1 ≤ n ∧ n ≤ 63 ∧ s.serve (0x100 + n) = .full →
    exec (.expUnlockSecondKey (.vf n) other value) s = .next ((s.reached (0x100 + n)).blocked (0x100 + n)))

/-- ENABLE = 1 makes an OFF block with its clocks READY, or starts its PLLs; ENABLE = 0 makes an ACTIVE block drain and a READY
one OFF (Table REG-5, R121). -/
def Obligations.BlockEnableAndDisable : Prop :=
  (∀ (rq : Requester) (page : Nat) (clk : Bool) (s : State),
    s.answers rq page ∧ followsPage page = false ∧ alwaysOn page = false ∧ page ≠ 0x078 →
    s.bst page = .off ∧ deadLink s.part page = false ∧ (s.reached page).clocked page = true →
    exec (.blockEnable rq page clk) s = .next (
          let u := ((s.reached page).wr (HDR.BLK_CTRL_CLK_REQ page) (b2n clk)).wr (HDR.BLK_CTRL_ENABLE page) 1
          (if clk then u.startPlls (pllsOf s.part page) else u).toReady page causeSoftware)) ∧
  (∀ (rq : Requester) (page : Nat) (clk : Bool) (s : State),
    s.answers rq page ∧ followsPage page = false ∧ alwaysOn page = false ∧ page ≠ 0x078 →
    s.bst page = .off ∧ deadLink s.part page = false ∧ (s.reached page).clocked page = false →
    exec (.blockEnable rq page clk) s = .next
          ((((s.reached page).wr (HDR.BLK_CTRL_CLK_REQ page) (b2n clk)).wr (HDR.BLK_CTRL_ENABLE page) 1).startPlls (pllsOf s.part page))) ∧
  (∀ (rq : Requester) (page : Nat) (clk : Bool) (s : State),
    s.answers rq page ∧ followsPage page = false ∧ page < 0x100 ∧ s.bst page = .active ∧ (page < 0x092 ∨ 0x099 < page) →
    exec (.blockDisable rq page clk) s = .next (
          let u := ((s.reached page).wr (HDR.BLK_CTRL_CLK_REQ page) (b2n clk)).wr (HDR.BLK_CTRL_ENABLE page) 0
          (if clk then u.startPlls (pllsOf s.part page) else u).goto page .draining causeSoftware)) ∧
  (∀ (rq : Requester) (page : Nat) (clk : Bool) (s : State),
    s.answers rq page ∧ followsPage page = false ∧ page < 0x100 ∧ s.bst page = .ready ∧ (page < 0x092 ∨ 0x099 < page) →
    exec (.blockDisable rq page clk) s = .next (
          let u := ((s.reached page).wr (HDR.BLK_CTRL_CLK_REQ page) (b2n clk)).wr (HDR.BLK_CTRL_ENABLE page) 0
          (((if clk then u.startPlls (pllsOf s.part page) else u).onOff page).goto page .off causeSoftware).syncPlls)) ∧
  (∀ (rq : Requester) (n k : Nat) (clk : Bool) (c : Capture) (s : State),
    n < 8 ∧ k < 4 ∧ s.answers rq (pgCsi n) ∧ s.bst (pgCsi n) = .active ∧ s.io.capture = [(4 * n + k, c)] →
    leaves (.blockDisable rq (pgCsi n) clk) s (fun t => t.bst (pgCsi n) = .off ∧ t.io.capture = []
          ∧ t.on (HDR.BLK_CTRL_ENABLE (pgCsi n)) = false ∧ t.on (HDR.BLK_CTRL_CLK_REQ (pgCsi n)) = clk))

/-- A transition gives the block its state, cause and entry tick, its DRAINED bit, and STATE_CHANGE on its page; the other blocks stay
as they are. -/
def Obligations.TransitionsAreRecorded : Prop :=
  (∀ (page cause : Nat) (st : BState) (s : State),
    (s.goto page st cause).bst page = st ∧ ((s.goto page st cause).blk page).cause = cause
        ∧ ((s.goto page st cause).blk page).entry = s.tick
        ∧ (st = .off ∨ st = .ready → ((s.goto page st cause).blk page).drained = true)
        ∧ (st = .active ∨ st = .draining ∨ st = .fenced → ((s.goto page st cause).blk page).drained = false)
        ∧ ((s.goto page st cause).rd (HDR.IRQ_STAT (unitPage page))).testBit 31 = true
        ∧ ∀ q, unitPage q ≠ unitPage page → (s.goto page st cause).blk q = s.blk q)

/-- A SOFT_RESET is accepted as Table REG-5 says and leaves the block OFF, locked and with its registers at reset; else it is
refused with CTRL_REJECTED (R84, R85). -/
def Obligations.SoftResetOutcome : Prop :=
  (∀ (rq : Requester) (page : Nat) (enable clk : Bool) (s : State),
    s.answers rq page ∧ followsPage page = false ∧ alwaysOn page = false ∧ facetOfPage (unitPage page) = none →
    (s.reached page).on (HDR.BLK_CAP_SRESET page) = true ∧ (s.reached page).resetOk page = true →
    leaves (.softReset rq page enable clk) s (fun t => t.bst page = .off ∧ t.on (HDR.EXP_STATE_UNLOCKED page) = false
          ∧ t.rd (HDR.IRQ_EN page) = 0 ∧ t.word page 0x00C = 0 ∧ t.tick = s.tick ∧ t.part = s.part)) ∧
  (∀ (rq : Requester) (page : Nat) (enable clk : Bool) (s : State),
    s.answers rq page ∧ followsPage page = false →
    (s.reached page).on (HDR.BLK_CAP_SRESET page) = true ∧ (s.reached page).resetOk page = false →
    exec (.softReset rq page enable clk) s
        = .next (((s.reached page).reject page).enableWrite page (b2n enable + 2 + 4 * b2n clk)))

/-- IRQ_FORCE sets the bits written in IRQ_RAW and IRQ_STAT and stamps the tick (R105, R668). -/
def Obligations.IrqForceRaisesEachBit : Prop :=
  (∀ (rq : Requester) (page bits : Nat) (s : State),
    s.answers rq page ∧ page < 0x100 →
    leaves (.irqForce rq page bits) s (fun t =>
          t.rd (HDR.IRQ_RAW page) = (s.reached page).rd (HDR.IRQ_RAW page) ||| (bits &&& 0xF800_FFFF)
          ∧ t.rd (HDR.IRQ_STAT page) = (s.reached page).rd (HDR.IRQ_STAT page) ||| (bits &&& 0xF800_FFFF)
          ∧ (bits &&& 0xF800_FFFF ≠ 0 → t.rd (HDR.TICK_STAMP_LO page) = s.tick % 2 ^ 32)
          ∧ sameWordsBut [(page, 0x018), (page, 0x020), (page, 0x048), (page, 0x04C)] (s.reached page) t
          ∧ t = { (s.reached page) with regs := t.regs, bus := t.bus, out := t.out }))

/-- A drained unit leaves DRAINING for OFF (Table REG-5) or, fenced, reads DRAINED = 1 (R639), its lost frames counted. -/
def Obligations.DrainComplete : Prop :=
  (∀ (page lost : Nat) (s : State),
    followsPage (unitPage page) = false ∧ pagePresent s.part (unitPage page) = true →
    s.bst (unitPage page) = .draining ∧ s.pageIdle (unitPage page) = true →
    leaves (.drainComplete page lost) s (fun t => t.bst page = .off ∧ (t.blk page).entry = s.tick
          ∧ (t.blk page).cause = (s.blk page).cause ∧ (t.blk page).drained = true)) ∧
  (∀ (page lost : Nat) (s : State),
    followsPage (unitPage page) = false ∧ pagePresent s.part (unitPage page) = true →
    s.bst (unitPage page) = .fenced ∧ (s.blk (unitPage page)).drained = false →
    facetOfPage (unitPage page) = none ∧ (unitPage page < 0x020 ∨ 0x027 < unitPage page) →
    exec (.drainComplete page lost) s
        = .next (s.setBlk (unitPage page) { s.blk (unitPage page) with drained := true })) ∧
  (∀ (page f lost : Nat) (s : State),
    followsPage (unitPage page) = false ∧ pagePresent s.part (unitPage page) = true ∧ 0x040 ≤ unitPage page →
    s.bst (unitPage page) = .fenced ∧ (s.blk (unitPage page)).drained = false ∧ facetOfPage (unitPage page) = some f →
    exec (.drainComplete page lost) s
        = .next ((s.setBlk (unitPage page) { s.blk (unitPage page) with drained := true }).incBy (CL.DRAIN_LOST f) lost))

/-- BAR2 reaches the Casket and BAR4 the window onto HBM (R93, R95): a write changes the bytes addressed and no others; an access of
a virtual function outside its grants does nothing but count (R94). -/
def Obligations.AperturesReachTheCasketAndHbm : Prop :=
  (∀ (off len : Nat) (data : List Byte) (s : State),
    s.hostOpen = true ∧ 0 < len ∧ off + len ≤ casketSize →
    leaves (.bar2Access 0 off len true data) s (fun t =>
          t.dpaRead (casketBase + off) len = padTo len data ∧ sameMemoryBut (casketBase + off) len s t
          ∧ sameWordsBut writeCounts s t
          ∧ t = { s with mem := t.mem, regs := t.regs })) ∧
  (∀ (off len : Nat) (data : List Byte) (s : State),
    s.hostOpen = true ∧ 0 < len ∧ off % 64 + len ≤ 64 ∧ off + len ≤ casketSize →
    s.rd (storeOf (casketBase + off)).1 = 0 →
    exec (.bar2Access 0 off len false data) s
        = .next ((s.readTo 0 (casketBase + off) len).emit (.read .pf (s.dpaRead (casketBase + off) len) false))) ∧
  (∀ (n off len : Nat) (data : List Byte) (s : State),
    s.hostOpen = true ∧ 1 ≤ n ∧ n < 64 ∧ 0 < len ∧ off % 64 + len ≤ 64 →
    (off + len ≤ casketSize → s.inGrant n (casketBase + off) len true = false) →
    exec (.bar2Access n off len true data) s = .next (s.inc (WS.BAR2_ERR_CNT n))) ∧
  (∀ (off len : Nat) (data : List Byte) (s : State),
    s.hostOpen = true ∧ 0 < len ∧ off % 64 + len ≤ 64 ∧ off + len ≤ 2 ^ s.rd HIF.BAR4_SIZE →
    inHbm (s.bar4Base + off) len = true →
    exec (.bar4Access off len true data) s = .next (s.store (s.bar4Base + off) (padTo len data))) ∧
  (∀ (off len : Nat) (data : List Byte) (s : State),
    s.hostOpen = true ∧ 0 < len ∧ off % 64 + len ≤ 64 ∧ off + len ≤ 2 ^ s.rd HIF.BAR4_SIZE →
    inHbm (s.bar4Base + off) len = true ∧ s.rd (storeOf (s.bar4Base + off)).1 = 0 →
    exec (.bar4Access off len false data) s
        = .next ((s.countRead (s.bar4Base + off) len).emit (.read .pf (s.dpaRead (s.bar4Base + off) len) false)))

/-! ### The tick, clocks, power and heat -/

/-- The sampler delivers one record for each source that fired (R113, R114), logs it where the log is enabled and not full (R116,
R118), and takes injected sources for the next tick (R155). -/
def Obligations.EventsAreSampledOncePerTick : Prop :=
  (∀ (s : State),
    s.on BZ_EVT.EVT_CTRL_LOG_EN = false ∧ s.evt.sampled = [] →
    leaves .tickEventSampling s (fun t => t.evt.fired = [] ∧ t.evt.sampled = s.evt.fired.map (·.1)
          ∧ (∀ i : Nat, i < s.evt.fired.length → Out.event (sampledRecord s.tick i (s.evt.fired.getD i (0, 0, 0))) ∈ t.out)
          ∧ t = { s with evt := t.evt, out := t.out })) ∧
  (∀ (src cnt det : Nat) (s : State),
    s.evt.sampled = [] ∧ s.evt.fired = [(src, cnt, det)] ∧ s.on BZ_EVT.EVT_CTRL_LOG_EN = true ∧ s.evtBaseOk = true ∧ s.evtMasked src = false →
    (s.rd BZ_EVT.EVT_WR_IDX + 1) % 1024 ≠ s.rd BZ_EVT.EVT_RD_IDX →
    leaves .tickEventSampling s (fun t =>
          let a := s.rd64 BZ_EVT.EVT_LOG_BASE_LO BZ_EVT.EVT_LOG_BASE_HI + 16 * s.rd BZ_EVT.EVT_WR_IDX
          t.dpaRead a 16 = (sampledRecord s.tick 0 (src, cnt, det)).bytes
          ∧ t.rd BZ_EVT.EVT_WR_IDX = (s.rd BZ_EVT.EVT_WR_IDX + 1) % 1024 ∧ sameMemoryBut a 16 (s.hbmTouch a) t
          ∧ sameWordsBut ((0x004, BZ_EVT.EVT_WR_IDX.off) :: writeCounts) (s.hbmTouch a) t
          ∧ t.evt = { s.evt with fired := [], sampled := [src] }
          ∧ Out.event (sampledRecord s.tick 0 (src, cnt, det)) ∈ t.out
          ∧ (src < 8 → Out.msix 0 3 ∈ t.out)
          ∧ t = { s.hbmTouch a with evt := t.evt, out := t.out, mem := t.mem, regs := t.regs })) ∧
  (∀ (src cnt det : Nat) (s : State),
    s.evt.sampled = [] ∧ s.evt.fired = [(src, cnt, det)] ∧ s.on BZ_EVT.EVT_CTRL_LOG_EN = true ∧ s.evtBaseOk = true ∧ s.evtMasked src = false →
    (s.rd BZ_EVT.EVT_WR_IDX + 1) % 1024 = s.rd BZ_EVT.EVT_RD_IDX ∧ 8 ≤ src →
    exec .tickEventSampling s = .next (let u := ((s.setW1c BZ_EVT.EVT_STAT_OVERFLOW 1).inc BZ_EVT.EVT_LOST).emit (.event
            (sampledRecord s.tick 0 (src, cnt, det)))
          { u with evt := { u.evt with fired := [], sampled := [src] } })) ∧
  (∀ (s : State),
    s.evt.sampled ≠ [] →
    exec .tickEventSampling s = .next s) ∧
  (∀ (rq : Requester) (s : State),
    s.answers rq 0x004 ∧ s.evtBaseOk = true →
    exec (.evtLogEnable rq) s = .next (s.wr BZ_EVT.EVT_CTRL_LOG_EN 1)) ∧
  (∀ (rq : Requester) (s : State),
    s.answers rq 0x004 ∧ s.evtBaseOk = false →
    exec (.evtLogEnable rq) s = .next ((s.wr BZ_EVT.EVT_CTRL_LOG_EN 1).setW1c BZ_EVT.EVT_STAT_BASE_BAD 1)) ∧
  (∀ (rq : Requester) (word bits : Nat) (s : State),
    s.answers rq 0x004 ∧ word < 3 ∧ s.unlocked 0x004 = true →
    exec (.evtInject rq word bits) s = .next (
          let l := ((setBitsBelow 32 bits).map (32 * word + ·)).filter (fun i => !reservedSource i && !s.evt.inject.contains i)
          { s with evt := { s.evt with inject := s.evt.inject ++ l } })) ∧
  (∀ (rq : Requester) (word bits : Nat) (s : State),
    s.answers rq 0x004 ∧ word < 3 ∧ s.unlocked 0x004 = false →
    exec (.evtInject rq word bits) s = .next (s.blocked 0x004))

/-- The reference and the PLLs: loss and return (R110, R111), lock (R121), failure to lock (R124), loss of lock (R123, R660). -/
def Obligations.ReferenceAndPlls : Prop :=
  (∀ (s : State),
    s.on BZ_AON.AON_STAT_REF_PRESENT = true ∧ s.pwr.pllOn = [] →
    exec .refclkLost s = .next ((((s.wr BZ_AON.AON_STAT_REF_PRESENT 0).setW1c BZ_AON.AON_STAT_REF_LOST 1).wr
          BZ_AON.AON_STAT_DISCIPLINED 0).setPwr { s.pwr with refBack := none })) ∧
  (∀ (s : State),
    s.on BZ_AON.AON_STAT_REF_PRESENT = true ∧ s.pwr.pllOn ≠ [] →
    leaves .refclkLost s (fun t => t.rd BZ_AON.AON_STAT_REF_PRESENT = 0 ∧ t.rd BZ_AON.AON_STAT_REF_LOST = 1
          ∧ t.rd BZ_AON.AON_STAT_DISCIPLINED = 0 ∧ t.pwr.pllOn = []
          ∧ (∀ p ∈ s.blockPages, (pllsOf s.part p).any (fun n => (mapFind s.pwr.pllOn n).isSome) = true → s.bst p ≠ .off →
              t.bst p = .faulted))) ∧
  (∀ (s : State),
    s.on BZ_AON.AON_STAT_REF_PRESENT = false →
    exec .refclkReturn s = .next (
          let u := (s.wr BZ_AON.AON_STAT_REF_PRESENT 1).setPwr { s.pwr with refBack := some s.tick }
          if s.stage = 1 then u.setBoot { u.boot with stageTick := s.tick } else u)) ∧
  (∀ (e a : Nat) (s : State),
    s.pwr.refBack = some a ∧ s.on BZ_AON.AON_CTRL_DISCIPLINE_EN = true ∧ a + 1000000 ≤ s.tick ∧ (toSigned 16 e).natAbs ≤ 1 →
    exec (.aonclkDisciplined e) s = .next (((s.wr BZ_AON.AON_STAT_DISCIPLINED 1).wr BZ_AON.AON_STAT_FREQ_ERR e).setPwr
          { s.pwr with refBack := none })) ∧
  (∀ (n : Nat) (s : State),
    (mapFind s.pwr.pllOn n).isSome = true ∧ s.on BZ_AON.AON_STAT_REF_PRESENT = true →
    ¬(s.stage = 8 ∧ s.pm ≤ 1 ∧ s.pwr.entry.isNone = true ∧ s.pwr.wake.isNone = true) →
    leaves (.pllLock n) s (fun t => t.regs = (s.orBits BZ_PM.PLL_LOCK (2 ^ n)).regs
          ∧ t.pwr.wakeLocks = (s.pwr.wakeLocks && !(s.orBits BZ_PM.PLL_LOCK (2 ^ n)).allLocked)
          ∧ t = { s with regs := t.regs, pwr := { s.pwr with wakeLocks := t.pwr.wakeLocks } })) ∧
  (∀ (n : Nat) (s : State),
    (mapFind s.pwr.pllOn n).isSome = true ∧ s.on BZ_AON.AON_STAT_REF_PRESENT = true →
    s.stage = 8 ∧ s.pm ≤ 1 ∧ s.pwr.entry.isNone = true ∧ s.pwr.wake.isNone = true →
    exec (.pllLock n) s = .next (
          let u := s.orBits BZ_PM.PLL_LOCK (2 ^ n)
          (u.setPwr { s.pwr with wakeLocks := s.pwr.wakeLocks && !u.allLocked }).readyWaiting causeSoftware)) ∧
  (∀ (n a : Nat) (s : State),
    mapFind s.pwr.pllOn n = some a ∧ s.bitOn BZ_PM.PLL_LOCK n = false ∧ a + 40 ≤ s.tick →
    s.booting = false ∧ s.pwr.wake = none ∧ s.pwr.wakeLocks = false →
    exec (.pllLockTimeout n) s = .next (s.pllFault n true)) ∧
  (∀ (n a : Nat) (s : State),
    mapFind s.pwr.pllOn n = some a ∧ s.bitOn BZ_PM.PLL_LOCK n = false ∧ a + 40 ≤ s.tick →
    s.booting = false ∧ (s.pwr.wake.isSome = true ∨ s.pwr.wakeLocks = true) →
    exec (.pllLockTimeout n) s = .next
          (let t := (s.pllFault n true).pmResult prPllFail
           t.setPwr { t.pwr with wakeLocks := t.pwr.wakeLocks && !t.allLocked })) ∧
  (∀ (n a : Nat) (s : State),
    mapFind s.pwr.pllOn n = some a ∧ s.bitOn BZ_PM.PLL_LOCK n = false ∧ a + 40 ≤ s.tick →
    s.booting = true ∧ s.pwr.wake = none ∧ s.pwr.wakeLocks = false →
    exec (.pllLockTimeout n) s = .next ((s.pllFault n true).bootError 0x02 (0x3F8 + n))) ∧
  (∀ (n : Nat) (s : State),
    n ≠ 0xFF ∧ (mapFind s.pwr.pllOn n).isSome = true →
    exec (.clockMonitorFault n) s = .next (s.pllFault n false)) ∧
  (∀ (s : State),
    s.on BZ_AON.AON_STAT_REF_PRESENT = false →
    exec (.clockMonitorFault 0xFF) s = .next s.refFault) ∧
  (∀ (n page : Nat) (start : Bool) (s : State),
    n < 8 ∧ page ∈ s.blockPages ∧ (pllsOf s.part page).contains n = true ∧ s.bst page ≠ .off →
    (s.pllFault n start).bst page = .faulted ∧ (s.pllFault n start).bitOn BZ_PM.PLL_LOCK n = false
        ∧ mapFind (s.pllFault n start).pwr.pllOn n = none)

/-- A request for a sleep state starts the entry, or answers why not (R127, R138, Table TCK-12); one for AWAKE wakes or answers DONE. -/
def Obligations.PowerRequests : Prop :=
  (∀ (rq : Requester) (d0 dh : Bool) (s : State),
    s.answers rq 0x002 ∧ s.on BZ_PM.PM_STATE_IN_TRANSITION = false ∧ s.pm < 2 ∧ s.pendingAll = 0 ∧ s.wakeNow = (0, false) →
    exec (.pmReqNap rq d0 dh) s = .next (s.startEntry 2)) ∧
  (∀ (rq : Requester) (dh : Bool) (s : State),
    s.answers rq 0x002 ∧ s.on BZ_PM.PM_STATE_IN_TRANSITION = false ∧ s.pm < 3 ∧ s.pendingAll = 0 ∧ s.wakeNow = (0, false) →
    exec (.pmReqSleep rq true dh) s = .next (s.startEntry 3)) ∧
  (∀ (rq : Requester) (s : State),
    s.answers rq 0x002 ∧ s.on BZ_PM.PM_STATE_IN_TRANSITION = false ∧ s.pm < 4 ∧ s.pendingAll = 0 ∧ s.wakeNow = (0, false) →
    exec (.pmReqDeep rq true true) s = .next (s.startEntry 4)) ∧
  (∀ (target : Nat) (s : State),
    target < 8 →
    (s.startEntry target).rd BZ_PM.PM_STATE_TARGET = target ∧ (s.startEntry target).rd BZ_PM.PM_STATE_IN_TRANSITION = 1
        ∧ (s.startEntry target).rd BZ_PM.PM_RESULT_CODE = prInProgress
        ∧ (s.startEntry target).pwr.entry = some (target, s.tick, s.pm) ∧ (s.startEntry target).pwr.entryFrom = none) ∧
  (∀ (rq : Requester) (d0 dh : Bool) (s : State),
    s.answers rq 0x002 ∧ s.on BZ_PM.PM_STATE_IN_TRANSITION = true →
    exec (.pmReqNap rq d0 dh) s = .next (s.pmResult prBusy) ∧ exec (.pmReqSleep rq d0 dh) s = .next (s.pmResult prBusy)
        ∧ exec (.pmReqDeep rq d0 dh) s = .next (s.pmResult prBusy)) ∧
  (∀ (rq : Requester) (d0 dh : Bool) (s : State),
    s.answers rq 0x002 ∧ s.on BZ_PM.PM_STATE_IN_TRANSITION = false ∧ s.pm < 2 ∧ s.pendingAll ≠ 0 →
    exec (.pmReqNap rq d0 dh) s = .next (s.pmResult prQueue) ∧ exec (.pmReqSleep rq d0 dh) s = .next (s.pmResult prQueue)
        ∧ exec (.pmReqDeep rq d0 dh) s = .next (s.pmResult prQueue)) ∧
  (∀ (rq : Requester) (dh : Bool) (s : State),
    s.answers rq 0x002 ∧ s.on BZ_PM.PM_STATE_IN_TRANSITION = false ∧ s.pm < 2 ∧ s.pendingAll = 0 →
    exec (.pmReqSleep rq false dh) s = .next (s.pmResult prDrop) ∧ exec (.pmReqDeep rq false dh) s = .next (s.pmResult prDrop)
        ∧ exec (.pmReqDeep rq true false) s = .next (s.pmResult prDrop)) ∧
  (∀ (rq : Requester) (d0 dh : Bool) (s : State),
    s.answers rq 0x002 ∧ s.on BZ_PM.PM_STATE_IN_TRANSITION = false ∧ s.pm < 2 ∧ s.pendingAll = 0 ∧ s.wakeNow ≠ (0, false) →
    exec (.pmReqNap rq d0 dh) s = .next (s.pmResult prWake) ∧ exec (.pmReqSleep rq true dh) s = .next (s.pmResult prWake)
        ∧ exec (.pmReqDeep rq true true) s = .next (s.pmResult prWake)) ∧
  (∀ (rq : Requester) (s : State),
    s.answers rq 0x002 ∧ s.pm = 0 ∧ s.pwr.entry = none ∧ s.pwr.wake = none →
    exec (.pmReqAwake rq) s = .next (s.pmResult prDone)) ∧
  (∀ (rq : Requester) (s : State),
    s.answers rq 0x002 ∧ 2 ≤ s.pm ∧ s.pwr.entry = none ∧ s.pwr.wake = none →
    exec (.pmReqAwake rq) s = .next (s.startWake 0 false 0xFF prInProgress)) ∧
  (∀ (rq : Requester) (target : Nat) (s : State),
    s.answers rq 0x002 ∧ (target % 8 = 1 ∨ 5 ≤ target % 8) ∧ s.on BZ_PM.PM_STATE_IN_TRANSITION = false →
    exec (.pmReqInvalid rq target) s = .next (s.pmResult prInvalid))

/-- The power states change when their time has come: DOZE (R125, R126), entries (R127, R128), wakes (R129 to R133, R139). -/
def Obligations.SleepAndWakeTransitions : Prop :=
  (∀ (s : State),
    s.on BZ_PM.AUTO_DOZE_EN = true ∧ s.pm = 0 ∧ s.stage = 8 ∧ s.pwr.entry = none ∧ s.pwr.wake = none →
    s.sch.reqs = [] ∧ s.pendingAll = 0 ∧ s.dozeAfter ≤ s.pwr.idle ∧ s.pwr.tripped = false →
    exec .autoDozeEntry s = .next ((s.wr BZ_PM.PM_STATE_CUR 1).wr BZ_PM.PM_STATE_TARGET 1).dozeStops) ∧
  (∀ (g : DozeTrigger) (s : State),
    s.dozeTriggered g = true ∧ s.pm = 1 ∧ s.pwr.entry = none ∧ s.pwr.dozeExit = none →
    exec (.dozeExit g) s = .next (((s.setPwr { s.pwr with dozeExit := some (s.tick + 2) }).wr
          BZ_PM.PM_STATE_IN_TRANSITION 1).wr BZ_PM.PM_STATE_TARGET 0)) ∧
  (∀ (target a since from_ : Nat) (s : State),
    s.pwr.entry = some (target, since, from_) ∧ s.pwr.entryFrom = some a ∧ a + entryTime target ≤ s.tick ∧ 2 ≤ target ∧ target ≤ 4 →
    leaves .powerStateEntryComplete s (fun t => t.rd BZ_PM.PM_STATE_CUR = target ∧ t.rd BZ_PM.PM_STATE_TARGET = target
          ∧ t.rd BZ_PM.PM_STATE_IN_TRANSITION = 0 ∧ t.rd BZ_PM.PM_RESULT_CODE = prDone ∧ t.pwr.entry = none ∧ t.pwr.pllOn = []
          ∧ t.mem = s.mem
          ∧ (3 ≤ target → t.ck.slots.all (fun e => decide (e.2.tier ≠ 0) || e.2.keep) = true)
          ∧ (target = 4 → t.ck.slots.all (fun e => decide (2 < e.2.tier) || e.2.keep) = true ∧ t.rows.tabs = [] ∧ t.rows.cache = []))) ∧
  (∀ (rq : Requester) (v : Nat) (s : State),
    s.answers rq 0x002 →
    exec (.wakeTimerSet rq v) s = .next ((s.wr64 BZ_PM.WAKE_TICK_LO BZ_PM.WAKE_TICK_HI (v % 2 ^ 64)).setPwr
          { s.pwr with timerLate := if v % 2 ^ 64 ≤ s.tick then some s.tick else none })) ∧
  (∀ (s : State),
    (s.pwr.timerLate = none ∧ s.rd64 BZ_PM.WAKE_TICK_LO BZ_PM.WAKE_TICK_HI = s.tick) ∨ s.pwr.timerLate.any (fun t => decide (t < s.tick)) = true →
    exec .wakeTimerMatch s = .next ((s.setPwr { s.pwr with timerLate := none }).fire 13 0)) ∧
  (∀ (src : Nat) (e0 : Bool) (s : State),
    s.wakeNow = (src, e0) ∧ (src ≠ 0 ∨ e0 = true) ∧ s.pwr.entry = none ∧ 2 ≤ s.pm ∧ s.pwr.wake = none ∧ s.pwr.wokeAt ≠ some s.tick →
    leaves .wakeStart s (fun t => t.pwr.wake = some (s.tick, s.tick + wakeLatency s.pm)
          ∧ t.rd BZ_PM.WAKE_CAUSE_SRC = src % 64 ∧ t.rd BZ_PM.WAKE_CAUSE_E0 = b2n e0 ∧ t.rd BZ_PM.PM_STATE_IN_TRANSITION = 1
          ∧ t.rd BZ_PM.PM_STATE_TARGET = 0 ∧ t.rd BZ_PM.PM_RESULT_CODE = s.wakeResult
          ∧ t = { s with pwr := t.pwr, regs := t.regs })) ∧
  (∀ (src : Nat) (e0 : Bool) (s : State),
    s.wakeNow = (src, e0) ∧ s.pwr.wokeAt = some s.tick →
    exec .wakeStart s = .next (((s.wr BZ_PM.WAKE_CAUSE_SRC src).wr BZ_PM.WAKE_CAUSE_E0 (b2n e0)).wr BZ_PM.WAKE_CAUSE_INDEX s.lowestEvent)) ∧
  (∀ (src : Nat) (e0 : Bool) (s : State),
    s.wakeNow = (src, e0) ∧ (src ≠ 0 ∨ e0 = true) ∧ s.pwr.wokeAt ≠ some s.tick →
    (s.pwr.entry = none → s.pm = 1 → s.dozeTriggered .doorbell = true ∨ e0 = true → exec .wakeStart s = .next s.leaveDoze)
        ∧ (s.pwr.entry.any (fun e => e.2.1 == s.tick) = true → exec .wakeStart s = .next (s.refuseEntry.sourcesWake src e0))
        ∧ (s.pwr.entry.isSome = true → s.pwr.entry.any (fun e => e.2.1 == s.tick) = false →
            exec .wakeStart s = .next (s.abandon src e0 s.lowestEvent))) ∧
  (∀ (s : State),
    s.wakeNow = (0, false) ∧ s.pwr.wokeAt ≠ some s.tick →
    exec .wakeStart s = .next s) ∧
  (∀ (pllF linkF stackF : List Nat) (since at_ : Nat) (s : State),
    s.pwr.wake = some (since, at_) ∧ at_ ≤ s.tick →
    leaves (.wakeComplete pllF linkF stackF) s (fun t => t.rd BZ_PM.PM_STATE_CUR = 0 ∧ t.rd BZ_PM.PM_STATE_TARGET = 0
          ∧ t.rd BZ_PM.PM_STATE_IN_TRANSITION = 0 ∧ t.pwr.wake = none)) ∧
  (∀ (h : Nat) (z : HbmZero) (s : State),
    mapFind s.pwr.zero h = some z ∧ z.early.contains z.next = false ∧ h < 4 ∧ zeroDue z s.tick = true ∧ s.hbmRuns h = true →
    leaves (.hbmBackgroundZero h) s (fun t => let a := h * stackSize + z.next * 0x20_0000
          t.mem = (s.dpaClear a 0x20_0000).mem ∧ sameMemoryBut a 0x20_0000 s t
          ∧ t = { s with mem := t.mem, pwr := { s.pwr with zero := t.pwr.zero }, regs := t.regs }
          ∧ sameWordsBut [(0x0A0 + h, (HBM.HBM_STAT_ZEROING h).off)] s t)) ∧
  (∀ (h : Nat) (z : HbmZero) (s : State),
    mapFind s.pwr.zero h = none ∨ (mapFind s.pwr.zero h = some z ∧ (zeroDue z s.tick = false ∨ s.hbmRuns h = false)) →
    exec (.hbmBackgroundZero h) s = .next s)

/-- Telemetry (R141, R662), the cap (R143, R144), the thermal limits (R146 to R148) and the supply monitor (R160). -/
def Obligations.TelemetryCapAndThermalLimits : Prop :=
  (∀ (values : List Int) (i : Nat) (v : Int) (s : State),
    i < 64 ∧ i ≠ 56 ∧ values[i]? = some v ∧ s.on (BZ_THERM.SENS_STALE i) = false →
    leaves (.telemetrySample values) s (fun t => t.rd (BZ_THERM.SENS_VALUE i) = ofSigned 16 v ∧ sameMemory s t)) ∧
  (∀ (values : List Int) (i : Nat) (s : State),
    i < 64 ∧ i ≠ 56 ∧ s.on (BZ_THERM.SENS_STALE i) = true →
    leaves (.telemetrySample values) s (fun t => t.rd (BZ_THERM.SENS_VALUE i) = s.rd (BZ_THERM.SENS_VALUE i))) ∧
  (∀ (s : State),
    s.pwr.tripped = false →
    leaves .powerCapStep s (fun t => let l := (s.rd (BZ_THERM.SENS_VALUE 56) :: s.pwr.power).take 1000
          t.pwr.power = l ∧ t.rd BZ_PM.PCAP_STAT_POWER = satBits 12 (l.foldl (· + ·) 0 / l.length) ∧ sameMemory s t)) ∧
  (∀ (f : Nat) (l : List Nat) (s : State),
    s.pwr.tripped = false ∧ s.pwr.facetHeld = 0 ∧ s.capOp f < 6 ∧ l = (s.rd (BZ_THERM.SENS_VALUE 56) :: s.pwr.power).take 1000 →
    clampNat 60 180 (s.rd BZ_PM.PCAP_CAP_W) * 1020 * l.length < l.foldl (· + ·) 0 * 100 →
    s.byWork false (s.facets.filter (fun g => decide (s.facetOp g < 6))) = some f →
    leaves .powerCapStep s (fun t => t.capOp f = s.capOp f + 1)) ∧
  (∀ (f : Nat) (l : List Nat) (s : State),
    s.pwr.tripped = false ∧ s.pwr.facetHeld = 0 ∧ 0 < s.capOp f ∧ l = (s.rd (BZ_THERM.SENS_VALUE 56) :: s.pwr.power).take 1000 →
    l.foldl (· + ·) 0 * 100 < clampNat 60 180 (s.rd BZ_PM.PCAP_CAP_W) * 950 * l.length →
    s.byWork true (s.facets.filter (fun g => decide (0 < s.capOp g))) = some f →
    leaves .powerCapStep s (fun t => t.capOp f = s.capOp f - 1)) ∧
  (∀ (f : Nat) (s : State),
    s.hasFacet f = true ∧ 105 * 16 ≤ s.testTemp f ∧ s.pwr.tripped = false →
    s.on (BZ_THERM.SENS_STALE (8 + 2 * f)) = false ∧ (s.bst (pgFct f 0)).live = true ∧ s.stage = 8 →
    leaves (.facetThermalLimit f) s (fun t => t.bst (pgFct f 0) = .fenced ∧ (t.blk (pgFct f 0)).cause = causePower
          ∧ t.bitOn BZ_THERM.THERM_STAT_FACET_CRIT f = true ∧ t.pwr.facetHeld.testBit f = true)) ∧
  (∀ (i : Nat) (s : State),
    i < 8 ∧ 105 * 16 ≤ toSigned 16 (s.rd (BZ_THERM.SENS_VALUE i)) ∧ s.pwr.crownOver = false ∧ s.pwr.tripped = false →
    leaves (.crownThermalLimit i) s (fun t => t.rd BZ_THERM.THERM_STAT_CROWN_CRIT = 1 ∧ t.pwr.crownHot = some s.tick)) ∧
  (∀ (h : Nat) (s : State),
    h < 4 ∧ s.on (BZ_THERM.SENS_STALE (20 + h)) = false ∧ s.bitOn BZ_THERM.THERM_STAT_HBM_LIMIT h = false →
    95 * 16 ≤ toSigned 16 (s.rd (BZ_THERM.SENS_VALUE (20 + h))) →
    exec (.hbmThermalLimit h) s
        = .next (((s.orBits BZ_THERM.THERM_STAT_HBM_LIMIT (2 ^ h)).wr (HBM.HBM_STAT_BW_LIMITED h) 1).fire 93 h)) ∧
  (∀ (h : Nat) (s : State),
    h < 4 ∧ s.on (BZ_THERM.SENS_STALE (20 + h)) = false ∧ s.bitOn BZ_THERM.THERM_STAT_HBM_LIMIT h = true →
    toSigned 16 (s.rd (BZ_THERM.SENS_VALUE (20 + h))) ≤ 90 * 16 →
    exec (.hbmThermalLimit h) s
        = .next ((s.clearBits BZ_THERM.THERM_STAT_HBM_LIMIT (2 ^ h)).wr (HBM.HBM_STAT_BW_LIMITED h) 0)) ∧
  (∀ (rail n : Nat) (s : State),
    mapFind s.pwr.rails rail = some (2, n) →
    exec (.supplyOutOfRange rail) s = .next (
          let d := (s.setPwr { s.pwr with rails := mapInsert s.pwr.rails rail (3, n) }).detect 0x11 3 0x002 (24 + rail) 0x7F none
          (d.2.endAll (some d.1)).bootError 0x0D 0))

/-! ### Resets and boot -/

/-- What each reset leaves (Table BOOT-2, R165 to R170, R650 to R652). -/
def Obligations.ResetsOfTheDevice : Prop :=
  (∀ (low : Nat) (s : State),
    s.pwr.tripped = true ∨ s.justReset = false →
    exec (.deviceReset (.sysRst low)) s = .next (s.deviceReset (.sysRst low))) ∧
  (∀ (low : Nat) (s : State),
    s.pwr.tripped = false ∧ s.stage = 8 →
    exec (.deviceReset (.perst low)) s = .next
          ((s.setBoot { s.boot with perstHigh := false, perstRel := s.tick + (if low < 10 then 10 else low) }).deviceReset (.perst low))
        ∧ (s.perstLow = false → exec .perstNFall s = .next
          ((s.setBoot { s.boot with perstHigh := false, perstRel := s.tick + 10 }).deviceReset (.perst 0)))) ∧
  (∀ (s : State),
    s.pwr.tripped = false ∧ s.justReset = false ∧ s.wdogExpired = true →
    exec (.deviceReset .watchdog) s = .next (s.deviceReset .watchdog)) ∧
  (∀ (a : Nat) (s : State),
    s.pwr.tripped = false ∧ s.justReset = false ∧ s.boot.resetNext = some a ∧ a < s.tick →
    exec (.deviceReset .commanded) s = .next (s.deviceReset .commanded)) ∧
  (∀ (c : ResetCause) (s : State),
    let t := s.deviceReset c;
        t.stage = 0 ∧ t.rd BZ_RESET.RESET_CAUSE = resetCode c
        ∧ t.rd64 BZ_RESET.RESET_TICK_LO BZ_RESET.RESET_TICK_HI = s.tick % 2 ^ 64
        ∧ t.blocks = [] ∧ t.sch.reqs = [] ∧ t.mem = s.mem ∧ t.tick = s.tick
        ∧ t.boot.sysRel = s.tick + (match c with
            | .sysRst low => if low < 10 then 10 else low
            | .perst low => if low < 10 then 10 else low
            | .watchdog => 0
            | .commanded => 0)) ∧
  (∀ (s : State),
    leaves .alwaysOnPowerOnReset s (fun t => t.tick = 0 ∧ t.mem = { s.mem with dpa := [] } ∧ t.blocks = [] ∧ t.sch.reqs = []
          ∧ t.rd DEV.SEC_VER_FUSE = s.rd DEV.SEC_VER_FUSE
          ∧ t.rd BZ_AON.AON_STAT_REF_PRESENT = s.rd BZ_AON.AON_STAT_REF_PRESENT ∧ t.pending = s.pending ∧ t.part = s.part)) ∧
  (∀ (s : State),
    s.perstLow = true →
    leaves .perstNFall s (fun t => t.boot.perstRel = max s.boot.perstRel (s.tick + 1)
          ∧ t.boot.sysRel = (if s.stage = 0 ∧ s.rd BZ_RESET.RESET_CAUSE = 2 then max s.boot.sysRel (s.tick + 1) else s.boot.sysRel)
          ∧ t = { s with boot := t.boot })) ∧
  (∀ (s : State),
    s.stage ≠ 8 ∧ s.perstLow = false →
    exec .perstNFall s = .next (((((s.setBoot { s.boot with
          perstHigh := false, perstRel := s.tick + 10, linkUp := false }).wr HIF.LINK_STAT_SPEED 0).wr
            HIF.LINK_STAT_WIDTH 0).wr HIF.LINK_STAT_FLIT 0).configReset)) ∧
  (∀ (s : State),
    s.pwr.crownReach.any (fun a => decide (a + 1000 ≤ s.tick)) = true ∧ 105 * 16 ≤ s.crownTemp ∧ s.pwr.tripped = false →
    leaves .thermtrip s (fun t => t.rd BZ_RESET.RESET_FLAGS_THERMTRIP = 1 ∧ t.pwr.tripped = true ∧ t.pwr.pllOn = []
          ∧ t.sch.reqs = [] ∧ (∀ p ∈ s.blockPages, t.bst p = .off) ∧ t.pm = 0
          ∧ t.mem = (s.setW1c BZ_RESET.RESET_FLAGS_THERMTRIP 1).finishAll.mem)) ∧
  (∀ (s : State),
    s.wdogExpired = true ∧ s.pwr.tripped = false ∧ s.stage ≠ 8 →
    exec .watchdogExpiry s = .next (s.acceptReset .watchdog)) ∧
  (∀ (s : State),
    s.wdogExpired = true ∧ s.pwr.tripped = false ∧ s.stage = 8 ∧ s.on BZ_RESET.WDOG_CFG_ACTION = true →
    exec .watchdogExpiry s = .next ((s.fire 7 0).acceptReset .watchdog)) ∧
  (∀ (s : State),
    s.wdogExpired = true ∧ s.pwr.tripped = false ∧ s.stage = 8 ∧ s.on BZ_RESET.WDOG_CFG_ACTION = false →
    exec .watchdogExpiry s = .next (
          let d := (s.setBoot { s.boot with wdogTick := s.tick }).detect 0x14 3 0x006 0xFFFF 0x7F none
          d.2.endAll (some d.1))) ∧
  (∀ (s : State),
    exec .watchdogRestart s = .next (s.setBoot { s.boot with wdogTick := s.tick }))

/-- The link trains (R167), and configuration requests are answered, with retry before HOST_READY (R181, R186), enabling virtual functions and sizing BAR4 (R95, Table PRT-1). -/
def Obligations.HostLinkAndConfiguration : Prop :=
  (∀ (speed lanes : Nat) (flit : Bool) (s : State),
    2 ≤ s.stage ∧ s.stage ≤ 8 ∧ s.boot.perstRel ≤ s.tick ∧ s.pwr.tripped = false ∧ s.boot.linkUp = false →
    leaves (.hifLinkTraining speed lanes flit) s (fun t => t.boot.perstHigh = true
          ∧ t.rd HIF.LINK_STAT_FLIT = b2n flit ∧ sameWordsBut [(0x090, HIF.LINK_STAT_SPEED.off)] s t
          ∧ t = { s with boot := t.boot, regs := t.regs })) ∧
  (∀ (fn : Nat) (c : ConfigAccess) (s : State),
    s.boot.linkUp = false →
    exec (.configurationRequest fn c) s = .next s) ∧
  (∀ (fn : Nat) (c : ConfigAccess) (s : State),
    s.boot.linkUp = true ∧ s.stage < 8 →
    exec (.configurationRequest fn c) s = .next (s.emit (.config false 0))) ∧
  (∀ (fn : Nat) (s : State),
    s.boot.linkUp = true ∧ 8 ≤ s.stage →
    exec (.configurationRequest fn .other) s = .next (s.emit (.config true 0))
        ∧ exec (.configurationRequest fn .identity) s = .next (s.emit (.config true (0x12_0000 * 2 ^ 16
            + (if fn = 0 then (if s.part = .pmx7240 then 0x7240 else 0x7241) else 0x7250))))) ∧
  (∀ (n : Nat) (s : State),
    s.boot.linkUp = true ∧ 8 ≤ s.stage ∧ n ≤ 63 →
    leaves (.configurationRequest 0 (.enableVfs n)) s (fun t => t.rd HIF.NUM_VFS = n
          ∧ t.io.vfOn = 2 ^ (n + 1) - 2
          ∧ sameWordsBut [(0x090, HIF.NUM_VFS.off)] s t ∧ t.mem = s.mem ∧ t.blocks = s.blocks ∧ t.sch = s.sch)) ∧
  (∀ (k : Nat) (s : State),
    s.boot.linkUp = true ∧ 8 ≤ s.stage ∧ 28 ≤ k ∧ k ≤ 37 →
    leaves (.configurationRequest 0 (.bar4Size k)) s (fun t => t.rd HIF.BAR4_SIZE = k
          ∧ t.bar4Base = s.rd64 HIF.BAR4_WIN_BASE_LO HIF.BAR4_WIN_BASE_HI / 2 ^ k * 2 ^ k
          ∧ sameWordsBut [(0x090, HIF.BAR4_SIZE.off)] s t ∧ t.mem = s.mem ∧ t.blocks = s.blocks ∧ t.sch = s.sch)) ∧
  (∀ (fn : Nat) (c : ConfigAccess) (s : State),
    s.boot.linkUp = true ∧ 8 ≤ s.stage ∧ c ≠ .identity ∧ fn ≠ 0 →
    exec (.configurationRequest fn c) s = .next (s.emit (.config true 0))) ∧
  (∀ (n k : Nat) (s : State),
    s.boot.linkUp = true ∧ 8 ≤ s.stage ∧ 63 < n ∧ (k < 28 ∨ 37 < k) →
    exec (.configurationRequest 0 (.enableVfs n)) s = .next (s.emit (.config true 0))
        ∧ exec (.configurationRequest 0 (.bar4Size k)) s = .next (s.emit (.config true 0)))

/-- The stages of boot (R171 to R181) and their errors (Table BOOT-5). -/
def Obligations.BootStages : Prop :=
  (∀ (s : State),
    s.bootOn 1 = true ∧ s.on BZ_AON.AON_STAT_REF_PRESENT = true ∧ (mapFind s.pwr.pllOn 0).isSome = true →
    s.bitOn BZ_PM.PLL_LOCK 0 = true ∧ s.bitOn BZ_PM.PLL_LOCK 3 = true →
    exec .bootClocks s = .next ((s.startPlls [0, 3]).toStage 2)) ∧
  (∀ (s : State),
    s.bootOn 1 = true ∧ s.on BZ_AON.AON_STAT_REF_PRESENT = true ∧ s.pwr.pllOn = [] ∧ s.rd BZ_PM.PLL_LOCK = 0 →
    exec .bootClocks s = .next (s.startPlls [0, 3])) ∧
  (∀ (s : State),
    s.stage = 1 ∧ s.on BZ_AON.AON_STAT_REF_PRESENT = false ∧ s.boot.sysRel + 100000 ≤ s.tick →
    exec .refAbsentTimeout s = .next (s.bootError 0x01 0)) ∧
  (∀ (s : State),
    s.bootOn 2 = true →
    exec .storeInit s = .next ((s.dpaClear casketBase casketSize).toStage 3)) ∧
  (∀ (s : State),
    s.bootOn 3 = true →
    exec .fwLoad s = .next (
          let h := s.flashRead (s.boot.slot * slotSize) slotHeaderLen
          if h.all (fun b => b == 0xFF) ∨ h.all (fun b => b == 0) then s.slotFailed 0x03
          else
            let n := if slotHeaderOk h then fieldAt h 8 4 else 0
            let u := s.dpaWrite casketBase (h ++ s.flashRead (s.boot.slot * slotSize + slotHeaderLen) n)
            (u.setBoot { u.boot with staged := slotHeaderLen + n }).toStage 4)) ∧
  (∀ (s : State),
    s.bootOn 4 = true →
    exec .fwVerify s = .next (
          let h := s.dpaRead casketBase slotHeaderLen
          let e := slotError h (s.dpaRead (casketBase + slotHeaderLen) (s.boot.staged - slotHeaderLen)) (s.rd DEV.SEC_VER_FUSE)
          if e = 0 then
            let u := ((s.wr DEV.BOOT_FW_SLOT s.boot.slot).wr DEV.FW_VER (fieldAt h 16 4)).dpaClear casketBase s.boot.staged
            (u.setBoot { u.boot with secVer := fieldAt h 12 4, staged := 0 }).toStage 5
          else s.slotFailed e)) ∧
  (∀ (f : Nat) (s : State),
    s.bootOn 5 = true ∧ f = s.boot.facetsDone ∧ s.hasFacet f = true →
    exec (.facets f .ok) s = .next (
          let u := (((s.startPlls [4 + f]).lockPll (4 + f)).trained f).dpaClear (locketBase f) locketSize
          (u.setBoot { u.boot with facetFw := true }).positionEnds)
        ∧ exec (.facets f .powerUp) s = .next (s.bootError 0x09 (pgFct f 0))
        ∧ exec (.facets f .pll) s = .next ((s.startPlls [4 + f]).bootError 0x09 (pgFct f 0))
        ∧ exec (.facets f .train) s = .next (
          ((((s.startPlls [4 + f]).lockPll (4 + f)).linkFails f 3)).bootError 0x0A (pgCl f))
        ∧ exec (.facets f .laneCheck) s = .next (
          ((((s.startPlls [4 + f]).lockPll (4 + f)).trained f).linkFails f 4).bootError 0x0B (pgCl f))
        ∧ exec (.facets f .selfTest) s = .next (
          ((((s.startPlls [4 + f]).lockPll (4 + f)).trained f).dpaClear (locketBase f) locketSize).bootError 0x09 (pgFct f 0))) ∧
  (∀ (fails : List Nat) (r : BootResult) (s : State),
    s.bootOn 6 = true ∧ (sideLinks s.part).find? (fun l => fails.contains l) = none →
    exec (.sideLinks fails r) s = .next (((sideLinks s.part).foldl (fun (t : State) l => t.trained l) s).toStage 7)) ∧
  (∀ (fails : List Nat) (l : Nat) (s : State),
    s.bootOn 6 = true ∧ (sideLinks s.part).find? (fun l => fails.contains l) = some l →
    leaves (.sideLinks fails .train) s (fun t => t.stage = 0xF ∧ t.rd DEV.BOOT_ERR = 0x0A ∧ t.rd DEV.BOOT_UNIT = pgCl l
          ∧ (∀ k ∈ sideLinks s.part, t.rd (CL.LINK_STAT_STATE k) = if fails.contains k then lsFatal else lsUp)
          ∧ t.rd (CL.LINK_STAT_FAIL_CAUSE l) = 3 ∧ t.mem = s.mem)
        ∧ leaves (.sideLinks fails .laneCheck) s (fun t => t.stage = 0xF ∧ t.rd DEV.BOOT_ERR = 0x0B ∧ t.rd DEV.BOOT_UNIT = pgCl l
          ∧ (∀ k ∈ sideLinks s.part, t.rd (CL.LINK_STAT_STATE k) = if fails.contains k then lsFatal else lsUp)
          ∧ t.rd (CL.LINK_STAT_FAIL_CAUSE l) = 4 ∧ t.mem = s.mem)) ∧
  (∀ (h : Nat) (s : State),
    s.bootOn 7 = true ∧ h < 4 →
    leaves (.hbmTrain h .ok) s (fun t => t.rd (HBM.HBM_STAT_TRAINED h) = 1 ∧ t.boot.hbmDone = Nat.lor s.boot.hbmDone (2 ^ h)
          ∧ t.mem = (if Nat.lor s.boot.hbmDone (2 ^ h) = 0xF then (s.dpaClear 0 hbmSize).mem else s.mem)
          ∧ t = { s with boot := t.boot, mem := t.mem, regs := t.regs })
        ∧ exec (.hbmTrain h .fail) s = .next (s.bootError 0x0C (pgHbm h))) ∧
  (∀ (s : State),
    s.bootOn 7 = true ∧ s.boot.hbmDone = 0xF →
    leaves .hostReady s (fun t => t.stage = 8 ∧ t.pm = 0 ∧ t.rd BZ_RESET.WDOG_CONSEC = 0 ∧ t.mem = s.mem
          ∧ ∀ p ∈ readyPages s.part, s.bst p = .off → t.bst p = .ready ∧ t.on (HDR.BLK_CTRL_ENABLE p) = true)) ∧
  (∀ (s : State),
    s.booting = true ∧ s.boot.stageTick + stageBudget s.stage < s.tick →
    (s.stage = 1 → s.on BZ_AON.AON_STAT_REF_PRESENT = true) ∧ (s.stage = 5 → s.hasFacet s.boot.facetsDone = true ∨ s.devFaulted = true) →
    exec .stageTimeout s = .next (s.bootError 0x0F (if s.stage = 5 then pgFct s.boot.facetsDone 0 else 0))) ∧
  (∀ (code unit : Nat) (s : State),
    s.booting = true ∧ code < 256 ∧ unit < 1024 →
    let t := s.bootError code unit;
        t.stage = 0xF ∧ t.rd DEV.BOOT_ERR = code ∧ t.rd DEV.BOOT_UNIT = unit ∧ t.devFaulted = true)

/-! ### Faults -/

/-- A detection is captured on its page and opens a report, or joins one (R106, R643, R644); class C3 faults DEV (R632). -/
def Obligations.DetectionOpensAReport : Prop :=
  (∀ (mech cls page sub ws : Nat) (addr : Option Nat) (s : State),
    s.joinable mech page = none ∧ page < 0x140 ∧ (cls = 1 ∨ cls = 2 ∨ cls = 3) →
    let t := (s.detect mech cls page sub ws addr).2;
        (s.detect mech cls page sub ws addr).1 = t.rd BZ_FAULT.REPORT_CNT
        ∧ t.rd BZ_FAULT.REPORT_CNT = satBits 32 (s.rd BZ_FAULT.REPORT_CNT + 1)
        ∧ (∃ r, mapFind t.flt.opens (t.rd BZ_FAULT.REPORT_CNT) = some r ∧ r.tick = s.tick ∧ r.mech = mech ∧ r.cls = cls
            ∧ r.page = page)
        ∧ (t.rd (HDR.IRQ_STAT 0x003)).testBit 0 = true ∧ (cls = 3 → t.devFaulted = true)) ∧
  (∀ (mech cls page sub ws q : Nat) (r : Report) (addr : Option Nat) (s : State),
    s.joinable mech page = some q ∧ mapFind s.flt.opens q = some r ∧ page < 0x140 →
    let t := (s.detect mech cls page sub ws addr).2;
        (s.detect mech cls page sub ws addr).1 = q ∧ t.rd BZ_FAULT.REPORT_CNT = s.rd BZ_FAULT.REPORT_CNT
        ∧ mapFind t.flt.opens q = some { r with merged := satBits 16 (r.merged + 1) }
        ∧ t.rd (HDR.ERR_CNT_UNCORR page) = satBits 32 (s.rd (HDR.ERR_CNT_UNCORR page) + 1))

/-- A report closes and is logged (R643 to R645); FIRST_REPORT, FAULT_N and the test report (R646, R649, R654). -/
def Obligations.ReportsCloseAndAreLogged : Prop :=
  (∀ (a b : Nat) (x y : Report) (s : State),
    s.flt.opens = [(a, x), (b, y)] ∧ a < b ∧ x.tick = s.tick ∧ y.tick = s.tick ∧ x.seq = a ∧ y.seq = b →
    s.numberReports.flt.opens =
          if sourceOfMech y.mech < sourceOfMech x.mech ∨ (sourceOfMech y.mech = sourceOfMech x.mech ∧ y.page < x.page) then
            [(a, { y with seq := a }), (b, { x with seq := b })]
          else s.flt.opens) ∧
  (∀ (q : Nat) (r : Report) (s : State),
    mapFind s.flt.opens q = some r ∧ r.tick + s.corrWindow ≤ s.tick ∧ s.on BZ_FAULT.FLOG_CFG_EN = true ∧ s.flogBaseOk = true →
    (s.rd BZ_FAULT.FLOG_WR_IDX + 1) % 256 ≠ s.rd BZ_FAULT.FLOG_RD_IDX →
    leaves (.faultReportClose q) s (fun t =>
          let a := s.rd64 BZ_FAULT.FLOG_BASE_LO BZ_FAULT.FLOG_BASE_HI + 32 * s.rd BZ_FAULT.FLOG_WR_IDX
          mapFind t.flt.opens q = none ∧ t.dpaRead a 32 = r.bytes ∧ sameMemoryBut a 32 (s.hbmTouch a) t
          ∧ t.rd BZ_FAULT.FLOG_WR_IDX = (s.rd BZ_FAULT.FLOG_WR_IDX + 1) % 256
          ∧ t = { s.hbmTouch a with flt := t.flt, mem := t.mem, regs := t.regs })) ∧
  (∀ (q : Nat) (r : Report) (s : State),
    mapFind s.flt.opens q = some r ∧ r.tick + s.corrWindow ≤ s.tick ∧ s.on BZ_FAULT.FLOG_CFG_EN = false →
    leaves (.faultReportClose q) s (fun t => mapFind t.flt.opens q = none
          ∧ t.rd BZ_FAULT.FLOG_LOST = satBits 32 (s.rd BZ_FAULT.FLOG_LOST + 1) ∧ t = { s with flt := t.flt, regs := t.regs })) ∧
  (∀ (rq : Requester) (s : State),
    s.answers rq 0x003 →
    exec (.flogEnable rq) s = .next (let u := s.wr BZ_FAULT.FLOG_CFG_EN 1
          if s.flogBaseOk = true then u else u.setW1c BZ_FAULT.FLOG_CFG_BASE_BAD 1)) ∧
  (∀ (rq : Requester) (s : State),
    s.answers rq 0x003 ∧ s.flt.opens.find? (fun e => decide (e.2.tick = s.tick)) = none →
    exec (.firstClr rq) s = .next (s.setFlt { s.flt with firstHeld := false })) ∧
  (∀ (rq : Requester) (s : State),
    s.answers rq 0x003 →
    exec (.faultNClr rq) s = .next ((s.setFlt { s.flt with pinHeld := false }).wr DEV.FAULT_PIN (b2n s.devFaulted))) ∧
  (∀ (rq : Requester) (s : State),
    s.answers rq 0x003 ∧ s.unlocked 0x003 = true ∧ s.sentinel = false →
    leaves (.injReport rq) s (fun t => t.rd BZ_FAULT.REPORT_CNT = satBits 32 (s.rd BZ_FAULT.REPORT_CNT + 1)
          ∧ (∃ r, mapFind t.flt.opens (t.rd BZ_FAULT.REPORT_CNT) = some r ∧ r.tick = s.tick ∧ r.mech = 0xFF ∧ r.cls = 1
              ∧ r.page = 0x003) ∧ t.mem = s.mem ∧ t.blocks = s.blocks ∧ t.sch = s.sch)) ∧
  (∀ (rq : Requester) (s : State),
    s.answers rq 0x003 ∧ s.unlocked 0x003 = true ∧ s.sentinel = true →
    exec (.injReport rq) s = .next s) ∧
  (∀ (rq : Requester) (s : State),
    s.answers rq 0x003 ∧ s.unlocked 0x003 = false →
    exec (.injReport rq) s = .next (s.blocked 0x003))

/-- SENTINEL (R622), the commanded reset (R650), the lockstep comparisons (R541, R626) and the limit of a drain (R640). -/
def Obligations.SentinelResetCommandLockstepAndDrainLimit : Prop :=
  (∀ (rq : Requester) (v : Bool) (s : State),
    s.answers rq 0x003 →
    leaves (.sentinelWrite rq v) s (fun t => t.rd BZ_FAULT.SENTINEL = b2n v ∧ t.mem = s.mem ∧ t.blocks = s.blocks)) ∧
  (∀ (rq : Requester) (key : Nat) (s : State),
    s.answers rq 0x006 ∧ s.unlocked 0x006 = true ∧ key % 65536 = 0xD5E7 →
    exec (.resetCmd rq key) s = .next (s.setBoot { s.boot with resetNext := some s.tick })) ∧
  (∀ (rq : Requester) (key : Nat) (s : State),
    s.answers rq 0x006 ∧ s.unlocked 0x006 = true ∧ key % 65536 ≠ 0xD5E7 →
    exec (.resetCmd rq key) s = .next s) ∧
  (∀ (rq : Requester) (key : Nat) (s : State),
    s.answers rq 0x006 ∧ s.unlocked 0x006 = false →
    exec (.resetCmd rq key) s = .next (s.blocked 0x006)) ∧
  (∀ (pair : Nat) (s : State),
    s.pwr.tripped = false ∧ s.pm < 2 →
    exec (.lockstepMismatch .managementPair pair) s = .next (let d := s.detect 0x04 3 0x000 (pair % 2) 0x7F none
          d.2.endAll (some d.1))) ∧
  (∀ (pair : Nat) (s : State),
    s.pwr.tripped = false ∧ s.hmRuns = true →
    leaves (.lockstepMismatch .timingCore pair) s (fun t => t.bst 0x080 = .faulted ∧ (t.blk 0x080).cause = causeFault)) ∧
  (∀ (page : Nat) (s : State),
    s.pwr.tripped = false ∧ s.pm < 2 →
    exec (.lockstepMismatch .stateWord page) s = .next (s.ownWord page)) ∧
  (∀ (page : Nat) (s : State),
    bezelPage (ownerPage page) = true →
    s.ownWord page = (let d := s.detect 0x01 3 (ownerPage page) 0xFFFF 0x7F none
          d.2.endAll (some d.1))) ∧
  (∀ (page : Nat) (s : State),
    bezelPage (ownerPage page) = false ∧ storePage (ownerPage page) = true →
    s.ownWord page = (s.detect 0x01 3 (ownerPage page) 0xFFFF 0x7F none).2) ∧
  (∀ (page : Nat) (s : State),
    0x040 ≤ page ∧ page < 0x090 ∧ pagePresent s.part (ownerPage page) = true ∧ s.bst (ownerPage page) ≠ .off →
    bezelPage (ownerPage page) = false ∧ storePage (ownerPage page) = false →
    (s.ownWord page).bst (ownerPage page) = .faulted) ∧
  (∀ (page : Nat) (s : State),
    s.bst page = .fenced ∧ (s.blk page).drained = false ∧ (s.blk page).entry + atLeast1 (s.rd BZ_FAULT.DRAIN_LIMIT) ≤ s.tick →
    leaves (.drainLimitExpiry page) s (fun t => t.bst page = .faulted ∧ (t.blk page).cause = causeFault
          ∧ (t.blk page).faultLocal = ((s.blk page).cause != causeLink)))

/-! ### Clasp: the links between the dies -/

/-- Negotiation with the guest (R184, R209, R210), its time sync (R199, R200), and training a link (R198, R201, R235). -/
def Obligations.ClaspNegotiationAndTraining : Prop :=
  (∀ (m : CapHead) (block : List Byte) (s : State),
    s.part = .pmx7241 ∧ s.rd (CL.CAP_STAT_NEG_STATE 3) = 1 ∧ capReject true m.modules block = 0 →
    m.head.crcOk = true ∧ m.head.seq = 0 ∧ s.linkUp 3 = false →
    leaves (.capDecl true m block) s (fun t => t.rd (CL.CAP_STAT_NEG_STATE 3) = 2 ∧ t.rd (CL.CAP_STAT_REJECT_CODE 3) = 0
          ∧ t.guest.accepted = true ∧ t.guest.cls = fieldAt block 6 1 ∧ t.guest.maxPkt = fieldAt block 14 2
          ∧ t.guest.credReq = fieldAt block 8 2 ∧ t.guest.credCpl = fieldAt block 10 2 ∧ t.guest.credData = fieldAt block 12 2
          ∧ t.guest.hisReq = 128 ∧ t.guest.hisCpl = 128 ∧ t.guest.hisData = 2048
          ∧ t.rd (CL.LINK_STAT_STATE 3) = lsUp ∧ t.mem = s.mem
          ∧ t.bst 0x023 = (if 1 ≤ s.stage ∧ s.stage ≤ 7 ∧ s.bst 0x023 = .off then .ready else s.bst 0x023)
          ∧ (t.lnk 3).rxSeq = 1 ∧ (t.lnk 3).unacked.length = 1)) ∧
  (∀ (m : CapHead) (block : List Byte) (s : State),
    s.part = .pmx7241 ∧ s.rd (CL.CAP_STAT_NEG_STATE 3) = 1 ∧ capReject true m.modules block = 0 →
    m.head.crcOk = true ∧ m.head.seq = (s.lnk 3).rxSeq ∧ s.linkUp 3 = true ∧ (s.lnk 3).rxSince < 63 →
    leaves (.capDecl true m block) s (fun t => t.rd (CL.CAP_STAT_NEG_STATE 3) = 2 ∧ t.guest.accepted = true
          ∧ t.bst 0x023 = (if 1 ≤ s.stage ∧ s.stage ≤ 7 ∧ s.bst 0x023 = .off then .ready else s.bst 0x023)
          ∧ (∃ seq ack bad, Out.link 3 (.capGrant 128 128 2048 (fieldAt block 14 2)) seq ack bad ∈ t.out) ∧ t.mem = s.mem)) ∧
  (∀ (m : CapHead) (c : Nat) (block : List Byte) (s : State),
    s.part = .pmx7241 ∧ s.rd (CL.CAP_STAT_NEG_STATE 3) = 1 ∧ guestModules m.modules = true →
    capReject true m.modules block = c ∧ c ≠ 0 ∧ m.head.crcOk = true ∧ m.head.seq = 0 ∧ s.linkUp 3 = false →
    leaves (.capDecl true m block) s (fun t => t.rd (CL.CAP_STAT_NEG_STATE 3) = 3
          ∧ t.rd (CL.CAP_STAT_REJECT_CODE 3) = c ∧ t.guest.accepted = false
          ∧ t.bst 0x023 = (if s.bst 0x023 = .faulted then .faulted else .fenced)
          ∧ (s.bst 0x023 ≠ .faulted → s.bst 0x023 ≠ .fenced → (t.blk 0x023).cause = causeLink) ∧ t.mem = s.mem)) ∧
  (∀ (sideband : Bool) (m : CapHead) (block : List Byte) (s : State),
    s.part = .pmx7241 ∧ s.rd (CL.CAP_STAT_NEG_STATE 3) = 1 ∧ (sideband = false ∨ guestModules m.modules = false) →
    leaves (.capDecl sideband m block) s (fun t => t.rd (CL.CAP_STAT_NEG_STATE 3) = 3
          ∧ t.rd (CL.CAP_STAT_REJECT_CODE 3) = 1 ∧ t.rd (CL.LINK_CFG_MODULES 3) = 0 ∧ t.guest.accepted = false
          ∧ t.bst 0x023 = (if s.bst 0x023 = .faulted then .faulted else .fenced)
          ∧ (s.bst 0x023 ≠ .faulted → s.bst 0x023 ≠ .fenced → (t.blk 0x023).cause = causeLink) ∧ t.mem = s.mem)) ∧
  (∀ (sideband : Bool) (m : CapHead) (block : List Byte) (s : State),
    s.part = .pmx7241 ∧ s.rd (CL.CAP_STAT_NEG_STATE 3) = 2 ∧ s.linkUp 3 = true →
    m.head.crcOk = true ∧ m.head.seq = (s.lnk 3).rxSeq ∧ (s.lnk 3).rxSince < 63 →
    leaves (.capDecl sideband m block) s (fun t => (t.lnk 3).rxSeq = (m.head.seq + 1) % s.seqMod 3
          ∧ t.rd (CL.PROTO_ERR_CNT 3) = satBits 32 (s.rd (CL.PROTO_ERR_CNT 3) + 1) ∧ t.guest = s.guest
          ∧ t = { s with links := t.links, regs := t.regs })) ∧
  (∀ (sideband : Bool) (m : CapHead) (block : List Byte) (s : State),
    s.part = .pmx7240 ∨ s.rd (CL.CAP_STAT_NEG_STATE 3) = 0 ∨ s.rd (CL.CAP_STAT_NEG_STATE 3) = 3 →
    exec (.capDecl sideband m block) s = .next s) ∧
  (∀ (a : Nat) (s : State),
    s.part = .pmx7241 ∧ s.rd (CL.CAP_STAT_NEG_STATE 3) = 1 ∧ s.slotStart = some a ∧ a + 8000 ≤ s.tick →
    leaves .guestSlotTimeout s (fun t => t.rd (CL.CAP_STAT_NEG_STATE 3) = 3 ∧ t.rd (CL.CAP_STAT_REJECT_CODE 3) = 8
          ∧ t.bst 0x023 = (if s.bst 0x023 = .faulted then .faulted else .fenced) ∧ t.mem = s.mem)) ∧
  (∀ (s : State),
    s.part = .pmx7241 ∧ s.rd (CL.CAP_STAT_NEG_STATE 3) = 1 ∧ s.stage = 5 ∧ s.boot.facetsDone = 3 →
    s.slotStart = some s.boot.stageTick) ∧
  (∀ (a : Nat) (m : Bool) (s : State),
    s.part = .pmx7241 ∧ s.rd (CL.CAP_STAT_NEG_STATE 3) = 1 ∧ s.stage ≠ 5 ∧ (s.lnk 3).retrain = some (a, m) →
    s.slotStart = some a) ∧
  (∀ (s : State),
    s.guest.accepted = true ∧ s.tick % 1000 = 0 →
    leaves .tickMessage s (fun t => t.out = s.out ++ [.link 3 (.sideband 0x54 s.tick) 0 0 false] ∧ t.guest.tickSent = some s.tick
          ∧ t.guest.tickMiss = (if s.guest.tickSent.isSome then s.guest.tickMiss + 1 else 0)
          ∧ (t.guest.tickMiss = 3 → t.guest.timeSync = false)
          ∧ t = { s with out := t.out, guest := t.guest })) ∧
  (∀ (echo : Nat) (s : State),
    s.guest.accepted = true ∧ s.guest.timeSync = true ∧ s.guest.tickSent = some echo ∧ s.tick ≤ echo + 4 →
    exec (.tickAck echo) s = .next (s.setGuest { s.guest with tickMiss := 0, tickSent := none })) ∧
  (∀ (rq : Requester) (l : Nat) (packetised : Bool) (s : State),
    s.answers rq (pgCl l) ∧ (s.reached (pgCl l)).unlocked (pgCl l) = true ∧ s.isGuestLink l = false ∧ s.linkUsable l = true →
    s.readyDrained (pgCl l) = true ∧ (s.reached (pgCl l)).on (CL.MODE_FORCE l) ≠ packetised →
    exec (.modeForce rq l packetised) s = .next ((((s.reached (pgCl l)).wr (CL.MODE_FORCE l) (b2n packetised)).setLnk l
          { s.lnk l with retrain := some (s.tick, packetised) }).wr (CL.LINK_STAT_STATE l) lsTraining)) ∧
  (∀ (rq : Requester) (l : Nat) (packetised : Bool) (s : State),
    s.answers rq (pgCl l) ∧ (s.reached (pgCl l)).unlocked (pgCl l) = true ∧ (s.reached (pgCl l)).on (CL.MODE_FORCE l) = packetised →
    exec (.modeForce rq l packetised) s = .next (s.reached (pgCl l))) ∧
  (∀ (rq : Requester) (l : Nat) (s : State),
    s.answers rq (pgCl l) ∧ (s.reached (pgCl l)).unlocked (pgCl l) = true ∧ s.isGuestLink l = false ∧ s.linkUsable l = true →
    s.readyDrained (pgCl l) = true →
    exec (.retrain rq l) s = .next (((s.reached (pgCl l)).setLnk l
          { s.lnk l with retrain := some (s.tick, (s.reached (pgCl l)).on (CL.LINK_CFG_MODE l)) }).wr (CL.LINK_STAT_STATE l) lsTraining)) ∧
  (∀ (rq : Requester) (s : State),
    s.answers rq 0x023 ∧ (s.reached 0x023).unlocked 0x023 = true ∧ s.part = .pmx7241 ∧ s.readyDrained 0x023 = true →
    leaves (.retrain rq 3) s (fun t => t.rd (CL.LINK_STAT_STATE 3) = lsTraining
          ∧ (t.lnk 3).retrain = some (s.tick, s.on (CL.LINK_CFG_MODE 3))
          ∧ t.rd (CL.CAP_STAT_NEG_STATE 3) = (if s.rd (CL.CAP_STAT_NEG_STATE 3) = 0 then 1 else s.rd (CL.CAP_STAT_NEG_STATE 3))
          ∧ t = { s.reached 0x023 with links := t.links, regs := t.regs, guest := t.guest })) ∧
  (∀ (rq : Requester) (l : Nat) (s : State),
    s.answers rq (pgCl l) ∧ (s.reached (pgCl l)).unlocked (pgCl l) = true ∧ (s.linkUsable l = false ∨ s.readyDrained (pgCl l) = false) →
    exec (.retrain rq l) s = .next ((s.reached (pgCl l)).reject (pgCl l))) ∧
  (∀ (l modules a : Nat) (mode : Bool) (s : State),
    (s.lnk l).retrain = some (a, mode) ∧ s.isGuestLink l = false ∧ modules = linkModules l ∧ s.tick ≤ a + 5000 →
    leaves (.linkRetrainComplete l modules) s (fun t => t.rd (CL.LINK_STAT_STATE l) = lsUp ∧ t.rd (CL.LINK_CFG_MODE l) = b2n mode
          ∧ (t.lnk l).retrain = none ∧ t = { s with links := t.links, regs := t.regs })) ∧
  (∀ (l modules a : Nat) (mode : Bool) (s : State),
    (s.lnk l).retrain = some (a, mode) ∧ s.isGuestLink l = false ∧ (modules ≠ linkModules l ∨ a + 5000 < s.tick) ∧ l < 8 →
    s.rd (CL.LINK_STAT_STATE l) ≠ lsFatal →
    leaves (.linkRetrainComplete l modules) s (fun t => t.rd (CL.LINK_STAT_STATE l) = lsFatal
          ∧ t.rd (CL.LINK_STAT_FAIL_CAUSE l) = 3 ∧ t.bst (pgCl l) = .faulted)) ∧
  (∀ (modules a : Nat) (mode : Bool) (s : State),
    s.part = .pmx7241 ∧ (s.lnk 3).retrain = some (a, mode) ∧ s.rd (CL.CAP_STAT_NEG_STATE 3) ≠ 2 ∧ guestModules modules = true →
    leaves (.linkRetrainComplete 3 modules) s (fun t => t.rd (CL.LINK_STAT_STATE 3) = lsUp ∧ t.rd (CL.LINK_CFG_MODULES 3) = modules
          ∧ t.guest.credReq = 8 ∧ t.guest.credCpl = 8 ∧ t.guest.credData = 16 ∧ t.guest.maxPkt = 64
          ∧ t.guest.hisReq = 8 ∧ t.guest.hisCpl = 8 ∧ t.guest.hisData = 16 ∧ t.guest.accepted = false
          ∧ t = { s with links := t.links, regs := t.regs, guest := t.guest }))

/-- Framing and replay (R202, R203, R220, R221), the lane monitor (R226, R229) and the lane test (R232). -/
def Obligations.ClaspFramingAndReplay : Prop :=
  (∀ (l seq ack : Nat) (s : State),
    s.linkUsable l = true ∧ s.linkUp l = true ∧ s.on (CL.LINK_CFG_MODE l) = false ∧ seq = (s.lnk l).rxSeq ∧ (s.lnk l).rxSince < 63 →
    (s.lnk l).unacked = [] →
    leaves (.nativeFrame l seq ack false true) s (fun t => (t.lnk l).rxSeq = (seq + 1) % 4096 ∧ (t.lnk l).rxHold = false
          ∧ t.rd64 (CL.RX_BYTES_LO l) (CL.RX_BYTES_HI l) = (s.rd64 (CL.RX_BYTES_LO l) (CL.RX_BYTES_HI l) + 248) % 2 ^ 64
          ∧ t = { s with links := t.links, regs := t.regs })) ∧
  (∀ (l seq : Nat) (rest : List (Nat × LinkOut)) (p : LinkOut) (s : State),
    s.linkUsable l = true ∧ s.linkUp l = true ∧ s.on (CL.LINK_CFG_MODE l) = false ∧ seq = (s.lnk l).rxSeq ∧ (s.lnk l).rxSince < 63 →
    (s.lnk l).unacked = (5, p) :: rest ∧ (s.lnk l).txWait = [] →
    leaves (.nativeFrame l seq 5 false true) s (fun t => (t.lnk l).rxSeq = (seq + 1) % 4096 ∧ (t.lnk l).unacked = rest
          ∧ t = { s with links := t.links, regs := t.regs })) ∧
  (∀ (l seq ack : Nat) (nak : Bool) (s : State),
    s.linkUsable l = true ∧ s.linkUp l = true ∧ s.on (CL.LINK_CFG_MODE l) = false ∧ seq ≠ (s.lnk l).rxSeq ∧ (s.lnk l).rxHold = false →
    (s.lnk l).replays = [] ∧ (s.lnk l).txWait = [] ∧ s.txRoom l = true →
    leaves (.nativeFrame l seq ack nak true) s (fun t => (t.lnk l).rxHold = true ∧ (t.lnk l).rxSeq = (s.lnk l).rxSeq
          ∧ t.out = s.out ++ [.link l (.nakFrame (s.lnk l).rxSeq) (s.lnk l).txSeq (s.ackSeq l) (s.on (CL.INJ_CRC l))]
          ∧ (t.lnk l).txSeq = ((s.lnk l).txSeq + 1) % s.seqMod l
          ∧ (t.lnk l).unacked = (s.lnk l).unacked ++ [((s.lnk l).txSeq, .nakFrame (s.lnk l).rxSeq)]
          ∧ t.rd (CL.LINK_STAT_STATE l) = lsReplaying ∧ t.rd (CL.REPLAY_CNT l) = satBits 32 (s.rd (CL.REPLAY_CNT l) + 1)
          ∧ (t.lnk l).replays = [1])) ∧
  (∀ (l seq ack : Nat) (nak : Bool) (s : State),
    s.linkUsable l = true ∧ s.linkUp l = true ∧ s.on (CL.LINK_CFG_MODE l) = false ∧ seq ≠ (s.lnk l).rxSeq ∧ (s.lnk l).rxHold = true →
    exec (.nativeFrame l seq ack nak true) s = .next s) ∧
  (∀ (l first n : Nat) (s : State),
    s.linkUsable l = true ∧ s.linkUp l = true ∧ s.isGuestLink l = false ∧ s.rd (CL.LINK_STAT_STATE l) = lsUp →
    (s.lnk l).unacked.map (·.1) = (List.range n).map (fun i => (first + i) % s.seqMod l) ∧ n ≤ 1024 ∧ (s.lnk l).txWait = [] →
    ∀ i : Nat, i < n → first < s.seqMod l →
    leaves (.ack l ((first + i) % s.seqMod l)) s (fun t => (t.lnk l).unacked = (s.lnk l).unacked.drop (i + 1)
          ∧ (t.lnk l).replaying = false ∧ t = { s with links := t.links })) ∧
  (∀ (l seq : Nat) (p : LinkOut) (s : State),
    s.linkUsable l = true ∧ s.linkUp l = true ∧ s.isGuestLink l = false ∧ (s.lnk l).replays = [] →
    (s.lnk l).unacked = [(seq, p)] ∧ (s.lnk l).txWait = [] ∧ seq < s.seqMod l →
    leaves (.nak l seq) s (fun t => t.rd (CL.LINK_STAT_STATE l) = lsReplaying
          ∧ t.rd (CL.REPLAY_CNT l) = satBits 32 (s.rd (CL.REPLAY_CNT l) + 1) ∧ (t.lnk l).replaying = true ∧ (t.lnk l).replays = [1]
          ∧ Out.link l p seq (s.ackSeq l) (s.on (CL.INJ_CRC l)) ∈ t.out
          ∧ (t.lnk l).unacked = [(seq, p)]
          ∧ t = { s with links := t.links, regs := t.regs, out := t.out, bus := t.bus })
        ∧ leaves (.ackTimeoutReplay l) s (fun t => t.rd (CL.LINK_STAT_STATE l) = lsReplaying ∧ (t.lnk l).replays = [1]
          ∧ Out.link l p seq (s.ackSeq l) (s.on (CL.INJ_CRC l)) ∈ t.out)) ∧
  (∀ (l seq : Nat) (s : State),
    (s.lnk l).unacked = [] →
    exec (.ackTimeoutReplay l) s = .next s ∧ exec (.nak l seq) s = .next s ∧
        (s.rd (CL.LINK_STAT_STATE l) = lsUp → exec (.ack l seq) s = .next s)) ∧
  (∀ (l seq n : Nat) (r : List Nat) (p : LinkOut) (s : State),
    s.linkUsable l = true ∧ s.linkUp l = true ∧ (s.lnk l).replays = n :: r ∧ 8 < (((n + 1) :: r).take 4).foldl (· + ·) 0 →
    s.isGuestLink l = false ∧ (s.lnk l).unacked = [(seq, p)] ∧ (s.lnk l).txWait = [] ∧ seq < s.seqMod l →
    leaves (.nak l seq) s (fun t => t.rd (CL.LINK_STAT_STATE l) = lsFatal ∧ t.rd (CL.LINK_STAT_FAIL_CAUSE l) = 2
          ∧ t.bst (pgCl l) = .faulted ∧ (t.lnk l).burstsLeft = 2)) ∧
  (∀ (l : Nat) (s : State),
    s.linkUsable l = true ∧ s.linkUp l = true ∧ (s.lnk l).testEnd = none ∧ (s.lnk l).burstTick ≠ some s.tick →
    leaves (.laneMonitorBurst l [] []) s (fun t => (t.lnk l).badLanes = [] ∧ t.rd (CL.LINK_STAT_STATE l) = s.rd (CL.LINK_STAT_STATE l)
          ∧ t = { s with links := t.links, regs := t.regs })) ∧
  (∀ (l x : Nat) (s : State),
    s.linkUsable l = true ∧ s.linkUp l = true ∧ (s.lnk l).testEnd = none ∧ x < 256 →
    (s.lnk l).badLanes.contains x = true ∧ (s.lnk l).burstTick = some (s.tick - 1) ∧ 0 < s.tick →
    leaves (.laneMonitorBurst l [x] []) s (fun t => t.rd (CL.LINK_STAT_STATE l) = lsFatal ∧ t.rd (CL.LINK_STAT_FAIL_CAUSE l) = 1
          ∧ t.rd (CL.LINK_STAT_FAIL_LANE l) = x ∧ t.bst (pgCl l) = .faulted)) ∧
  (∀ (l x : Nat) (s : State),
    s.linkUsable l = true ∧ s.linkUp l = true ∧ (s.lnk l).testEnd = none ∧ x < 256 ∧ (s.lnk l).burstTick ≠ some s.tick →
    (s.lnk l).badLanes.contains x = false ∨ (s.lnk l).burstTick = none →
    leaves (.laneMonitorBurst l [x] []) s (fun t => t.rd (CL.LINK_STAT_STATE l) = s.rd (CL.LINK_STAT_STATE l)
          ∧ (t.lnk l).badLanes = [x] ∧ (t.lnk l).burstTick = some s.tick
          ∧ t.rd (CL.LANE_BURST_ERR l (x / 64)) = satBits 32 (s.rd (CL.LANE_BURST_ERR l (x / 64)) + 1)
          ∧ t = { s with links := t.links, regs := t.regs })) ∧
  (∀ (rq : Requester) (l d : Nat) (s : State),
    s.answers rq 0x02F ∧ (s.reached 0x02F).unlocked 0x02F = true ∧ (s.bst 0x02F).up = true ∧ l < 8 ∧ d < 65536 →
    (s.bst (pgCl l) = .off ∨ s.bst (pgCl l) = .faulted) ∧ (s.reached 0x02F).on CL_TEST.TEST_STAT_BUSY = false →
    leaves (.clTestStart rq l d) s (fun t => t.rd CL_TEST.TEST_STAT_BUSY = 1 ∧ t.rd CL_TEST.TEST_STAT_RESULT = 0
          ∧ t.rd CL_TEST.TEST_CTRL_LINK = l ∧ t.rd CL_TEST.TEST_CTRL_DURATION = d
          ∧ (t.lnk l).testEnd = some (s.tick + atLeast1 d)
          ∧ t = { s.reached 0x02F with links := t.links, regs := t.regs })) ∧
  (∀ (rq : Requester) (l d : Nat) (s : State),
    s.answers rq 0x02F ∧ (s.reached 0x02F).unlocked 0x02F = true ∧ (s.bst 0x02F).up = true ∧ l < 8 ∧ d < 65536 →
    (s.bst (pgCl l) ≠ .off ∧ s.bst (pgCl l) ≠ .faulted) ∨ (s.reached 0x02F).on CL_TEST.TEST_STAT_BUSY = true →
    leaves (.clTestStart rq l d) s (fun t => t.rd CL_TEST.TEST_STAT_RESULT = 3 ∧ t.links = s.links
          ∧ t.rd CL_TEST.TEST_STAT_BUSY = (s.reached 0x02F).rd CL_TEST.TEST_STAT_BUSY
          ∧ t.rd CL_TEST.TEST_CTRL_LINK = l ∧ t.rd CL_TEST.TEST_CTRL_DURATION = d
          ∧ t = { s.reached 0x02F with regs := t.regs })) ∧
  (∀ (rq : Requester) (l d : Nat) (s : State),
    s.answers rq 0x02F ∧ (s.reached 0x02F).unlocked 0x02F = true ∧ (s.bst 0x02F).up = false →
    exec (.clTestStart rq l d) s = .next (((s.reached 0x02F).wr CL_TEST.TEST_CTRL_LINK l).wr CL_TEST.TEST_CTRL_DURATION d)) ∧
  (∀ (l e : Nat) (bad : List Nat) (s : State),
    (List.range 8).find? (fun k => (s.lnk k).testEnd.isSome) = some l ∧ (s.lnk l).testEnd = some e ∧ e ≤ s.tick →
    leaves (.clTestDone bad) s (fun t => t.rd CL_TEST.TEST_STAT_BUSY = 0 ∧ (t.lnk l).testEnd = none
          ∧ t.rd CL_TEST.TEST_STAT_RESULT = (if (bad.filter (fun x => decide (x < 256))).eraseDups = [] then 1 else 2)
          ∧ t = { s with links := t.links, regs := t.regs }))

/-- Guest requests (R207, R208, R212), responses and timeouts (R222 to R224), credits (R205) and completions (R215, R216). -/
def Obligations.ClaspGuestTraffic : Prop :=
  (∀ (h : PktHead) (addr len tag : Nat) (s : State),
    s.linkUp 3 = true ∧ s.part = .pmx7241 ∧ h.crcOk = true ∧ h.seq = (s.lnk 3).rxSeq ∧ (s.lnk 3).rxSince < 63 ∧ h.listed = true →
    len ≤ s.guest.maxPkt ∧ len % 4 = 0 ∧ 1 ≤ s.guest.hisReq ∧ (s.lnk 3).unacked = [] ∧ s.gmapHolds addr len false = true ∧ s.rd (storeOf addr).1 = 0 →
    s.guest.waiting = [] ∧ 1 ≤ s.guest.credCpl ∧ dataCredits (s.dpaRead addr len).length ≤ s.guest.credData →
    leaves (.rdReq h addr len tag) s (fun t =>
          t.guest.credCpl = s.guest.credCpl - 1 ∧ t.guest.credData = s.guest.credData - dataCredits (s.dpaRead addr len).length
          ∧ t.guest.hisReq = s.guest.hisReq - 1 ∧ t.guest.owed = (s.guest.owed.1 + 1, s.guest.owed.2.1, s.guest.owed.2.2)
          ∧ t.out = s.out ++ [.link 3 (.cplData tag 0 (s.dpaRead addr len)) (s.lnk 3).txSeq (t.ackSeq 3) (s.on (CL.INJ_CRC 3))]
          ∧ (t.lnk 3).unacked = [((s.lnk 3).txSeq, .cplData tag 0 (s.dpaRead addr len))]
          ∧ sameMemory s t ∧ t = { s with links := t.links, regs := t.regs, out := t.out, guest := t.guest })) ∧
  (∀ (h : PktHead) (addr len tag : Nat) (s : State),
    s.linkUp 3 = true ∧ s.part = .pmx7241 ∧ h.crcOk = true ∧ h.seq = (s.lnk 3).rxSeq ∧ (s.lnk 3).rxSince < 63 ∧ h.listed = true →
    len ≤ s.guest.maxPkt ∧ len % 4 = 0 ∧ 1 ≤ s.guest.hisReq ∧ (s.lnk 3).unacked = [] ∧ s.gmapHolds addr len false = true ∧ s.rd (storeOf addr).1 = 0 →
    s.guest.credCpl = 0 →
    leaves (.rdReq h addr len tag) s (fun t => t.out = s.out
          ∧ t.guest.waiting = s.guest.waiting ++ [.cplData tag 0 (s.dpaRead addr len)]
          ∧ sameMemory s t ∧ t = { s with links := t.links, regs := t.regs, guest := t.guest })) ∧
  (∀ (h : PktHead) (addr len tag : Nat) (s : State),
    s.linkUp 3 = true ∧ s.part = .pmx7241 ∧ h.crcOk = true ∧ h.seq = (s.lnk 3).rxSeq ∧ (s.lnk 3).rxSince < 63 ∧ h.listed = true →
    len ≤ s.guest.maxPkt ∧ len % 4 = 0 ∧ 1 ≤ s.guest.hisReq ∧ (s.lnk 3).unacked = [] ∧ s.gmapHolds addr len false = false →
    s.guest.waiting = [] ∧ 1 ≤ s.guest.credCpl →
    leaves (.rdReq h addr len tag) s (fun t =>
          t.out = s.out ++ [.link 3 (.cplData tag 1 []) (s.lnk 3).txSeq (t.ackSeq 3) (s.on (CL.INJ_CRC 3))]
          ∧ t.rd (CL.WIN_ERR_CNT 3) = satBits 32 (s.rd (CL.WIN_ERR_CNT 3) + 1) ∧ sameMemory s t)) ∧
  (∀ (h : PktHead) (addr tag : Nat) (data : List Byte) (s : State),
    s.linkUp 3 = true ∧ s.part = .pmx7241 ∧ h.crcOk = true ∧ h.seq = (s.lnk 3).rxSeq ∧ (s.lnk 3).rxSince < 63 ∧ h.listed = true →
    data.length ≤ s.guest.maxPkt ∧ data.length % 4 = 0 ∧ 1 ≤ s.guest.hisReq ∧ dataCredits data.length ≤ s.guest.hisData →
    s.gmapHolds addr data.length true = true ∧ (s.lnk 3).unacked = [] ∧ s.guest.waiting = [] ∧ 1 ≤ s.guest.credCpl →
    leaves (.wrReq h addr tag data) s (fun t => t.dpaRead addr data.length = data ∧ sameMemoryBut addr data.length s t
          ∧ t.out = s.out ++ [.link 3 (.cpl tag 0) (s.lnk 3).txSeq (t.ackSeq 3) (s.on (CL.INJ_CRC 3))])
        ∧ leaves (.wrPosted h addr data) s (fun t => t.dpaRead addr data.length = data ∧ sameMemoryBut addr data.length s t
          ∧ t.out = s.out)) ∧
  (∀ (h : PktHead) (addr tag : Nat) (data : List Byte) (s : State),
    s.linkUp 3 = true ∧ s.part = .pmx7241 ∧ h.crcOk = true ∧ h.seq = (s.lnk 3).rxSeq ∧ (s.lnk 3).rxSince < 63 ∧ h.listed = true →
    data.length ≤ s.guest.maxPkt ∧ data.length % 4 = 0 ∧ 1 ≤ s.guest.hisReq ∧ dataCredits data.length ≤ s.guest.hisData →
    s.gmapHolds addr data.length true = false ∧ (s.lnk 3).unacked = [] ∧ s.guest.waiting = [] ∧ 1 ≤ s.guest.credCpl →
    leaves (.wrReq h addr tag data) s (fun t => sameMemory s t
          ∧ t.out = s.out ++ [.link 3 (.cpl tag 1) (s.lnk 3).txSeq (t.ackSeq 3) (s.on (CL.INJ_CRC 3))])
        ∧ leaves (.wrPosted h addr data) s (fun t => sameMemory s t
            ∧ t.rd (CL.WIN_ERR_CNT 3) = satBits 32 (s.rd (CL.WIN_ERR_CNT 3) + 1))) ∧
  (∀ (h : PktHead) (addr tag : Nat) (data : List Byte) (s : State),
    s.linkUp 3 = true ∧ s.part = .pmx7241 ∧ h.crcOk = true ∧ h.seq = (s.lnk 3).rxSeq ∧ (s.lnk 3).rxSince < 63 →
    (s.lnk 3).unacked = [] ∧ (h.listed = false ∨ s.guest.hisReq = 0 ∨ s.guest.hisData < dataCredits data.length) →
    leaves (.wrReq h addr tag data) s (fun t => t.rd (CL.PROTO_ERR_CNT 3) = satBits 32 (s.rd (CL.PROTO_ERR_CNT 3) + 1)
          ∧ t.guest = s.guest ∧ t = { s with links := t.links, regs := t.regs })) ∧
  (∀ (l : Nat) (tag : CplTag) (status : Nat) (data : List Byte) (x : Txn) (s : State),
    s.linkUsable l = true ∧ s.linkUp l = true ∧ s.on (CL.INJ_RSP_DROP l) = false ∧ s.isGuestLink l = false →
    (s.lnk l).txns.find? (fun y => y.tag == tag.tag) = some x ∧ ((x.rid = none ∧ x.fetch = none) ∨ (x.fetch = none ∧ status = 0)) →
    s.on (CL.LINK_CFG_MODE l) = false →
    exec (.wrCpl l tag status) s = .next ((s.setLnk l
            { s.lnk l with txns := (s.lnk l).txns.filter (fun y => y.tag != tag.tag) }).dmaAnswer x tag.tag [])
        ∧ exec (.rdCpl l tag status data) s = .next ((s.setLnk l
            { s.lnk l with txns := (s.lnk l).txns.filter (fun y => y.tag != tag.tag) }).dmaAnswer x tag.tag data)) ∧
  (∀ (l : Nat) (tag : CplTag) (status : Nat) (data : List Byte) (s : State),
    s.linkUsable l = true ∧ s.linkUp l = true ∧ s.on (CL.INJ_RSP_DROP l) = false ∧ s.isGuestLink l = false →
    (s.lnk l).txns.find? (fun y => y.tag == tag.tag) = none ∧ s.on (CL.LINK_CFG_MODE l) = false ∧ (s.lnk l).timedOut.contains tag.tag = true →
    exec (.wrCpl l tag status) s = .next ((s.setLnk l { s.lnk l with timedOut := (s.lnk l).timedOut.filter (fun x => x != tag.tag) }).inc (CL.LATE_RSP_CNT l))
        ∧ exec (.rdCpl l tag status data) s = exec (.wrCpl l tag status) s) ∧
  (∀ (l : Nat) (tag : CplTag) (status : Nat) (data : List Byte) (s : State),
    s.linkUsable l = true ∧ s.linkUp l = true ∧ s.on (CL.INJ_RSP_DROP l) = false ∧ s.isGuestLink l = false →
    (s.lnk l).txns.find? (fun y => y.tag == tag.tag) = none ∧ s.on (CL.LINK_CFG_MODE l) = false ∧ (s.lnk l).timedOut.contains tag.tag = false →
    exec (.wrCpl l tag status) s = .next s ∧ exec (.rdCpl l tag status data) s = .next s) ∧
  (∀ (tag : CplTag) (data : List Byte) (x : Txn) (fid : Nat) (s : State),
    s.part = .pmx7241 ∧ s.linkUp 3 = true ∧ s.on (CL.INJ_RSP_DROP 3) = false ∧ (s.lnk 3).unacked = [] →
    tag.head.crcOk = true ∧ tag.head.listed = true ∧ tag.head.seq = (s.lnk 3).rxSeq ∧ (s.lnk 3).rxSince < 63 →
    data.length ≤ s.guest.maxPkt ∧ data.length % 4 = 0 ∧ 1 ≤ s.guest.hisCpl ∧ dataCredits data.length ≤ s.guest.hisData →
    (s.lnk 3).txns.find? (fun y => y.tag == tag.tag) = some x ∧ x.rid = none ∧ x.fetch = some fid →
    leaves (.rdCpl 3 tag 0 data) s (fun t => (t.lnk 3).txns = (s.lnk 3).txns.filter (fun y => y.tag != tag.tag)
          ∧ t.ck.fetches = mapModify (fun f => f.withPart tag.tag data) s.ck.fetches fid
          ∧ t.guest.hisCpl = s.guest.hisCpl - 1 ∧ sameMemory s t)) ∧
  (∀ (req cpl data : Nat) (s : State),
    s.guest.accepted = true ∧ s.guest.waiting = [] →
    leaves (.credit req cpl data) s (fun t =>
          t.guest.credReq = s.guest.credReq + (req + 65536 - s.guest.retReq) % 65536 ∧ t.guest.retReq = req % 65536
          ∧ t.guest.credCpl = s.guest.credCpl + (cpl + 65536 - s.guest.retCpl) % 65536 ∧ t.guest.retCpl = cpl % 65536
          ∧ t.guest.credData = s.guest.credData + (data + 65536 - s.guest.retData) % 65536 ∧ t.guest.retData = data % 65536
          ∧ t = { s with guest := t.guest })) ∧
  (∀ (tag : Nat) (s : State),
    s.guest.accepted = true ∧ s.guest.waiting = [.cpl tag 0] ∧ s.guest.credCpl = 0 ∧ s.guest.retCpl = 0 ∧ s.txRoom 3 = true →
    s.guest.retReq < 65536 ∧ s.guest.retData < 65536 →
    leaves (.credit s.guest.retReq 1 s.guest.retData) s (fun t =>
          t.out = s.out ++ [.link 3 (.cpl tag 0) (s.lnk 3).txSeq (s.ackSeq 3) (s.on (CL.INJ_CRC 3))]
          ∧ t.guest.waiting = [] ∧ t.guest.credCpl = 0 ∧ t.guest.retCpl = 1)) ∧
  (∀ (l tag : Nat) (s : State),
    leaves (.txnTimeoutExpiry l tag) s (fun t =>
          (t.lnk l).txns = (s.lnk l).txns.map (fun x =>
            if x.tag = tag ∧ x.expired = none ∧ x.issue + s.txnTimeout l ≤ s.tick then { x with expired := some s.tick } else x)
          ∧ t = { s with links := t.links })) ∧
  (∀ (l tag : Nat) (x : Txn) (s : State),
    (s.lnk l).txns.find? (fun y => y.tag == tag && y.expired.any (fun e => decide (e < s.tick))) = some x ∧ (s.lnk l).upLast = true →
    s.rd (CL.LINK_STAT_STATE l) ≠ lsFatal ∧ x.rid = none ∧ x.fetch = none ∧ l < 8 →
    leaves (.linkTimeout l tag) s (fun t => (t.lnk l).txns = (s.lnk l).txns.filter (fun y => y.tag != tag)
          ∧ t.rd (CL.TIMEOUT_CNT l) = satBits 32 (s.rd (CL.TIMEOUT_CNT l) + s.timesOut x) ∧ sameMemory s t)) ∧
  (∀ (l tag : Nat) (s : State),
    (∀ x ∈ (s.lnk l).txns, x.tag = tag → x.expired = none ∨ x.expired = some s.tick) →
    exec (.linkTimeout l tag) s = .next s) ∧
  (∀ (m : GuestMsg) (outcome cause fin start : Nat) (s : State),
    s.linkUp 3 = true ∧ s.part = .pmx7241 ∧ m.head.crcOk = true ∧ m.head.seq = (s.lnk 3).rxSeq ∧ (s.lnk 3).rxSince < 63 →
    m.head.listed = true ∧ m.len ≤ s.guest.maxPkt ∧ m.len % 4 = 0 ∧ 1 ≤ s.guest.hisReq ∧ dataCredits m.len ≤ s.guest.hisData →
    (s.lnk 3).unacked = [] ∧ (guestComplete m = false ∨ s.guest.work.find? (fun e => e.tag == m.tag) = none) →
    leaves (.complete m outcome cause fin start) s (fun t =>
          t.rd (CL.PROTO_ERR_CNT 3) = satBits 32 (s.rd (CL.PROTO_ERR_CNT 3) + 1)
          ∧ t.guest.work = s.guest.work ∧ t.guest.hisReq = s.guest.hisReq - 1
          ∧ t = { s with links := t.links, regs := t.regs, guest := t.guest })) ∧
  (∀ (m : GuestMsg) (outcome cause fin start : Nat) (e : GuestEntry) (s : State),
    s.linkUp 3 = true ∧ s.part = .pmx7241 ∧ m.head.crcOk = true ∧ m.head.seq = (s.lnk 3).rxSeq ∧ (s.lnk 3).rxSince < 63 →
    m.head.listed = true ∧ m.kind = 0x02 ∧ m.len = 40 ∧ 40 ≤ s.guest.maxPkt ∧ 1 ≤ s.guest.hisReq ∧ 1 ≤ s.guest.hisData →
    (s.lnk 3).unacked = [] ∧ s.guest.work.find? (fun x => x.tag == m.tag) = some e ∧ e.cancelled = true →
    leaves (.complete m outcome cause fin start) s (fun t => t.guest.work = s.guest.work.filter (fun x => x.tag != m.tag)
          ∧ t = { s with links := t.links, regs := t.regs, guest := t.guest })) ∧
  (∀ (m : GuestMsg) (outcome cause fin start : Nat) (e : GuestEntry) (r : Req) (s : State),
    s.linkUp 3 = true ∧ s.part = .pmx7241 ∧ m.head.crcOk = true ∧ m.head.seq = (s.lnk 3).rxSeq ∧ (s.lnk 3).rxSince < 63 →
    m.head.listed = true ∧ m.kind = 0x02 ∧ m.len = 40 ∧ 40 ≤ s.guest.maxPkt ∧ 1 ≤ s.guest.hisReq ∧ 1 ≤ s.guest.hisData →
    (s.lnk 3).unacked = [] ∧ s.guest.work.find? (fun x => x.tag == m.tag) = some e ∧ e.cancelled = false ∧ s.req e.rid = some r →
    r.ends = none →
    leaves (.complete m outcome cause fin start) s (fun t => t.guest.work = s.guest.work.filter (fun x => x.tag != m.tag)
          ∧ mapFind t.sch.reqs e.rid
            = (let taken : Bool := outcome = ocDone ∨ outcome = ocNumericNan ∨ outcome = ocZeroPivot ∨ outcome = ocFaultDetected
               let ok := guestTicksOk s.guestSync fin start s.tick e.disp
               let last := if ok then fin else s.tick
               some { r with
                 start := some (if ok then fin - start else e.sent.getD e.disp)
                 ends := some {
                   rep := none, endTick := some last, cause := if taken then cause else 0xFF
                   outcome := if outcome = ocDone then finalOutcome r.cls r.deadline last r.overload
                     else if taken then outcome else ocFaultDetected } })))

/-! ### Requests and the Casket -/

/-- A request ends with its record (R17, R292 to R294, Table WK-3). -/
def Obligations.RequestsEndOnceWithARecord : Prop :=
  (∀ (rid outcome cause : Nat) (r : Req) (s : State),
    s.req rid = some r ∧ r.ends = none →
    let t := s.endReq rid outcome cause;
        (outcome ≠ ocDeadlineMissed → t.req rid = none) ∧ mapFind t.sch.reqs rid = some { r with ends := some { rep := none, outcome := outcome, cause := cause, endTick := none } }
        ∧ t = { s with sch := t.sch } ∧ ∀ e : Nat, e ≠ rid → t.req e = s.req e) ∧
  (∀ (rid outcome cause : Nat) (r : Req) (o : Ending) (s : State),
    mapFind s.sch.reqs rid = some r ∧ r.ends = some o →
    let t := s.endReq rid outcome cause;
        mapFind t.sch.reqs rid = some { r with ends := some (if o.outcome / 256 < outcome / 256
              ∨ (o.outcome / 256 = outcome / 256 ∧ outcome < o.outcome) then
            { rep := none, outcome := outcome, cause := cause, endTick := none } else o) }
        ∧ t = { s with sch := t.sch }) ∧
  (∀ (rid : Nat) (r : Req) (o : Ending) (s : State),
    mapFind s.sch.reqs rid = some r ∧ r.ends = some o ∧ r.held = [] ∧ r.est = [] ∧ r.ws < 64 ∧ s.on (WS.CPL_CFG_LOC r.ws) = false →
    s.ck.reshard = [] ∧ inCasket (s.recordAt r.ws) 32 = true ∧ s.inGrant r.ws (s.recordAt r.ws) 32 false = true →
    let t := s.finish rid;
        t.sch.reqs = mapErase s.sch.reqs rid
        ∧ t.dpaRead (s.recordAt r.ws) 32 = (reqRecord r o.outcome o.cause (o.endTick.getD s.tick)).bytes
        ∧ sameMemoryBut (s.recordAt r.ws) 32 s t
        ∧ t.rd (WS.CPL_WR_IDX r.ws) = (s.rd (WS.CPL_WR_IDX r.ws) + 1) % s.cplSize r.ws
        ∧ (t.rd (HDR.IRQ_STAT (pgWs r.ws))).testBit 0 = true) ∧
  (∀ (rid outcome cause : Nat) (s : State),
    mapFind s.sch.reqs rid = none →
    s.endReq rid outcome cause = s)

/-- Installing a tile (R244, R266, R270), a failing tier (R267, R268) and a late one (R266, R269). -/
def Obligations.TilesAreInstalledOrRefused : Prop :=
  (∀ (fetch a : Nat) (f : Fetch) (o : Obj) (data : List Byte) (s : State),
    mapFind s.ck.fetches fetch = some f ∧ f.dest = some a ∧ f.lent = false ∧ regionOf s.part f.src = .host →
    inCasket a 1 = true ∧ s.objOf f.ws f.obj = some o ∧ placeReadOnly o.place = false →
    installOk s.tileCheckOn (padTo tileSize data) = true →
    leaves (.tileInstall fetch data) s (fun t => t.dpaRead a tileSize = padTo tileSize data ∧ sameMemoryBut a tileSize s t
          ∧ t.ck.fetches = mapErase s.ck.fetches fetch
          ∧ (∀ e, mapFind s.ck.slots a = some e → e.holders ≠ [] → mapFind t.ck.slots a = some { e with age := s.tick })
          ∧ (f.waits.all (fun w => decide (s.tick < w.2 + s.lateLimit f.tier)) = true → t.sch = s.sch))) ∧
  (∀ (fetch a : Nat) (f : Fetch) (data : List Byte) (s : State),
    mapFind s.ck.fetches fetch = some f ∧ f.dest = some a ∧ regionOf s.part f.src = .host →
    installOk s.tileCheckOn (padTo tileSize data) = false →
    exec (.tileInstall fetch data) s = .next ((s.inc CK_CTRL.CHECK_ERR_CNT).failCheck fetch ocTierFailed none)) ∧
  (∀ (fetch : Nat) (st : BusStatus) (f : Fetch) (s : State),
    mapFind s.ck.fetches fetch = some f ∧ ((st ≠ .ok ∧ 3 ≤ f.tier ∧ f.lent = false) ∨ s.sourceDead f.src = true) →
    exec (.tierFailed fetch st) s = .next (s.failFetch fetch ocTierFailed none)) ∧
  (∀ (fetch rid j : Nat) (f : Fetch) (s : State),
    mapFind s.ck.fetches fetch = some f ∧ f.waits = [(rid, j)] ∧ s.mergeInput rid f = none →
    (s.failFetch fetch ocTierFailed none).ck.fetches.all (fun e => decide (e.1 ≠ fetch)) = true
        ∧ (s.failFetch fetch ocTierFailed none).req rid = none) ∧
  (∀ (rid fetch j : Nat) (f : Fetch) (r : Req) (s : State),
    mapFind s.ck.fetches fetch = some f ∧ mapFind s.sch.reqs rid = some r ∧ (r.phase ≠ .waiting ∨ r.op = opLoadPlan) →
    f.waits.find? (fun w => w.1 == rid) = some (rid, j) ∧ j + s.lateLimit f.tier ≤ s.tick →
    exec (.tierLate rid fetch) s = .next (s.endReq rid ocTierLate 0)) ∧
  (∀ (rid fetch : Nat) (r : Req) (s : State),
    mapFind s.sch.reqs rid = some r ∧ r.phase = .waiting ∧ r.op ≠ opLoadPlan →
    exec (.tierLate rid fetch) s = .next s) ∧
  (∀ (rid fetch j : Nat) (f : Fetch) (s : State),
    mapFind s.ck.fetches fetch = some f ∧ f.waits.find? (fun w => w.1 == rid) = some (rid, j) ∧ s.tick < j + s.lateLimit f.tier →
    exec (.tierLate rid fetch) s = .next s)

/-- Quotas (R256, R354), write-backs (R253, R254), lending and reclaim (R270 to R272, R570) and scrubbing (R627, Table CK-13). -/
def Obligations.QuotasLendingAndScrubbing : Prop :=
  (∀ (rq : Requester) (w value : Nat) (s : State),
    s.answers rq 0x019 ∧ w < 64 →
    (s.reached 0x019).quotaBad w 0 (bitsOf value 15 0) = false ∧ (s.reached 0x019).quotaBad w 1 (bitsOf value 31 16) = false →
    leaves (.quotaWrite rq w 0 value) s (fun t => t.rd (CK_QUOTA.QUOTA_T0 w) = bitsOf value 15 0
          ∧ t.rd (CK_QUOTA.QUOTA_T1 w) = bitsOf value 31 16 ∧ t.mem = s.mem ∧ t.sch = s.sch)) ∧
  (∀ (rq : Requester) (w value : Nat) (s : State),
    s.answers rq 0x019 ∧ w < 64 ∧ (s.reached 0x019).quotaBad w 2 (bitsOf value 23 0) = false →
    leaves (.quotaWrite rq w 1 value) s (fun t => t.rd (CK_QUOTA.QUOTA_T2 w) = bitsOf value 23 0
          ∧ t.rd (CK_QUOTA.PLACE_MODE w) = bitsOf value 24 24 ∧ t.mem = s.mem ∧ t.sch = s.sch)) ∧
  (∀ (rq : Requester) (w value : Nat) (s : State),
    s.answers rq 0x019 ∧ w < 64 ∧ ((s.reached 0x019).quotaBad w 0 (bitsOf value 15 0) = true ∨ (s.reached 0x019).quotaBad w 1 (bitsOf value 31 16) = true) →
    exec (.quotaWrite rq w 0 value) s = .next
          (((s.reached 0x019).setW1c CK_QUOTA.QUOTA_STAT_OVERCOMMIT 1).wr CK_QUOTA.QUOTA_STAT_WS w)) ∧
  (∀ (slot h : Nat) (e : Slot) (s : State),
    mapFind s.ck.slots slot = some e ∧ e.writeback = true ∧ s.homeAddr e.ws e.obj e.tile = some h →
    s.ck.fetches = [] ∧ s.sch.reqs = [] ∧ s.rd (storeOf slot).1 = 0 →
    leaves (.evictionWritebackDone slot) s (fun t => t.dpaRead h tileSize = s.dpaRead slot tileSize ∧ sameMemoryBut h tileSize s t
          ∧ mapFind t.ck.slots slot = none ∧ t.sch = s.sch)) ∧
  (∀ (slot rid : Nat) (borrow : Bool) (e : Slot) (r : Req) (s : State),
    mapFind s.ck.slots slot = some e ∧ e.writeback = true ∧ e.waiter = some (rid, borrow) →
    (s.writeHome slot).ck.fetches.any (fun f => decide (f.2.waitSlot = some slot)) = false ∧ (s.writeHome slot).req rid = some r →
    exec (.evictionWritebackDone slot) s = .next (((s.writeHome slot).putSlot slot
          { newSlot r.ws noObj 0 e.tier borrow true 0 (s.writeHome slot).tick [rid] with waiter := some (rid, borrow) }).retryWants.retryStores)) ∧
  (∀ (n : Nat) (s : State),
    n < 4 ∧ s.mayLend n = true →
    exec (.locketLend n) s = .next (s.putBit CK_TIER.LOCKET_LENT n true)) ∧
  (∀ (rq : Requester) (s : State),
    s.answers rq 0x018 →
    exec (.lendReclaim rq) s = .next
          (let t := ((s.reached 0x018).fab.peers.map (·.1)).foldl (fun t p => t.sendReclaim p) (s.reached 0x018)
           t.setFab { t.fab with recalled := some (t.fab.recalled.getD t.tick) })) ∧
  (∀ (p n : Nat) (s : State),
    mapFind s.ck.notices p = some n ∧ n + 5000 ≤ s.tick ∧ s.borrowState p = 2 ∧ p < 64 →
    leaves (.reclaimPeriodEnd p) s (fun t => t.borrowState p = 3 ∧ mapFind t.ck.notices p = none)) ∧
  (∀ (s : State),
    s.on CK_CTRL.SCRUB_CTRL_EN = true ∧ s.pm ≤ 1 ∧ s.clockOn 0x010 = true ∧ s.rd CK_CTRL.INJ_ECC = 0 ∧ ∀ f : Nat, f < 4 → s.rd (FCT3.INJ_ECC f) = 0 →
    exec .casketScrub s = .next (s.wr CK_CTRL.SCRUB_PASSES (s.rd CK_CTRL.SCRUB_PASSES + 1))) ∧
  (∀ (k : Nat) (s : State),
    k < 4 ∧ s.on (HBM.PATROL_CTRL_EN k) = true ∧ s.pm ≤ 1 ∧ s.clockOn (pgHbm k) = true ∧ s.rd (HBM.INJ_ECC k) = 0 →
    exec (.patrolScrub k) s = .next (s.wr (HBM.PATROL_PASSES k) (s.rd (HBM.PATROL_PASSES k) + 1)))

/-! ### Workspaces and the scheduler -/

/-- Doorbells (R283, R287, R291, R295), cancels (R288), shares (R284, R296) and moderation (R319). -/
def Obligations.DoorbellsCancelsSharesAndModeration : Prop :=
  (∀ (rq : Requester) (w r tail : Nat) (s : State),
    w < 64 ∧ r < 4 ∧ rqReaches rq (pgWs w) = true ∧ s.booted = true ∧ s.leaveDoze.takesDoorbell w = true →
    (s.leaveDoze.on (WS.CPL_CFG_LOC w) = false ∨ s.leaveDoze.shadowOk w = true) ∧ tail < s.leaveDoze.ringSize w r →
    leaves (.doorbell rq w r tail) s (fun t => t.rd (WS.RING_TAIL w r) = tail
          ∧ t.rd (WS.RING_HEAD w r) = s.rd (WS.RING_HEAD w r) ∧ (mapFind t.evt.fired (64 + w / 4) ≠ none
            ∨ (mapFind s.bus.hot (regKey (pgWs w) (0x140 + 4 * r))).isSome = true) ∧ t.mem = s.mem ∧ t.blocks = s.blocks
          ∧ t.sch.reqs = s.sch.reqs)) ∧
  (∀ (rq : Requester) (w r tail : Nat) (s : State),
    w < 64 ∧ r < 4 ∧ rqReaches rq (pgWs w) = true ∧ s.booted = true ∧ s.leaveDoze.takesDoorbell w = true →
    s.leaveDoze.on (WS.CPL_CFG_LOC w) = false ∧ s.leaveDoze.ringSize w r ≤ tail ∧ tail < 4096 →
    exec (.doorbell rq w r tail) s = .next (s.leaveDoze.inc (WS.DB_ERR_CNT w))) ∧
  (∀ (rq : Requester) (w r tail : Nat) (s : State),
    w < 64 ∧ r < 4 ∧ rqReaches rq (pgWs w) = true ∧ s.booted = true ∧ s.leaveDoze.takesDoorbell w = false →
    exec (.doorbell rq w r tail) s = .next (s.leaveDoze.reject (pgWs w))) ∧
  (∀ (rq : Requester) (w r tail : Nat) (s : State),
    w < 64 ∧ r < 4 ∧ rqReaches rq (pgWs w) = true ∧ s.booted = true ∧ s.leaveDoze.takesDoorbell w = true →
    s.leaveDoze.on (WS.CPL_CFG_LOC w) = true ∧ s.leaveDoze.shadowOk w = false →
    exec (.doorbell rq w r tail) s = .next ((s.leaveDoze.reject (pgWs w)).setW1c (WS.CPL_STAT_SHADOW_BAD w) 1)) ∧
  (∀ (rq : Requester) (w rings : Nat) (s : State),
    w < 64 ∧ s.answers rq (pgWs w) →
    leaves (.cancel rq w rings) s (fun t => let u := s.leaveDoze.applyCancels
          (∀ r : Nat, r < 4 →
            mapFind t.sch.cancels (ringKey w r) = (if bit rings r = true then some u.tick else mapFind u.sch.cancels (ringKey w r)))
          ∧ t = { u with sch := { u.sch with cancels := t.sch.cancels } })) ∧
  (∀ (rq : Requester) (w c v : Nat) (s : State),
    w < 64 ∧ c < 4 ∧ s.answers rq (pgWs w) ∧ rqIsVf rq = false ∧ s.leaveDoze.shareTotal - s.leaveDoze.share w c + v % 1024 ≤ 1000 →
    leaves (.shareWrite rq w c v) s (fun t => t.share w c = v % 1024
          ∧ (∀ x : Nat, x < 64 → ∀ d : Nat, d < 4 → (x ≠ w ∨ d ≠ c) → t.share x d = s.share x d)
          ∧ t = { s.leaveDoze with regs := t.regs })) ∧
  (∀ (rq : Requester) (w c v : Nat) (s : State),
    w < 64 ∧ c < 4 ∧ s.answers rq (pgWs w) ∧ rqIsVf rq = false ∧ 1000 < s.leaveDoze.shareTotal - s.leaveDoze.share w c + v % 1024 →
    exec (.shareWrite rq w c v) s = .next
          ((s.leaveDoze.setW1c WK_SCHED.SHARE_STAT_OVERCOMMIT 1).wr WK_SCHED.SHARE_STAT_WS w)) ∧
  (∀ (n c v : Nat) (s : State),
    1 ≤ n ∧ n ≤ 63 ∧ c < 4 ∧ s.answers (.vf n) (pgWs n) →
    exec (.shareWrite (.vf n) n c v) s = .next (s.leaveDoze.blocked (pgWs n))) ∧
  (∀ (w u : Nat) (held : Bool) (s : State),
    mapFind s.sch.moder w = some (u, held) ∧ u ≤ s.tick →
    exec (.irqModerationExpiry w) s = .next
          (let e := s.setSch { s.sch with moder := mapErase s.sch.moder w }
           if held = true then e.cplIrq w else e))

/-- The admission of a tick (R285, R288, R297) and the decision on a head descriptor (R290, R294, R298, R304 to R307). -/
def Obligations.AdmissionOrderAndDecisions : Prop :=
  (∀ (w r : Nat) (d : Desc) (s : State),
    s.nextCandidate [] = some (w, r, d) →
    s.head w r = some d
        ∧ ∀ v q : Nat, v < 64 ∧ q < 4 → (s.head v q).all (fun e => !lexLt (s.candKey v q e) (s.candKey w r d)) = true) ∧
  (∀ (w r : Nat) (d : Desc) (s : State),
    s.sch.cancels = [] ∧ s.admitting = true ∧ s.nextCandidate [] = some (w, r, d) →
    exec .admission s = .next (State.admitLoop s.pendingAll (if (s.decideHead w r d).1 = true then [ringKey w r] else [])
          (s.decideHead w r d).2)) ∧
  (∀ (s : State),
    s.sch.cancels = [] ∧ s.nextCandidate [] = none →
    exec .admission s = .next s) ∧
  (∀ (w r a n : Nat) (s : State),
    s.sch.cancels = [(ringKey w r, a)] ∧ r < 4 ∧ a < s.tick ∧ s.admitting = false →
    n = ((s.submits w r).filter (fun x => decide (x ≤ a))).length ∧ n ≠ 0 →
    leaves .admission s (fun t => t.sch.cancels = [] ∧ t.submits w r = (s.submits w r).drop n
          ∧ t.rd (WS.RING_HEAD w r) = (s.rd (WS.RING_HEAD w r) + n) % s.ringSize w r
          ∧ t.rd (WS.WITHDRAWN w) = satBits 32 (s.rd (WS.WITHDRAWN w) + n) ∧ t = { s with sch := t.sch, regs := t.regs })) ∧
  (∀ (w r : Nat) (d : Desc) (s : State),
    s.cplFree w = 0 →
    s.decideHead w r d = (true, (s.setW1c (WS.CPL_STAT_FULL w) 1).raiseIrq (pgWs w) 2)) ∧
  (∀ (w r q : Nat) (d : Desc) (t s : State),
    s.cplFree w ≠ 0 ∧ s.fetchHead w r d = (some q, t) →
    s.decideHead w r d = (false, t.endAtOnce w r d (s.submitOf w r) ocFaultDetected 0 [])) ∧
  (∀ (w r : Nat) (d : Desc) (t s : State),
    s.cplFree w ≠ 0 ∧ s.fetchHead w r d = (none, t) ∧ t.devFaulted = true →
    s.decideHead w r d = (false, t.endAtOnce w r d (s.submitOf w r) ocFaultDetected 0 [])) ∧
  (∀ (w r : Nat) (d : Desc) (t s : State),
    s.cplFree w ≠ 0 ∧ s.fetchHead w r d = (none, t) ∧ t.devFaulted = false ∧ t.malformed w d = true ∧ t.badRsd w d = none →
    s.decideHead w r d = (false, t.endAtOnce w r d (s.submitOf w r) ocTierFailed 1 [])) ∧
  (∀ (w r u : Nat) (d : Desc) (t v s : State),
    s.cplFree w ≠ 0 ∧ s.fetchHead w r d = (none, t) ∧ t.devFaulted = false ∧ t.malformed w d = false ∧ t.headIds w d = v →
    ((unitClaims (t.claimsOf w d)).map (·.1)).find? v.unitOut = some u →
    s.decideHead w r d = (false, v.endAtOnce w r d (s.submitOf w r) ocUnitOffline (v.unitOutCause u) ((unitClaims (t.claimsOf w d)).map (·.1)))) ∧
  (∀ (w r : Nat) (d : Desc) (t s : State),
    s.cplFree w ≠ 0 ∧ s.fetchHead w r d = (none, t) ∧ t.devFaulted = false ∧ t.malformed w d = false ∧ ((unitClaims (t.claimsOf w d)).map (·.1)).any t.unitOut = false ∧ d.op ≠ opRun →
    (unitClaims (t.claimsOf w d)).any (fun e => decide (t.capacity e.1 < t.scaled e.1 e.2)) = true →
    s.decideHead w r d = (false, t.endAtOnce w r d (s.submitOf w r) ocRefusedCapacity 0 ((unitClaims (t.claimsOf w d)).map (·.1)))) ∧
  (∀ (w r : Nat) (d : Desc) (t s : State),
    s.cplFree w ≠ 0 ∧ s.fetchHead w r d = (none, t) ∧ t.devFaulted = false ∧ t.malformed w d = false ∧ ((unitClaims (t.claimsOf w d)).map (·.1)).any t.unitOut = false ∧ d.op ≠ opRun →
    (unitClaims (t.claimsOf w d)).any (fun e => decide (t.capacity e.1 < t.scaled e.1 e.2)) = false →
    d.cls = 0 ∧ d.deadline < t.tick →
    s.decideHead w r d = (false, t.endAtOnce w r d (s.submitOf w r) ocDeadlineMissed 0 ((unitClaims (t.claimsOf w d)).map (·.1)))) ∧
  (∀ (w r : Nat) (d : Desc) (t s : State),
    s.cplFree w ≠ 0 ∧ s.fetchHead w r d = (none, t) ∧ t.devFaulted = false ∧ t.malformed w d = false ∧ ((unitClaims (t.claimsOf w d)).map (·.1)).any t.unitOut = false ∧ d.op ≠ opRun ∧ ¬(d.cls = 0 ∧ d.deadline < t.tick) →
    t.inShare w d = true →
    s.decideHead w r d = (false, t.takeIn w r d (s.submitOf w r) false)) ∧
  (∀ (w r : Nat) (d : Desc) (t s : State),
    s.cplFree w ≠ 0 ∧ s.fetchHead w r d = (none, t) ∧ t.devFaulted = false ∧ t.malformed w d = false ∧ ((unitClaims (t.claimsOf w d)).map (·.1)).any t.unitOut = false ∧ d.op ≠ opRun ∧ ¬(d.cls = 0 ∧ d.deadline < t.tick) ∧ t.inShare w d = false →
    (unitClaims (t.claimsOf w d)).any (fun e => decide (t.capacity e.1 < t.scaled e.1 e.2)) = false →
    (unitClaims (t.claimsOf w d)).all (fun e => decide (t.claimAll e.1 + t.scaled e.1 e.2 ≤ t.capacity e.1)) = true →
    s.decideHead w r d = (false, t.takeIn w r d (s.submitOf w r) true)) ∧
  (∀ (w r : Nat) (d : Desc) (t s : State),
    s.cplFree w ≠ 0 ∧ s.fetchHead w r d = (none, t) ∧ t.devFaulted = false ∧ t.malformed w d = false ∧ ((unitClaims (t.claimsOf w d)).map (·.1)).any t.unitOut = false ∧ d.op ≠ opRun ∧ ¬(d.cls = 0 ∧ d.deadline < t.tick) ∧ t.inShare w d = false →
    (unitClaims (t.claimsOf w d)).any (fun e => decide (t.capacity e.1 < t.scaled e.1 e.2)) = false →
    (unitClaims (t.claimsOf w d)).all (fun e => decide (t.claimAll e.1 + t.scaled e.1 e.2 ≤ t.capacity e.1)) = false →
    d.cls = 0 →
    s.decideHead w r d = (false, ((((unitClaims (t.claimsOf w d)).filterMap (fun e => t.frameVictim d.deadline e.1)).foldl
        (fun q v => q.preempt v true) t).takeIn w r d (s.submitOf w r) false))) ∧
  (∀ (w r : Nat) (d : Desc) (t s : State),
    s.cplFree w ≠ 0 ∧ s.fetchHead w r d = (none, t) ∧ t.devFaulted = false ∧ t.malformed w d = false ∧ ((unitClaims (t.claimsOf w d)).map (·.1)).any t.unitOut = false ∧ d.op ≠ opRun ∧ ¬(d.cls = 0 ∧ d.deadline < t.tick) ∧ t.inShare w d = false →
    (unitClaims (t.claimsOf w d)).any (fun e => decide (t.capacity e.1 < t.scaled e.1 e.2)) = false →
    (unitClaims (t.claimsOf w d)).all (fun e => decide (t.claimAll e.1 + t.scaled e.1 e.2 ≤ t.capacity e.1)) = false →
    d.cls = 1 ∨ (d.cls = 2 ∧ t.rd WK_SCHED.LEARN_MAX_AGE ≠ 0 ∧ t.tick - s.submitOf w r ≤ t.rd WK_SCHED.LEARN_MAX_AGE) →
    s.decideHead w r d = (true, t.holdOver w r)) ∧
  (∀ (w r : Nat) (d : Desc) (t s : State),
    s.cplFree w ≠ 0 ∧ s.fetchHead w r d = (none, t) ∧ t.devFaulted = false ∧ t.malformed w d = false ∧ ((unitClaims (t.claimsOf w d)).map (·.1)).any t.unitOut = false ∧ d.op ≠ opRun ∧ ¬(d.cls = 0 ∧ d.deadline < t.tick) ∧ t.inShare w d = false →
    (unitClaims (t.claimsOf w d)).any (fun e => decide (t.capacity e.1 < t.scaled e.1 e.2)) = false →
    (unitClaims (t.claimsOf w d)).all (fun e => decide (t.claimAll e.1 + t.scaled e.1 e.2 ≤ t.capacity e.1)) = false →
    d.cls = 3 ∨ (d.cls = 2 ∧ (t.rd WK_SCHED.LEARN_MAX_AGE = 0 ∨ t.rd WK_SCHED.LEARN_MAX_AGE < t.tick - s.submitOf w r)) →
    s.decideHead w r d = (false, t.endAtOnce w r d (s.submitOf w r) ocRefusedClass 0 ((unitClaims (t.claimsOf w d)).map (·.1))))

/-- The eight descriptors (Table WK-2): admitted (R288, R298), and their effects (R246, R247, R292, R293, R351, R580, R665). -/
def Obligations.DescriptorsTakeEffect : Prop :=
  (∀ (w r : Nat) (d : Desc) (u s : State),
    s.decides w r d u ∧ d.op = opNop ∧ u.inShare w d = true →
    exec (.nop w r) s = .next (u.takeIn w r d (s.submitOf w r) false)) ∧
  (∀ (w r : Nat) (d : Desc) (u s : State),
    s.decides w r d u ∧ d.op = opRun ∧ u.inShare w d = true ∧ (match u.planOf w d.planId with | some p => u.fencedWriter w (u.nameOf w d.addr d.objA 1) p.plan | none => none) = none →
    exec (.run w r) s = .next (u.takeIn w r d (s.submitOf w r) false)) ∧
  (∀ (w r : Nat) (d : Desc) (u s : State),
    s.decides w r d u ∧ d.op = opAlloc ∧ u.inShare w d = true →
    exec (.alloc w r) s = .next (u.takeIn w r d (s.submitOf w r) false)) ∧
  (∀ (w r : Nat) (d : Desc) (u s : State),
    s.decides w r d u ∧ d.op = opFree ∧ u.inShare w d = true →
    exec (.free w r) s = .next (u.takeIn w r d (s.submitOf w r) false)) ∧
  (∀ (w r : Nat) (d : Desc) (u s : State),
    s.decides w r d u ∧ d.op = opLoadPlan ∧ u.inShare w d = true →
    exec (.loadPlan w r) s = .next (u.takeIn w r d (s.submitOf w r) false)) ∧
  (∀ (w r : Nat) (d : Desc) (u s : State),
    s.decides w r d u ∧ d.op = opDmaIn ∧ u.inShare w d = true →
    exec (.dmaIn w r) s = .next (u.takeIn w r d (s.submitOf w r) false)) ∧
  (∀ (w r : Nat) (d : Desc) (u s : State),
    s.decides w r d u ∧ d.op = opDmaOut ∧ u.inShare w d = true →
    exec (.dmaOut w r) s = .next (u.takeIn w r d (s.submitOf w r) false)) ∧
  (∀ (w r : Nat) (d : Desc) (u s : State),
    s.decides w r d u ∧ d.op = opFlush ∧ u.inShare w d = true →
    exec (.flush w r) s = .next (u.takeIn w r d (s.submitOf w r) false)) ∧
  (∀ (w r : Nat) (d : Desc) (u s : State),
    s.decides w r d u ∧ d.op = opNop ∧ w < 64 ∧ r < 4 ∧ s.on (WS.CPL_CFG_LOC w) = false ∧ s.ck.reshard = [] →
    inCasket (s.recordAt w) 32 = true ∧ s.inGrant w (s.recordAt w) 32 false = true →
    leaves (.nop w r) s (fun t => t.rd (WS.RING_HEAD w r) = (s.rd (WS.RING_HEAD w r) + 1) % s.ringSize w r
          ∧ t.submits w r = (s.submits w r).drop 1 ∧ t.rd (WK_SCHED.ADMIT_CNT d.cls) = satBits 32 (s.rd (WK_SCHED.ADMIT_CNT d.cls) + 1)
          ∧ t.req s.sch.nextRid = none
          ∧ fieldAt (t.dpaRead (s.recordAt w) 32) 0 2 = finalOutcome d.cls d.due s.tick (s.sch.overloaded.contains (ringKey w r))
          ∧ fieldAt (t.dpaRead (s.recordAt w) 32) 2 2 = d.tag % 65536 ∧ fieldAt (t.dpaRead (s.recordAt w) 32) 8 8 = s.tick % 2 ^ 64
          ∧ sameMemoryBut (s.recordAt w) 32 s t)) ∧
  (∀ (w r : Nat) (d : Desc) (u s : State),
    s.decides w r d u ∧ d.op = opRun ∧ u.inShare w d = true ∧ unitClaims (u.claimsOf w d) ≠ [] ∧ s.gsesOut = [] ∧ (match u.planOf w d.planId with | some p => u.fencedWriter w (u.nameOf w d.addr d.objA 1) p.plan | none => none) = none →
    leaves (.run w r) s (fun t => t.mem = s.mem ∧ t.sch.nextRid = s.sch.nextRid + 1
          ∧ (t.req s.sch.nextRid).map (fun q => (q.op, q.phase, q.tag, q.ws, q.ring))
              = some (d.op, RPhase.waiting, d.tag, w, r)
          ∧ (t.req s.sch.nextRid).map (fun q => (q.est, q.submit, q.admitTick, q.loan))
              = some (unitClaims (u.claimsOf w d), s.submitOf w r, s.tick, false)
          ∧ ∀ k ∈ s.sch.reqs, k.1 ≠ s.sch.nextRid → t.req k.1 = s.req k.1)) ∧
  (∀ (w r : Nat) (d : Desc) (u s : State),
    s.decides w r d u ∧ d.op = opDmaIn ∧ u.inShare w d = true ∧ unitClaims (u.claimsOf w d) ≠ [] →
    leaves (.dmaIn w r) s (fun t => t.mem = s.mem ∧ t.sch.nextRid = s.sch.nextRid + 1
          ∧ (t.req s.sch.nextRid).map (fun q => (q.op, q.phase, q.tag, q.ws, q.ring))
              = some (d.op, RPhase.waiting, d.tag, w, r)
          ∧ (t.req s.sch.nextRid).map (fun q => (q.est, q.submit, q.admitTick, q.loan))
              = some (unitClaims (u.claimsOf w d), s.submitOf w r, s.tick, false)
          ∧ ∀ k ∈ s.sch.reqs, k.1 ≠ s.sch.nextRid → t.req k.1 = s.req k.1)) ∧
  (∀ (w r : Nat) (d : Desc) (u s : State),
    s.decides w r d u ∧ d.op = opDmaOut ∧ u.inShare w d = true ∧ unitClaims (u.claimsOf w d) ≠ [] →
    leaves (.dmaOut w r) s (fun t => t.mem = s.mem ∧ t.sch.nextRid = s.sch.nextRid + 1
          ∧ (t.req s.sch.nextRid).map (fun q => (q.op, q.phase, q.tag, q.ws, q.ring))
              = some (d.op, RPhase.waiting, d.tag, w, r)
          ∧ (t.req s.sch.nextRid).map (fun q => (q.est, q.submit, q.admitTick, q.loan))
              = some (unitClaims (u.claimsOf w d), s.submitOf w r, s.tick, false)
          ∧ ∀ k ∈ s.sch.reqs, k.1 ≠ s.sch.nextRid → t.req k.1 = s.req k.1)) ∧
  (∀ (w r k : Nat) (d : Desc) (u s : State),
    s.decides w r d u ∧ d.op = opAlloc ∧ s.allocHome w d.place = some k ∧ 3 ≤ k ∧ placeKeep d.place = false →
    leaves (.alloc w r) s (fun t => t.req s.sch.nextRid = none ∧ (t.objOf w d.objA).map (fun o => (o.tiles, o.home, o.place, o.addrs))
          = some (d.count, k, d.place, (List.range d.count).map (fun i => d.objB + i * tileSize)))) ∧
  (∀ (w r : Nat) (d : Desc) (u s : State),
    s.decides w r d u ∧ d.op = opFree ∧ d.addr = false ∧ s.sch.reqs.all (fun e => !(decide (e.2.ws = w) && e.2.held.contains d.objA)) = true →
    leaves (.free w r) s (fun t => t.objOf w d.objA = none ∧ t.req s.sch.nextRid = none
          ∧ t.ck.slots.all (fun e => decide (e.2.ws ≠ w ∨ e.2.obj ≠ d.objA)) = true)) ∧
  (∀ (w r : Nat) (d : Desc) (u s : State),
    s.decides w r d u ∧ d.op = opLoadPlan ∧ d.objA = 0 →
    leaves (.loadPlan w r) s (fun t => t.planOf w d.planId = none ∧ t.req s.sch.nextRid = none)) ∧
  (∀ (w r a k : Nat) (d : Desc) (e : Slot) (u s : State),
    s.decides w r d u ∧ d.op = opFlush ∧ s.dirtyCopies w (s.nameOf w d.addr d.objA 1) = [a] ∧ mapFind s.ck.slots a = some e →
    s.homeAddr e.ws e.obj e.tile = some k ∧ k + tileSize ≤ hbmSize ∧ s.ck.reshard = [] ∧ hbmSize ≤ s.recordAt w →
    leaves (.flush w r) s (fun t => t.dpaRead k tileSize = s.dpaRead a tileSize ∧ t.req s.sch.nextRid = none
          ∧ (mapFind t.ck.slots a).map (·.dirty) = some false)) ∧
  (∀ (rid : Nat) (r : Req) (p : PlanSlot) (s : State),
    s.req rid = some r ∧ r.op = opLoadPlan ∧ r.slot = some p ∧ r.want = [] ∧ s.waits rid = false →
    exec (.modelLoadComplete rid) s = .next (((s.modReq rid (fun q => { q with slot := none, prior := none })).retirePlan r.ws r.planId
            r.prior).endReq rid (if p.streamed = true then ocModelStreamed else finalOutcome r.cls r.deadline s.tick r.overload) 0)
        ∧ leaves (.modelLoadComplete rid) s (fun t => t.planOf r.ws r.planId = s.planOf r.ws r.planId ∧ t.req rid = none))

/-- Dispatch (R299), preemption (R302, R303), and the ends of requests (R17, R308, R309, R330). -/
def Obligations.DispatchYieldsAndEnds : Prop :=
  (∀ (u rid : Nat) (r : Req) (s : State),
    s.firstWaiting (fun q => q.claims u && !q.loan) = none ∧ s.firstWaiting (fun q => q.claims u) = some (rid, r) →
    exec (.dispatch u) s = .next (if r.est.all (fun e => s.unitGiven rid e.1) = true then s.start rid r else s)) ∧
  (∀ (u rid k : Nat) (r q : Req) (s : State),
    s.firstWaiting (fun x => x.claims u) = some (rid, r) →
    s.req k = some q ∧ (k, q) ∈ s.sch.reqs ∧ q.phase = .waiting ∧ q.claims u = true →
    lexLt q.dispatchKey r.dispatchKey = false) ∧
  (∀ (u rid : Nat) (r : Req) (s : State),
    s.firstWaiting (fun q => q.claims u && !q.loan) = some (rid, r) →
    exec (.dispatch u) s = .next
          (let t := (mapKeys (fun _ q => decide (q.phase = .running) && q.loan && r.est.any (fun e => q.claims e.1 && !s.unitFree e.1)
                && !(decide (r.cls = 0) && decide (q.cls = 0) && decide (q.deadline ≤ r.deadline))) s.sch.reqs).foldl
              (fun t v => t.preempt v false) s
           match t.firstWaiting (fun q => q.claims u) with
           | none => t
           | some (k, q) => if q.est.all (fun e => t.unitFree e.1
               && (t.firstWaiting (fun x => x.claims e.1)).any (fun x => x.1 == k)) = true then t.start k q else t)) ∧
  (∀ (rid : Nat) (r : Req) (s : State),
    s.req rid = some r →
    let t := s.start rid r;
        (t.req rid).map (fun q => (q.phase, q.est, q.tag)) = some (.running, r.est, r.tag)
        ∧ (∀ p ∈ r.pages, s.bst p = .ready → t.bst p = .active) ∧ (∀ e ∈ s.sch.reqs, e.1 ≠ rid → (t.req e.1).map (fun q => { q with ports := [] }) = (s.req e.1).map (fun q => { q with ports := [] }))) ∧
  (∀ (rid : Nat) (r : Req) (s : State),
    s.req rid = some r ∧ r.phase = .waiting ∧ r.cls ≤ 1 ∧ r.deadline ≠ 0 →
    r.deadline < s.tick + r.est.foldl (fun n e => if n < e.2 then e.2 else n) 0 →
    exec (.latestStartReached rid) s = .next ((mapKeys (fun _ q => decide (q.phase = .running) && r.est.any (fun e => q.claims e.1)
          && (decide (r.cls < q.cls)
            || (decide (q.cls = r.cls) && (decide (q.deadline = 0) || decide (r.deadline < q.deadline))))) s.sch.reqs).foldl
          (fun t v => t.preempt v false) s)) ∧
  (∀ (rid p : Nat) (ovl : Bool) (r : Req) (s : State),
    s.req rid = some r ∧ r.yieldBy = some (p, ovl) ∧ r.phase = .running ∧ r.ends = none ∧ s.yieldsNow rid r p = true ∧ s.workDone rid r = false →
    leaves (.preemptionYield rid) s (fun t =>
          (t.req rid).map (fun q => (q.phase, q.yieldBy, q.ports, q.preempts, q.est)) = some (.waiting, none, [], r.preempts + 1, r.est)
          ∧ t.rd WK_SCHED.PREEMPT_CNT = satBits 32 (s.rd WK_SCHED.PREEMPT_CNT + 1)
          ∧ ∀ e ∈ s.sch.reqs, e.1 ≠ rid → (t.req e.1).map (fun q => { q with ports := [] }) = (s.req e.1).map (fun q => { q with ports := [] }))) ∧
  (∀ (rid : Nat) (r : Req) (s : State),
    s.req rid = some r ∧ s.workDone rid r = true →
    exec (.requestEnd rid) s = .next ((s.endReq rid (finalOutcome r.cls r.deadline s.tick r.overload)
          (if (r.claims 12 = true ∨ r.claims 13 = true) ∧ r.onFacet = false then 0 else r.causeBits)).finish rid)) ∧
  (∀ (rid : Nat) (r : Req) (o : Ending) (s : State),
    mapFind s.sch.reqs rid = some r ∧ r.ends = some o ∧ r.abft = none →
    exec (.requestEnd rid) s = .next (s.finish rid)) ∧
  (∀ (rid : Nat) (r : Req) (a : Abft) (s : State),
    mapFind s.sch.reqs rid = some r ∧ r.gone = true ∧ r.abft = some a ∧ (s.endedStep rid a.f).isSome = true ∧ a.tick = s.tick ∧ a.nonfinite = false →
    exec (.requestEnd rid) s = .next (((s.modReq rid (fun q => { q with abft := none })).detectC1 0x08 (pgFct a.f 1) a.core rid).finish rid)) ∧
  (∀ (rid : Nat) (r : Req) (s : State),
    s.req rid = some r ∧ r.cls = 0 ∧ r.deadline < s.tick →
    exec (.deadlineMissed rid) s = .next (s.endReq rid ocDeadlineMissed 0)) ∧
  (∀ (rid : Nat) (r : Req) (s : State),
    s.req rid = some r ∧ (r.cls ≠ 0 ∨ s.tick ≤ r.deadline) →
    exec (.deadlineMissed rid) s = .next s)

/-- The audit of the blocks' states (R312 to R317). -/
def Obligations.StateAuditCountsAndFences : Prop :=
  (∀ (l : List Nat) (s : State),
    s.tick % 100 = 0 ∧ s.pm ≤ 1 ∧ (s.on WK_SCHED.AUDIT_DIS = false ∨ s.sentinel = true) ∧ s.sch.audited < s.tick →
    exec (.stateAudit l) s = .next
          (let t := (auditedPages.filter (pagePresent s.part)).foldl (fun t p => t.auditPage l p) (s.setSch { s.sch with audited := s.tick })
           if s.stage = 8 then t.rowsTick else t)) ∧
  (∀ (l : List Nat) (s : State),
    s.tick % 100 = 0 ∧ (2 ≤ s.pm ∨ (s.on WK_SCHED.AUDIT_DIS = true ∧ s.sentinel = false)) ∧ s.sch.audited < s.tick →
    exec (.stateAudit l) s = .next
          (let t := s.setSch { s.sch with audited := s.tick }
           if s.stage = 8 then t.rowsTick else t)) ∧
  (∀ (l : List Nat) (s : State),
    s.tick % 100 ≠ 0 ∨ s.tick ≤ s.sch.audited →
    exec (.stateAudit l) s = .next s) ∧
  (∀ (page : Nat) (l : List Nat) (s : State),
    s.examined page = false →
    s.auditPage l page = s.setBlk page { s.blk page with mism := 0 }) ∧
  (∀ (page : Nat) (l : List Nat) (s : State),
    s.examined page = true ∧ l.contains page = false ∧ s.on WK_SCHED.AUDIT_INJ_EN = false →
    s.auditPage l page = s.setBlk page { s.blk page with mism := 0 }) ∧
  (∀ (page : Nat) (l : List Nat) (s : State),
    s.examined page = true ∧ l.contains page = true ∧ (s.blk page).mism = 0 →
    s.auditPage l page = (((s.inc WK_SCHED.AUDIT_MISMATCH_CNT).wr WK_SCHED.AUDIT_LAST_PAGE page).setBlk page
          { s.blk page with mism := 1 })) ∧
  (∀ (page : Nat) (l : List Nat) (s : State),
    s.examined page = true ∧ l.contains page = true ∧ 1 ≤ (s.blk page).mism ∧ page < 0x100 ∧ (page < 0x020 ∨ 0x028 ≤ page) →
    s.sch.reqs = [] ∧ s.guest.accepted = false →
    (s.auditPage l page).bst page = .fenced ∧ ((s.auditPage l page).blk page).cause = causeAudit
        ∧ (s.auditPage l page).rd WK_SCHED.AUDIT_FENCE_CNT = satBits 32 (s.rd WK_SCHED.AUDIT_FENCE_CNT + 1)
        ∧ (s.auditPage l page).rd WK_SCHED.AUDIT_LAST_PAGE = page)

/-! ### The Facets -/

/-- The check of a tile (R339, R341, R343, R344, R346 to R348) and the exchange (R33, R334). -/
def Obligations.FacetTilesAreCheckedAndExchanged : Prop :=
  (∀ (rid f core tiles set out fmt : Nat) (tp red vc : Bool) (ins prods : List (Nat × Nat)) (rsd : Option Nat) (run : TileRun) (r : Req) (s : State),
    s.tileDue rid f core run.work = true →
    (s.linkAnswered rid f).running rid = some (r, .phase set tiles tp red ins prods out fmt rsd) →
    exec (.facetTile rid f core run vc) s = .next ((s.linkAnswered rid f).withTensors rid r ins
          (fun t => State.needThen rid (t.streamWeights rid r tiles) (fun u => (u.coreCycles f r run.work).tileEnds rid f core run vc)))) ∧
  (∀ (rid f core tiles set out fmt : Nat) (tp red vc : Bool) (prods : List (Nat × Nat)) (rsd : Option Nat) (run : TileRun) (r : Req) (s : State),
    s.tileDue rid f core run.work = true ∧ (s.linkAnswered rid f).running rid = some (r, .phase set tiles tp red [] prods out fmt rsd) →
    workIsProduct run.work = true ∧ r.slot = none ∧ s.on (FCT6.INJ_TC_EN f) = false →
    (s.on (FCT1.ABFT_DIS f) = false ∨ s.sentinel = true) ∧ tsNonfinite (runSums run) = false →
    tsOk (((s.linkAnswered rid f).syncVc f).abftTol f) (runSums run) = true →
    exec (.facetTile rid f core run vc) s = .next (((((s.linkAnswered rid f).coreCycles f r run.work).syncVc f).inc64 (FCT1.ABFT_TILES_LO f)
          (FCT1.ABFT_TILES_HI f) 1).acceptTile rid f (runSums run))) ∧
  (∀ (rid f core tiles set out fmt : Nat) (tp red vc : Bool) (prods : List (Nat × Nat)) (rsd : Option Nat) (run : TileRun) (r : Req) (s : State),
    s.tileDue rid f core run.work = true ∧ (s.linkAnswered rid f).running rid = some (r, .phase set tiles tp red [] prods out fmt rsd) →
    workIsProduct run.work = true ∧ r.slot = none ∧ s.on (FCT6.INJ_TC_EN f) = false →
    (s.on (FCT1.ABFT_DIS f) = false ∨ s.sentinel = true) →
    tsNonfinite (runSums run) = true ∨ tsOk (((s.linkAnswered rid f).syncVc f).abftTol f) (runSums run) = false →
    leaves (.facetTile rid f core run vc) s (fun t =>
          (t.req rid).map (·.abft) = some (some { f := f, core := core, work := run.work, sums := runSums run, nonfinite := tsNonfinite (runSums run),
                                                  both := false, tick := s.tick })
          ∧ t.rd (FCT1.ABFT_LAST_CORE f) = core ∧ t.mem = s.mem)) ∧
  (∀ (rid f core tiles set out fmt : Nat) (tp red : Bool) (prods : List (Nat × Nat)) (rsd : Option Nat) (run : TileRun) (r : Req) (s : State),
    s.tileDue rid f core run.work = true ∧ (s.linkAnswered rid f).running rid = some (r, .phase set tiles tp red [] prods out fmt rsd) →
    workIsProduct run.work = false ∧ r.slot = none ∧ s.on (FCT0.VC_PAIRED f) = true ∧ s.on (FCT6.INJ_VC_EN f) = false →
    exec (.facetTile rid f core run true) s = .next ((((((s.linkAnswered rid f).coreCycles f r run.work).syncVc f).inc (FCT2.VC_PAIR_MISMATCH f)).raiseIrq
          (pgFct f 0) 3).detectC1 0x09 (pgFct f 2) 0xFFFF rid)) ∧
  (∀ (rid f core tiles set out fmt : Nat) (tp red vc : Bool) (prods : List (Nat × Nat)) (rsd : Option Nat) (run : TileRun) (r : Req) (s : State),
    s.tileDue rid f core run.work = true ∧ (s.linkAnswered rid f).running rid = some (r, .phase set tiles tp red [] prods out fmt rsd) →
    workIsProduct run.work = false ∧ r.slot = none ∧ s.on (FCT0.VC_PAIRED f) = false →
    exec (.facetTile rid f core run vc) s = .next ((((s.linkAnswered rid f).coreCycles f r run.work).syncVc f).acceptTile rid f (runSums run))) ∧
  (∀ (rid f set tiles out fmt : Nat) (tp : Bool) (ins prods : List (Nat × Nat)) (rsd : Option Nat) (sums : TileSums) (r : Req) (s : State),
    s.running rid = some (r, .phase set tiles tp true ins prods out fmt rsd) ∧ tiles ≠ 0 →
    (((s.acceptTile rid f sums).req rid).map (fun q => (q.partials, q.abft, mapGet (fun _ => 0) q.perFacet f)))
          = some (r.partials ++ [(f, sums)], none, mapGet (fun _ => 0) r.perFacet f + 1)) ∧
  (∀ (rid f core tiles set out fmt : Nat) (tp red : Bool) (ins prods : List (Nat × Nat)) (rsd : Option Nat) (faults : List SumFault) (a : Abft) (r : Req)
      (s : State),
    s.running rid = some (r, .phase set tiles tp red ins prods out fmt rsd) ∧ r.abft = some a ∧ a.f = f ∧ a.mayRecompute r = true ∧ s.training f = false →
    s.recomputeCore f a.core core = true ∧ a.both = false →
    exec (.abftRecompute rid f core faults) s = .next
          (let sums := runSums { work := a.work, faults := faults }
           let t := (((s.coreCycles f r a.work).inc (FCT1.ABFT_RECOMP f)).raiseIrq (pgFct f 0) 0).inc64 (FCT1.ABFT_TILES_LO f) (FCT1.ABFT_TILES_HI f) 1
           if a.nonfinite = true ∧ sums.rows = a.sums.rows then
             ((t.inc (FCT1.NONFINITE_TILES f)).addCause rid (causeNonfinite + causeRecomputed)).acceptTile rid f sums
           else if tsOk (t.abftTol f) sums = true ∧ tsElsewhere a.sums sums = false then
             (((t.corrected (pgFct f 1)).addCause rid causeRecomputed).acceptTile rid f sums).strike f a.core
           else (((t.inc (FCT1.ABFT_FAIL f)).abftLast f core sums).raiseIrq (pgFct f 0) 1).detectC1 0x08 (pgFct f 1) core rid)) ∧
  (∀ (rid set tiles out fmt : Nat) (tp : Bool) (ins prods : List (Nat × Nat)) (rsd : Option Nat) (p : TileSums) (parts : List TileSums) (r : Req) (s : State),
    s.running rid = some (r, .phase set tiles tp true ins prods out fmt rsd) →
    (setBitsBelow 4 set).filterMap (fun f => (r.partials.find? (fun p => p.1 == f)).map (·.2)) = p :: parts →
    (p :: parts).length = (setBitsBelow 4 set).length ∧ s.sidesUp set = true →
    (p :: parts).all (fun q => q.rows.map List.length == p.rows.map List.length && q.layout == p.layout) = true →
    (s.writeTensor rid ((setBitsBelow 4 set).headD 0) r.done tiles p (sumPartials p.isFloat ((p :: parts).map (·.rows)))
        out fmt rsd).1 = .here →
    exec (.exchangeStep rid) s = .next (((((setBitsBelow 4 set).foldl (fun (t : State) f => t.inc (FCT4.XCHG_STEPS f))
            (s.writeTensor rid ((setBitsBelow 4 set).headD 0) r.done tiles p
              (sumPartials p.isFloat ((p :: parts).map (·.rows))) out fmt rsd).2).modReq rid
          (fun q => { q with done := q.done + 1, partials := [] }))).phaseEnd rid)) ∧
  (∀ (a b c : List (List Nat)),
    sumPartials false [a, b, c] = List.zipWith (fun x y => List.zipWith (fun v w => (v + w) % 2 ^ 32) x y)
          (List.zipWith (fun x y => List.zipWith (fun v w => (v + w) % 2 ^ 32) x y) a b) c
        ∧ sumPartials true [a, b, c] = List.zipWith (fun x y => List.zipWith f32Add x y) (List.zipWith (fun x y => List.zipWith f32Add x y) a b) c)

/-! ### Map rows: the GSEs -/

/-- The table directory (R358, R361, R370), the generator (R380), RC_SIZE (R369) and SKETCH_CLEAR (Table MAP-9). -/
def Obligations.TablesAreActivatedAndLeft : Prop :=
  (∀ (rq : Requester) (n : Nat) (s : State),
    s.answers rq 0x062 ∧ n < 256 ∧ (s.bst 0x062).up = true ∧ s.tabOf n = none →
    ((s.reached 0x062).dirEntry n).2.activateReason n (((s.reached 0x062).dirEntry n).1.getD []) = 0 →
    leaves (.tblCmdAct rq n) s (fun t =>
          let e := (s.reached 0x062).dirEntry n
          let k := tabOfEntry (e.1.getD [])
          t.tabOf n = some { k with used := (e.2.usedShadow k).1 }
          ∧ t.bitOn (MAP_DIR.ACTIVE (n / 32)) (n % 32) = true ∧ t.rd MAP_DIR.TBL_CMD_STAT_RESULT = 1
          ∧ t.rd MAP_DIR.TBL_CMD_STAT_TABLE = n ∧ t = { (e.2.usedShadow k).2 with rows := t.rows, regs := t.regs })) ∧
  (∀ (rq : Requester) (n c : Nat) (s : State),
    s.answers rq 0x062 ∧ n < 256 ∧ (s.bst 0x062).up = true ∧ s.tabOf n = none →
    ((s.reached 0x062).dirEntry n).2.activateReason n (((s.reached 0x062).dirEntry n).1.getD []) = c ∧ c ≠ 0 →
    exec (.tblCmdAct rq n) s = .next (((s.reached 0x062).dirEntry n).2.tblStat n 2 c)) ∧
  (∀ (rq : Requester) (n : Nat) (s : State),
    s.answers rq 0x062 ∧ n < 256 ∧ (s.bst 0x062).up = true ∧ (s.tabOf n).isSome = true →
    exec (.tblCmdAct rq n) s = .next ((s.reached 0x062).tblStat n 1 0)) ∧
  (∀ (rq : Requester) (n : Nat) (s : State),
    s.answers rq 0x062 ∧ (s.bst 0x062).up = false →
    exec (.tblCmdAct rq n) s = .next (s.reached 0x062) ∧ exec (.tblCmdDeact rq n) s = .next (s.reached 0x062)) ∧
  (∀ (rq : Requester) (n : Nat) (s : State),
    s.answers rq 0x062 ∧ n < 256 ∧ (s.bst 0x062).up = true ∧ (s.tabOf n).isSome = true ∧ s.tableHeld n = false →
    leaves (.tblCmdDeact rq n) s (fun t => t.tabOf n = none ∧ t.bitOn (MAP_DIR.ACTIVE (n / 32)) (n % 32) = false
          ∧ t.rd MAP_DIR.TBL_CMD_STAT_RESULT = 1 ∧ t.rows.cache.all (fun c => decide (c.table ≠ n)) = true
          ∧ ((∀ c ∈ s.rows.cache, c.table = n → c.dirty = false) → t = { (s.reached 0x062) with rows := t.rows, regs := t.regs }))) ∧
  (∀ (rq : Requester) (n : Nat) (s : State),
    s.answers rq 0x062 ∧ n < 256 ∧ (s.bst 0x062).up = true ∧ (s.tabOf n).isSome = true ∧ s.tableHeld n = true →
    exec (.tblCmdDeact rq n) s = .next (((s.reached 0x062).modTab n (fun t => { t with leaving := true })).tblStat n 3 0)) ∧
  (∀ (n : Nat) (t : MapTab) (s : State),
    s.tabOf n = some t ∧ t.leaving = true ∧ s.tableHeld n = false →
    leaves (.tableDeactComplete n) s (fun u => u.tabOf n = none ∧ u.bitOn (MAP_DIR.ACTIVE (n / 32)) (n % 32) = false
          ∧ (s.rd MAP_DIR.TBL_CMD_STAT_TABLE = n → u.rd MAP_DIR.TBL_CMD_STAT_RESULT = 1)
          ∧ ((∀ c ∈ s.rows.cache, c.table = n → c.dirty = false) → u = { s with rows := u.rows, regs := u.regs }))) ∧
  (∀ (rq : Requester) (g v : Nat) (s : State),
    g < 2 ∧ s.answers rq (pgGse g) →
    exec (.srSeedWrite rq g v) s = .next (((s.reached (pgGse g)).wr (GSE.SR_SEED g) v).setGen g (atLeast1 (v % 2 ^ 32)))) ∧
  (∀ (rq : Requester) (v : Nat) (s : State),
    s.answers rq 0x063 ∧ s.bst 0x063 = .off ∧ (s.reached 0x063).quotaSum 1 ≤ 8192 - 512 - clampNat 0 6144 (v % 8192) →
    exec (.rcSizeWrite rq v) s = .next ((s.reached 0x063).wr ROWCACHE.RC_SIZE v)) ∧
  (∀ (rq : Requester) (v : Nat) (s : State),
    s.answers rq 0x063 ∧ s.bst 0x063 ≠ .off →
    exec (.rcSizeWrite rq v) s = .next ((s.reached 0x063).reject 0x063)) ∧
  (∀ (rq : Requester) (s : State),
    s.answers rq 0x063 ∧ s.unlocked 0x063 = true →
    exec (.sketchClear rq) s = .next (s.reached 0x063).clearSketch) ∧
  (∀ (rq : Requester) (s : State),
    s.answers rq 0x063 ∧ s.unlocked 0x063 = false →
    exec (.sketchClear rq) s = .next ((s.reached 0x063).blocked 0x063))

/-- GATHER (R362 to R364), UPDATE and PUT (R379, R386), flips (R373, R374) and old slots (R375). -/
def Obligations.RowsAreReadReplacedAndFlipped : Prop :=
  (∀ (rid g n ids out fmt : Nat) (raw : Bool) (r : Req) (t : MapTab) (s : State),
    s.running rid = some (r, .gather n ids out fmt raw) ∧ s.gseWorks r g = true ∧ s.tabOf n = some t →
    exec (.gather rid g) s = .next (s.withInputs rid r [ids] (fun h => h.format == 0x0A) (fun u =>
          if r.done = 0 then State.needThen rid (u.lookupAll rid g n t (u.rowIds r.ws (r.inId ids)))
            (fun v => v.gatherOn rid r t ids out fmt raw)
          else u.gatherOn rid r t ids out fmt raw))) ∧
  (∀ (rid g n ids out fmt : Nat) (raw : Bool) (r : Req) (s : State),
    s.running rid = some (r, .gather n ids out fmt raw) ∧ s.gseWorks r g = true ∧ s.tabOf n = none →
    exec (.gather rid g) s = .next (s.endReq rid ocTierFailed 1)) ∧
  (∀ (rid g n ids vals : Nat) (r : Req) (t : MapTab) (s : State),
    s.gseWorks r g = true ∧ r.yieldBy = none ∧ s.tabOf n = some t ∧ t.learn = true →
    s.running rid = some (r, .update n ids vals) →
    exec (.update rid g) s = .next (s.withObjs rid r.ws [r.inId ids, r.inId vals]
          (fun u => if u.updateInputs r t ids vals = true then none else some 0) (fun u =>
            let rows := u.rowIds r.ws (r.inId ids)
            let vs := u.objWords r.ws (r.inId vals)
            let v := if t.rmw = true then u.rmwLoop rid g n false rows vs (rows.length + 1)
              else u.mergeLoop rid g n rows vs (3 * rows.length + 3)
            (v.localUpdates rid g).updateEnd rid rows.length))) ∧
  (∀ (rid g n ids vals : Nat) (r : Req) (t : MapTab) (s : State),
    s.gseWorks r g = true ∧ r.yieldBy = none ∧ s.tabOf n = some t ∧ t.learn = true →
    s.running rid = some (r, .put n ids vals) →
    exec (.put rid g) s = .next (s.withObjs rid r.ws [r.inId ids, r.inId vals]
          (fun u => if u.updateInputs r t ids vals = true then none else some 0) (fun u =>
            let rows := u.rowIds r.ws (r.inId ids)
            let v := u.rmwLoop rid g n true rows (u.objWords r.ws (r.inId vals)) (rows.length + 1)
            (v.localUpdates rid g).updateEnd rid rows.length))) ∧
  (∀ (rid g n ids vals : Nat) (r : Req) (t : MapTab) (s : State),
    s.gseWorks r g = true ∧ r.yieldBy = none ∧ s.tabOf n = some t ∧ t.learn = false →
    (s.running rid = some (r, .update n ids vals) → exec (.update rid g) s = .next (s.endReq rid ocTierFailed 1))
        ∧ (s.running rid = some (r, .put n ids vals) → exec (.put rid g) s = .next (s.endReq rid ocTierFailed 1))) ∧
  (∀ (rid g n pos row : Nat) (t : MapTab) (s : State),
    s.lookup rid g n t pos padId = (.here, s)
        ∧ (row ≠ padId → t.rows ≤ row → s.lookup rid g n t pos row = (.ends ocTierFailed 0, s.inc (GSE.BAD_ROW_CNT g)))) ∧
  (∀ (t : MapTab) (fmt : Nat) (raw : Bool) (d : List Byte),
    (slotValid d = false → gatherRow t fmt raw d = List.replicate (gatherRowBytes t fmt raw) 0)
        ∧ (slotValid d = true → gatherRow t fmt true d = padTo (16 + t.codeBytes) d)) ∧
  (∀ (g : Nat) (s : State),
    exec (.flip g) s = .next ((s.rows.flips.filter (fun f => decide (f.g = g) && decide (f.written < s.tick))).foldl
          (fun u f => u.flipDue f) s)) ∧
  (∀ (f : FlipOp) (t : MapTab) (a : Nat) (s : State),
    s.tabOf f.table = some t ∧ s.tileAddr t.ws t.ptrObj (f.row / ptrPerTile) = some a ∧ inCasket a 1 = true →
    (s.objOf t.ws t.ptrObj).isSome = true ∧ s.tileLost t.ws t.ptrObj (f.row / ptrPerTile) = false →
    f.newSlot < 2 ^ 32 ∧ f.version < 2 ^ 32 →
    let u := s.flipOne f;
        u.pointer t f.row = (f.newSlot, f.version) ∧ u.rows.flips = s.rows.flips.filter (fun x => x != f)
        ∧ u.rd (GSE.UPDATE_CNT f.g) = satBits 32 (s.rd (GSE.UPDATE_CNT f.g) + 1) ∧ sameMemoryBut a tileSize s u ∧ u.sch = s.sch) ∧
  (∀ (x : Grace) (g : Nat) (s : State),
    s.rows.grace.filter (fun y => decide (y.g = g) && decide (y.since < s.tick) && !s.rows.lookups.any (fun l =>
        decide (l.table = y.table) && decide (l.slot = y.slot) && decide (l.owner = 0) && l.answer.isNone)) = [x] →
    exec (.slotFree g) s = .next ((s.setRows { s.rows with grace := s.rows.grace.filter (fun y => y != x) }).modTab x.table
          (fun t => t.give x.slot)))

/-- Rounds (R387, R388, R390), replies (R389, R392, Table MAP-6) and what peers ask (R389, R564). -/
def Obligations.RoundsAndPeersRows : Prop :=
  (∀ (slot n m k port vlan : Nat) (ok : Bool) (time : Int) (data : List Byte) (words : List Nat) (items : List RemoteItem),
    (Out.rdma slot n m k data).pcp = some 3 ∧ (Out.roceAck slot ok).pcp = some 3 ∧ (Out.peerItems slot n items).pcp = some 3
        ∧ (Out.cfp slot n words).pcp = some 5 ∧ (Out.ptp port vlan n m time).pcp = (if vlan = 0 then none else some 6)) ∧
  (∀ (g : Nat) (s : State),
    g < 2 ∧ s.roundDue g = true ∧ (s.waitingBatch g).all (fun l => decide (l.owner ≠ 0)) = true →
    leaves (.roundOpen g) s (fun t =>
          let n := (s.rd64 (GSE.ROUND_NUM_LO g) (GSE.ROUND_NUM_HI g) + 1)
          t.rd64 (GSE.ROUND_NUM_LO g) (GSE.ROUND_NUM_HI g) = n % 2 ^ 64 ∧ t.rows.rounds = s.rows.rounds ++ [(g, n)]
          ∧ t.rows.lookups = s.rows.lookups.map (fun l => if (s.waitingBatch g).contains l = true then
              { l with round := some n, issue := some (l.issue.getD s.tick) } else l)
          ∧ t.sch = s.sch ∧ t.mem = s.mem)) ∧
  (∀ (g n : Nat) (s : State),
    s.rows.rounds.contains (g, n) = true →
    s.rows.lookups.any (fun l => l.g == g && l.round == some n && l.answer.isNone) = false →
    exec (.roundClose g n) s = .next
          (let t := s.setRows { s.rows with rounds := s.rows.rounds.filter (fun x => x != (g, n)) }
           (t.wr (GSE.ROUNDS_OPEN g) ((t.rows.rounds.filter (fun x => x.1 == g)).length)).fire 87 (n % 2 ^ 32))) ∧
  (∀ (slot n row v : Nat) (d : List Byte) (l : Lookup) (s : State),
    s.rows.lookups.find? (fun l => decide (l.owner = slot + 1) && decide (l.table = n) && decide (l.row = row)
        && l.round.isSome && l.answer.isNone && l.upd.isNone) = some l →
    leaves (.remoteReply slot n row (.row v d)) s (fun t =>
          t.rows = { s.rows with lookups := s.rows.lookups.map (fun x => if x = l then
            { x with answer := some (if d = [] then [] else leBytes 4 v ++ d.drop 4) } else x) }
          ∧ t.sch = s.sch ∧ t.mem = s.mem ∧ t.regs = s.regs)) ∧
  (∀ (slot n row : Nat) (l : Lookup) (s : State),
    s.rows.lookups.find? (fun l => decide (l.owner = slot + 1) && decide (l.table = n) && decide (l.row = row)
        && l.round.isSome && l.answer.isNone && true) = some l →
    exec (.remoteReply slot n row .absent) s = .next (((s.roceProgress slot).inc (GSE.BAD_ROW_CNT l.g)).endReq l.rid ocTierFailed 0)) ∧
  (∀ (slot n row : Nat) (l : Lookup) (s : State),
    s.rows.lookups.find? (fun l => decide (l.owner = slot + 1) && decide (l.table = n) && decide (l.row = row)
        && l.round.isSome && l.answer.isNone && true) = some l ∧ ((s.roceProgress slot).reissue l).req l.rid = none →
    exec (.remoteReply slot n row .notOwner) s = .next ((s.roceProgress slot).reissue l)) ∧
  (∀ (slot n row : Nat) (a : RemoteAnswer) (s : State),
    s.rows.lookups.all (fun l => decide (l.owner ≠ slot + 1) || decide (l.table ≠ n) || decide (l.row ≠ row) || l.answer.isSome) = true →
    exec (.remoteReply slot n row a) s = .next s) ∧
  (∀ (rid i : Nat) (l : Lookup) (s : State),
    s.rows.lookups = [l] ∧ l.rid = rid ∧ l.owner ≠ 0 ∧ l.answer = none ∧ l.issue = some i →
    i + atLeast1 (s.rd (GSE.REMOTE_LATE l.g)) ≤ s.tick →
    exec (.remoteLateExpiry rid) s = .next ((s.raiseIrq (pgGse l.g) 3).endReq rid ocTierLate 0)) ∧
  (∀ (slot epoch : Nat) (items : List RemoteItem) (s : State),
    s.fabUp = true ∧ (mapFind s.fab.peers slot).isSome = true →
    s.leaveDoze.fab.batches.any (fun b => b.2.2.any (fun y => items.any (fun x => decide (x.table = y.table) && decide (x.row = y.row)))) = false →
    (s.leaveDoze.batchCost epoch items).all (fun c => s.leaveDoze.chargeFits c.1 c.2.1 c.2.2) = true →
    exec (.peerBatch slot epoch items) s = .next (items.foldl (fun u x => u.peerItem slot epoch x)
          ((s.leaveDoze.batchCost epoch items).foldl (fun (u : State) c => u.charge c.1 c.2.1 c.2.2) s.leaveDoze))) ∧
  (∀ (slot epoch : Nat) (items : List RemoteItem) (s : State),
    s.fabUp = true ∧ (mapFind s.fab.peers slot).isSome = true →
    s.leaveDoze.fab.batches.any (fun b => b.2.2.any (fun y => items.any (fun x => decide (x.table = y.table) && decide (x.row = y.row)))) = true
      ∨ (s.leaveDoze.batchCost epoch items).all (fun c => s.leaveDoze.chargeFits c.1 c.2.1 c.2.2) = false →
    exec (.peerBatch slot epoch items) s = .next (s.leaveDoze.setFab { s.leaveDoze.fab with
          batches := s.leaveDoze.fab.batches ++ [(slot, epoch, items)] })) ∧
  (∀ (slot epoch : Nat) (x : RemoteItem) (t : MapTab) (s : State),
    isHandRow x = false →
    (s.tabOf x.table = none → s.peerItem slot epoch x = s.emit (.peerAnswer slot x.table x.row .notOwner))
        ∧ (s.tabOf x.table = some t → t.rows ≤ x.row → s.peerItem slot epoch x = s.emit (.peerAnswer slot x.table x.row .absent)))

/-! ### Loupe -/

/-- The index directory (R402 to R405, Tables LP-1 and LP-3). -/
def Obligations.IndexesAreActivatedAndLeft : Prop :=
  (∀ (rq : Requester) (lp n : Nat) (b : List Byte) (x : LpIndex) (s : State),
    lp < 2 ∧ s.answers rq (pgLp lp) ∧ n < 64 ∧ (s.bst (pgLp lp)).up = true ∧ s.indexOf lp n = none →
    b = ((s.reached (pgLp lp)).indexEntry lp n).1.getD [] ∧ ((s.reached (pgLp lp)).indexEntry lp n).2.indexReason n b = 0 →
    x = { indexOfEntry b with table := (((s.reached (pgLp lp)).indexEntry lp n).2.listTable (indexOfEntry b)).map (fun e => (e.1, e.2.1)) } ∧ (((s.reached (pgLp lp)).indexEntry lp n).2.readLists lp x).1 = true →
    leaves (.idxCmdAct rq lp n) s (fun t =>
          t.indexOf lp n = some x
          ∧ (if n < 32 then t.bitOn (LP.IDX_ACTIVE_LO lp) n else t.bitOn (LP.IDX_ACTIVE_HI lp) (n - 32)) = true
          ∧ t.rd (LP.IDX_CMD_STAT_RESULT lp) = 1 ∧ t.rd (LP.IDX_CMD_STAT_INDEX lp) = n
          ∧ t = { (((s.reached (pgLp lp)).indexEntry lp n).2.readLists lp x).2 with lps := t.lps, regs := t.regs })) ∧
  (∀ (rq : Requester) (lp n c : Nat) (b : List Byte) (s : State),
    lp < 2 ∧ s.answers rq (pgLp lp) ∧ n < 64 ∧ (s.bst (pgLp lp)).up = true ∧ s.indexOf lp n = none →
    b = ((s.reached (pgLp lp)).indexEntry lp n).1.getD [] ∧ ((s.reached (pgLp lp)).indexEntry lp n).2.indexReason n b = c ∧ c ≠ 0 ∧ c ≠ 5 →
    exec (.idxCmdAct rq lp n) s = .next (((s.reached (pgLp lp)).indexEntry lp n).2.idxStat lp n 2 c)) ∧
  (∀ (rq : Requester) (lp n c : Nat) (b : List Byte) (x : LpIndex) (s : State),
    lp < 2 ∧ s.answers rq (pgLp lp) ∧ n < 64 ∧ (s.bst (pgLp lp)).up = true ∧ s.indexOf lp n = none →
    b = ((s.reached (pgLp lp)).indexEntry lp n).1.getD [] ∧ ((s.reached (pgLp lp)).indexEntry lp n).2.indexReason n b = c →
    x = { indexOfEntry b with table := (((s.reached (pgLp lp)).indexEntry lp n).2.listTable (indexOfEntry b)).map (fun e => (e.1, e.2.1)) } →
    c = 5 ∨ (c = 0 ∧ (((s.reached (pgLp lp)).indexEntry lp n).2.readLists lp x).1 = false) →
    exec (.idxCmdAct rq lp n) s = .next ((((s.reached (pgLp lp)).indexEntry lp n).2.readLists lp x).2.idxStat lp n 2 5)) ∧
  (∀ (rq : Requester) (lp n : Nat) (s : State),
    lp < 2 ∧ s.answers rq (pgLp lp) ∧ n < 64 ∧ (s.bst (pgLp lp)).up = true ∧ (s.indexOf lp n).isSome = true →
    exec (.idxCmdAct rq lp n) s = .next ((s.reached (pgLp lp)).idxStat lp n 1 0)) ∧
  (∀ (rq : Requester) (lp n : Nat) (s : State),
    lp < 2 ∧ s.answers rq (pgLp lp) ∧ (s.bst (pgLp lp)).up = false →
    exec (.idxCmdAct rq lp n) s = .next (s.reached (pgLp lp)) ∧ exec (.idxCmdDeact rq lp n) s = .next (s.reached (pgLp lp))) ∧
  (∀ (rq : Requester) (lp n : Nat) (s : State),
    lp < 2 ∧ s.answers rq (pgLp lp) ∧ n < 64 ∧ (s.bst (pgLp lp)).up = true ∧ (s.indexOf lp n).isSome = true ∧ s.indexHeld lp n = false →
    leaves (.idxCmdDeact rq lp n) s (fun t => t.indexOf lp n = none
          ∧ (if n < 32 then t.bitOn (LP.IDX_ACTIVE_LO lp) n else t.bitOn (LP.IDX_ACTIVE_HI lp) (n - 32)) = false
          ∧ t.rd (LP.IDX_CMD_STAT_RESULT lp) = 1 ∧ t = { (s.reached (pgLp lp)) with lps := t.lps, regs := t.regs })) ∧
  (∀ (rq : Requester) (lp n : Nat) (s : State),
    lp < 2 ∧ s.answers rq (pgLp lp) ∧ n < 64 ∧ (s.bst (pgLp lp)).up = true ∧ (s.indexOf lp n).isSome = true ∧ s.indexHeld lp n = true →
    exec (.idxCmdDeact rq lp n) s = .next (((s.reached (pgLp lp)).setLps { (s.reached (pgLp lp)).lps with
          idx := mapModify (fun x => { x with leaving := true }) s.lps.idx (64 * lp + n) }).idxStat lp n 3 0)) ∧
  (∀ (lp n : Nat) (x : LpIndex) (s : State),
    s.indexOf lp n = some x ∧ x.leaving = true ∧ s.indexHeld lp n = false →
    leaves (.indexDeactComplete lp n) s (fun t => t.indexOf lp n = none
          ∧ (s.rd (LP.IDX_CMD_STAT_INDEX lp) = n → n < 64 → t.rd (LP.IDX_CMD_STAT_RESULT lp) = 1)
          ∧ t = { s with lps := t.lps, regs := t.regs }))

/-- Searches (R406, R412, R413, R417, R424), scans (R419), merges (R430, R432) and peers' searches (R433). -/
def Obligations.SearchesScansAndMerges : Prop :=
  (∀ (rid n k l vm pr inObj outObj : Nat) (r : Req) (x : LpIndex) (s : State),
    s.running rid = some (r, .search false n k l vm pr inObj outObj) ∧ s.lpWorks r = true ∧ s.indexOf (lpOf r) n = some x →
    1 ≤ k ∧ k ≤ 256 ∧ k ≤ l ∧ l ≤ 1024 ∧ vm ≠ 0 →
    exec (.searchApproximate rid) s = .next (s.searchStep rid r n k outObj inObj false (State.approxTurn rid (lpOf r) l vm))) ∧
  (∀ (rid n k l vm pr inObj outObj : Nat) (r : Req) (x : LpIndex) (s : State),
    s.running rid = some (r, .search true n k l vm pr inObj outObj) ∧ s.lpWorks r = true ∧ s.indexOf (lpOf r) n = some x →
    1 ≤ k ∧ k ≤ 256 →
    exec (.searchExact rid) s = .next (s.searchStep rid r n k outObj inObj false (State.exactTurn rid (lpOf r) n pr))) ∧
  (∀ (rid n k l vm pr inObj outObj : Nat) (exact : Bool) (r : Req) (s : State),
    s.running rid = some (r, .search exact n k l vm pr inObj outObj) ∧ s.lpWorks r = true →
    s.indexOf (lpOf r) n = none ∨ k = 0 ∨ 256 < k ∨ (exact = false ∧ (l < k ∨ 1024 < l ∨ vm = 0)) →
    (exact = false → exec (.searchApproximate rid) s = .next (s.endReq rid ocTierFailed 1))
        ∧ (exact = true → exec (.searchExact rid) s = .next (s.endReq rid ocTierFailed 1))) ∧
  (∀ (rid lp l vm fuel : Nat) (x : LpIndex) (q : LpQuery) (s : State),
    vm < fuel + q.expansions ∧ q.expansions ≤ vm ∧ q.queue.length ≤ l →
    ((s.walk rid lp x l vm fuel q).1 = .done → (s.walk rid lp x l vm fuel q).2.1.queue.all (fun c => c.expanded) = true
          ∨ (s.walk rid lp x l vm fuel q).2.1.budget = true)
        ∧ (s.walk rid lp x l vm fuel q).2.1.queue.length ≤ l) ∧
  (∀ (lp n list : Nat) (c : ListScan) (s : State),
    s.lps.scans.filter (fun y => decide (y.lp = lp) && decide (y.index = n) && decide (y.list = list)) = [c] ∧ c.running = false →
    c.opened + atLeast1 (s.rd (LP.BATCH_WINDOW lp)) ≤ s.tick ∨ s.batchMax lp ≤ (s.inScan c).length →
    exec (.listScanStart lp n list) s = .next (s.putScan { c with running := true })) ∧
  (∀ (lp n list : Nat) (c : ListScan) (s : State),
    s.lps.scans.filter (fun y => decide (y.lp = lp) && decide (y.index = n) && decide (y.list = list)) = [c] →
    c.running = true ∨ (s.tick < c.opened + atLeast1 (s.rd (LP.BATCH_WINDOW lp)) ∧ (s.inScan c).length < s.batchMax lp) →
    exec (.listScanStart lp n list) s = .next s) ∧
  (∀ (rid k late n inObj outObj : Nat) (po : Bool) (r : Req) (s : State),
    s.running rid = some (r, .merge po k late n inObj outObj) ∧ s.lpWorks r = true →
    exec (.merge rid) s = .next (s.mergeStep rid r po k late n inObj outObj)
        ∧ exec (.shardLateExpiry rid) s = .next
            (if r.stepTick + atLeast1 late ≤ s.tick then s.mergeStep rid r po k late n inObj outObj else s)
        ∧ (n = 0 ∨ 64 < n → exec (.merge rid) s = .next (s.endReq rid ocTierFailed 1))) ∧
  (∀ (rid k outObj : Nat) (po failed : Bool) (r : Req) (present missing : List (Nat × Nat)) (s : State),
    missing ≠ [] ∧ (po = false ∨ present = []) ∧ r.flushing = true →
    s.mergeMissing rid r po k outObj present missing failed = s.endReq rid (if failed = true then ocTierFailed else ocTierLate) 0) ∧
  (∀ (k : Nat) (ins : List (List (Nat × Nat × Nat))),
    (mergeQuery k ins).length = 16 * k) ∧
  (∀ (lp slot n k l vm pr : Nat) (exact : Bool) (query : List Nat) (x : LpIndex) (s : State),
    lp < 2 ∧ s.fabUp = true ∧ (mapFind s.fab.peers slot).isSome = true ∧ s.leaveDoze.indexOf lp n = some x ∧ x.peerServe = true →
    1 ≤ k ∧ k ≤ 256 ∧ (exact = true ∨ (k ≤ l ∧ l ≤ 1024 ∧ vm ≠ 0)) ∧ query.length = x.dims ∧ (s.bst (pgLp lp)).live = true →
    exec (.peerSearch lp slot n k l vm exact pr query) s = .next
          (let qi := (s.leaveDoze.lps.peers.map (·.qi + 1)).foldl max 0
           let p : PeerSearch := { slot := slot, lp := lp, index := n, qi := qi, x := x, k := k, l := l, visitMax := vm, exact := exact, probe := pr,
                                   charged := 0 }
           (s.leaveDoze.setLps { s.leaveDoze.lps with
             queries := s.leaveDoze.lps.queries ++ [newQuery peerRid lp n qi x query]
             peers := s.leaveDoze.lps.peers ++ [p] }).servePeer p)) ∧
  (∀ (p : PeerSearch) (q : LpQuery) (a : WalkAns × LpQuery × State) (s : State),
    (s.bst (pgLp p.lp)).up = true ∧ s.clockOn (pgLp p.lp) = true ∧ ((s.grantCtx p.lp s.lps.queries.length).syncCtx p.lp).peerQuery p = some q ∧ q.ctx = true →
    a = (if p.exact = true then ((s.grantCtx p.lp s.lps.queries.length).syncCtx p.lp).exactTurn peerRid p.lp p.index p.probe p.x q else ((s.grantCtx p.lp s.lps.queries.length).syncCtx p.lp).approxTurn peerRid p.lp p.l p.visitMax p.x q) ∧ a.1 = .done ∧ (mapFind a.2.2.fab.peers p.slot).isSome = true →
    (s.servePeer p).out = a.2.2.out ++ [.peerSearch p.slot p.lp p.index false (queryEntries p.x p.k a.2.1)]
        ∧ (s.servePeer p).lps.peers.all (fun e => decide (e.qi ≠ p.qi)) = true) ∧
  (∀ (p : PeerSearch) (q : LpQuery) (a : WalkAns × LpQuery × State) (s : State),
    (s.bst (pgLp p.lp)).up = true ∧ s.clockOn (pgLp p.lp) = true ∧ ((s.grantCtx p.lp s.lps.queries.length).syncCtx p.lp).peerQuery p = some q ∧ q.ctx = true →
    a = (if p.exact = true then ((s.grantCtx p.lp s.lps.queries.length).syncCtx p.lp).exactTurn peerRid p.lp p.index p.probe p.x q else ((s.grantCtx p.lp s.lps.queries.length).syncCtx p.lp).approxTurn peerRid p.lp p.l p.visitMax p.x q) ∧ a.1 = .ended ∧ (mapFind a.2.2.fab.peers p.slot).isSome = true →
    (s.servePeer p).out = a.2.2.out ++ [.peerSearch p.slot p.lp p.index true []]
        ∧ (s.servePeer p).lps.peers.all (fun e => decide (e.qi ≠ p.qi)) = true) ∧
  (∀ (p : PeerSearch) (q : LpQuery) (a : WalkAns × LpQuery × State) (s : State),
    (s.bst (pgLp p.lp)).up = true ∧ s.clockOn (pgLp p.lp) = true ∧ ((s.grantCtx p.lp s.lps.queries.length).syncCtx p.lp).peerQuery p = some q ∧ q.ctx = true →
    a = (if p.exact = true then ((s.grantCtx p.lp s.lps.queries.length).syncCtx p.lp).exactTurn peerRid p.lp p.index p.probe p.x q else ((s.grantCtx p.lp s.lps.queries.length).syncCtx p.lp).approxTurn peerRid p.lp p.l p.visitMax p.x q) ∧ a.1 = .waits →
    s.servePeer p = (a.2.2.chargePeer p a.2.1.lanes).putQuery a.2.1) ∧
  (∀ (p : PeerSearch) (q : LpQuery) (s : State),
    (s.bst (pgLp p.lp)).up = true ∧ s.clockOn (pgLp p.lp) = true ∧ ((s.grantCtx p.lp s.lps.queries.length).syncCtx p.lp).peerQuery p = some q ∧ q.ctx = false →
    s.servePeer p = ((s.grantCtx p.lp s.lps.queries.length).syncCtx p.lp)) ∧
  (∀ (p : PeerSearch) (s : State),
    s.bst (pgLp p.lp) = .off ∨ s.bst (pgLp p.lp) = .fenced ∨ s.bst (pgLp p.lp) = .faulted →
    s.servePeer p = s.answerSearch p none) ∧
  (∀ (p : PeerSearch) (s : State),
    (s.bst (pgLp p.lp)).up = true ∧ s.clockOn (pgLp p.lp) = false →
    s.servePeer p = s) ∧
  (∀ (lp slot n k l vm pr : Nat) (exact : Bool) (query : List Nat) (s : State),
    lp < 2 ∧ s.fabUp = true ∧ (mapFind s.fab.peers slot).isSome = true ∧ (s.leaveDoze.indexOf lp n = none ∨ k = 0 ∨ 256 < k) →
    exec (.peerSearch lp slot n k l vm exact pr query) s = .next
          ((s.leaveDoze.inc (LP.PEER_REFUSED_CNT lp)).emit (.peerSearch slot lp n true [])))

/-! ### ISE -/

/-- The solve (R442 to R446, R461, R463), its rechecks (R448, R449, R453) and failures (R454, Table ISE-4). -/
def Obligations.SolvesIterateAndRecheck : Prop :=
  (∀ (rid : Nat) (r : Req) (c : IseSchedule) (k : IseRun) (s : State),
    s.solving rid = some (r, c) ∧ s.iseOf rid = some k ∧ k.stop = none →
    exec (.solve rid) s = .next (s.withValues rid r (solveIns c r) k (fun u =>
          let v := u.solveTurn rid r c k
          match v.iseOf rid, v.req rid with
          | some k, some r => (match k.stop with
            | some (st, oc, cause) => v.writeSolution rid r c k st oc cause
            | none => v)
          | _, _ => v))) ∧
  (∀ (rid st oc cause : Nat) (r : Req) (c : IseSchedule) (k : IseRun) (s : State),
    s.solving rid = some (r, c) ∧ s.iseOf rid = some k ∧ k.stop = some (st, oc, cause) →
    exec (.solve rid) s = .next (s.writeSolution rid r c k st oc cause)) ∧
  (∀ (rid : Nat) (r : Req) (c : IseSchedule) (s : State),
    s.solving rid = some (r, c) ∧ s.iseOf rid = none →
    exec (.solve rid) s = .next
          (let v := s.beginSolve rid r c
           match v.iseOf rid, v.req rid with
           | some k, some r => (match k.stop with
             | some (st, oc, cause) => v.writeSolution rid r c k st oc cause
             | none => v)
           | _, _ => v)) ∧
  (∀ (rid : Nat) (r : Req) (c : IseSchedule) (s : State),
    tolOk (solveArgs c r).tol = false ∨ (solveArgs c r).reserved = true ∨ s.objHolds r.ws r.objA c.nnzL = false →
    s.beginSolve rid r c = s.endReq rid ocTierFailed 1) ∧
  (∀ (rid : Nat) (r : Req) (c : IseSchedule) (k : IseRun) (s : State),
    k.due = false ∧ meetsTol k k.nr = false ∧ k.i ≠ k.maxIter →
    s.solveTurn rid r c k = (match iterate c (lowerOf c.pattern (s.f32sOf r.ws r.objA c.nnzL)) k with
          | .error (e, counted) => (if counted = true then s.inc (ISE.ITER_CNT k.ise) else s).solveFails { k with i := k.i + b2n counted } e
          | .ok k => (s.inc (ISE.ITER_CNT k.ise)).putIse { k with due := (s.inc (ISE.ITER_CNT k.ise)).recheckDue k })) ∧
  (∀ (rid n : Nat) (rt : List Nat) (big : Bool) (r : Req) (c : IseSchedule) (k : IseRun) (s t : State),
    k.due = false ∧ (meetsTol k k.nr = true ∨ k.i = k.maxIter) →
    s.recheck rid (lowerOf c.pattern (s.f32sOf r.ws r.objA c.nnzL)) (s.f32sOf r.ws (solveArgs c r).rhs c.n) k = (.done rt n big, t) →
    meetsTol (k.rechecked n) n = true →
    s.solveTurn rid r c k = t.solveStops (k.rechecked n) 0 ocDone 0) ∧
  (∀ (rid n : Nat) (rt : List Nat) (big : Bool) (r : Req) (c : IseSchedule) (k : IseRun) (s t : State),
    k.due = false ∧ k.i = k.maxIter →
    s.recheck rid (lowerOf c.pattern (s.f32sOf r.ws r.objA c.nnzL)) (s.f32sOf r.ws (solveArgs c r).rhs c.n) k = (.done rt n big, t) →
    meetsTol (k.rechecked n) n = false →
    s.solveTurn rid r c k = t.solveStops (k.rechecked n) 1 ocDone 0) ∧
  (∀ (rid : Nat) (r : Req) (c : IseSchedule) (q : SolveArgs) (k : IseRun) (s : State),
    (s.f32sOf r.ws q.rhs c.n).any (fun x => (f32v x).nonfinite) = false ∧ k.x.any (fun x => (f32v x).nonfinite) = false →
    norm64 (s.f32sOf r.ws q.rhs c.n) = 0 →
    s.setup rid r c q k = s.solveStops { k with x := List.replicate c.n 0, nb := 0, resid := 0 } 2 ocDone 0) ∧
  (∀ (e : Nat) (k : IseRun) (r : Req) (c : IseSchedule) (s : State),
    s.ises.find? (fun k => decide (k.ise = e) && k.due && k.stop.isNone) = some k ∧ s.solving k.rid = some (r, c) →
    exec (.recheckDue e) s = .next (s.withValues k.rid r (solveIns c r) k (fun u =>
          let v := u.solveTurn k.rid r c k
          match v.iseOf k.rid, v.req k.rid with
          | some k, some r => (match k.stop with
            | some (st, oc, cause) => v.writeSolution k.rid r c k st oc cause
            | none => v)
          | _, _ => v))) ∧
  (∀ (e : Nat) (s : State),
    s.ises.all (fun k => decide (k.ise ≠ e) || !k.due || k.stop.isSome) = true →
    exec (.recheckDue e) s = .next s)

/-! ### Filigree -/

/-- Commits (R482, R484, Tables FIL-3 and FIL-7), slots (R471, R475, R498, R501), slips (R474) and the output ring (R485, R502). -/
def Obligations.ChannelsCommitAndRunInTheirSlots : Prop :=
  (∀ (rq : Requester) (k c : Nat) (s : State),
    s.answers rq 0x079 ∧ k < 24 ∧ (s.reached 0x079).commitReason k ((s.reached 0x079).staged k) = c ∧ c ≠ 0 →
    leaves (.commit rq (2 ^ k)) s (fun t => t.rd (FIL_CH.CFG_STAT_REFUSED k) = 1 ∧ t.rd (FIL_CH.CFG_STAT_REASON k) = c
          ∧ t.chan k = (if ((s.chan k).next.map (fun p => p.2)) = some s.tick then { s.chan k with next := none } else s.chan k)
          ∧ t = { (((((s.reached 0x079).setW1c (FIL_CH.CFG_STAT_REFUSED k) 1).wr (FIL_CH.CFG_STAT_REASON k) c).raiseIrq 0x078 1)) with
              fil := t.fil })) ∧
  (∀ (rq : Requester) (k : Nat) (s : State),
    s.answers rq 0x079 ∧ k < 24 ∧ (s.reached 0x079).commitReason k ((s.reached 0x079).staged k) = 0 →
    leaves (.commit rq (2 ^ k)) s (fun t => t.rd (FIL_CH.CFG_STAT_REFUSED k) = 0 ∧ (t.chan k).next = some ((s.reached 0x079).staged k, s.tick)
          ∧ t = ((s.reached 0x079).setChan k { s.chan k with next := some ((s.reached 0x079).staged k, s.tick) }).wr (FIL_CH.CFG_STAT_REFUSED k) 0)) ∧
  (∀ (k : Nat) (c : FilCfg) (s : State),
    s.commitReason k c = 0 →
    cfgR c < cfgW c ∧ cfgMode c ≠ 3 ∧ (cfgMode c ≠ 0 → cfgRate c ≠ 0 ∧ (s.bst 0x080).up = true)
        ∧ (k < 16 → 3 ≤ cfgOrder c ∧ cfgOrder c ≤ 5 ∧ 2 ≤ cfgDLog c ∧ cfgDLog c ≤ 9 ∧ 0 < s.sdmFreq k ∧ s.sdmFreq k ≤ 25000000)
        ∧ (16 ≤ k → cfgSpi c ≠ 0 ∧ romTaps (cfgRom c) * ceilDiv (cfgSpi c) 1000000 ≤ 640)
        ∧ (cfgMode c = 2 → cfgRate c ≤ 1000000) ∧ (cfgMode c = 1 → s.fsPeriodNs (cfgFsync c) ≠ 0)) ∧
  (∀ (k : Nat) (bits : List Bool) (s : State),
    (24 ≤ k → exec (.channelSlot k bits) s = .next s)
        ∧ (k < 24 → s.filRuns = false → exec (.channelSlot k bits) s = .next (s.slotStopped k bits))) ∧
  (∀ (k t : Nat) (new : FilCfg) (bits : List Bool) (s : State),
    k < 24 ∧ s.filRuns = true ∧ (s.chan k).next = some (new, t) ∧ t < s.tick →
    exec (.channelSlot k bits) s = exec (.channelSlot k bits) (s.applyCommit k new)) ∧
  (∀ (k : Nat) (bits : List Bool) (s : State),
    k < 24 ∧ s.filRuns = true ∧ (s.chan k).next = none ∧ cfgEn (s.chan k).cfg = false →
    leaves (.channelSlot k bits) s (fun t => (t.chan k).integ = bits.foldl (fun l b => integrate b l) (s.chan k).integ
          ∧ (t.chan k).queue = [] ∧ t = s.setChan k { s.chan k with integ := (t.chan k).integ, queue := [] })) ∧
  (∀ (k : Nat) (bits : List Bool) (s : State),
    k < 24 ∧ s.filRuns = true ∧ (s.chan k).next = none ∧ cfgEn (s.chan k).cfg = true ∧ (s.chan k).halted = 0 →
    exec (.channelSlot k bits) s = .next (
          if isSdm k && s.bitOn SDM.CLK_FAULT k then s.slotNoClock k (s.cellAt (40 * k))
          else (if (s.chan k).clkOff then s.setChan k { (s.chan k).event rfClk with clkOff := false } else s).slotPath k bits
            (s.cellAt (40 * k)))) ∧
  (∀ (k : Nat) (s : State),
    16 ≤ k ∧ k < 24 ∧ s.filRuns = true ∧ cfgEn (s.chan k).cfg = true ∧ (s.chan k).fresh = false ∧ (s.chan k).queue = [] →
    leaves (.timingSlip k) s (fun t =>
          (t.chan k = (if 3 * secUnit < 2 * ((cfgSpi (s.chan k).cfg : Nat) : Int) * (s.cellAt (40 * k) - (s.chan k).lastAt)
            then { s.chan k with n := 0, evFlags := rfSlip, fresh := true } else s.chan k))
          ∧ t.io = s.io ∧ t.regs = s.regs ∧ t = { s with fil := t.fil })) ∧
  (∀ (k : Nat) (s : State),
    k < 16 ∨ 24 ≤ k ∨ s.filRuns = false ∨ cfgEn (s.chan k).cfg = false →
    exec (.timingSlip k) s = .next s) ∧
  (∀ (rq : Requester) (s : State),
    s.answers rq 0x078 →
    leaves (.outEnable rq) s (fun t => t.on FIL.OUT_CFG_EN = true
          ∧ (s.outBaseOk = true → t = (s.reached 0x078).wr FIL.OUT_CFG_EN 1)
          ∧ (s.outBaseOk = false → t.rd FIL.OUT_STAT_BASE_BAD = 1 ∧ t = { (s.reached 0x078) with regs := t.regs, bus := t.bus }))) ∧
  (∀ (k : Nat) (b : List Byte) (s : State),
    s.on FIL.OUT_CFG_EN = true ∧ s.outBaseOk = true ∧ s.bitOn FIL.OUT_MASK k = false →
    (s.rd FIL.OUT_WR_IDX + 1) % s.outSize ≠ s.rd FIL.OUT_RD_IDX % s.outSize ∧ b.length = 32 ∧ s.rd FIL.OUT_WR_IDX < s.outSize →
    (s.ringRecord k b).dpaRead (s.rd64 FIL.OUT_BASE_LO FIL.OUT_BASE_HI + 32 * s.rd FIL.OUT_WR_IDX) 32 = b
        ∧ (s.ringRecord k b).rd FIL.OUT_WR_IDX = (s.rd FIL.OUT_WR_IDX + 1) % s.outSize
        ∧ (s.ringRecord k b).rd FIL.OUT_LOST = s.rd FIL.OUT_LOST) ∧
  (∀ (k : Nat) (b : List Byte) (s : State),
    s.on FIL.OUT_CFG_EN = true ∧ s.outBaseOk = true ∧ s.bitOn FIL.OUT_MASK k = false →
    (s.rd FIL.OUT_WR_IDX + 1) % s.outSize = s.rd FIL.OUT_RD_IDX % s.outSize →
    (s.ringRecord k b).mem = s.mem ∧ (s.ringRecord k b).rd FIL.OUT_STAT_OVERFLOW = 1
        ∧ (s.ringRecord k b).rd FIL.OUT_WR_IDX = s.rd FIL.OUT_WR_IDX
        ∧ (s.ringRecord k b).rd FIL.OUT_LOST = ((s.inc FIL.OUT_LOST).rd FIL.OUT_LOST))

/-- Offline filtering (R496) and calibration (R492 to R495, Table FIL-8). -/
def Obligations.OfflineFiltersAndCalibrations : Prop :=
  (∀ (rid rankW rankR rom inObj outObj : Nat) (rankEn : Bool) (r : Req) (s : State),
    s.running rid = some (r, .filter rankEn rankW rankR rom inObj outObj) ∧ r.claims 14 = true ∧ s.filRuns = true ∧ r.yieldBy = none →
    rankW ≤ 3 ∧ rankR < rankWidth rankW ∧ rom ≤ 31 →
    exec (.filter rid) s = .next (s.withObjs rid r.ws [r.inId inObj]
        (fun u => if (u.objHdrs r.ws (r.inId inObj)).any (fun h => decide (h.format ≠ 0x0A) || decide (h.layout ≠ 0)) then some 1
          else if u.objFits r.ws (r.inId inObj) (fun _ => true) then none else some 0)
        (fun u => match u.tileBytesOf r.ws (r.inId inObj) r.done with
          | none => (u.inc FIL.FILTER_CNT).stepDone rid
          | some l => State.needThen rid (u.putTile rid r.ws (r.outId outObj) r.done 0x0A 0 (hdrOf l).dim0 (hdrOf l).dim1 (hdrOf l).pitch 0
              [] (padTo (hdrOf l).len (filterTile rankEn (rankWidth rankW) rankR rom (hdrOf l) (payloadOf l)))) (fun v =>
              let v := v.modReq rid (fun q => { q with done := q.done + 1 })
              if (u.objHdrs r.ws (r.inId inObj)).length ≤ r.done + 1 then (v.inc FIL.FILTER_CNT).stepDone rid else v)))) ∧
  (∀ (rid rankW rankR rom inObj outObj : Nat) (rankEn : Bool) (r : Req) (s : State),
    s.running rid = some (r, .filter rankEn rankW rankR rom inObj outObj) ∧ r.claims 14 = true ∧ s.filRuns = true ∧ r.yieldBy = none →
    3 < rankW ∨ rankWidth rankW ≤ rankR ∨ 31 < rom →
    exec (.filter rid) s = .next (s.endReq rid ocTierFailed 1)) ∧
  (∀ (rid : Nat) (s : State),
    s.running rid = none ∨ s.filRuns = false →
    exec (.filter rid) s = .next s) ∧
  (∀ (rankEn : Bool) (w r rom : Nat) (xs : List Int),
    (filterRow rankEn w r rom xs).length = xs.length) ∧
  (∀ (rq : Requester) (channel range : Nat) (ref : Bool) (s : State),
    s.answers rq 0x07A ∧ (s.reached 0x07A).rd FIL_CAL.CAL_STAT_RESULT = 1 →
    exec (.calStart rq channel range ref) s = .next ((s.reached 0x07A).reject 0x07A)) ∧
  (∀ (rq : Requester) (channel range : Nat) (ref : Bool) (s : State),
    s.answers rq 0x07A ∧ channel < 32 ∧ range < 4 ∧ (s.reached 0x07A).rd FIL_CAL.CAL_STAT_RESULT ≠ 1 →
    leaves (.calStart rq channel range ref) s (fun t => t.rd FIL_CAL.CAL_STAT_RESULT = 1 ∧ t.rd FIL_CAL.CAL_STAT_REASON = 0
          ∧ t.rd FIL_CAL.CAL_STAT_CHANNEL = channel ∧ t.rd FIL_CAL.CAL_STAT_RANGE = range
          ∧ t.fil = { s.fil with cal := some { channel := channel, range := range, ref := ref, since := s.tick, raws := [], sat := false } }
          ∧ t = { (s.reached 0x07A) with fil := t.fil, regs := t.regs })) ∧
  (∀ (c : FilCal) (s : State),
    s.fil.cal = some c ∧ c.raws.length < (if s.rd FIL_CAL.CAL_SAMPLES < 16 then 16 else s.rd FIL_CAL.CAL_SAMPLES) →
    exec .calResult s = .next s) ∧
  (∀ (s : State),
    s.fil.cal = none →
    exec .calResult s = .next s ∧ exec .calTimeout s = .next s) ∧
  (∀ (c : FilCal) (why k r : Nat) (s : State),
    s.fil.cal = some c ∧ ¬(c.raws.length < (if s.rd FIL_CAL.CAL_SAMPLES < 16 then 16 else s.rd FIL_CAL.CAL_SAMPLES)) →
    s.calReason c (calMoments c.raws).1 (calMoments c.raws).2 = why ∧ c.channel < 24 ∧ c.range < 4 ∧ k < 24 ∧ r < 4 →
    leaves .calResult s (fun t => t.fil = { s.fil with cal := none } ∧ t.rd FIL_CAL.CAL_STAT_RESULT = (if why = 0 then 2 else 3)
          ∧ t.rd FIL_CAL.CAL_STAT_REASON = why
          ∧ t.rd FIL_CAL.CAL_MEAN = f64to32 (calMoments c.raws).1 % 2 ^ 32
          ∧ t.rd FIL_CAL.CAL_COLLECTED = c.raws.length % 2 ^ 16
          ∧ (why = 0 → t.calSet c.channel c.range = true)
          ∧ (why ≠ 0 ∨ k ≠ c.channel ∨ r ≠ c.range →
              t.rd (FIL_CAL.GAIN k r) = s.rd (FIL_CAL.GAIN k r) ∧ t.rd (FIL_CAL.OFFSET k r) = s.rd (FIL_CAL.OFFSET k r))
          ∧ (why = 0 → c.ref = false → t.rd (FIL_CAL.GAIN c.channel c.range) = s.rd (FIL_CAL.GAIN c.channel c.range)
              ∧ t.rd (FIL_CAL.OFFSET c.channel c.range) = f64to32 (f64Sub (calMoments c.raws).1
                  (f64Div (f32to64 (s.rd FIL_CAL.CAL_REF)) (f32to64 (s.rd (FIL_CAL.GAIN c.channel c.range))))) % 2 ^ 32)
          ∧ t = { s with fil := t.fil, regs := t.regs, evt := t.evt, bus := t.bus, out := t.out })) ∧
  (∀ (c : FilCal) (s : State),
    s.fil.cal = some c →
    exec .calTimeout s = .next (if c.since + atLeast1 (s.rd FIL_CAL.CAL_TIMEOUT) ≤ s.tick then
          (((s.setFil { s.fil with cal := none }).wr FIL_CAL.CAL_STAT_RESULT 4).wr FIL_CAL.CAL_STAT_REASON 8).raiseIrq 0x078 2 else s))

/-! ### Hallmark -/

/-- Commands at the boundary (R508, R509, R511, Table HM-2), the initial step (R526), switches and slews (R527, R528), and the start of the timing core (R540, R542). -/
def Obligations.CellTimeIsSetSteppedAndSwitched : Prop :=
  (∀ (rq : Requester) (s : State),
    s.answers rq 0x080 →
    leaves (.set rq) s (fun t => t.hm.cmd = some (1, s.bst 0x080 == .active) ∧ t.rd HM.HM_CMD_STAT_RESULT = 1
          ∧ t = { (s.reached 0x080) with hm := { s.hm with cmd := t.hm.cmd }, regs := t.regs })
        ∧ leaves (.snap rq) s (fun t => t.hm.cmd = some (2, s.bst 0x080 == .active) ∧ t.rd HM.HM_CMD_STAT_RESULT = 1
          ∧ t = { (s.reached 0x080) with hm := { s.hm with cmd := t.hm.cmd }, regs := t.regs })
        ∧ leaves (.switchPri rq) s (fun t => t.hm.cmd = some (3, s.bst 0x080 == .active) ∧ t.rd HM.HM_CMD_STAT_RESULT = 1
          ∧ t = { (s.reached 0x080) with hm := { s.hm with cmd := t.hm.cmd }, regs := t.regs })
        ∧ leaves (.switchSec rq) s (fun t => t.hm.cmd = some (4, s.bst 0x080 == .active) ∧ t.rd HM.HM_CMD_STAT_RESULT = 1
          ∧ t = { (s.reached 0x080) with hm := { s.hm with cmd := t.hm.cmd }, regs := t.regs })) ∧
  (∀ (rq : Requester) (code : Nat) (s : State),
    s.answers rq 0x080 ∧ (code = 0 ∨ (5 ≤ code ∧ code ≤ 7)) →
    leaves (.hmCmdInvalid rq code) s (fun t => t.hm.cmd = some (code, s.bst 0x080 == .active) ∧ t.rd HM.HM_CMD_STAT_RESULT = 1
          ∧ t = { (s.reached 0x080) with hm := { s.hm with cmd := t.hm.cmd }, regs := t.regs })) ∧
  (∀ (code why : Nat) (active : Bool) (s : State),
    s.hm.cmd = some (code, active) ∧ s.hmReason code active = why ∧ why ≠ 0 →
    s.hmApply.hm = { s.hm with cmd := none } ∧ s.hmApply.rd HM.HM_CMD_STAT_RESULT = 3
        ∧ s.hmApply.rd HM.HM_CMD_STAT_REASON = why ∧ s.hmApply.activeDom = s.activeDom ∧ s.hmApply.evt = s.evt
        ∧ s.hmApply.rd HM.CELL_STAT_INIT = s.rd HM.CELL_STAT_INIT) ∧
  (∀ (s : State),
    s.hm.cmd = some (1, true) ∧ s.rd HM.SET_NS ≤ 999999999 ∧ s.tick < 2 ^ 64 →
    s.hmApply.hm.cell = timeOf (s.rd64 HM.SET_SEC_LO HM.SET_SEC_HI) (s.rd HM.SET_NS) (s.rd HM.SET_SUBNS)
        ∧ s.hmApply.rd HM.CELL_STAT_INIT = 1 ∧ s.hmApply.rd64 HM.STEP_TICK_LO HM.STEP_TICK_HI = s.tick
        ∧ s.hmApply.rd HM.HM_CMD_STAT_RESULT = 2 ∧ s.hmApply.rd HM.HM_CMD_STAT_REASON = 0
        ∧ s.hmApply.rd HM.HM_CMD_STAT_TICK = s.tick % 65536 ∧ s.hmApply.activeDom = s.activeDom ∧ s.hmApply.hm.cmd = none) ∧
  (∀ (s : State),
    s.hm.cmd = some (2, true) ∧ s.domGood s.activeDom = true ∧ s.tick < 2 ^ 64 →
    s.hmApply.hm.cell = (s.dom s.activeDom).time ∧ s.hmApply.rd HM.CELL_STAT_INIT = 1
        ∧ s.hmApply.rd64 HM.STEP_TICK_LO HM.STEP_TICK_HI = s.tick ∧ s.hmApply.rd HM.HM_CMD_STAT_RESULT = 2
        ∧ s.hmApply.rd HM.CELL_STAT_SLEWING = 0 ∧ s.hmApply.activeDom = s.activeDom ∧ s.hmApply.hm.cmd = none) ∧
  (∀ (d : Nat) (s : State),
    s.hm.cmd = some (3 + d, true) ∧ d < 2 ∧ s.domGood d = true ∧ s.activeDom ≠ d →
    s.hmApply.activeDom = d ∧ s.hmApply.hm.cell = s.hm.cell ∧ s.hmApply.hm.rate = (if s.domState d = dsMaster then s.hm.rate else (s.dom d).rate)
        ∧ s.hmApply.rd HM.CELL_STAT_SWITCH_CAUSE = 0 ∧ s.hmApply.rd HM.HM_CMD_STAT_RESULT = 2
        ∧ s.hmApply.rd HM.CELL_STAT_LOCKED = 1 ∧ (mapFind s.hmApply.evt.fired 11).isSome = true ∧ s.hmApply.hm.cmd = none) ∧
  (∀ (s : State),
    s.on HM.HM_CTRL_AUTO_SWITCH = true ∧ s.bst 0x080 = .active ∧ s.domGood s.activeDom = false ∧ s.domGood (1 - s.activeDom) = true →
    leaves .autoSwitch s (fun t => t.activeDom = 1 - s.activeDom ∧ t.rd HM.CELL_STAT_SWITCH_CAUSE = 1 ∧ t.hm.cell = s.hm.cell
          ∧ t.hm.rate = (if s.domState (1 - s.activeDom) = dsMaster then s.hm.rate else (s.dom (1 - s.activeDom)).rate) ∧ t.rd HM.CELL_STAT_LOCKED = 1 ∧ (mapFind t.evt.fired 11).isSome = true)) ∧
  (∀ (s : State),
    s.on HM.HM_CTRL_AUTO_SWITCH = false ∨ s.bst 0x080 ≠ .active ∨ s.domGood s.activeDom = true ∨ s.domGood (1 - s.activeDom) = false →
    exec .autoSwitch s = .next s) ∧
  (∀ (s : State),
    s.on HM.CELL_STAT_INIT = false ∧ s.on HM.HM_CTRL_INIT_STEP_EN = true ∧ s.bst 0x080 = .active ∧ s.domGood s.activeDom = true →
    leaves .initialStep s (fun t => t.hm.cell = (s.dom s.activeDom).time ∧ t.rd HM.CELL_STAT_INIT = 1
          ∧ t.hm.entries = s.hm.entries.map (fun e => { e with stepped := true }) ∧ t.activeDom = s.activeDom)) ∧
  (∀ (s : State),
    s.on HM.CELL_STAT_INIT = true ∨ s.on HM.HM_CTRL_INIT_STEP_EN = false ∨ s.bst 0x080 ≠ .active ∨ s.domGood s.activeDom = false →
    exec .initialStep s = .next s) ∧
  (∀ (s : State),
    exec .slewEnd s = .next (if s.on HM.CELL_STAT_SLEWING = true ∧ -nsUnit ≤ s.cellOffset ∧ s.cellOffset ≤ nsUnit then s.wr HM.CELL_STAT_SLEWING 0 else s)) ∧
  (∀ (d : Nat) (s : State),
    d < 2 ∧ s.bst 0x080 = .ready ∧ s.on (HDR.BLK_CTRL_ENABLE 0x080) = true ∧ s.bitOn BZ_PM.PLL_LOCK 2 = true →
    leaves .hmCoreStart s (fun t => t.bst 0x080 = .active ∧ t.rd HM.CELL_STAT_COARSE = 0 ∧ t.hm.cell = s.hm.cell
          ∧ (s.domState d = dsDisabled → s.on (HM_DOM.DOM_CFG_SRC d) = true → t.domState d = dsAcquiring))) ∧
  (∀ (s : State),
    s.bst 0x080 ≠ .ready ∨ s.on (HDR.BLK_CTRL_ENABLE 0x080) = false ∨ s.bitOn BZ_PM.PLL_LOCK 2 = false →
    exec .hmCoreStart s = .next s)

/-- PTP messages (R519, R520, Table HM-5), measurements (R522), domain states (R521, Table HM-6), and the servo (R524). -/
def Obligations.DomainsFollowTheirProtocols : Prop :=
  (∀ (d seq li : Nat) (twoStep : Bool) (origin recv corr : Int) (s : State),
    s.ptpRuns d = true ∧ s.follows d = true ∧ -7 ≤ toSigned 8 li ∧ toSigned 8 li ≤ 1 →
    exec (.sync d true twoStep seq li origin recv corr) s = .next (
          if twoStep then (s.syncSeen d (some (toSigned 8 li))).modDom d (fun x => { x with waitSync := some (seq, recv, corr) })
          else (s.syncSeen d (some (toSigned 8 li))).measureSync d origin recv corr)) ∧
  (∀ (d seq li : Nat) (valid twoStep : Bool) (origin recv corr : Int) (s : State),
    s.ptpRuns d = false ∨ s.follows d = false ∨ valid = false ∨ toSigned 8 li < -7 ∨ 1 < toSigned 8 li →
    exec (.sync d valid twoStep seq li origin recv corr) s = .next s) ∧
  (∀ (d seq : Nat) (origin recv c0 corr : Int) (s : State),
    s.ptpRuns d = true ∧ s.follows d = true ∧ (s.dom d).waitSync = some (seq, recv, c0) →
    exec (.followUp d seq origin corr) s = .next ((s.modDom d (fun x => { x with waitSync := none })).measureSync d origin recv (c0 + corr))) ∧
  (∀ (d seq : Nat) (origin corr : Int) (s : State),
    (s.dom d).waitSync = none ∨ s.ptpRuns d = false ∨ s.follows d = false →
    exec (.followUp d seq origin corr) s = .next s) ∧
  (∀ (d : Nat) (origin recv corr : Int) (s : State),
    d < 2 →
    s.measureSync d origin recv corr = (s.modDom d (fun x => { x with sync := some (origin + corr, s.toDomain d recv) })).measure d
          (s.toDomain d recv - origin - corr - (s.dom d).delay)) ∧
  (∀ (d : Nat) (off : Int) (s : State),
    d < 2 →
    (s.measure d off).rd (HM_DOM.OFFSET_NS d) = ofSigned 32 (off / 65536)
        ∧ -2147483 ≤ ((s.measure d off).dom d).rate ∧ ((s.measure d off).dom d).rate ≤ 2147483
        ∧ (s.measure d off).hm.cell = s.hm.cell ∧ (s.measure d off).domState (1 - d) = s.domState (1 - d)
        ∧ (s.domState d = dsLost → (s.measure d off).domState d = dsAcquiring)
        ∧ (s.domState d = dsHoldover → (s.measure d off).domState d
            = if (s.rd (HM_DOM.UNLOCK_NS d) : Int) * 65536 < (off.natAbs : Int) then dsAcquiring else dsLocked)
        ∧ (s.domState d = dsLocked → 1 ≤ (s.dom d).bad → (s.rd (HM_DOM.UNLOCK_NS d) : Int) * 65536 < (off.natAbs : Int) →
            (s.measure d off).domState d = dsAcquiring)
        ∧ (s.domState d = dsLocked → (off.natAbs : Int) ≤ (s.rd (HM_DOM.UNLOCK_NS d) : Int) * 65536 → (s.measure d off).domState d = dsLocked)
        ∧ (s.domState d = dsAcquiring → (off.natAbs : Int) ≤ (s.rd (HM_DOM.LOCK_NS d) : Int) * 65536 →
            (s.measure d off).domState d = if 7 ≤ (s.dom d).good then dsLocked else dsAcquiring)
        ∧ ((s.measure d off).domState d = dsAcquiring → (s.rd (HM_DOM.STEP_NS d) : Int) * 65536 < (off.natAbs : Int) →
            ((s.measure d off).dom d).time = (s.dom d).time - off * 65536)) ∧
  (∀ (d seq : Nat) (recv : Int) (s : State),
    exec (.delayReq d seq recv) s = .next (if s.ptpRuns d = true ∧ s.domP2p d = false ∧ s.domState d = dsMaster then
          s.emit (.ptp d (s.rd (HM_DOM.DOM_CFG_VLAN_ID d)) 0x9 seq (recv + ((s.dom d).time - s.hm.cell) / 65536)) else s)) ∧
  (∀ (d seq : Nat) (t1 t2 t3 recv corr : Int) (s : State),
    s.ptpRuns d = true ∧ s.domP2p d = false ∧ s.follows d = true ∧ (s.dom d).dreq = some (seq, t3) ∧ (s.dom d).sync = some (t1, t2) →
    leaves (.delayResp d seq recv corr) s (fun t => (t.dom d).delay = ((t2 - t1) + (recv - corr - t3)) / 2 ∧ (t.dom d).dreq = none
          ∧ t.rd (HM_DOM.MEAN_DELAY_NS d) = ofSigned 32 ((t.dom d).delay / 65536)
          ∧ t = { s with hm := { s.hm with doms := t.hm.doms }, regs := t.regs })) ∧
  (∀ (d seq : Nat) (recv corr : Int) (s : State),
    s.ptpRuns d = false ∨ s.domP2p d = true ∨ s.follows d = false ∨ (s.dom d).dreq = none ∨ (s.dom d).sync = none →
    exec (.delayResp d seq recv corr) s = .next s) ∧
  (∀ (d seq : Nat) (recv : Int) (s : State),
    s.ptpRuns d = true ∧ s.domP2p d = true →
    leaves (.pdelayReq d seq recv) s (fun t => t = { s with out := s.out ++ [.ptp d (s.rd (HM_DOM.DOM_CFG_VLAN_ID d)) 0x3 seq recv, .ptp d (s.rd (HM_DOM.DOM_CFG_VLAN_ID d)) 0xA seq (s.sendStamp (4 + s.rd (HM_DOM.DOM_CFG_PORT d))).1], free := s.free + 1 })) ∧
  (∀ (d seq : Nat) (recv : Int) (s : State),
    s.ptpRuns d = false ∨ s.domP2p d = false →
    exec (.pdelayReq d seq recv) s = .next s) ∧
  (∀ (d seq : Nat) (twoStep : Bool) (t1 t2 recv corr : Int) (s : State),
    s.ptpRuns d = true ∧ s.domP2p d = true ∧ (s.dom d).preq = some (seq, t1) →
    leaves (.pdelayResp d seq twoStep t2 recv corr) s (fun t =>
          (twoStep = true → t = s.modDom d (fun x => { x with presp := some (seq, t2, recv, corr) }))
          ∧ (twoStep = false → (t.dom d).delay = (recv - t1 - corr) / 2 ∧ (t.dom d).preq = none
              ∧ t.rd (HM_DOM.MEAN_DELAY_NS d) = ofSigned 32 ((t.dom d).delay / 65536)
              ∧ t = { s with hm := { s.hm with doms := t.hm.doms }, regs := t.regs }))) ∧
  (∀ (d seq : Nat) (t1 t2 t3 t4 c0 corr : Int) (s : State),
    s.ptpRuns d = true ∧ s.domP2p d = true ∧ (s.dom d).preq = some (seq, t1) ∧ (s.dom d).presp = some (seq, t2, t4, c0) →
    leaves (.pdelayRespFollowUp d seq t3 corr) s (fun t => (t.dom d).delay = ((t4 - t1) - (t3 - t2) - c0 - corr) / 2
          ∧ (t.dom d).preq = none ∧ (t.dom d).presp = none ∧ t.rd (HM_DOM.MEAN_DELAY_NS d) = ofSigned 32 ((t.dom d).delay / 65536)
          ∧ t = { s with hm := { s.hm with doms := t.hm.doms }, regs := t.regs })) ∧
  (∀ (d : Nat) (a : PtpAnnounce) (s : State),
    s.ptpRuns d = true ∧ s.domState d ≠ dsDisabled ∧ (s.dom d).gm = none →
    leaves (.announcePtp d a) s (fun t => (t.dom d).gm = some a ∧ t.rd (HM_DOM.UTC_OFFSET d) = a.utcOffset % 65536 ∧ t.hm.cell = s.hm.cell
          ∧ t.domState d = (if s.on (HM_DOM.DOM_CFG_SLAVE_ONLY d) = false ∧ lexLt (s.ownKey d) (announceKey a) = true then dsMaster else dsAcquiring))) ∧
  (∀ (d : Nat) (a g : PtpAnnounce) (s : State),
    s.ptpRuns d = true ∧ s.domState d ≠ dsDisabled ∧ (s.dom d).gm = some g ∧ g.gmId ≠ a.gmId ∧ lexLt (announceKey a) (announceKey g) = false →
    s.domState d ≠ dsMaster ∧ s.on (HM_DOM.DOM_CFG_SLAVE_ONLY d) = true →
    leaves (.announcePtp d a) s (fun t => (t.dom d).gm = some g ∧ t.domState d = s.domState d ∧ (t.dom d).good = (s.dom d).good)) ∧
  (∀ (d : Nat) (a : PtpAnnounce) (s : State),
    exec (.managementSignaling d) s = .next s ∧ (s.ptpRuns d = false → exec (.announcePtp d a) s = .next s)) ∧
  (∀ (d kind : Nat) (s : State),
    s.ptpRuns d = true ∧ (kind = 0 ∨ kind = 1 ∨ kind = 2) ∧ s.ptpSends d kind = true →
    s.ptpDue d kind (toSigned 4 (if kind = 0 then s.rd (HM_DOM.DOM_INTERVAL_LOG_SYNC d) else s.rd (HM_DOM.DOM_INTERVAL_LOG_DELAY_REQ d))) = true →
    leaves (.ptpMessageSend d kind) s (fun t => (t.dom d).seq = (s.dom d).seq + 1 ∧ mapFind (t.dom d).sent kind = some s.tick
          ∧ t.out = s.out ++ (let vlan := s.rd (HM_DOM.DOM_CFG_VLAN_ID d)
              if kind = 0 then [.ptp d vlan 0 ((s.dom d).seq % 65536) 0, .ptp d vlan 8 ((s.dom d).seq % 65536) (s.toDomain d (s.sendStamp (4 + s.rd (HM_DOM.DOM_CFG_PORT d))).1)] else [.ptp d vlan kind ((s.dom d).seq % 65536) 0])
          ∧ (kind = 1 → (t.dom d).dreq = some ((s.dom d).seq % 65536, s.toDomain d (s.sendStamp (4 + s.rd (HM_DOM.DOM_CFG_PORT d))).1)) ∧ (kind = 2 → (t.dom d).preq = some ((s.dom d).seq % 65536, (s.sendStamp (4 + s.rd (HM_DOM.DOM_CFG_PORT d))).1))
          ∧ t = { s with hm := { s.hm with doms := t.hm.doms }, out := t.out, free := s.free + 1 })) ∧
  (∀ (d kind : Nat) (s : State),
    s.ptpRuns d = true ∧ kind = 0xB ∧ s.domState d = dsMaster ∧ s.ptpDue d 0xB (toSigned 4 (s.rd (HM_DOM.DOM_INTERVAL_LOG_ANNOUNCE d))) = true →
    leaves (.ptpMessageSend d kind) s (fun t => (t.dom d).seq = (s.dom d).seq + 1 ∧ mapFind (t.dom d).sent 0xB = some s.tick
          ∧ t.out = s.out ++ [.ptp d (s.rd (HM_DOM.DOM_CFG_VLAN_ID d)) 0xB ((s.dom d).seq % 65536) 0] ∧ t.domState d = dsMaster)) ∧
  (∀ (d kind : Nat) (s : State),
    s.ptpRuns d = false ∨ (kind ≠ 0xB ∧ s.ptpSends d kind = false) →
    exec (.ptpMessageSend d kind) s = .next s) ∧
  (∀ (d : Nat) (s : State),
    d < 2 ∧ s.hmRuns = true ∧ s.follows d = true ∧ s.domState d ≠ dsLost ∧ (s.dom d).lastSync + s.lossTicks d ≤ s.tick →
    leaves (.domainLoss d) s (fun t => t.domState d = dsLost ∧ (t.dom d).gm = none ∧ t.domState (1 - d) = s.domState (1 - d)
          ∧ t.rd (HM_DOM.LOSS_CNT d) = (s.inc (HM_DOM.LOSS_CNT d)).rd (HM_DOM.LOSS_CNT d) ∧ t.hm.cell = s.hm.cell
          ∧ (mapFind t.evt.fired (9 + d)).isSome = true)) ∧
  (∀ (d : Nat) (s : State),
    2 ≤ d ∨ s.hmRuns = false ∨ s.follows d = false ∨ s.domState d = dsLost ∨ s.tick < (s.dom d).lastSync + s.lossTicks d →
    exec (.domainLoss d) s = .next s)

/-- Stamps (R513, R517), the transmit-stamp queue (R532 to R534), PPS (R535) and FSYNC (R536, R538). -/
def Obligations.EdgesAreStampedAndEmitted : Prop :=
  (∀ (line n : Nat) (s : State),
    line ≤ 16 ∧ n < 1000 ∧ s.stampsOn = true ∧ (s.hm.entries.filter (fun e => e.line == line)).length < 4 →
    leaves (.stampEdge line n) s (fun t => t = { s with hm := { s.hm with entries := s.hm.entries ++ [
          ⟨line, 500 * s.tick + n / 2, s.cellAt n, s.activeDom, s.on HM.CELL_STAT_SLEWING, s.on HM.CELL_STAT_COARSE, false⟩] } })) ∧
  (∀ (line n : Nat) (s : State),
    line ≤ 16 ∧ n < 1000 ∧ s.stampsOn = true ∧ 4 ≤ (s.hm.entries.filter (fun e => e.line == line)).length →
    exec (.stampEdge line n) s = .next ((s.inc HM.STAMP_OVERRUN_CNT).raiseIrq 0x080 3)) ∧
  (∀ (line n : Nat) (s : State),
    16 < line ∨ 1000 ≤ n ∨ s.stampsOn = false →
    exec (.stampEdge line n) s = .next s) ∧
  (∀ (s : State),
    leaves .stampRoutine s (fun t => (s.hmRuns = true → t.hm.entries = [])
          ∧ (s.hmRuns = false → t.hm.entries = s.hm.entries.filter (fun e => !e.coarse))
          ∧ (s.hm.entries = [] → t = s) ∧ t.hm.cell = s.hm.cell)) ∧
  (∀ (e : StampEntry) (s : State),
    s.hmRuns = true ∧ s.hm.entries = [e] ∧ e.coarse = false ∧ e.line ≤ 16 ∧ e.line ≠ 8 ∧ e.slewing = false ∧ e.stepped = false ∧ e.domain < 2 →
    500 * s.tick ≤ e.cycle ∧ e.cycle < 500 * s.tick + 500 ∧ s.hm.rate = 0 →
    0 ≤ e.cell - 6 * nsUnit - toSigned 16 (s.rd (HM.LINE_DELAY e.line)) * (nsUnit / 16) →
    leaves .stampRoutine s (fun t =>
          t.rd (HM.STAMP_NS e.line) = nsOf (e.cell - 6 * nsUnit - toSigned 16 (s.rd (HM.LINE_DELAY e.line)) * (nsUnit / 16))
          ∧ t.rd (HM.STAMP_FLAGS e.line) = 1 + 8 * e.domain ∧ t.rd HM.STAMP_SAT_CNT = s.rd HM.STAMP_SAT_CNT
          ∧ t = { s with hm := { s.hm with entries := [] }, regs := t.regs })) ∧
  (∀ (rq : Requester) (p : Nat) (e : TxqEntry) (l : List TxqEntry) (s : State),
    s.answers rq 0x082 ∧ p < 4 ∧ s.txq p = e :: l →
    leaves (.txqPop rq p) s (fun t => t.txq p = l ∧ t.rd (HM_TXQ.TXQ_LEVEL p) = l.length % 32
          ∧ t = { (s.reached 0x082) with hm := { s.hm with txq := t.hm.txq }, regs := t.regs })) ∧
  (∀ (rq : Requester) (p : Nat) (s : State),
    s.answers rq 0x082 ∧ p < 4 ∧ s.txq p = [] →
    exec (.txqPop rq p) s = .next ((s.reached 0x082).reject 0x082)) ∧
  (∀ (p : Nat) (e : TxqEntry) (s : State),
    ((s.txq p).length < 16 → (s.txqAdd p e).txq p = s.txq p ++ [e] ∧ (mapFind (s.txqAdd p e).evt.fired 12).isSome = true)
        ∧ (16 ≤ (s.txq p).length → (s.txqAdd p e).hm = s.hm ∧ (s.txqAdd p e).evt = s.evt ∧ (s.txqAdd p e).rd (HM_TXQ.TXQ_STAT_OVF p) = 1
            ∧ (s.txqAdd p e).rd (HM_TXQ.TXQ_LOST p) = (s.inc (HM_TXQ.TXQ_LOST p)).rd (HM_TXQ.TXQ_LOST p))) ∧
  (∀ (n : Nat) (s : State),
    exec (.ppsInEdge n) s = .next (if n < 1000 then (if s.stampsOn = false then s.fire 8 0
          else if 4 ≤ (s.hm.entries.filter (fun e => e.line == 8)).length then (((s.fire 8 0).inc HM.STAMP_OVERRUN_CNT).raiseIrq 0x080 3)
          else { s.fire 8 0 with hm := { s.hm with entries := s.hm.entries ++ [
            ⟨8, 500 * s.tick + n / 2, s.cellAt n, s.activeDom, s.on HM.CELL_STAT_SLEWING, s.on HM.CELL_STAT_COARSE, false⟩] } }) else s)) ∧
  (∀ (s : State),
    s.on HM.PPS_CTRL_PPS_OUT_EN = false →
    exec .ppsOutEdge s = .next s) ∧
  (∀ (sec : Nat) (s : State),
    s.on HM.PPS_CTRL_PPS_OUT_EN = true ∧ s.hm.cell ≤ (sec : Int) * secUnit ∧ (sec : Int) * secUnit < s.hm.cell + s.cellStep ∧ s.hm.ppsLast = none →
    s.cellStep ≤ secUnit →
    leaves .ppsOutEdge s (fun t => t.hm = { s.hm with ppsLast := some sec, ppsPulse := s.tick + atLeast1 (s.rd HM.PPS_CTRL_PPS_WIDTH) }
          ∧ t.out = s.out ++ [.pps (((sec : Int) * secUnit - s.hm.cell) / nsUnit).toNat] ∧ (mapFind t.evt.fired 14).isSome = true)) ∧
  (∀ (sec : Nat) (s : State),
    s.hm.ppsLast = some sec ∧ s.hm.cell ≤ (sec : Int) * secUnit ∧ s.hm.cell + s.cellStep ≤ ((sec : Int) + 1) * secUnit ∧ 0 ≤ s.hm.cell →
    exec .ppsOutEdge s = .next s) ∧
  (∀ (f : Nat) (s : State),
    f < 4 ∧ (s.fsOf f).mode = 1 ∧ (s.fsOf f).start ≤ s.tick ∧ (s.fsOf f).period ≠ 0 ∧ (s.tick - (s.fsOf f).start) % (s.fsOf f).period = 0 →
    mapFind s.hm.fsLast f = none →
    leaves (.fsyncOutEdge f) s (fun t => t.out.take (s.out.length + 1) = s.out ++ [.fsync f] ∧ mapFind t.hm.fsLast f = some s.tick
          ∧ mapFind t.hm.fsPulse f = some (s.tick + (s.fsOf f).width) ∧ (mapFind t.evt.fired (24 + f)).isSome = true)) ∧
  (∀ (f : Nat) (s : State),
    4 ≤ f ∨ (s.fsOf f).mode = 0 ∨ ((s.fsOf f).mode = 1 ∧ (s.tick < (s.fsOf f).start ∨ (s.tick - (s.fsOf f).start) % atLeast1 (s.fsOf f).period ≠ 0)) →
    exec (.fsyncOutEdge f) s = .next s) ∧
  (∀ (f e : Nat) (s : State),
    f < 4 ∧ (s.fsOf f).mode = 2 ∧ firstEdge (s.fsOf f).start (s.fsOf f).period s.hm.cell = e →
    leaves (.fsyncOutEdge f) s (fun t => (if (e : Int) * nsUnit < s.hm.cell + s.cellStep ∧ mapFind s.hm.fsLast f = none
            then t.out.take (s.out.length + 1) = s.out ++ [.fsync f] ∧ mapFind t.hm.fsLast f = some e
            else (s.hm.cell + s.cellStep ≤ (e : Int) * nsUnit ∨ mapFind s.hm.fsLast f = some e) → t = s)))

/-- R537. P is in us in TICK mode and in ns in CELL mode (R536). -/
def Obligations.FsyncSettingsAreAppliedOrRefused : Prop :=
  (∀ (rq : Requester) (f m p w : Nat) (s : State),
    s.answers rq 0x080 ∧ f < 4 ∧ (s.reached 0x080).rd (HM.FS_CFG_MODE f) = m ∧ (s.reached 0x080).rd (HM.FS_PERIOD f) = p ∧ (s.reached 0x080).rd (HM.FS_WIDTH f) = w →
    m = 3 ∨ (m = 1 ∧ p < 100) ∨ (m = 2 ∧ p < 100000) ∨ w = 0 ∨ (m = 1 ∧ ¬ w < p) ∨ (m = 2 ∧ ¬ 1000 * w < p) →
    leaves (.fsApply rq f) s (fun t => t.hm = s.hm ∧ t.bitOn HM.FS_STAT_REFUSED f = true ∧ t.fsOf f = s.fsOf f
          ∧ t = { (s.reached 0x080) with regs := t.regs, bus := t.bus })) ∧
  (∀ (rq : Requester) (f m p w : Nat) (s : State),
    s.answers rq 0x080 ∧ f < 4 ∧ (s.reached 0x080).rd (HM.FS_CFG_MODE f) = m ∧ (s.reached 0x080).rd (HM.FS_PERIOD f) = p ∧ (s.reached 0x080).rd (HM.FS_WIDTH f) = w →
    ¬(m = 3 ∨ (m = 1 ∧ p < 100) ∨ (m = 2 ∧ p < 100000) ∨ w = 0 ∨ (m = 1 ∧ ¬ w < p) ∨ (m = 2 ∧ ¬ 1000 * w < p)) →
    leaves (.fsApply rq f) s (fun t => mapFind t.hm.fsNext f = some { mode := m, start := (s.reached 0x080).rd64 (HM.FS_START_LO f) (HM.FS_START_HI f), period := p, width := w }
          ∧ t = { (s.reached 0x080) with hm := { s.hm with fsNext := t.hm.fsNext } })) ∧
  (∀ (f : Nat) (o : FsOut) (s : State),
    f < 4 ∧ s.hm.fsNext.filter (fun e => e.1 == f) = [(f, o)] →
    s.fsTick.fsOf f = o ∧ mapFind s.fsTick.hm.fsNext f = none ∧ mapFind s.fsTick.hm.fsLast f = none)

/-- R523. A domain with no source is DISABLED (Table HM-6). -/
def Obligations.DomainSettingsAreIgnoredOrApplied : Prop :=
  (∀ (rq : Requester) (d word value : Nat) (s : State),
    s.answers rq 0x081 ∧ d < 2 ∧ word < 3 ∧ d = s.activeDom ∧ s.bst 0x080 = .active →
    leaves (.domainConfigWrite rq d word value) s (fun t => t.bitOn (HDR.IRQ_RAW 0x081) irqCtrlRejected = true
          ∧ t.hm = s.hm ∧ t.word 0x081 (0x100 + 64 * d + 4 * word) = s.word 0x081 (0x100 + 64 * d + 4 * word)
          ∧ t = (s.reached 0x081).raiseIrq 0x081 irqCtrlRejected)) ∧
  (∀ (rq : Requester) (d word value : Nat) (s : State),
    s.answers rq 0x081 ∧ d < 2 ∧ word < 3 ∧ (d ≠ s.activeDom ∨ s.bst 0x080 ≠ .active) →
    leaves (.domainConfigWrite rq d word value) s (fun t => (t.dom d).cfgNext = (s.dom d).cfgNext ++ [(word, value)]
          ∧ t.dom (1 - d) = s.dom (1 - d) ∧ t = { (s.reached 0x081) with hm := { s.hm with doms := t.hm.doms } })) ∧
  (∀ (d word value : Nat) (s : State),
    (s.dom d).cfgNext = [(word, value)] ∧ d < 2 ∧ word < 3 ∧ s.bst 0x080 = .active →
    (s.domApply d).word 0x081 (0x100 + 64 * d + 4 * word) = BitVec.ofNat 32 (Nat.land value (domMask word))
        ∧ ((s.domApply d).dom d).cfgNext = [] ∧ (s.domApply d).domState (1 - d) = s.domState (1 - d)
        ∧ (s.domApply d).domState d = if (s.domApply d).rd (HM_DOM.DOM_CFG_SRC d) = 0 then dsDisabled else dsAcquiring)

/-! ### The cell fabric -/

/-- CFP headers (R554, R555), peers (R556 to R559), the view (R562), hand-over (R564 to R566) and queue pairs (R551; from when the
acknowledgement timeout runs is the model's choice, log entry 51). -/
def Obligations.PeersJoinLeaveAndHandOver : Prop :=
  (∀ (h : CfpHeader) (n m : Nat) (s : State),
    s.fabUp = true ∧ s.ethUp h.port = true →
    h.magic ≠ 0x4643 ∨ h.version ≠ 1 ∨ h.cellId ≠ s.rd FAB.CELL_ID ∨ h.deviceId = s.deviceId →
    exec (.leave h) s = .next (s.inc FAB.CFP_IGNORED) ∧ exec (.gone h) s = .next (s.inc FAB.CFP_IGNORED)
        ∧ exec (.ackCfp h n) s = .next (s.inc FAB.CFP_IGNORED) ∧ exec (.borrowReq h n) s = .next (s.inc FAB.CFP_IGNORED)
        ∧ exec (.borrowGrant h n m n) s = .next (s.inc FAB.CFP_IGNORED) ∧ exec (.borrowDeny h) s = .next (s.inc FAB.CFP_IGNORED)
        ∧ exec (.release h) s = .next (s.inc FAB.CFP_IGNORED) ∧ exec (.reclaim h) s = .next (s.inc FAB.CFP_IGNORED)
        ∧ exec (.handoverEnd h n m m) s = .next (s.inc FAB.CFP_IGNORED)) ∧
  (∀ (h : CfpHeader) (n m : Nat) (s : State),
    s.peerOf h.deviceId = none ∧ s.hears h →
    exec (.leave h) s = .next s ∧ exec (.gone h) s = .next s ∧ exec (.ackCfp h n) s = .next s ∧ exec (.borrowReq h n) s = .next s
        ∧ exec (.borrowGrant h n m n) s = .next s ∧ exec (.borrowDeny h) s = .next s ∧ exec (.release h) s = .next s
        ∧ exec (.reclaim h) s = .next s ∧ exec (.handoverEnd h n m m) s = .next s) ∧
  (∀ (h : CfpHeader) (p : Nat) (q : Peer) (s : State),
    s.hearsPeer h p q →
    exec (.leave h) s = .next (((s.emit (.cfp p 2 [h.seq])).wr (FAB.PEER_STAT_STATE p) 3).modPeer p (fun x => { x with
          leaveAt := (if q.leaveAt.isSome then q.leaveAt else some s.tick) })).syncView
        ∧ exec (.gone h) s = .next ((s.emit (.cfp p 2 [h.seq])).depart p)) ∧
  (∀ (slot : Nat) (q : Peer) (s : State),
    mapFind s.fab.peers slot = some q →
    exec (.peerSilenceTimeout slot) s = .next (if q.lastAnn + 3 * q.interval ≤ s.tick then s.depart slot else s)
        ∧ exec (.leaveTimeout slot) s = .next (match q.leaveAt with
          | some t => if t + s.rd FAB.HANDOVER_TICKS ≤ s.tick then s.depart slot else s
          | none => s)
        ∧ exec (.roceAckTimeout slot) s = .next (if s.tick < q.retryTick + s.ackTicks slot then s
            else if q.retries < s.rd (ETH.RETRY_CNT (s.rd (FAB.PEER_STAT_PORT slot))) then
            s.modPeer slot (fun x => { x with retries := q.retries + 1, retryTick := s.tick }) else s.depart slot)) ∧
  (∀ (slot seq : Nat) (q : Peer) (m : CfpOut) (s : State),
    mapFind s.fab.peers slot = some q ∧ q.unacked = [m] ∧ m.seq = seq →
    exec (.cfpResend slot seq) s = .next (
          if s.tick < m.sent + 200 then s
          else if 5 ≤ m.resends then s.depart slot
          else (s.modPeer slot (fun x => { x with unacked := x.unacked.map (fun y =>
            if y.seq = seq then { y with sent := s.tick, resends := y.resends + 1 } else y) })).emit (.cfp slot m.kind m.words))) ∧
  (∀ (p : Nat) (q : Peer) (s : State),
    p < 64 ∧ s.borrowState p = 0 ∧ s.fab.ins = [] →
    (s.clearPeer p q).fab = { s.fab with
          peers := mapErase s.fab.peers p
          held := s.fab.held.filter (fun e => e.1 != p)
          batches := s.fab.batches.filter (fun e => e.1 != p) }
        ∧ (s.clearPeer p q).peerState p = 0 ∧ (s.clearPeer p q).rd (FAB.PEER_ID_LO p) = 0 ∧ (s.clearPeer p q).rd (FAB.PEER_GRANTED p) = 0
        ∧ s.clearPeer p q = { s with fab := (s.clearPeer p q).fab, regs := (s.clearPeer p q).regs }) ∧
  (∀ (h : CfpHeader) (a : AnnouncePayload) (s : State),
    s.hears h ∧ s.pm = 0 ∧ a.cellSeed ≠ s.rd FAB.CELL_SEED →
    exec (.announce h a) s = .next (s.inc FAB.CFP_IGNORED)) ∧
  (∀ (h : CfpHeader) (a : AnnouncePayload) (s : State),
    s.hears h ∧ s.pm = 0 ∧ a.cellSeed = s.rd FAB.CELL_SEED ∧ s.peerOf h.deviceId = none ∧ s.freePeer = none →
    exec (.announce h a) s = .next ((s.inc FAB.PEER_FULL_CNT).raiseIrq 0x08C 2)) ∧
  (∀ (h : CfpHeader) (a : AnnouncePayload) (p : Nat) (s : State),
    s.hears h ∧ s.pm = 0 ∧ a.cellSeed = s.rd FAB.CELL_SEED ∧ s.peerOf h.deviceId = none ∧ s.freePeer = some p →
    exec (.announce h a) s = .next ((((s.setFab { s.fab with peers := mapInsert s.fab.peers p {
          dev := h.deviceId, interval := a.annInterval, lastAnn := s.tick, qpn := a.qpn, lendFree := a.lendFree, txSeq := 0, unacked := [],
          leaveAt := (if a.leaving then some s.tick else none), grant := none, borrowed := 0, remoteBase := 0, remoteKey := 0, retries := 0, retryTick := s.tick, rate := 25000, rateTick := s.tick }
          }).setBorrow p 0).showPeer p (if a.leaving then 3 else if a.shardEn then 2 else 1) h.port h.deviceId).fire 84 p).syncView
        ∧ mapFind s.fab.peers p = none ∧ p < 64 ∧ ∀ i, i < p → (mapFind s.fab.peers i).isSome ∨ (s.borrowState i ≠ 0 ∧ s.borrowState i ≠ 3)
          ∨ s.rows.lookups.any (fun l => decide (l.owner = i + 1) && l.answer.isNone) = true) ∧
  (∀ (h : CfpHeader) (a : AnnouncePayload) (p : Nat) (q : Peer) (s : State),
    s.hearsPeer h p q ∧ s.pm = 0 ∧ a.cellSeed = s.rd FAB.CELL_SEED ∧ a.leaving = false ∧ s.rd (FAB.PEER_STAT_PORT p) ≤ h.port →
    exec (.announce h a) s = .next
          ((if s.peerState p = 1 ∧ a.shardEn = true then
              (s.modPeer p (fun q => { q with interval := a.annInterval, lastAnn := s.tick, qpn := a.qpn, lendFree := a.lendFree })).wr
                (FAB.PEER_STAT_STATE p) 2
            else s.modPeer p (fun q => { q with interval := a.annInterval, lastAnn := s.tick, qpn := a.qpn, lendFree := a.lendFree })).syncView)) ∧
  (∀ (s : State),
    s.eligible = s.fab.cur.members → s.syncView = s) ∧
  (∀ (h : CfpHeader) (acked p : Nat) (q : Peer) (s : State),
    s.hearsPeer h p q →
    exec (.ackCfp h acked) s = .next (s.modPeer p (fun q => { q with unacked := q.unacked.filter (fun m => m.seq != acked) }))) ∧
  (∀ (s : State),
    s.fabUp = true →
    leaves .announceSend s (fun t => if s.fab.lastAnn + clampNat 1000 (2 ^ 24 - 1) (s.rd FAB.ANN_INTERVAL) ≤ s.tick
          then t.fab = { s.fab with lastAnn := s.tick } ∧ t.out = s.out ++ s.ethPorts.map (fun p => .cfp (64 + p) 1 (s.announceWords (s.freeBits 24).1))
          else t = s)
        ∧ exec .joinListenEnd s = .next (match s.fab.listen with
          | some t => if t + s.rd FAB.JOIN_LISTEN ≤ s.tick then (s.setFab { s.fab with listen := none }).fabShard else s
          | none => s)) ∧
  (∀ (s : State),
    s.fabUp = false →
    exec .announceSend s = .next s ∧ exec .joinListenEnd s = .next s) ∧
  (∀ (table range p : Nat) (frozen : Bool) (rest : List (Nat × Nat × Bool)) (s : State),
    s.fab.outs = (table, range, frozen) :: rest ∧ s.handTo table range = some p →
    exec (.handoverRange table range) s = .next (
          if frozen = false then s.setFab { s.fab with outs := (table, range, true) :: rest }
          else if s.updatesWait table range then s
          else
            let u := (s.handReads table range).emit (.peerItems p s.fab.cur.id (s.handRows table range))
            let v := u.cfpSend p 10 [table, range, u.fab.cur.id]
            (v.setFab { v.fab with outs := rest }).leaveGoesOn)) ∧
  (∀ (table range : Nat) (s : State),
    s.fab.outs = [] →
    exec (.handoverRange table range) s = .next s) ∧
  (∀ (h : CfpHeader) (table range view p : Nat) (q : Peer) (s : State),
    s.hearsPeer h p q →
    exec (.handoverEnd h table range view) s = .next (
          if s.fab.ins.any (fun e => decide (e.1 = table) && decide (e.2.1 = range)) = true ∧ (view = s.fab.cur.id ∨ view = s.fab.prev.id) then
            ((s.emit (.cfp p 2 [h.seq])).setFab { s.fab with ended := s.fab.ended ++ [(table, range)] }).serveHeld
          else s.emit (.cfp p 2 [h.seq]))) ∧
  (∀ (table range : Nat) (s : State),
    exec (.handoverTimeout table range) s = .next (
          if (∃ e ∈ s.fab.ins, e.1 = table ∧ e.2.1 = range) ∧ s.fab.viewTick + s.rd FAB.HANDOVER_TICKS ≤ s.tick then
            ((s.inc FAB.HANDOVER_LOST).raiseIrq 0x08C 1).endIn table range else s)) ∧
  (∀ (slot : Nat) (items : List RemoteItem) (s : State),
    exec (.send slot items) s = .next (if s.fabUp = true ∧ (mapFind s.fab.peers slot).isSome = true then
          (items.filter (fun x => x.isPut && !x.isUpdate)).foldl (fun (u : State) x => u.peerItem slot u.fab.cur.id x) (s.roceProgress slot) else s))

/-- Frames (R548 to R550, Tables FAB-1 and FAB-2), RoCE v2 (R551, R552), and lending (R569 to R573). The starting rate of a peer is the model's (log entry 50). -/
def Obligations.FramesPassAndMemoryIsLent : Prop :=
  (∀ (rq : Requester) (p tail : Nat) (s : State),
    p < 4 ∧ s.answers rq (pgEth p) ∧ s.ethUp p = true ∧ s.on (ETH.LINK_STAT_UP p) = false →
    exec (.txrTail rq p tail) s = .next ((s.reached (pgEth p)).wr (ETH.TXR_TAIL p) tail)) ∧
  (∀ (rq : Requester) (p tail : Nat) (s : State),
    p < 4 ∧ s.answers rq (pgEth p) ∧ s.ethUp p = true ∧ s.on (ETH.LINK_STAT_UP p) = true →
    (s.reached (pgEth p)).rd (ETH.TXR_HEAD p) + 1 = tail ∧ tail < s.txrSize p →
    exec (.txrTail rq p tail) s = .next ((((s.reached (pgEth p)).wr (ETH.TXR_TAIL p) tail).sendAt p
          ((s.reached (pgEth p)).rd64 (ETH.TXR_BASE_LO p) (ETH.TXR_BASE_HI p) + 32 * (s.reached (pgEth p)).rd (ETH.TXR_HEAD p))).wr
          (ETH.TXR_HEAD p) tail)) ∧
  (∀ (p a n : Nat) (s : State),
    n ≤ 9216 ∧ inCasket a n = true ∧ 0 < n ∧ a < 2 ^ 64 ∧ p < 4 ∧ s.rd CK_CTRL.INJ_ECC = 0 →
    s.sendEntry p (leBytes 8 a ++ leBytes 2 n ++ List.replicate 22 0)
          = ((s.countRead a n).crossed (quadOf a) 1 n).emit (.frame p (s.dpaRead a n))) ∧
  (∀ (p a n : Nat) (e : List Byte) (s : State),
    fieldAt e 0 8 = a ∧ fieldAt e 8 2 = n ∧ (9216 < n ∨ inCasket a n = false) →
    s.sendEntry p e = (s.incBy (ETH.TX_DROP p) 1).raiseIrq (pgEth p) 2) ∧
  (∀ (p : Nat) (s : State),
    s.ethUp p = true ∧ s.on (ETH.LINK_STAT_UP p) = true →
    leaves (.ethLinkChange p false) s (fun t => t.on (ETH.LINK_STAT_UP p) = false ∧ t.rd (ETH.TXR_HEAD p) = s.rd (ETH.TXR_TAIL p) % s.txrSize p
          ∧ t.mem = s.mem ∧ (s.txQueued p ≠ 0 → t.rd (ETH.TX_DROP p) = (s.incBy (ETH.TX_DROP p) (s.txQueued p)).rd (ETH.TX_DROP p)))
        ∧ exec (.ethLinkChange p true) s = .next s) ∧
  (∀ (p : Nat) (up : Bool) (s : State),
    s.ethUp p = false →
    exec (.ethLinkChange p up) s = .next s) ∧
  (∀ (p : Nat) (s : State),
    s.ethUp p = true ∧ s.on (ETH.LINK_STAT_UP p) = false →
    exec (.ethLinkChange p true) s = .next ((((s.wr (ETH.LINK_STAT_UP p) 1).fire (80 + p) 1).raiseIrq (pgEth p) 0).txRun p)) ∧
  (∀ (p : Nat) (f : List Byte) (crc uni st : Bool) (s : State),
    s.ethUp p = true ∧ s.on (ETH.LINK_STAT_UP p) = true →
    crc = true ∨ s.takesFrame p f = true ∨ isFragment f = true ∨ s.rd (ETH.RX_FILTER p) = 0 ∨ (s.rd (ETH.RX_FILTER p) = 1 ∧ uni = false) →
    exec (.frameRx p f crc uni st) s = .next (if crc then s.inc (ETH.CRC_ERR_CNT p) else s)) ∧
  (∀ (p a k w : Nat) (f : List Byte) (uni st : Bool) (s : State),
    s.ethUp p = true ∧ s.on (ETH.LINK_STAT_UP p) = true ∧ s.takesFrame p f = false ∧ isFragment f = false →
    s.rd (ETH.RX_FILTER p) = 2 ∨ (s.rd (ETH.RX_FILTER p) = 1 ∧ uni = true) →
    k = s.rxrSize p ∧ w = s.rd (ETH.RXR_WR_IDX p) ∧ w < k ∧ a = fieldAt (s.dpaRead (s.rd64 (ETH.RXR_BASE_LO p) (ETH.RXR_BASE_HI p) + 32 * w) 32) 0 8 →
    f.length ≤ 9216 ∧ (w + 1) % k ≠ s.rd (ETH.RXR_RD_IDX p) % k ∧ inCasket a f.length = true →
    inCasket (s.rd64 (ETH.RXR_BASE_LO p) (ETH.RXR_BASE_HI p) + 32 * w) 32 = true ∧ s.rd CK_CTRL.INJ_ECC = 0 →
    a + f.length ≤ s.rd64 (ETH.RXR_BASE_LO p) (ETH.RXR_BASE_HI p) + 32 * w ∨ s.rd64 (ETH.RXR_BASE_LO p) (ETH.RXR_BASE_HI p) + 32 * w + 32 ≤ a →
    leaves (.frameRx p f false uni st) s (fun t => t.dpaRead a f.length = f ∧ t.rd (ETH.RXR_WR_IDX p) = (w + 1) % k
          ∧ t.dpaRead (s.rd64 (ETH.RXR_BASE_LO p) (ETH.RXR_BASE_HI p) + 32 * w) 10 = leBytes 8 a ++ leBytes 2 f.length
          ∧ t = { s with mem := t.mem, regs := t.regs } ∧ t.rd (ETH.RX_DROP p) = s.rd (ETH.RX_DROP p))) ∧
  (∀ (p k w : Nat) (f : List Byte) (uni st : Bool) (s : State),
    s.ethUp p = true ∧ s.on (ETH.LINK_STAT_UP p) = true ∧ s.takesFrame p f = false ∧ isFragment f = false →
    s.rd (ETH.RX_FILTER p) = 2 ∨ (s.rd (ETH.RX_FILTER p) = 1 ∧ uni = true) →
    k = s.rxrSize p ∧ w = s.rd (ETH.RXR_WR_IDX p) ∧ w < k ∧ (9216 < f.length ∨ (w + 1) % k = s.rd (ETH.RXR_RD_IDX p) % k) →
    exec (.frameRx p f false uni st) s = .next ((s.inc (ETH.RX_DROP p)).raiseIrq (pgEth p) 1)) ∧
  (∀ (rq : Requester) (slot : Nat) (s : State),
    s.answers rq 0x08C ∧ slot < 64 ∧ (s.reached 0x08C).peerState slot ≠ 2 →
    exec (.borrowCmdBorrow rq slot) s = .next ((s.reached 0x08C).reject 0x08C) ∧ exec (.borrowCmdRelease rq slot) s = .next ((s.reached 0x08C).reject 0x08C)) ∧
  (∀ (rq : Requester) (slot : Nat) (s : State),
    s.answers rq 0x08C ∧ slot < 64 ∧ (s.reached 0x08C).peerState slot = 2 →
    exec (.borrowCmdBorrow rq slot) s = .next (if (s.reached 0x08C).borrowState slot = 1 ∨ (s.reached 0x08C).borrowState slot = 2 then (s.reached 0x08C).reject 0x08C
          else (s.reached 0x08C).cfpSend slot 5 [min 1048576 ((s.reached 0x08C).rd FAB.BORROW_CMD_TILES)])
        ∧ exec (.borrowCmdRelease rq slot) s = .next (((((s.reached 0x08C).cfpSend slot 8 []).unbackWindow slot).modPeer slot
          (fun q => { q with borrowed := 0 })).showGranted slot)) ∧
  (∀ (p kind : Nat) (words : List Nat) (q : Peer) (s : State),
    mapFind s.fab.peers p = some q →
    mapFind (s.cfpSend p kind words).fab.peers p = some {
            q with
            txSeq := (q.txSeq + 1) % 65536
            unacked := q.unacked ++ [{ seq := q.txSeq, kind := kind, words := words, sent := s.tick, resends := 0 }] }
        ∧ (s.cfpSend p kind words).out = s.out ++ [.cfp p kind words]
        ∧ s.cfpSend p kind words = { s with fab := { s.fab with peers := (s.cfpSend p kind words).fab.peers }, out := (s.cfpSend p kind words).out }) ∧
  (∀ (h : CfpHeader) (tiles p : Nat) (q : Peer) (s : State),
    s.hearsPeer h p q ∧ q.grant = none ∧ s.lendFree = 0 →
    exec (.borrowReq h tiles) s = .next ((s.emit (.cfp p 2 [h.seq])).cfpSend p 7 [])) ∧
  (∀ (h : CfpHeader) (tiles p : Nat) (q : Peer) (g : Grant) (s : State),
    s.hearsPeer h p q ∧ q.grant = some g →
    exec (.borrowReq h tiles) s = .next ((s.emit (.cfp p 2 [h.seq])).cfpSend p 6 [g.places.length, g.places.headD 0, g.key])
        ∧ leaves (.release h) s (fun t => mapFind t.fab.peers p = some { q with grant := none }
            ∧ t.rd (FAB.PEER_GRANTED p) = q.borrowed % 2 ^ 21 ∧ t = { s with fab := t.fab, regs := t.regs, out := s.out ++ [.cfp p 2 [h.seq]] })) ∧
  (∀ (h : CfpHeader) (tiles p : Nat) (q : Peer) (g : Grant) (s : State),
    s.hearsPeer h p q ∧ q.grant = none ∧ s.lendFree ≠ 0 →
    g.places = s.lendPlaces (min 1048576 (min s.lendFree tiles)) ∧ g.reclaim = none ∧ g.order = s.fab.grants →
    leaves (.borrowReq h tiles) s (fun t =>
          (mapFind t.fab.peers p).map (·.grant) = some (some { g with key := (s.freeBits 32).1 })
          ∧ t.out = s.out ++ [.cfp p 2 [h.seq], .cfp p 6 [g.places.length, g.places.headD 0, (s.freeBits 32).1]]
          ∧ t = { s with fab := t.fab, regs := t.regs, out := t.out, free := s.free + 1 })) ∧
  (∀ (n : Nat) (s : State),
    (s.lendPlaces n).length ≤ n ∧ ∀ a ∈ s.lendPlaces n, s.tierCap 2 * tileSize ≤ a ∧ a % tileSize = 0 ∧ mapFind s.ck.slots a = none) ∧
  (∀ (h : CfpHeader) (tiles base key p : Nat) (q : Peer) (s : State),
    s.hearsPeer h p q ∧ p < 64 →
    leaves (.borrowGrant h tiles base key) s (fun t => if s.borrowState p = 1 ∨ s.borrowState p = 2 then t = s.emit (.cfp p 2 [h.seq])
          else t.borrowState p = 1 ∧ mapFind t.fab.peers p = some { q with borrowed := min 1048576 tiles, remoteBase := base, remoteKey := key }
            ∧ t = { s with fab := t.fab, regs := t.regs, out := s.out ++ [.cfp p 2 [h.seq]] })
        ∧ exec (.borrowDeny h) s = .next (s.emit (.cfp p 2 [h.seq]))) ∧
  (∀ (h : CfpHeader) (p : Nat) (q : Peer) (s : State),
    s.hearsPeer h p q ∧ p < 64 ∧ s.borrowState p = 1 ∧ s.tick < 2 ^ 64 →
    leaves (.reclaim h) s (fun t => t.borrowState p = 2 ∧ mapFind t.ck.notices p = some s.tick
          ∧ t.rd64 CK_TIER.NOTICE_TICK_LO CK_TIER.NOTICE_TICK_HI = s.tick ∧ (mapFind t.evt.fired 86).isSome = true
          ∧ t = { s with ck := { s.ck with notices := t.ck.notices }, regs := t.regs, evt := t.evt, out := s.out ++ [.cfp p 2 [h.seq]] })) ∧
  (∀ (h : CfpHeader) (p : Nat) (q : Peer) (s : State),
    s.hearsPeer h p q ∧ s.borrowState p ≠ 1 →
    exec (.reclaim h) s = .next (s.emit (.cfp p 2 [h.seq]))) ∧
  (∀ (rq : Requester) (s : State),
    s.answers rq 0x018 →
    exec (.lendRevoke 2) s = .next (match mapFind s.fab.peers 2 with
          | some q => (match q.grant with
            | some g => (match g.reclaim with
              | some t => if t + 5000 + s.rd FAB.RECLAIM_GRACE ≤ s.tick then s.endGrant 2 else s
              | none => s)
            | none => s)
          | none => s)
        ∧ exec (.lendReclaim rq) s = .next
          (let t := (s.reached 0x018).fab.peers.foldl (fun t e => t.sendReclaim e.1) (s.reached 0x018)
           t.setFab { t.fab with recalled := some (t.fab.recalled.getD t.tick) })) ∧
  (∀ (slot : Nat) (q : Peer) (g : Grant) (t0 : Nat) (s : State),
    mapFind s.fab.peers slot = some q ∧ q.grant = some g ∧ g.reclaim = some t0 ∧ t0 + 5000 + s.rd FAB.RECLAIM_GRACE ≤ s.tick →
    leaves (.lendRevoke slot) s (fun t => mapFind t.fab.peers slot = some { q with grant := none } ∧ t = { s with fab := t.fab, regs := t.regs })) ∧
  (∀ (slot off a : Nat) (data : List Byte) (q : Peer) (g : Grant) (s : State),
    s.fabUp = true ∧ slot < 64 ∧ mapFind s.fab.peers slot = some q ∧ q.grant = some g ∧ g.places = [a] ∧ off + data.length ≤ tileSize →
    leaves (.rdmaWrite slot off true data) s (fun t => t.out = s.out ++ [.roceAck slot g.reclaim.isNone]
          ∧ (g.reclaim = none → t.dpaRead (a + off) data.length = data ∧ sameMemoryBut (a + off) data.length s t
            ∧ sameWordsBut (portCounts ++ writeCounts) s t ∧ t = { s with mem := t.mem, out := t.out, pwr := t.pwr, regs := t.regs })
          ∧ (g.reclaim ≠ none → t = { s with out := t.out }))
        ∧ (s.rd (storeOf (a + off)).1 = 0 → leaves (.rdmaRead slot off data.length true) s (fun t =>
          t.out = s.out ++ [.rdma slot 2 off data.length (s.dpaRead (a + off) data.length)] ∧ t = { s with out := t.out, regs := t.regs }))) ∧
  (∀ (slot off : Nat) (data : List Byte) (q : Peer) (s : State),
    s.fabUp = true ∧ slot < 64 ∧ mapFind s.fab.peers slot = some q ∧ q.grant = none →
    exec (.rdmaWrite slot off true data) s = .next (s.emit (.roceAck slot false))
        ∧ exec (.rdmaRead slot off data.length true) s = .next (s.emit (.roceAck slot false))
        ∧ exec (.rdmaWrite slot off false data) s = .next (if s.borrowState slot = 1 ∧ off + data.length ≤ q.borrowed * tileSize then
            s.emit (.rdma slot 1 off data.length data) else s)
        ∧ exec (.rdmaRead slot off data.length false) s = .next (
            if (s.borrowState slot = 1 ∨ s.borrowState slot = 2) ∧ off + data.length ≤ q.borrowed * tileSize then
              s.emit (.rdma slot 0 off data.length []) else s)) ∧
  (∀ (slot : Nat) (q : Peer) (s : State),
    mapFind s.fab.peers slot = some q →
    leaves (.cnp slot) s (fun t => mapFind t.fab.peers slot = some { q with rate := q.rate / 2, rateTick := s.tick }
          ∧ t = { s with fab := { s.fab with peers := t.fab.peers } })
        ∧ leaves (.roceRateRaise slot) s (fun t => mapFind t.fab.peers slot
            = some (if q.rateTick + 55 ≤ s.tick then { q with rate := min 25000 (q.rate + 1000), rateTick := s.tick } else q)
          ∧ t = { s with fab := { s.fab with peers := t.fab.peers } }))

/-! ### The ports -/

/-- DMA (R582), function resets (R583), the link (R295, R584), initialisation and fetches (R587, R588, R590) and writes (R589) of NVP. -/
def Obligations.HostTransfersResetsAndFlash : Prop :=
  (∀ (rid : Nat) (st : BusStatus) (data : List Byte) (s : State),
    rid < 2 ^ 32 ∧ (s.req rid = none ∨ (s.req rid).map (·.hostOut) = some false) →
    exec (.dmaCompletion rid st data) s = .next s) ∧
  (∀ (rid : Nat) (r : Req) (st : BusStatus) (data : List Byte) (s : State),
    rid < 2 ^ 32 ∧ s.req rid = some r ∧ r.hostOut = true ∧ r.op ≠ opDmaOut ∧ st ≠ .ok ∧ s.on HIF.INJ_DMA_ERR = false →
    exec (.dmaCompletion rid st data) s = .next (((s.inc HIF.DMA_ERR_CNT).raiseIrq 0x090 1).endReq rid ocTierFailed 0)) ∧
  (∀ (rid : Nat) (r : Req) (data : List Byte) (s : State),
    rid < 2 ^ 32 ∧ s.req rid = some r ∧ r.hostOut = true ∧ r.op = opDmaIn ∧ s.on HIF.INJ_DMA_ERR = false →
    (r.buf ++ data).length < r.count →
    exec (.dmaCompletion rid .ok data) s = .next (s.modReq rid (fun q => { q with buf := r.buf ++ data }))) ∧
  (∀ (rid a : Nat) (r : Req) (data : List Byte) (s : State),
    rid < 2 ^ 32 ∧ s.req rid = some r ∧ r.hostOut = true ∧ r.op = opDmaIn ∧ s.on HIF.INJ_DMA_ERR = false →
    r.count ≤ (r.buf ++ data).length ∧ r.objA = 2 ^ 64 + a ∧ a < 2 ^ 64 →
    exec (.dmaCompletion rid .ok data) s = .next (
          (((regionPieces a r.count).foldl (fun (t : State) x => (t.throughPort (portQuad 48) x.1 x.2 false).storeFrom (portQuad 48) x.1
              (((r.buf ++ data).drop (x.1 - a)).take x.2)) (s.modReq rid (fun q => { q with buf := r.buf ++ data }))).inc64 HIF.DMA_BYTES_LO
            HIF.DMA_BYTES_HI r.count).endReq rid (finalOutcome r.cls r.deadline s.tick r.overload) r.causeBits)) ∧
  (∀ (rid a : Nat) (r : Req) (data : List Byte) (s : State),
    rid < 2 ^ 32 ∧ s.req rid = some r ∧ r.hostOut = true ∧ r.op = opDmaOut ∧ s.on HIF.INJ_DMA_ERR = false →
    r.objA = 2 ^ 64 + a ∧ a < 2 ^ 64 ∧ inCasket a r.count = true ∧ 0 < r.count ∧ s.rd CK_CTRL.INJ_ECC = 0 ∧ r.guestRead = none →
    exec (.dmaCompletion rid .ok data) s = .next (((((regionPieces a r.count).foldl (fun (t : State) x => t.readTo (portQuad 48) x.1 x.2)
          s).hostWrite r.ws r.objB (s.dpaRead a r.count)).inc64 HIF.DMA_BYTES_LO
          HIF.DMA_BYTES_HI r.count).endReq rid (finalOutcome r.cls r.deadline s.tick r.overload) r.causeBits)) ∧
  (∀ (w r : Nat) (st : BusStatus) (data : List Byte) (s : State),
    w < 64 ∧ r < 4 ∧ s.on (WS.RING_CFG_LOC w r) = true ∧ st ≠ .ok ∧ 0 < s.ringPending w r →
    exec (.dmaCompletion (2 ^ 32 + 4 * w + r) st data) s = .next ((s.setW1c (WS.RING_CFG_STOPPED w r) 1).raiseIrq (pgWs w) 1)) ∧
  (∀ (fn : Nat) (s : State),
    (64 ≤ fn → exec (.flr fn) s = .next s)
        ∧ (0 < fn → fn < 64 → exec (.flr fn) s = .next ((s.inc HIF.FLR_CNT).flrWs fn))
        ∧ leaves (.flr 0) s (fun t => t.rd HIF.NUM_VFS = 0 ∧ t.io.vfOn = 0)) ∧
  (∀ (w off : Nat) (s : State),
    w < 64 ∧ off < 0x1000 ∧ off % 4 = 0 ∧ (off < 0x180 ∨ 0x1D0 ≤ off) ∧ pagePresent s.part (pgWs w) = true →
    (s.flrWs w).bst (pgWs w) = .off ∧ (s.flrWs w).word (pgWs w) off = State.reset.word (pgWs w) off) ∧
  (∀ (s : State),
    s.boot.linkUp = true ∧ (s.boot.perstHigh = false ∨ s.stage ≠ 8) →
    leaves .hifLinkDown s (fun t => t.boot.linkUp = false ∧ t.rd HIF.LINK_STAT_SPEED = 0 ∧ t.rd HIF.LINK_STAT_WIDTH = 0
          ∧ t.sch = s.sch ∧ t.ck = s.ck ∧ t.rd HIF.LINK_DOWN_CNT = s.rd HIF.LINK_DOWN_CNT)) ∧
  (∀ (s : State),
    (s.boot.linkUp = false → exec .hifLinkDown s = .next s)
        ∧ (s.on HIF.LINK_STAT_SPEED = false ∨ s.boot.perstHigh = false ∨ s.boot.linkUp = true → exec .hifLinkUp s = .next s)
        ∧ (s.on HIF.LINK_STAT_SPEED = true → s.boot.perstHigh = true → s.boot.linkUp = false → s.sch.held = [] →
            exec .hifLinkUp s = .next { s with boot := { s.boot with linkUp := true } })) ∧
  (∀ (s : State),
    s.boot.linkUp = true ∧ s.boot.perstHigh = true ∧ s.stage = 8 ∧ s.sch.reqs = [] ∧ s.ck.fetches = [] →
    leaves .hifLinkDown s (fun t => t.boot.linkUp = false ∧ t.rd HIF.LINK_DOWN_CNT = (s.inc HIF.LINK_DOWN_CNT).rd HIF.LINK_DOWN_CNT
          ∧ t.rd HIF.LINK_STAT_SPEED = 0)) ∧
  (∀ (rq : Requester) (found : Option NvmeFound) (s : State),
    s.answers rq 0x091 →
    exec (.nvpEnable rq found) s = .next (((s.reached 0x091).setIo { s.io with ssd := found }).blkCtrl 0x091
          (1 + 4 * (s.reached 0x091).rd (HDR.BLK_CTRL_CLK_REQ 0x091)))) ∧
  (∀ (fid : Nat) (st : BusStatus) (data : List Byte) (s : State),
    mapFind s.ck.fetches fid = none →
    exec (.nvmeCompletion fid st data) s = .next s ∧ exec (.nvpTimeout fid) s = .next s) ∧
  (∀ (fid c : Nat) (f : Fetch) (data : List Byte) (s : State),
    mapFind s.ck.fetches fid = some f ∧ s.flashFetch f = true ∧ s.rd NVP.NVP_STAT_CTRL_STATE = 2 ∧ s.on NVP.INJ_TIMEOUT = false →
    exec (.nvmeCompletion fid .ok data) s = exec (.tileInstall fid data) (s.setIo { s.io with nvpTimeouts := 0 })
        ∧ exec (.nvmeCompletion fid (.errorStatus c) data) s = .next ((((s.setIo { s.io with nvpTimeouts := 0 }).inc NVP.ERR_STATUS_CNT).wr
            NVP.LAST_STATUS c).failFetch fid ocTierFailed none)) ∧
  (∀ (fid : Nat) (f : Fetch) (st : BusStatus) (data : List Byte) (s : State),
    mapFind s.ck.fetches fid = some f ∧ s.flashFetch f = true ∧ s.rd NVP.NVP_STAT_CTRL_STATE = 2 ∧ s.on NVP.INJ_TIMEOUT = true →
    exec (.nvmeCompletion fid st data) s = .next (s.wr NVP.INJ_TIMEOUT 0)) ∧
  (∀ (fid : Nat) (f : Fetch) (s : State),
    mapFind s.ck.fetches fid = some f ∧ s.flashFetch f = true ∧ s.rd NVP.NVP_STAT_CTRL_STATE = 2 →
    exec (.nvpTimeout fid) s = .next (
          if s.tick < f.issue + 1000 * max 1 (s.rd NVP.NVP_TIMEOUT) then s else (s.failFetch fid ocTierFailed none).nvpTimedOut)) ∧
  (∀ (n : Nat) (s : State),
    n = s.io.nvpTimeouts + 1 →
    s.nvpTimedOut = (if 3 ≤ n then ((s.inc NVP.TIMEOUT_CNT).setIo { s.io with nvpTimeouts := n }).nvpReset
          else (s.inc NVP.TIMEOUT_CNT).setIo { s.io with nvpTimeouts := n })) ∧
  (∀ (s : State),
    exec .nvpInitTimeout s = .next (if s.rd NVP.NVP_STAT_CTRL_STATE = 1 ∧ s.io.nvpSince + 2000000 ≤ s.tick then
          (s.wr NVP.NVP_STAT_CTRL_STATE 3).raiseIrq 0x091 0 else s)) ∧
  (∀ (rq : Requester) (s : State),
    s.answers rq 0x091 ∧ s.io.nvpWrite.isSome = true →
    exec (.wrCmd rq) s = .next ((s.reached 0x091).reject 0x091)) ∧
  (∀ (rq : Requester) (src dst n : Nat) (u s : State),
    s.answers rq 0x091 ∧ s.io.nvpWrite = none ∧ u = (s.reached 0x091) ∧ u.rd64 NVP.WR_SRC_LO NVP.WR_SRC_HI / tileSize * tileSize = src ∧ u.rd64 NVP.WR_DST_LO NVP.WR_DST_HI = dst →
    u.rd NVP.WR_TILES = n ∧ 1 ≤ n ∧ n ≤ 256 →
    exec (.wrCmd rq) s = .next (if u.rd NVP.NVP_STAT_CTRL_STATE = 2 ∧ dst % tileSize = 0
            ∧ inCasket src (n * tileSize) = true ∧ dst + n * tileSize ≤ u.rd64 NVP.NS_BYTES_LO NVP.NS_BYTES_HI then
          ((u.wr NVP.WR_STAT_RESULT 1).setIo { u.io with nvpWrite := some { op := 0, flash := dst, casket := src, len := n * tileSize, since := s.tick } }).emit
            (.nvme true dst (n * tileSize))
          else u.wr NVP.WR_STAT_RESULT 3)) ∧
  (∀ (st : BusStatus) (n : Nat) (o : FlashOp) (s : State),
    s.io.nvpWrite = some o ∧ s.on NVP.INJ_TIMEOUT = false ∧ st = .ok ∧ s.ck.slots = [] ∧ o.len = n * tileSize →
    inCasket o.casket o.len = true ∧ s.rd (storeOf o.casket).1 = 0 →
    leaves (.flashWriteDone st) s (fun t => t.io.nvpWrite = none ∧ t.rd NVP.WR_STAT_RESULT = 2 ∧ t.io.nvpTimeouts = 0
          ∧ t.nvmeRead o.flash o.len = s.dpaRead o.casket o.len ∧ t.mem = { s.mem with nvme := t.mem.nvme }
          ∧ (mapFind t.evt.fired 61).isSome = true)) ∧
  (∀ (c : Nat) (o : FlashOp) (s : State),
    s.io.nvpWrite = some o ∧ s.on NVP.INJ_TIMEOUT = false ∧ s.ck.slots = [] →
    leaves (.flashWriteDone (.errorStatus c)) s (fun t => t.io.nvpWrite = none ∧ t.rd NVP.WR_STAT_RESULT = 3
          ∧ t.rd NVP.ERR_STATUS_CNT = (s.inc NVP.ERR_STATUS_CNT).rd NVP.ERR_STATUS_CNT ∧ t.mem.dpa = s.mem.dpa
          ∧ (mapFind t.evt.fired 61).isSome = true)) ∧
  (∀ (o : FlashOp) (s : State),
    s.io.nvpWrite = some o ∧ s.ck.slots = [] ∧ s.io.nvpTimeouts = 0 →
    (s.tick < o.since + 1000 * max 1 (s.rd NVP.NVP_TIMEOUT) → exec (.flashWriteDone .timeout) s = .next s)
        ∧ (o.since + 1000 * max 1 (s.rd NVP.NVP_TIMEOUT) ≤ s.tick →
          leaves (.flashWriteDone .timeout) s (fun t => t.io.nvpWrite = none ∧ t.rd NVP.WR_STAT_RESULT = 3 ∧ t.io.nvpTimeouts = 1
            ∧ t.rd NVP.TIMEOUT_CNT = (s.inc NVP.TIMEOUT_CNT).rd NVP.TIMEOUT_CNT ∧ t.mem.dpa = s.mem.dpa))) ∧
  (∀ (st : BusStatus) (s : State),
    s.io.nvpWrite = none →
    exec (.flashWriteDone st) s = .next s)

/-- Cameras (R593 to R596), sensor masters (R597 to R600), the boot flash (R601) and modulator clocks (R603 to R605). -/
def Obligations.CamerasSensorsClocksAndBootFlash : Prop :=
  (∀ (n vc num : Nat) (s : State),
    (s.csiUp n = false ∨ s.clockOn (pgCsi n) = false) ∧ s.csiAsleep n = false →
    exec (.frameStart n vc num) s = .next s) ∧
  (∀ (n vc num : Nat) (s : State),
    s.csiUp n = true ∧ s.clockOn (pgCsi n) = true ∧ s.streamsOf n vc = [] →
    exec (.frameStart n vc num) s = .next (s.inc (CSI.UNBOUND_CNT n))) ∧
  (∀ (n vc num k : Nat) (s : State),
    s.csiUp n = true ∧ s.clockOn (pgCsi n) = true ∧ s.streamsOf n vc = [k] →
    exec (.frameStart n vc num) s = .next ((s.fire (16 + n) vc).startFrame n k vc num s.tick)) ∧
  (∀ (n vc num k : Nat) (s : State),
    (s.csiUp n = false ∨ s.clockOn (pgCsi n) = false) ∧ s.csiAsleep n = true ∧ s.streamsOf n vc = [k] →
    exec (.frameStart n vc num) s = .next
          (let t := (s.fire (16 + n) vc).endFrame n k 4
           t.setIo { t.io with fsWait := t.io.fsWait ++ (if s.csiUp n = true then [(n, vc, num, s.tick)] else []) })) ∧
  (∀ (n k vc num i at_ : Nat) (s : State),
    mapFind s.io.capture (4 * n + k) = none ∧ n < 8 ∧ k < 4 ∧ i = s.rd (CSI.NEXT n k) % s.strBufs n k →
    (s.bitOn (CSI.HELD n k) i = true → s.startFrame n k vc num at_ = (s.inc (CSI.DROP_CNT n k)).raiseIrq (pgCsi n) 0)
        ∧ (s.bitOn (CSI.HELD n k) i = false → (s.startFrame n k vc num at_).bitOn (CSI.HELD n k) i = true
            ∧ (s.startFrame n k vc num at_).rd (CSI.NEXT n k) = (i + 1) % s.strBufs n k
            ∧ mapFind (s.startFrame n k vc num at_).io.capture (4 * n + k) = some {
                tile0 := [], cur := [], buf := i, fsTick := at_, frameNum := num % 65536, lines := 0, flags := 0, vc := vc })) ∧
  (∀ (n vc dt : Nat) (hdr ecc crc : Bool) (px : List Nat) (s : State),
    s.csiTakes n = true ∧ s.clockOn (pgCsi n) = true ∧ (hdr = false ∨ dtShape dt = none) →
    exec (.linePacket n vc dt hdr ecc crc px) s = .next (if hdr then s.inc (CSI.UNBOUND_CNT n) else s.inc (CSI.HDR_ERR_CNT n))) ∧
  (∀ (n vc dt k : Nat) (ecc crc : Bool) (px : List Nat) (s : State),
    s.csiTakes n = true ∧ s.clockOn (pgCsi n) = true ∧ n < 8 ∧ (dtShape dt).isSome = true ∧ s.streamsOf n vc = [k] ∧ s.rd (CSI.STR_CFG_DT n k) = dt ∧ s.on (CSI.INJ_CRC n) = false →
    exec (.linePacket n vc dt true ecc crc px) s = .next (((if crc then s.wr (CSI.INJ_CRC n) 0 else ((s.wr (CSI.INJ_CRC n) 0).inc
          (CSI.CRC_ERR_CNT n)).raiseIrq (pgCsi n) 1)).takeLine n k px ((if crc then 0 else 1) + (if ecc then 2 else 0)))) ∧
  (∀ (n vc : Nat) (s : State),
    s.csiTakes n = false ∨ s.clockOn (pgCsi n) = false →
    exec (.linePacket n vc 0x2A true false true []) s = .next s) ∧
  (∀ (n k flags : Nat) (px : List Nat) (c : Capture) (s : State),
    mapFind s.io.capture (4 * n + k) = some c ∧ s.rd (CSI.FRAME_SIZE_HEIGHT n k) ≤ c.lines →
    (mapFind (s.takeLine n k px flags).io.capture (4 * n + k)).map (·.lines) = some c.lines
        ∧ (s.takeLine n k px flags).mem = s.mem ∧ (s.takeLine n k px flags).regs = s.regs) ∧
  (∀ (n vc : Nat) (s : State),
    s.io.capture = [] →
    exec (.frameEnd n vc) s = .next s) ∧
  (∀ (n k vc : Nat) (c : Capture) (s : State),
    s.io.capture = [(4 * n + k, c)] ∧ k < 4 ∧ c.vc = vc ∧ n < 8 →
    exec (.frameEnd n vc) s = .next (s.endFrame n k (if c.lines < s.rd (CSI.FRAME_SIZE_HEIGHT n k) then 16 else 0))
        ∧ (s.endFrame n k 0).io.capture = []) ∧
  (∀ (rq : Requester) (n k : Nat) (s : State),
    n < 8 ∧ k < 4 ∧ s.answers rq (pgCsi n) →
    exec (.streamEnable rq n k) s = .next (
          if (s.reached (pgCsi n)).rd (CSI.BUF_STRIDE n k) * (s.reached (pgCsi n)).strLines n k < (s.reached (pgCsi n)).rd (CSI.FRAME_SIZE_HEIGHT n k) then
            ((s.reached (pgCsi n)).setW1c (CSI.RX_STAT_CFG_ERR n) 1).raiseIrq (pgCsi n) 2
          else (s.reached (pgCsi n)).wr (CSI.STR_CFG_EN n k) 1)) ∧
  (∀ (p n c : Nat) (l : List Nat) (rising : Bool) (s : State),
    p < 4 ∧ n < 1000 ∧ c < 4 ∧ (s.bst 0x09A).up = true ∧ s.clockOn 0x09A = true ∧ s.on (SPM.PORT_CFG_EN p) = true ∧ s.on (SPM.PORT_CFG_DRDY_EN p) = true →
    s.on (SPM.PORT_CFG_DRDY_POL p) = rising →
    (mapFind s.io.spmList p = some (c :: l) → exec (.drdyEdge p n rising) s = .next (s.inc (SPM.OVERRUN_CNT p)))
        ∧ (mapFind s.io.spmList p = none → (List.range 4).filter (fun c => s.on (SPM.CS_CFG_LIST p c)) = [c] → s.csOk p c = true →
            exec (.drdyEdge p n rising) s = .next (((s.stampEdge (13 + p) n).setIo { (s.stampEdge (13 + p) n).io with
              spmList := mapInsert s.io.spmList p [c], spmEdge := mapInsert s.io.spmEdge p
                (if s.on HM.CELL_STAT_COARSE then s.cellAt n else s.edgeStamp (13 + p) n) }).emit
                (.spi p c ((leBytes 4 (s.rd (SPM.CS_CMD p c))).take (min 4 (s.rd (SPM.CS_CFG_CMD_LEN p c)))))))) ∧
  (∀ (p n : Nat) (rising : Bool) (s : State),
    4 ≤ p ∨ 1000 ≤ n ∨ (s.bst 0x09A).up = false ∨ s.clockOn 0x09A = false ∨ s.on (SPM.PORT_CFG_EN p) = false ∨ s.on (SPM.PORT_CFG_DRDY_EN p) = false →
    exec (.drdyEdge p n rising) s = .next s) ∧
  (∀ (p c : Nat) (b : List Byte) (s : State),
    p < 4 ∧ c < 4 ∧ mapFind s.io.spmList p = some [c] ∧ s.on (SPM.PORT_CFG_EN p) = true →
    leaves (.sampleTransactionDone p c b) s (fun t =>
          t.rd (SPM.LAST_SAMPLE_VALUE p) = sampleOf (s.rd (SPM.CS_CFG_SAMPLE_BITS p c)) (padTo (s.rdLen p c) b)
          ∧ t.rd (SPM.LAST_SAMPLE_CS p) = c ∧ mapFind t.io.spmList p = some [] ∧ (mapFind t.evt.fired (34 + p)).isSome = true
          ∧ t.mem = s.mem ∧ t = { s with regs := t.regs, evt := t.evt, io := t.io, fil := t.fil })) ∧
  (∀ (p c : Nat) (b : List Byte) (s : State),
    mapFind s.io.spmList p = none →
    exec (.sampleTransactionDone p c b) s = .next s) ∧
  (∀ (rq : Requester) (p cs len : Nat) (s : State),
    p < 4 ∧ s.answers rq 0x09A ∧ cs < 4 ∧ len < 8 →
    exec (.xfer rq p cs len) s = .next (
          if (s.reached 0x09A).on (SPM.PORT_CFG_DRDY_EN p) = true ∨ (s.reached 0x09A).on (SPM.XFER_BUSY p) = true ∨ (s.reached 0x09A).on (SPM.PORT_CFG_EN p) = false then
            (s.reached 0x09A).reject 0x09A
          else ((((s.reached 0x09A).wr (SPM.XFER_CS p) cs).wr (SPM.XFER_LEN p) len).wr (SPM.XFER_BUSY p) 1).emit (.spi p cs
            ((leBytes 8 ((s.reached 0x09A).rd64 (SPM.XFER_TX_LO p) (SPM.XFER_TX_HI p))).take (len + 1))))) ∧
  (∀ (p : Nat) (b : List Byte) (s : State),
    p < 4 ∧ b.length = s.rd (SPM.XFER_LEN p) + 1 →
    leaves (.xferDone p b) s (fun t => if s.on (SPM.XFER_BUSY p) = true then
          t.rd (SPM.XFER_BUSY p) = 0 ∧ t.rd64 (SPM.XFER_RX_LO p) (SPM.XFER_RX_HI p) = leNat b ∧ t = { s with regs := t.regs } else t = s)) ∧
  (∀ (rq : Requester) (s : State),
    s.answers rq 0x09A ∧ (s.reached 0x09A).unlocked 0x09A = false →
    exec (.bspiRead rq) s = .next ((s.reached 0x09A).blocked 0x09A) ∧ exec (.bspiProgram rq) s = .next ((s.reached 0x09A).blocked 0x09A)
        ∧ exec (.bspiErase rq) s = .next ((s.reached 0x09A).blocked 0x09A) ∧ exec (.bspiOpInvalid rq) s = .next ((s.reached 0x09A).blocked 0x09A)) ∧
  (∀ (rq : Requester) (s : State),
    s.answers rq 0x09A ∧ (s.reached 0x09A).unlocked 0x09A = true →
    exec (.bspiRead rq) s = .next (((s.reached 0x09A).wr SPM.BSPI_CMD_OP 0).bspiStart 0)
        ∧ exec (.bspiProgram rq) s = .next (((s.reached 0x09A).wr SPM.BSPI_CMD_OP 1).bspiStart 1)
        ∧ exec (.bspiErase rq) s = .next (((s.reached 0x09A).wr SPM.BSPI_CMD_OP 2).bspiStart 2)
        ∧ exec (.bspiOpInvalid rq) s = .next (((s.reached 0x09A).wr SPM.BSPI_CMD_OP 3).bspiStart 3)) ∧
  (∀ (op a n : Nat) (s : State),
    s.io.bspi = none ∧ (s.bst 0x09A).up = true ∧ a = s.rd SPM.BSPI_FLASH_ADDR ∧ n = s.rd SPM.BSPI_LEN ∧ n ≤ slotSize →
    (op = 3 → s.bspiStart op = s.bspiStat 3 5)
        ∧ (op < 3 → s.touchesRunning a n = true → s.on SPM.BSPI_CMD_ALLOW_RUNNING = false → s.bspiStart op = s.bspiStat 3 1)
        ∧ (op < 3 → s.touchesRunning a n = false → (op = 2 ∧ a % 4096 ≠ 0) ∨ (op = 1 ∧ a % 256 ≠ 0) → s.bspiStart op = s.bspiStat 3 2)
        ∧ (op < 3 → s.touchesRunning a n = false → ¬((op = 2 ∧ a % 4096 ≠ 0) ∨ (op = 1 ∧ a % 256 ≠ 0)) →
            (s.bspiStart op).io.bspi = some { op := op, flash := a, casket := s.rd64 SPM.BSPI_CASKET_LO SPM.BSPI_CASKET_HI, len := n, since := s.tick }
            ∧ (s.bspiStart op).rd SPM.BSPI_STAT_RESULT = 1 ∧ (s.bspiStart op).out = s.out ++ [.flash op a n])) ∧
  (∀ (o : FlashOp) (s : State),
    s.io.bspi = some o ∧ o.op < 3 ∧ (o.op = 0 → inCasket o.casket o.len = true ∧ o.len < 32768 ∧ o.casket % 32768 = 0) →
    (o.op = 1 → inCasket o.casket o.len = true ∧ s.rd (storeOf o.casket).1 = 0) →
    leaves (.bspiDone false false) s (fun t => t.io.bspi = none ∧ t.rd SPM.BSPI_STAT_RESULT = 2
          ∧ (o.op = 0 → t.dpaRead o.casket o.len = s.flashRead o.flash o.len ∧ t.mem.flash = s.mem.flash)
          ∧ (o.op = 1 → t.flashRead o.flash o.len = s.dpaRead o.casket o.len ∧ t.mem.dpa = s.mem.dpa)
          ∧ (o.op = 2 → t.flashRead o.flash o.len = List.replicate o.len 0xFF ∧ t.mem.dpa = s.mem.dpa))) ∧
  (∀ (b v : Bool) (s : State),
    s.io.bspi = none →
    exec (.bspiDone b v) s = .next s) ∧
  (∀ (edges : List Nat) (s : State),
    ((s.bst 0x09B).up = false ∨ s.clockOn 0x09B = false → exec (.sdmClockCheck edges) s = .next s)
        ∧ ((s.bst 0x09B).up = true → s.clockOn 0x09B = true → exec (.sdmClockCheck edges) s = .next ((List.range 16).foldl (fun t n => t.sdmCheck n (edges.getD n 0)) s))) ∧
  (∀ (n : Nat) (s : State),
    n < 16 ∧ s.rd (SDM.IN_CFG_SEL n) ≠ 0 ∧ s.bitOn SDM.CLK_FAULT n = false →
    (s.sdmCheck n 0).bitOn SDM.CLK_FAULT n = true ∧ (s.sdmCheck n 0).bitOn SDM.CLK_FAULT_STICKY n = true
        ∧ (mapFind (s.sdmCheck n 0).evt.fired 38).isSome = true ∧ mapGet (fun _ => 0) (s.sdmCheck n 0).io.sdmClean n = 0) ∧
  (∀ (rq : Requester) (x v : Nat) (s : State),
    s.answers rq 0x09B ∧ x < 2 ∧ v < 2 ^ 32 →
    exec (.sdmClkCfgWrite rq x v) s = .next (if (s.reached 0x09B).sdmClkUsed x then (s.reached 0x09B).reject 0x09B
          else ((s.reached 0x09B).wr (SDM.CLK_CFG_FREQ x) v).wr (SDM.CLK_CFG_EN x) (v / 2 ^ 31)))

/-- The management SPI (R606 to R608, Table PRT-7) and the TAP (R610, Table PRT-8). -/
def Obligations.ManagementFramesAndTestAccess : Prop :=
  (∀ (s : State),
    s.io.pinsFrom = 0 →
    s.pin .thermtripN = some (if s.pwr.tripped = true then .low else .released)
        ∧ s.pin .faultN = some (if s.rd DEV.FAULT_PIN = 1 then .low else .released)
        ∧ s.pin .bootDone = some (if s.stage = 8 ∨ s.stage = 15 then .high else .low)
        ∧ s.pin .ppsOut = some (if s.tick < s.hm.ppsPulse then .high else .low)) ∧
  (∀ (i c : Nat),
    i < 4 →
    State.reset.pin .ppsOut = some .low ∧ State.reset.pin (.fsyncOut i) = some .low
        ∧ (i < 2 → State.reset.pin (.sdmClk i) = some .low)
        ∧ State.reset.pin (.spmSclk i) = some .low ∧ State.reset.pin (.spmMosi i) = some .low
        ∧ State.reset.pin (.spmCsN i c) = some .high
        ∧ State.reset.pin .bspiSclk = some .low ∧ State.reset.pin .bspiCsN = some .high ∧ State.reset.pin (.bspiIo i) = some .pulledUp
        ∧ State.reset.pin .mspiMiso = some .highZ ∧ State.reset.pin .tdo = some .highZ ∧ State.reset.pin .nvpPerstN = some .low
        ∧ State.reset.pin .hifLanes = some .idle ∧ State.reset.pin (.ethLanes i) = some .idle) ∧
  (∀ (p : Pin) (l : Level) (s : State),
    p.scanned = true ∧ s.drives p = some l →
    s.pin p = some (if s.io.pinsFrom = 1 then .boundary else if s.io.pinsFrom = 2 then .highZ else l)) ∧
  (∀ (addr n wait : Nat) (words : List Word) (s : State),
    s.io.mspiIdle = true →
    exec (.mspiRead addr n wait) s = .next s ∧ exec (.mspiWrite addr words) s = .next s
        ∧ exec (.mspiWaitTimeout n) s = .next s ∧ exec (.mspiBadCmd n) s = .next s) ∧
  (∀ (addr n wait : Nat) (s : State),
    s.io.mspiIdle = false ∧ 1 ≤ n ∧ n ≤ 16 ∧ max 1 (s.rd MSPI.WAIT_MAX) < wait →
    exec (.mspiRead addr n wait) s = .next ((((s.setIo { s.io with mspiWake := true }).setW1c MSPI.MSPI_STAT 32).incBy MSPI.WORD_CNT n).emit
          (.mspi (s.rd MSPI.MSPI_STAT) (List.replicate n 0xFFFF_FFFF) true))
        ∧ exec (.mspiWaitTimeout n) s = exec (.mspiRead addr n wait) s) ∧
  (∀ (addr wait : Nat) (s : State),
    s.io.mspiIdle = false ∧ wait ≤ max 1 (s.rd MSPI.WAIT_MAX) →
    exec (.mspiRead addr 1 wait) s = .next ((((s.setIo { s.io with mspiWake := true }).readWord .mspi (addr % 2 ^ 24 / 4 * 4)).2.incBy
          MSPI.WORD_CNT 1).emit (.mspi (s.rd MSPI.MSPI_STAT) [BitVec.ofNat 32 ((s.setIo { s.io with mspiWake := true }).readWord .mspi (addr % 2 ^ 24 / 4 * 4)).1] false))) ∧
  (∀ (addr n wait : Nat) (s : State),
    s.io.mspiIdle = false ∧ wait ≤ max 1 (s.rd MSPI.WAIT_MAX) ∧ 1 ≤ n ∧ n ≤ 16 →
    leaves (.mspiRead addr n wait) s (fun t => (match t.out.getLast? with
          | some (.mspi stat l late) => decide (stat = s.rd MSPI.MSPI_STAT) && decide (l.length = n) && !late
          | _ => false) = true)) ∧
  (∀ (addr : Nat) (w : Word) (words : List Word) (s : State),
    s.io.mspiIdle = false →
    exec (.mspiWrite addr words) s = exec (.mspiWrite addr (words.take 16)) s
        ∧ exec (.mspiWrite addr []) s = .next ((s.setIo { s.io with mspiWake := true }).emit (.mspi (s.rd MSPI.MSPI_STAT) [] false))
        ∧ exec (.mspiWrite addr [w]) s = .next (
            let u := (s.setIo { s.io with mspiWake := true }).emit (.mspi (s.rd MSPI.MSPI_STAT) [] false)
            (if s.mspiServed (addr % 2 ^ 24 / 4 * 4) then u.inc MSPI.WORD_CNT else u).writeWord .mspi (addr % 2 ^ 24 / 4 * 4) w.toNat)) ∧
  (∀ (op : Nat) (s : State),
    (op % 16 = 1 ∨ op % 16 = 2 → exec (.mspiBadCmd op) s = .next s)
        ∧ (op % 16 ≠ 1 → op % 16 ≠ 2 → s.io.mspiIdle = false → exec (.mspiBadCmd op) s = .next
            (((s.setW1c MSPI.MSPI_STAT 16).setIo { s.io with mspiIdle := true }).emit (.mspi (s.rd MSPI.MSPI_STAT) [] false)))) ∧
  (∀ (a b c : Bool) (s : State),
    leaves (.mspiCsRise a b c) s (fun t => t.rd MSPI.FRAME_CNT = (s.inc MSPI.FRAME_CNT).rd MSPI.FRAME_CNT ∧ t.io.mspiIdle = false
          ∧ t.rd MSPI.MSPI_STAT = Nat.lor (s.rd MSPI.MSPI_STAT) (if s.io.mspiIdle then 0 else if a then 1 else if b then 8 else if c then 2 else 0)
          ∧ t = { s with regs := t.regs, bus := t.bus, io := { s.io with mspiIdle := false } })) ∧
  (∀ (s : State),
    s.io.mspiIdle = false →
    leaves .mspiIdleTimeout s (fun t => t.io.mspiIdle = true ∧ t.rd MSPI.MSPI_STAT = Nat.lor (s.rd MSPI.MSPI_STAT) 4
          ∧ t = { s with regs := t.regs, bus := t.bus, io := { s.io with mspiIdle := true } })) ∧
  (∀ (s : State),
    s.io.mspiIdle = true →
    exec .mspiIdleTimeout s = .next s) ∧
  (∀ (w : Bool) (off : Nat) (data : Word) (s : State),
    s.on TAP.TAP_REG_DIS = true →
    leaves (.regAccess w off data) s (fun t => t.io = { s.io with tapIr := 0x10, pinsFrom := 0, tapData := 0, tapDone := true }
          ∧ t.rd TAP.REG_ACCESS_CNT = (s.inc TAP.REG_ACCESS_CNT).rd TAP.REG_ACCESS_CNT ∧ t = { s with regs := t.regs, io := t.io })) ∧
  (∀ (off : Nat) (data : Word) (u s : State),
    s.on TAP.TAP_REG_DIS = false ∧ u = (s.inc TAP.REG_ACCESS_CNT).setIo { s.io with tapIr := 0x10, pinsFrom := 0 } →
    exec (.regAccess true off data) s = .next ((u.regWrite .tap (off % 2 ^ 24) 4 data.toNat).setIo
          { (u.regWrite .tap (off % 2 ^ 24) 4 data.toNat).io with tapData := 0, tapDone := true })
        ∧ exec (.regAccess false off data) s = .next ((u.regRead .tap (off % 2 ^ 24) 4).2.setIo
          { (u.regRead .tap (off % 2 ^ 24) 4).2.io with tapData := leNat (u.regRead .tap (off % 2 ^ 24) 4).1 % 2 ^ 32, tapDone := true })) ∧
  (∀ (s : State),
    exec .tapReset s = .next (s.setIo { s.io with tapIr := 1, tapData := 0, tapDone := false, chain := 0, pinsFrom := 0 })
        ∧ leaves .idcode s (fun t => t = { s with io := { s.io with tapIr := 1, pinsFrom := 0 }, out := t.out }
            ∧ t.out = s.out ++ [.tdo ((List.range 32).map (fun i => (s.rd TAP.TAP_IDCODE).testBit i))])
        ∧ exec .extest s = .next (s.setIo { s.io with tapIr := 3, pinsFrom := 1 })
        ∧ exec .clamp s = .next { s with io := { s.io with tapIr := 4, pinsFrom := 1 }, out := s.out ++ [.tdo [false]] }
        ∧ exec .highz s = .next { s with io := { s.io with tapIr := 5, pinsFrom := 2 }, out := s.out ++ [.tdo [false]] }) ∧
  (∀ (capture shift : List Bool) (chain : Nat) (s : State),
    exec (.samplePreload capture shift) s = .next { s with io := { s.io with tapIr := 2, pinsFrom := 0, boundary := shift }, out := s.out ++ [.tdo capture] }
        ∧ exec (.stapSelect chain) s = .next { s with io := { s.io with tapIr := 0x20, pinsFrom := 0, chain := if chain < 4 then chain + 1 else s.io.chain } }) ∧
  (∀ (die key : Nat) (shift : List Bool) (s : State),
    s.chainDie die = some key →
    leaves (.dwrAccess die shift) s (fun t => mapFind t.io.dwr key = some shift ∧ t.io.tapIr = 0x21
            ∧ (∃ b : List Bool, b.length = shift.length ∧ t.out = s.out ++ [.tdo b])
            ∧ t = { s with io := t.io, out := t.out, free := t.free })) ∧
  (∀ (f : Nat) (sent seen : List Bool) (s : State),
    f < 4 ∧ s.hasFacet f = true ∧ s.io.chain = f + 1 ∧ mapFind s.io.dwr 0 = some sent →
    leaves (.dwrAccess 1 seen) s (fun t => ∃ b : List Bool, t.out = s.out ++ [.tdo b] ∧ b.length = seen.length
            ∧ ∀ i, i < seen.length → i < Config.linkWires → f * Config.linkWires + i < sent.length →
              b[i]? = sent[f * Config.linkWires + i]?)) ∧
  (∀ (die : Nat) (shift : List Bool) (s : State),
    s.chainDie die = none →
    leaves (.dwrAccess die shift) s (fun t => t.io = { s.io with tapIr := 0x21, pinsFrom := 0 } ∧ t.out = s.out ++ [.tdo [false]]
            ∧ t = { s with io := t.io, out := t.out })) ∧
  (∀ (code : Nat) (s : State),
    exec (.bypass code) s = .next (if code % 256 ∈ [0x01, 0x02, 0x03, 0x04, 0x05, 0x10, 0x20, 0x21] then s
          else { s with io := { s.io with tapIr := 0xFF, pinsFrom := 0 }, out := s.out ++ [.tdo [false]] }))

/-- R5: pages 0x058 to 0x05F are the eight pages of Facet 3. -/
def Obligations.PositionThreeOfThePmx7241ReadsZero : Prop :=
  (∀ (rq : Requester) (addr page off n v : Nat) (s : State),
    s.part = .pmx7241 ∧ target rq addr = some (page, off) ∧ 0x058 ≤ page ∧ page ≤ 0x05F →
    (n = 4 ∧ addr % 4 = 0) ∨ (n = 8 ∧ addr % 8 = 0) →
    exec (.rcFieldRead rq addr n) s = .next (s.emit (.read rq (List.replicate n 0) false))
        ∧ exec (.lowWordRead rq addr n) s = .next (s.emit (.read rq (List.replicate n 0) false))
        ∧ exec (.registerWrite rq addr n v) s = .next s ∧ exec (.lowWordWrite rq addr n v) s = .next s
        ∧ (n = 4 → exec (.highWordWrite rq addr v) s = .next s))
end

