-- ==== Sys2Proof/Laws/Map.lean ====
section
/-! SUPPORT. Laws of the sparse maps: what a read gives after a write, and that every operation keeps the canonical form. -/

namespace Sys2Proof.Machine

/-! ### What a read gives -/

theorem mapGet_append_absent {α : Type} (d : Nat → α) (m n : NMap α) (k : Nat) (h : ∀ e ∈ m, e.1 ≠ k) :
    mapGet d (m ++ n) k = mapGet d n k := by
  induction m with
  | nil => rfl
  | cons e r ih =>
    have he : e.1 ≠ k := h e (by simp)
    simp [mapGet, he, ih (fun x hx => h x (by simp [hx]))]

theorem mapGet_absent {α : Type} (d : Nat → α) (m : NMap α) (k : Nat) (h : ∀ e ∈ m, e.1 ≠ k) : mapGet d m k = d k := by
  simpa [mapGet] using mapGet_append_absent d m [] k h

theorem mapGet_filter_append {α : Type} (d : Nat → α) (p : Nat × α → Bool) (m n : NMap α) (k : Nat)
    (hp : ∀ v, p (k, v) = true) (hn : ∀ e ∈ n, e.1 ≠ k) : mapGet d (m.filter p ++ n) k = mapGet d m k := by
  induction m with
  | nil => simpa [mapGet] using mapGet_absent d n k hn
  | cons e r ih =>
    obtain ⟨j, v⟩ := e
    by_cases hj : j = k
    · subst hj; simp [hp, mapGet]
    · by_cases hq : p (j, v) = true
      · simp [hq, mapGet, hj, ih]
      · simp [hq, mapGet, hj, ih]

theorem mapGet_filter {α : Type} (d : Nat → α) (p : Nat × α → Bool) (m : NMap α) (k : Nat)
    (hp : ∀ v, p (k, v) = true) : mapGet d (m.filter p) k = mapGet d m k := by
  simpa using mapGet_filter_append d p m [] k hp (by simp)

theorem key_ne_of_mem_below {α : Type} {m : NMap α} {k j : Nat} (h : k ≤ j) : ∀ e ∈ mapBelow m k, e.1 ≠ j := by
  intro e he; simp [mapBelow] at he; omega

theorem key_ne_of_mem_from {α : Type} {m : NMap α} {k j : Nat} (h : j < k) : ∀ e ∈ mapFrom m k, e.1 ≠ j := by
  intro e he; simp [mapFrom] at he; omega

theorem mapGet_mapFrom {α : Type} (d : Nat → α) (m : NMap α) {k j : Nat} (h : k ≤ j) :
    mapGet d (mapFrom m k) j = mapGet d m j := mapGet_filter d _ m j (by simp [h])

theorem mapGet_mapBelow_append {α : Type} (d : Nat → α) (m n : NMap α) {k j : Nat} (h : j < k)
    (hn : ∀ e ∈ n, e.1 ≠ j) : mapGet d (mapBelow m k ++ n) j = mapGet d m j :=
  mapGet_filter_append d _ m n j (by simp [h]) hn

@[simp] theorem mapGet_mapInsert_same {α : Type} (d : Nat → α) (m : NMap α) (k : Nat) (v : α) :
    mapGet d (mapInsert m k v) k = v := by
  rw [mapInsert, mapGet_append_absent d _ _ k (key_ne_of_mem_below (Nat.le_refl _))]; simp [mapGet]

theorem mapGet_mapInsert_other {α : Type} (d : Nat → α) (m : NMap α) {k j : Nat} (v : α) (h : j ≠ k) :
    mapGet d (mapInsert m k v) j = mapGet d m j := by
  rcases Nat.lt_or_gt_of_ne h with hl | hg
  · refine mapGet_mapBelow_append d m _ hl ?_
    intro e he
    rcases List.mem_cons.1 he with rfl | he
    · exact fun hk => h hk.symm
    · exact key_ne_of_mem_from (by omega) e he
  · rw [mapInsert, mapGet_append_absent d _ _ j (key_ne_of_mem_below (by omega))]
    simp [mapGet, Ne.symm h, mapGet_mapFrom d m (show k + 1 ≤ j from hg)]

@[simp] theorem mapGet_mapErase_same {α : Type} (d : Nat → α) (m : NMap α) (k : Nat) :
    mapGet d (mapErase m k) k = d k := by
  rw [mapErase, mapGet_append_absent d _ _ k (key_ne_of_mem_below (Nat.le_refl _))]
  exact mapGet_absent d _ k (key_ne_of_mem_from (by omega))

theorem mapGet_mapErase_other {α : Type} (d : Nat → α) (m : NMap α) {k j : Nat} (h : j ≠ k) :
    mapGet d (mapErase m k) j = mapGet d m j := by
  rcases Nat.lt_or_gt_of_ne h with hl | hg
  · exact mapGet_mapBelow_append d m _ hl (key_ne_of_mem_from (by omega))
  · rw [mapErase, mapGet_append_absent d _ _ j (key_ne_of_mem_below (by omega)), mapGet_mapFrom d m (show k + 1 ≤ j from hg)]

@[simp] theorem mapGet_mapSet_same {α : Type} [DecidableEq α] (d : Nat → α) (m : NMap α) (k : Nat) (v : α) :
    mapGet d (mapSet d m k v) k = v := by
  unfold mapSet; split
  · next h => simp [h]
  · simp

theorem mapGet_mapSet_other {α : Type} [DecidableEq α] (d : Nat → α) (m : NMap α) {k j : Nat} (v : α) (h : j ≠ k) :
    mapGet d (mapSet d m k v) j = mapGet d m j := by
  unfold mapSet; split
  · exact mapGet_mapErase_other d m h
  · exact mapGet_mapInsert_other d m v h

theorem mapFind_eq_mapGet {α : Type} (m : NMap α) (k : Nat) :
    mapFind m k = mapGet (fun _ => none) (m.map (fun e => (e.1, some e.2))) k := by
  induction m with
  | nil => rfl
  | cons e r ih => simp [mapFind, mapGet, ih]

theorem mapInsert_map {α β : Type} (f : α → β) (m : NMap α) (k : Nat) (v : α) :
    (mapInsert m k v).map (fun e => (e.1, f e.2)) = mapInsert (m.map (fun e => (e.1, f e.2))) k (f v) := by
  simp [mapInsert, mapBelow, mapFrom, List.filter_map, Function.comp_def]

@[simp] theorem mapFind_mapInsert_same {α : Type} (m : NMap α) (k : Nat) (v : α) : mapFind (mapInsert m k v) k = some v := by
  rw [mapFind_eq_mapGet, mapInsert_map]; simp

theorem mapFind_mapInsert_other {α : Type} (m : NMap α) {k j : Nat} (v : α) (h : j ≠ k) :
    mapFind (mapInsert m k v) j = mapFind m j := by
  rw [mapFind_eq_mapGet, mapInsert_map, mapGet_mapInsert_other _ _ _ h, ← mapFind_eq_mapGet]

theorem mem_mapRun {α : Type} [DecidableEq α] (d : Nat → α) (l : List α) (a : Nat) :
    ∀ e ∈ mapRun d a l, a ≤ e.1 ∧ e.1 < a + l.length ∧ e.2 ≠ d e.1 := by
  induction l generalizing a with
  | nil => simp [mapRun]
  | cons v r ih =>
    intro e he
    simp only [mapRun] at he
    split at he
    · have := ih (a + 1) e he; simp only [List.length_cons]; exact ⟨by omega, by omega, this.2.2⟩
    · rcases List.mem_cons.1 he with rfl | he
      · simp_all
      · have := ih (a + 1) e he; simp only [List.length_cons]; exact ⟨by omega, by omega, this.2.2⟩

theorem mapGet_mapRun {α : Type} [DecidableEq α] (d : Nat → α) (l : List α) (a i : Nat) (h : i < l.length) (n : NMap α)
    (hn : ∀ e ∈ n, a + l.length ≤ e.1) : mapGet d (mapRun d a l ++ n) (a + i) = l[i] := by
  induction l generalizing a i with
  | nil => simp at h
  | cons v r ih =>
    simp only [mapRun]
    cases i with
    | zero =>
      split
      · next hv =>
        rw [mapGet_absent]
        · simp [hv]
        · intro e he
          rcases List.mem_append.1 he with he | he
          · have := mem_mapRun d r (a + 1) e he; omega
          · have := hn e he; simp at this; omega
      · simp [mapGet]
    | succ i =>
      have hi : i < r.length := by simpa using h
      have hr := ih (a + 1) i hi (fun e he => by have := hn e he; simp at this; omega)
      have ha : a + (i + 1) = a + 1 + i := by omega
      split
      · simpa [ha] using hr
      · have hne : a ≠ a + 1 + i := by omega
        simpa [mapGet, ha, hne] using hr

/-- A byte inside what is written reads as written. -/
theorem mapGet_mapWrite_in {α : Type} [DecidableEq α] (d : Nat → α) (m : NMap α) (a : Nat) (l : List α) (i : Nat)
    (h : i < l.length) : mapGet d (mapWrite d m a l) (a + i) = l[i] := by
  rw [mapWrite, mapGet_append_absent d _ _ _ (key_ne_of_mem_below (by omega))]
  exact mapGet_mapRun d l a i h _ (fun e he => by simp [mapFrom] at he; exact he.2)

/-- A byte outside what is written reads as before. -/
theorem mapGet_mapWrite_out {α : Type} [DecidableEq α] (d : Nat → α) (m : NMap α) (a : Nat) (l : List α) (k : Nat)
    (h : k < a ∨ a + l.length ≤ k) : mapGet d (mapWrite d m a l) k = mapGet d m k := by
  rcases h with h | h
  · refine mapGet_mapBelow_append d m _ h ?_
    intro e he
    rcases List.mem_append.1 he with he | he
    · have := mem_mapRun d l a e he; omega
    · exact key_ne_of_mem_from (by omega) e he
  · rw [mapWrite, mapGet_append_absent d _ _ _ (key_ne_of_mem_below (by omega)),
      mapGet_append_absent d _ _ _ (fun e he => by have := mem_mapRun d l a e he; omega), mapGet_mapFrom d m h]

/-- What a range write stored, the same range reads. -/
theorem mapRead_mapWrite {α : Type} [DecidableEq α] (d : Nat → α) (m : NMap α) (a : Nat) (l : List α) :
    mapRead d (mapWrite d m a l) a l.length = l := by
  apply List.ext_getElem
  · simp [mapRead]
  · intro i h1 h2
    simp only [mapRead, List.getElem_map, List.getElem_range]
    have hlt : a + i < a + l.length := by omega
    rw [← mapGet_mapWrite_in d m a l i h2]
    have := mapGet_mapBelow_append d (mapFrom (mapWrite d m a l) a) [] hlt (by simp)
    rw [List.append_nil] at this
    rw [this, mapGet_mapFrom d _ (by omega)]

/-- A read of n values gives the value at each of its keys. -/
theorem mapRead_eq {α : Type} (d : Nat → α) (m : NMap α) (a n : Nat) :
    mapRead d m a n = (List.range n).map (fun i => mapGet d m (a + i)) := by
  simp only [mapRead]
  apply List.map_congr_left
  intro i hi
  have hlt : a + i < a + n := by have := List.mem_range.1 hi; omega
  have := mapGet_mapBelow_append d (mapFrom m a) [] hlt (by simp)
  rw [List.append_nil] at this
  rw [this, mapGet_mapFrom d _ (by omega)]

/-! ### The canonical form -/

/-- The canonical form as a proposition: keys strictly rising, and no value equal to its key's default. -/
theorem mapSorted_some {α : Type} (b : Nat) (m : NMap α) :
    mapSorted (some b) m = true ↔ (∀ e ∈ m, b < e.1) ∧ m.Pairwise (fun x y => x.1 < y.1) := by
  induction m generalizing b with
  | nil => simp [mapSorted]
  | cons e r ih =>
    obtain ⟨j, v⟩ := e
    simp only [mapSorted, Bool.and_eq_true, decide_eq_true_eq, ih, List.pairwise_cons, List.mem_cons]
    constructor
    · rintro ⟨h, h1, h2⟩
      refine ⟨?_, h1, h2⟩
      rintro e (rfl | he)
      · exact h
      · have := h1 e he; omega
    · rintro ⟨h, h1, h2⟩
      exact ⟨h (j, v) (Or.inl rfl), h1, h2⟩

theorem mapSorted_none {α : Type} (m : NMap α) : mapSorted none m = true ↔ m.Pairwise (fun x y => x.1 < y.1) := by
  cases m with
  | nil => simp [mapSorted]
  | cons e r => obtain ⟨j, v⟩ := e; simp [mapSorted, mapSorted_some, List.pairwise_cons]

theorem mapWf_iff {α : Type} [DecidableEq α] (d : Nat → α) (m : NMap α) :
    mapWf d m = true ↔ m.Pairwise (fun x y => x.1 < y.1) ∧ ∀ e ∈ m, e.2 ≠ d e.1 := by
  simp [mapWf, mapSorted_none]

theorem mapWf_nil {α : Type} [DecidableEq α] (d : Nat → α) : mapWf d [] = true := by simp [mapWf_iff]

theorem mapWf_filter {α : Type} [DecidableEq α] {d : Nat → α} {m : NMap α} (p : Nat × α → Bool) (h : mapWf d m = true) :
    mapWf d (m.filter p) = true := by
  rw [mapWf_iff] at *
  exact ⟨h.1.filter _, fun e he => h.2 e (List.mem_filter.1 he).1⟩

theorem mapWf_append {α : Type} [DecidableEq α] {d : Nat → α} {m n : NMap α} (hm : mapWf d m = true) (hn : mapWf d n = true)
    (h : ∀ x ∈ m, ∀ y ∈ n, x.1 < y.1) : mapWf d (m ++ n) = true := by
  rw [mapWf_iff] at *
  refine ⟨List.pairwise_append.2 ⟨hm.1, hn.1, h⟩, fun e he => ?_⟩
  rcases List.mem_append.1 he with he | he
  · exact hm.2 e he
  · exact hn.2 e he

theorem mapWf_cons {α : Type} [DecidableEq α] {d : Nat → α} {n : NMap α} {k : Nat} {v : α} (hv : v ≠ d k)
    (hn : mapWf d n = true) (h : ∀ y ∈ n, k < y.1) : mapWf d ((k, v) :: n) = true := by
  rw [mapWf_iff] at *
  exact ⟨List.pairwise_cons.2 ⟨h, hn.1⟩, fun e he => by
    rcases List.mem_cons.1 he with rfl | he
    · exact hv
    · exact hn.2 e he⟩

theorem lt_of_mem_below {α : Type} {m : NMap α} {k : Nat} : ∀ e ∈ mapBelow m k, e.1 < k := by
  intro e he; simp [mapBelow] at he; exact he.2

theorem le_of_mem_from {α : Type} {m : NMap α} {k : Nat} : ∀ e ∈ mapFrom m k, k ≤ e.1 := by
  intro e he; simp [mapFrom] at he; exact he.2

theorem mapErase_wf {α : Type} [DecidableEq α] {d : Nat → α} {m : NMap α} (k : Nat) (h : mapWf d m = true) :
    mapWf d (mapErase m k) = true :=
  mapWf_append (mapWf_filter _ h) (mapWf_filter _ h)
    (fun x hx y hy => by have := lt_of_mem_below x hx; have := le_of_mem_from y hy; omega)

theorem mapInsert_wf {α : Type} [DecidableEq α] {d : Nat → α} {m : NMap α} (k : Nat) {v : α} (hv : v ≠ d k)
    (h : mapWf d m = true) : mapWf d (mapInsert m k v) = true := by
  refine mapWf_append (mapWf_filter _ h) (mapWf_cons hv (mapWf_filter _ h) ?_) ?_
  · intro y hy; have := le_of_mem_from y hy; omega
  · intro x hx y hy
    have hx := lt_of_mem_below x hx
    rcases List.mem_cons.1 hy with rfl | hy
    · exact hx
    · have := le_of_mem_from y hy; omega

/-- Setting one key keeps the canonical form. -/
theorem mapSet_wf {α : Type} [DecidableEq α] {d : Nat → α} {m : NMap α} (k : Nat) (v : α) (h : mapWf d m = true) :
    mapWf d (mapSet d m k v) = true := by
  unfold mapSet; split
  · exact mapErase_wf k h
  · next hv => exact mapInsert_wf k hv h

theorem mapRun_wf {α : Type} [DecidableEq α] (d : Nat → α) (l : List α) (a : Nat) : mapWf d (mapRun d a l) = true := by
  induction l generalizing a with
  | nil => exact mapWf_nil d
  | cons v r ih =>
    simp only [mapRun]
    split
    · exact ih (a + 1)
    · next hv => exact mapWf_cons hv (ih (a + 1)) (fun y hy => by have := mem_mapRun d r (a + 1) y hy; omega)

/-- Writing a range keeps the canonical form. -/
theorem mapWrite_wf {α : Type} [DecidableEq α] {d : Nat → α} {m : NMap α} (a : Nat) (l : List α) (h : mapWf d m = true) :
    mapWf d (mapWrite d m a l) = true := by
  refine mapWf_append (mapWf_filter _ h) (mapWf_append (mapRun_wf d l a) (mapWf_filter _ h) ?_) ?_
  · intro x hx y hy
    have := mem_mapRun d l a x hx
    have := le_of_mem_from y hy
    omega
  · intro x hx y hy
    have := lt_of_mem_below x hx
    rcases List.mem_append.1 hy with hy | hy
    · have := mem_mapRun d l a y hy; omega
    · have := le_of_mem_from y hy; omega

/-- Clearing a range keeps the canonical form. -/
theorem mapClear_wf {α : Type} [DecidableEq α] {d : Nat → α} {m : NMap α} (a n : Nat) (h : mapWf d m = true) :
    mapWf d (mapBelow m a ++ mapFrom m (a + n)) = true :=
  mapWf_append (mapWf_filter _ h) (mapWf_filter _ h)
    (fun x hx y hy => by have := lt_of_mem_below x hx; have := le_of_mem_from y hy; omega)

/-- A canonical map is determined by what it reads as. -/
theorem mapWf_ext {α : Type} [DecidableEq α] {d : Nat → α} {m n : NMap α} (hm : mapWf d m = true) (hn : mapWf d n = true)
    (h : ∀ k, mapGet d m k = mapGet d n k) : m = n := by
  induction m generalizing n with
  | nil =>
    cases n with
    | nil => rfl
    | cons e r =>
      obtain ⟨j, v⟩ := e
      have := (mapWf_iff d _).1 hn
      have hj := h j
      simp [mapGet] at hj
      exact absurd hj.symm (this.2 (j, v) (by simp))
  | cons e r ih =>
    obtain ⟨i, u⟩ := e
    have h1 := (mapWf_iff d _).1 hm
    have hr : mapWf d r = true := (mapWf_iff d _).2 ⟨(List.pairwise_cons.1 h1.1).2, fun x hx => h1.2 x (by simp [hx])⟩
    cases n with
    | nil =>
      have hi := h i
      simp [mapGet] at hi
      exact absurd hi (h1.2 (i, u) (by simp))
    | cons f q =>
      obtain ⟨j, v⟩ := f
      have h2 := (mapWf_iff d _).1 hn
      have hq : mapWf d q = true := (mapWf_iff d _).2 ⟨(List.pairwise_cons.1 h2.1).2, fun x hx => h2.2 x (by simp [hx])⟩
      have hij : i = j := by
        rcases Nat.lt_trichotomy i j with hl | he | hg
        · have hi := h i
          rw [mapGet_absent d ((j, v) :: q) i (fun e he => by
            rcases List.mem_cons.1 he with rfl | he
            · exact Nat.ne_of_gt hl
            · have := (List.pairwise_cons.1 h2.1).1 e he; simp at this; omega)] at hi
          simp [mapGet] at hi
          exact absurd hi (h1.2 (i, u) (by simp))
        · exact he
        · have hj := h j
          rw [mapGet_absent d ((i, u) :: r) j (fun e he => by
            rcases List.mem_cons.1 he with rfl | he
            · exact Nat.ne_of_gt hg
            · have := (List.pairwise_cons.1 h1.1).1 e he; simp at this; omega)] at hj
          simp [mapGet] at hj
          exact absurd hj.symm (h2.2 (j, v) (by simp))
      subst hij
      have hv : u = v := by simpa [mapGet] using h i
      subst hv
      congr 1
      refine ih hr hq (fun k => ?_)
      by_cases hk : i = k
      · subst hk
        rw [mapGet_absent d r i (fun e he => by have := (List.pairwise_cons.1 h1.1).1 e he; simp at this; omega),
          mapGet_absent d q i (fun e he => by have := (List.pairwise_cons.1 h2.1).1 e he; simp at this; omega)]
      · simpa [mapGet, hk] using h k

end Sys2Proof.Machine
end

