-- ==== Sys2Proof/Laws/Keeps.lean ====
section
/-! SUPPORT. What every operation keeps: the part, the tick, the queue of waiting commands, and the canonical form of the
memories, the registers and the blocks. One relation, its rules, and the shared operations of `Ops`. -/

namespace Sys2Proof.Machine

/-- What lies between two states where no time passes: the part, the tick and the queue are the same, and the maps keep their
canonical form. -/
structure Keeps (s t : State) : Prop where
  part : t.part = s.part
  tick : t.tick = s.tick
  pending : t.pending = s.pending
  mem : Memory.wf s.mem = true → Memory.wf t.mem = true
  regs : s.regsWf = true → t.regsWf = true

theorem Keeps.refl (s : State) : Keeps s s := ⟨rfl, rfl, rfl, id, id⟩

theorem Keeps.trans {s t u : State} (h : Keeps s t) (g : Keeps t u) : Keeps s u :=
  ⟨g.part.trans h.part, g.tick.trans h.tick, g.pending.trans h.pending, g.mem ∘ h.mem, g.regs ∘ h.regs⟩

/-- A state that differs in other fields only. -/
theorem Keeps.same {s₀ s t : State} (h : Keeps s₀ s) (hp : t.part = s.part) (ht : t.tick = s.tick)
    (hq : t.pending = s.pending) (hm : t.mem = s.mem) (hr : t.regs = s.regs) (hb : t.blocks = s.blocks) : Keeps s₀ t :=
  ⟨hp.trans h.part, ht.trans h.tick, hq.trans h.pending, fun g => by rw [hm]; exact h.mem g,
    fun g => by
      have := h.regs g
      simp only [State.regsWf, hp, hr, hb] at this ⊢
      exact this⟩

theorem Keeps.ite {s₀ a b : State} {c : Prop} [Decidable c] (ha : Keeps s₀ a) (hb : Keeps s₀ b) :
    Keeps s₀ (if c then a else b) := by
  split <;> assumption

theorem Keeps.foldl {α : Type} {s₀ s : State} {f : State → α → State} {l : List α} (h : Keeps s₀ s)
    (hf : ∀ t x, Keeps s₀ t → Keeps s₀ (f t x)) : Keeps s₀ (l.foldl f s) := by
  induction l generalizing s with
  | nil => exact h
  | cons x r ih => exact ih (hf s x h)

theorem Keeps.foldl_fst {α β : Type} {s₀ : State} {p : State × β} {f : State × β → α → State × β} {l : List α}
    (h : Keeps s₀ p.1) (hf : ∀ t x, Keeps s₀ t.1 → Keeps s₀ (f t x).1) : Keeps s₀ (l.foldl f p).1 := by
  induction l generalizing p with
  | nil => exact h
  | cons x r ih => exact ih (hf p x h)

theorem Keeps.foldl_snd {α β : Type} {s₀ : State} {p : β × State} {f : β × State → α → β × State} {l : List α}
    (h : Keeps s₀ p.2) (hf : ∀ t x, Keeps s₀ t.2 → Keeps s₀ (f t x).2) : Keeps s₀ (l.foldl f p).2 := by
  induction l generalizing p with
  | nil => exact h
  | cons x r ih => exact ih (hf p x h)

theorem Keeps.foldl_at {α β : Type} {s₀ : State} (π : β → State) {p : β} {f : β → α → β} {l : List α}
    (h : Keeps s₀ (π p)) (hf : ∀ t x, Keeps s₀ (π t) → Keeps s₀ (π (f t x))) : Keeps s₀ (π (l.foldl f p)) := by
  induction l generalizing p with
  | nil => exact h
  | cons x r ih => exact ih (hf p x h)

theorem Keeps.ite_at {β : Type} {s₀ : State} (π : β → State) {a b : β} {c : Prop} [Decidable c] (ha : Keeps s₀ (π a))
    (hb : Keeps s₀ (π b)) : Keeps s₀ (π (if c then a else b)) := by
  split <;> assumption

theorem Keeps.forEach {s₀ s : State} {f : Nat → State → State} {l : List Nat} (h : Keeps s₀ s)
    (hf : ∀ i t, Keeps s₀ t → Keeps s₀ (f i t)) : Keeps s₀ (forEach l f s) :=
  Keeps.foldl h (fun t i => hf i t)

theorem Keeps.pair_fst {β : Type} {s₀ : State} {p : State × β} {b : State → β → State} :
    Keeps s₀ p.1 → (∀ t x, Keeps s₀ t → Keeps s₀ (b t x)) → Keeps s₀ (match p with | (t, x) => b t x) :=
  fun h hb => hb _ _ h

theorem Keeps.pair_snd {β : Type} {s₀ : State} {p : β × State} {b : β → State → State} :
    Keeps s₀ p.2 → (∀ x t, Keeps s₀ t → Keeps s₀ (b x t)) → Keeps s₀ (match p with | (x, t) => b x t) :=
  fun h hb => hb _ _ h

theorem Keeps.snd_eq {β : Type} {s₀ t : State} {p : β × State} {x : β} (h : Keeps s₀ p.2) (e : p = (x, t)) : Keeps s₀ t := by
  rw [e] at h; exact h

theorem Keeps.fst_eq {β : Type} {s₀ t : State} {p : State × β} {x : β} (h : Keeps s₀ p.1) (e : p = (t, x)) : Keeps s₀ t := by
  rw [e] at h; exact h

theorem Keeps.snd_snd_eq {α β : Type} {s₀ t : State} {p : α × β × State} {x : α} {y : β} (h : Keeps s₀ p.2.2)
    (e : p = (x, y, t)) : Keeps s₀ t := by
  rw [e] at h; exact h

/-! ### The canonical forms -/

theorem Memory.wf_dpa {m : Mem} {d : NMap Byte} (h : Memory.wf m = true)
    (hd : mapWf zeroByte m.dpa = true → mapWf zeroByte d = true) : Memory.wf { m with dpa := d } = true := by
  simp only [Memory.wf, Bool.and_eq_true] at *
  exact ⟨⟨⟨hd h.1.1.1, h.1.1.2⟩, h.1.2⟩, h.2⟩

theorem Memory.wf_host {m : Mem} {d : NMap Byte} (h : Memory.wf m = true)
    (hd : mapWf zeroByte m.host = true → mapWf zeroByte d = true) : Memory.wf { m with host := d } = true := by
  simp only [Memory.wf, Bool.and_eq_true] at *
  exact ⟨⟨⟨h.1.1.1, hd h.1.1.2⟩, h.1.2⟩, h.2⟩

theorem Memory.wf_nvme {m : Mem} {d : NMap Byte} (h : Memory.wf m = true)
    (hd : mapWf zeroByte m.nvme = true → mapWf zeroByte d = true) : Memory.wf { m with nvme := d } = true := by
  simp only [Memory.wf, Bool.and_eq_true] at *
  exact ⟨⟨h.1.1, hd h.1.2⟩, h.2⟩

theorem Memory.wf_flash {m : Mem} {d : NMap Byte} (h : Memory.wf m = true)
    (hd : mapWf zeroByte m.flash = true → mapWf zeroByte d = true) : Memory.wf { m with flash := d } = true := by
  simp only [Memory.wf, Bool.and_eq_true] at *
  exact ⟨h.1, hd h.2⟩

/-- A state whose registers and blocks have been filtered, with everything else that `Keeps` speaks of as before. -/
theorem Keeps.filtered {s₀ s t : State} (h : Keeps s₀ s) (p : Nat × Word → Bool) (q : Nat × Block → Bool)
    (hp : t.part = s.part) (ht : t.tick = s.tick) (hq : t.pending = s.pending) (hm : t.mem = s.mem)
    (hr : t.regs = s.regs.filter p) (hb : t.blocks = s.blocks.filter q) : Keeps s₀ t :=
  ⟨hp.trans h.part, ht.trans h.tick, hq.trans h.pending, fun g => by rw [hm]; exact h.mem g,
    fun g => by
      have := h.regs g
      simp only [State.regsWf, hp, hr, hb, Bool.and_eq_true] at this ⊢
      exact ⟨mapWf_filter _ this.1, mapWf_filter _ this.2⟩⟩

/-- A state whose blocks are those of another one, filtered. -/
theorem Keeps.withBlocks {s₀ s r t : State} (h : Keeps s₀ s) (g : Keeps s₀ r) (q : Nat × Block → Bool) (hp : t.part = s.part)
    (ht : t.tick = s.tick) (hq : t.pending = s.pending) (hm : t.mem = s.mem) (hr : t.regs = s.regs)
    (hb : t.blocks = r.blocks.filter q) : Keeps s₀ t :=
  ⟨hp.trans h.part, ht.trans h.tick, hq.trans h.pending, fun m => by rw [hm]; exact h.mem m,
    fun m => by
      have h1 := h.regs m
      have h2 := g.regs m
      simp only [State.regsWf, hp, hr, hb, Bool.and_eq_true] at h1 h2 ⊢
      exact ⟨h1.1, mapWf_filter _ h2.2⟩⟩

theorem filter_true {α : Type} (l : List α) : l.filter (fun _ => true) = l := by simp

/-! ### The operations that write a register, a block or a memory -/

theorem State.setWord_keeps {s₀ s : State} {p o w} (h : Keeps s₀ s) : Keeps s₀ (s.setWord p o w) :=
  ⟨h.part, h.tick, h.pending, h.mem, fun g => by
    have := h.regs g
    simp only [State.regsWf, State.setWord, Bool.and_eq_true] at this ⊢
    exact ⟨mapSet_wf _ _ this.1, this.2⟩⟩

theorem State.setBlk_keeps {s₀ s : State} {p b} (h : Keeps s₀ s) : Keeps s₀ (s.setBlk p b) :=
  ⟨h.part, h.tick, h.pending, h.mem, fun g => by
    have := h.regs g
    simp only [State.regsWf, State.setBlk, Bool.and_eq_true] at this ⊢
    exact ⟨this.1, mapSet_wf _ _ this.2⟩⟩

theorem State.dpaWrite_keeps {s₀ s : State} {a l} (h : Keeps s₀ s) : Keeps s₀ (s.dpaWrite a l) :=
  ⟨h.part, h.tick, h.pending, fun g => Memory.wf_dpa (h.mem g) (mapWrite_wf a l), h.regs⟩

theorem State.hostWrite_keeps {s₀ s : State} {f a l} (h : Keeps s₀ s) : Keeps s₀ (s.hostWrite f a l) :=
  ⟨h.part, h.tick, h.pending, fun g => Memory.wf_host (h.mem g) (mapWrite_wf a l), h.regs⟩

theorem State.nvmeWrite_keeps {s₀ s : State} {a l} (h : Keeps s₀ s) : Keeps s₀ (s.nvmeWrite a l) :=
  ⟨h.part, h.tick, h.pending, fun g => Memory.wf_nvme (h.mem g) (mapWrite_wf a l), h.regs⟩

theorem State.flashWrite_keeps {s₀ s : State} {a l} (h : Keeps s₀ s) : Keeps s₀ (s.flashWrite a l) :=
  ⟨h.part, h.tick, h.pending, fun g => Memory.wf_flash (h.mem g) (mapWrite_wf a l), h.regs⟩

theorem State.dpaClear_keeps {s₀ s : State} {a n} (h : Keeps s₀ s) : Keeps s₀ (s.dpaClear a n) :=
  ⟨h.part, h.tick, h.pending, fun g => Memory.wf_dpa (h.mem g) (mapClear_wf a n), h.regs⟩

end Sys2Proof.Machine
end

