-- ==== Sys2Proof/Laws/KeepsOps.lean ====
section
/-! SUPPORT. Every operation of `Machine/Ops` keeps the part, the tick, the queue and the canonical forms (`Keeps`), and every command
there answers a next state. -/

namespace Sys2Proof.Machine

theorem State.wr_keeps {s₀ s : State} {f v} (h : Keeps s₀ s) :
    Keeps s₀ (State.wr f v s) := by
  unfold State.wr
  exact State.setWord_keeps h

theorem State.incBy_keeps {s₀ s : State} {f n} (h : Keeps s₀ s) :
    Keeps s₀ (State.incBy f n s) := by
  unfold State.incBy
  exact State.wr_keeps h

theorem State.inc_keeps {s₀ s : State} {f} (h : Keeps s₀ s) :
    Keeps s₀ (State.inc f s) := by
  unfold State.inc
  exact State.incBy_keeps h

theorem State.orBits_keeps {s₀ s : State} {f m} (h : Keeps s₀ s) :
    Keeps s₀ (State.orBits f m s) := by
  unfold State.orBits
  exact State.wr_keeps h

theorem State.clearBits_keeps {s₀ s : State} {f m} (h : Keeps s₀ s) :
    Keeps s₀ (State.clearBits f m s) := by
  unfold State.clearBits
  exact State.wr_keeps h

theorem State.wr64_keeps {s₀ s : State} {lo hi0 v} (h : Keeps s₀ s) :
    Keeps s₀ (State.wr64 lo hi0 v s) := by
  unfold State.wr64
  exact State.wr_keeps (State.wr_keeps h)

theorem State.inc64_keeps {s₀ s : State} {lo hi0 n} (h : Keeps s₀ s) :
    Keeps s₀ (State.inc64 lo hi0 n s) := by
  unfold State.inc64
  exact State.wr64_keeps h

theorem State.setW1c_keeps {s₀ s : State} {f m} (h : Keeps s₀ s) :
    Keeps s₀ (State.setW1c f m s) := by
  unfold State.setW1c
  extract_lets x0 x1 x2
  have h3 : Keeps s₀ x1 := State.orBits_keeps h
  exact Keeps.same h3 rfl rfl rfl rfl rfl rfl

theorem State.putBit_keeps {s₀ s : State} {f n b} (h : Keeps s₀ s) :
    Keeps s₀ (State.putBit f n b s) := by
  unfold State.putBit
  exact Keeps.ite (State.orBits_keeps h) (State.clearBits_keeps h)

theorem State.freeBits_keeps {s₀ s : State} {n} (h : Keeps s₀ s) :
    Keeps s₀ (State.freeBits s n).2 := by
  unfold State.freeBits
  dsimp only
  exact Keeps.same h rfl rfl rfl rfl rfl rfl

theorem State.freeBytes_keeps {s₀ s : State} {n} (h : Keeps s₀ s) :
    Keeps s₀ (State.freeBytes s n).2 := by
  unfold State.freeBytes
  dsimp only
  exact Keeps.same h rfl rfl rfl rfl rfl rfl

theorem State.emit_keeps {s₀ s : State} {o} (h : Keeps s₀ s) :
    Keeps s₀ (State.emit o s) := by
  unfold State.emit
  exact Keeps.same h rfl rfl rfl rfl rfl rfl

theorem State.wsIrq_keeps {s₀ s : State} {w vec} (h : Keeps s₀ s) :
    Keeps s₀ (State.wsIrq w vec s) := by
  unfold State.wsIrq
  extract_lets x0
  exact Keeps.ite (State.emit_keeps h) (Keeps.ite (State.emit_keeps h) (State.emit_keeps (State.setW1c_keeps h)))

theorem State.setIrq_keeps {s₀ s : State} {page bit} (h : Keeps s₀ s) :
    Keeps s₀ (State.setIrq page bit s) := by
  unfold State.setIrq
  extract_lets x0 x1 x2
  have h3 : Keeps s₀ x0 := State.orBits_keeps h
  have h4 : Keeps s₀ x1 := State.setW1c_keeps h3
  have h5 : Keeps s₀ x2 := State.wr64_keeps h4
  exact Keeps.ite h (Keeps.ite (Keeps.ite (State.wsIrq_keeps h5) (State.emit_keeps h5)) h5)

theorem State.raiseIrq_keeps {s₀ s : State} {page bit} (h : Keeps s₀ s) :
    Keeps s₀ (State.raiseIrq page bit s) := by
  unfold State.raiseIrq
  extract_lets x0 x1
  have h2 : Keeps s₀ x1 := Keeps.same h rfl rfl rfl rfl rfl rfl
  exact State.setIrq_keeps h2

theorem State.reject_keeps {s₀ s : State} {page} (h : Keeps s₀ s) :
    Keeps s₀ (State.reject page s) := by
  unfold State.reject
  exact State.raiseIrq_keeps h

theorem State.blocked_keeps {s₀ s : State} {page} (h : Keeps s₀ s) :
    Keeps s₀ (State.blocked page s) := by
  unfold State.blocked
  exact State.raiseIrq_keeps (State.inc_keeps h)

theorem State.fire_keeps {s₀ s : State} {i detail} (h : Keeps s₀ s) :
    Keeps s₀ (State.fire i detail s) := by
  unfold State.fire
  extract_lets x0 x1
  exact Keeps.same h rfl rfl rfl rfl rfl rfl

theorem State.goto_keeps {s₀ s : State} {page st cause} (h : Keeps s₀ s) :
    Keeps s₀ (State.goto page st cause s) := by
  unfold State.goto
  extract_lets x0 x1 x2
  have h3 : Keeps s₀ x2 := State.setBlk_keeps h
  exact State.raiseIrq_keeps h3

theorem State.setOp_keeps {s₀ s : State} {f op} (h : Keeps s₀ s) :
    Keeps s₀ (State.setOp f op s) := by
  unfold State.setOp
  exact State.wr_keeps h

theorem State.hostAsk_keeps {s₀ s : State} {fn a n} (h : Keeps s₀ s) :
    Keeps s₀ (State.hostAsk fn a n s) := by
  unfold State.hostAsk
  exact Keeps.same h rfl rfl rfl rfl rfl rfl

end Sys2Proof.Machine
end

