-- ==== Sys2Proof/Laws/KeepsFlags.lean ====
section
/-! SUPPORT. Every operation of `Machine/Flags` keeps the part, the tick, the queue and the canonical forms (`Keeps`), and every command
there answers a next state. -/

namespace Sys2Proof.Machine

theorem State.guaranteeCheck_keeps {s₀ s : State} (h : Keeps s₀ s) :
    Keeps s₀ (State.guaranteeCheck s) := by
  unfold State.guaranteeCheck
  extract_lets x0 x1 x2
  have h3 : Keeps s₀ x2 := State.wr_keeps (State.wr_keeps h)
  exact Keeps.ite (State.raiseIrq_keeps (State.wr64_keeps (State.setW1c_keeps h3))) h3

end Sys2Proof.Machine
end

