-- ==== Sys2Proof/Laws/KeepsTiles.lean ====
section
/-! SUPPORT. Every operation of `Machine/Tiles` keeps the part, the tick, the queue and the canonical forms (`Keeps`), and every command
there answers a next state. -/

namespace Sys2Proof.Machine

theorem State.setCk_keeps {s₀ s : State} {c} (h : Keeps s₀ s) :
    Keeps s₀ (State.setCk s c) := by
  unfold State.setCk
  exact Keeps.same h rfl rfl rfl rfl rfl rfl

theorem State.putSlot_keeps {s₀ s : State} {a e} (h : Keeps s₀ s) :
    Keeps s₀ (State.putSlot a e s) := by
  unfold State.putSlot
  extract_lets x0
  exact State.setCk_keeps h

theorem State.modSlot_keeps {s₀ s : State} {a f} (h : Keeps s₀ s) :
    Keeps s₀ (State.modSlot a f s) := by
  unfold State.modSlot
  extract_lets x0
  exact State.setCk_keeps h

theorem State.eraseSlot_keeps {s₀ s : State} {a} (h : Keeps s₀ s) :
    Keeps s₀ (State.eraseSlot a s) := by
  unfold State.eraseSlot
  extract_lets x0
  exact State.setCk_keeps h

theorem State.dropSlot_keeps {s₀ s : State} {a} (h : Keeps s₀ s) :
    Keeps s₀ (State.dropSlot a s) := by
  unfold State.dropSlot
  split
  · exact h
  · extract_lets x0
    have h1 : Keeps s₀ x0 := State.eraseSlot_keeps h
    refine Keeps.ite h1 ?_
    split
    · exact State.modSlot_keeps h1
    · exact h1

theorem State.modObj_keeps {s₀ s : State} {w id f} (h : Keeps s₀ s) :
    Keeps s₀ (State.modObj w id f s) := by
  unfold State.modObj
  extract_lets x0
  exact State.setCk_keeps h

theorem State.loseObj_keeps {s₀ s : State} {w id} (h : Keeps s₀ s) :
    Keeps s₀ (State.loseObj w id s) := by
  unfold State.loseObj
  exact State.inc_keeps (State.modObj_keeps h)

theorem State.evict_keeps {s₀ s : State} {a} (h : Keeps s₀ s) :
    Keeps s₀ (State.evict a s).2 := by
  unfold State.evict
  split
  · exact h
  · extract_lets x0
    have h1 : Keeps s₀ x0 := State.inc_keeps h
    split
    · split
      · dsimp only
        exact State.modSlot_keeps h1
      · dsimp only
        exact State.eraseSlot_keeps h1
    · dsimp only
      exact State.eraseSlot_keeps (State.loseObj_keeps h1)

theorem State.reuse_keeps {s₀ s : State} {a borrowed} (h : Keeps s₀ s) :
    Keeps s₀ (State.reuse a borrowed s).2 := by
  unfold State.reuse
  split
  · rename_i z0 z1 z2
    have h3 := Keeps.snd_eq (State.evict_keeps h) z2
    exact h3
  · rename_i z4 z5 z6
    have h7 := Keeps.snd_eq (State.evict_keeps h) z6
    exact h7

theorem State.trimPool_keeps {s₀ s : State} {tier n} (h : Keeps s₀ s) : Keeps s₀ (State.trimPool tier n s) := by
  induction n generalizing s with
  | zero => exact h
  | succ n ih =>
    unfold State.trimPool
    refine Keeps.ite ?_ h
    split
    · exact ih (State.evict_keeps h)
    · exact h

theorem State.trimPools_keeps {s₀ s : State} (h : Keeps s₀ s) :
    Keeps s₀ (State.trimPools s) := by
  unfold State.trimPools
  exact Keeps.ite (State.trimPool_keeps (State.trimPool_keeps h)) h

theorem State.takeTile_keeps {s₀ s : State} {w tier place poolOk} (h : Keeps s₀ s) :
    Keeps s₀ (State.takeTile w tier place poolOk s).2 := by
  unfold State.takeTile
  extract_lets x0 x1 x2 x3
  clear_value x0 x1 x2 x3
  split
  · split
    · exact h
    · split
      · exact State.reuse_keeps h
      · exact h
  · split
    · exact h
    · split
      · exact State.reuse_keeps h
      · split
        · exact State.reuse_keeps h
        · exact h

theorem State.takeLocket_keeps {s₀ s : State} {w f} (h : Keeps s₀ s) :
    Keeps s₀ (State.takeLocket w f s).2 := by
  unfold State.takeLocket
  split
  · split <;> exact h
  · split
    · exact State.reuse_keeps h
    · exact h

theorem State.syncLent_keeps {s₀ s : State} (h : Keeps s₀ s) :
    Keeps s₀ (State.syncLent s) := by
  unfold State.syncLent
  extract_lets x0 x1 x2 x3 x4
  have h5 : Keeps s₀ x3 := Keeps.ite h (State.wr_keeps h)
  exact State.setCk_keeps h5

theorem State.addLentCopy_keeps {s₀ s : State} {w id i data} (h : Keeps s₀ s) :
    Keeps s₀ (State.addLentCopy w id i data s) := by
  unfold State.addLentCopy
  extract_lets x0 x1 x2 x3 x4 x5 x6 x7
  refine Keeps.ite h ?_
  split
  · exact h
  · exact State.dpaWrite_keeps (State.setCk_keeps h)

theorem State.setBorrow_keeps {s₀ s : State} {p v} (h : Keeps s₀ s) :
    Keeps s₀ (State.setBorrow p v s) := by
  unfold State.setBorrow
  extract_lets x0
  exact State.wr_keeps h

theorem State.roceProgress_keeps {s₀ s : State} {p} (h : Keeps s₀ s) :
    Keeps s₀ (State.roceProgress p s) := by
  unfold State.roceProgress
  extract_lets x0
  exact Keeps.same h rfl rfl rfl rfl rfl rfl

theorem State.started_keeps {s₀ s : State} {rid} (h : Keeps s₀ s) :
    Keeps s₀ (State.started rid s) := by
  unfold State.started
  extract_lets x0
  exact Keeps.same h rfl rfl rfl rfl rfl rfl

theorem State.hold_keeps {s₀ s : State} {a rid} (h : Keeps s₀ s) :
    Keeps s₀ (State.hold a rid s) := by
  unfold State.hold
  exact State.modSlot_keeps h

theorem State.accessed_keeps {s₀ s : State} {a} (h : Keeps s₀ s) :
    Keeps s₀ (State.accessed a s) := by
  unfold State.accessed
  exact State.modSlot_keeps h

theorem State.takeFor_keeps {s₀ s : State} {rid tier f take} (h : Keeps s₀ s)
    (ht : ∀ y1, Keeps s₀ y1 → Keeps s₀ (take y1).2) :
    Keeps s₀ (State.takeFor rid tier f take s).2 := by
  unfold State.takeFor
  split
  · split
    · exact h
    · exact State.eraseSlot_keeps h
  · split
    · rename_i a b t e
      exact State.modSlot_keeps (Keeps.snd_eq (ht _ h) e)
    · exact ht _ h

theorem State.keepLocal_keeps {s₀ s : State} {rid w id i a facets} (h : Keeps s₀ s) :
    Keeps s₀ (State.keepLocal rid w id i a facets s) := by
  unfold State.keepLocal
  split
  · exact h
  · rename_i z2 z3 z4
    refine Keeps.ite ?_ h
    refine Keeps.foldl h (fun t5 y6 h7 => ?_)
    split
    · exact State.hold_keeps h7
    · split
      · rename_i z13 z14 z15 z16 z17
        have h20 : Keeps s₀ z16 := Keeps.snd_eq (State.takeFor_keeps h7 (fun t18 h19 => State.takeLocket_keeps h19)) z17
        exact State.syncLent_keeps (State.dpaWrite_keeps (State.putSlot_keeps h20))
      · rename_i z21 z22 z23 z24 z25
        have h28 : Keeps s₀ z24 := Keeps.snd_eq (State.takeFor_keeps h7 (fun t26 h27 => State.takeLocket_keeps h27)) z25
        exact h28
      · exact h7

theorem State.needTile_keeps {s₀ s : State} {rid w id i} (h : Keeps s₀ s) :
    Keeps s₀ (State.needTile rid w id i s).2 := by
  unfold State.needTile
  split
  · exact h
  · rename_i z2 z3 z4
    extract_lets x5 x6 x7 x8 x9
    have h10 : Keeps s₀ x8 := State.accessed_keeps h
    refine Keeps.ite_at (fun (p : Need × State) => p.2) ?_ ?_
    · exact h
    · refine Keeps.ite_at (fun (p : Need × State) => p.2) ?_ ?_
      · exact h
      · refine Keeps.ite_at (fun (p : Need × State) => p.2) ?_ ?_
        · exact h
        · split
          · extract_lets x15
            have h16 : Keeps s₀ x15 := State.setCk_keeps h
            dsimp only
            split
            · exact State.hold_keeps h16
            · exact h16
          · split
            · dsimp only
              exact State.keepLocal_keeps (State.hold_keeps h)
            · refine Keeps.ite_at (fun (p : Need × State) => p.2) ?_ ?_
              · exact h
              · split
                · rename_i z29 z30 z31 z32 z33
                  have h34 : Keeps s₀ z32 := Keeps.snd_eq (State.takeTile_keeps h10) z33
                  extract_lets x35 x36
                  have h37 : Keeps s₀ x35 := State.putSlot_keeps h34
                  dsimp only
                  exact State.setCk_keeps h37
                · rename_i z38 z39 z40 z41
                  have h42 : Keeps s₀ z40 := Keeps.snd_eq (State.takeTile_keeps h10) z41
                  extract_lets x43
                  dsimp only
                  exact State.setCk_keeps h42
                · rename_i z44 z45 z46 z47
                  have h48 : Keeps s₀ z46 := Keeps.snd_eq (State.takeTile_keeps h10) z47
                  exact h48

theorem State.needObj_keeps {s₀ s : State} {rid w id} (h : Keeps s₀ s) :
    Keeps s₀ (State.needObj rid w id s).2 := by
  unfold State.needObj
  split
  · exact h
  · refine Keeps.foldl_snd h (fun x0 x1 h2 => ?_)
    split
    · exact h2
    · exact State.needTile_keeps h2
    · split
      · rename_i z3 z4 z5
        have h6 := Keeps.snd_eq (State.needTile_keeps h2) z5
        exact h6
      · rename_i z7 z8
        exact State.needTile_keeps h2

theorem State.crossed_keeps {s₀ s : State} {from_ q n} (h : Keeps s₀ s) :
    Keeps s₀ (State.crossed from_ q n s) := by
  unfold State.crossed
  exact Keeps.ite h (State.inc64_keeps h)

theorem State.countWrite_keeps {s₀ s : State} {a n} (h : Keeps s₀ s) :
    Keeps s₀ (State.countWrite a n s) := by
  unfold State.countWrite
  exact Keeps.ite (State.inc64_keeps h) (Keeps.ite (State.inc64_keeps h) h)

theorem State.countRead_keeps {s₀ s : State} {a n} (h : Keeps s₀ s) :
    Keeps s₀ (State.countRead a n s) := by
  unfold State.countRead
  exact Keeps.ite (State.inc64_keeps h) (Keeps.ite (State.inc64_keeps h) h)

theorem State.hbmTouch_keeps {s₀ s : State} {a} (h : Keeps s₀ s) :
    Keeps s₀ (State.hbmTouch a s) := by
  unfold State.hbmTouch
  extract_lets x0 x1
  exact Keeps.ite (Keeps.same h rfl rfl rfl rfl rfl rfl) h

theorem State.store_keeps {s₀ s : State} {a l} (h : Keeps s₀ s) :
    Keeps s₀ (State.store a l s) := by
  unfold State.store
  exact State.countWrite_keeps (State.dpaWrite_keeps (State.hbmTouch_keeps h))

theorem State.storeFrom_keeps {s₀ s : State} {q a l} (h : Keeps s₀ s) :
    Keeps s₀ (State.storeFrom q a l s) := by
  unfold State.storeFrom
  extract_lets x0
  have h1 : Keeps s₀ x0 := State.store_keeps h
  exact Keeps.ite (State.crossed_keeps h1) h1

theorem State.readTo_keeps {s₀ s : State} {q a n} (h : Keeps s₀ s) :
    Keeps s₀ (State.readTo q a n s) := by
  unfold State.readTo
  extract_lets x0
  have h1 : Keeps s₀ x0 := State.countRead_keeps h
  exact Keeps.ite (State.crossed_keeps h1) h1

theorem State.throughPort_keeps {s₀ s : State} {q a n out} (h : Keeps s₀ s) :
    Keeps s₀ (State.throughPort q a n out s) := by
  unfold State.throughPort
  extract_lets x0 x1
  have h2 : Keeps s₀ x1 := State.countRead_keeps (State.countWrite_keeps h)
  exact Keeps.ite h (Keeps.ite h2 (Keeps.ite (State.crossed_keeps h2) (State.crossed_keeps h2)))

theorem State.dropOtherCopies_keeps {s₀ s : State} {w id i a} (h : Keeps s₀ s) :
    Keeps s₀ (State.dropOtherCopies w id i a s) := by
  unfold State.dropOtherCopies
  extract_lets x0 x1 x2 x3
  have h12 : Keeps s₀ x2 := by
    unfold x2
    refine Keeps.foldl h (fun t4 y5 h6 => ?_)
    split
    · exact Keeps.ite (State.storeFrom_keeps h6) (State.dropSlot_keeps h6)
    · exact h6
  exact State.setCk_keeps h12

theorem State.moveCopy_keeps {s₀ s : State} {a quad} (h : Keeps s₀ s) :
    Keeps s₀ (State.moveCopy a quad s).2 := by
  unfold State.moveCopy
  split
  · refine Keeps.ite_at (fun (p : Nat × State) => p.2) ?_ ?_
    · split
      · dsimp only
        exact State.putSlot_keeps (State.eraseSlot_keeps h)
      · exact h
    · exact h
  · exact h

theorem State.outSlot_keeps {s₀ s : State} {rid w id i quad} (h : Keeps s₀ s) :
    Keeps s₀ (State.outSlot rid w id i quad s).2 := by
  unfold State.outSlot
  split
  · exact h
  · rename_i z2 z3 z4
    extract_lets x5
    split
    · split
      · rename_i z9 z10 z11 z12
        have h13 : Keeps s₀ z11 := Keeps.snd_eq (State.moveCopy_keeps h) z12
        dsimp only
        exact State.hold_keeps h13
    · split
      · rename_i z16 z17 z18 z19 z20
        have h23 : Keeps s₀ z19 := Keeps.snd_eq (State.takeFor_keeps h (fun t21 h22 => State.takeTile_keeps h22)) z20
        dsimp only
        exact State.putSlot_keeps h23
      · exact State.takeFor_keeps h (fun t26 h27 => State.takeTile_keeps h27)

theorem State.supersede_keeps {s₀ s : State} {w id i} (h : Keeps s₀ s) :
    Keeps s₀ (State.supersede w id i s) := by
  unfold State.supersede
  extract_lets x0
  exact State.setCk_keeps h

theorem State.putTileIn_keeps {s₀ s : State} {quad rid w id i format layout dim0 dim1 pitch flags aux payload} (h : Keeps s₀ s) :
    Keeps s₀ (State.putTileIn quad rid w id i format layout dim0 dim1 pitch flags aux payload s).2 := by
  unfold State.putTileIn
  split
  · exact h
  · rename_i z2 z3 z4
    extract_lets x5 x6
    refine Keeps.ite_at (fun (p : Need × State) => p.2) ?_ ?_
    · exact h
    · refine Keeps.ite_at (fun (p : Need × State) => p.2) ?_ ?_
      · exact h
      · split
        · rename_i z7 z8 z9 z10 z11
          have h12 : Keeps s₀ z10 := Keeps.snd_eq (State.outSlot_keeps h) z11
          extract_lets x13 x14
          have h15 : Keeps s₀ x13 := State.dropOtherCopies_keeps (State.store_keeps (State.supersede_keeps h12))
          have h16 : Keeps s₀ x14 := Keeps.ite (State.crossed_keeps h15) h15
          dsimp only
          exact State.started_keeps (State.modSlot_keeps h16)
        · rename_i z17 z18 z19 z20 z21
          have h22 : Keeps s₀ z20 := Keeps.snd_eq (State.outSlot_keeps h) z21
          exact h22
        · rename_i z23 z24 z25 z26
          have h27 : Keeps s₀ z25 := Keeps.snd_eq (State.outSlot_keeps h) z26
          exact h27

theorem State.putTile_keeps {s₀ s : State} {rid w id i format layout dim0 dim1 pitch flags aux payload} (h : Keeps s₀ s) :
    Keeps s₀ (State.putTile rid w id i format layout dim0 dim1 pitch flags aux payload s).2 := by
  unfold State.putTile
  exact State.putTileIn_keeps h

theorem State.releaseHolds_keeps {s₀ s : State} {rid} (h : Keeps s₀ s) :
    Keeps s₀ (State.releaseHolds rid s) := by
  unfold State.releaseHolds
  extract_lets x0
  exact State.setCk_keeps h

theorem State.leaveFetches_keeps {s₀ s : State} {rid} (h : Keeps s₀ s) :
    Keeps s₀ (State.leaveFetches rid s) := by
  unfold State.leaveFetches
  extract_lets x0
  exact State.setCk_keeps h

theorem State.releaseObj_keeps {s₀ s : State} {w id} (h : Keeps s₀ s) :
    Keeps s₀ (State.releaseObj w id s) := by
  unfold State.releaseObj
  extract_lets x0 x1 x2
  have h3 : Keeps s₀ x1 := Keeps.foldl h (fun t4 x5 h6 => State.dropSlot_keeps h6)
  exact State.setCk_keeps h3

end Sys2Proof.Machine
end

