-- ==== Sys2Proof/Laws/KeepsLinks.lean ====
section
/-! SUPPORT. Every operation of `Machine/Links` keeps the part, the tick, the queue and the canonical forms (`Keeps`). -/

namespace Sys2Proof.Machine

theorem State.setLnk_keeps {s₀ s : State} {l k} (h : Keeps s₀ s) :
    Keeps s₀ (State.setLnk l k s) := by
  unfold State.setLnk
  exact Keeps.same h rfl rfl rfl rfl rfl rfl

theorem State.setGuest_keeps {s₀ s : State} {g} (h : Keeps s₀ s) :
    Keeps s₀ (State.setGuest g s) := by
  unfold State.setGuest
  exact Keeps.same h rfl rfl rfl rfl rfl rfl

theorem State.wire_keeps {s₀ s : State} {l p seq} (h : Keeps s₀ s) :
    Keeps s₀ (State.wire l p seq s) := by
  unfold State.wire
  exact State.emit_keeps (State.wr_keeps h)

theorem State.send_keeps {s₀ s : State} {l p} (h : Keeps s₀ s) : Keeps s₀ (State.send l p s) := by
  unfold State.send
  exact State.wire_keeps (State.inc64_keeps (State.setLnk_keeps h))

theorem State.sendLinkFrame_keeps {s₀ s : State} {l p} (h : Keeps s₀ s) :
    Keeps s₀ (State.sendLinkFrame l p s) := by
  unfold State.sendLinkFrame
  extract_lets x0
  exact Keeps.ite (State.send_keeps h) (State.setLnk_keeps h)

theorem State.sendAnswer_keeps {s₀ s : State} {l p} (h : Keeps s₀ s) :
    Keeps s₀ (State.sendAnswer l p s) := by
  unfold State.sendAnswer
  exact Keeps.ite (State.wire_keeps h) (State.sendLinkFrame_keeps h)

theorem State.sendWaitingFrames_keeps {s₀ s : State} {l n} (h : Keeps s₀ s) : Keeps s₀ (State.sendWaitingFrames l n s) := by
  induction n generalizing s with
  | zero => exact h
  | succ n ih =>
    unfold State.sendWaitingFrames
    split
    · exact h
    · exact Keeps.ite (ih (State.send_keeps (State.setLnk_keeps h))) h

theorem State.issued_keeps {s₀ s : State} {p} (h : Keeps s₀ s) :
    Keeps s₀ (State.issued p s) := by
  unfold State.issued
  split
  · extract_lets x2
    exact State.setGuest_keeps h
  · extract_lets x8
    exact State.setLnk_keeps h
  · exact h

theorem State.spend_keeps {s₀ s : State} {p} (h : Keeps s₀ s) :
    Keeps s₀ (State.spend p s) := by
  unfold State.spend
  extract_lets x0
  exact State.issued_keeps (State.send_keeps (State.setGuest_keeps h))

theorem State.trySend_keeps {s₀ s : State} {p} (h : Keeps s₀ s) :
    Keeps s₀ (State.trySend p s) := by
  unfold State.trySend
  exact Keeps.ite (State.setGuest_keeps h) (State.spend_keeps h)

theorem State.sendWaiting_keeps {s₀ s : State} (h : Keeps s₀ s) :
    Keeps s₀ (State.sendWaiting s) := by
  unfold State.sendWaiting
  exact Keeps.foldl (State.setGuest_keeps h) (fun t0 x1 h2 => State.trySend_keeps h2)

theorem State.takeCredits_keeps {s₀ s : State} {isCpl payload} (h : Keeps s₀ s) :
    Keeps s₀ (State.takeCredits isCpl payload s) := by
  unfold State.takeCredits
  extract_lets x0 x1 x2
  exact State.setGuest_keeps h

theorem State.returnCredits_keeps {s₀ s : State} (h : Keeps s₀ s) :
    Keeps s₀ (State.returnCredits s) := by
  unfold State.returnCredits
  extract_lets x0 x1
  exact Keeps.ite h (State.wire_keeps (State.setGuest_keeps h))

end Sys2Proof.Machine
end

