-- ==== Sys2Proof/Laws/KeepsRequests.lean ====
section
/-! SUPPORT. Every operation of `Machine/Requests` keeps the part, the tick, the queue and the canonical forms (`Keeps`), and every command
there answers a next state. -/

namespace Sys2Proof.Machine

theorem State.setSch_keeps {s₀ s : State} {c} (h : Keeps s₀ s) :
    Keeps s₀ (State.setSch s c) := by
  unfold State.setSch
  exact Keeps.same h rfl rfl rfl rfl rfl rfl

theorem State.modReq_keeps {s₀ s : State} {rid f} (h : Keeps s₀ s) :
    Keeps s₀ (State.modReq rid f s) := by
  unfold State.modReq
  extract_lets x0
  exact State.setSch_keeps h

theorem State.cplIrq_keeps {s₀ s : State} {w} (h : Keeps s₀ s) :
    Keeps s₀ (State.cplIrq w s) := by
  unfold State.cplIrq
  extract_lets x0 x1 x2 x3
  have h4 : Keeps s₀ x2 := State.wsIrq_keeps h
  split
  · exact State.setSch_keeps h
  · exact Keeps.ite h4 (State.setSch_keeps h4)

theorem State.writeRecord_keeps {s₀ s : State} {w irq r} (h : Keeps s₀ s) :
    Keeps s₀ (State.writeRecord w irq r s) := by
  unfold State.writeRecord
  extract_lets x0 x1 x2 x3 x4 x5 x6 x7
  have h8 : Keeps s₀ x3 := Keeps.ite (State.storeFrom_keeps h) (State.setW1c_keeps h)
  have h9 : Keeps s₀ x5 := Keeps.ite (Keeps.ite (State.hostWrite_keeps h8) (State.wr_keeps (State.setSch_keeps h8))) (Keeps.ite (State.storeFrom_keeps h) h)
  have h10 : Keeps s₀ x6 := State.wr_keeps h9
  have h11 : Keeps s₀ x7 := State.raiseIrq_keeps h10
  exact Keeps.ite (State.cplIrq_keeps h11) h11

theorem State.countOutcome_keeps {s₀ s : State} {cls outcome} (h : Keeps s₀ s) :
    Keeps s₀ (State.countOutcome cls outcome s) := by
  unfold State.countOutcome
  extract_lets x0 x1 x2 x3
  have h4 : Keeps s₀ x0 := Keeps.ite (State.inc_keeps h) h
  have h5 : Keeps s₀ x1 := Keeps.ite (State.inc_keeps h4) h4
  have h6 : Keeps s₀ x2 := Keeps.ite (State.inc_keeps h5) h5
  have h7 : Keeps s₀ x3 := Keeps.ite (State.inc_keeps h6) h6
  exact Keeps.ite (State.inc_keeps h7) h7

theorem State.finalRecord_keeps {s₀ s : State} {r outcome cause} (h : Keeps s₀ s) :
    Keeps s₀ (State.finalRecord r outcome cause s) := by
  unfold State.finalRecord
  exact State.countOutcome_keeps (State.writeRecord_keeps h)

theorem State.settle_keeps {s₀ s : State} {page busy} (h : Keeps s₀ s) :
    Keeps s₀ (State.settle page busy s) := by
  unfold State.settle
  refine Keeps.ite h ?_
  split
  · exact State.goto_keeps h
  · exact State.goto_keeps h
  · exact h

theorem State.guestCancel_keeps {s₀ s : State} {rid} (h : Keeps s₀ s) :
    Keeps s₀ (State.guestCancel rid s) := by
  unfold State.guestCancel
  split
  · exact h
  · exact State.trySend_keeps (State.setGuest_keeps h)

theorem State.bindPort_keeps {s₀ s : State} {p next} (h : Keeps s₀ s) :
    Keeps s₀ (State.bindPort p next s) := by
  unfold State.bindPort
  extract_lets x0 x1
  have h2 : Keeps s₀ x1 := State.setSch_keeps h
  split
  · exact State.wr_keeps (State.wr_keeps (State.wr_keeps (State.wr_keeps h2)))

theorem State.turnPorts_keeps {s₀ s : State} {ports} (h : Keeps s₀ s) : Keeps s₀ (State.turnPorts ports s) :=
  Keeps.foldl h (fun _ _ ht => State.bindPort_keeps ht)

theorem State.unreserve_keeps {s₀ s : State} {w} (h : Keeps s₀ s) :
    Keeps s₀ (State.unreserve w s) := by
  unfold State.unreserve
  extract_lets x0 x1
  exact State.setSch_keeps h

theorem State.reserve_keeps {s₀ s : State} {w} (h : Keeps s₀ s) :
    Keeps s₀ (State.reserve w s) := by
  unfold State.reserve
  extract_lets x0 x1
  exact State.setSch_keeps h

theorem State.reshardAbort_keeps {s₀ s : State} {rid} (h : Keeps s₀ s) :
    Keeps s₀ (State.reshardAbort rid s) := by
  unfold State.reshardAbort
  extract_lets x0 x1 x2 x3
  have h12 : Keeps s₀ x2 := by
    unfold x2
    refine Keeps.foldl h (fun t4 y5 h6 => ?_)
    split
    · exact h6
    · exact State.modSlot_keeps (State.store_keeps h6)
  exact State.setCk_keeps h12

theorem State.unpin_keeps {s₀ s : State} {l} (h : Keeps s₀ s) :
    Keeps s₀ (State.unpin l s) := by
  unfold State.unpin
  refine Keeps.foldl h (fun t0 x1 h2 => ?_)
  split
  · exact h2
  · exact Keeps.ite (State.modSlot_keeps h2) (State.dropSlot_keeps h2)

theorem State.releaseOldPins_keeps {s₀ s : State} {rid} (h : Keeps s₀ s) :
    Keeps s₀ (State.releaseOldPins rid s) := by
  unfold State.releaseOldPins
  extract_lets x0 x1 x2
  have h3 : Keeps s₀ x1 := Keeps.foldl h (fun t4 x5 h6 => State.unpin_keeps h6)
  exact State.setSch_keeps h3

theorem State.dropLoad_keeps {s₀ s : State} {r} (h : Keeps s₀ s) :
    Keeps s₀ (State.dropLoad r s) := by
  unfold State.dropLoad
  split
  · extract_lets x3 x4 x5
    have h6 : Keeps s₀ x4 := State.unpin_keeps h
    refine Keeps.ite ?_ h
    refine Keeps.ite (State.setSch_keeps h6) ?_
    refine Keeps.ite (State.setSch_keeps h6) ?_
    split
    · exact State.unpin_keeps h6
    · exact h6
  · exact h

theorem State.dropTxns_keeps {s₀ s : State} {rid} (h : Keeps s₀ s) :
    Keeps s₀ (State.dropTxns rid s) := by
  unfold State.dropTxns
  exact Keeps.ite (Keeps.same h rfl rfl rfl rfl rfl rfl) h

theorem State.dropRows_keeps {s₀ s : State} {rid} (h : Keeps s₀ s) :
    Keeps s₀ (State.dropRows rid s) := by
  unfold State.dropRows
  extract_lets x0 x1
  exact Keeps.same h rfl rfl rfl rfl rfl rfl

theorem State.stopScans_keeps {s₀ s : State} (h : Keeps s₀ s) :
    Keeps s₀ (State.stopScans s) := by
  unfold State.stopScans
  extract_lets x0
  exact Keeps.same h rfl rfl rfl rfl rfl rfl

theorem State.dropQueries_keeps {s₀ s : State} {rid} (h : Keeps s₀ s) :
    Keeps s₀ (State.dropQueries rid s) := by
  unfold State.dropQueries
  extract_lets x0 x1
  exact Keeps.same h rfl rfl rfl rfl rfl rfl

theorem State.dropScratch_keeps {s₀ s : State} {rid} (h : Keeps s₀ s) :
    Keeps s₀ (State.dropScratch rid s) := by
  unfold State.dropScratch
  exact Keeps.foldl h (fun t0 x1 h2 => State.dropSlot_keeps h2)

theorem State.leaveT1_keeps {s₀ s : State} {rid w which} (h : Keeps s₀ s) :
    Keeps s₀ (State.leaveT1 rid w which s) := by
  unfold State.leaveT1
  refine Keeps.ite h ?_
  refine Keeps.foldl h (fun t0 y1 h2 => ?_)
  split
  · exact Keeps.ite (State.evict_keeps h2) (State.dropSlot_keeps h2)
  · exact h2

theorem State.dropUnused_keeps {s₀ s : State} {rid w} (h : Keeps s₀ s) :
    Keeps s₀ (State.dropUnused rid w s) := by
  unfold State.dropUnused
  refine Keeps.ite h ?_
  refine Keeps.foldl h (fun t0 y1 h2 => ?_)
  split
  · exact Keeps.ite (State.evict_keeps h2) (State.dropSlot_keeps h2)
  · exact h2

theorem State.letGo_keeps {s₀ s : State} {rid w id tiles} (h : Keeps s₀ s) :
    Keeps s₀ (State.letGo rid w id tiles s) := by
  unfold State.letGo
  extract_lets x0 x1 x2 x3
  have h4 : Keeps s₀ x1 := State.leaveT1_keeps h
  have h5 : Keeps s₀ x3 := State.setCk_keeps h4
  exact State.trimPools_keeps (State.modReq_keeps h5)

theorem State.dropReq_keeps {s₀ s : State} {rid r} (h : Keeps s₀ s) :
    Keeps s₀ (State.dropReq rid r s) := by
  unfold State.dropReq
  extract_lets x0 x1 x2 x3 x4
  have h5 : Keeps s₀ x0 := State.dropTxns_keeps (State.leaveFetches_keeps (State.releaseHolds_keeps (State.dropUnused_keeps (State.dropScratch_keeps (State.dropQueries_keeps (State.dropRows_keeps (State.reshardAbort_keeps h)))))))
  have h6 : Keeps s₀ x2 := State.unreserve_keeps (State.turnPorts_keeps (State.setSch_keeps h5))
  have h7 : Keeps s₀ x3 := State.trimPools_keeps (State.releaseOldPins_keeps h6)
  have h11 : Keeps s₀ x4 := Keeps.foldl h7 (fun t8 y9 h10 => State.settle_keeps h10)
  exact State.settle_keeps h11

theorem State.finishFrees_keeps {s₀ s : State} {ids} (h : Keeps s₀ s) :
    Keeps s₀ (State.finishFrees ids s) := by
  unfold State.finishFrees
  refine Keeps.foldl h (fun t0 x1 h2 => ?_)
  split
  · exact h2
  · split
    · exact h2
    · extract_lets x3
      have h4 : Keeps s₀ x3 := State.releaseObj_keeps h2
      refine Keeps.ite h2 ?_
      split
      · exact h4
      · exact State.finalRecord_keeps (State.dropReq_keeps h4)

theorem State.iseEnded_keeps {s₀ s : State} {r outcome cause} (h : Keeps s₀ s) :
    Keeps s₀ (State.iseEnded r outcome cause s) := by
  unfold State.iseEnded
  refine Keeps.foldl h (fun t0 x1 h2 => ?_)
  extract_lets x3 x4
  have h5 : Keeps s₀ x3 := State.wr_keeps h2
  have h6 : Keeps s₀ x4 := Keeps.ite (State.inc_keeps h5) h5
  exact Keeps.ite (Keeps.ite (State.inc_keeps h6) h6) h2

theorem State.endAs_keeps {s₀ s : State} {rid e} (h : Keeps s₀ s) :
    Keeps s₀ (State.endAs rid e s) := by
  unfold State.endAs
  exact State.modReq_keeps h

theorem State.endFor_keeps {s₀ s : State} {rep rid outcome cause} (h : Keeps s₀ s) :
    Keeps s₀ (State.endFor rep rid outcome cause s) := by
  unfold State.endFor
  exact State.endAs_keeps h

theorem State.reportEnds_keeps {s₀ s : State} {rep r} (h : Keeps s₀ s) :
    Keeps s₀ (State.reportEnds rep r s) := by
  unfold State.reportEnds
  split
  · exact h
  · split
    · exact h
    · extract_lets x8
      exact Keeps.same h rfl rfl rfl rfl rfl rfl

theorem State.finish_keeps {s₀ s : State} {rid} (h : Keeps s₀ s) :
    Keeps s₀ (State.finish rid s) := by
  unfold State.finish
  split
  · exact h
  · split
    · exact h
    · extract_lets x10 x11 x12 x13 x14
      have h15 : Keeps s₀ x10 := State.guestCancel_keeps h
      have h16 : Keeps s₀ x11 := State.dropReq_keeps (State.dropLoad_keeps h15)
      have h17 : Keeps s₀ x12 := State.countOutcome_keeps (State.writeRecord_keeps h16)
      have h18 : Keeps s₀ x13 := State.iseEnded_keeps h17
      have h22 : Keeps s₀ x14 := Keeps.foldl h18 (fun t19 y20 h21 => State.fire_keeps h21)
      exact State.finishFrees_keeps (State.reportEnds_keeps h22)

theorem State.finishAll_keeps {s₀ s : State} (h : Keeps s₀ s) :
    Keeps s₀ (State.finishAll s) := by
  unfold State.finishAll
  exact Keeps.foldl h (fun t0 y1 h2 => State.finish_keeps h2)

theorem State.endReq_keeps {s₀ s : State} {rid outcome cause} (h : Keeps s₀ s) :
    Keeps s₀ (State.endReq rid outcome cause s) := by
  unfold State.endReq
  exact State.endFor_keeps h

theorem State.endWhere_keeps {s₀ s : State} {rep p outcome cause} (h : Keeps s₀ s) :
    Keeps s₀ (State.endWhere rep p outcome cause s) := by
  unfold State.endWhere
  exact Keeps.foldl h (fun t0 x1 h2 => State.endFor_keeps h2)

theorem State.vacate_keeps {s₀ s : State} {a} (h : Keeps s₀ s) :
    Keeps s₀ (State.vacate a s) := by
  unfold State.vacate
  split
  · exact h
  · exact Keeps.ite (State.modSlot_keeps h) (State.dropSlot_keeps h)

theorem State.markLate_keeps {s₀ s : State} {f} (h : Keeps s₀ s) :
    Keeps s₀ (State.markLate f s) := by
  unfold State.markLate
  exact Keeps.foldl h (fun t0 y1 h2 => State.modReq_keeps h2)

theorem State.endFetch_keeps {s₀ s : State} {fid keepSlot} (h : Keeps s₀ s) :
    Keeps s₀ (State.endFetch fid keepSlot s) := by
  unfold State.endFetch
  extract_lets x0 x1
  have h2 : Keeps s₀ x1 := State.setCk_keeps h
  split
  · exact h
  · refine Keeps.ite (State.markLate_keeps h2) ?_
    split
    · exact h2
    · exact State.vacate_keeps h2

theorem State.endWait_keeps {s₀ s : State} {f rep outcome w} (h : Keeps s₀ s) :
    Keeps s₀ (State.endWait f rep outcome w s) := by
  unfold State.endWait
  extract_lets x0 x1
  have h2 : Keeps s₀ x1 := State.endFor_keeps h
  exact Keeps.ite (State.endReq_keeps h2) h2

theorem State.failCheck_keeps {s₀ s : State} {fid outcome rep} (h : Keeps s₀ s) :
    Keeps s₀ (State.failCheck fid outcome rep s) := by
  unfold State.failCheck
  split
  · exact h
  · exact Keeps.foldl (State.endFetch_keeps h) (fun t5 y6 h7 => State.endWait_keeps h7)

theorem State.failFetch_keeps {s₀ s : State} {fid outcome rep} (h : Keeps s₀ s) :
    Keeps s₀ (State.failFetch fid outcome rep s) := by
  unfold State.failFetch
  split
  · exact h
  · extract_lets x5
    have h6 : Keeps s₀ x5 := State.endFetch_keeps h
    refine Keeps.foldl h6 (fun t7 y8 h9 => ?_)
    split
    · exact State.modReq_keeps h9
    · exact State.endWait_keeps h9

theorem State.guestFetchesFail_keeps {s₀ s : State} (h : Keeps s₀ s) :
    Keeps s₀ (State.guestFetchesFail s) := by
  unfold State.guestFetchesFail
  exact Keeps.foldl (State.endWhere_keeps h) (fun t0 y1 h2 => State.failFetch_keeps h2)

theorem State.needThen_keeps {s₀ : State} {s} {rid go} (h : Keeps s₀ s.2)
    (hgo : ∀ y1, Keeps s₀ y1 → Keeps s₀ (go y1)) :
    Keeps s₀ (State.needThen rid s go) := by
  unfold State.needThen
  split
  · rename_i z0 z1
    exact hgo _ h
  · rename_i z2 z3
    exact h
  · rename_i z4 z5 z6 z7
    exact State.endReq_keeps h

end Sys2Proof.Machine
end

