-- ==== Sys2Proof/Laws/KeepsReaction.lean ====
section
/-! SUPPORT. Every operation of `Machine/Reaction` keeps the part, the tick, the queue and the canonical forms (`Keeps`), and every command
there answers a next state. -/

namespace Sys2Proof.Machine

theorem State.corrected_keeps {s₀ s : State} {page} (h : Keeps s₀ s) :
    Keeps s₀ (State.corrected page s) := by
  unfold State.corrected
  exact State.raiseIrq_keeps (State.inc_keeps h)

theorem State.recordWords_keeps {s₀ s : State} {mech ws addr} (h : Keeps s₀ s) :
    Keeps s₀ (State.recordWords mech ws addr s).2 := by
  unfold State.recordWords
  split
  · rename_i z0 z1 z2 z3
    have h4 := Keeps.snd_eq (by
        split
        · exact h
        · exact State.freeBits_keeps h
      ) z3
    split
    · rename_i z5 z6 z7 z8
      have h9 := Keeps.snd_eq (by
          split
          · exact State.freeBits_keeps h4
          · exact h4
        ) z8
      exact h9

theorem State.errRec_keeps {s₀ s : State} {page ws} (h : Keeps s₀ s) :
    Keeps s₀ (State.errRec page ws s) := by
  unfold State.errRec
  exact Keeps.foldl h (fun t0 y1 h2 => State.wr_keeps h2)

theorem State.capture_keeps {s₀ s : State} {mech cls page sub c d} (h : Keeps s₀ s) :
    Keeps s₀ (State.capture mech cls page sub c d s) := by
  unfold State.capture
  extract_lets x0 x1 x2 x3
  have h4 : Keeps s₀ x0 := State.inc_keeps h
  have h5 : Keeps s₀ x3 := Keeps.ite (Keeps.ite h4 (Keeps.same h4 rfl rfl rfl rfl rfl rfl)) (State.errRec_keeps h4)
  exact State.raiseIrq_keeps h5

theorem State.recapture_keeps {s₀ s : State} {page v} (h : Keeps s₀ s) :
    Keeps s₀ (State.recapture page v s) := by
  unfold State.recapture
  extract_lets x0
  split
  · exact h
  · exact State.errRec_keeps (Keeps.same h rfl rfl rfl rfl rfl rfl)

theorem State.showReport_keeps {s₀ s : State} {f ws} (h : Keeps s₀ s) :
    Keeps s₀ (State.showReport f ws s) := by
  unfold State.showReport
  exact Keeps.foldl h (fun t0 x1 h2 => State.wr_keeps h2)

theorem State.syncPin_keeps {s₀ s : State} (h : Keeps s₀ s) :
    Keeps s₀ (State.syncPin s) := by
  unfold State.syncPin
  exact State.wr_keeps h

theorem State.endAll_keeps {s₀ s : State} {rep} (h : Keeps s₀ s) :
    Keeps s₀ (State.endAll rep s) := by
  unfold State.endAll
  exact State.endWhere_keeps h

theorem State.devFault_keeps {s₀ s : State} {mech seq} (h : Keeps s₀ s) :
    Keeps s₀ (State.devFault mech seq s) := by
  unfold State.devFault
  extract_lets x0 x1
  have h2 : Keeps s₀ x0 := State.goto_keeps h
  have h3 : Keeps s₀ x1 := State.wr_keeps (State.wr_keeps h2)
  exact Keeps.ite h (State.syncPin_keeps h3)

theorem State.markConcurrent_keeps {s₀ s : State} (h : Keeps s₀ s) :
    Keeps s₀ (State.markConcurrent s) := by
  unfold State.markConcurrent
  extract_lets x0
  exact Keeps.same h rfl rfl rfl rfl rfl rfl

theorem State.setFlt_keeps {s₀ s : State} {f} (h : Keeps s₀ s) :
    Keeps s₀ (State.setFlt s f) := by
  unfold State.setFlt
  exact Keeps.same h rfl rfl rfl rfl rfl rfl

theorem State.openReport_keeps {s₀ s : State} {mech cls page sub ws c d detail} (h : Keeps s₀ s) :
    Keeps s₀ (State.openReport mech cls page sub ws c d detail s).2 := by
  unfold State.openReport
  extract_lets x0 x1 x2 x3 x4 x5 x6 x7 x8 x9 x10 x11 x12 x13 x14 x15
  have h16 : Keeps s₀ x0 := State.inc_keeps h
  have h17 : Keeps s₀ x3 := Keeps.ite (State.markConcurrent_keeps h16) h16
  have h18 : Keeps s₀ x7 := State.setFlt_keeps h17
  have h19 : Keeps s₀ x8 := Keeps.ite (State.inc_keeps h18) (Keeps.ite (State.inc_keeps h18) (State.inc_keeps h18))
  have h20 : Keeps s₀ x9 := State.showReport_keeps h19
  have h21 : Keeps s₀ x11 := Keeps.ite h20 (State.showReport_keeps (State.setFlt_keeps h20))
  have h22 : Keeps s₀ x12 := State.raiseIrq_keeps h21
  have h23 : Keeps s₀ x13 := State.fire_keeps h22
  have h24 : Keeps s₀ x15 := Keeps.ite (State.setFlt_keeps h23) h23
  dsimp only
  exact State.syncPin_keeps h24

theorem State.modReport_keeps {s₀ s : State} {q f} (h : Keeps s₀ s) :
    Keeps s₀ (State.modReport q f s) := by
  unfold State.modReport
  extract_lets x0
  exact Keeps.same h rfl rfl rfl rfl rfl rfl

theorem State.guestFree_keeps {s₀ s : State} {page} (h : Keeps s₀ s) :
    Keeps s₀ (State.guestFree page s) := by
  unfold State.guestFree
  extract_lets x0
  exact Keeps.ite (State.guestFetchesFail_keeps (State.setGuest_keeps h)) h

theorem State.fence_keeps {s₀ s : State} {page cause outcome rep} (h : Keeps s₀ s) :
    Keeps s₀ (State.fence page cause outcome rep s) := by
  unfold State.fence
  extract_lets x0 x1 x2 x3 x4 x5
  have h6 : Keeps s₀ x1 := State.goto_keeps h
  have h7 : Keeps s₀ x3 := State.setBlk_keeps h6
  have h8 : Keeps s₀ x4 := Keeps.ite (State.wr_keeps h7) h7
  have h9 : Keeps s₀ x5 := State.endWhere_keeps h8
  exact Keeps.ite (State.syncLent_keeps (State.guestFree_keeps h9)) h

theorem State.faultBlock_keeps {s₀ s : State} {page isLocal rep} (h : Keeps s₀ s) :
    Keeps s₀ (State.faultBlock page isLocal rep s) := by
  unfold State.faultBlock
  extract_lets x0 x1 x2 x3
  have h4 : Keeps s₀ x0 := State.goto_keeps h
  have h5 : Keeps s₀ x2 := State.setBlk_keeps h4
  have h6 : Keeps s₀ x3 := State.endWhere_keeps h5
  exact Keeps.ite h (State.syncLent_keeps (State.guestFree_keeps h6))

theorem State.repeatRule_keeps {s₀ s : State} {page q} (h : Keeps s₀ s) :
    Keeps s₀ (State.repeatRule page q s) := by
  unfold State.repeatRule
  extract_lets x0 x1 x2 x3 x4
  have h5 : Keeps s₀ x3 := Keeps.same h rfl rfl rfl rfl rfl rfl
  exact Keeps.ite (Keeps.ite (State.fence_keeps (State.modReport_keeps h5)) h5) h

theorem State.detectThen_keeps {s₀ s : State} {mech cls page sub ws addr ends} (h : Keeps s₀ s)
    (hends : ∀ y1 y2, Keeps s₀ y2 → Keeps s₀ (ends y1 y2)) :
    Keeps s₀ (State.detectThen mech cls page sub ws addr ends s).2 := by
  unfold State.detectThen
  split
  · rename_i z0 z1 z2 z3 z4
    have h5 : Keeps s₀ z3 := Keeps.snd_eq (State.recordWords_keeps h) z4
    extract_lets x6
    have h7 : Keeps s₀ x6 := State.capture_keeps h5
    split
    · extract_lets x11
      have h12 : Keeps s₀ x11 := hends _ _ (State.modReport_keeps h7)
      dsimp only
      exact Keeps.ite (State.devFault_keeps h12) h12
    · split
      · rename_i z15 z16 z17 z18
        have h19 : Keeps s₀ z17 := Keeps.snd_eq (State.openReport_keeps h7) z18
        extract_lets x20 x21 x22
        have h23 : Keeps s₀ x20 := hends _ _ h19
        have h24 : Keeps s₀ x21 := Keeps.ite (State.repeatRule_keeps h23) h23
        have h25 : Keeps s₀ x22 := Keeps.ite (State.devFault_keeps h24) h24
        exact h25

theorem State.detect_keeps {s₀ s : State} {mech cls page sub ws addr} (h : Keeps s₀ s) :
    Keeps s₀ (State.detect mech cls page sub ws addr s).2 := by
  unfold State.detect
  exact State.detectThen_keeps h (fun x0 t1 h2 => h2)

theorem State.detectAll_keeps {s₀ s : State} {mech page sub rids} (h : Keeps s₀ s) :
    Keeps s₀ (State.detectAll mech page sub rids s) := by
  unfold State.detectAll
  extract_lets x0
  exact State.detectThen_keeps h (fun y1 t2 h3 => Keeps.foldl h3 (fun t4 y5 h6 => State.endFor_keeps h6))

theorem State.detectC1_keeps {s₀ s : State} {mech page sub rid} (h : Keeps s₀ s) :
    Keeps s₀ (State.detectC1 mech page sub rid s) := by
  unfold State.detectC1
  exact State.detectAll_keeps h

theorem State.linkFatal_keeps {s₀ s : State} {l mech failCause failLane} (h : Keeps s₀ s) :
    Keeps s₀ (State.linkFatal l mech failCause failLane s) := by
  unfold State.linkFatal
  extract_lets x0 x1 x2 x3 x4 x5 x6 x7 x8 x9
  have h10 : Keeps s₀ x1 := State.wr_keeps (State.wr_keeps h)
  have h11 : Keeps s₀ x2 := State.wr_keeps h10
  have h12 : Keeps s₀ x3 := State.raiseIrq_keeps (State.wr64_keeps h11)
  have h13 : Keeps s₀ x8 := State.setLnk_keeps h12
  refine Keeps.ite h ?_
  split
  · rename_i z14 z15 z16 z17
    have h18 : Keeps s₀ z16 := Keeps.snd_eq (State.detect_keeps h13) z17
    extract_lets x19 x20 x21 x22 x23
    have h24 : Keeps s₀ x19 := State.goto_keeps h18
    have h25 : Keeps s₀ x21 := Keeps.ite h18 (State.setBlk_keeps h24)
    have h26 : Keeps s₀ x22 := State.endWhere_keeps h25
    have h30 : Keeps s₀ x23 := Keeps.foldl h26 (fun t27 y28 h29 => State.failCheck_keeps h29)
    exact Keeps.ite (State.guestFree_keeps h30) (Keeps.foldl h30 (fun t31 y32 h33 => State.fence_keeps h33))

theorem State.spoil_keeps {s₀ s : State} {a} (h : Keeps s₀ s) :
    Keeps s₀ (State.spoil a s) := by
  unfold State.spoil
  extract_lets x0 x1
  have h2 : Keeps s₀ x1 := Keeps.ite (State.setCk_keeps h) h
  split
  · exact h2
  · exact Keeps.ite (State.dropSlot_keeps h2) (State.inc_keeps (State.modSlot_keeps h2))

theorem State.takeInj_keeps {s₀ s : State} {f} (h : Keeps s₀ s) :
    Keeps s₀ (State.takeInj f s).2 := by
  unfold State.takeInj
  extract_lets x0
  split
  · exact h
  · dsimp only
    exact State.wr_keeps h

theorem State.eccRead_keeps {s₀ s : State} {mech a ws} (h : Keeps s₀ s) :
    Keeps s₀ (State.eccRead mech a ws s).2 := by
  unfold State.eccRead
  split
  · rename_i z0 z1 z2 z3
    split
    · rename_i z4 z5 z6 z7
      have h8 : Keeps s₀ z6 := Keeps.snd_eq (by
        refine Keeps.ite_at (fun (p : Nat × State) => p.2) ?_ ?_
        · exact h
        · exact State.takeInj_keeps h
        ) z7
      refine Keeps.ite_at (fun (p : Option Nat × State) => p.2) ?_ ?_
      · exact h8
      · refine Keeps.ite_at (fun (p : Option Nat × State) => p.2) ?_ ?_
        · dsimp only
          exact State.corrected_keeps h8
        · split
          · rename_i z9 z10 z11 z12
            have h13 : Keeps s₀ z11 := Keeps.snd_eq (State.detect_keeps h8) z12
            dsimp only
            exact State.spoil_keeps h13

end Sys2Proof.Machine
end

