-- ==== Sys2Proof/Laws/KeepsAccess.lean ====
section
/-! SUPPORT. Every operation of `Machine/Access` keeps the part, the tick, the queue and the canonical forms (`Keeps`), and every command
there answers a next state. -/

namespace Sys2Proof.Machine

theorem State.leaveDoze_keeps {s₀ s : State} (h : Keeps s₀ s) :
    Keeps s₀ (State.leaveDoze s) := by
  unfold State.leaveDoze
  extract_lets x0
  exact Keeps.ite (State.wr_keeps (State.wr_keeps (Keeps.same h rfl rfl rfl rfl rfl rfl))) h

theorem State.access_keeps {s₀ s : State} {rq page eff} (h : Keeps s₀ s)
    (heff : ∀ y1, Keeps s₀ y1 → Keeps s₀ (eff y1)) :
    Keeps s₀ (State.access rq page eff s) := by
  unfold State.access
  refine Keeps.ite h ?_
  split
  · exact heff _ (Keeps.ite h (State.leaveDoze_keeps h))
  · exact State.inc_keeps h
  · exact State.inc_keeps h
  · exact Keeps.ite (State.inc_keeps h) h

theorem State.expert_keeps {s₀ s : State} {page eff} (h : Keeps s₀ s)
    (heff : ∀ y1, Keeps s₀ y1 → Keeps s₀ (eff y1)) :
    Keeps s₀ (State.expert page eff s) := by
  unfold State.expert
  exact Keeps.ite (heff _ h) (State.blocked_keeps h)

theorem State.pfOnly_keeps {s₀ s : State} {rq page eff} (h : Keeps s₀ s)
    (heff : ∀ y1, Keeps s₀ y1 → Keeps s₀ (eff y1)) :
    Keeps s₀ (State.pfOnly rq page eff s) := by
  unfold State.pfOnly
  exact Keeps.ite (State.blocked_keeps h) (heff _ h)

end Sys2Proof.Machine
end

