-- ==== Sys2Proof/Laws/KeepsClasp.lean ====
section
/-! SUPPORT. Every operation of `Machine/Clasp` keeps the part, the tick, the queue and the canonical forms (`Keeps`), and every command
there answers a next state. -/

namespace Sys2Proof.Machine

theorem State.countReplay_keeps {s₀ s : State} {l} (h : Keeps s₀ s) :
    Keeps s₀ (State.countReplay l s) := by
  unfold State.countReplay
  extract_lets x0 x1 x2 x3 x4 x5
  have h6 : Keeps s₀ x2 := State.setLnk_keeps h
  have h7 : Keeps s₀ x4 := State.raiseIrq_keeps (State.wr_keeps (State.inc_keeps h6))
  have h8 : Keeps s₀ x5 := State.wr_keeps h7
  exact Keeps.ite (State.linkFatal_keeps h8) h8

theorem State.replayEnds_keeps {s₀ s : State} {l} (h : Keeps s₀ s) :
    Keeps s₀ (State.replayEnds l s) := by
  unfold State.replayEnds
  extract_lets x0
  exact Keeps.ite (State.wr_keeps h) h

theorem State.ackTo_keeps {s₀ s : State} {l last} (h : Keeps s₀ s) :
    Keeps s₀ (State.ackTo l last s) := by
  unfold State.ackTo
  extract_lets x0
  split
  · exact h
  · extract_lets x8 x9
    have h10 : Keeps s₀ x9 := State.setLnk_keeps h
    exact Keeps.ite (Keeps.ite (State.sendWaiting_keeps h10) (State.sendWaitingFrames_keeps h10)) h

theorem State.acked_keeps {s₀ s : State} {l last} (h : Keeps s₀ s) :
    Keeps s₀ (State.acked l last s) := by
  unfold State.acked
  exact State.replayEnds_keeps (State.ackTo_keeps h)

theorem State.replay_keeps {s₀ s : State} {l from_} (h : Keeps s₀ s) :
    Keeps s₀ (State.replay l from_ s) := by
  unfold State.replay
  extract_lets x0 x1
  exact Keeps.ite h (Keeps.ite h (State.countReplay_keeps (Keeps.foldl (State.setLnk_keeps h) (fun t2 y3 h4 => State.wire_keeps h4))))

theorem State.naked_keeps {s₀ s : State} {l expected} (h : Keeps s₀ s) :
    Keeps s₀ (State.naked l expected s) := by
  unfold State.naked
  exact State.replay_keeps (State.ackTo_keeps h)

theorem State.receive_keeps {s₀ s : State} {l seq bytes crcOk take} (h : Keeps s₀ s)
    (htake : ∀ y1, Keeps s₀ y1 → Keeps s₀ (take y1)) :
    Keeps s₀ (State.receive l seq bytes crcOk s take) := by
  unfold State.receive
  extract_lets x0 x1 x2 x3 x4
  have h5 : Keeps s₀ x1 := Keeps.ite h (State.inc_keeps h)
  have h6 : Keeps s₀ x3 := State.setLnk_keeps h5
  have h7 : Keeps s₀ x4 := State.replayEnds_keeps (State.inc64_keeps h6)
  exact Keeps.ite (htake _ (Keeps.ite (State.sendAnswer_keeps h7) h7)) (Keeps.ite h5 (State.countReplay_keeps (State.sendAnswer_keeps (State.setLnk_keeps h5))))

theorem State.guestPacket_keeps {s₀ s : State} {hd isCpl len payload take} (h : Keeps s₀ s)
    (htake : ∀ y1, Keeps s₀ y1 → Keeps s₀ (take y1)) : Keeps s₀ (State.guestPacket hd isCpl len payload s take) := by
  unfold State.guestPacket
  refine Keeps.ite h (State.receive_keeps h (fun t ht => ?_))
  have h1 := State.acked_keeps (l := 3) (last := hd.ackSeq) ht
  exact Keeps.ite (State.inc_keeps h1) (Keeps.ite (State.inc_keeps (State.takeCredits_keeps h1)) (htake _ (State.takeCredits_keeps h1)))

theorem State.capRejected_keeps {s₀ s : State} {code} (h : Keeps s₀ s) :
    Keeps s₀ (State.capRejected code s) := by
  unfold State.capRejected
  extract_lets x0 x1 x2 x3 x4 x5 x6
  have h7 : Keeps s₀ x0 := State.wr_keeps (State.wr_keeps h)
  have h11 : Keeps s₀ x1 := Keeps.foldl h7 (fun t8 y9 h10 => State.wr_keeps h10)
  have h12 : Keeps s₀ x2 := Keeps.ite (State.wr_keeps h11) h11
  have h13 : Keeps s₀ x5 := State.setLnk_keeps (State.setGuest_keeps h12)
  have h14 : Keeps s₀ x6 := State.wr_keeps h13
  refine State.raiseIrq_keeps ?_
  split
  · exact h14
  · exact h14
  · exact State.goto_keeps h14

theorem State.comeUp_keeps {s₀ s : State} {modules} (h : Keeps s₀ s) :
    Keeps s₀ (State.comeUp modules s) := by
  unfold State.comeUp
  extract_lets x0 x1 x2 x3
  have h4 : Keeps s₀ x0 := State.wr_keeps (State.wr_keeps h)
  have h5 : Keeps s₀ x2 := State.setLnk_keeps h4
  exact State.setGuest_keeps h5

theorem State.capAccepted_keeps {s₀ s : State} {b} (h : Keeps s₀ s) :
    Keeps s₀ (State.capAccepted b s) := by
  unfold State.capAccepted
  extract_lets x0 x1 x2 x3 x4 x5 x6 x7
  have h8 : Keeps s₀ x0 := State.wr_keeps (State.wr_keeps h)
  have h12 : Keeps s₀ x1 := Keeps.foldl h8 (fun t9 y10 h11 => State.wr_keeps h11)
  have h13 : Keeps s₀ x3 := State.send_keeps h12
  have h14 : Keeps s₀ x5 := State.setGuest_keeps h13
  have h15 : Keeps s₀ x7 := State.setLnk_keeps h14
  exact State.raiseIrq_keeps (Keeps.ite (State.goto_keeps h15) h15)

theorem execCapDecl_keeps {sidebandOk modules block} (s : State) : ∃ t, execCapDecl sidebandOk modules block s = .next t ∧ Keeps s t := by
  have h := Keeps.refl s
  refine ⟨_, rfl, ?_⟩
  extract_lets x0 x1 x2
  have h3 : Keeps s x1 := Keeps.ite h (State.comeUp_keeps h)
  exact Keeps.ite h (Keeps.ite (Keeps.ite (State.receive_keeps h (fun t4 h5 => State.inc_keeps h5)) h) (Keeps.ite h (Keeps.ite (State.capRejected_keeps h) (State.receive_keeps h3 (fun t6 h7 => Keeps.ite (State.capAccepted_keeps h7) (State.capRejected_keeps h7))))))

theorem execGuestSlotTimeout_keeps (s : State) : ∃ t, execGuestSlotTimeout s = .next t ∧ Keeps s t :=
  have h := Keeps.refl s
  ⟨_, rfl, Keeps.ite (State.capRejected_keeps h) h⟩

theorem execTickMessage_keeps (s : State) : ∃ t, execTickMessage s = .next t ∧ Keeps s t := by
  have h := Keeps.refl s
  refine ⟨_, rfl, ?_⟩
  extract_lets x0 x1 x2
  exact Keeps.ite (State.emit_keeps (State.setGuest_keeps h)) h

theorem execTickAck_keeps {echo} (s : State) : ∃ t, execTickAck echo s = .next t ∧ Keeps s t := by
  have h := Keeps.refl s
  refine ⟨_, rfl, ?_⟩
  extract_lets x0
  exact Keeps.ite (State.setGuest_keeps h) h

theorem State.startTrain_keeps {s₀ s : State} {l packetised} (h : Keeps s₀ s) :
    Keeps s₀ (State.startTrain l packetised s) := by
  unfold State.startTrain
  extract_lets x0
  exact State.wr_keeps (State.setLnk_keeps h)

theorem State.modeForce_keeps {s₀ s : State} {l packetised} (h : Keeps s₀ s) :
    Keeps s₀ (State.modeForce l packetised s) := by
  unfold State.modeForce
  exact Keeps.ite h (Keeps.ite (State.startTrain_keeps (State.wr_keeps h)) (State.reject_keeps h))

theorem execModeForce_keeps {rq link packetised} (s : State) : ∃ t, execModeForce rq link packetised s = .next t ∧ Keeps s t :=
  have h := Keeps.refl s
  ⟨_, rfl, State.access_keeps h (fun t0 h1 => State.expert_keeps h1 (fun t2 h3 => State.modeForce_keeps h3))⟩

theorem State.retrainLink_keeps {s₀ s : State} {l} (h : Keeps s₀ s) :
    Keeps s₀ (State.retrainLink l s) := by
  unfold State.retrainLink
  extract_lets x0 x1
  have h2 : Keeps s₀ x0 := State.startTrain_keeps h
  exact Keeps.ite (Keeps.ite (State.wr_keeps (State.setGuest_keeps h2)) h2) (State.reject_keeps h)

theorem execRetrain_keeps {rq link} (s : State) : ∃ t, execRetrain rq link s = .next t ∧ Keeps s t :=
  have h := Keeps.refl s
  ⟨_, rfl, State.access_keeps h (fun t0 h1 => State.expert_keeps h1 (fun t2 h3 => State.retrainLink_keeps h3))⟩

theorem execLinkRetrainComplete_keeps {link modules} (s : State) : ∃ t, execLinkRetrainComplete link modules s = .next t ∧ Keeps s t := by
  have h := Keeps.refl s
  refine ⟨_, rfl, ?_⟩
  split
  · exact h
  · extract_lets x6 x7 x8 x9
    have h10 : Keeps s x8 := State.setLnk_keeps h
    have h11 : Keeps s x9 := State.wr_keeps (State.wr_keeps h10)
    exact Keeps.ite (Keeps.ite (State.comeUp_keeps h) (State.capRejected_keeps h)) (Keeps.ite (State.wr_keeps (State.wr_keeps h11)) (State.linkFatal_keeps h10))

theorem execNativeFrame_keeps {link seq ackSeq nak crcOk} (s : State) : ∃ t, execNativeFrame link seq ackSeq nak crcOk s = .next t ∧ Keeps s t := 
  have h := Keeps.refl s
  ⟨_, rfl, Keeps.ite (State.receive_keeps h (fun t0 h1 => Keeps.ite (State.naked_keeps h1) (State.acked_keeps h1))) h⟩

theorem execNak_keeps {link seq} (s : State) : ∃ t, execNak link seq s = .next t ∧ Keeps s t := 
  have h := Keeps.refl s
  ⟨_, rfl, Keeps.ite (State.naked_keeps h) h⟩

theorem execAck_keeps {link seq} (s : State) : ∃ t, execAck link seq s = .next t ∧ Keeps s t :=
  have h := Keeps.refl s
  ⟨_, rfl, Keeps.ite (State.acked_keeps h) h⟩

theorem execAckTimeoutReplay_keeps {link} (s : State) : ∃ t, execAckTimeoutReplay link s = .next t ∧ Keeps s t := by
  have h := Keeps.refl s
  refine ⟨_, rfl, ?_⟩
  split
  · exact h
  · exact State.replay_keeps h

theorem State.winErr_keeps {s₀ s : State} (h : Keeps s₀ s) :
    Keeps s₀ (State.winErr s) := by
  unfold State.winErr
  exact State.raiseIrq_keeps (State.inc_keeps h)

theorem execRdReq_keeps {seq addr len tag} (s : State) : ∃ t, execRdReq seq addr len tag s = .next t ∧ Keeps s t := by
  have h := Keeps.refl s
  refine ⟨_, rfl, ?_⟩
  refine State.guestPacket_keeps h (fun t0 h1 => ?_)
  refine Keeps.ite ?_ (State.trySend_keeps (State.winErr_keeps h1))
  split
  · rename_i z2 z3 z4 z5
    have h6 : Keeps s z4 := Keeps.snd_eq (State.eccRead_keeps (State.readTo_keeps h1)) z5
    exact State.trySend_keeps h6
  · rename_i z7 z8 z9
    have h10 : Keeps s z8 := Keeps.snd_eq (State.eccRead_keeps (State.readTo_keeps h1)) z9
    exact State.trySend_keeps h10

theorem execWrReq_keeps {seq addr tag data} (s : State) : ∃ t, execWrReq seq addr tag data s = .next t ∧ Keeps s t := 
  have h := Keeps.refl s
  ⟨_, rfl, State.guestPacket_keeps h (fun t0 h1 => Keeps.ite (State.trySend_keeps (State.storeFrom_keeps h1)) (State.trySend_keeps (State.winErr_keeps h1)))⟩

theorem execWrPosted_keeps {seq addr data} (s : State) : ∃ t, execWrPosted seq addr data s = .next t ∧ Keeps s t := 
  have h := Keeps.refl s
  ⟨_, rfl, State.guestPacket_keeps h (fun t0 h1 => Keeps.ite (State.storeFrom_keeps h1) (State.winErr_keeps h1))⟩

theorem State.askGuest_keeps {s₀ s : State} {fid} (h : Keeps s₀ s) :
    Keeps s₀ (State.askGuest fid s) := by
  unfold State.askGuest
  split
  · exact h
  · extract_lets x5 x6 x7 x8 x9 x10
    have h11 : Keeps s₀ x8 := State.setGuest_keeps h
    have h12 : Keeps s₀ x10 := State.setCk_keeps h11
    exact Keeps.ite h (Keeps.foldl h12 (fun t13 y14 h15 => State.trySend_keeps h15))

theorem State.askDmaPart_keeps {s₀ s : State} {rid} (h : Keeps s₀ s) :
    Keeps s₀ (State.askDmaPart rid s) := by
  unfold State.askDmaPart
  split
  · exact h
  · split
    · exact h
    · extract_lets x10 x11 x12 x13 x14 x15
      have h16 : Keeps s₀ x14 := State.setGuest_keeps h
      have h17 : Keeps s₀ x15 := State.modReq_keeps h16
      exact Keeps.ite h (State.trySend_keeps h17)

theorem State.askDma_keeps {s₀ s : State} {rid} (h : Keeps s₀ s) :
    Keeps s₀ (State.askDma rid s) := by
  unfold State.askDma
  extract_lets x0
  exact Keeps.foldl h (fun t1 y2 h3 => State.askDmaPart_keeps h3)

theorem State.guestReads_keeps {s₀ s : State} (h : Keeps s₀ s) :
    Keeps s₀ (State.guestReads s) := by
  unfold State.guestReads
  exact Keeps.foldl (Keeps.foldl h (fun t0 y1 h2 => State.askGuest_keeps h2)) (fun t3 y4 h5 => State.askDma_keeps h5)

theorem State.fetchPart_keeps {s₀ s : State} {fid tag data} (h : Keeps s₀ s) :
    Keeps s₀ (State.fetchPart fid tag data s) := by
  unfold State.fetchPart
  extract_lets x0
  exact State.setCk_keeps h

theorem State.dmaPart_keeps {s₀ s : State} {rid tag data} (h : Keeps s₀ s) :
    Keeps s₀ (State.dmaPart rid tag data s) := by
  unfold State.dmaPart
  exact State.modReq_keeps h

theorem State.response_keeps {s₀ s : State} {l tag status data} (h : Keeps s₀ s) :
    Keeps s₀ (State.response l tag status data s) := by
  unfold State.response
  extract_lets x0 x1
  have h2 : Keeps s₀ x1 := State.setLnk_keeps h
  refine Keeps.ite h ?_
  refine Keeps.ite (State.wr_keeps h) ?_
  split
  · exact Keeps.ite (State.inc_keeps (State.setLnk_keeps h)) h
  · split
    · exact Keeps.ite (State.dmaPart_keeps h2) (State.endReq_keeps h2)
    · exact Keeps.ite (State.fetchPart_keeps h2) (State.failFetch_keeps h2)
    · exact h2

theorem State.completion_keeps {s₀ s : State} {link tag status data} (h : Keeps s₀ s) :
    Keeps s₀ (State.completion link tag status data s) := by
  unfold State.completion
  refine Keeps.ite (State.guestPacket_keeps h (fun t0 h1 => State.response_keeps h1))
    (Keeps.ite (State.receive_keeps h (fun t h2 => ?_)) (State.response_keeps h))
  exact Keeps.ite (State.inc_keeps (State.acked_keeps h2)) (State.response_keeps (State.acked_keeps h2))

theorem execRdCpl_keeps {link tag status data} (s : State) : ∃ t, execRdCpl link tag status data s = .next t ∧ Keeps s t := 
  have h := Keeps.refl s
  ⟨_, rfl, State.completion_keeps h⟩

theorem execWrCpl_keeps {link tag status} (s : State) : ∃ t, execWrCpl link tag status s = .next t ∧ Keeps s t := 
  have h := Keeps.refl s
  ⟨_, rfl, State.completion_keeps h⟩

theorem execCredit_keeps {req cpl data} (s : State) : ∃ t, execCredit req cpl data s = .next t ∧ Keeps s t := by
  have h := Keeps.refl s
  refine ⟨_, rfl, ?_⟩
  extract_lets x0
  exact Keeps.ite (State.sendWaiting_keeps (State.setGuest_keeps h)) h

theorem execTxnTimeoutExpiry_keeps {link tag} (s : State) : ∃ t, execTxnTimeoutExpiry link tag s = .next t ∧ Keeps s t := by
  have h := Keeps.refl s
  refine ⟨_, rfl, ?_⟩
  extract_lets x0
  exact State.setLnk_keeps h

theorem execLinkTimeout_keeps {link tag} (s : State) : ∃ t, execLinkTimeout link tag s = .next t ∧ Keeps s t := by
  have h := Keeps.refl s
  refine ⟨_, rfl, ?_⟩
  extract_lets x0 x1
  have h2 : Keeps s x1 := State.setLnk_keeps h
  split
  · exact h
  · extract_lets x8
    have h9 : Keeps s x8 := State.raiseIrq_keeps (State.incBy_keeps h2)
    refine Keeps.ite ?_ h
    split
    · exact State.endReq_keeps h9
    · exact State.failCheck_keeps h9
    · exact h9

theorem execComplete_keeps {guestTag outcome cause endTick startDelta} (s : State) : ∃ t, execComplete guestTag outcome cause endTick startDelta s = .next t ∧ Keeps s t := by
  have h := Keeps.refl s
  refine ⟨_, rfl, ?_⟩
  refine State.guestPacket_keeps h (fun t0 h1 => ?_)
  extract_lets x2 x3
  have h4 : Keeps s x3 := State.setGuest_keeps h1
  refine Keeps.ite (State.inc_keeps h1) ?_
  split
  · exact State.inc_keeps h1
  · split
    · exact h4
    · extract_lets x15 x16 x17 x18 x19
      have h20 : Keeps s x16 := Keeps.ite (State.inc_keeps h4) h4
      have h21 : Keeps s x19 := State.modReq_keeps h20
      split
      · extract_lets x26
        exact State.endAs_keeps h21

theorem execLaneMonitorBurst_keeps {link bad stuck} (s : State) :
    ∃ t, execLaneMonitorBurst link bad stuck s = .next t ∧ Keeps s t := by
  refine ⟨_, rfl, ?_⟩
  extract_lets k fatal s1 before failed s2
  have h1 : Keeps s s1 := Keeps.foldl (Keeps.refl s) (fun t m ht => State.incBy_keeps ht)
  have h2 : Keeps s s2 := State.setLnk_keeps h1
  refine Keeps.ite (Keeps.refl s) ?_
  split
  · exact h2
  · exact Keeps.ite (State.linkFatal_keeps h2) (Keeps.ite (State.wr_keeps h2) h2)

theorem State.clTestStart_keeps {s₀ s : State} {link duration} (h : Keeps s₀ s) :
    Keeps s₀ (State.clTestStart link duration s) := by
  unfold State.clTestStart
  extract_lets x0 x1
  exact Keeps.ite (State.setLnk_keeps (State.wr_keeps (State.wr_keeps h))) (State.wr_keeps h)

theorem execClTestStart_keeps {rq link duration} (s : State) : ∃ t, execClTestStart rq link duration s = .next t ∧ Keeps s t := by
  have h := Keeps.refl s
  refine ⟨_, rfl, ?_⟩
  refine State.access_keeps h (fun t0 h1 => ?_)
  refine State.expert_keeps h1 (fun t2 h3 => ?_)
  extract_lets x4
  have h5 : Keeps s x4 := State.wr_keeps (State.wr_keeps h3)
  exact Keeps.ite (State.clTestStart_keeps h5) h5

theorem execClTestDone_keeps {errLanes} (s : State) : ∃ t, execClTestDone errLanes s = .next t ∧ Keeps s t := by
  have h := Keeps.refl s
  refine ⟨_, rfl, ?_⟩
  extract_lets x0 x1 x2 x3 x4 x5
  have h6 : Keeps s x3 := State.setLnk_keeps h
  have h7 : Keeps s x4 := State.wr_keeps (State.wr_keeps h6)
  have h8 : Keeps s x5 := State.wr_keeps h7
  split
  · exact h
  · exact Keeps.ite h (Keeps.foldl h8 (fun t9 x10 h11 => State.wr_keeps h11))

end Sys2Proof.Machine
end

