-- ==== Sys2Proof/Laws/KeepsCasket.lean ====
section
/-! SUPPORT. Every operation of `Machine/Casket` keeps the part, the tick, the queue and the canonical forms (`Keeps`), and every command
there answers a next state. -/

namespace Sys2Proof.Machine

theorem State.reads_keeps {s₀ s : State} {rid w l} (h : Keeps s₀ s) :
    Keeps s₀ (State.reads rid w l s).2 := by
  unfold State.reads
  refine Keeps.foldl_snd h (fun y0 y1 h2 => ?_)
  extract_lets x3
  have h4 : Keeps s₀ x3 := h2
  split
  · extract_lets x11
    have h12 : Keeps s₀ x11 := State.readTo_keeps (State.started_keeps (State.modReq_keeps h2))
    refine Keeps.ite_at (fun (p : Bool × State) => p.2) ?_ ?_
    · exact h2
    · split
      · rename_i z13 z14 z15 z16
        have h17 : Keeps s₀ z15 := Keeps.snd_eq (State.eccRead_keeps h12) z16
        dsimp only
        exact State.endFor_keeps h17
      · rename_i z18 z19 z20
        have h21 : Keeps s₀ z19 := Keeps.snd_eq (State.eccRead_keeps h12) z20
        exact h21
  · exact h2

theorem State.useTile_keeps {s₀ s : State} {rid w id i} (h : Keeps s₀ s) :
    Keeps s₀ (State.useTile rid w id i s).2 := by
  unfold State.useTile
  split
  · rename_i z0 z1 z2
    have h3 : Keeps s₀ z1 := Keeps.snd_eq (State.needTile_keeps h) z2
    split
    · rename_i z4 z5 z6
      have h7 : Keeps s₀ z5 := Keeps.snd_eq (State.reads_keeps h3) z6
      exact h7
    · rename_i z8 z9 z10
      have h11 : Keeps s₀ z9 := Keeps.snd_eq (State.reads_keeps h3) z10
      exact h11
  · exact State.needTile_keeps h

theorem State.useObj_keeps {s₀ s : State} {rid w id} (h : Keeps s₀ s) :
    Keeps s₀ (State.useObj rid w id s).2 := by
  unfold State.useObj
  split
  · rename_i z0 z1 z2
    have h3 : Keeps s₀ z1 := Keeps.snd_eq (State.needObj_keeps h) z2
    split
    · rename_i z4 z5 z6
      have h7 : Keeps s₀ z5 := Keeps.snd_eq (State.reads_keeps h3) z6
      exact h7
    · rename_i z8 z9 z10
      have h11 : Keeps s₀ z9 := Keeps.snd_eq (State.reads_keeps h3) z10
      exact h11
  · exact State.needObj_keeps h

theorem State.blockRead_keeps {s₀ s : State} {page a n} (h : Keeps s₀ s) :
    Keeps s₀ (State.blockRead page a n s).2 := by
  unfold State.blockRead
  extract_lets x0
  have h1 : Keeps s₀ x0 := State.readTo_keeps h
  refine Keeps.ite_at (fun (p : Option (List Byte) × State) => p.2) ?_ ?_
  · exact h
  · split
    · rename_i z2 z3 z4 z5
      have h6 : Keeps s₀ z4 := Keeps.snd_eq (State.eccRead_keeps h1) z5
      exact h6
    · rename_i z7 z8 z9
      have h10 : Keeps s₀ z8 := Keeps.snd_eq (State.eccRead_keeps h1) z9
      exact h10

theorem State.fetchData_keeps {s₀ s : State} {f data} (h : Keeps s₀ s) :
    Keeps s₀ (State.fetchData f data s).2 := by
  unfold State.fetchData
  split
  · dsimp only
    exact State.countRead_keeps h
  · exact h
  · dsimp only
    exact State.inc64_keeps h
  · split
    · exact h
    · dsimp only
      exact State.inc_keeps h
  · exact h

theorem State.askFar_keeps {s₀ s : State} {w a n} (h : Keeps s₀ s) :
    Keeps s₀ (State.askFar w a n s) := by
  unfold State.askFar
  split
  · exact State.emit_keeps h
  · exact State.hostAsk_keeps h
  · exact State.emit_keeps h
  · exact h

theorem State.askTier_keeps {s₀ s : State} {fid} (h : Keeps s₀ s) :
    Keeps s₀ (State.askTier fid s) := by
  unfold State.askTier
  split
  · exact h
  · extract_lets x5 x6
    refine Keeps.ite h ?_
    refine Keeps.foldl ?_ (fun t7 y8 h9 => State.askFar_keeps h9)
    dsimp only [x5]
    exact State.setCk_keeps h

theorem State.tierReads_keeps {s₀ s : State} (h : Keeps s₀ s) :
    Keeps s₀ (State.tierReads s) := by
  unfold State.tierReads
  exact Keeps.foldl h (fun t0 y1 h2 => State.askTier_keeps h2)

theorem State.dropUnwanted_keeps {s₀ s : State} {a} (h : Keeps s₀ s) :
    Keeps s₀ (State.dropUnwanted a s) := by
  unfold State.dropUnwanted
  split
  · exact h
  · exact Keeps.ite (State.dropSlot_keeps h) h

theorem State.fetchEcc_keeps {s₀ s : State} {f} (h : Keeps s₀ s) :
    Keeps s₀ (State.fetchEcc f s).2 := by
  unfold State.fetchEcc
  split
  · exact State.eccRead_keeps h
  · exact State.eccRead_keeps h
  · exact h

theorem State.installed_keeps {s₀ s : State} {fetch f a d} (h : Keeps s₀ s) :
    Keeps s₀ (State.installed fetch f a d s) := by
  unfold State.installed
  extract_lets x0 x1 x2 x3 x4 x5
  have h6 : Keeps s₀ x0 := State.store_keeps (State.endFetch_keeps h)
  have h7 : Keeps s₀ x1 := State.accessed_keeps (State.accessed_keeps (State.crossed_keeps h6))
  have h8 : Keeps s₀ x3 := Keeps.ite (State.setCk_keeps h7) h7
  have h9 : Keeps s₀ x5 := Keeps.ite (State.addLentCopy_keeps h8) h8
  exact State.dropUnwanted_keeps h9

theorem State.install_keeps {s₀ s : State} {fetch f a data} (h : Keeps s₀ s) :
    Keeps s₀ (State.install fetch f a data s) := by
  unfold State.install
  extract_lets x0 x1
  have h2 : Keeps s₀ x0.2 := State.fetchData_keeps h
  have h8 : Keeps s₀ x1 := by
    unfold x1
    split
    · exact State.roceProgress_keeps h2
    · exact h2
  split
  · rename_i z9 z10 z11 z12
    have h13 : Keeps s₀ z11 := Keeps.snd_eq (State.fetchEcc_keeps h8) z12
    exact State.failFetch_keeps h13
  · rename_i z14 z15 z16
    have h17 : Keeps s₀ z15 := Keeps.snd_eq (State.fetchEcc_keeps h8) z16
    exact Keeps.ite (State.installed_keeps h17) (State.failCheck_keeps (State.inc_keeps h17))

theorem execTileInstall_keeps {fetch data} (s : State) : ∃ t, execTileInstall fetch data s = .next t ∧ Keeps s t := by
  have h := Keeps.refl s
  refine ⟨_, rfl, ?_⟩
  split
  · exact h
  · split
    · exact h
    · exact Keeps.ite (State.failFetch_keeps h) (Keeps.ite (State.install_keeps h) h)

theorem execTierLate_keeps {rid fetch} (s : State) : ∃ t, execTierLate rid fetch s = .next t ∧ Keeps s t := by
  have h := Keeps.refl s
  refine ⟨_, rfl, ?_⟩
  split
  · split
    · exact Keeps.ite (State.endReq_keeps h) h
    · exact h
  · exact h

theorem execTierFailed_keeps {fetch st} (s : State) : ∃ t, execTierFailed fetch st s = .next t ∧ Keeps s t := by
  have h := Keeps.refl s
  refine ⟨_, rfl, ?_⟩
  split
  · exact h
  · exact Keeps.ite (State.failFetch_keeps h) h

theorem State.writeHome_keeps {s₀ s : State} {a} (h : Keeps s₀ s) :
    Keeps s₀ (State.writeHome a s) := by
  unfold State.writeHome
  split
  · exact h
  · split
    · exact h
    · split
      · rename_i z10 z11 z12 z13
        have h14 : Keeps s₀ z12 := Keeps.snd_eq (State.eccRead_keeps h) z13
        exact State.modSlot_keeps (State.modSlot_keeps h14)
      · rename_i z15 z16 z17
        have h18 : Keeps s₀ z16 := Keeps.snd_eq (State.eccRead_keeps h) z17
        exact State.modSlot_keeps (State.modSlot_keeps (State.readTo_keeps (State.store_keeps h18)))

theorem State.giveSlot_keeps {s₀ s : State} {a borrowed} (h : Keeps s₀ s) :
    Keeps s₀ (State.giveSlot a borrowed s) := by
  unfold State.giveSlot
  split
  · exact h
  · extract_lets x0 x1 x2 x3
    have h4 : Keeps s₀ x2 := State.putSlot_keeps h
    exact State.setCk_keeps h4

theorem State.fillQuota_keeps {s₀ s : State} {w tier a2} (h : Keeps s₀ s) :
    Keeps s₀ (State.fillQuota w tier a2 s) := by
  induction a2 generalizing w tier s with
  | zero => 
    unfold State.fillQuota
    exact h
  | succ z0 ih => 
    unfold State.fillQuota
    refine Keeps.ite ?_ h
    split
    · exact ih (State.modSlot_keeps h)
    · exact h

theorem State.spillQuota_keeps {s₀ s : State} {w tier a2} (h : Keeps s₀ s) :
    Keeps s₀ (State.spillQuota w tier a2 s) := by
  induction a2 generalizing w tier s with
  | zero => 
    unfold State.spillQuota
    exact h
  | succ z0 ih => 
    unfold State.spillQuota
    refine Keeps.ite ?_ h
    split
    · exact ih (State.modSlot_keeps h)
    · exact h

theorem State.requota_keeps {s₀ s : State} {w tier} (h : Keeps s₀ s) :
    Keeps s₀ (State.requota w tier s) := by
  unfold State.requota
  extract_lets x0
  exact State.trimPool_keeps (State.spillQuota_keeps (State.fillQuota_keeps h))

theorem State.quotaRefused_keeps {s₀ s : State} {w} (h : Keeps s₀ s) :
    Keeps s₀ (State.quotaRefused w s) := by
  unfold State.quotaRefused
  exact State.wr_keeps (State.setW1c_keeps h)

theorem State.quotaWrite_keeps {s₀ s : State} {w word value} (h : Keeps s₀ s) :
    Keeps s₀ (State.quotaWrite w word value s) := by
  unfold State.quotaWrite
  extract_lets x0 x1 x2
  exact Keeps.ite h (Keeps.ite (Keeps.ite (State.quotaRefused_keeps h) (State.requota_keeps (State.wr_keeps (State.wr_keeps h)))) (Keeps.ite (Keeps.ite (State.quotaRefused_keeps h) (State.requota_keeps (State.wr_keeps (State.wr_keeps h)))) h))

theorem execQuotaWrite_keeps {rq w word value} (s : State) : ∃ t, execQuotaWrite rq w word value s = .next t ∧ Keeps s t :=
  have h := Keeps.refl s
  ⟨_, rfl, State.access_keeps h (fun t0 h1 => State.quotaWrite_keeps h1)⟩

theorem execLocketLend_keeps {n} (s : State) : ∃ t, execLocketLend n s = .next t ∧ Keeps s t :=
  have h := Keeps.refl s
  ⟨_, rfl, Keeps.ite (State.putBit_keeps h) h⟩

theorem State.unbackWindow_keeps {s₀ s : State} {p} (h : Keeps s₀ s) :
    Keeps s₀ (State.unbackWindow p s) := by
  unfold State.unbackWindow
  extract_lets x0 x1 x2
  have h3 : Keeps s₀ x1 := State.setCk_keeps (State.setBorrow_keeps h)
  have h4 : Keeps s₀ x2 := State.endWhere_keeps h3
  exact Keeps.foldl h4 (fun t5 y6 h7 => State.failFetch_keeps h7)

theorem execReclaimPeriodEnd_keeps {slot} (s : State) : ∃ t, execReclaimPeriodEnd slot s = .next t ∧ Keeps s t := by
  have h := Keeps.refl s
  refine ⟨_, rfl, ?_⟩
  split
  · exact h
  · exact Keeps.ite (State.unbackWindow_keeps h) h

theorem State.scrubStore_keeps {s₀ s : State} {mech a} (h : Keeps s₀ s) :
    Keeps s₀ (State.scrubStore mech a s) := by
  unfold State.scrubStore
  exact State.eccRead_keeps h

theorem execCasketScrub_keeps (s : State) : ∃ t, execCasketScrub s = .next t ∧ Keeps s t := by
  have h := Keeps.refl s
  refine ⟨_, rfl, ?_⟩
  extract_lets x0
  have h1 : Keeps s x0 := State.scrubStore_keeps (State.wr_keeps h)
  exact Keeps.ite (Keeps.foldl h1 (fun t2 x3 h4 => Keeps.ite (State.scrubStore_keeps h4) h4)) h

theorem execPatrolScrub_keeps {stack} (s : State) : ∃ t, execPatrolScrub stack s = .next t ∧ Keeps s t :=
  have h := Keeps.refl s
  ⟨_, rfl, Keeps.ite (State.scrubStore_keeps (State.wr_keeps h)) h⟩

end Sys2Proof.Machine
end

