-- ==== Sys2Proof/Laws/KeepsSteps.lean ====
section
/-! SUPPORT. Every operation of `Machine/Steps` keeps the part, the tick, the queue and the canonical forms (`Keeps`), and every command
there answers a next state. -/

namespace Sys2Proof.Machine

theorem State.sendObjs_keeps {s₀ s : State} {rid w ids} (h : Keeps s₀ s) :
    Keeps s₀ (State.sendObjs rid w ids s).2 := by
  unfold State.sendObjs
  refine Keeps.foldl_snd h (fun y0 y1 h2 => ?_)
  split
  · exact h2
  · exact State.needObj_keeps h2
  · split
    · rename_i z11 z12 z13
      have h14 : Keeps s₀ z12 := Keeps.snd_eq (State.needObj_keeps h2) z13
      exact h14
    · exact State.needObj_keeps h2

theorem State.needObjs_keeps {s₀ s : State} {rid w ids} (h : Keeps s₀ s) :
    Keeps s₀ (State.needObjs rid w ids s).2 := by
  unfold State.needObjs
  refine Keeps.foldl_snd h (fun y0 y1 h2 => ?_)
  split
  · exact h2
  · exact State.useObj_keeps h2
  · split
    · rename_i z11 z12 z13
      have h14 : Keeps s₀ z12 := Keeps.snd_eq (State.useObj_keeps h2) z13
      exact h14
    · exact State.useObj_keeps h2

theorem State.withObjs_keeps {s₀ s : State} {rid w ids misfit go} (h : Keeps s₀ s)
    (hgo : ∀ y1, Keeps s₀ y1 → Keeps s₀ (go y1)) :
    Keeps s₀ (State.withObjs rid w ids misfit go s) := by
  unfold State.withObjs
  refine State.needThen_keeps (State.sendObjs_keeps h) (fun t0 h1 => ?_)
  split
  · exact State.endReq_keeps h1
  · exact State.needThen_keeps (State.needObjs_keeps h1) (fun t7 h8 => hgo _ h8)

theorem State.withInputs_keeps {s₀ s : State} {rid r ids ok go} (h : Keeps s₀ s)
    (hgo : ∀ y1, Keeps s₀ y1 → Keeps s₀ (go y1)) :
    Keeps s₀ (State.withInputs rid r ids ok go s) := by
  unfold State.withInputs
  extract_lets x0
  exact State.withObjs_keeps h (fun t1 h2 => hgo _ h2)

theorem State.issueFetch_keeps {s₀ s : State} {rid w o i a wait} (h : Keeps s₀ s) :
    Keeps s₀ (State.issueFetch rid w o i a wait s) := by
  unfold State.issueFetch
  extract_lets x0 x1 x2
  exact State.setCk_keeps h

theorem State.weightTile_keeps {s₀ s : State} {rid w p formats done span id i must} (h : Keeps s₀ s) :
    Keeps s₀ (State.weightTile rid w p formats done span id i must s).2 := by
  unfold State.weightTile
  refine Keeps.ite_at (fun (p : Need × State) => p.2) ?_ ?_
  · exact h
  · refine Keeps.ite_at (fun (p : Need × State) => p.2) ?_ ?_
    · exact h
    · split
      · rename_i z0 z1 z2
        extract_lets x3
        refine Keeps.ite_at (fun (p : Need × State) => p.2) ?_ ?_
        · refine Keeps.ite_at (fun (p : Need × State) => p.2) ?_ ?_
          · dsimp only
            exact State.setCk_keeps h
          · exact h
        · refine Keeps.ite_at (fun (p : Need × State) => p.2) ?_ ?_
          · exact h
          · refine Keeps.ite_at (fun (p : Need × State) => p.2) ?_ ?_
            · exact h
            · split
              · rename_i z4 z5 z6
                have h7 : Keeps s₀ z5 := Keeps.snd_eq (State.reads_keeps (State.hold_keeps h)) z6
                exact h7
              · rename_i z8 z9 z10
                have h11 : Keeps s₀ z9 := Keeps.snd_eq (State.reads_keeps (State.hold_keeps h)) z10
                exact h11
      · split
        · refine Keeps.ite_at (fun (p : Need × State) => p.2) ?_ ?_
          · exact h
          · exact h
        · dsimp only
          split
          · dsimp only
            exact Keeps.ite (State.setCk_keeps h) h
          · refine Keeps.ite_at (fun (p : Need × State) => p.2) ?_ ?_
            · dsimp only
              exact State.issueFetch_keeps h
            · exact h
          · refine Keeps.ite_at (fun (p : Need × State) => p.2) ?_ ?_
            · refine Keeps.ite_at (fun (p : Need × State) => p.2) ?_ ?_
              · exact h
              · exact h
            · split
              · dsimp only
                exact State.setCk_keeps (State.accessed_keeps (State.modSlot_keeps h))
              · dsimp only
                exact State.issueFetch_keeps (State.accessed_keeps (State.modSlot_keeps h))

theorem State.weightBrought_keeps {s₀ s : State} {rid w formats id i} (h : Keeps s₀ s) :
    Keeps s₀ (State.weightBrought rid w formats id i s).2 := by
  unfold State.weightBrought
  split
  · rename_i z0 z1 z2
    have h3 : Keeps s₀ z1 := Keeps.snd_eq (State.needTile_keeps h) z2
    refine Keeps.ite_at (fun (p : Need × State) => p.2) ?_ ?_
    · exact State.useTile_keeps h3
    · exact h3
  · exact State.needTile_keeps h

theorem State.streamWeights_keeps {s₀ s : State} {rid r tiles} (h : Keeps s₀ s) :
    Keeps s₀ (State.streamWeights rid r tiles s).2 := by
  unfold State.streamWeights
  split
  · exact h
  · rename_i z2 z3 z4
    split
    · exact h
    · extract_lets x10 x11 x12 x13
      refine Keeps.foldl_snd h (fun y14 y15 h16 => ?_)
      split
      · exact h16
      · split
        · refine Keeps.ite_at (fun (p : Need × State) => p.2) ?_ ?_
          · exact h16
          · exact h16
        · extract_lets x28
          have h49 : Keeps s₀ x28.2 := by
            unfold x28
            refine Keeps.foldl_snd h16 (fun y29 y30 h31 => ?_)
            extract_lets x32
            have h33 : Keeps s₀ x32.2 := by
              unfold x32
              refine Keeps.ite_at (fun (p : Need × State) => p.2) ?_ ?_
              · exact State.weightTile_keeps h31
              · refine Keeps.ite_at (fun (p : Need × State) => p.2) ?_ ?_
                · exact State.weightBrought_keeps h31
                · exact h31
            split
            · exact h31
            · rename_i z39 z40 z41 z42 z43
              have h44 : Keeps s₀ z41 := Keeps.snd_eq h33 z43
              exact h44
            · exact h33
          split
          · exact h49
          · exact h49

theorem State.startStep_keeps {s₀ s : State} {rid} (h : Keeps s₀ s) :
    Keeps s₀ (State.startStep rid s) := by
  unfold State.startStep
  exact State.modReq_keeps h

theorem State.linkTxn_keeps {s₀ s : State} {rid f} (h : Keeps s₀ s) :
    Keeps s₀ (State.linkTxn rid f s) := by
  unfold State.linkTxn
  extract_lets x0 x1
  have h17 : Keeps s₀ x0 := by
    unfold x0
    refine Keeps.ite ?_ ?_
    · split
      · rename_i z2 z3 z4 z5
        have h6 : Keeps s₀ z4 := Keeps.snd_eq (State.freeBits_keeps h) z5
        split
        · rename_i z7 z8 z9 z10
          have h11 : Keeps s₀ z9 := Keeps.snd_eq (State.freeBits_keeps h6) z10
          exact State.sendLinkFrame_keeps h11
    · split
      · rename_i z12 z13 z14 z15
        have h16 : Keeps s₀ z14 := Keeps.snd_eq (State.freeBytes_keeps h) z15
        exact State.sendLinkFrame_keeps h16
  exact State.setLnk_keeps h17

theorem State.startDma_keeps {s₀ s : State} {rid r} (h : Keeps s₀ s) :
    Keeps s₀ (State.startDma rid r s) := by
  unfold State.startDma
  extract_lets x0 x1
  have h2 : Keeps s₀ x1 := State.modReq_keeps h
  exact Keeps.ite h (Keeps.ite (State.hostAsk_keeps (State.modReq_keeps h)) (Keeps.ite (Keeps.ite (State.endReq_keeps h) (Keeps.foldl h2 (fun t3 y4 h5 => State.askFar_keeps h5))) (Keeps.ite (State.needThen_keeps (State.needObj_keeps h) (fun t6 h7 => State.modReq_keeps h7)) h)))

theorem State.beginStep_keeps {s₀ s : State} {rid r} (h : Keeps s₀ s) :
    Keeps s₀ (State.beginStep rid r s) := by
  unfold State.beginStep
  split
  · exact h
  · extract_lets x6 x7
    have h26 : Keeps s₀ x6 := by
      unfold x6
      split
      · exact Keeps.ite h (Keeps.foldl h (fun t21 y22 h23 => State.linkTxn_keeps h23))
      · exact h
    have h29 : Keeps s₀ x7 := State.needThen_keeps (State.sendObjs_keeps h26) (fun t27 h28 => h28)
    refine Keeps.ite (State.endReq_keeps h) ?_
    split
    · exact h
    · split
      · split
        · exact State.needThen_keeps (State.streamWeights_keeps h29) (fun t63 h64 => h64)
        · exact h29
      · exact h29

theorem State.beginSteps_keeps {s₀ s : State} (h : Keeps s₀ s) :
    Keeps s₀ (State.beginSteps s) := by
  unfold State.beginSteps
  refine Keeps.foldl h (fun t0 y1 h2 => ?_)
  split
  · exact h2
  · exact Keeps.ite (State.startDma_keeps h2) (Keeps.ite (Keeps.ite (State.startStep_keeps h2) (State.beginStep_keeps h2)) h2)

theorem State.stepDone_keeps {s₀ s : State} {rid} (h : Keeps s₀ s) :
    Keeps s₀ (State.stepDone rid s) := by
  unfold State.stepDone
  exact State.turnPorts_keeps (State.startStep_keeps (State.modReq_keeps h))

theorem State.addCause_keeps {s₀ s : State} {rid bits} (h : Keeps s₀ s) :
    Keeps s₀ (State.addCause rid bits s) := by
  unfold State.addCause
  exact State.modReq_keeps h

theorem State.putRaw_keeps {s₀ s : State} {rid w id aux bytes} (h : Keeps s₀ s) :
    Keeps s₀ (State.putRaw rid w id aux bytes s).2 := by
  unfold State.putRaw
  refine Keeps.foldl_snd h (fun x0 x1 h2 => ?_)
  split
  · exact State.putTile_keeps h2
  · exact h2

end Sys2Proof.Machine
end

