-- ==== Sys2Proof/Laws/KeepsFacets.lean ====
section
/-! SUPPORT. Every operation of `Machine/Facets` keeps the part, the tick, the queue and the canonical forms (`Keeps`), and every command
there answers a next state. -/

namespace Sys2Proof.Machine

theorem State.rsdBadStat_keeps {s₀ s : State} {i} (h : Keeps s₀ s) :
    Keeps s₀ (State.rsdBadStat i s) := by
  unfold State.rsdBadStat
  exact State.wr_keeps (State.setW1c_keeps h)

theorem State.setReshard_keeps {s₀ s : State} {rid obj tile el} (h : Keeps s₀ s) :
    Keeps s₀ (State.setReshard rid obj tile el s) := by
  unfold State.setReshard
  extract_lets x0 x1
  exact State.setCk_keeps h

theorem State.clearWritten_keeps {s₀ s : State} {rid} (h : Keeps s₀ s) :
    Keeps s₀ (State.clearWritten rid s) := by
  unfold State.clearWritten
  extract_lets x0
  exact State.setCk_keeps h

theorem State.reshardOne_keeps {s₀ s : State} {rid w r part tile got} (h : Keeps s₀ s) :
    Keeps s₀ (State.reshardOne rid w r part tile got s).2 := by
  unfold State.reshardOne
  extract_lets x0 x1 x2
  refine Keeps.ite_at (fun (p : Need × State) => p.2) ?_ ?_
  · exact h
  · refine Keeps.ite_at (fun (p : Need × State) => p.2) ?_ ?_
    · dsimp only
      exact State.setReshard_keeps h
    · split
      · rename_i z3 z4 z5
        have h6 : Keeps s₀ z4 := Keeps.snd_eq (State.putTileIn_keeps h) z5
        extract_lets x7 x8 x9
        have h10 : Keeps s₀ x7 := State.inc_keeps (State.setReshard_keeps h6)
        have h11 : Keeps s₀ x9 := State.setCk_keeps h10
        dsimp only
        exact State.modReq_keeps h11
      · rename_i z12 z13 z14 z15 z16
        have h17 : Keeps s₀ z14 := Keeps.snd_eq (State.putTileIn_keeps h) z16
        dsimp only
        exact Keeps.ite (State.setReshard_keeps h17) h17

theorem State.reshardStore_keeps {s₀ s : State} {rid w r fmt part at_ rows} (h : Keeps s₀ s) :
    Keeps s₀ (State.reshardStore rid w r fmt part at_ rows s).2 := by
  unfold State.reshardStore
  extract_lets x0 x1 x2
  have h10 : Keeps s₀ x2.2 := by
    unfold x2
    refine Keeps.foldl_snd h (fun y3 y4 h5 => ?_)
    split
    · exact State.reshardOne_keeps h5
    · exact h5
  refine Keeps.ite_at (fun (p : Need × State) => p.2) ?_ ?_
  · dsimp only
    exact State.rsdBadStat_keeps h
  · split
    · dsimp only
      exact Keeps.ite (State.fire_keeps (State.clearWritten_keeps h10)) (State.clearWritten_keeps h10)
    · exact h10

theorem State.flipTile_keeps {s₀ s : State} {sums} (h : Keeps s₀ s) :
    Keeps s₀ (State.flipTile sums s).2 := by
  unfold State.flipTile
  split
  · rename_i z0 z1 z2 z3
    have h4 := Keeps.snd_eq (State.freeBits_keeps h) z3
    split
    · rename_i z5 z6 z7 z8
      have h9 := Keeps.snd_eq (State.freeBits_keeps h4) z8
      split
      · rename_i z10 z11 z12 z13
        have h14 := Keeps.snd_eq (State.freeBits_keeps h9) z13
        exact h14

theorem State.syncCores_keeps {s₀ s : State} {f} (h : Keeps s₀ s) :
    Keeps s₀ (State.syncCores f s) := by
  unfold State.syncCores
  exact State.wr_keeps h

theorem State.syncVc_keeps {s₀ s : State} {f} (h : Keeps s₀ s) :
    Keeps s₀ (State.syncVc f s) := by
  unfold State.syncVc
  exact State.wr_keeps h

theorem State.coresLeft_keeps {s₀ s : State} {f} (h : Keeps s₀ s) :
    Keeps s₀ (State.coresLeft f s) := by
  unfold State.coresLeft
  exact Keeps.ite (State.faultBlock_keeps h) h

theorem State.strike_keeps {s₀ s : State} {f core} (h : Keeps s₀ s) :
    Keeps s₀ (State.strike f core s) := by
  unfold State.strike
  extract_lets x0
  have h1 : Keeps s₀ x0 := State.inc_keeps h
  exact Keeps.ite (State.coresLeft_keeps (State.raiseIrq_keeps (State.syncCores_keeps (State.orBits_keeps h1)))) h1

theorem State.abftLast_keeps {s₀ s : State} {f core sums} (h : Keeps s₀ s) :
    Keeps s₀ (State.abftLast f core sums s) := by
  unfold State.abftLast
  extract_lets x0
  exact State.wr_keeps (State.wr_keeps (State.wr_keeps h))

theorem State.writeTensor_keeps {s₀ s : State} {rid f t tiles sums rows out fmt rsd} (h : Keeps s₀ s) :
    Keeps s₀ (State.writeTensor rid f t tiles sums rows out fmt rsd s).2 := by
  unfold State.writeTensor
  split
  · exact h
  · rename_i z2 z3 z4
    dsimp only
    split
    · rename_i z24 z25 z26
      have h37 : Keeps s₀ z25 := Keeps.snd_eq (by
        split
        · split
          · dsimp only
            exact State.rsdBadStat_keeps h
          · exact State.reshardStore_keeps (State.modReq_keeps h)
        · exact State.putTile_keeps h
        ) z26
      dsimp only
      exact State.addCause_keeps (State.incBy_keeps h37)
    · split
      · split
        · dsimp only
          exact State.rsdBadStat_keeps h
        · exact State.reshardStore_keeps (State.modReq_keeps h)
      · exact State.putTile_keeps h

theorem State.phaseEnd_keeps {s₀ s : State} {rid} (h : Keeps s₀ s) :
    Keeps s₀ (State.phaseEnd rid s) := by
  unfold State.phaseEnd
  split
  · extract_lets x0
    exact Keeps.ite (State.stepDone_keeps h) h
  · exact h

theorem State.storeTile_keeps {s₀ : State} {rid f sums a} (h : Keeps s₀ a.2) : Keeps s₀ (State.storeTile rid f sums a).2 := by
  unfold State.storeTile
  split
  · exact State.modReq_keeps h
  · exact h

theorem State.acceptTile_keeps {s₀ s : State} {rid f sums} (h : Keeps s₀ s) :
    Keeps s₀ (State.acceptTile rid f sums s) := by
  unfold State.acceptTile
  split
  · extract_lets x12
    exact Keeps.ite (State.phaseEnd_keeps (State.modReq_keeps h)) (Keeps.ite (State.modReq_keeps h) (State.needThen_keeps (State.storeTile_keeps (State.writeTensor_keeps h)) (fun t13 h14 => State.phaseEnd_keeps (State.turnPorts_keeps (State.modReq_keeps h14)))))
  · exact h

theorem State.retryStores_keeps {s₀ s : State} (h : Keeps s₀ s) : Keeps s₀ (State.retryStores s) := by
  unfold State.retryStores
  refine Keeps.foldl h (fun t e ht => ?_)
  split
  · exact ht
  · exact State.acceptTile_keeps ht

theorem State.coreCycles_keeps {s₀ s : State} {f r work} (h : Keeps s₀ s) :
    Keeps s₀ (State.coreCycles f r work s) := by
  unfold State.coreCycles
  extract_lets x0
  have h1 : Keeps s₀ x0 := State.inc64_keeps h
  split
  · exact State.inc64_keeps h1
  · split
    · rename_i z7 z8 z9 z10
      have h11 : Keeps s₀ z9 := Keeps.snd_eq (State.freeBits_keeps h1) z10
      exact State.inc64_keeps h11

theorem State.failTile_keeps {s₀ s : State} {rid f core work sums both} (h : Keeps s₀ s) :
    Keeps s₀ (State.failTile rid f core work sums both s) := by
  unfold State.failTile
  exact State.modReq_keeps (State.abftLast_keeps h)

theorem State.vectorEnds_keeps {s₀ s : State} {rid f run vcMismatch} (h : Keeps s₀ s) :
    Keeps s₀ (State.vectorEnds rid f run vcMismatch s) := by
  unfold State.vectorEnds
  extract_lets x0 x1 x2 x3 x4
  have h5 : Keeps s₀ x2 := Keeps.ite (State.wr_keeps h) h
  have h6 : Keeps s₀ x3 := State.syncVc_keeps h5
  exact Keeps.ite (State.detectC1_keeps (State.raiseIrq_keeps (State.inc_keeps h6))) (State.acceptTile_keeps h6)

theorem State.productSums_keeps {s₀ s : State} {f core run} (h : Keeps s₀ s) :
    Keeps s₀ (State.productSums f core run s).2.2 := by
  unfold State.productSums
  extract_lets x0 x1 x2
  have h3 : Keeps s₀ x2.2 := State.flipTile_keeps (State.wr_keeps h)
  refine Keeps.ite_at (fun (p : TileSums × Bool × State) => p.2.2) ?_ ?_
  · exact h3
  · exact h

theorem State.productEnds_keeps {s₀ s : State} {rid f core run} (h : Keeps s₀ s) :
    Keeps s₀ (State.productEnds rid f core run s) := by
  unfold State.productEnds
  split
  · rename_i z0 z1 z2 z3 z4
    have h5 : Keeps s₀ z3 := Keeps.snd_snd_eq (State.productSums_keeps h) z4
    extract_lets x6 x7
    have h8 : Keeps s₀ x6 := State.syncVc_keeps h5
    have h9 : Keeps s₀ x7 := State.inc64_keeps h8
    exact Keeps.ite (State.acceptTile_keeps h8) (Keeps.ite (State.acceptTile_keeps h9) (State.failTile_keeps h9))

theorem State.tileEnds_keeps {s₀ s : State} {rid f core run vcMismatch} (h : Keeps s₀ s) :
    Keeps s₀ (State.tileEnds rid f core run vcMismatch s) := by
  unfold State.tileEnds
  exact Keeps.ite (State.productEnds_keeps h) (State.vectorEnds_keeps h)

theorem State.linkAnswered_keeps {s₀ s : State} {rid f} (h : Keeps s₀ s) :
    Keeps s₀ (State.linkAnswered rid f s) := by
  unfold State.linkAnswered
  extract_lets x0
  exact State.setLnk_keeps h

theorem State.withTensors_keeps {s₀ s : State} {rid r ins go} (h : Keeps s₀ s)
    (hgo : ∀ y1, Keeps s₀ y1 → Keeps s₀ (go y1)) :
    Keeps s₀ (State.withTensors rid r ins go s) := by
  unfold State.withTensors
  exact State.withObjs_keeps h (fun t0 h1 => hgo _ h1)

theorem State.checkEnded_keeps {s₀ s : State} {rid f core run} (h : Keeps s₀ s) :
    Keeps s₀ (State.checkEnded rid f core run s) := by
  unfold State.checkEnded
  split
  · exact h
  · refine Keeps.ite ?_ h
    split
    · rename_i z6 z7 z8 z9 z10
      have h11 : Keeps s₀ z9 := Keeps.snd_snd_eq (State.productSums_keeps h) z10
      extract_lets x12
      have h13 : Keeps s₀ x12 := State.inc64_keeps h11
      exact Keeps.ite h13 (State.failTile_keeps h13)

theorem execFacetTile_keeps {rid f core run vcMismatch} (s : State) : ∃ t, execFacetTile rid f core run vcMismatch s = .next t ∧ Keeps s t := by
  have h := Keeps.refl s
  refine ⟨_, rfl, ?_⟩
  extract_lets x0
  have h1 : Keeps s x0 := State.linkAnswered_keeps h
  refine Keeps.ite ?_ (State.checkEnded_keeps h)
  split
  · exact State.withTensors_keeps h1 (fun t14 h15 => State.needThen_keeps (State.streamWeights_keeps h15) (fun t16 h17 => State.tileEnds_keeps (State.coreCycles_keeps h17)))
  · exact h1

theorem State.recompute_keeps {s₀ s : State} {f r a faults} (h : Keeps s₀ s) :
    Keeps s₀ (State.recompute f r a faults s).2 := by
  unfold State.recompute
  extract_lets x0 x1
  have h2 : Keeps s₀ x0 := State.coreCycles_keeps h
  split
  · rename_i z3 z4 z5 z6
    have h7 : Keeps s₀ z5 := Keeps.snd_eq (by
      refine Keeps.ite_at (fun (p : TileSums × State) => p.2) ?_ ?_
      · exact State.flipTile_keeps h2
      · exact h2
      ) z6
    dsimp only
    exact State.inc64_keeps (State.raiseIrq_keeps (State.inc_keeps h7))

theorem State.failAgain_keeps {s₀ s : State} {rid f core sums} (h : Keeps s₀ s) :
    Keeps s₀ (State.failAgain rid f core sums s) := by
  unfold State.failAgain
  exact State.detectC1_keeps (State.raiseIrq_keeps (State.abftLast_keeps (State.inc_keeps h)))

theorem execAbftRecompute_keeps {rid f core faults} (s : State) : ∃ t, execAbftRecompute rid f core faults s = .next t ∧ Keeps s t := by
  have h := Keeps.refl s
  refine ⟨_, rfl, ?_⟩
  split
  · rename_i z0 z1 z2 z3
    split
    · exact h
    · refine Keeps.ite ?_ h
      split
      · rename_i z9 z10 z11 z12
        have h13 : Keeps s z11 := Keeps.snd_eq (State.recompute_keeps h) z12
        exact Keeps.ite (State.acceptTile_keeps (State.addCause_keeps (State.inc_keeps h13))) (Keeps.ite (State.strike_keeps (State.acceptTile_keeps (State.addCause_keeps (State.corrected_keeps h13)))) (State.failAgain_keeps h13))
  · split
    · exact h
    · split
      · exact h
      · refine Keeps.ite ?_ h
        split
        · rename_i z27 z28 z29 z30
          have h31 : Keeps s z29 := Keeps.snd_eq (State.recompute_keeps h) z30
          exact Keeps.ite (State.modReq_keeps h31) (State.failAgain_keeps h31)

theorem State.checkFailed_keeps {s₀ s : State} {rid} (h : Keeps s₀ s) :
    Keeps s₀ (State.checkFailed rid s) := by
  unfold State.checkFailed
  split
  · exact h
  · split
    · exact h
    · exact Keeps.ite (State.detectC1_keeps (State.modReq_keeps h)) h

theorem State.checksFailed_keeps {s₀ s : State} (h : Keeps s₀ s) :
    Keeps s₀ (State.checksFailed s) := by
  unfold State.checksFailed
  exact Keeps.foldl h (fun t0 y1 h2 => State.checkFailed_keeps h2)

theorem execExchangeStep_keeps {rid} (s : State) : ∃ t, execExchangeStep rid s = .next t ∧ Keeps s t := by
  have h := Keeps.refl s
  refine ⟨_, rfl, ?_⟩
  split
  · dsimp only
    split
    · exact h
    · refine Keeps.ite (State.needThen_keeps (State.writeTensor_keeps h) (fun u hu => ?_)) h
      exact State.phaseEnd_keeps (State.modReq_keeps (Keeps.foldl hu (fun t x ht => State.inc_keeps ht)))
  · exact h

theorem State.retirePlan_keeps {s₀ s : State} {ws id old} (h : Keeps s₀ s) :
    Keeps s₀ (State.retirePlan ws id old s) := by
  unfold State.retirePlan
  split
  · exact h
  · extract_lets x3 x4
    exact Keeps.ite (State.unpin_keeps h) (State.setSch_keeps h)

theorem State.replacePlan_keeps {s₀ s : State} {ws id p} (h : Keeps s₀ s) :
    Keeps s₀ (State.replacePlan ws id p s) := by
  unfold State.replacePlan
  extract_lets x0 x1 x2
  exact State.retirePlan_keeps (State.setSch_keeps h)

theorem State.loadEnds_keeps {s₀ s : State} {rid} (h : Keeps s₀ s) :
    Keeps s₀ (State.loadEnds rid s) := by
  unfold State.loadEnds
  split
  · exact h
  · split
    · exact h
    · extract_lets x10
      have h11 : Keeps s₀ x10 := State.retirePlan_keeps (State.modReq_keeps h)
      exact State.endReq_keeps h11

theorem State.endLoads_keeps {s₀ s : State} (h : Keeps s₀ s) :
    Keeps s₀ (State.endLoads s) := by
  unfold State.endLoads
  exact Keeps.foldl h (fun t0 y1 h2 => Keeps.ite h2 (State.loadEnds_keeps h2))

theorem execModelLoadComplete_keeps {rid} (s : State) : ∃ t, execModelLoadComplete rid s = .next t ∧ Keeps s t := by
  have h := Keeps.refl s
  refine ⟨_, rfl, ?_⟩
  split
  · exact h
  · exact Keeps.ite (State.loadEnds_keeps h) h

end Sys2Proof.Machine
end

