-- ==== Sys2Proof/Laws/KeepsCell.lean ====
section
/-! SUPPORT. Every operation of `Machine/Cell` keeps the part, the tick, the queue and the canonical forms (`Keeps`), and every command
there answers a next state. -/

namespace Sys2Proof.Machine

theorem State.setFab_keeps {s₀ s : State} {f} (h : Keeps s₀ s) :
    Keeps s₀ (State.setFab f s) := by
  unfold State.setFab
  exact Keeps.same h rfl rfl rfl rfl rfl rfl

end Sys2Proof.Machine
end

