-- ==== Sys2Proof/Laws/KeepsRows.lean ====
section
/-! SUPPORT. Every operation of `Machine/Rows` keeps the part, the tick, the queue and the canonical forms (`Keeps`), and every command
there answers a next state. -/

namespace Sys2Proof.Machine

theorem State.setRows_keeps {s₀ s : State} {r} (h : Keeps s₀ s) :
    Keeps s₀ (State.setRows r s) := by
  unfold State.setRows
  exact Keeps.same h rfl rfl rfl rfl rfl rfl

theorem State.patchTile_keeps {s₀ s : State} {q w id i off fmt layout b} (h : Keeps s₀ s) :
    Keeps s₀ (State.patchTile q w id i off fmt layout b s) := by
  unfold State.patchTile
  split
  · extract_lets x6 x7 x8 x9 x10 x11
    exact State.modSlot_keeps (State.storeFrom_keeps h)
  · exact h

theorem State.farBytes_keeps {s₀ s : State} {a} (h : Keeps s₀ s) :
    Keeps s₀ (State.farBytes a s).2 := by
  unfold State.farBytes
  split
  · refine Keeps.ite_at (fun (p : List Byte × State) => p.2) ?_ ?_
    · exact State.freeBytes_keeps h
    · dsimp only
      exact State.inc_keeps h
  · exact State.freeBytes_keeps h
  · exact h

theorem State.moverRead_keeps {s₀ s : State} {page w id i} (h : Keeps s₀ s) :
    Keeps s₀ (State.moverRead page w id i s).2 := by
  unfold State.moverRead
  split
  · exact h
  · rename_i z2 z3 z4
    extract_lets x5 x6 x7
    have h8 : Keeps s₀ x7 := Keeps.ite (State.readTo_keeps h) (State.countRead_keeps (State.countWrite_keeps (State.crossed_keeps (State.askFar_keeps (State.countRead_keeps h)))))
    refine Keeps.ite_at (fun (p : Option (List Byte) × State) => p.2) ?_ ?_
    · exact h
    · split
      · rename_i z9 z10 z11 z12
        have h13 : Keeps s₀ z11 := Keeps.snd_eq (State.eccRead_keeps h8) z12
        exact h13
      · rename_i z14 z15 z16
        have h17 : Keeps s₀ z15 := Keeps.snd_eq (State.eccRead_keeps h8) z16
        split
        · rename_i z18 z19 z20 z21
          have h22 : Keeps s₀ z20 := Keeps.snd_eq (State.farBytes_keeps h17) z21
          exact h22

theorem State.moverReads_keeps {s₀ s : State} {page w l} (h : Keeps s₀ s) :
    Keeps s₀ (State.moverReads page w l s).2 := by
  unfold State.moverReads
  refine Keeps.foldl_snd h (fun y0 y1 h2 => ?_)
  split
  · rename_i z3 z4 z5 z6
    have h7 : Keeps s₀ z5 := Keeps.snd_eq (State.moverRead_keeps h2) z6
    exact h7

theorem State.comeAll_keeps {s₀ s : State} {l} (h : Keeps s₀ s) : Keeps s₀ (State.comeAll l s).2 := by
  unfold State.comeAll
  refine Keeps.foldl_snd h (fun q x hq => ?_)
  split
  · exact hq
  · exact State.needTile_keeps hq
  · have := State.needTile_keeps (rid := peerRid) (w := x.1) (id := x.2.1) (i := x.2.2) hq
    split
    · rename_i e; rw [e] at this; exact this
    · exact this

theorem State.readAll_keeps {s₀ s : State} {mech page l} (h : Keeps s₀ s) :
    Keeps s₀ (State.readAll mech page l s).2 := by
  unfold State.readAll
  refine Keeps.foldl_snd h (fun y0 y1 h2 => ?_)
  split
  · extract_lets x8
    have h9 : Keeps s₀ x8 := State.readTo_keeps h2
    split
    · rename_i z10 z11 z12 z13
      have h14 : Keeps s₀ z12 := Keeps.snd_eq (State.eccRead_keeps h9) z13
      exact h14
    · rename_i z15 z16 z17
      have h18 : Keeps s₀ z16 := Keeps.snd_eq (State.eccRead_keeps h9) z17
      exact h18
  · exact h2

theorem State.bring_keeps {s₀ s : State} {mech page l} (h : Keeps s₀ s) : Keeps s₀ (State.bring mech page l s).2 := by
  unfold State.bring
  split
  · rename_i e; exact State.readAll_keeps (Keeps.snd_eq (State.comeAll_keeps h) e)
  · exact State.comeAll_keeps h

theorem State.modTab_keeps {s₀ s : State} {table f} (h : Keeps s₀ s) :
    Keeps s₀ (State.modTab table f s) := by
  unfold State.modTab
  extract_lets x0
  exact State.setRows_keeps h

theorem State.touch_keeps {s₀ s : State} {table row} (h : Keeps s₀ s) :
    Keeps s₀ (State.touch table row s) := by
  unfold State.touch
  extract_lets x0 x1
  exact Keeps.ite (State.inc_keeps (State.wr_keeps (State.setRows_keeps h))) (State.wr_keeps (State.setRows_keeps h))

theorem State.clearSketch_keeps {s₀ s : State} (h : Keeps s₀ s) :
    Keeps s₀ (State.clearSketch s) := by
  unfold State.clearSketch
  extract_lets x0
  exact State.wr_keeps (State.setRows_keeps h)

theorem State.refresh_keeps {s₀ s : State} {table row d} (h : Keeps s₀ s) :
    Keeps s₀ (State.refresh table row d s) := by
  unfold State.refresh
  extract_lets x0
  exact State.setRows_keeps h

theorem State.rowBack_keeps {s₀ s : State} {c} (h : Keeps s₀ s) :
    Keeps s₀ (State.rowBack c s) := by
  unfold State.rowBack
  extract_lets x0 x1
  have h2 : Keeps s₀ x1 := State.inc_keeps (State.setRows_keeps h)
  refine Keeps.ite h ?_
  split
  · exact h2
  · split
    · exact h2
    · split
      · exact Keeps.ite (State.writeHome_keeps h2) h2
      · exact h2

theorem State.rowsBack_keeps {s₀ s : State} {p} (h : Keeps s₀ s) :
    Keeps s₀ (State.rowsBack p s) := by
  unfold State.rowsBack
  exact Keeps.foldl h (fun t0 y1 h2 => State.rowBack_keeps h2)

theorem State.admitRow_keeps {s₀ s : State} {table t row d must} (h : Keeps s₀ s) :
    Keeps s₀ (State.admitRow table t row d must s) := by
  unfold State.admitRow
  extract_lets x0 x1 x2
  refine Keeps.ite h ?_
  split
  · dsimp only [x2]
    exact State.inc_keeps (State.setRows_keeps h)
  · split
    · exact h
    · extract_lets x14 x15
      have h16 : Keeps s₀ x14 := State.rowBack_keeps h
      refine Keeps.ite ?_ (State.inc_keeps h)
      dsimp only [x2]
      exact State.inc_keeps (State.setRows_keeps (State.inc_keeps (State.setRows_keeps h16)))

theorem State.readIds_keeps {s₀ s : State} {w objA p} (h : Keeps s₀ s) :
    Keeps s₀ (State.readIds w objA p s) := by
  unfold State.readIds
  refine Keeps.ite h ?_
  refine Keeps.foldl h (fun t0 y1 h2 => ?_)
  split
  · exact State.moverReads_keeps h2
  · exact h2

end Sys2Proof.Machine
end

