-- ==== Sys2Proof/Laws/KeepsAdmit.lean ====
section
/-! SUPPORT. Every operation of `Machine/Admit` keeps the part, the tick, the queue and the canonical forms (`Keeps`), and every command
there answers a next state. -/

namespace Sys2Proof.Machine

theorem State.setSubmits_keeps {s₀ s : State} {w r l} (h : Keeps s₀ s) :
    Keeps s₀ (State.setSubmits w r l s) := by
  unfold State.setSubmits
  extract_lets x0
  exact State.setSch_keeps h

theorem State.advance_keeps {s₀ s : State} {w r n} (h : Keeps s₀ s) :
    Keeps s₀ (State.advance w r n s) := by
  unfold State.advance
  extract_lets x0 x1 x2
  have h3 : Keeps s₀ x0 := State.wr_keeps h
  have h4 : Keeps s₀ x1 := State.setSubmits_keeps h3
  exact State.setSch_keeps h4

theorem State.withdraw_keeps {s₀ s : State} {w r n} (h : Keeps s₀ s) :
    Keeps s₀ (State.withdraw w r n s) := by
  unfold State.withdraw
  exact Keeps.ite h (State.advance_keeps (State.incBy_keeps h))

theorem State.applyCancels_keeps {s₀ s : State} (h : Keeps s₀ s) :
    Keeps s₀ (State.applyCancels s) := by
  unfold State.applyCancels
  extract_lets x0 x1 x2
  have h3 : Keeps s₀ x2 := State.setSch_keeps h
  refine Keeps.foldl h3 (fun t4 x5 h6 => ?_)
  extract_lets x7 x8
  exact State.withdraw_keeps h6

theorem State.snapOf_keeps {s₀ s : State} {w cls units} (h : Keeps s₀ s) :
    Keeps s₀ (State.snapOf s w cls units).2 := by
  unfold State.snapOf
  extract_lets x0
  split
  · split
    · rename_i z1 z2 z3 z4
      have h5 := Keeps.snd_eq (State.freeBits_keeps h) z4
      split
      · rename_i z6 z7 z8 z9
        have h10 := Keeps.snd_eq (State.freeBits_keeps h5) z9
        split
        · rename_i z11 z12 z13 z14
          have h15 := Keeps.snd_eq (State.freeBits_keeps h10) z14
          exact h15
  · exact h

theorem State.endAtOnce_keeps {s₀ s : State} {w r d submit outcome cause units} (h : Keeps s₀ s) :
    Keeps s₀ (State.endAtOnce w r d submit outcome cause units s) := by
  unfold State.endAtOnce
  extract_lets x0 x1 x2
  have h3 : Keeps s₀ x2 := State.advance_keeps h
  split
  · rename_i z4 z5 z6 z7
    have h8 := Keeps.snd_eq (State.snapOf_keeps h3) z7
    exact State.finalRecord_keeps h8

theorem State.takeWant_keeps {s₀ s : State} {rid r x} (h : Keeps s₀ s) :
    Keeps s₀ (State.takeWant rid r x s).2 := by
  unfold State.takeWant
  extract_lets x0 x1
  refine Keeps.ite_at (fun (p : SlotAns × State) => p.2) ?_ ?_
  · split
    · exact h
    · exact h
  · refine Keeps.ite_at (fun (p : SlotAns × State) => p.2) ?_ ?_
    · exact State.takeFor_keeps h (fun t7 h8 => State.takeLocket_keeps h8)
    · exact State.takeFor_keeps h (fun t9 h10 => State.takeTile_keeps h10)

theorem State.pinTo_keeps {s₀ s : State} {r a window} (h : Keeps s₀ s) :
    Keeps s₀ (State.pinTo r a window s) := by
  unfold State.pinTo
  split
  · exact h
  · extract_lets x5 x6
    exact State.setSch_keeps h

theorem State.gotWant_keeps {s₀ s : State} {rid r x a borrowed} (h : Keeps s₀ s) :
    Keeps s₀ (State.gotWant rid r x a borrowed s) := by
  unfold State.gotWant
  extract_lets x0 x1 x2 x3 x4
  have h5 : Keeps s₀ x1 := State.modReq_keeps h
  have h6 : Keeps s₀ x2 := State.putSlot_keeps h5
  have h7 : Keeps s₀ x3 := State.pinTo_keeps h6
  have h8 : Keeps s₀ x4 := Keeps.ite (State.syncLent_keeps h7) h7
  refine Keeps.ite (State.modObj_keeps (State.putSlot_keeps h5)) ?_
  split
  · exact Keeps.ite (State.started_keeps (State.issueFetch_keeps h8)) h8
  · exact h8

theorem State.endWant_keeps {s₀ s : State} {rid r outcome} (h : Keeps s₀ s) :
    Keeps s₀ (State.endWant rid r outcome s) := by
  unfold State.endWant
  extract_lets x0
  have h1 : Keeps s₀ x0 := Keeps.ite (State.releaseObj_keeps h) h
  exact State.endReq_keeps h1

theorem State.wantsDone_keeps {s₀ s : State} {rid r} (h : Keeps s₀ s) :
    Keeps s₀ (State.wantsDone rid r s) := by
  unfold State.wantsDone
  exact Keeps.ite (State.endReq_keeps h) (Keeps.ite h (State.loadEnds_keeps h))

theorem State.doWants_keeps {s₀ s : State} {rid a1} (h : Keeps s₀ s) :
    Keeps s₀ (State.doWants rid a1 s) := by
  induction a1 generalizing rid s with
  | zero => 
    unfold State.doWants
    exact h
  | succ z0 ih => 
    unfold State.doWants
    split
    · exact h
    · split
      · exact State.wantsDone_keeps h
      · split
        · rename_i z1 z2 z3 z4 z5
          have h6 := Keeps.snd_eq (State.takeWant_keeps h) z5
          exact ih (State.gotWant_keeps h6)
        · rename_i z7 z8 z9 z10
          have h11 := Keeps.snd_eq (State.takeWant_keeps h) z10
          exact h11
        · rename_i z12 z13 z14 z15
          have h16 := Keeps.snd_eq (State.takeWant_keeps h) z15
          exact State.endWant_keeps h16

theorem State.retryWants_keeps {s₀ s : State} (h : Keeps s₀ s) :
    Keeps s₀ (State.retryWants s) := by
  unfold State.retryWants
  refine Keeps.foldl h (fun t0 x1 h2 => ?_)
  split
  · exact h2
  · exact State.doWants_keeps h2

theorem State.doAlloc_keeps {s₀ s : State} {rid w d} (h : Keeps s₀ s) :
    Keeps s₀ (State.doAlloc rid w d s) := by
  unfold State.doAlloc
  split
  · exact State.endReq_keeps h
  · extract_lets x0 x1 x2 x3 x4 x5
    have h6 : Keeps s₀ x3 := State.setCk_keeps h
    have h7 : Keeps s₀ x5 := State.modReq_keeps h6
    exact Keeps.ite (State.endReq_keeps h) (State.syncLent_keeps (State.doWants_keeps h7))

theorem State.doFree_keeps {s₀ s : State} {rid w d} (h : Keeps s₀ s) :
    Keeps s₀ (State.doFree rid w d s) := by
  unfold State.doFree
  extract_lets x0
  exact Keeps.ite (State.endReq_keeps h) (State.finishFrees_keeps (State.modObj_keeps h))

theorem State.doFlush_keeps {s₀ s : State} {rid w d} (h : Keeps s₀ s) :
    Keeps s₀ (State.doFlush rid w d s) := by
  unfold State.doFlush
  extract_lets x0 x1
  have h5 : Keeps s₀ x1 := Keeps.foldl h (fun t2 y3 h4 => State.started_keeps (State.writeHome_keeps h4))
  refine Keeps.ite (State.endReq_keeps h) ?_
  split
  · exact h5
  · exact State.endReq_keeps h5

theorem State.imageOf_keeps {s₀ s : State} {w id} (h : Keeps s₀ s) :
    Keeps s₀ (State.imageOf w id s).2 := by
  unfold State.imageOf
  refine Keeps.ite_at (fun (p : Option (List Byte) × State) => p.2) ?_ ?_
  · exact h
  · split
    · rename_i z0 z1 z2 z3
      have h4 : Keeps s₀ z2 := Keeps.snd_eq (State.moverReads_keeps h) z3
      exact h4

theorem State.iseBad_keeps {s₀ s : State} {w p} (h : Keeps s₀ s) :
    Keeps s₀ (State.iseBad w p s).2 := by
  unfold State.iseBad
  extract_lets x0
  split
  · exact h
  · refine Keeps.ite_at (fun (p : Bool × State) => p.2) ?_ ?_
    · exact h
    · split
      · rename_i z6 z7 z8 z9
        have h10 : Keeps s₀ z8 := Keeps.snd_eq (State.imageOf_keeps h) z9
        exact h10

theorem State.acceptLoad_keeps {s₀ s : State} {rid r p} (h : Keeps s₀ s) :
    Keeps s₀ (State.acceptLoad rid r p s) := by
  unfold State.acceptLoad
  extract_lets x0 x1 x2
  exact State.setSch_keeps h

theorem State.tryLoad_keeps {s₀ s : State} {rid r plan} (h : Keeps s₀ s) :
    Keeps s₀ (State.tryLoad rid r plan s) := by
  unfold State.tryLoad
  split
  · rename_i z0 z1 z2 z3
    have h4 : Keeps s₀ z2 := Keeps.snd_eq (State.iseBad_keeps h) z3
    extract_lets x5
    refine Keeps.ite (State.endReq_keeps h4) ?_
    refine Keeps.ite (State.endReq_keeps h4) ?_
    split
    · exact State.loadEnds_keeps (State.acceptLoad_keeps h4)
    · split
      · exact State.endReq_keeps h4
      · split
        · exact State.endReq_keeps h4
        · extract_lets x23
          exact State.doWants_keeps (State.modReq_keeps (State.acceptLoad_keeps h4))

theorem State.doLoad_keeps {s₀ s : State} {rid w d} (h : Keeps s₀ s) :
    Keeps s₀ (State.doLoad rid w d s) := by
  unfold State.doLoad
  split
  · exact h
  · refine Keeps.ite (State.endReq_keeps (State.replacePlan_keeps h)) ?_
    split
    · exact State.endReq_keeps h
    · refine Keeps.ite (State.endReq_keeps h) ?_
      split
      · rename_i z10 z11 z12
        have h13 : Keeps s₀ z11 := Keeps.snd_eq (State.imageOf_keeps h) z12
        exact State.endReq_keeps h13
      · rename_i z14 z15 z16 z17
        have h18 : Keeps s₀ z16 := Keeps.snd_eq (State.imageOf_keeps h) z17
        exact State.tryLoad_keeps h18

theorem State.preempt_keeps {s₀ s : State} {rid overload} (h : Keeps s₀ s) :
    Keeps s₀ (State.preempt rid overload s) := by
  unfold State.preempt
  exact State.modReq_keeps h

theorem State.begins_keeps {s₀ s : State} {rid w d q} (h : Keeps s₀ s) :
    Keeps s₀ (State.begins rid w d q s) := by
  unfold State.begins
  exact Keeps.ite (State.endReq_keeps h) (Keeps.ite (State.doAlloc_keeps h) (Keeps.ite (State.doFree_keeps h) (Keeps.ite (State.doLoad_keeps h) (Keeps.ite (State.doFlush_keeps h) (Keeps.ite (State.startStep_keeps (State.modReq_keeps h)) h)))))

theorem State.takeIn_keeps {s₀ s : State} {w r d submit loan} (h : Keeps s₀ s) :
    Keeps s₀ (State.takeIn w r d submit loan s) := by
  unfold State.takeIn
  extract_lets x0 x1 x2 x3 x4 x5 x6
  have h7 : Keeps s₀ x2 := State.reserve_keeps (State.advance_keeps h)
  have h8 : Keeps s₀ x6 := State.setSch_keeps h7
  split
  · rename_i z9 z10 z11 z12
    have h13 : Keeps s₀ z11 := Keeps.snd_eq (State.snapOf_keeps h8) z12
    extract_lets x14 x15
    have h16 : Keeps s₀ x14 := State.inc_keeps (State.modReq_keeps h13)
    have h17 : Keeps s₀ x15 := Keeps.ite (State.goto_keeps h16) h16
    exact State.finish_keeps (State.begins_keeps h17)

theorem State.holdOver_keeps {s₀ s : State} {w r} (h : Keeps s₀ s) :
    Keeps s₀ (State.holdOver w r s) := by
  unfold State.holdOver
  extract_lets x0
  exact State.setSch_keeps h

theorem State.fetchDesc_keeps {s₀ s : State} {w r} (h : Keeps s₀ s) :
    Keeps s₀ (State.fetchDesc w r s).2 := by
  unfold State.fetchDesc
  extract_lets x0
  refine Keeps.ite_at (fun (p : Option Nat × State) => p.2) ?_ ?_
  · exact h
  · exact State.eccRead_keeps (State.readTo_keeps h)

theorem State.fetchRsds_keeps {s₀ s : State} {w d} (h : Keeps s₀ s) :
    Keeps s₀ (State.fetchRsds w d s).2 := by
  unfold State.fetchRsds
  extract_lets x0 x1
  split
  · exact h
  · refine Keeps.foldl_snd h (fun y7 y8 h9 => ?_)
    refine Keeps.ite_at (fun (p : Option Nat × State) => p.2) ?_ ?_
    · exact h9
    · exact State.eccRead_keeps (State.readTo_keeps h9)

theorem State.fetchHead_keeps {s₀ s : State} {w r d} (h : Keeps s₀ s) :
    Keeps s₀ (State.fetchHead w r d s).2 := by
  unfold State.fetchHead
  split
  · rename_i z0 z1 z2 z3
    have h4 : Keeps s₀ z2 := Keeps.snd_eq (State.fetchDesc_keeps h) z3
    refine Keeps.ite_at (fun (p : Option Nat × State) => p.2) ?_ ?_
    · exact h4
    · exact State.fetchRsds_keeps h4

theorem State.headIds_keeps {s₀ s : State} {w d} (h : Keeps s₀ s) :
    Keeps s₀ (State.headIds w d s) := by
  unfold State.headIds
  split
  · exact State.readIds_keeps h
  · exact h

theorem State.decideHead_keeps {s₀ s : State} {w r d} (h : Keeps s₀ s) :
    Keeps s₀ (State.decideHead w r d s).2 := by
  unfold State.decideHead
  extract_lets x0 x1
  split
  · rename_i z2 z3 z4 z5
    have h6 : Keeps s₀ z4 := Keeps.snd_eq (by
      refine Keeps.ite_at (fun (p : Option Nat × State) => p.2) ?_ ?_
      · exact h
      · exact State.fetchHead_keeps h
      ) z5
    extract_lets x7 x8 x9 x10
    have h11 : Keeps s₀ x9 := State.headIds_keeps h6
    refine Keeps.ite_at (fun (p : Bool × State) => p.2) ?_ ?_
    · dsimp only
      exact State.raiseIrq_keeps (State.setW1c_keeps h6)
    · refine Keeps.ite_at (fun (p : Bool × State) => p.2) ?_ ?_
      · dsimp only [x1]
        exact State.endAtOnce_keeps h6
      · refine Keeps.ite_at (fun (p : Bool × State) => p.2) ?_ ?_
        · dsimp only [x1]
          exact State.endAtOnce_keeps h6
        · refine Keeps.ite_at (fun (p : Bool × State) => p.2) ?_ ?_
          · split
            · dsimp only [x8]
              exact State.endAtOnce_keeps (State.rsdBadStat_keeps h6)
            · dsimp only [x1]
              exact State.endAtOnce_keeps h6
          · split
            · dsimp only [x8]
              exact State.endAtOnce_keeps h11
            · refine Keeps.ite_at (fun (p : Bool × State) => p.2) ?_ ?_
              · dsimp only [x8]
                exact State.endAtOnce_keeps h11
              · refine Keeps.ite_at (fun (p : Bool × State) => p.2) ?_ ?_
                · dsimp only [x8]
                  exact State.endAtOnce_keeps h11
                · refine Keeps.ite_at (fun (p : Bool × State) => p.2) ?_ ?_
                  · dsimp only
                    exact State.takeIn_keeps h11
                  · refine Keeps.ite_at (fun (p : Bool × State) => p.2) ?_ ?_
                    · dsimp only
                      exact State.takeIn_keeps h11
                    · refine Keeps.ite_at (fun (p : Bool × State) => p.2) ?_ ?_
                      · dsimp only
                        exact State.takeIn_keeps (Keeps.foldl h11 (fun t22 y23 h24 => State.preempt_keeps h24))
                      · refine Keeps.ite_at (fun (p : Bool × State) => p.2) ?_ ?_
                        · dsimp only
                          exact State.holdOver_keeps h11
                        · refine Keeps.ite_at (fun (p : Bool × State) => p.2) ?_ ?_
                          · refine Keeps.ite_at (fun (p : Bool × State) => p.2) ?_ ?_
                            · dsimp only [x8]
                              exact State.endAtOnce_keeps h11
                            · dsimp only
                              exact State.holdOver_keeps h11
                          · dsimp only [x8]
                            exact State.endAtOnce_keeps h11

theorem State.admitLoop_keeps {s₀ s : State} {a0 a1} (h : Keeps s₀ s) :
    Keeps s₀ (State.admitLoop a0 a1 s) := by
  induction a0 generalizing a1 s with
  | zero => 
    unfold State.admitLoop
    exact h
  | succ z0 ih => 
    unfold State.admitLoop
    split
    · exact h
    · split
      · rename_i z1 z2 z3
        have h4 := Keeps.snd_eq (State.decideHead_keeps h) z3
        exact ih h4
      · rename_i z5 z6 z7
        have h8 := Keeps.snd_eq (State.decideHead_keeps h) z7
        exact ih h8

theorem State.admission_keeps {s₀ s : State} (h : Keeps s₀ s) :
    Keeps s₀ (State.admission s) := by
  unfold State.admission
  extract_lets x0
  have h1 : Keeps s₀ x0 := State.applyCancels_keeps h
  exact Keeps.ite (State.admitLoop_keeps h1) h1

end Sys2Proof.Machine
end

