-- ==== Sys2Proof/Laws/KeepsMapRows.lean ====
section
/-! SUPPORT. Every operation of `Machine/MapRows` keeps the part, the tick, the queue and the canonical forms (`Keeps`), and every command
there answers a next state. -/

namespace Sys2Proof.Machine

theorem State.usedShadow_keeps {s₀ s : State} {t} (h : Keeps s₀ s) :
    Keeps s₀ (State.usedShadow t s).2 := by
  unfold State.usedShadow
  refine Keeps.ite_at (fun (p : List Nat × State) => p.2) ?_ ?_
  · split
    · rename_i z0 z1 z2 z3
      have h4 : Keeps s₀ z2 := Keeps.snd_eq (State.moverReads_keeps h) z3
      exact h4
  · exact h

theorem State.tblStat_keeps {s₀ s : State} {table result reason} (h : Keeps s₀ s) :
    Keeps s₀ (State.tblStat table result reason s) := by
  unfold State.tblStat
  exact State.wr_keeps (State.wr_keeps (State.wr_keeps h))

theorem State.setActive_keeps {s₀ s : State} {table b} (h : Keeps s₀ s) :
    Keeps s₀ (State.setActive table b s) := by
  unfold State.setActive
  exact State.putBit_keeps h

theorem State.dirEntry_keeps {s₀ s : State} {table} (h : Keeps s₀ s) :
    Keeps s₀ (State.dirEntry table s).2 := by
  unfold State.dirEntry
  exact State.blockRead_keeps h

theorem State.tblAct_keeps {s₀ s : State} {table} (h : Keeps s₀ s) :
    Keeps s₀ (State.tblAct table s) := by
  unfold State.tblAct
  refine Keeps.ite h ?_
  refine Keeps.ite (State.tblStat_keeps h) ?_
  split
  · rename_i z0 z1 z2 z3
    have h4 : Keeps s₀ z2 := Keeps.snd_eq (State.dirEntry_keeps h) z3
    extract_lets x5 x6 x7
    refine Keeps.ite (State.tblStat_keeps h4) ?_
    split
    · rename_i z8 z9 z10 z11
      have h12 : Keeps s₀ z10 := Keeps.snd_eq (State.usedShadow_keeps h4) z11
      extract_lets x13 x14
      have h15 : Keeps s₀ x14 := State.setRows_keeps h12
      exact State.tblStat_keeps (State.setActive_keeps h15)

theorem execTblCmdAct_keeps {rq table} (s : State) : ∃ t, execTblCmdAct rq table s = .next t ∧ Keeps s t :=
  have h := Keeps.refl s
  ⟨_, rfl, State.access_keeps h (fun t0 h1 => State.tblAct_keeps h1)⟩

theorem State.dropTable_keeps {s₀ s : State} {table} (h : Keeps s₀ s) :
    Keeps s₀ (State.dropTable table s) := by
  unfold State.dropTable
  extract_lets x0 x1
  have h2 : Keeps s₀ x0 := State.rowsBack_keeps h
  exact State.setActive_keeps (State.setRows_keeps h2)

theorem State.tblDeact_keeps {s₀ s : State} {table} (h : Keeps s₀ s) :
    Keeps s₀ (State.tblDeact table s) := by
  unfold State.tblDeact
  exact Keeps.ite h (Keeps.ite (State.tblStat_keeps h) (Keeps.ite (State.tblStat_keeps (State.modTab_keeps h)) (State.tblStat_keeps (State.dropTable_keeps h))))

theorem execTblCmdDeact_keeps {rq table} (s : State) : ∃ t, execTblCmdDeact rq table s = .next t ∧ Keeps s t :=
  have h := Keeps.refl s
  ⟨_, rfl, State.access_keeps h (fun t0 h1 => State.tblDeact_keeps h1)⟩

theorem execTableDeactComplete_keeps {table} (s : State) : ∃ t, execTableDeactComplete table s = .next t ∧ Keeps s t := by
  have h := Keeps.refl s
  refine ⟨_, rfl, ?_⟩
  split
  · exact h
  · extract_lets x0
    have h1 : Keeps s x0 := State.dropTable_keeps h
    exact Keeps.ite (Keeps.ite (State.tblStat_keeps h1) h1) h

theorem State.badRow_keeps {s₀ s : State} {g} (h : Keeps s₀ s) :
    Keeps s₀ (State.badRow g s) := by
  unfold State.badRow
  exact State.inc_keeps h

theorem State.joinBatch_keeps {s₀ s : State} {l} (h : Keeps s₀ s) :
    Keeps s₀ (State.joinBatch l s) := by
  unfold State.joinBatch
  extract_lets x0
  exact State.setRows_keeps h

theorem State.looked_keeps {s₀ s : State} {table row t} (h : Keeps s₀ s) :
    Keeps s₀ (State.looked table row t s) := by
  unfold State.looked
  exact Keeps.ite (State.touch_keeps h) h

theorem State.lookup_keeps {s₀ s : State} {rid g table t pos row} (h : Keeps s₀ s) :
    Keeps s₀ (State.lookup rid g table t pos row s).2 := by
  unfold State.lookup
  extract_lets x0 x1
  have h2 : Keeps s₀ x0 := State.inc64_keeps h
  have h3 : Keeps s₀ x1 := Keeps.ite (State.touch_keeps h2) h2
  split
  · exact h
  · split
    · dsimp only
      exact State.badRow_keeps h
    · split
      · exact h2
      · split
        · dsimp only
          exact State.joinBatch_keeps (State.inc64_keeps h3)
        · split
          · extract_lets x4
            dsimp only
            exact State.joinBatch_keeps h3
      · dsimp only
        exact State.joinBatch_keeps h2

theorem State.needTiles_keeps {s₀ s : State} {rid l} (h : Keeps s₀ s) :
    Keeps s₀ (State.needTiles rid l s).2 := by
  unfold State.needTiles
  refine Keeps.foldl_snd h (fun y0 y1 h2 => ?_)
  split
  · exact h2
  · exact State.useTile_keeps h2
  · split
    · rename_i z11 z12 z13
      have h14 : Keeps s₀ z12 := Keeps.snd_eq (State.useTile_keeps h2) z13
      exact h14
    · exact State.useTile_keeps h2

theorem State.lookupAll_keeps {s₀ s : State} {rid g table t rows} (h : Keeps s₀ s) :
    Keeps s₀ (State.lookupAll rid g table t rows s).2 := by
  unfold State.lookupAll
  split
  · rename_i z0 z1 z2
    have h3 := Keeps.snd_eq (State.needTiles_keeps h) z2
    split
    · rename_i z4 z5 z6
      have h7 := Keeps.snd_eq (by
          refine Keeps.foldl_snd h3 (fun x8 x9 h10 => ?_)
          split
          · exact State.lookup_keeps h10
          · exact h10
        ) z6
      dsimp only
      exact State.modReq_keeps h7
    · rename_i z11 z12
      refine Keeps.foldl_snd h3 (fun x13 x14 h15 => ?_)
      split
      · exact State.lookup_keeps h15
      · exact h15
  · rename_i z16 z17
    exact State.needTiles_keeps h

theorem State.rowEcc_keeps {s₀ s : State} {g rid} (h : Keeps s₀ s) :
    Keeps s₀ (State.rowEcc g rid s).2 := by
  unfold State.rowEcc
  extract_lets x0 x1
  have h2 : Keeps s₀ x1 := State.wr_keeps h
  split
  · exact h
  · split
    · dsimp only
      exact State.corrected_keeps h2
    · dsimp only
      exact State.detectC1_keeps h2

theorem State.deliver_keeps {s₀ s : State} {l d} (h : Keeps s₀ s) :
    Keeps s₀ (State.deliver l d s) := by
  unfold State.deliver
  extract_lets x0 x1
  have h2 : Keeps s₀ x1 := State.setRows_keeps h
  split
  · exact h2
  · exact Keeps.ite (State.admitRow_keeps h2) h2

theorem State.readRow_keeps {s₀ s : State} {l t} (h : Keeps s₀ s) :
    Keeps s₀ (State.readRow l t s) := by
  unfold State.readRow
  split
  · split
    · rename_i z2 z3 z4 z5
      have h6 : Keeps s₀ z4 := Keeps.snd_eq (State.freeBits_keeps h) z5
      exact State.deliver_keeps h6
  · refine State.needThen_keeps (State.useTile_keeps h) (fun t12 h13 => ?_)
    split
    · rename_i z14 z15 z16
      have h17 : Keeps s₀ z15 := Keeps.snd_eq (State.rowEcc_keeps h13) z16
      exact h17
    · rename_i z18 z19 z20
      have h21 : Keeps s₀ z19 := Keeps.snd_eq (State.rowEcc_keeps h13) z20
      extract_lets x22
      exact Keeps.ite (State.deliver_keeps h21) (State.detectC1_keeps h21)

theorem State.readPointer_keeps {s₀ s : State} {l t} (h : Keeps s₀ s) :
    Keeps s₀ (State.readPointer l t s) := by
  unfold State.readPointer
  extract_lets x0
  split
  · dsimp only [x0]
    exact State.setRows_keeps (State.inc64_keeps (State.looked_keeps h))
  · refine State.needThen_keeps (State.useTile_keeps h) (fun t6 h7 => ?_)
    split
    · dsimp only [x0]
      exact State.setRows_keeps (State.looked_keeps h7)

theorem State.serveLookups_keeps {s₀ s : State} {rid} (h : Keeps s₀ s) :
    Keeps s₀ (State.serveLookups rid s) := by
  unfold State.serveLookups
  refine Keeps.foldl h (fun t0 y1 h2 => ?_)
  split
  · exact h2
  · refine Keeps.ite ?_ ?_
    · split
      · exact h2
      · exact State.readPointer_keeps h2
    · refine Keeps.ite ?_ h2
      split
      · exact h2
      · exact State.readRow_keeps h2

theorem State.writeRows_keeps {s₀ s : State} {rid r t rows out fmt raw} (h : Keeps s₀ s) :
    Keeps s₀ (State.writeRows rid r t rows out fmt raw s) := by
  unfold State.writeRows
  extract_lets x0 x1 x2 x3 x4 x5 x6
  have h7 : Keeps s₀ x6.2 := by
    unfold x6
    refine Keeps.foldl_snd h (fun x8 x9 h10 => ?_)
    split
    · split
      · rename_i z11 z12 z13
        have h14 := Keeps.snd_eq (State.putTile_keeps h10) z13
        dsimp only
        exact State.modReq_keeps h14
      · rename_i z15 z16
        exact State.putTile_keeps h10
    · exact h10
  refine State.needThen_keeps h7 (fun t17 h18 => ?_)
  extract_lets x19 x20
  have h21 : Keeps s₀ x20 := State.setRows_keeps h18
  exact State.stepDone_keeps (Keeps.ite (State.addCause_keeps h21) h21)

theorem State.gatherOn_keeps {s₀ s : State} {rid r t ids out fmt raw} (h : Keeps s₀ s) :
    Keeps s₀ (State.gatherOn rid r t ids out fmt raw s) := by
  unfold State.gatherOn
  extract_lets x0
  have h1 : Keeps s₀ x0 := State.serveLookups_keeps h
  split
  · exact h1
  · exact Keeps.ite (State.writeRows_keeps h1) h1

theorem execGather_keeps {rid g} (s : State) : ∃ t, execGather rid g s = .next t ∧ Keeps s t := by
  have h := Keeps.refl s
  refine ⟨_, rfl, ?_⟩
  split
  · refine Keeps.ite h ?_
    split
    · exact State.endReq_keeps h
    · exact State.withInputs_keeps h (fun t0 h1 => Keeps.ite (State.needThen_keeps (State.lookupAll_keeps h1) (fun t2 h3 => State.gatherOn_keeps h3)) (State.gatherOn_keeps h1))
  · exact h

theorem State.setGen_keeps {s₀ s : State} {g v} (h : Keeps s₀ s) :
    Keeps s₀ (State.setGen g v s) := by
  unfold State.setGen
  extract_lets x0
  exact State.setRows_keeps h

theorem State.waitOnce_keeps {s₀ s : State} {k f} (h : Keeps s₀ s) :
    Keeps s₀ (State.waitOnce k f s) := by
  unfold State.waitOnce
  extract_lets x0
  exact Keeps.ite h (State.inc_keeps (State.setRows_keeps h))

theorem State.shadowWait_keeps {s₀ s : State} {g} (h : Keeps s₀ s) :
    Keeps s₀ (State.shadowWait g s) := by
  unfold State.shadowWait
  exact State.raiseIrq_keeps (State.waitOnce_keeps h)

theorem State.mergeWait_keeps {s₀ s : State} {g} (h : Keeps s₀ s) :
    Keeps s₀ (State.mergeWait g s) := by
  unfold State.mergeWait
  exact State.raiseIrq_keeps (State.waitOnce_keeps h)

theorem State.replaceRow_keeps {s₀ s : State} {rid peer g table t row slot isPut version vals} (h : Keeps s₀ s) :
    Keeps s₀ (State.replaceRow rid peer g table t row slot isPut version vals s) := by
  unfold State.replaceRow
  split
  · extract_lets x4 x5 x6
    have h7 : Keeps s₀ x4 := Keeps.ite (State.admitRow_keeps h) h
    split
    · extract_lets x12 x13 x14 x15
      have h16 : Keeps s₀ x12 := State.setGen_keeps h7
      have h26 : Keeps s₀ x13 := by
        unfold x13
        split
        · exact h16
        · exact Keeps.ite (State.addCause_keeps h16) h16
      have h27 : Keeps s₀ x14 := State.raiseIrq_keeps (State.inc_keeps h26)
      have h41 : Keeps s₀ x15 := by
        unfold x15
        split
        · exact State.addCause_keeps h27
        · exact h27
      split
      · split
        · exact State.emit_keeps h41
        · exact h41
      · split
        · exact h26
        · extract_lets x57 x58
          have h59 : Keeps s₀ x57 := State.modTab_keeps (State.patchTile_keeps h26)
          exact State.setRows_keeps h59

theorem State.updateRow_keeps {s₀ s : State} {rid g table t pos row isPut vals} (h : Keeps s₀ s) :
    Keeps s₀ (State.updateRow rid g table t pos row isPut vals s).2 := by
  unfold State.updateRow
  extract_lets x0
  split
  · dsimp only
    exact State.endReq_keeps h
  · dsimp only
    exact State.joinBatch_keeps h
  · rename_i z6 z7
    split
    · dsimp only
      exact State.endReq_keeps h
    · dsimp only
      exact State.endReq_keeps h
    · exact h
    · refine Keeps.ite_at (fun (p : RowAns × State) => p.2) ?_ ?_
      · exact h
      · split
        · dsimp only
          exact State.shadowWait_keeps h
        · split
          · rename_i z23 z24 z25 z26 z27
            have h28 : Keeps s₀ z26 := Keeps.snd_eq (State.useTile_keeps h) z27
            dsimp only
            exact State.endReq_keeps h28
          · rename_i z29 z30 z31
            have h32 : Keeps s₀ z30 := Keeps.snd_eq (State.useTile_keeps h) z31
            exact h32
          · rename_i z33 z34 z35
            have h36 : Keeps s₀ z34 := Keeps.snd_eq (State.useTile_keeps h) z35
            split
            · extract_lets x41 x42
              split
              · rename_i z43 z44 z45 z46 z47
                have h48 : Keeps s₀ z46 := Keeps.snd_eq (State.needTiles_keeps h36) z47
                dsimp only
                exact State.endReq_keeps h48
              · rename_i z49 z50 z51
                have h52 : Keeps s₀ z50 := Keeps.snd_eq (State.needTiles_keeps h36) z51
                exact h52
              · rename_i z53 z54 z55
                have h56 : Keeps s₀ z54 := Keeps.snd_eq (State.needTiles_keeps h36) z55
                split
                · rename_i z57 z58 z59
                  have h60 : Keeps s₀ z58 := Keeps.snd_eq (by
                    refine Keeps.ite_at (fun (p : Bool × State) => p.2) ?_ ?_
                    · exact State.rowEcc_keeps h56
                    · exact h56
                    ) z59
                  exact h60
                · rename_i z61 z62 z63
                  have h64 : Keeps s₀ z62 := Keeps.snd_eq (by
                    refine Keeps.ite_at (fun (p : Bool × State) => p.2) ?_ ?_
                    · exact State.rowEcc_keeps h56
                    · exact h56
                    ) z63
                  dsimp only
                  exact State.replaceRow_keeps h64

theorem State.rmwLoop_keeps {s₀ s : State} {rid g table isPut rows vecs a6} (h : Keeps s₀ s) :
    Keeps s₀ (State.rmwLoop rid g table isPut rows vecs a6 s) := by
  induction a6 generalizing rid g table isPut rows vecs s with
  | zero => 
    unfold State.rmwLoop
    exact h
  | succ z0 ih => 
    unfold State.rmwLoop
    split
    · split
      · exact h
      · extract_lets x1
        have h2 : ∀ y1, Keeps s₀ y1 → Keeps s₀ (x1 y1) :=
          fun t3 h4 => State.modReq_keeps h4
        refine Keeps.ite (ih (h2 _ h)) ?_
        refine Keeps.ite (State.endReq_keeps (State.badRow_keeps h)) ?_
        split
        · rename_i z5 z6 z7
          have h8 := Keeps.snd_eq (State.updateRow_keeps h) z7
          exact ih (h2 _ h8)
        · rename_i z9 z10 z11 z12 z13
          have h14 := Keeps.snd_eq (State.updateRow_keeps h) z13
          exact h14
    · exact h

theorem State.accWrite_keeps {s₀ s : State} {rid g elems row} (h : Keeps s₀ s) :
    Keeps s₀ (State.accWrite rid g elems row s) := by
  unfold State.accWrite
  split
  · exact h
  · extract_lets x5
    have h6 : Keeps s₀ x5 := State.countWrite_keeps h
    exact Keeps.ite (State.crossed_keeps h6) h6

theorem State.accRead_keeps {s₀ s : State} {rid w g elems row} (h : Keeps s₀ s) :
    Keeps s₀ (State.accRead rid w g elems row s).2 := by
  unfold State.accRead
  split
  · exact h
  · split
    · rename_i z5 z6 z7 z8
      have h9 : Keeps s₀ z7 := Keeps.snd_eq (State.eccRead_keeps (State.readTo_keeps h)) z8
      dsimp only
      exact State.endFor_keeps h9
    · rename_i z10 z11 z12
      have h13 : Keeps s₀ z11 := Keeps.snd_eq (State.eccRead_keeps (State.readTo_keeps h)) z12
      exact h13

theorem State.flushLoop_keeps {s₀ s : State} {rid g table n} (h : Keeps s₀ s) :
    Keeps s₀ (State.flushLoop rid g table n s).2 := by
  induction n generalizing s with
  | zero => exact h
  | succ n ih =>
    unfold State.flushLoop
    split
    · exact h
    · split
      · next e => exact Keeps.snd_eq (State.accRead_keeps h) e
      · next e =>
        have hu := Keeps.snd_eq (State.accRead_keeps h) e
        split
        · next e => exact ih (State.setRows_keeps (Keeps.snd_eq (State.updateRow_keeps hu) e))
        · next e => exact Keeps.snd_eq (State.updateRow_keeps hu) e
    · exact h

theorem State.takeScratch_keeps {s₀ s : State} {rid w tier n} (h : Keeps s₀ s) :
    Keeps s₀ (State.takeScratch rid w tier n s).2 := by
  have ht : ∀ {u : State}, Keeps s₀ u → Keeps s₀ (u.takeFor rid tier 0 (State.takeTile w tier 0 true)).2 :=
    fun hu => State.takeFor_keeps hu (fun _ hy => State.takeTile_keeps hy)
  induction n generalizing s with
  | zero => exact h
  | succ n ih =>
    unfold State.takeScratch
    split
    · next e => exact ih (State.putSlot_keeps (Keeps.snd_eq (ht h) e))
    · next e => exact Keeps.snd_eq (ht h) e
    · next e => exact Keeps.snd_eq (ht h) e

theorem State.accumulate_keeps {s₀ s : State} {rid w g table elems row grad} (h : Keeps s₀ s) :
    Keeps s₀ (State.accumulate rid w g table elems row grad s).2 := by
  unfold State.accumulate
  extract_lets x0
  split
  · rename_i z1 z2 z3
    split
    · rename_i z4 z5 z6
      have h7 : Keeps s₀ z5 := Keeps.snd_eq (State.accRead_keeps h) z6
      exact h7
    · rename_i z8 z9 z10
      have h11 : Keeps s₀ z9 := Keeps.snd_eq (State.accRead_keeps h) z10
      extract_lets x12
      dsimp only
      exact State.setRows_keeps (State.accWrite_keeps h11)
  · split
    · rename_i z15 z16 z17 z18 z19
      have h20 : Keeps s₀ z18 := Keeps.snd_eq (State.takeScratch_keeps h) z19
      dsimp only
      exact State.endReq_keeps h20
    · rename_i z21 z22 z23
      have h24 : Keeps s₀ z22 := Keeps.snd_eq (State.takeScratch_keeps h) z23
      exact h24
    · rename_i z25 z26 z27
      have h28 : Keeps s₀ z26 := Keeps.snd_eq (State.takeScratch_keeps h) z27
      extract_lets x29
      dsimp only
      exact State.accWrite_keeps (State.setRows_keeps h28)

theorem State.mergeLoop_keeps {s₀ s : State} {rid g table rows vecs a5} (h : Keeps s₀ s) :
    Keeps s₀ (State.mergeLoop rid g table rows vecs a5 s) := by
  induction a5 generalizing rid g table rows vecs s with
  | zero => 
    unfold State.mergeLoop
    exact h
  | succ z0 ih => 
    unfold State.mergeLoop
    split
    · refine Keeps.ite ?_ ?_
      · split
        · rename_i z1 z2 z3
          have h4 := Keeps.snd_eq (State.flushLoop_keeps h) z3
          exact ih (State.modReq_keeps h4)
        · rename_i z5 z6 z7
          have h8 := Keeps.snd_eq (State.flushLoop_keeps h) z7
          exact h8
      · split
        · exact State.flushLoop_keeps h
        · extract_lets x9 x10 x11
          have h12 : ∀ y1, Keeps s₀ y1 → Keeps s₀ (x9 y1) :=
            fun t13 h14 => State.modReq_keeps h14
          refine Keeps.ite (ih (h12 _ h)) ?_
          refine Keeps.ite (State.endReq_keeps (State.badRow_keeps h)) ?_
          refine Keeps.ite (Keeps.ite (State.mergeWait_keeps h) (ih (State.modReq_keeps h))) ?_
          split
          · rename_i z15 z16 z17
            have h18 := Keeps.snd_eq (State.accumulate_keeps h) z17
            exact ih (h12 _ h18)
          · rename_i z19 z20 z21 z22 z23
            have h24 := Keeps.snd_eq (State.accumulate_keeps h) z23
            exact h24
    · exact h

theorem State.updateEnd_keeps {s₀ s : State} {rid n} (h : Keeps s₀ s) :
    Keeps s₀ (State.updateEnd rid n s) := by
  unfold State.updateEnd
  split
  · exact h
  · extract_lets x0 x1
    have h2 : Keeps s₀ x1 := State.setRows_keeps h
    exact Keeps.ite (State.stepDone_keeps (State.dropScratch_keeps h2)) h

theorem State.localUpdates_keeps {s₀ s : State} {rid g} (h : Keeps s₀ s) :
    Keeps s₀ (State.localUpdates rid g s) := by
  unfold State.localUpdates
  refine Keeps.foldl h (fun t0 x1 h2 => ?_)
  split
  · refine Keeps.ite ?_ h2
    split
    · rename_i z3 z4 z5
      have h6 := Keeps.snd_eq (State.updateRow_keeps h2) z5
      extract_lets x7
      exact State.setRows_keeps h6
    · rename_i z8 z9 z10 z11 z12
      have h13 := Keeps.snd_eq (State.updateRow_keeps h2) z12
      exact h13
  · exact h2

theorem State.updateStep_keeps {s₀ s : State} {rid g r table ids vecs isPut} (h : Keeps s₀ s) :
    Keeps s₀ (State.updateStep rid g r table ids vecs isPut s) := by
  unfold State.updateStep
  refine Keeps.ite h ?_
  split
  · exact State.endReq_keeps h
  · refine Keeps.ite (State.endReq_keeps h) ?_
    refine State.withObjs_keeps h (fun t5 h6 => ?_)
    extract_lets x7 x8 x9 x10
    have h11 : Keeps s₀ x9 := Keeps.ite (State.rmwLoop_keeps h6) (State.mergeLoop_keeps h6)
    have h12 : Keeps s₀ x10 := State.localUpdates_keeps h11
    exact State.updateEnd_keeps h12

theorem execUpdate_keeps {rid g} (s : State) : ∃ t, execUpdate rid g s = .next t ∧ Keeps s t := by
  have h := Keeps.refl s
  refine ⟨_, rfl, ?_⟩
  split
  · exact State.updateStep_keeps h
  · exact h

theorem execPut_keeps {rid g} (s : State) : ∃ t, execPut rid g s = .next t ∧ Keeps s t := by
  have h := Keeps.refl s
  refine ⟨_, rfl, ?_⟩
  split
  · exact State.updateStep_keeps h
  · exact h

theorem State.dropFlip_keeps {s₀ s : State} {f} (h : Keeps s₀ s) :
    Keeps s₀ (State.dropFlip f s) := by
  unfold State.dropFlip
  extract_lets x0
  exact State.modTab_keeps (State.setRows_keeps h)

theorem FlipOp.fails_keeps {s₀ s : State} {f oc cause} (h : Keeps s₀ s) :
    Keeps s₀ (FlipOp.fails f oc cause s) := by
  unfold FlipOp.fails
  split
  · exact State.endReq_keeps (State.dropFlip_keeps h)
  · exact State.dropFlip_keeps h

theorem State.flipOne_keeps {s₀ s : State} {f} (h : Keeps s₀ s) :
    Keeps s₀ (State.flipOne f s) := by
  unfold State.flipOne
  extract_lets x0 x1
  have h2 : Keeps s₀ x1 := State.setRows_keeps h
  split
  · exact h2
  · extract_lets x3 x4 x5 x6 x7
    have h8 : Keeps s₀ x3 := State.patchTile_keeps h2
    have h9 : Keeps s₀ x4 := State.inc_keeps h8
    have h10 : Keeps s₀ x5 := by
      unfold x5
      split
      · exact State.refresh_keeps h9
      · exact h9
    have h11 : Keeps s₀ x6 := by
      unfold x6
      split
      · exact State.emit_keeps h10
      · exact h10
    exact Keeps.ite (State.setRows_keeps h11) h11

theorem State.flipDue_keeps {s₀ s : State} {f} (h : Keeps s₀ s) :
    Keeps s₀ (State.flipDue f s) := by
  unfold State.flipDue
  split
  · exact FlipOp.fails_keeps h
  · exact FlipOp.fails_keeps h
  · exact h
  · exact State.dropFlip_keeps h
  · split
    · rename_i z22 z23 z24
      have h25 : Keeps s₀ z23 := Keeps.snd_eq (State.needTile_keeps h) z24
      exact State.flipOne_keeps h25
    · rename_i z26 z27 z28
      have h29 : Keeps s₀ z27 := Keeps.snd_eq (State.needTile_keeps h) z28
      exact h29
    · rename_i z30 z31 z32 z33 z34
      have h35 : Keeps s₀ z33 := Keeps.snd_eq (State.needTile_keeps h) z34
      exact FlipOp.fails_keeps h35

theorem State.flips_keeps {s₀ s : State} {g} (h : Keeps s₀ s) :
    Keeps s₀ (State.flips g s) := by
  unfold State.flips
  exact Keeps.foldl h (fun t0 y1 h2 => State.flipDue_keeps h2)

theorem execFlip_keeps {g} (s : State) : ∃ t, execFlip g s = .next t ∧ Keeps s t := 
  have h := Keeps.refl s
  ⟨_, rfl, State.flips_keeps h⟩

theorem State.slotsFree_keeps {s₀ s : State} {g} (h : Keeps s₀ s) :
    Keeps s₀ (State.slotsFree g s) := by
  unfold State.slotsFree
  extract_lets x0
  refine Keeps.foldl h (fun t1 y2 h3 => ?_)
  extract_lets x4
  exact State.modTab_keeps (State.setRows_keeps h3)

theorem execSlotFree_keeps {g} (s : State) : ∃ t, execSlotFree g s = .next t ∧ Keeps s t := by
  have h := Keeps.refl s
  refine ⟨_, rfl, ?_⟩
  extract_lets x0
  refine Keeps.foldl h (fun t1 x2 h3 => ?_)
  extract_lets x4
  exact State.modTab_keeps (State.setRows_keeps h3)

theorem State.rowsTick_keeps {s₀ s : State} (h : Keeps s₀ s) :
    Keeps s₀ (State.rowsTick s) := by
  unfold State.rowsTick
  exact State.slotsFree_keeps (State.slotsFree_keeps (State.flips_keeps (State.flips_keeps h)))

theorem State.seed_keeps {s₀ s : State} {g value} (h : Keeps s₀ s) :
    Keeps s₀ (State.seed g value s) := by
  unfold State.seed
  exact State.setGen_keeps (State.wr_keeps h)

theorem execSrSeedWrite_keeps {rq g value} (s : State) : ∃ t, execSrSeedWrite rq g value s = .next t ∧ Keeps s t :=
  have h := Keeps.refl s
  ⟨_, rfl, Keeps.ite (State.access_keeps h (fun t0 h1 => State.seed_keeps h1)) h⟩

theorem State.rcSize_keeps {s₀ s : State} {value} (h : Keeps s₀ s) :
    Keeps s₀ (State.rcSize value s) := by
  unfold State.rcSize
  extract_lets x0
  exact Keeps.ite (State.reject_keeps h) (Keeps.ite (State.setW1c_keeps h) (State.wr_keeps h))

theorem execRcSizeWrite_keeps {rq value} (s : State) : ∃ t, execRcSizeWrite rq value s = .next t ∧ Keeps s t :=
  have h := Keeps.refl s
  ⟨_, rfl, State.access_keeps h (fun t0 h1 => State.rcSize_keeps h1)⟩

theorem execSketchClear_keeps {rq} (s : State) : ∃ t, execSketchClear rq s = .next t ∧ Keeps s t :=
  have h := Keeps.refl s
  ⟨_, rfl, State.access_keeps h (fun t0 h1 => State.expert_keeps h1 (fun t2 h3 => State.clearSketch_keeps h3))⟩

theorem State.sendBatches_keeps {s₀ s : State} {ls} (h : Keeps s₀ s) :
    Keeps s₀ (State.sendBatches ls s) := by
  unfold State.sendBatches
  exact Keeps.foldl h (fun t0 x1 h2 => State.emit_keeps h2)

theorem execRoundOpen_keeps {g} (s : State) : ∃ t, execRoundOpen g s = .next t ∧ Keeps s t := by
  have h := Keeps.refl s
  refine ⟨_, rfl, ?_⟩
  extract_lets x0 x1 x2 x3 x4 x5 x6
  have h7 : Keeps s x2 := State.wr64_keeps h
  have h8 : Keeps s x4 := State.setRows_keeps h7
  have h9 : Keeps s x5 := State.wr_keeps h8
  have h10 : Keeps s x6 := State.sendBatches_keeps h9
  refine Keeps.ite ?_ h
  refine Keeps.foldl h10 (fun t11 x12 h13 => ?_)
  refine Keeps.ite ?_ h13
  split
  · exact h13
  · split
    · exact h13
    · exact Keeps.ite (State.needThen_keeps (State.needTile_keeps h13) (fun t14 h15 => h15)) h13

theorem execRoundClose_keeps {g round} (s : State) : ∃ t, execRoundClose g round s = .next t ∧ Keeps s t := by
  have h := Keeps.refl s
  refine ⟨_, rfl, ?_⟩
  extract_lets x0 x1
  have h2 : Keeps s x1 := State.setRows_keeps h
  exact Keeps.ite (State.fire_keeps (State.wr_keeps h2)) h

theorem State.reissue_keeps {s₀ s : State} {l} (h : Keeps s₀ s) :
    Keeps s₀ (State.reissue l s) := by
  unfold State.reissue
  extract_lets x0 x1
  have h2 : Keeps s₀ x0 := State.addCause_keeps (State.inc_keeps h)
  split
  · exact State.endReq_keeps h2
  · split
    · exact State.endReq_keeps h2
    · exact State.setRows_keeps h2

theorem State.remoteAnswer_keeps {s₀ s : State} {l a} (h : Keeps s₀ s) :
    Keeps s₀ (State.remoteAnswer l a s) := by
  unfold State.remoteAnswer
  extract_lets x0 x1 x2
  have h3 : ∀ y1, Keeps s₀ (x1 y1) :=
    fun x4 => State.setRows_keeps h
  have h5 : Keeps s₀ x2 := State.reissue_keeps h
  split
  · exact h3 _
  · exact h3 _
  · split
    · exact State.localUpdates_keeps h5
    · exact h5
  · exact State.endReq_keeps (State.badRow_keeps h)

theorem execRemoteReply_keeps {slot table row a} (s : State) : ∃ t, execRemoteReply slot table row a s = .next t ∧ Keeps s t := by
  have h := Keeps.refl s
  refine ⟨_, rfl, ?_⟩
  extract_lets x0
  split
  · exact h
  · exact State.remoteAnswer_keeps (State.roceProgress_keeps h)

theorem execRemoteLateExpiry_keeps {rid} (s : State) : ∃ t, execRemoteLateExpiry rid s = .next t ∧ Keeps s t := by
  have h := Keeps.refl s
  refine ⟨_, rfl, ?_⟩
  split
  · exact h
  · exact State.endReq_keeps (State.raiseIrq_keeps h)

theorem State.peerRowsGone_keeps {s₀ s : State} {slot} (h : Keeps s₀ s) :
    Keeps s₀ (State.peerRowsGone slot s) := by
  unfold State.peerRowsGone
  exact Keeps.foldl h (fun t0 x1 h2 => Keeps.ite (Keeps.ite (State.endReq_keeps h2) (State.remoteAnswer_keeps h2)) h2)

theorem State.peersGone_keeps {s₀ s : State} (h : Keeps s₀ s) :
    Keeps s₀ (State.peersGone s) := by
  unfold State.peersGone
  extract_lets x0
  exact Keeps.foldl (State.setFab_keeps h) (fun t1 y2 h3 => State.peerRowsGone_keeps h3)

theorem State.charge_keeps {s₀ s : State} {w u n} (h : Keeps s₀ s) :
    Keeps s₀ (State.charge w u n s) := by
  unfold State.charge
  extract_lets x0
  exact Keeps.ite h (State.setSch_keeps h)

theorem State.peerLookup_keeps {s₀ s : State} {p g x t} (h : Keeps s₀ s) :
    Keeps s₀ (State.peerLookup p g x t s) := by
  unfold State.peerLookup
  extract_lets x0 x1
  have h2 : Keeps s₀ x1 := State.inc64_keeps (State.looked_keeps h)
  split
  · extract_lets x7
    split
    · dsimp only [x0]
      exact State.emit_keeps (State.inc64_keeps h2)
    · refine Keeps.ite ?_ ?_
      · dsimp only [x0]
        exact State.emit_keeps h2
      · refine Keeps.ite ?_ (State.detect_keeps h2)
        dsimp only [x0]
        exact State.emit_keeps (State.admitRow_keeps h2)

theorem State.peerEcc_keeps {s₀ s : State} {g ws} (h : Keeps s₀ s) :
    Keeps s₀ (State.peerEcc g ws s).2 := by
  unfold State.peerEcc
  extract_lets x0 x1
  have h2 : Keeps s₀ x1 := State.wr_keeps h
  refine Keeps.ite_at (fun (p : Bool × State) => p.2) ?_ ?_
  · exact h
  · refine Keeps.ite_at (fun (p : Bool × State) => p.2) ?_ ?_
    · dsimp only
      exact State.corrected_keeps h2
    · dsimp only
      exact State.detect_keeps h2

theorem State.bringRow_keeps {s₀ s : State} {g table t row reads new} (h : Keeps s₀ s) :
    Keeps s₀ (State.bringRow g table t row reads new s).2 := by
  unfold State.bringRow
  split
  · rename_i z0 z1 z2
    have h3 : Keeps s₀ z1 := Keeps.snd_eq (State.bring_keeps h) z2
    extract_lets x4
    exact State.bring_keeps h3
  · exact State.bring_keeps h

theorem State.onceHere_keeps {s₀ : State} {a : Need × State} {hold go} (h : Keeps s₀ a.2)
    (hh : ∀ y1, Keeps s₀ y1 → Keeps s₀ (hold y1)) (hg : ∀ y1, Keeps s₀ y1 → Keeps s₀ (go y1)) :
    Keeps s₀ (State.onceHere a hold go) := by
  unfold State.onceHere
  split
  · exact hg _ h
  · exact hh _ h
  · exact Keeps.ite (hh _ h) h

theorem State.handRow_keeps {s₀ s : State} {g table t row slot d} (h : Keeps s₀ s) :
    Keeps s₀ (State.handRow g table t row slot d s) := by
  unfold State.handRow
  split
  · exact h
  · extract_lets x0 x1 x2 x3
    have h4 : Keeps s₀ x2 := State.modTab_keeps (State.patchTile_keeps h)
    exact State.setRows_keeps h4

theorem State.handItem_keeps {s₀ s : State} {p epoch x} (h : Keeps s₀ s) :
    Keeps s₀ (State.handItem p epoch x s) := by
  unfold State.handItem
  split
  · exact h
  · extract_lets x5 x6
    refine Keeps.ite h ?_
    refine Keeps.ite ?_ ?_
    · dsimp only [x6]
      exact State.setFab_keeps h
    · split
      · dsimp only [x6]
        exact State.setFab_keeps (State.shadowWait_keeps h)
      · refine State.onceHere_keeps (State.bringRow_keeps h) (fun t12 h13 => ?_) (fun t14 h15 => State.handRow_keeps h15)
        dsimp only [x6]
        exact State.setFab_keeps h13

theorem State.peerItem_keeps {s₀ s : State} {p epoch x} (h : Keeps s₀ s) :
    Keeps s₀ (State.peerItem p epoch x s) := by
  unfold State.peerItem
  extract_lets x0 x1
  refine Keeps.ite (State.handItem_keeps h) ?_
  split
  · dsimp only [x0]
    exact State.emit_keeps h
  · rename_i z4 z5 z6
    extract_lets x7
    refine Keeps.ite ?_ ?_
    · dsimp only [x0]
      exact State.emit_keeps h
    · split
      · dsimp only [x0]
        exact State.emit_keeps h
      · dsimp only [x1]
        exact State.setFab_keeps h
      · refine Keeps.ite ?_ ?_
        · dsimp only [x1]
          exact State.setFab_keeps h
        · refine Keeps.ite ?_ ?_
          · refine State.onceHere_keeps (State.bringRow_keeps h) (fun t14 h15 => ?_) (fun t16 h17 => ?_)
            · dsimp only [x1]
              exact State.setFab_keeps h15
            · split
              · rename_i z18 z19 z20
                have h21 : Keeps s₀ z19 := Keeps.snd_eq (by
                  refine Keeps.ite_at (fun (p : Bool × State) => p.2) ?_ ?_
                  · exact h17
                  · exact State.peerEcc_keeps h17
                  ) z20
                exact h21
              · rename_i z22 z23 z24
                have h25 : Keeps s₀ z23 := Keeps.snd_eq (by
                  refine Keeps.ite_at (fun (p : Bool × State) => p.2) ?_ ?_
                  · exact h17
                  · exact State.peerEcc_keeps h17
                  ) z24
                exact State.peerLookup_keeps (State.inc_keeps h25)
          · refine Keeps.ite ?_ ?_
            · dsimp only [x0]
              exact State.emit_keeps h
            · refine Keeps.ite ?_ ?_
              · dsimp only [x1]
                exact State.setFab_keeps h
              · split
                · dsimp only [x1]
                  exact State.setFab_keeps (State.shadowWait_keeps h)
                · refine State.onceHere_keeps (State.bringRow_keeps h) (fun t31 h32 => ?_) (fun t33 h34 => ?_)
                  · dsimp only [x1]
                    exact State.setFab_keeps h32
                  · split
                    · rename_i z35 z36 z37
                      have h38 : Keeps s₀ z36 := Keeps.snd_eq (by
                        refine Keeps.ite_at (fun (p : Bool × State) => p.2) ?_ ?_
                        · exact h34
                        · exact State.peerEcc_keeps h34
                        ) z37
                      exact h38
                    · rename_i z39 z40 z41
                      have h42 : Keeps s₀ z40 := Keeps.snd_eq (by
                        refine Keeps.ite_at (fun (p : Bool × State) => p.2) ?_ ?_
                        · exact h34
                        · exact State.peerEcc_keeps h34
                        ) z41
                      exact State.replaceRow_keeps (State.inc_keeps h42)

theorem State.peerBatch_keeps {s₀ s : State} {p epoch items} (h : Keeps s₀ s) :
    Keeps s₀ (State.peerBatch p epoch items s) := by
  unfold State.peerBatch
  extract_lets x0 x1 x2
  exact Keeps.ite (State.setFab_keeps h) (Keeps.foldl (Keeps.foldl h (fun t3 y4 h5 => State.charge_keeps h5)) (fun t6 y7 h8 => State.peerItem_keeps h8))

theorem State.retryHeld_keeps {s₀ s : State} (h : Keeps s₀ s) :
    Keeps s₀ (State.retryHeld s) := by
  unfold State.retryHeld
  extract_lets x0 x1 x2 x3 x4
  have h8 : Keeps s₀ x3 := Keeps.foldl (State.setFab_keeps h) (fun t5 y6 h7 => State.peerItem_keeps h7)
  exact Keeps.foldl (State.setFab_keeps h8) (fun t9 y10 h11 => State.peerBatch_keeps h11)

theorem State.serveHeld_keeps {s₀ s : State} (h : Keeps s₀ s) :
    Keeps s₀ (State.serveHeld s) := by
  unfold State.serveHeld
  extract_lets x0 x1 x2
  have h3 : Keeps s₀ x0 := State.retryHeld_keeps h
  exact Keeps.ite h3 (State.retryHeld_keeps (State.setFab_keeps h3))

theorem execPeerBatch_keeps {slot epoch items} (s : State) : ∃ t, execPeerBatch slot epoch items s = .next t ∧ Keeps s t := 
  have h := Keeps.refl s
  ⟨_, rfl, Keeps.ite (State.peerBatch_keeps (State.leaveDoze_keeps h)) h⟩

theorem State.rowsLost_keeps {s₀ s : State} (h : Keeps s₀ s) :
    Keeps s₀ (State.rowsLost s) := by
  unfold State.rowsLost
  extract_lets x0 x1
  have h2 : Keeps s₀ x0 := Keeps.foldl h (fun t3 x4 h5 => State.setActive_keeps h5)
  exact State.clearSketch_keeps (State.setRows_keeps h2)

theorem State.cacheOwned_keeps {s₀ s : State} (h : Keeps s₀ s) :
    Keeps s₀ (State.cacheOwned s) := by
  unfold State.cacheOwned
  extract_lets x0
  exact State.setRows_keeps h

end Sys2Proof.Machine
end

