-- ==== Sys2Proof/Laws/KeepsLoupe.lean ====
section
/-! SUPPORT. Every operation of `Machine/Loupe` keeps the part, the tick, the queue and the canonical forms (`Keeps`), and every command
there answers a next state. -/

namespace Sys2Proof.Machine

theorem State.setLps_keeps {s₀ s : State} {l} (h : Keeps s₀ s) :
    Keeps s₀ (State.setLps l s) := by
  unfold State.setLps
  exact Keeps.same h rfl rfl rfl rfl rfl rfl

theorem State.idxStat_keeps {s₀ s : State} {lp index result reason} (h : Keeps s₀ s) :
    Keeps s₀ (State.idxStat lp index result reason s) := by
  unfold State.idxStat
  exact State.wr_keeps (State.wr_keeps (State.wr_keeps h))

theorem State.setIdxActive_keeps {s₀ s : State} {lp index b} (h : Keeps s₀ s) :
    Keeps s₀ (State.setIdxActive lp index b s) := by
  unfold State.setIdxActive
  exact Keeps.ite (State.putBit_keeps h) (State.putBit_keeps h)

theorem State.indexEntry_keeps {s₀ s : State} {lp index} (h : Keeps s₀ s) :
    Keeps s₀ (State.indexEntry lp index s).2 := by
  unfold State.indexEntry
  exact State.blockRead_keeps h

theorem State.readLists_keeps {s₀ s : State} {lp x} (h : Keeps s₀ s) :
    Keeps s₀ (State.readLists lp x s).2 := by
  unfold State.readLists
  refine Keeps.ite_at (fun (p : Bool × State) => p.2) ?_ ?_
  · exact h
  · split
    · rename_i z0 z1 z2 z3
      have h4 : Keeps s₀ z2 := Keeps.snd_eq (State.moverReads_keeps h) z3
      exact h4

theorem State.idxAct_keeps {s₀ s : State} {lp index} (h : Keeps s₀ s) :
    Keeps s₀ (State.idxAct lp index s) := by
  unfold State.idxAct
  refine Keeps.ite h ?_
  refine Keeps.ite (State.idxStat_keeps h) ?_
  split
  · rename_i z0 z1 z2 z3
    have h4 : Keeps s₀ z2 := Keeps.snd_eq (State.indexEntry_keeps h) z3
    extract_lets x5 x6 x7 x8
    refine Keeps.ite (State.idxStat_keeps h4) ?_
    split
    · rename_i z9 z10 z11 z12
      have h13 : Keeps s₀ z11 := Keeps.snd_eq (State.readLists_keeps h4) z12
      extract_lets x14
      exact Keeps.ite (State.idxStat_keeps h13) (State.idxStat_keeps (State.setIdxActive_keeps (State.setLps_keeps h13)))

theorem execIdxCmdAct_keeps {rq lp index} (s : State) : ∃ t, execIdxCmdAct rq lp index s = .next t ∧ Keeps s t :=
  have h := Keeps.refl s
  ⟨_, rfl, Keeps.ite (State.access_keeps h (fun t0 h1 => State.idxAct_keeps h1)) h⟩

theorem State.dropIndex_keeps {s₀ s : State} {lp index} (h : Keeps s₀ s) :
    Keeps s₀ (State.dropIndex lp index s) := by
  unfold State.dropIndex
  extract_lets x0
  exact State.setIdxActive_keeps (State.setLps_keeps h)

theorem State.idxDeact_keeps {s₀ s : State} {lp index} (h : Keeps s₀ s) :
    Keeps s₀ (State.idxDeact lp index s) := by
  unfold State.idxDeact
  extract_lets x0
  exact Keeps.ite h (Keeps.ite (State.idxStat_keeps h) (Keeps.ite (State.idxStat_keeps (State.setLps_keeps h)) (State.idxStat_keeps (State.dropIndex_keeps h))))

theorem execIdxCmdDeact_keeps {rq lp index} (s : State) : ∃ t, execIdxCmdDeact rq lp index s = .next t ∧ Keeps s t :=
  have h := Keeps.refl s
  ⟨_, rfl, Keeps.ite (State.access_keeps h (fun t0 h1 => State.idxDeact_keeps h1)) h⟩

theorem execIndexDeactComplete_keeps {lp index} (s : State) : ∃ t, execIndexDeactComplete lp index s = .next t ∧ Keeps s t := by
  have h := Keeps.refl s
  refine ⟨_, rfl, ?_⟩
  split
  · exact h
  · extract_lets x0
    have h1 : Keeps s x0 := State.dropIndex_keeps h
    exact Keeps.ite (Keeps.ite (State.idxStat_keeps h1) h1) h

theorem State.countDist_keeps {s₀ s : State} {lp x nan} (h : Keeps s₀ s) :
    Keeps s₀ (State.countDist lp x nan s) := by
  unfold State.countDist
  extract_lets x0 x1 x2 x3 x4 x5
  have h6 : Keeps s₀ x2 := State.inc64_keeps h
  have h7 : Keeps s₀ x4 := State.setLps_keeps h6
  have h8 : Keeps s₀ x5 := State.incBy_keeps h7
  exact Keeps.ite (State.inc_keeps h8) h8

theorem State.candidate_keeps {s₀ s : State} {lp x q n} (h : Keeps s₀ s) :
    Keeps s₀ (State.candidate lp x q n s).2 := by
  unfold State.candidate
  extract_lets x0
  split
  · dsimp only
    exact State.countDist_keeps h

theorem State.meet_keeps {s₀ s : State} {lp x l n q} (h : Keeps s₀ s) :
    Keeps s₀ (State.meet lp x l n q s).2 := by
  unfold State.meet
  extract_lets x0 x1
  split
  · dsimp only
    exact State.inc_keeps h
  · split
    · exact h
    · split
      · rename_i z2 z3 z4 z5
        have h6 := Keeps.snd_eq (State.candidate_keeps h) z5
        exact h6

theorem State.lpEcc_keeps {s₀ s : State} {lp rids} (h : Keeps s₀ s) :
    Keeps s₀ (State.lpEcc lp rids s).2 := by
  unfold State.lpEcc
  extract_lets x0 x1
  have h2 : Keeps s₀ x1 := Keeps.ite h (State.wr_keeps h)
  refine Keeps.ite_at (fun (p : Bool × State) => p.2) ?_ ?_
  · exact h2
  · refine Keeps.ite_at (fun (p : Bool × State) => p.2) ?_ ?_
    · dsimp only
      exact State.corrected_keeps h2
    · dsimp only
      exact State.detectAll_keeps h2

theorem State.lpLane_keeps {s₀ s : State} {lp rid} (h : Keeps s₀ s) :
    Keeps s₀ (State.lpLane lp rid s).2 := by
  unfold State.lpLane
  refine Keeps.ite_at (fun (p : Bool × State) => p.2) ?_ ?_
  · dsimp only
    exact State.detectAll_keeps (State.raiseIrq_keeps (State.inc_keeps (State.wr_keeps h)))
  · exact h

theorem State.lpInject_keeps {s₀ s : State} {lp rid} (h : Keeps s₀ s) :
    Keeps s₀ (State.lpInject lp rid s).2 := by
  unfold State.lpInject
  split
  · rename_i z0 z1 z2
    have h3 : Keeps s₀ z1 := Keeps.snd_eq (State.lpEcc_keeps h) z2
    exact h3
  · rename_i z4 z5 z6
    have h7 : Keeps s₀ z5 := Keeps.snd_eq (State.lpEcc_keeps h) z6
    exact State.lpLane_keeps h7

theorem State.walkTile_keeps {s₀ s : State} {rid x id i} (h : Keeps s₀ s) :
    Keeps s₀ (State.walkTile rid x id i s).2 := by
  unfold State.walkTile
  exact State.needTile_keeps h

theorem State.walkTiles_keeps {s₀ s : State} {rid lp l} (h : Keeps s₀ s) :
    Keeps s₀ (State.walkTiles rid lp l s).2 := by
  unfold State.walkTiles
  refine Keeps.ite_at (fun (p : Need × State) => p.2) ?_ ?_
  · exact State.bring_keeps h
  · exact State.needTiles_keeps h

theorem State.walk_keeps {s₀ s : State} {rid lp x l visitMax n q} (h : Keeps s₀ s) :
    Keeps s₀ (State.walk rid lp x l visitMax n q s).2.2 := by
  induction n generalizing q s with
  | zero => exact h
  | succ n ih =>
    unfold State.walk
    split
    · exact h
    · split
      · exact h
      · split
        · next e => exact Keeps.snd_eq (State.walkTile_keeps h) e
        · next e => exact State.endReq_keeps (Keeps.snd_eq (State.walkTile_keeps h) e)
        · next e =>
          have hu := Keeps.snd_eq (State.walkTile_keeps h) e
          dsimp only
          split
          · next e => exact Keeps.snd_eq (State.walkTiles_keeps hu) e
          · next e => exact State.endReq_keeps (Keeps.snd_eq (State.walkTiles_keeps hu) e)
          · next e =>
            have hv := Keeps.snd_eq (State.walkTiles_keeps hu) e
            split
            · next e => exact Keeps.snd_eq (State.lpInject_keeps hv) e
            · next e =>
              exact ih (State.letGo_keeps (Keeps.foldl_snd (Keeps.snd_eq (State.lpInject_keeps hv) e)
                (fun p x hp => State.meet_keeps hp)))

theorem State.walkStart_keeps {s₀ s : State} {lp x q} (h : Keeps s₀ s) :
    Keeps s₀ (State.walkStart lp x q s).2 := by
  unfold State.walkStart
  split
  · rename_i z0 z1 z2 z3
    have h4 := Keeps.snd_eq (State.candidate_keeps h) z3
    exact h4

theorem State.seeCents_keeps {s₀ s : State} {lp x probe q} (h : Keeps s₀ s) :
    Keeps s₀ (State.seeCents lp x probe q s).2 := by
  unfold State.seeCents
  extract_lets x0 x1 x2
  have h12 : Keeps s₀ x1.2 := by
    unfold x1
    refine Keeps.foldl_snd h (fun y3 y4 h5 => ?_)
    split
    · extract_lets x11
      dsimp only
      exact State.countDist_keeps h5
  exact h12

theorem State.seeTile_keeps {s₀ s : State} {lp x k list tile q} (h : Keeps s₀ s) :
    Keeps s₀ (State.seeTile lp x k list tile q s).2 := by
  unfold State.seeTile
  extract_lets x0 x1 x2
  have h3 : Keeps s₀ x0.2 := by
    unfold x0
    refine Keeps.foldl_snd h (fun x4 x5 h6 => ?_)
    split
    · rename_i z7 z8 z9 z10
      have h11 := Keeps.snd_eq (State.candidate_keeps h6) z10
      exact h11
  exact h3

theorem State.centLoop_keeps {s₀ s : State} {rid lp x probe n q} (h : Keeps s₀ s) :
    Keeps s₀ (State.centLoop rid lp x probe n q s).2.2 := by
  induction n generalizing q s with
  | zero => exact h
  | succ n ih =>
    unfold State.centLoop
    split
    · exact h
    · split
      · next e => exact Keeps.snd_eq (State.walkTiles_keeps h) e
      · next e => exact State.endReq_keeps (Keeps.snd_eq (State.walkTiles_keeps h) e)
      · next e =>
        have hu := Keeps.snd_eq (State.walkTiles_keeps h) e
        split
        · next e => exact Keeps.snd_eq (State.lpLane_keeps hu) e
        · next e => exact ih (State.letGo_keeps (State.seeCents_keeps (Keeps.snd_eq (State.lpLane_keeps hu) e)))

theorem State.exactStart_keeps {s₀ s : State} {rid lp x probe q} (h : Keeps s₀ s) :
    Keeps s₀ (State.exactStart rid lp x probe q s).2.2 := by
  unfold State.exactStart
  extract_lets x0
  refine Keeps.ite_at (fun (p : WalkAns × LpQuery × State) => p.2.2) ?_ ?_
  · exact h
  · split
    · rename_i z1 z2 z3 z4
      have h5 : Keeps s₀ z3 := Keeps.snd_snd_eq (State.centLoop_keeps h) z4
      exact h5
    · exact State.centLoop_keeps h

theorem State.putQuery_keeps {s₀ s : State} {q} (h : Keeps s₀ s) :
    Keeps s₀ (State.putQuery q s) := by
  unfold State.putQuery
  extract_lets x0
  exact State.setLps_keeps h

theorem State.grantCtx_keeps {s₀ s : State} {lp a1} (h : Keeps s₀ s) :
    Keeps s₀ (State.grantCtx lp a1 s) := by
  induction a1 generalizing lp s with
  | zero => 
    unfold State.grantCtx
    exact h
  | succ z0 ih => 
    unfold State.grantCtx
    refine Keeps.ite h ?_
    split
    · exact h
    · exact ih (State.putQuery_keeps h)

theorem State.syncCtx_keeps {s₀ s : State} {lp} (h : Keeps s₀ s) :
    Keeps s₀ (State.syncCtx lp s) := by
  unfold State.syncCtx
  exact State.wr_keeps h

theorem State.queryEnds_keeps {s₀ s : State} {q} (h : Keeps s₀ s) :
    Keeps s₀ (State.queryEnds q s) := by
  unfold State.queryEnds
  extract_lets x0 x1 x2
  have h3 : Keeps s₀ x1 := State.inc64_keeps h
  have h4 : Keeps s₀ x2 := Keeps.ite (State.raiseIrq_keeps (State.inc_keeps h3)) h3
  exact Keeps.ite (State.raiseIrq_keeps (State.inc_keeps h4)) h4

theorem State.writeResults_keeps {s₀ s : State} {rid lp x k outObj} (h : Keeps s₀ s) :
    Keeps s₀ (State.writeResults rid lp x k outObj s) := by
  unfold State.writeResults
  extract_lets x0 x1 x2
  split
  · exact h
  · extract_lets x3
    have h4 : Keeps s₀ x3.2 := by
      unfold x3
      refine Keeps.foldl_snd h (fun x5 x6 h7 => ?_)
      split
      · split
        · split
          · rename_i z8 z9 z10
            have h11 := Keeps.snd_eq (State.putTile_keeps h7) z10
            dsimp only
            exact State.modReq_keeps h11
          · rename_i z12 z13
            exact State.putTile_keeps h7
        · exact h7
      · exact h7
    refine State.needThen_keeps h4 (fun t14 h15 => ?_)
    extract_lets x16
    have h17 : Keeps s₀ x16 := State.syncCtx_keeps (State.dropQueries_keeps h15)
    exact State.stepDone_keeps (Keeps.ite (State.addCause_keeps h17) h17)

theorem State.searchStart_keeps {s₀ s : State} {rid lp index r x inObj} (h : Keeps s₀ s) :
    Keeps s₀ (State.searchStart rid lp index r x inObj s) := by
  unfold State.searchStart
  extract_lets x0
  exact Keeps.ite (State.setLps_keeps h) h

theorem State.searchStep_keeps {s₀ s : State} {rid r index k outObj inObj bad go} (h : Keeps s₀ s)
    (hgo : ∀ y1 y2 y3, Keeps s₀ y3 → Keeps s₀ (go y1 y2 y3).2.2) :
    Keeps s₀ (State.searchStep rid r index k outObj inObj bad go s) := by
  unfold State.searchStep
  extract_lets x0
  refine Keeps.ite h ?_
  split
  · exact State.endReq_keeps h
  · refine Keeps.ite (State.endReq_keeps h) ?_
    refine State.withInputs_keeps h (fun t1 h2 => ?_)
    extract_lets x3 x4 x5 x6
    have h7 : Keeps s₀ x3 := State.searchStart_keeps h2
    have h8 : Keeps s₀ x4 := State.syncCtx_keeps (State.grantCtx_keeps h7)
    have h9 : Keeps s₀ x5 := by
      unfold x5
      refine Keeps.foldl h8 (fun t10 x11 h12 => ?_)
      split
      · refine Keeps.ite ?_ h12
        split
        · rename_i z13 z14 z15 z16
          have h17 := Keeps.snd_snd_eq (hgo _ _ _ h12) z16
          exact State.queryEnds_keeps (State.putQuery_keeps h17)
        · rename_i z18 z19 z20 z21
          have h22 := Keeps.snd_snd_eq (hgo _ _ _ h12) z21
          exact State.putQuery_keeps h22
        · rename_i z23 z24 z25 z26
          have h27 := Keeps.snd_snd_eq (hgo _ _ _ h12) z26
          exact h27
      · exact h12
    have h28 : Keeps s₀ x6 := State.syncCtx_keeps (State.grantCtx_keeps h9)
    exact Keeps.ite (State.writeResults_keeps h28) h28

theorem State.approxTurn_keeps {s₀ s : State} {rid lp l visitMax x q} (h : Keeps s₀ s) :
    Keeps s₀ (State.approxTurn rid lp l visitMax x q s).2.2 := by
  unfold State.approxTurn
  refine Keeps.ite_at (fun (p : WalkAns × LpQuery × State) => p.2.2) ?_ ?_
  · exact State.walk_keeps h
  · split
    · rename_i z0 z1 z2
      have h3 : Keeps s₀ z1 := Keeps.snd_eq (State.walkTiles_keeps h) z2
      split
      · rename_i z4 z5 z6
        have h7 : Keeps s₀ z5 := Keeps.snd_eq (State.lpInject_keeps h3) z6
        exact h7
      · rename_i z8 z9 z10
        have h11 : Keeps s₀ z9 := Keeps.snd_eq (State.lpInject_keeps h3) z10
        extract_lets x12
        have h13 : Keeps s₀ x12.2 := State.walkStart_keeps h11
        exact State.walk_keeps (State.letGo_keeps h13)
    · rename_i z14 z15 z16
      have h17 : Keeps s₀ z15 := Keeps.snd_eq (State.walkTiles_keeps h) z16
      exact h17
    · rename_i z18 z19 z20 z21 z22
      have h23 : Keeps s₀ z21 := Keeps.snd_eq (State.walkTiles_keeps h) z22
      dsimp only
      exact State.endReq_keeps h23

theorem execSearchApproximate_keeps {rid} (s : State) : ∃ t, execSearchApproximate rid s = .next t ∧ Keeps s t := by
  have h := Keeps.refl s
  refine ⟨_, rfl, ?_⟩
  split
  · exact State.searchStep_keeps h (fun x q u hu => State.approxTurn_keeps hu)
  · exact h

theorem State.putScan_keeps {s₀ s : State} {c} (h : Keeps s₀ s) :
    Keeps s₀ (State.putScan c s) := by
  unfold State.putScan
  extract_lets x0
  exact State.setLps_keeps h

theorem State.startScan_keeps {s₀ s : State} {lp index list} (h : Keeps s₀ s) :
    Keeps s₀ (State.startScan lp index list s) := by
  unfold State.startScan
  extract_lets x0
  exact State.setLps_keeps h

theorem State.openScans_keeps {s₀ s : State} {lp index x q} (h : Keeps s₀ s) :
    Keeps s₀ (State.openScans lp index x q s) := by
  unfold State.openScans
  refine Keeps.foldl h (fun t0 y1 h2 => ?_)
  extract_lets x3
  exact State.startScan_keeps (Keeps.ite h2 (State.setLps_keeps h2))

theorem State.dropPeerQs_keeps {s₀ s : State} {qs} (h : Keeps s₀ s) :
    Keeps s₀ (State.dropPeerQs qs s) := by
  unfold State.dropPeerQs
  extract_lets x0
  exact State.setLps_keeps h

theorem State.scanTile_keeps {s₀ s : State} {lp x tile lack} (h : Keeps s₀ s) :
    Keeps s₀ (State.scanTile lp x tile lack s).2 := by
  unfold State.scanTile
  extract_lets x0 x1 x2 x3
  have h21 : Keeps s₀ x1.2 := by
    unfold x1
    refine Keeps.foldl_snd h (fun y4 y5 h6 => ?_)
    split
    · rename_i z7 z8 z9
      have h10 : Keeps s₀ z8 := Keeps.snd_eq (State.needTile_keeps h6) z9
      exact h10
    · rename_i z11 z12 z13
      have h14 : Keeps s₀ z12 := Keeps.snd_eq (State.needTile_keeps h6) z13
      exact h14
    · rename_i z15 z16 z17 z18 z19
      have h20 : Keeps s₀ z18 := Keeps.snd_eq (State.needTile_keeps h6) z19
      dsimp only
      exact Keeps.ite (State.dropPeerQs_keeps h20) (State.endReq_keeps h20)
  have h25 : Keeps s₀ x2 := Keeps.foldl h21 (fun t22 y23 h24 => State.started_keeps h24)
  refine Keeps.ite_at (fun (p : Bool × State) => p.2) ?_ ?_
  · exact h21
  · split
    · exact h25
    · split
      · rename_i z31 z32 z33 z34
        have h35 : Keeps s₀ z33 := Keeps.snd_eq (State.eccRead_keeps (State.readTo_keeps h25)) z34
        dsimp only
        exact State.dropPeerQs_keeps (Keeps.foldl h35 (fun t36 y37 h38 => State.endFor_keeps h38))
      · rename_i z39 z40 z41
        have h42 : Keeps s₀ z40 := Keeps.snd_eq (State.eccRead_keeps (State.readTo_keeps h25)) z41
        split
        · rename_i z43 z44 z45
          have h46 : Keeps s₀ z44 := Keeps.snd_eq (State.lpEcc_keeps h42) z45
          dsimp only
          exact State.dropPeerQs_keeps h46
        · rename_i z47 z48 z49
          have h50 : Keeps s₀ z48 := Keeps.snd_eq (State.lpEcc_keeps h42) z49
          exact h50

theorem State.seeScan_keeps {s₀ s : State} {lp x list tile q} (h : Keeps s₀ s) :
    Keeps s₀ (State.seeScan lp x list tile q s) := by
  unfold State.seeScan
  split
  · exact h
  · refine Keeps.ite h ?_
    split
    · rename_i z5 z6 z7
      have h8 : Keeps s₀ z6 := Keeps.snd_eq (State.lpLane_keeps h) z7
      exact State.dropPeerQs_keeps h8
    · rename_i z9 z10 z11
      have h12 : Keeps s₀ z10 := Keeps.snd_eq (State.lpLane_keeps h) z11
      extract_lets x13
      have h14 : Keeps s₀ x13.2 := State.seeTile_keeps h12
      exact State.putQuery_keeps h14

theorem State.scanLoop_keeps {s₀ s : State} {rid lp index x list n} (h : Keeps s₀ s) :
    Keeps s₀ (State.scanLoop rid lp index x list n s) := by
  induction n generalizing s with
  | zero => exact h
  | succ n ih =>
    unfold State.scanLoop
    split
    · exact h
    · extract_lets qs tiles tile lack next
      have hnext : ∀ u, Keeps s₀ u → Keeps s₀ (next u) := fun u hu => State.putScan_keeps hu
      clear_value next
      refine Keeps.ite h (Keeps.ite (ih (hnext _ h)) ?_)
      split
      · next e => exact Keeps.snd_eq (State.scanTile_keeps h) e
      · next e =>
        extract_lets v
        have hv : Keeps s₀ v := Keeps.foldl (Keeps.snd_eq (State.scanTile_keeps h) e) (fun _ _ hw => State.seeScan_keeps hw)
        exact ih (hnext _ (Keeps.foldl hv (fun _ _ hw => State.letGo_keeps hw)))

theorem State.exactTurn_keeps {rid lp index probe x q} {s u : State} (hu : Keeps s u) :
    Keeps s (State.exactTurn rid lp index probe x q u).2.2 := by
  unfold State.exactTurn
  have hb : Keeps s (if q.started then ((WalkAns.done, q, u) : WalkAns × LpQuery × State) else u.exactStart rid lp x probe q).2.2 := by
    split
    · exact hu
    · exact State.exactStart_keeps hu
  generalize (if q.started then ((WalkAns.done, q, u) : WalkAns × LpQuery × State) else u.exactStart rid lp x probe q) = begun at hb ⊢
  split
  · next q v =>
    extract_lets w z
    have hw : Keeps s z := Keeps.foldl (State.openScans_keeps (State.putQuery_keeps hb)) (fun _ _ ht => State.scanLoop_keeps ht)
    clear_value z
    split
    · exact hw
    · split
      · exact State.stopScans_keeps hw
      · exact hw
  · exact hb

theorem execSearchExact_keeps {rid} (s : State) : ∃ t, execSearchExact rid s = .next t ∧ Keeps s t := by
  have h := Keeps.refl s
  refine ⟨_, rfl, ?_⟩
  split
  · exact State.searchStep_keeps h (fun x q u hu => State.exactTurn_keeps hu)
  · exact h

theorem execListScanStart_keeps {lp index list} (s : State) : ∃ t, execListScanStart lp index list s = .next t ∧ Keeps s t := 
  have h := Keeps.refl s
  ⟨_, rfl, State.startScan_keeps h⟩

theorem State.inputState_keeps {s₀ s : State} {rid r j id} (h : Keeps s₀ s) :
    Keeps s₀ (State.inputState rid r j id s).2.2 := by
  unfold State.inputState
  extract_lets x0
  refine Keeps.ite_at (fun (p : InputAns × Option (Nat × Nat) × State) => p.2.2) ?_ ?_
  · exact h
  · split
    · rename_i z1 z2 z3
      have h4 : Keeps s₀ z2 := Keeps.snd_eq (State.useObj_keeps h) z3
      exact h4
    · rename_i z5 z6 z7
      have h8 : Keeps s₀ z6 := Keeps.snd_eq (State.useObj_keeps h) z7
      exact h8
    · rename_i z9 z10 z11 z12 z13
      have h14 : Keeps s₀ z12 := Keeps.snd_eq (State.useObj_keeps h) z13
      refine Keeps.ite_at (fun (p : InputAns × Option (Nat × Nat) × State) => p.2.2) ?_ ?_
      · exact h14
      · exact h14

theorem State.mergeWrite_keeps {s₀ s : State} {rid r k outObj present missing} (h : Keeps s₀ s) :
    Keeps s₀ (State.mergeWrite rid r k outObj present missing s) := by
  unfold State.mergeWrite
  extract_lets x0 x1 x2 x3 x4 x5 x6 x7 x8
  have h9 : Keeps s₀ x8.2 := by
    unfold x8
    refine Keeps.foldl_snd h (fun x10 x11 h12 => ?_)
    split
    · extract_lets x13
      split
      · rename_i z14 z15 z16
        have h17 := Keeps.snd_eq (State.putTile_keeps h12) z16
        dsimp only
        exact State.modReq_keeps h17
      · rename_i z18 z19
        exact State.putTile_keeps h12
    · exact h12
  exact Keeps.ite (State.endReq_keeps h) (State.needThen_keeps h9 (fun t20 h21 => State.stepDone_keeps (Keeps.ite h21 (State.addCause_keeps h21))))

theorem State.mergeMissing_keeps {s₀ s : State} {rid r partialOk k outObj present missing failed} (h : Keeps s₀ s) :
    Keeps s₀ (State.mergeMissing rid r partialOk k outObj present missing failed s) := by
  unfold State.mergeMissing
  extract_lets x0 x1
  have h2 : Keeps s₀ x1 := Keeps.ite h (State.modReq_keeps (State.raiseIrq_keeps (State.incBy_keeps (State.leaveFetches_keeps h))))
  exact Keeps.ite (State.mergeWrite_keeps h2) (State.endReq_keeps h2)

theorem State.mergeStep_keeps {s₀ s : State} {rid r partialOk k late nIn inObj outObj} (h : Keeps s₀ s) :
    Keeps s₀ (State.mergeStep rid r partialOk k late nIn inObj outObj s) := by
  unfold State.mergeStep
  refine Keeps.ite (State.endReq_keeps h) ?_
  extract_lets x0
  have h0 : Keeps s₀ x0.2.2 := by
    refine Keeps.foldl_at (fun b : List (Nat × Nat × InputAns) × Option (Nat × Nat) × State => b.2.2) h (fun b e hb => ?_)
    dsimp only
    split
    · exact hb
    · exact State.inputState_keeps hb
  clear_value x0
  split
  · exact State.endReq_keeps h0
  · exact Keeps.ite (State.mergeWrite_keeps h0) (Keeps.ite (State.mergeMissing_keeps h0) h0)

theorem execMerge_keeps {rid} (s : State) : ∃ t, execMerge rid s = .next t ∧ Keeps s t := by
  have h := Keeps.refl s
  refine ⟨_, rfl, ?_⟩
  split
  · exact Keeps.ite (State.mergeStep_keeps h) h
  · exact h

theorem execShardLateExpiry_keeps {rid} (s : State) : ∃ t, execShardLateExpiry rid s = .next t ∧ Keeps s t := by
  have h := Keeps.refl s
  refine ⟨_, rfl, ?_⟩
  split
  · exact Keeps.ite (State.mergeStep_keeps h) h
  · exact h

theorem State.answerSearch_keeps {s₀ s : State} {p result} (h : Keeps s₀ s) :
    Keeps s₀ (State.answerSearch p result s) := by
  unfold State.answerSearch
  extract_lets x0 x1 x2 x3
  have h4 : Keeps s₀ x0 := State.inc_keeps h
  have h5 : Keeps s₀ x2 := State.setLps_keeps h4
  have h6 : Keeps s₀ x3 := State.syncCtx_keeps (State.stopScans_keeps h5)
  exact Keeps.ite (State.emit_keeps h6) h6

theorem State.chargePeer_keeps {s₀ s : State} {p lanes} (h : Keeps s₀ s) :
    Keeps s₀ (State.chargePeer p lanes s) := by
  unfold State.chargePeer
  extract_lets x0 x1
  exact State.charge_keeps (State.setLps_keeps h)

theorem State.servePeer_keeps {s₀ s : State} {p} (h : Keeps s₀ s) : Keeps s₀ (State.servePeer p s) := by
  unfold State.servePeer
  extract_lets lp stopped t
  have ht : Keeps s₀ t := State.syncCtx_keeps (State.grantCtx_keeps h)
  clear_value t
  refine Keeps.ite (State.answerSearch_keeps h) (Keeps.ite h ?_)
  split
  · exact State.answerSearch_keeps ht
  · split
    · exact ht
    · extract_lets a u
      have ha : Keeps s₀ a.2.2 := by
        unfold a
        split
        · exact State.exactTurn_keeps ht
        · exact State.approxTurn_keeps ht
      have hu : Keeps s₀ u := State.chargePeer_keeps ha
      split
      · exact State.answerSearch_keeps (State.queryEnds_keeps hu)
      · exact State.answerSearch_keeps hu
      · exact State.putQuery_keeps hu

theorem State.servePeers_keeps {s₀ s : State} (h : Keeps s₀ s) :
    Keeps s₀ (State.servePeers s) := by
  unfold State.servePeers
  exact Keeps.foldl h (fun t0 y1 h2 => State.servePeer_keeps h2)

theorem State.peersRest_keeps {s₀ s : State} (h : Keeps s₀ s) :
    Keeps s₀ (State.peersRest s) := by
  unfold State.peersRest
  exact Keeps.ite (State.trimPools_keeps (State.releaseHolds_keeps (Keeps.foldl h (fun t0 y1 h2 => State.dropUnused_keeps h2)))) h

theorem execPeerSearch_keeps {lp slot index k l visitMax exact probe query} (s : State) : ∃ t, execPeerSearch lp slot index k l visitMax exact probe query s = .next t ∧ Keeps s t := by
  have h := Keeps.refl s
  refine ⟨_, rfl, ?_⟩
  extract_lets x0 x1 x2 x3 x4
  have h5 : Keeps s x0 := State.leaveDoze_keeps h
  have h6 : Keeps s x1 := State.emit_keeps (State.inc_keeps h5)
  refine Keeps.ite h ?_
  split
  · exact h6
  · extract_lets x12
    exact Keeps.ite h6 (State.servePeer_keeps (State.setLps_keeps h5))

theorem State.indexesLost_keeps {s₀ s : State} (h : Keeps s₀ s) :
    Keeps s₀ (State.indexesLost s) := by
  unfold State.indexesLost
  exact Keeps.foldl h (fun t0 x1 h2 => State.dropIndex_keeps h2)

end Sys2Proof.Machine
end

