-- ==== Sys2Proof/Laws/KeepsIse.lean ====
section
/-! SUPPORT. Every operation of `Machine/Ise` keeps the part, the tick, the queue and the canonical forms (`Keeps`), and every command
there answers a next state. -/

namespace Sys2Proof.Machine

theorem State.outIsF32_keeps {s₀ s : State} {e w id n} (h : Keeps s₀ s) :
    Keeps s₀ (State.outIsF32 e w id n s).2 := by
  unfold State.outIsF32
  refine Keeps.foldl_snd h (fun y0 y1 h2 => ?_)
  split
  · rename_i z3 z4 z5
    have h6 : Keeps s₀ z4 := Keeps.snd_eq (State.moverRead_keeps h2) z5
    exact h6
  · rename_i z7 z8 z9 z10
    have h11 : Keeps s₀ z9 := Keeps.snd_eq (State.moverRead_keeps h2) z10
    exact h11

theorem State.workingSet_keeps {s₀ s : State} {rid w c} (h : Keeps s₀ s) :
    Keeps s₀ (State.workingSet rid w c s).2 := by
  unfold State.workingSet
  extract_lets x0
  split
  · rename_i z1 z2 z3
    have h4 := Keeps.snd_eq (State.takeScratch_keeps h) z3
    exact State.takeScratch_keeps h4
  · rename_i z5 z6
    exact State.takeScratch_keeps h

theorem State.putIse_keeps {s₀ s : State} {k} (h : Keeps s₀ s) :
    Keeps s₀ (State.putIse k s) := by
  unfold State.putIse
  exact Keeps.same h rfl rfl rfl rfl rfl rfl

theorem State.solveStops_keeps {s₀ s : State} {k stop outcome cause} (h : Keeps s₀ s) :
    Keeps s₀ (State.solveStops k stop outcome cause s) := by
  unfold State.solveStops
  extract_lets x0 x1
  have h2 : Keeps s₀ x1 := State.putIse_keeps h
  exact Keeps.ite (State.inc_keeps h2) (Keeps.ite (State.raiseIrq_keeps (State.inc_keeps h2)) (Keeps.ite (State.raiseIrq_keeps h2) (Keeps.ite (State.raiseIrq_keeps h2) h2)))

theorem State.solveFails_keeps {s₀ s : State} {k e} (h : Keeps s₀ s) :
    Keeps s₀ (State.solveFails k e s) := by
  unfold State.solveFails
  exact State.solveStops_keeps h

theorem State.writeSolution_keeps {s₀ s : State} {rid r c k stop outcome cause} (h : Keeps s₀ s) :
    Keeps s₀ (State.writeSolution rid r c k stop outcome cause s) := by
  unfold State.writeSolution
  extract_lets x0 x1
  have h2 : Keeps s₀ x1.2 := by
    unfold x1
    refine Keeps.foldl_snd h (fun x3 x4 h5 => ?_)
    split
    · extract_lets x6
      split
      · rename_i z7 z8 z9
        have h10 := Keeps.snd_eq (State.putTile_keeps h5) z9
        dsimp only
        exact State.modReq_keeps h10
      · rename_i z11 z12
        exact State.putTile_keeps h5
    · exact h5
  refine State.needThen_keeps h2 (fun t13 h14 => ?_)
  extract_lets x15
  have h16 : Keeps s₀ x15 := State.wr_keeps h14
  exact Keeps.ite (State.endReq_keeps h16) (State.stepDone_keeps (State.dropQueries_keeps h16))

theorem State.iseInject_keeps {s₀ s : State} {rid e} (h : Keeps s₀ s) :
    Keeps s₀ (State.iseInject rid e s).2 := by
  unfold State.iseInject
  split
  · rename_i z0 z1 z2 z3
    have h4 := Keeps.snd_eq (State.takeInj_keeps h) z3
    split
    · exact h4
    · split
      · dsimp only
        exact State.corrected_keeps h4
      · dsimp only
        exact State.detectC1_keeps h4

theorem State.readWorking_keeps {s₀ s : State} {rid w e vecs} (h : Keeps s₀ s) :
    Keeps s₀ (State.readWorking rid w e vecs s).2 := by
  unfold State.readWorking
  extract_lets x0 x1 x2
  refine Keeps.foldl_snd h (fun y3 y4 h5 => ?_)
  refine Keeps.ite_at (fun (p : Bool × State) => p.2) ?_ ?_
  · exact h5
  · split
    · rename_i z6 z7 z8 z9
      have h10 : Keeps s₀ z8 := Keeps.snd_eq (State.eccRead_keeps (State.readTo_keeps h5)) z9
      dsimp only
      exact State.endFor_keeps h10
    · rename_i z11 z12 z13
      have h14 : Keeps s₀ z12 := Keeps.snd_eq (State.eccRead_keeps (State.readTo_keeps h5)) z13
      dsimp only
      exact Keeps.ite (State.crossed_keeps (State.countWrite_keeps h14)) h14

theorem State.withValues_keeps {s₀ s : State} {rid r ids k go} (h : Keeps s₀ s)
    (hgo : ∀ y1, Keeps s₀ y1 → Keeps s₀ (go y1)) :
    Keeps s₀ (State.withValues rid r ids k go s) := by
  unfold State.withValues
  refine State.needThen_keeps (State.needObjs_keeps h) (fun t0 h1 => ?_)
  refine Keeps.ite (State.endReq_keeps (State.inc_keeps h1)) ?_
  split
  · rename_i z2 z3 z4
    have h5 : Keeps s₀ z3 := Keeps.snd_eq (State.iseInject_keeps h1) z4
    exact h5
  · rename_i z6 z7 z8
    have h9 : Keeps s₀ z7 := Keeps.snd_eq (State.iseInject_keeps h1) z8
    split
    · rename_i z10 z11 z12
      have h13 : Keeps s₀ z11 := Keeps.snd_eq (State.readWorking_keeps h9) z12
      exact h13
    · rename_i z14 z15 z16
      have h17 : Keeps s₀ z15 := Keeps.snd_eq (State.readWorking_keeps h9) z16
      exact hgo _ h17

theorem State.buildPre_keeps {s₀ s : State} {c a k} (h : Keeps s₀ s) :
    Keeps s₀ (State.buildPre c a k s).2.2 := by
  unfold State.buildPre
  extract_lets x0 x1 x2 x3 x4
  have h5 : Keeps s₀ x2 := State.incBy_keeps h
  have h6 : Keeps s₀ x3 := Keeps.ite h5 (State.wr_keeps h5)
  split
  · exact h
  · split
    · exact h
    · split
      · split <;> exact h6
      · exact h

theorem State.setup_keeps {s₀ s : State} {rid r c q k} (h : Keeps s₀ s) :
    Keeps s₀ (State.setup rid r c q k s) := by
  unfold State.setup
  extract_lets x0 x1 x2
  refine Keeps.ite (State.solveFails_keeps h) ?_
  refine Keeps.ite (State.solveStops_keeps h) ?_
  split
  · rename_i z3 z4 z5
    have h6 := Keeps.snd_eq (State.iseInject_keeps h) z5
    exact h6
  · rename_i z7 z8 z9
    have h10 := Keeps.snd_eq (State.iseInject_keeps h) z9
    extract_lets x11 x12
    refine Keeps.ite (State.solveFails_keeps h10) ?_
    split
    · rename_i z13 z14 z15 z16 z17
      have h18 := Keeps.snd_snd_eq (State.buildPre_keeps h10) z17
      split
      · exact State.solveFails_keeps h18
      · split
        · exact State.solveFails_keeps h18
        · exact State.putIse_keeps h18

theorem State.beginSolve_keeps {s₀ s : State} {rid r c} (h : Keeps s₀ s) :
    Keeps s₀ (State.beginSolve rid r c s) := by
  unfold State.beginSolve
  extract_lets x0 x1 x2 x3
  refine Keeps.ite (State.endReq_keeps h) ?_
  split
  · rename_i z4 z5 z6 z7
    have h8 : Keeps s₀ z6 := Keeps.snd_eq (State.outIsF32_keeps h) z7
    refine Keeps.ite (State.endReq_keeps h8) ?_
    refine State.needThen_keeps (State.workingSet_keeps h8) (fun t9 h10 => ?_)
    refine State.withObjs_keeps h10 (fun t11 h12 => ?_)
    extract_lets x13 x14 x15
    have h16 : Keeps s₀ x13 := State.inc64_keeps h12
    have h17 : Keeps s₀ x15 := Keeps.same h16 rfl rfl rfl rfl rfl rfl
    exact State.setup_keeps h17

theorem State.recheck_keeps {s₀ s : State} {rid a b k} (h : Keeps s₀ s) :
    Keeps s₀ (State.recheck rid a b k s).2 := by
  unfold State.recheck
  extract_lets x0
  have h1 : Keeps s₀ x0 := State.inc_keeps h
  split
  · dsimp only
    exact State.detectC1_keeps (State.raiseIrq_keeps (State.inc_keeps (State.wr_keeps h1)))
  · split <;> exact h1

theorem State.restart_keeps {s₀ s : State} {c k rt} (h : Keeps s₀ s) :
    Keeps s₀ (State.restart c k rt s) := by
  unfold State.restart
  split
  · exact State.solveFails_keeps h
  · split
    · exact State.solveFails_keeps h
    · exact State.inc_keeps (State.putIse_keeps h)

theorem State.solveTurn_keeps {s₀ s : State} {rid r c k} (h : Keeps s₀ s) :
    Keeps s₀ (State.solveTurn rid r c k s) := by
  unfold State.solveTurn
  extract_lets x0 x1 x2 x3
  refine Keeps.ite ?_ ?_
  · split
    · rename_i z4 z5 z6
      have h7 := Keeps.snd_eq (State.recheck_keeps h) z6
      exact h7
    · rename_i z8 z9 z10 z11
      have h12 := Keeps.snd_eq (State.recheck_keeps h) z11
      exact State.solveFails_keeps h12
    · rename_i z13 z14 z15 z16 z17 z18
      have h19 := Keeps.snd_eq (State.recheck_keeps h) z18
      extract_lets x20
      exact Keeps.ite (Keeps.ite (State.restart_keeps h19) (State.putIse_keeps h19)) (Keeps.ite (State.solveStops_keeps h19) (Keeps.ite (State.solveStops_keeps h19) (State.restart_keeps h19)))
  · split
    · extract_lets x21
      have h22 : Keeps s₀ x21 := Keeps.ite (State.inc_keeps h) h
      exact State.solveFails_keeps h22
    · extract_lets x23
      have h24 : Keeps s₀ x23 := State.inc_keeps h
      exact State.putIse_keeps h24

theorem State.solveOn_keeps {s₀ s : State} {rid r c k} (h : Keeps s₀ s) :
    Keeps s₀ (State.solveOn rid r c k s) := by
  unfold State.solveOn
  extract_lets x0
  have h1 : ∀ y1, Keeps s₀ y1 → Keeps s₀ (x0 y1) := by
    intro t2 h3
    unfold x0
    split
    · split
      · exact State.writeSolution_keeps h3
      · exact h3
    · exact h3
  split
  · exact State.writeSolution_keeps h
  · exact State.withValues_keeps h (fun t4 h5 => h1 _ (State.solveTurn_keeps h5))

theorem execSolve_keeps {rid} (s : State) : ∃ t, execSolve rid s = .next t ∧ Keeps s t := by
  have h := Keeps.refl s
  refine ⟨_, rfl, ?_⟩
  split
  · exact h
  · split
    · exact State.solveOn_keeps h
    · extract_lets x0
      have h1 : Keeps s x0 := State.beginSolve_keeps h
      split
      · split
        · exact State.writeSolution_keeps h1
        · exact h1
      · exact h1

theorem execRecheckDue_keeps {ise} (s : State) : ∃ t, execRecheckDue ise s = .next t ∧ Keeps s t := by
  have h := Keeps.refl s
  refine ⟨_, rfl, ?_⟩
  split
  · exact h
  · split
    · exact State.solveOn_keeps h
    · exact h

end Sys2Proof.Machine
end

