-- ==== Sys2Proof/Laws/KeepsTime.lean ====
section
/-! SUPPORT. Every operation of `Machine/Time` keeps the part, the tick, the queue and the canonical forms (`Keeps`), and every command
there answers a next state. -/

namespace Sys2Proof.Machine

theorem State.setHm_keeps {s₀ s : State} {h0} (h : Keeps s₀ s) :
    Keeps s₀ (State.setHm h0 s) := by
  unfold State.setHm
  exact Keeps.same h rfl rfl rfl rfl rfl rfl

theorem State.setDom_keeps {s₀ s : State} {d x} (h : Keeps s₀ s) :
    Keeps s₀ (State.setDom d x s) := by
  unfold State.setDom
  extract_lets x0
  exact State.setHm_keeps h

end Sys2Proof.Machine
end

