-- ==== Sys2Proof/Laws/KeepsFiligree.lean ====
section
/-! SUPPORT. Every operation of `Machine/Filigree` keeps the part, the tick, the queue and the canonical forms (`Keeps`), and every command
there answers a next state. -/

namespace Sys2Proof.Machine

theorem State.setFil_keeps {s₀ s : State} {f} (h : Keeps s₀ s) :
    Keeps s₀ (State.setFil f s) := by
  unfold State.setFil
  exact Keeps.same h rfl rfl rfl rfl rfl rfl

theorem State.setChan_keeps {s₀ s : State} {k c} (h : Keeps s₀ s) :
    Keeps s₀ (State.setChan k c s) := by
  unfold State.setChan
  extract_lets x0
  exact State.setFil_keeps h

theorem State.ringRecord_keeps {s₀ s : State} {k b} (h : Keeps s₀ s) :
    Keeps s₀ (State.ringRecord k b s) := by
  unfold State.ringRecord
  extract_lets x0 x1
  exact Keeps.ite h (Keeps.ite (State.raiseIrq_keeps (State.inc_keeps (State.setW1c_keeps h))) (State.wr_keeps (State.storeFrom_keeps h)))

theorem State.collect_keeps {s₀ s : State} {k range raw sat unsettled} (h : Keeps s₀ s) :
    Keeps s₀ (State.collect k range raw sat unsettled s) := by
  unfold State.collect
  split
  · exact h
  · extract_lets x0 x1 x2
    exact Keeps.ite (State.setFil_keeps h) h

theorem State.calAbort_keeps {s₀ s : State} {reason} (h : Keeps s₀ s) :
    Keeps s₀ (State.calAbort reason s) := by
  unfold State.calAbort
  extract_lets x0
  exact State.raiseIrq_keeps (State.wr_keeps (State.wr_keeps (State.setFil_keeps h)))

theorem State.calStop_keeps {s₀ s : State} {k reason} (h : Keeps s₀ s) :
    Keeps s₀ (State.calStop k reason s) := by
  unfold State.calStop
  split
  · exact Keeps.ite (State.calAbort_keeps h) h
  · exact h

theorem State.writeRec_keeps {s₀ s : State} {k c ok r} (h : Keeps s₀ s) :
    Keeps s₀ (State.writeRec k c ok r s) := by
  unfold State.writeRec
  extract_lets x0 x1 x2 x3 x4 x5 x6 x7 x8 x9 x10 x11 x12
  have h13 : Keeps s₀ x9 := State.ringRecord_keeps h
  have h14 : Keeps s₀ x10 := State.wr_keeps (State.wr_keeps (State.wr_keeps h13))
  have h15 : Keeps s₀ x11 := State.fire_keeps (State.wr_keeps (State.wr_keeps h14))
  have h16 : Keeps s₀ x12 := Keeps.ite (State.raiseIrq_keeps (State.inc_keeps h15)) h15
  exact Keeps.ite (State.calStop_keeps h16) (Keeps.ite (State.collect_keeps h16) h16)

theorem State.clearLast_keeps {s₀ s : State} {k} (h : Keeps s₀ s) :
    Keeps s₀ (State.clearLast k s) := by
  unfold State.clearLast
  exact State.wr_keeps (State.wr_keeps (State.wr_keeps (State.wr_keeps (State.wr_keeps h))))

theorem State.syncFil_keeps {s₀ s : State} (h : Keeps s₀ s) :
    Keeps s₀ (State.syncFil s) := by
  unfold State.syncFil
  extract_lets x0 x1
  have h2 : Keeps s₀ x1 := Keeps.ite h (State.wr_keeps h)
  split
  · exact Keeps.ite h2 (State.goto_keeps h2)
  · exact State.settle_keeps h2
  · exact h2

theorem State.slotFlush_keeps {s₀ s : State} {k new} (h : Keeps s₀ s) :
    Keeps s₀ (State.slotFlush k new s) := by
  unfold State.slotFlush
  extract_lets x0 x1 x2 x3 x4
  exact Keeps.ite (Keeps.foldl (State.setChan_keeps h) (fun t5 y6 h7 => State.writeRec_keeps h7)) h

theorem State.applyCommit_keeps {s₀ s : State} {k new} (h : Keeps s₀ s) :
    Keeps s₀ (State.applyCommit k new s) := by
  unfold State.applyCommit
  extract_lets x0 x1 x2 x3 x4 x5 x6 x7 x8
  have h9 : Keeps s₀ x0 := State.slotFlush_keeps h
  have h10 : Keeps s₀ x5 := State.calStop_keeps h9
  have h11 : Keeps s₀ x8 := Keeps.ite (State.clearLast_keeps h10) h10
  exact State.syncFil_keeps (State.wr_keeps (State.setChan_keeps h11))

theorem State.commitOne_keeps {s₀ s : State} {k} (h : Keeps s₀ s) :
    Keeps s₀ (State.commitOne k s) := by
  unfold State.commitOne
  extract_lets x0 x1 x2 x3
  have h10 : Keeps s₀ x3 := by
    unfold x3
    split
    · exact Keeps.ite (State.setChan_keeps h) h
    · exact h
  exact Keeps.ite (State.raiseIrq_keeps (State.wr_keeps (State.setW1c_keeps h10))) (State.wr_keeps (State.setChan_keeps h))

theorem State.commit_keeps {s₀ s : State} {mask} (h : Keeps s₀ s) :
    Keeps s₀ (State.commit mask s) := by
  unfold State.commit
  exact Keeps.foldl h (fun t0 x1 h2 => State.commitOne_keeps h2)

theorem execCommit_keeps {rq mask} (s : State) : ∃ t, execCommit rq mask s = .next t ∧ Keeps s t :=
  have h := Keeps.refl s
  ⟨_, rfl, State.access_keeps h (fun t0 h1 => State.commit_keeps h1)⟩

theorem State.slotStopped_keeps {s₀ s : State} {k inBits} (h : Keeps s₀ s) :
    Keeps s₀ (State.slotStopped k inBits s) := by
  unfold State.slotStopped
  extract_lets x0 x1 x2
  exact Keeps.ite (State.calStop_keeps (State.setChan_keeps h)) (State.setChan_keeps h)

theorem State.slotResume_keeps {s₀ s : State} {k slot} (h : Keeps s₀ s) :
    Keeps s₀ (State.slotResume k slot s) := by
  unfold State.slotResume
  extract_lets x0
  exact Keeps.ite (State.clearLast_keeps (State.setChan_keeps h)) (Keeps.ite (State.setChan_keeps h) h)

theorem State.slotInject_keeps {s₀ s : State} {k} (h : Keeps s₀ s) :
    Keeps s₀ (State.slotInject k s).2 := by
  unfold State.slotInject
  split
  · rename_i z0 z1 z2 z3
    have h4 := Keeps.snd_eq (State.takeInj_keeps h) z3
    extract_lets x5 x6
    have h7 : Keeps s₀ x5 := Keeps.ite (State.corrected_keeps h4) h4
    have h8 : Keeps s₀ x6 := State.raiseIrq_keeps (State.inc_keeps (State.wr_keeps h7))
    split
    · dsimp only
      exact State.detect_keeps h4
    · split
      · dsimp only
        exact State.detect_keeps h8
      · exact h7

theorem State.syncSettle_keeps {s₀ s : State} {k} (h : Keeps s₀ s) :
    Keeps s₀ (State.syncSettle k s) := by
  unfold State.syncSettle
  extract_lets x0
  exact State.wr_keeps h

theorem State.slotPath_keeps {s₀ s : State} {k inBits slot} (h : Keeps s₀ s) :
    Keeps s₀ (State.slotPath k inBits slot s) := by
  unfold State.slotPath
  extract_lets x0 x1 x2 x3 x4 x5 x6
  split
  · rename_i z7 z8 z9 z10
    have h11 := Keeps.snd_eq (State.slotInject_keeps h) z10
    extract_lets x12 x13
    have h14 : Keeps s₀ x13 := Keeps.foldl (State.setChan_keeps h11) (fun t15 x16 h17 => State.writeRec_keeps h17)
    exact State.syncSettle_keeps h14

theorem State.slotNoClock_keeps {s₀ s : State} {k slot} (h : Keeps s₀ s) :
    Keeps s₀ (State.slotNoClock k slot s) := by
  unfold State.slotNoClock
  extract_lets x0 x1
  have h2 : Keeps s₀ x1 := Keeps.ite h (State.raiseIrq_keeps h)
  exact State.calStop_keeps (State.setChan_keeps h2)

theorem execChannelSlot_keeps {k bits} (s : State) : ∃ t, execChannelSlot k bits s = .next t ∧ Keeps s t := by
  have h := Keeps.refl s
  refine ⟨_, rfl, ?_⟩
  extract_lets x0 x1 x2 x3 x4 x5 x6
  have h7 : Keeps s x1 := by
    unfold x1
    split
    · exact Keeps.ite (State.applyCommit_keeps h) h
    · exact h
  have h8 : Keeps s x3 := State.slotResume_keeps h7
  have h9 : Keeps s x6 := by
    unfold x6
    split
    · exact State.setChan_keeps h8
    · exact h8
  exact Keeps.ite h (Keeps.ite (State.slotStopped_keeps h) (Keeps.ite (State.setChan_keeps h7) (Keeps.ite (State.slotNoClock_keeps h8) (State.slotPath_keeps h9))))

theorem execTimingSlip_keeps {k} (s : State) : ∃ t, execTimingSlip k s = .next t ∧ Keeps s t := by
  have h := Keeps.refl s
  refine ⟨_, rfl, ?_⟩
  extract_lets x0
  exact Keeps.ite (State.setChan_keeps h) h

theorem State.deliverSample_keeps {s₀ s : State} {port cs v t} (h : Keeps s₀ s) :
    Keeps s₀ (State.deliverSample port cs v t s) := by
  unfold State.deliverSample
  refine Keeps.foldl h (fun t0 x1 h2 => ?_)
  extract_lets x3
  exact Keeps.ite (State.setChan_keeps h2) h2

theorem State.gridEdge_keeps {s₀ s : State} {f t p} (h : Keeps s₀ s) :
    Keeps s₀ (State.gridEdge f t p s) := by
  unfold State.gridEdge
  refine Keeps.foldl h (fun t0 x1 h2 => ?_)
  extract_lets x3
  exact Keeps.ite (Keeps.ite (State.setChan_keeps h2) (State.setChan_keeps h2)) h2

theorem State.filHalt_keeps {s₀ s : State} {kind} (h : Keeps s₀ s) :
    Keeps s₀ (State.filHalt kind s) := by
  unfold State.filHalt
  extract_lets x0 x1
  exact State.setFil_keeps h

theorem State.filLost_keeps {s₀ s : State} (h : Keeps s₀ s) :
    Keeps s₀ (State.filLost s) := by
  unfold State.filLost
  extract_lets x0 x1 x2
  have h3 : Keeps s₀ x1 := State.setFil_keeps h
  have h4 : Keeps s₀ x2 := Keeps.filtered h3 _ (fun _ => true) rfl rfl rfl rfl rfl (filter_true _).symm
  exact State.wr_keeps h4

theorem State.outEnable_keeps {s₀ s : State} (h : Keeps s₀ s) :
    Keeps s₀ (State.outEnable s) := by
  unfold State.outEnable
  extract_lets x0
  have h1 : Keeps s₀ x0 := State.wr_keeps h
  exact Keeps.ite h1 (State.setW1c_keeps h1)

theorem execOutEnable_keeps {rq} (s : State) : ∃ t, execOutEnable rq s = .next t ∧ Keeps s t :=
  have h := Keeps.refl s
  ⟨_, rfl, State.access_keeps h (fun t0 h1 => State.outEnable_keeps h1)⟩

theorem State.calStart_keeps {s₀ s : State} {channel range ref} (h : Keeps s₀ s) :
    Keeps s₀ (State.calStart channel range ref s) := by
  unfold State.calStart
  extract_lets x0 x1
  have h2 : Keeps s₀ x1 := State.setFil_keeps h
  exact Keeps.ite (State.reject_keeps h) (State.wr_keeps (State.wr_keeps (State.wr_keeps (State.wr_keeps h2))))

theorem execCalStart_keeps {rq channel range ref} (s : State) : ∃ t, execCalStart rq channel range ref s = .next t ∧ Keeps s t :=
  have h := Keeps.refl s
  ⟨_, rfl, State.access_keeps h (fun t0 h1 => State.calStart_keeps h1)⟩

theorem State.calWrite_keeps {s₀ s : State} {k r gain v} (h : Keeps s₀ s) :
    Keeps s₀ (State.calWrite k r gain v s) := by
  unfold State.calWrite
  exact State.orBits_keeps (State.wr_keeps h)

theorem execCalResult_keeps (s : State) : ∃ t, execCalResult s = .next t ∧ Keeps s t := by
  have h := Keeps.refl s
  refine ⟨_, rfl, ?_⟩
  split
  · exact h
  · extract_lets x0 x1 x2 x3
    refine Keeps.ite h ?_
    split
    · extract_lets x4 x5 x6 x7 x8
      have h9 : Keeps s x5 := Keeps.ite h (Keeps.ite (State.calWrite_keeps h) (State.calWrite_keeps h))
      have h10 : Keeps s x6 := State.wr_keeps (State.wr_keeps (State.wr_keeps h9))
      have h11 : Keeps s x7 := State.wr_keeps (State.wr_keeps h10)
      exact State.raiseIrq_keeps (State.fire_keeps (State.setFil_keeps h11))

theorem execCalTimeout_keeps (s : State) : ∃ t, execCalTimeout s = .next t ∧ Keeps s t := by
  have h := Keeps.refl s
  refine ⟨_, rfl, ?_⟩
  split
  · exact h
  · exact Keeps.ite (State.calAbort_keeps h) h

theorem execFilter_keeps {rid} (s : State) : ∃ t, execFilter rid s = .next t ∧ Keeps s t := by
  have h := Keeps.refl s
  refine ⟨_, rfl, ?_⟩
  split
  · extract_lets x9
    refine Keeps.ite h ?_
    refine Keeps.ite (State.endReq_keeps h) ?_
    refine State.withObjs_keeps h (fun t10 h11 => ?_)
    extract_lets x12
    split
    · exact State.stepDone_keeps (State.inc_keeps h11)
    · extract_lets x18
      refine State.needThen_keeps (State.putTile_keeps h11) (fun t19 h20 => ?_)
      extract_lets x21
      have h22 : Keeps s x21 := State.modReq_keeps h20
      exact Keeps.ite (State.stepDone_keeps (State.inc_keeps h22)) h22
  · exact h

end Sys2Proof.Machine
end

