-- ==== Sys2Proof/Laws/KeepsHallmark.lean ====
section
/-! SUPPORT. Every operation of `Machine/Hallmark` keeps the part, the tick, the queue and the canonical forms (`Keeps`), and every command
there answers a next state. -/

namespace Sys2Proof.Machine

theorem State.startSlew_keeps {s₀ s : State} (h : Keeps s₀ s) :
    Keeps s₀ (State.startSlew s) := by
  unfold State.startSlew
  extract_lets x0
  exact State.wr_keeps h

theorem State.syncLocked_keeps {s₀ s : State} (h : Keeps s₀ s) :
    Keeps s₀ (State.syncLocked s) := by
  unfold State.syncLocked
  extract_lets x0 x1
  have h2 : Keeps s₀ x1 := State.raiseIrq_keeps (State.wr_keeps h)
  exact Keeps.ite h (Keeps.ite (State.startSlew_keeps h2) h2)

theorem State.domFire_keeps {s₀ s : State} {d what} (h : Keeps s₀ s) :
    Keeps s₀ (State.domFire d what s) := by
  unfold State.domFire
  exact State.fire_keeps h

theorem State.modDom_keeps {s₀ s : State} {d f} (h : Keeps s₀ s) :
    Keeps s₀ (State.modDom d f s) := by
  unfold State.modDom
  exact State.setDom_keeps h

theorem State.setDomState_keeps {s₀ s : State} {d st what} (h : Keeps s₀ s) :
    Keeps s₀ (State.setDomState d st what s) := by
  unfold State.setDomState
  extract_lets x0 x1 x2 x3
  have h4 : Keeps s₀ x0 := Keeps.ite (State.modDom_keeps h) h
  have h5 : Keeps s₀ x1 := State.wr_keeps h4
  have h6 : Keeps s₀ x2 := Keeps.ite (State.inc_keeps h5) h5
  have h7 : Keeps s₀ x3 := Keeps.ite (State.modDom_keeps h6) h6
  exact Keeps.ite h (State.syncLocked_keeps (State.domFire_keeps h7))

theorem State.stepCell_keeps {s₀ s : State} {t} (h : Keeps s₀ s) :
    Keeps s₀ (State.stepCell t s) := by
  unfold State.stepCell
  extract_lets x0 x1 x2 x3
  have h4 : Keeps s₀ x1 := State.setHm_keeps h
  have h5 : Keeps s₀ x2 := Keeps.ite (State.modDom_keeps h4) h4
  have h6 : Keeps s₀ x3 := State.raiseIrq_keeps (State.wr64_keeps (State.wr_keeps h5))
  exact State.startSlew_keeps h6

theorem State.switchTo_keeps {s₀ s : State} {d cause} (h : Keeps s₀ s) :
    Keeps s₀ (State.switchTo d cause s) := by
  unfold State.switchTo
  extract_lets x0 x1 x2
  have h3 : Keeps s₀ x0 := State.wr_keeps (State.wr_keeps h)
  have h4 : Keeps s₀ x2 := Keeps.ite h3 (State.setHm_keeps h3)
  exact Keeps.ite h (State.startSlew_keeps (State.syncLocked_keeps (State.raiseIrq_keeps (State.fire_keeps h4))))

theorem State.hmApply_keeps {s₀ s : State} (h : Keeps s₀ s) :
    Keeps s₀ (State.hmApply s) := by
  unfold State.hmApply
  split
  · exact h
  · extract_lets x0 x1 x2 x3
    have h4 : Keeps s₀ x2 := State.setHm_keeps h
    have h5 : Keeps s₀ x3 := Keeps.ite h4 (Keeps.ite (State.stepCell_keeps h4) (Keeps.ite (State.stepCell_keeps h4) (State.switchTo_keeps h4)))
    exact State.wr_keeps (State.wr_keeps (State.wr_keeps h5))

theorem State.hmCmd_keeps {s₀ s : State} {code} (h : Keeps s₀ s) :
    Keeps s₀ (State.hmCmd code s) := by
  unfold State.hmCmd
  extract_lets x0
  exact State.wr_keeps (State.setHm_keeps h)

theorem execSet_keeps {rq} (s : State) : ∃ t, execSet rq s = .next t ∧ Keeps s t :=
  have h := Keeps.refl s
  ⟨_, rfl, State.access_keeps h (fun t0 h1 => State.hmCmd_keeps h1)⟩

theorem execSnap_keeps {rq} (s : State) : ∃ t, execSnap rq s = .next t ∧ Keeps s t :=
  have h := Keeps.refl s
  ⟨_, rfl, State.access_keeps h (fun t0 h1 => State.hmCmd_keeps h1)⟩

theorem execSwitchPri_keeps {rq} (s : State) : ∃ t, execSwitchPri rq s = .next t ∧ Keeps s t :=
  have h := Keeps.refl s
  ⟨_, rfl, State.access_keeps h (fun t0 h1 => State.hmCmd_keeps h1)⟩

theorem execSwitchSec_keeps {rq} (s : State) : ∃ t, execSwitchSec rq s = .next t ∧ Keeps s t :=
  have h := Keeps.refl s
  ⟨_, rfl, State.access_keeps h (fun t0 h1 => State.hmCmd_keeps h1)⟩

theorem execHmCmdInvalid_keeps {rq code} (s : State) : ∃ t, execHmCmdInvalid rq code s = .next t ∧ Keeps s t :=
  have h := Keeps.refl s
  ⟨_, rfl, Keeps.ite (State.access_keeps h (fun t0 h1 => State.hmCmd_keeps h1)) h⟩

theorem State.domApply_keeps {s₀ s : State} {d} (h : Keeps s₀ s) :
    Keeps s₀ (State.domApply d s) := by
  unfold State.domApply
  split
  · exact h
  · extract_lets x4 x5
    have h9 : Keeps s₀ x4 := Keeps.foldl h (fun t6 y7 h8 => State.setWord_keeps h8)
    have h10 : Keeps s₀ x5 := State.modDom_keeps h9
    exact Keeps.ite (State.setDomState_keeps h10) (Keeps.ite (State.setDomState_keeps h10) h10)

theorem State.domWrite_keeps {s₀ s : State} {d word value} (h : Keeps s₀ s) :
    Keeps s₀ (State.domWrite d word value s) := by
  unfold State.domWrite
  exact Keeps.ite (State.reject_keeps h) (State.modDom_keeps h)

theorem execDomainConfigWrite_keeps {rq d word value} (s : State) : ∃ t, execDomainConfigWrite rq d word value s = .next t ∧ Keeps s t :=
  have h := Keeps.refl s
  ⟨_, rfl, Keeps.ite (State.access_keeps h (fun t0 h1 => State.domWrite_keeps h1)) h⟩

theorem State.timeTick_keeps {s₀ s : State} (h : Keeps s₀ s) :
    Keeps s₀ (State.timeTick s) := by
  unfold State.timeTick
  extract_lets x0 x1 x2
  exact State.setHm_keeps h

theorem State.fsTick_keeps {s₀ s : State} (h : Keeps s₀ s) :
    Keeps s₀ (State.fsTick s) := by
  unfold State.fsTick
  refine Keeps.foldl h (fun t0 x1 h2 => ?_)
  extract_lets x3
  exact State.setHm_keeps h2

theorem State.hmTick_keeps {s₀ s : State} (h : Keeps s₀ s) :
    Keeps s₀ (State.hmTick s) := by
  unfold State.hmTick
  exact State.fsTick_keeps (State.domApply_keeps (State.domApply_keeps (State.hmApply_keeps (State.timeTick_keeps h))))

theorem execAutoSwitch_keeps (s : State) : ∃ t, execAutoSwitch s = .next t ∧ Keeps s t := by
  have h := Keeps.refl s
  refine ⟨_, rfl, ?_⟩
  extract_lets x0
  exact Keeps.ite (State.switchTo_keeps h) h

theorem execInitialStep_keeps (s : State) : ∃ t, execInitialStep s = .next t ∧ Keeps s t :=
  have h := Keeps.refl s
  ⟨_, rfl, Keeps.ite (State.stepCell_keeps h) h⟩

theorem execSlewEnd_keeps (s : State) : ∃ t, execSlewEnd s = .next t ∧ Keeps s t :=
  have h := Keeps.refl s
  ⟨_, rfl, Keeps.ite (State.wr_keeps h) h⟩

theorem State.hmToKeeper_keeps {s₀ s : State} (h : Keeps s₀ s) :
    Keeps s₀ (State.hmToKeeper s) := by
  unfold State.hmToKeeper
  extract_lets x0
  have h1 : Keeps s₀ x0 := State.wr_keeps h
  exact Keeps.foldl (State.wr_keeps h1) (fun t2 x3 h4 => Keeps.ite h4 (State.setDomState_keeps h4))

theorem State.hmStop_keeps {s₀ s : State} (h : Keeps s₀ s) :
    Keeps s₀ (State.hmStop s) := by
  unfold State.hmStop
  extract_lets x0
  have h1 : Keeps s₀ x0 := State.wr_keeps h
  exact Keeps.foldl (State.wr_keeps h1) (fun t2 x3 h4 => State.setDomState_keeps h4)

theorem State.hmRestart_keeps {s₀ s : State} (h : Keeps s₀ s) :
    Keeps s₀ (State.hmRestart s) := by
  unfold State.hmRestart
  extract_lets x0 x1
  have h2 : Keeps s₀ x0 := State.wr_keeps h
  have h3 : Keeps s₀ x1 := by
    unfold x1
    refine Keeps.foldl h2 (fun t4 x5 h6 => ?_)
    extract_lets x7
    have h8 : Keeps s₀ x7 := State.modDom_keeps h6
    exact Keeps.ite (State.setDomState_keeps h8) h8
  exact State.syncLocked_keeps h3

theorem execHmCoreStart_keeps (s : State) : ∃ t, execHmCoreStart s = .next t ∧ Keeps s t :=
  have h := Keeps.refl s
  ⟨_, rfl, Keeps.ite (State.hmRestart_keeps (State.goto_keeps h)) h⟩

theorem State.someInstant_keeps {s₀ s : State} (h : Keeps s₀ s) :
    Keeps s₀ (State.someInstant s).2 := by
  unfold State.someInstant
  split
  · rename_i z0 z1 z2 z3
    have h4 := Keeps.snd_eq (State.freeBits_keeps h) z3
    exact h4

theorem State.hmSnap_keeps {s₀ s : State} {rq} (h : Keeps s₀ s) :
    Keeps s₀ (State.hmSnap rq s).2 := by
  unfold State.hmSnap
  split
  · rename_i z0 z1 z2 z3
    have h4 := Keeps.snd_eq (State.someInstant_keeps h) z3
    extract_lets x5 x6 x7
    dsimp only
    exact State.setHm_keeps h4

theorem State.stampSnap_keeps {s₀ s : State} {rq l} (h : Keeps s₀ s) :
    Keeps s₀ (State.stampSnap rq l s).2 := by
  unfold State.stampSnap
  extract_lets x0 x1
  dsimp only
  exact State.setHm_keeps h

theorem State.emitPtp_keeps {s₀ s : State} {d kind seq t} (h : Keeps s₀ s) :
    Keeps s₀ (State.emitPtp d kind seq t s) := by
  unfold State.emitPtp
  exact State.emit_keeps h

theorem State.servo_keeps {s₀ s : State} {d} (h : Keeps s₀ s) :
    Keeps s₀ (State.servo d s) := by
  unfold State.servo
  split
  · rename_i z0 z1 z2 z3
    have h4 := Keeps.snd_eq (State.freeBits_keeps h) z3
    extract_lets x5 x6 x7
    have h8 : Keeps s₀ x6 := State.wr_keeps (State.modDom_keeps h4)
    exact Keeps.ite (State.setHm_keeps h8) h8

theorem State.measure_keeps {s₀ s : State} {d off} (h : Keeps s₀ s) :
    Keeps s₀ (State.measure d off s) := by
  unfold State.measure
  extract_lets x0 x1 x2 x3 x4 x5 x6 x7 x8
  have h9 : Keeps s₀ x2 := State.wr_keeps (State.inc_keeps h)
  have h10 : Keeps s₀ x5 := State.modDom_keeps h9
  have h11 : Keeps s₀ x7 := Keeps.ite (State.setDomState_keeps h10) (Keeps.ite (State.setDomState_keeps h10) (Keeps.ite (State.setDomState_keeps h10) (Keeps.ite (State.setDomState_keeps h10) h10)))
  have h12 : Keeps s₀ x8 := Keeps.ite (State.domFire_keeps (State.modDom_keeps h11)) h11
  exact State.servo_keeps h12

theorem State.syncSeen_keeps {s₀ s : State} {d log} (h : Keeps s₀ s) :
    Keeps s₀ (State.syncSeen d log s) := by
  unfold State.syncSeen
  exact State.wr_keeps (State.modDom_keeps h)

theorem State.measureSync_keeps {s₀ s : State} {d origin recv correction} (h : Keeps s₀ s) :
    Keeps s₀ (State.measureSync d origin recv correction s) := by
  unfold State.measureSync
  extract_lets x0 x1
  have h2 : Keeps s₀ x1 := State.modDom_keeps h
  exact State.measure_keeps h2

theorem execSync_keeps {d valid twoStep seq logInterval origin recv correction} (s : State) : ∃ t, execSync d valid twoStep seq logInterval origin recv correction s = .next t ∧ Keeps s t := by
  have h := Keeps.refl s
  refine ⟨_, rfl, ?_⟩
  extract_lets x0 x1
  have h2 : Keeps s x1 := State.syncSeen_keeps h
  exact Keeps.ite (Keeps.ite (State.modDom_keeps h2) (State.measureSync_keeps h2)) h

theorem execFollowUp_keeps {d seq origin correction} (s : State) : ∃ t, execFollowUp d seq origin correction s = .next t ∧ Keeps s t := by
  have h := Keeps.refl s
  refine ⟨_, rfl, ?_⟩
  refine Keeps.ite ?_ h
  split
  · exact Keeps.ite (State.measureSync_keeps (State.modDom_keeps h)) h
  · exact h

theorem State.setDelay_keeps {s₀ s : State} {d v} (h : Keeps s₀ s) :
    Keeps s₀ (State.setDelay d v s) := by
  unfold State.setDelay
  exact State.wr_keeps (State.modDom_keeps h)

theorem execDelayReq_keeps {d seq recv} (s : State) : ∃ t, execDelayReq d seq recv s = .next t ∧ Keeps s t :=
  have h := Keeps.refl s
  ⟨_, rfl, Keeps.ite (State.emit_keeps h) h⟩

theorem execDelayResp_keeps {d seq recv correction} (s : State) : ∃ t, execDelayResp d seq recv correction s = .next t ∧ Keeps s t := by
  have h := Keeps.refl s
  refine ⟨_, rfl, ?_⟩
  refine Keeps.ite ?_ h
  split
  · exact Keeps.ite (State.setDelay_keeps (State.modDom_keeps h)) h
  · exact h

theorem State.sendStamp_keeps {s₀ s : State} {line} (h : Keeps s₀ s) :
    Keeps s₀ (State.sendStamp line s).2 := by
  unfold State.sendStamp
  split
  · rename_i z0 z1 z2 z3
    have h4 := Keeps.snd_eq (State.someInstant_keeps h) z3
    exact h4

theorem execPdelayReq_keeps {d seq recv} (s : State) : ∃ t, execPdelayReq d seq recv s = .next t ∧ Keeps s t := by
  have h := Keeps.refl s
  refine ⟨_, rfl, ?_⟩
  extract_lets x0
  have h1 : Keeps s x0 := State.emit_keeps h
  refine Keeps.ite ?_ h
  split
  · rename_i z2 z3 z4 z5
    have h6 := Keeps.snd_eq (State.sendStamp_keeps h1) z5
    exact State.emit_keeps h6

theorem execPdelayResp_keeps {d seq twoStep peerRecv recv correction} (s : State) : ∃ t, execPdelayResp d seq twoStep peerRecv recv correction s = .next t ∧ Keeps s t := by
  have h := Keeps.refl s
  refine ⟨_, rfl, ?_⟩
  refine Keeps.ite ?_ h
  split
  · exact Keeps.ite h (Keeps.ite (State.modDom_keeps h) (State.setDelay_keeps (State.modDom_keeps h)))
  · exact h

theorem execPdelayRespFollowUp_keeps {d seq peerSend correction} (s : State) : ∃ t, execPdelayRespFollowUp d seq peerSend correction s = .next t ∧ Keeps s t := by
  have h := Keeps.refl s
  refine ⟨_, rfl, ?_⟩
  refine Keeps.ite ?_ h
  split
  · exact Keeps.ite (State.setDelay_keeps (State.modDom_keeps h)) h
  · exact h

theorem execAnnouncePtp_keeps {d a} (s : State) : ∃ t, execAnnouncePtp d a s = .next t ∧ Keeps s t := by
  have h := Keeps.refl s
  refine ⟨_, rfl, ?_⟩
  extract_lets x0 x1 x2 x3 x4 x5 x6
  have h7 : Keeps s x0 := State.wr_keeps h
  have h8 : Keeps s x4 := State.modDom_keeps h7
  have h9 : Keeps s x6 := State.wr_keeps (State.wr_keeps h8)
  exact Keeps.ite (Keeps.ite (State.setDomState_keeps h9) (Keeps.ite (State.setDomState_keeps (State.modDom_keeps h9)) h9)) h

theorem execManagementSignaling_keeps {a0} (s : State) : ∃ t, execManagementSignaling a0 s = .next t ∧ Keeps s t :=
  have h := Keeps.refl s
  ⟨_, rfl, h⟩

theorem State.becomeMaster_keeps {s₀ s : State} {d} (h : Keeps s₀ s) :
    Keeps s₀ (State.becomeMaster d s) := by
  unfold State.becomeMaster
  exact Keeps.ite (State.setDomState_keeps h) h

theorem execPtpMessageSend_keeps {d kind} (s : State) : ∃ t, execPtpMessageSend d kind s = .next t ∧ Keeps s t := by
  have h := Keeps.refl s
  refine ⟨_, rfl, ?_⟩
  extract_lets x0 x1 x2
  have h3 : Keeps s x1 := Keeps.ite (State.becomeMaster_keeps h) h
  refine Keeps.ite ?_ h
  refine Keeps.ite ?_ h3
  split
  · rename_i z4 z5 z6 z7
    have h8 := Keeps.snd_eq (State.sendStamp_keeps h3) z7
    extract_lets x9 x10
    have h11 : Keeps s x10 := State.modDom_keeps h8
    exact Keeps.ite (State.emit_keeps (State.emit_keeps h11)) (State.emit_keeps h11)

theorem execDomainLoss_keeps {d} (s : State) : ∃ t, execDomainLoss d s = .next t ∧ Keeps s t :=
  have h := Keeps.refl s
  ⟨_, rfl, Keeps.ite (State.setDomState_keeps (State.modDom_keeps h)) h⟩

theorem State.showStamp_keeps {s₀ s : State} {line t flags tick} (h : Keeps s₀ s) :
    Keeps s₀ (State.showStamp line t flags tick s) := by
  unfold State.showStamp
  extract_lets x0
  have h1 : Keeps s₀ x0 := State.wr_keeps (State.wr_keeps (State.wr_keeps h))
  exact State.wr64_keeps (State.wr64_keeps h1)

theorem State.stampEdge_keeps {s₀ s : State} {line n} (h : Keeps s₀ s) :
    Keeps s₀ (State.stampEdge line n s) := by
  unfold State.stampEdge
  extract_lets x0
  exact Keeps.ite h (Keeps.ite (State.raiseIrq_keeps (State.inc_keeps h)) (State.setHm_keeps h))

theorem execStampEdge_keeps {line subTick} (s : State) : ∃ t, execStampEdge line subTick s = .next t ∧ Keeps s t :=
  have h := Keeps.refl s
  ⟨_, rfl, Keeps.ite (State.stampEdge_keeps h) h⟩

theorem State.ppsMeasure_keeps {s₀ s : State} {d t} (h : Keeps s₀ s) :
    Keeps s₀ (State.ppsMeasure d t s) := by
  unfold State.ppsMeasure
  extract_lets x0 x1
  exact Keeps.ite (State.measure_keeps (State.syncSeen_keeps h)) h

theorem State.serveEntry_keeps {s₀ s : State} {e take} (h : Keeps s₀ s) :
    Keeps s₀ (State.serveEntry e take s) := by
  unfold State.serveEntry
  extract_lets x0 x1 x2 x3 x4 x5 x6
  have h7 : Keeps s₀ x5 := Keeps.ite (State.inc_keeps h) h
  have h8 : Keeps s₀ x6 := State.showStamp_keeps h7
  exact Keeps.ite (State.showStamp_keeps h) (Keeps.ite (State.ppsMeasure_keeps (State.ppsMeasure_keeps h8)) h8)

theorem execStampRoutine_keeps (s : State) : ∃ t, execStampRoutine s = .next t ∧ Keeps s t := by
  have h := Keeps.refl s
  refine ⟨_, rfl, ?_⟩
  extract_lets x0 x1 x2 x3 x4 x5
  have h6 : Keeps s x5 := State.setHm_keeps h
  refine Keeps.foldl_fst h6 (fun x7 x8 h9 => ?_)
  extract_lets x10
  dsimp only
  exact State.serveEntry_keeps h9

theorem State.showTxq_keeps {s₀ s : State} {p} (h : Keeps s₀ s) :
    Keeps s₀ (State.showTxq p s) := by
  unfold State.showTxq
  extract_lets x0 x1 x2 x3
  have h4 : Keeps s₀ x2 := State.wr_keeps (State.wr_keeps (State.wr_keeps h))
  have h5 : Keeps s₀ x3 := State.wr_keeps (State.wr_keeps (State.wr_keeps h4))
  exact State.wr_keeps (State.wr_keeps (State.wr_keeps h5))

theorem State.setTxq_keeps {s₀ s : State} {p l} (h : Keeps s₀ s) :
    Keeps s₀ (State.setTxq p l s) := by
  unfold State.setTxq
  extract_lets x0
  exact State.showTxq_keeps (State.setHm_keeps h)

theorem State.txqAdd_keeps {s₀ s : State} {p e} (h : Keeps s₀ s) :
    Keeps s₀ (State.txqAdd p e s) := by
  unfold State.txqAdd
  extract_lets x0
  exact Keeps.ite (State.setHm_keeps h) (State.fire_keeps (State.setTxq_keeps h))

theorem State.txqDrop_keeps {s₀ s : State} (h : Keeps s₀ s) :
    Keeps s₀ (State.txqDrop s) := by
  unfold State.txqDrop
  extract_lets x0
  exact Keeps.ite h (Keeps.foldl (State.setHm_keeps h) (fun t1 y2 h3 => State.inc_keeps (State.setW1c_keeps h3)))

theorem State.txStamp_keeps {s₀ s : State} {p seqId msgType domainNum} (h : Keeps s₀ s) :
    Keeps s₀ (State.txStamp p seqId msgType domainNum s) := by
  unfold State.txStamp
  refine Keeps.ite h ?_
  split
  · rename_i z0 z1 z2 z3
    have h4 := Keeps.snd_eq (State.someInstant_keeps h) z3
    extract_lets x5 x6 x7 x8
    have h9 : Keeps s₀ x8 := State.showStamp_keeps h4
    exact State.txqAdd_keeps h9

theorem State.txqPop_keeps {s₀ s : State} {p} (h : Keeps s₀ s) :
    Keeps s₀ (State.txqPop p s) := by
  unfold State.txqPop
  split
  · exact State.reject_keeps h
  · extract_lets x6 x7
    have h8 : Keeps s₀ x6 := State.setTxq_keeps h
    split
    · exact h8
    · exact State.txqAdd_keeps (State.setHm_keeps h8)

theorem execTxqPop_keeps {rq p} (s : State) : ∃ t, execTxqPop rq p s = .next t ∧ Keeps s t :=
  have h := Keeps.refl s
  ⟨_, rfl, Keeps.ite (State.access_keeps h (fun t0 h1 => State.txqPop_keeps h1)) h⟩

theorem execPpsInEdge_keeps {subTick} (s : State) : ∃ t, execPpsInEdge subTick s = .next t ∧ Keeps s t :=
  have h := Keeps.refl s
  ⟨_, rfl, Keeps.ite (State.stampEdge_keeps (State.fire_keeps h)) h⟩

theorem execPpsOutEdge_keeps (s : State) : ∃ t, execPpsOutEdge s = .next t ∧ Keeps s t := by
  have h := Keeps.refl s
  refine ⟨_, rfl, ?_⟩
  extract_lets x0 x1 x2 x3 x4 x5 x6
  have h7 : Keeps s x6 := State.setHm_keeps h
  exact Keeps.ite (State.emit_keeps (State.fire_keeps h7)) h

theorem State.fsEdge_keeps {s₀ s : State} {f n key} (h : Keeps s₀ s) :
    Keeps s₀ (State.fsEdge f n key s) := by
  unfold State.fsEdge
  extract_lets x0 x1 x2 x3
  have h4 : Keeps s₀ x2 := State.setHm_keeps h
  have h5 : Keeps s₀ x3 := State.stampEdge_keeps (State.emit_keeps (State.fire_keeps h4))
  exact State.gridEdge_keeps h5

theorem execFsyncOutEdge_keeps {f} (s : State) : ∃ t, execFsyncOutEdge f s = .next t ∧ Keeps s t := by
  have h := Keeps.refl s
  refine ⟨_, rfl, ?_⟩
  extract_lets x0 x1 x2 x3 x4
  exact Keeps.ite h (Keeps.ite (Keeps.ite (State.fsEdge_keeps h) h) (Keeps.ite (Keeps.ite (State.fsEdge_keeps h) h) h))

theorem State.fsApply_keeps {s₀ s : State} {f} (h : Keeps s₀ s) :
    Keeps s₀ (State.fsApply f s) := by
  unfold State.fsApply
  extract_lets x0 x1
  exact Keeps.ite (State.setW1c_keeps h) (State.setHm_keeps h)

theorem execFsApply_keeps {rq f} (s : State) : ∃ t, execFsApply rq f s = .next t ∧ Keeps s t :=
  have h := Keeps.refl s
  ⟨_, rfl, Keeps.ite (State.access_keeps h (fun t0 h1 => State.fsApply_keeps h1)) h⟩

end Sys2Proof.Machine
end

