-- ==== Sys2Proof/Laws/KeepsFabric.lean ====
section
/-! SUPPORT. Every operation of `Machine/Fabric` keeps the part, the tick, the queue and the canonical forms (`Keeps`), and every command
there answers a next state. -/

namespace Sys2Proof.Machine

theorem State.txDrop_keeps {s₀ s : State} {p n} (h : Keeps s₀ s) :
    Keeps s₀ (State.txDrop p n s) := by
  unfold State.txDrop
  exact Keeps.ite h (State.raiseIrq_keeps (State.incBy_keeps h))

theorem State.sendFrame_keeps {s₀ s : State} {p f} (h : Keeps s₀ s) :
    Keeps s₀ (State.sendFrame p f s) := by
  unfold State.sendFrame
  exact State.emit_keeps h

theorem State.sendEntry_keeps {s₀ s : State} {p e} (h : Keeps s₀ s) :
    Keeps s₀ (State.sendEntry p e s) := by
  unfold State.sendEntry
  extract_lets x0
  refine Keeps.ite (State.txDrop_keeps h) ?_
  split
  · rename_i z1 z2 z3
    have h4 : Keeps s₀ z2 := Keeps.snd_eq (State.blockRead_keeps h) z3
    exact State.txDrop_keeps h4
  · rename_i z5 z6 z7 z8
    have h9 : Keeps s₀ z7 := Keeps.snd_eq (State.blockRead_keeps h) z8
    extract_lets x10
    have h11 : Keeps s₀ x10 := State.sendFrame_keeps h9
    refine Keeps.ite ?_ h11
    split
    · exact State.txStamp_keeps h11
    · exact h11

theorem State.sendAt_keeps {s₀ s : State} {p a} (h : Keeps s₀ s) :
    Keeps s₀ (State.sendAt p a s) := by
  unfold State.sendAt
  split
  · rename_i z0 z1 z2
    have h3 : Keeps s₀ z1 := Keeps.snd_eq (State.blockRead_keeps h) z2
    exact State.txDrop_keeps h3
  · rename_i z4 z5 z6 z7
    have h8 : Keeps s₀ z6 := Keeps.snd_eq (State.blockRead_keeps h) z7
    exact State.sendEntry_keeps h8

theorem State.txRun_keeps {s₀ s : State} {p} (h : Keeps s₀ s) :
    Keeps s₀ (State.txRun p s) := by
  unfold State.txRun
  extract_lets x0 x1 x2 x3 x4
  have h8 : Keeps s₀ x4 := Keeps.foldl h (fun t5 y6 h7 => State.sendAt_keeps h7)
  exact Keeps.ite (State.wr_keeps h8) h

theorem State.txrTail_keeps {s₀ s : State} {p tail} (h : Keeps s₀ s) :
    Keeps s₀ (State.txrTail p tail s) := by
  unfold State.txrTail
  exact State.txRun_keeps (State.wr_keeps h)

theorem execTxrTail_keeps {rq p tail} (s : State) : ∃ t, execTxrTail rq p tail s = .next t ∧ Keeps s t :=
  have h := Keeps.refl s
  ⟨_, rfl, Keeps.ite (State.access_keeps h (fun t0 h1 => State.txrTail_keeps h1)) h⟩

theorem execEthLinkChange_keeps {p up} (s : State) : ∃ t, execEthLinkChange p up s = .next t ∧ Keeps s t := by
  have h := Keeps.refl s
  refine ⟨_, rfl, ?_⟩
  extract_lets x0
  have h1 : Keeps s x0 := State.raiseIrq_keeps (State.fire_keeps (State.wr_keeps h))
  exact Keeps.ite (Keeps.ite (State.txRun_keeps h1) (State.wr_keeps (State.txDrop_keeps h1))) h

theorem State.rxDrop_keeps {s₀ s : State} {p} (h : Keeps s₀ s) :
    Keeps s₀ (State.rxDrop p s) := by
  unfold State.rxDrop
  exact State.raiseIrq_keeps (State.inc_keeps h)

theorem execFrameRx_keeps {p frame crcErr unicastOrBroadcast stampValid} (s : State) : ∃ t, execFrameRx p frame crcErr unicastOrBroadcast stampValid s = .next t ∧ Keeps s t := by
  have h := Keeps.refl s
  refine ⟨_, rfl, ?_⟩
  extract_lets x0 x1 x2
  refine Keeps.ite h ?_
  refine Keeps.ite (State.inc_keeps h) ?_
  refine Keeps.ite h ?_
  refine Keeps.ite h ?_
  refine Keeps.ite (State.rxDrop_keeps h) ?_
  split
  · rename_i z3 z4 z5
    have h6 : Keeps s z4 := Keeps.snd_eq (State.blockRead_keeps h) z5
    exact State.rxDrop_keeps h6
  · rename_i z7 z8 z9 z10
    have h11 : Keeps s z9 := Keeps.snd_eq (State.blockRead_keeps h) z10
    extract_lets x12
    exact Keeps.ite (State.rxDrop_keeps h11) (State.wr_keeps (State.storeFrom_keeps (State.storeFrom_keeps h11)))

theorem State.modPeer_keeps {s₀ s : State} {p f} (h : Keeps s₀ s) :
    Keeps s₀ (State.modPeer p f s) := by
  unfold State.modPeer
  extract_lets x0
  exact State.setFab_keeps h

theorem State.cfpSend_keeps {s₀ s : State} {p kind words} (h : Keeps s₀ s) :
    Keeps s₀ (State.cfpSend p kind words s) := by
  unfold State.cfpSend
  split
  · exact h
  · exact State.emit_keeps (State.modPeer_keeps h)

theorem State.cfpTaken_keeps {s₀ s : State} {h0} (h : Keeps s₀ s) :
    Keeps s₀ (State.cfpTaken h0 s).2 := by
  unfold State.cfpTaken
  split
  · exact h
  · split
    · dsimp only
      exact State.inc_keeps h
    · exact h

theorem State.fromPeer_keeps {s₀ s : State} {h0 eff} (h : Keeps s₀ s)
    (heff : ∀ y1 y2 y3, Keeps s₀ y3 → Keeps s₀ (eff y1 y2 y3)) :
    Keeps s₀ (State.fromPeer h0 eff s) := by
  unfold State.fromPeer
  split
  · rename_i z0 z1 z2 z3
    have h4 := Keeps.snd_eq (State.cfpTaken_keeps h) z3
    refine Keeps.ite h4 ?_
    split
    · exact h4
    · split
      · exact h4
      · exact heff _ _ _ (State.emit_keeps h4)

theorem State.showGranted_keeps {s₀ s : State} {p} (h : Keeps s₀ s) :
    Keeps s₀ (State.showGranted p s) := by
  unfold State.showGranted
  split <;> exact State.wr_keeps h

theorem State.endGrant_keeps {s₀ s : State} {p} (h : Keeps s₀ s) :
    Keeps s₀ (State.endGrant p s) := by
  unfold State.endGrant
  exact State.showGranted_keeps (State.modPeer_keeps h)

theorem State.sendReclaim_keeps {s₀ s : State} {p} (h : Keeps s₀ s) :
    Keeps s₀ (State.sendReclaim p s) := by
  unfold State.sendReclaim
  split
  · split
    · exact Keeps.ite h (State.modPeer_keeps (State.cfpSend_keeps h))
    · exact h
  · exact h

theorem State.reclaimAll_keeps {s₀ s : State} (h : Keeps s₀ s) :
    Keeps s₀ (State.reclaimAll s) := by
  unfold State.reclaimAll
  exact Keeps.foldl h (fun t0 x1 h2 => State.sendReclaim_keeps h2)

theorem State.fitGrants_keeps {s₀ s : State} {a0} (h : Keeps s₀ s) :
    Keeps s₀ (State.fitGrants a0 s) := by
  induction a0 generalizing s with
  | zero => 
    unfold State.fitGrants
    exact h
  | succ z0 ih => 
    unfold State.fitGrants
    refine Keeps.ite h ?_
    split
    · exact h
    · exact ih (State.sendReclaim_keeps h)

theorem State.lendTiles_keeps {s₀ s : State} {v} (h : Keeps s₀ s) :
    Keeps s₀ (State.lendTiles v s) := by
  unfold State.lendTiles
  extract_lets x0 x1
  have h2 : Keeps s₀ x1 := State.setFab_keeps (State.wr_keeps h)
  exact State.fitGrants_keeps (State.trimPool_keeps h2)

theorem State.lendRecall_keeps {s₀ s : State} (h : Keeps s₀ s) :
    Keeps s₀ (State.lendRecall s) := by
  unfold State.lendRecall
  extract_lets x0 x1
  have h2 : Keeps s₀ x0 := State.reclaimAll_keeps h
  exact State.setFab_keeps h2

theorem execLendReclaim_keeps {rq} (s : State) : ∃ t, execLendReclaim rq s = .next t ∧ Keeps s t := 
  have h := Keeps.refl s
  ⟨_, rfl, State.access_keeps h (fun t0 h1 => State.lendRecall_keeps h1)⟩

theorem State.handoverLost_keeps {s₀ s : State} (h : Keeps s₀ s) :
    Keeps s₀ (State.handoverLost s) := by
  unfold State.handoverLost
  exact State.raiseIrq_keeps (State.inc_keeps h)

theorem State.endIn_keeps {s₀ s : State} {table range} (h : Keeps s₀ s) :
    Keeps s₀ (State.endIn table range s) := by
  unfold State.endIn
  extract_lets x0
  exact State.serveHeld_keeps (State.setFab_keeps h)

theorem State.leaveGoesOn_keeps {s₀ s : State} (h : Keeps s₀ s) :
    Keeps s₀ (State.leaveGoesOn s) := by
  unfold State.leaveGoesOn
  extract_lets x0 x1
  have h2 : Keeps s₀ x0 := Keeps.foldl h (fun t3 x4 h5 => State.cfpSend_keeps h5)
  exact Keeps.ite (State.setFab_keeps h2) h

theorem State.planHandover_keeps {s₀ s : State} {old} (h : Keeps s₀ s) :
    Keeps s₀ (State.planHandover old s) := by
  unfold State.planHandover
  extract_lets x0 x1 x2 x3 x4 x5 x6 x7 x8 x9
  have h10 : Keeps s₀ x9 := State.setFab_keeps h
  exact Keeps.forEach h10 (fun x11 t12 h13 => State.handoverLost_keeps h13)

theorem State.syncView_keeps {s₀ s : State} (h : Keeps s₀ s) :
    Keeps s₀ (State.syncView s) := by
  unfold State.syncView
  extract_lets x0 x1 x2 x3 x4 x5 x6
  have h7 : Keeps s₀ x4 := State.setFab_keeps h
  have h8 : Keeps s₀ x5 := State.wr_keeps (State.wr_keeps (State.wr_keeps h7))
  have h9 : Keeps s₀ x6 := State.raiseIrq_keeps (State.wr_keeps h8)
  exact Keeps.ite h (State.serveHeld_keeps (State.cacheOwned_keeps (State.planHandover_keeps h9)))

theorem State.handReads_keeps {s₀ s : State} {table range} (h : Keeps s₀ s) :
    Keeps s₀ (State.handReads table range s) := by
  unfold State.handReads
  split
  · exact h
  · extract_lets x5 x6
    exact State.moverReads_keeps h

theorem execHandoverRange_keeps {table range} (s : State) : ∃ t, execHandoverRange table range s = .next t ∧ Keeps s t := by
  have h := Keeps.refl s
  refine ⟨_, rfl, ?_⟩
  split
  · extract_lets x6
    refine Keeps.ite h ?_
    split
    · exact h
    · extract_lets x12 x13 x14
      have h15 : Keeps s x12 := State.emit_keeps (State.handReads_keeps h)
      have h16 : Keeps s x13 := State.cfpSend_keeps h15
      exact Keeps.ite (State.setFab_keeps h) (Keeps.ite h (State.leaveGoesOn_keeps (State.setFab_keeps h16)))
  · exact h

theorem execSend_keeps {slot items} (s : State) : ∃ t, execSend slot items s = .next t ∧ Keeps s t :=
  have h := Keeps.refl s
  ⟨_, rfl, Keeps.ite (Keeps.foldl (State.roceProgress_keeps h) (fun t0 x1 h2 => State.peerItem_keeps h2)) h⟩

theorem execHandoverEnd_keeps {h0 table range viewId} (s : State) : ∃ t, execHandoverEnd h0 table range viewId s = .next t ∧ Keeps s t := by
  have h := Keeps.refl s
  refine ⟨_, rfl, ?_⟩
  refine State.fromPeer_keeps h (fun x0 x1 t2 h3 => ?_)
  extract_lets x4
  exact Keeps.ite (State.serveHeld_keeps (State.setFab_keeps h3)) h3

theorem execHandoverTimeout_keeps {table range} (s : State) : ∃ t, execHandoverTimeout table range s = .next t ∧ Keeps s t :=
  have h := Keeps.refl s
  ⟨_, rfl, Keeps.ite (State.endIn_keeps (State.handoverLost_keeps h)) h⟩

theorem State.showPeer_keeps {s₀ s : State} {p st port dev} (h : Keeps s₀ s) :
    Keeps s₀ (State.showPeer p st port dev s) := by
  unfold State.showPeer
  exact State.wr_keeps (State.wr_keeps (State.wr_keeps (State.wr_keeps h)))

theorem State.clearPeer_keeps {s₀ s : State} {p q} (h : Keeps s₀ s) :
    Keeps s₀ (State.clearPeer p q s) := by
  unfold State.clearPeer
  extract_lets x0 x1 x2 x3 x4
  have h5 : Keeps s₀ x0 := Keeps.ite (State.unbackWindow_keeps h) h
  have h6 : Keeps s₀ x3 := State.setFab_keeps h5
  have h7 : Keeps s₀ x4 := Keeps.foldl h6 (fun t8 x9 h10 => State.handoverLost_keeps h10)
  exact State.showGranted_keeps (State.showPeer_keeps h7)

theorem State.depart_keeps {s₀ s : State} {p} (h : Keeps s₀ s) :
    Keeps s₀ (State.depart p s) := by
  unfold State.depart
  split
  · exact h
  · extract_lets x5 x6
    have h7 : Keeps s₀ x5 := State.syncView_keeps (State.clearPeer_keeps (State.fire_keeps h))
    exact State.serveHeld_keeps (State.setFab_keeps h7)

theorem State.announceNow_keeps {s₀ s : State} (h : Keeps s₀ s) :
    Keeps s₀ (State.announceNow s) := by
  unfold State.announceNow
  split
  · rename_i z0 z1 z2 z3
    have h4 := Keeps.snd_eq (State.freeBits_keeps h) z3
    extract_lets x5 x6 x7
    have h8 : Keeps s₀ x6 := Keeps.foldl h4 (fun t9 x10 h11 => State.emit_keeps h11)
    exact State.setFab_keeps h8

theorem execAnnounceSend_keeps (s : State) : ∃ t, execAnnounceSend s = .next t ∧ Keeps s t :=
  have h := Keeps.refl s
  ⟨_, rfl, Keeps.ite (State.announceNow_keeps h) h⟩

theorem State.fabStart_keeps {s₀ s : State} (h : Keeps s₀ s) :
    Keeps s₀ (State.fabStart s) := by
  unfold State.fabStart
  extract_lets x0
  exact State.announceNow_keeps (State.setFab_keeps h)

theorem State.fabShard_keeps {s₀ s : State} (h : Keeps s₀ s) :
    Keeps s₀ (State.fabShard s) := by
  unfold State.fabShard
  extract_lets x0
  exact Keeps.ite (State.syncView_keeps (State.setFab_keeps h)) h

theorem execJoinListenEnd_keeps (s : State) : ∃ t, execJoinListenEnd s = .next t ∧ Keeps s t := by
  have h := Keeps.refl s
  refine ⟨_, rfl, ?_⟩
  split
  · extract_lets x0
    exact Keeps.ite (State.fabShard_keeps (State.setFab_keeps h)) h
  · exact h

theorem State.fabStop_keeps {s₀ s : State} (h : Keeps s₀ s) :
    Keeps s₀ (State.fabStop s) := by
  unfold State.fabStop
  extract_lets x0 x1
  have h2 : Keeps s₀ x0 := Keeps.foldl h (fun t3 x4 h5 => State.peerRowsGone_keeps (State.clearPeer_keeps h5))
  exact State.syncView_keeps (State.setFab_keeps h2)

theorem State.fabFaulted_keeps {s₀ s : State} (h : Keeps s₀ s) :
    Keeps s₀ (State.fabFaulted s) := by
  unfold State.fabFaulted
  exact Keeps.ite (Keeps.foldl h (fun t0 x1 h2 => State.depart_keeps h2)) h

theorem State.fabLeave_keeps {s₀ s : State} (h : Keeps s₀ s) :
    Keeps s₀ (State.fabLeave s) := by
  unfold State.fabLeave
  extract_lets x0 x1 x2 x3
  have h4 : Keeps s₀ x1 := Keeps.foldl h (fun t5 x6 h7 => Keeps.ite (State.showGranted_keeps (State.modPeer_keeps (State.unbackWindow_keeps (State.cfpSend_keeps h7)))) h7)
  have h8 : Keeps s₀ x2 := Keeps.foldl h4 (fun t9 x10 h11 => State.cfpSend_keeps h11)
  exact Keeps.ite h (State.leaveGoesOn_keeps (State.syncView_keeps (State.announceNow_keeps (State.setFab_keeps h8))))

theorem State.addPeer_keeps {s₀ s : State} {h0 a} (h : Keeps s₀ s) :
    Keeps s₀ (State.addPeer h0 a s) := by
  unfold State.addPeer
  split
  · exact State.raiseIrq_keeps (State.inc_keeps h)
  · extract_lets x0 x1 x2 x3
    have h4 : Keeps s₀ x3 := State.setFab_keeps h
    exact State.syncView_keeps (State.fire_keeps (State.showPeer_keeps (State.setBorrow_keeps h4)))

theorem State.heardPeer_keeps {s₀ s : State} {p h0 a} (h : Keeps s₀ s) :
    Keeps s₀ (State.heardPeer p h0 a s) := by
  unfold State.heardPeer
  extract_lets x0 x1 x2 x3
  have h4 : Keeps s₀ x0 := State.modPeer_keeps h
  have h5 : Keeps s₀ x1 := Keeps.ite (State.wr_keeps h4) h4
  have h6 : Keeps s₀ x3 := Keeps.ite (State.modPeer_keeps (State.wr_keeps h5)) (Keeps.ite (State.wr_keeps h5) h5)
  exact State.syncView_keeps h6

theorem execAnnounce_keeps {h0 a} (s : State) : ∃ t, execAnnounce h0 a s = .next t ∧ Keeps s t := by
  have h := Keeps.refl s
  refine ⟨_, rfl, ?_⟩
  refine Keeps.ite (Keeps.ite (State.fire_keeps h) h) ?_
  split
  · rename_i z0 z1 z2 z3
    have h4 := Keeps.snd_eq (State.cfpTaken_keeps h) z3
    refine Keeps.ite h4 ?_
    refine Keeps.ite (State.inc_keeps h4) ?_
    split
    · exact State.heardPeer_keeps h4
    · exact State.addPeer_keeps h4

theorem execAckCfp_keeps {h0 acked} (s : State) : ∃ t, execAckCfp h0 acked s = .next t ∧ Keeps s t := by
  have h := Keeps.refl s
  refine ⟨_, rfl, ?_⟩
  split
  · rename_i z0 z1 z2 z3
    have h4 := Keeps.snd_eq (State.cfpTaken_keeps h) z3
    refine Keeps.ite h4 ?_
    split
    · exact h4
    · exact State.modPeer_keeps h4

theorem execCfpResend_keeps {slot seq} (s : State) : ∃ t, execCfpResend slot seq s = .next t ∧ Keeps s t := by
  have h := Keeps.refl s
  refine ⟨_, rfl, ?_⟩
  split
  · exact h
  · split
    · exact h
    · exact Keeps.ite h (Keeps.ite (State.depart_keeps h) (State.emit_keeps (State.modPeer_keeps h)))

theorem execLeave_keeps {h0} (s : State) : ∃ t, execLeave h0 s = .next t ∧ Keeps s t :=
  have h := Keeps.refl s
  ⟨_, rfl, State.fromPeer_keeps h (fun x0 x1 t2 h3 => State.syncView_keeps (State.modPeer_keeps (State.wr_keeps h3)))⟩

theorem execGone_keeps {h0} (s : State) : ∃ t, execGone h0 s = .next t ∧ Keeps s t :=
  have h := Keeps.refl s
  ⟨_, rfl, State.fromPeer_keeps h (fun x0 x1 t2 h3 => State.depart_keeps h3)⟩

theorem execLeaveTimeout_keeps {slot} (s : State) : ∃ t, execLeaveTimeout slot s = .next t ∧ Keeps s t := by
  have h := Keeps.refl s
  refine ⟨_, rfl, ?_⟩
  split
  · exact h
  · split
    · exact Keeps.ite (State.depart_keeps h) h
    · exact h

theorem execPeerSilenceTimeout_keeps {slot} (s : State) : ∃ t, execPeerSilenceTimeout slot s = .next t ∧ Keeps s t := by
  have h := Keeps.refl s
  refine ⟨_, rfl, ?_⟩
  split
  · exact h
  · exact Keeps.ite (State.depart_keeps h) h

theorem State.borrowCmd_keeps {s₀ s : State} {p release} (h : Keeps s₀ s) :
    Keeps s₀ (State.borrowCmd p release s) := by
  unfold State.borrowCmd
  exact Keeps.ite (State.reject_keeps h) (Keeps.ite (State.showGranted_keeps (State.modPeer_keeps (State.unbackWindow_keeps (State.cfpSend_keeps h)))) (Keeps.ite (State.reject_keeps h) (State.cfpSend_keeps h)))

theorem execBorrowCmdBorrow_keeps {rq slot} (s : State) : ∃ t, execBorrowCmdBorrow rq slot s = .next t ∧ Keeps s t :=
  have h := Keeps.refl s
  ⟨_, rfl, State.access_keeps h (fun t0 h1 => State.borrowCmd_keeps h1)⟩

theorem execBorrowCmdRelease_keeps {rq slot} (s : State) : ∃ t, execBorrowCmdRelease rq slot s = .next t ∧ Keeps s t :=
  have h := Keeps.refl s
  ⟨_, rfl, State.access_keeps h (fun t0 h1 => State.borrowCmd_keeps h1)⟩

theorem execBorrowReq_keeps {h0 tiles} (s : State) : ∃ t, execBorrowReq h0 tiles s = .next t ∧ Keeps s t := by
  have h := Keeps.refl s
  refine ⟨_, rfl, ?_⟩
  refine State.fromPeer_keeps h (fun x0 x1 t2 h3 => ?_)
  split
  · exact State.cfpSend_keeps h3
  · refine Keeps.ite (State.cfpSend_keeps h3) ?_
    split
    · rename_i z4 z5 z6 z7
      have h8 := Keeps.snd_eq (State.freeBits_keeps h3) z7
      extract_lets x9 x10 x11
      have h12 : Keeps s x11 := State.setFab_keeps h8
      exact State.showGranted_keeps (State.cfpSend_keeps (State.modPeer_keeps h12))

theorem execBorrowGrant_keeps {h0 tiles base key} (s : State) : ∃ t, execBorrowGrant h0 tiles base key s = .next t ∧ Keeps s t :=
  have h := Keeps.refl s
  ⟨_, rfl, State.fromPeer_keeps h (fun x0 x1 t2 h3 => Keeps.ite h3 (State.showGranted_keeps (State.setBorrow_keeps (State.modPeer_keeps h3))))⟩

theorem execBorrowDeny_keeps {h0} (s : State) : ∃ t, execBorrowDeny h0 s = .next t ∧ Keeps s t :=
  have h := Keeps.refl s
  ⟨_, rfl, State.fromPeer_keeps h (fun x0 x1 t2 h3 => h3)⟩

theorem execRelease_keeps {h0} (s : State) : ∃ t, execRelease h0 s = .next t ∧ Keeps s t :=
  have h := Keeps.refl s
  ⟨_, rfl, State.fromPeer_keeps h (fun x0 x1 t2 h3 => State.endGrant_keeps h3)⟩

theorem execReclaim_keeps {h0} (s : State) : ∃ t, execReclaim h0 s = .next t ∧ Keeps s t := by
  have h := Keeps.refl s
  refine ⟨_, rfl, ?_⟩
  refine State.fromPeer_keeps h (fun x0 x1 t2 h3 => ?_)
  extract_lets x4 x5
  have h6 : Keeps s x5 := State.setCk_keeps (State.setBorrow_keeps h3)
  exact Keeps.ite (State.fire_keeps (State.wr64_keeps h6)) h3

theorem execLendRevoke_keeps {slot} (s : State) : ∃ t, execLendRevoke slot s = .next t ∧ Keeps s t := by
  have h := Keeps.refl s
  refine ⟨_, rfl, ?_⟩
  split
  · exact h
  · split
    · exact h
    · split
      · exact Keeps.ite (State.endGrant_keeps h) h
      · exact h

theorem Grant.write_keeps {s₀ s : State} {g off data} (h : Keeps s₀ s) :
    Keeps s₀ (Grant.write g off data s) := by
  unfold Grant.write
  refine Keeps.foldl_snd h (fun y0 y1 h2 => ?_)
  dsimp only
  exact State.store_keeps (State.throughPort_keeps h2)

theorem State.readGrant_keeps {s₀ s : State} {slot off len g} (h : Keeps s₀ s) :
    Keeps s₀ (State.readGrant slot off len g s) := by
  unfold State.readGrant
  extract_lets x0
  have h4 : Keeps s₀ x0.2 := by
    unfold x0
    refine Keeps.foldl_snd h (fun y1 y2 h3 => ?_)
    dsimp only
    exact State.eccRead_keeps (State.throughPort_keeps (State.countRead_keeps h3))
  exact State.emit_keeps h4

theorem State.fillGuest_keeps {s₀ s : State} {off data} (h : Keeps s₀ s) :
    Keeps s₀ (State.fillGuest off data s) := by
  unfold State.fillGuest
  exact Keeps.ite h (Keeps.foldl h (fun t0 y1 h2 => Keeps.ite (State.trySend_keeps h2) (State.inc_keeps h2)))

theorem execRdmaWrite_keeps {slot off incoming data} (s : State) : ∃ t, execRdmaWrite slot off incoming data s = .next t ∧ Keeps s t := by
  have h := Keeps.refl s
  refine ⟨_, rfl, ?_⟩
  refine Keeps.ite (Keeps.ite h (State.fillGuest_keeps h)) ?_
  split
  · exact h
  · refine Keeps.ite h ?_
    refine Keeps.ite ?_ (Keeps.ite (State.emit_keeps h) h)
    split
    · exact State.emit_keeps h
    · exact Keeps.ite (State.emit_keeps (Grant.write_keeps h)) (State.emit_keeps h)

theorem execRdmaRead_keeps {slot off len incoming} (s : State) : ∃ t, execRdmaRead slot off len incoming s = .next t ∧ Keeps s t := by
  have h := Keeps.refl s
  refine ⟨_, rfl, ?_⟩
  split
  · exact h
  · refine Keeps.ite h ?_
    refine Keeps.ite ?_ (Keeps.ite (State.emit_keeps h) h)
    split
    · exact State.emit_keeps h
    · exact Keeps.ite (State.readGrant_keeps h) (State.emit_keeps h)

theorem execRoceAckTimeout_keeps {slot} (s : State) : ∃ t, execRoceAckTimeout slot s = .next t ∧ Keeps s t := by
  have h := Keeps.refl s
  refine ⟨_, rfl, ?_⟩
  split
  · exact h
  · exact Keeps.ite h (Keeps.ite (State.modPeer_keeps h) (State.depart_keeps h))

theorem execCnp_keeps {slot} (s : State) : ∃ t, execCnp slot s = .next t ∧ Keeps s t :=
  have h := Keeps.refl s
  ⟨_, rfl, State.modPeer_keeps h⟩

theorem execRoceRateRaise_keeps {slot} (s : State) : ∃ t, execRoceRateRaise slot s = .next t ∧ Keeps s t := by
  have h := Keeps.refl s
  refine ⟨_, rfl, ?_⟩
  split
  · exact h
  · exact Keeps.ite (State.modPeer_keeps h) h

end Sys2Proof.Machine
end

