-- ==== Sys2Proof/Laws/KeepsWork.lean ====
section
/-! SUPPORT. Every operation of `Machine/Work` keeps the part, the tick, the queue and the canonical forms (`Keeps`), and every command
there answers a next state. -/

namespace Sys2Proof.Machine

theorem State.ring_keeps {s₀ s : State} {w r tail} (h : Keeps s₀ s) :
    Keeps s₀ (State.ring w r tail s) := by
  unfold State.ring
  extract_lets x0 x1 x2 x3 x4 x5
  have h6 : Keeps s₀ x0 := State.wr_keeps h
  have h7 : Keeps s₀ x3 := State.setSubmits_keeps h6
  exact Keeps.ite h7 (State.fire_keeps (Keeps.same h7 rfl rfl rfl rfl rfl rfl))

theorem State.doorbell_keeps {s₀ s : State} {w r tail} (h : Keeps s₀ s) :
    Keeps s₀ (State.doorbell w r tail s) := by
  unfold State.doorbell
  exact Keeps.ite (State.reject_keeps h) (Keeps.ite (State.setW1c_keeps (State.reject_keeps h)) (Keeps.ite (State.inc_keeps h) (State.ring_keeps h)))

theorem execDoorbell_keeps {rq ws ring tail} (s : State) : ∃ t, execDoorbell rq ws ring tail s = .next t ∧ Keeps s t :=
  have h := Keeps.refl s
  ⟨_, rfl, Keeps.ite (Keeps.ite (State.doorbell_keeps (State.leaveDoze_keeps h)) (State.access_keeps h (fun t0 h1 => h1))) h⟩

theorem State.cancel_keeps {s₀ s : State} {w rings} (h : Keeps s₀ s) :
    Keeps s₀ (State.cancel w rings s) := by
  unfold State.cancel
  refine Keeps.foldl (State.applyCancels_keeps h) (fun t0 y1 h2 => ?_)
  extract_lets x3
  exact State.setSch_keeps h2

theorem execCancel_keeps {rq ws rings} (s : State) : ∃ t, execCancel rq ws rings s = .next t ∧ Keeps s t :=
  have h := Keeps.refl s
  ⟨_, rfl, Keeps.ite (State.access_keeps h (fun t0 h1 => State.cancel_keeps h1)) h⟩

theorem execAdmission_keeps (s : State) : ∃ t, execAdmission s = .next t ∧ Keeps s t :=
  have h := Keeps.refl s
  ⟨_, rfl, State.admission_keeps h⟩

theorem State.decideOne_keeps {s₀ s : State} {w r op} (h : Keeps s₀ s) :
    Keeps s₀ (State.decideOne w r op s) := by
  unfold State.decideOne
  extract_lets x0
  have h1 : Keeps s₀ x0 := State.applyCancels_keeps h
  refine Keeps.ite ?_ h1
  split
  · exact Keeps.ite (State.decideHead_keeps h1) h1
  · exact h1

theorem execNop_keeps {ws ring} (s : State) : ∃ t, execNop ws ring s = .next t ∧ Keeps s t :=
  have h := Keeps.refl s
  ⟨_, rfl, State.decideOne_keeps h⟩

theorem execRun_keeps {ws ring} (s : State) : ∃ t, execRun ws ring s = .next t ∧ Keeps s t :=
  have h := Keeps.refl s
  ⟨_, rfl, State.decideOne_keeps h⟩

theorem execAlloc_keeps {ws ring} (s : State) : ∃ t, execAlloc ws ring s = .next t ∧ Keeps s t :=
  have h := Keeps.refl s
  ⟨_, rfl, State.decideOne_keeps h⟩

theorem execFree_keeps {ws ring} (s : State) : ∃ t, execFree ws ring s = .next t ∧ Keeps s t :=
  have h := Keeps.refl s
  ⟨_, rfl, State.decideOne_keeps h⟩

theorem execLoadPlan_keeps {ws ring} (s : State) : ∃ t, execLoadPlan ws ring s = .next t ∧ Keeps s t :=
  have h := Keeps.refl s
  ⟨_, rfl, State.decideOne_keeps h⟩

theorem execDmaIn_keeps {ws ring} (s : State) : ∃ t, execDmaIn ws ring s = .next t ∧ Keeps s t :=
  have h := Keeps.refl s
  ⟨_, rfl, State.decideOne_keeps h⟩

theorem execDmaOut_keeps {ws ring} (s : State) : ∃ t, execDmaOut ws ring s = .next t ∧ Keeps s t :=
  have h := Keeps.refl s
  ⟨_, rfl, State.decideOne_keeps h⟩

theorem execFlush_keeps {ws ring} (s : State) : ∃ t, execFlush ws ring s = .next t ∧ Keeps s t :=
  have h := Keeps.refl s
  ⟨_, rfl, State.decideOne_keeps h⟩

theorem execEvictionWritebackDone_keeps {slot} (s : State) : ∃ t, execEvictionWritebackDone slot s = .next t ∧ Keeps s t := by
  have h := Keeps.refl s
  refine ⟨_, rfl, ?_⟩
  split
  · exact h
  · extract_lets x5 x6
    have h7 : Keeps s x5 := State.writeHome_keeps h
    have h19 : Keeps s x6 := by
      unfold x6
      refine Keeps.ite (State.giveSlot_keeps (State.eraseSlot_keeps h7)) ?_
      split
      · exact State.dropSlot_keeps h7
      · split
        · exact State.dropSlot_keeps h7
        · extract_lets x18
          exact State.putSlot_keeps h7
    exact Keeps.ite h (State.retryStores_keeps (State.retryWants_keeps h19))

theorem State.syncShares_keeps {s₀ s : State} (h : Keeps s₀ s) :
    Keeps s₀ (State.syncShares s) := by
  unfold State.syncShares
  exact State.wr_keeps (State.wr_keeps (State.wr_keeps (State.wr_keeps h)))

theorem State.shareWrite_keeps {s₀ s : State} {w c value} (h : Keeps s₀ s) :
    Keeps s₀ (State.shareWrite w c value s) := by
  unfold State.shareWrite
  exact Keeps.ite (State.wr_keeps (State.setW1c_keeps h)) (State.syncShares_keeps (State.wr_keeps h))

theorem execShareWrite_keeps {rq ws c value} (s : State) : ∃ t, execShareWrite rq ws c value s = .next t ∧ Keeps s t :=
  have h := Keeps.refl s
  ⟨_, rfl, Keeps.ite (State.access_keeps h (fun t0 h1 => State.pfOnly_keeps h1 (fun t2 h3 => State.shareWrite_keeps h3))) h⟩

theorem State.guestWork_keeps {s₀ s : State} {rid r} (h : Keeps s₀ s) :
    Keeps s₀ (State.guestWork rid r s) := by
  unfold State.guestWork
  extract_lets x0 x1 x2 x3 x4
  have h5 : Keeps s₀ x4 := State.setGuest_keeps h
  exact State.trySend_keeps (State.trySend_keeps (State.dpaWrite_keeps h5))

theorem State.start_keeps {s₀ s : State} {rid r} (h : Keeps s₀ s) :
    Keeps s₀ (State.start rid r s) := by
  unfold State.start
  extract_lets x0 x1 x2 x3 x4
  have h5 : Keeps s₀ x0 := State.modReq_keeps h
  have h9 : Keeps s₀ x1 := Keeps.foldl h5 (fun t6 y7 h8 => Keeps.ite (State.goto_keeps h8) h8)
  have h10 : Keeps s₀ x2 := State.turnPorts_keeps h9
  have h14 : Keeps s₀ x3 := Keeps.foldl h10 (fun t11 y12 h13 => State.syncVc_keeps h13)
  have h15 : Keeps s₀ x4 := Keeps.ite (State.guestWork_keeps h14) h14
  exact State.startStep_keeps (State.syncLent_keeps h15)

theorem execDispatch_keeps {unit} (s : State) : ∃ t, execDispatch unit s = .next t ∧ Keeps s t := by
  have h := Keeps.refl s
  refine ⟨_, rfl, ?_⟩
  extract_lets x0
  have h10 : Keeps s x0 := by
    unfold x0
    split
    · exact h
    · exact Keeps.foldl h (fun t7 y8 h9 => State.preempt_keeps h9)
  split
  · exact h10
  · exact Keeps.ite (State.start_keeps h10) h10

theorem execLatestStartReached_keeps {rid} (s : State) : ∃ t, execLatestStartReached rid s = .next t ∧ Keeps s t := by
  have h := Keeps.refl s
  refine ⟨_, rfl, ?_⟩
  split
  · exact h
  · extract_lets x0
    exact Keeps.ite (Keeps.foldl h (fun t1 x2 h3 => State.preempt_keeps h3)) h

theorem execDeadlineMissed_keeps {rid} (s : State) : ∃ t, execDeadlineMissed rid s = .next t ∧ Keeps s t := by
  have h := Keeps.refl s
  refine ⟨_, rfl, ?_⟩
  split
  · exact h
  · exact Keeps.ite (State.endReq_keeps h) h

theorem execIrqModerationExpiry_keeps {ws} (s : State) : ∃ t, execIrqModerationExpiry ws s = .next t ∧ Keeps s t := by
  have h := Keeps.refl s
  refine ⟨_, rfl, ?_⟩
  split
  · exact h
  · extract_lets x0 x1
    have h2 : Keeps s x1 := State.setSch_keeps h
    exact Keeps.ite h (Keeps.ite (State.cplIrq_keeps h2) h2)

theorem State.auditFence_keeps {s₀ s : State} {page} (h : Keeps s₀ s) :
    Keeps s₀ (State.auditFence page s) := by
  unfold State.auditFence
  extract_lets x0 x1
  split
  · rename_i z2 z3 z4 z5
    have h6 := Keeps.snd_eq (State.detect_keeps h) z5
    extract_lets x7 x8
    have h9 : Keeps s₀ x7 := State.inc_keeps (State.fence_keeps h6)
    exact Keeps.ite (State.fence_keeps h9) h9

theorem State.auditPage_keeps {s₀ s : State} {diverged page} (h : Keeps s₀ s) :
    Keeps s₀ (State.auditPage diverged page s) := by
  unfold State.auditPage
  extract_lets x0 x1 x2
  have h3 : Keeps s₀ x1 := State.wr_keeps (State.inc_keeps h)
  have h4 : Keeps s₀ x2 := State.setBlk_keeps h3
  exact Keeps.ite (State.setBlk_keeps h) (Keeps.ite (Keeps.ite (State.auditFence_keeps h4) h4) (State.setBlk_keeps h))

theorem execStateAudit_keeps {diverged} (s : State) : ∃ t, execStateAudit diverged s = .next t ∧ Keeps s t := by
  have h := Keeps.refl s
  refine ⟨_, rfl, ?_⟩
  extract_lets x0 x1 x2
  have h3 : Keeps s x1 := State.setSch_keeps h
  have h7 : Keeps s x2 := Keeps.ite (Keeps.foldl h3 (fun t4 y5 h6 => State.auditPage_keeps h6)) h3
  exact Keeps.ite (Keeps.ite (State.rowsTick_keeps h7) h7) h

end Sys2Proof.Machine
end

