-- ==== Sys2Proof/Laws/KeepsPorts.lean ====
section
/-! SUPPORT. Every operation of `Machine/Ports` keeps the part, the tick, the queue and the canonical forms (`Keeps`), and every command
there answers a next state. -/

namespace Sys2Proof.Machine

theorem State.setIo_keeps {s₀ s : State} {i} (h : Keeps s₀ s) :
    Keeps s₀ (State.setIo i s) := by
  unfold State.setIo
  exact Keeps.same h rfl rfl rfl rfl rfl rfl

theorem State.dmaError_keeps {s₀ s : State} {rid} (h : Keeps s₀ s) :
    Keeps s₀ (State.dmaError rid s) := by
  unfold State.dmaError
  exact State.endReq_keeps (State.raiseIrq_keeps (State.inc_keeps h))

theorem State.dmaTile_keeps {s₀ s : State} {rid w id i b} (h : Keeps s₀ s) :
    Keeps s₀ (State.dmaTile rid w id i b s).2 := by
  unfold State.dmaTile
  extract_lets x0
  split <;> exact State.putTile_keeps h

theorem State.dmaStore_keeps {s₀ s : State} {rid r} (h : Keeps s₀ s) :
    Keeps s₀ (State.dmaStore rid r s).2 := by
  unfold State.dmaStore
  split
  · dsimp only
    exact Keeps.foldl h (fun t3 y4 h5 => State.storeFrom_keeps (State.throughPort_keeps h5))
  · refine Keeps.foldl_snd h (fun y8 y9 h10 => ?_)
    split
    · exact State.dmaTile_keeps h10
    · exact h10

theorem State.bytesAt_keeps {s₀ s : State} {a n} (h : Keeps s₀ s) :
    Keeps s₀ (State.bytesAt a n s).2 := by
  unfold State.bytesAt
  split
  · exact h
  · exact h
  · exact h
  · dsimp only
    exact State.inc64_keeps h
  · exact State.freeBytes_keeps h

theorem State.pastWindow_keeps {s₀ s : State} {upTo} (h : Keeps s₀ s) :
    Keeps s₀ (State.pastWindow upTo s) := by
  unfold State.pastWindow
  exact Keeps.ite (State.inc_keeps h) h

theorem State.eccPieces_keeps {s₀ s : State} {w l} (h : Keeps s₀ s) :
    Keeps s₀ (State.eccPieces w l s).2 := by
  unfold State.eccPieces
  refine Keeps.foldl_snd h (fun y0 y1 h2 => ?_)
  refine Keeps.ite_at (fun (p : Option Nat × State) => p.2) ?_ ?_
  · exact h2
  · exact State.eccRead_keeps h2

theorem State.piecesAt_keeps {s₀ s : State} {l} (h : Keeps s₀ s) :
    Keeps s₀ (State.piecesAt l s).2 := by
  unfold State.piecesAt
  refine Keeps.foldl_snd h (fun y0 y1 h2 => ?_)
  extract_lets x3
  have h4 : Keeps s₀ x3.2 := State.bytesAt_keeps (State.readTo_keeps (State.throughPort_keeps h2))
  exact h4

theorem State.dmaPieces_keeps {s₀ s : State} {rid w l} (h : Keeps s₀ s) :
    Keeps s₀ (State.dmaPieces rid w l s).2 := by
  unfold State.dmaPieces
  split
  · rename_i z0 z1 z2 z3
    have h4 : Keeps s₀ z2 := Keeps.snd_eq (State.eccPieces_keeps h) z3
    dsimp only
    exact State.endFor_keeps h4
  · rename_i z5 z6 z7
    have h8 : Keeps s₀ z6 := Keeps.snd_eq (State.eccPieces_keeps h) z7
    split
    · rename_i z9 z10 z11 z12
      have h13 : Keeps s₀ z11 := Keeps.snd_eq (State.piecesAt_keeps h8) z12
      exact h13

theorem State.dmaLoad_keeps {s₀ s : State} {rid r} (h : Keeps s₀ s) :
    Keeps s₀ (State.dmaLoad rid r s).2 := by
  unfold State.dmaLoad
  split
  · extract_lets x3
    refine Keeps.ite_at (fun (p : Option (List Byte) × State) => p.2) ?_ ?_
    · dsimp only
      exact State.endReq_keeps h
    · refine Keeps.ite_at (fun (p : Option (List Byte) × State) => p.2) ?_ ?_
      · split
        · dsimp only
          exact State.pastWindow_keeps (State.throughPort_keeps h)
        · exact h
      · exact State.dmaPieces_keeps h
  · refine Keeps.ite_at (fun (p : Option (List Byte) × State) => p.2) ?_ ?_
    · exact h
    · split
      · rename_i z11 z12 z13
        have h14 : Keeps s₀ z12 := Keeps.snd_eq (State.useObj_keeps h) z13
        exact h14
      · rename_i z15 z16 z17 z18 z19
        have h20 : Keeps s₀ z17 := Keeps.snd_eq (State.useObj_keeps h) z19
        exact h20

theorem State.dmaDone_keeps {s₀ s : State} {rid r} (h : Keeps s₀ s) :
    Keeps s₀ (State.dmaDone rid r s) := by
  unfold State.dmaDone
  exact State.endReq_keeps (State.inc64_keeps h)

theorem execDmaCompletion_keeps {rid st data} (s : State) : ∃ t, execDmaCompletion rid st data s = .next t ∧ Keeps s t := by
  have h := Keeps.refl s
  refine ⟨_, rfl, ?_⟩
  extract_lets x0 x1 x2 x3
  have h4 : Keeps s x3 := Keeps.ite (State.wr_keeps h) h
  refine Keeps.ite (Keeps.ite (State.raiseIrq_keeps (State.setW1c_keeps h)) h) ?_
  split
  · exact h
  · extract_lets x5 x6
    have h7 : Keeps s x6 := State.modReq_keeps h4
    refine Keeps.ite h ?_
    refine Keeps.ite ?_ ?_
    · refine Keeps.ite ?_ (State.dmaError_keeps h4)
      split
      · rename_i z8 z9 z10 z11
        have h12 := Keeps.snd_eq (State.freeBytes_keeps h4) z11
        exact State.dmaError_keeps (State.hostWrite_keeps h12)
    · refine Keeps.ite ?_ (Keeps.ite h7 (State.needThen_keeps (State.dmaStore_keeps h7) (fun t22 h23 => State.dmaDone_keeps h23)))
      split
      · rename_i z13 z14 z15 z16
        have h17 := Keeps.snd_eq (State.dmaLoad_keeps h4) z16
        exact State.dmaDone_keeps (State.hostWrite_keeps h17)
      · rename_i z18 z19 z20
        have h21 := Keeps.snd_eq (State.dmaLoad_keeps h4) z20
        exact h21

theorem State.flrWs_keeps {s₀ s : State} {w} (h : Keeps s₀ s) :
    Keeps s₀ (State.flrWs w s) := by
  unfold State.flrWs
  extract_lets x0 x1 x2 x3 x4 x5 x6 x7 x8
  have h9 : Keeps s₀ x2 := Keeps.foldl h (fun t10 x11 h12 => State.inc_keeps (State.dropReq_keeps (State.dropLoad_keeps (State.guestCancel_keeps h12))))
  have h13 : Keeps s₀ x4 := Keeps.foldl h9 (fun t14 x15 h16 => State.releaseObj_keeps h16)
  have h17 : Keeps s₀ x6 := State.setSch_keeps h13
  have h18 : Keeps s₀ x7 := State.goto_keeps h17
  exact Keeps.filtered h18 _ (fun _ => true) rfl rfl rfl rfl rfl (filter_true _).symm

theorem execFlr_keeps {fn} (s : State) : ∃ t, execFlr fn s = .next t ∧ Keeps s t := by
  have h := Keeps.refl s
  refine ⟨_, rfl, ?_⟩
  extract_lets x0 x1 x2
  have h3 : Keeps s x0 := State.inc_keeps h
  have h4 : Keeps s x1 := Keeps.foldl h3 (fun t5 x6 h7 => State.flrWs_keeps h7)
  exact Keeps.ite h (Keeps.ite (State.setIo_keeps (State.wr_keeps h4)) (State.flrWs_keeps h3))

theorem State.hostFetchesFail_keeps {s₀ s : State} (h : Keeps s₀ s) :
    Keeps s₀ (State.hostFetchesFail s) := by
  unfold State.hostFetchesFail
  exact Keeps.foldl h (fun t0 x1 h2 => State.failFetch_keeps h2)

theorem execHifLinkDown_keeps (s : State) : ∃ t, execHifLinkDown s = .next t ∧ Keeps s t := by
  have h := Keeps.refl s
  refine ⟨_, rfl, ?_⟩
  extract_lets x0 x1 x2
  have h3 : Keeps s x1 := Keeps.same h rfl rfl rfl rfl rfl rfl
  have h4 : Keeps s x2 := State.wr_keeps (State.wr_keeps (State.wr_keeps h3))
  exact Keeps.ite h (Keeps.ite (State.hostFetchesFail_keeps (State.endWhere_keeps (State.raiseIrq_keeps (State.inc_keeps h4)))) h4)

theorem State.sendHeld_keeps {s₀ s : State} (h : Keeps s₀ s) :
    Keeps s₀ (State.sendHeld s) := by
  unfold State.sendHeld
  extract_lets x0 x1 x2
  have h15 : Keeps s₀ x1 := by
    unfold x1
    refine Keeps.foldl h (fun t3 y4 h5 => ?_)
    refine State.wr_keeps ?_
    refine Keeps.ite ?_ h5
    split
    · rename_i z6 z7 z8 z9
      have h10 : Keeps s₀ z8 := Keeps.snd_eq (State.blockRead_keeps h5) z9
      exact State.hostWrite_keeps h10
    · rename_i z11 z12 z13
      have h14 : Keeps s₀ z12 := Keeps.snd_eq (State.blockRead_keeps h5) z13
      exact h14
  exact State.setSch_keeps h15

theorem execHifLinkUp_keeps (s : State) : ∃ t, execHifLinkUp s = .next t ∧ Keeps s t := by
  have h := Keeps.refl s
  refine ⟨_, rfl, ?_⟩
  extract_lets x0
  exact Keeps.ite (State.sendHeld_keeps (Keeps.same h rfl rfl rfl rfl rfl rfl)) h

theorem State.nvpStart_keeps {s₀ s : State} (h : Keeps s₀ s) :
    Keeps s₀ (State.nvpStart s) := by
  unfold State.nvpStart
  extract_lets x0
  exact State.setIo_keeps (State.wr_keeps h)

theorem State.nvpInitEnds_keeps {s₀ s : State} (h : Keeps s₀ s) :
    Keeps s₀ (State.nvpInitEnds s) := by
  unfold State.nvpInitEnds
  split
  · exact h
  · extract_lets x0
    have h1 : Keeps s₀ x0 := State.wr_keeps (State.wr_keeps (State.wr_keeps h))
    exact Keeps.ite (State.wr64_keeps (State.wr_keeps h1)) h

theorem execNvpInitTimeout_keeps (s : State) : ∃ t, execNvpInitTimeout s = .next t ∧ Keeps s t :=
  have h := Keeps.refl s
  ⟨_, rfl, Keeps.ite (State.raiseIrq_keeps (State.wr_keeps h)) h⟩

theorem State.nvpStop_keeps {s₀ s : State} (h : Keeps s₀ s) :
    Keeps s₀ (State.nvpStop s) := by
  unfold State.nvpStop
  exact State.wr_keeps (State.wr_keeps (State.wr_keeps h))

theorem State.nvmeError_keeps {s₀ s : State} {st} (h : Keeps s₀ s) :
    Keeps s₀ (State.nvmeError st s) := by
  unfold State.nvmeError
  split
  · exact State.wr_keeps (State.inc_keeps h)
  · exact h

theorem execNvmeCompletion_keeps {fetch st data} (s : State) : ∃ t, execNvmeCompletion fetch st data s = .next t ∧ Keeps s t := by
  have h := Keeps.refl s
  unfold execNvmeCompletion
  split
  · exact ⟨_, rfl, h⟩
  · split
    · exact ⟨_, rfl, h⟩
    · split
      · exact ⟨_, rfl, State.wr_keeps h⟩
      · extract_lets src x0
        have h0 : Keeps s x0 := State.setIo_keeps h
        split
        · obtain ⟨t, e, k⟩ := execTileInstall_keeps (fetch := fetch) (data := data) x0
          exact ⟨t, e, h0.trans k⟩
        · exact ⟨_, rfl, State.failFetch_keeps (State.nvmeError_keeps h0)⟩

theorem State.nvpReset_keeps {s₀ s : State} (h : Keeps s₀ s) :
    Keeps s₀ (State.nvpReset s) := by
  unfold State.nvpReset
  extract_lets x0
  have h1 : Keeps s₀ x0 := Keeps.foldl h (fun t2 x3 h4 => State.failFetch_keeps h4)
  exact State.nvpStart_keeps h1

theorem State.nvpTimedOut_keeps {s₀ s : State} (h : Keeps s₀ s) :
    Keeps s₀ (State.nvpTimedOut s) := by
  unfold State.nvpTimedOut
  extract_lets x0 x1 x2
  have h3 : Keeps s₀ x2 := State.setIo_keeps (State.inc_keeps h)
  exact Keeps.ite (State.nvpReset_keeps h3) h3

theorem execNvpTimeout_keeps {fetch} (s : State) : ∃ t, execNvpTimeout fetch s = .next t ∧ Keeps s t := by
  have h := Keeps.refl s
  refine ⟨_, rfl, ?_⟩
  split
  · exact h
  · exact Keeps.ite (State.nvpTimedOut_keeps (State.failFetch_keeps h)) h

theorem State.wrCmd_keeps {s₀ s : State} (h : Keeps s₀ s) :
    Keeps s₀ (State.wrCmd s) := by
  unfold State.wrCmd
  extract_lets x0 x1 x2 x3 x4
  exact Keeps.ite (State.reject_keeps h) (Keeps.ite (State.emit_keeps (State.setIo_keeps (State.wr_keeps h))) (State.wr_keeps h))

theorem execWrCmd_keeps {rq} (s : State) : ∃ t, execWrCmd rq s = .next t ∧ Keeps s t :=
  have h := Keeps.refl s
  ⟨_, rfl, State.access_keeps h (fun t0 h1 => State.wrCmd_keeps h1)⟩

theorem State.dropFlashCopies_keeps {s₀ s : State} {off len} (h : Keeps s₀ s) :
    Keeps s₀ (State.dropFlashCopies off len s) := by
  unfold State.dropFlashCopies
  exact Keeps.foldl h (fun t0 x1 h2 => State.dropSlot_keeps h2)

theorem State.flashWriteFails_keeps {s₀ s : State} {o} (h : Keeps s₀ s) :
    Keeps s₀ (State.flashWriteFails o s) := by
  unfold State.flashWriteFails
  split
  · rename_i z0 z1 z2 z3
    have h4 : Keeps s₀ z2 := Keeps.snd_eq (State.freeBytes_keeps h) z3
    exact State.wr_keeps (State.nvmeWrite_keeps h4)

theorem State.flashWriteEnds_keeps {s₀ s : State} {o} (h : Keeps s₀ s) :
    Keeps s₀ (State.flashWriteEnds o s) := by
  unfold State.flashWriteEnds
  exact State.dropFlashCopies_keeps (State.fire_keeps (State.raiseIrq_keeps h))

theorem State.flashWriteLast_keeps {s₀ s : State} {o st} (h : Keeps s₀ s) :
    Keeps s₀ (State.flashWriteLast o st s) := by
  unfold State.flashWriteLast
  extract_lets x0 x1
  have h2 : Keeps s₀ x1 := State.setIo_keeps h
  refine Keeps.ite ?_ (State.flashWriteFails_keeps (State.nvmeError_keeps h2))
  split
  · rename_i z3 z4 z5 z6
    have h7 : Keeps s₀ z5 := Keeps.snd_eq (State.blockRead_keeps h2) z6
    exact State.wr_keeps (State.nvmeWrite_keeps h7)
  · rename_i z8 z9 z10
    have h11 : Keeps s₀ z9 := Keeps.snd_eq (State.blockRead_keeps h2) z10
    exact State.flashWriteFails_keeps h11

theorem execFlashWriteDone_keeps {st} (s : State) : ∃ t, execFlashWriteDone st s = .next t ∧ Keeps s t := by
  have h := Keeps.refl s
  refine ⟨_, rfl, ?_⟩
  extract_lets x0
  split
  · exact h
  · exact Keeps.ite (Keeps.ite (State.nvpTimedOut_keeps (State.flashWriteEnds_keeps (State.flashWriteFails_keeps (State.setIo_keeps h)))) h) (Keeps.ite (State.wr_keeps h) (State.flashWriteEnds_keeps (State.flashWriteLast_keeps h)))

theorem State.frameTile_keeps {s₀ s : State} {n k buf i payload aux} (h : Keeps s₀ s) :
    Keeps s₀ (State.frameTile n k buf i payload aux s) := by
  unfold State.frameTile
  extract_lets x0 x1 x2 x3
  split
  · extract_lets x8
    exact Keeps.ite (State.storeFrom_keeps h) h

theorem State.setCapture_keeps {s₀ s : State} {n k c} (h : Keeps s₀ s) :
    Keeps s₀ (State.setCapture n k c s) := by
  unfold State.setCapture
  extract_lets x0
  exact State.setIo_keeps h

theorem State.endFrame_keeps {s₀ s : State} {n k flags} (h : Keeps s₀ s) :
    Keeps s₀ (State.endFrame n k flags s) := by
  unfold State.endFrame
  split
  · exact h
  · extract_lets x0 x1
    have h2 : Keeps s₀ x1 := State.frameTile_keeps h
    exact State.settle_keeps (State.setCapture_keeps h2)

theorem State.startFrame_keeps {s₀ s : State} {n k vc frameNum at_} (h : Keeps s₀ s) :
    Keeps s₀ (State.startFrame n k vc frameNum at_ s) := by
  unfold State.startFrame
  extract_lets x0 x1 x2 x3
  have h4 : Keeps s₀ x0 := State.endFrame_keeps h
  have h5 : Keeps s₀ x2 := State.wr_keeps (State.setW1c_keeps h4)
  have h6 : Keeps s₀ x3 := Keeps.ite (State.goto_keeps h5) h5
  exact Keeps.ite (State.raiseIrq_keeps (State.inc_keeps h4)) (State.setCapture_keeps h6)

theorem execFrameStart_keeps {n vc frameNum} (s : State) : ∃ t, execFrameStart n vc frameNum s = .next t ∧ Keeps s t := by
  have h := Keeps.refl s
  refine ⟨_, rfl, ?_⟩
  extract_lets x0 x1 x2
  have h6 : Keeps s x1 := Keeps.foldl (State.fire_keeps h) (fun t3 y4 h5 => State.endFrame_keeps h5)
  refine Keeps.ite ?_ (Keeps.ite (State.setIo_keeps h6) h)
  split
  · exact State.inc_keeps h
  · exact Keeps.foldl (State.fire_keeps h) (fun t11 y12 h13 => State.startFrame_keeps h13)

theorem State.framesWake_keeps {s₀ s : State} (h : Keeps s₀ s) :
    Keeps s₀ (State.framesWake s) := by
  unfold State.framesWake
  extract_lets x0 x1 x2 x3
  have h4 : Keeps s₀ x3 := State.setIo_keeps h
  exact Keeps.foldl h4 (fun t5 y6 h7 => Keeps.foldl h7 (fun t8 y9 h10 => State.startFrame_keeps h10))

theorem State.takeLine_keeps {s₀ s : State} {n k pixels flags} (h : Keeps s₀ s) :
    Keeps s₀ (State.takeLine n k pixels flags s) := by
  unfold State.takeLine
  split
  · exact h
  · extract_lets x0 x1 x2 x3 x4 x5 x6 x7
    have h8 : Keeps s₀ x7 := Keeps.ite (State.frameTile_keeps h) h
    exact Keeps.ite (State.setCapture_keeps h) (State.setCapture_keeps h8)

theorem execLinePacket_keeps {n vc dt hdrOk eccCorr crcOk pixels} (s : State) : ∃ t, execLinePacket n vc dt hdrOk eccCorr crcOk pixels s = .next t ∧ Keeps s t := by
  have h := Keeps.refl s
  refine ⟨_, rfl, ?_⟩
  extract_lets x0 x1 x2
  have h3 : Keeps s x1 := State.wr_keeps h
  have h4 : Keeps s x2 := Keeps.ite (State.raiseIrq_keeps (State.inc_keeps h3)) h3
  exact Keeps.ite h (Keeps.ite (State.inc_keeps h) (Keeps.ite (State.inc_keeps h) (Keeps.foldl h4 (fun t5 x6 h7 => State.takeLine_keeps h7))))

theorem execFrameEnd_keeps {n vc} (s : State) : ∃ t, execFrameEnd n vc s = .next t ∧ Keeps s t := by
  have h := Keeps.refl s
  refine ⟨_, rfl, ?_⟩
  refine Keeps.foldl h (fun t0 x1 h2 => ?_)
  split
  · exact Keeps.ite (State.endFrame_keeps h2) h2
  · exact h2

theorem State.enableStream_keeps {s₀ s : State} {n k} (h : Keeps s₀ s) :
    Keeps s₀ (State.enableStream n k s) := by
  unfold State.enableStream
  exact Keeps.ite (State.raiseIrq_keeps (State.setW1c_keeps h)) (State.wr_keeps h)

theorem State.disableStream_keeps {s₀ s : State} {n k} (h : Keeps s₀ s) :
    Keeps s₀ (State.disableStream n k s) := by
  unfold State.disableStream
  exact State.wr_keeps (State.endFrame_keeps h)

theorem State.csiEnds_keeps {s₀ s : State} {page} (h : Keeps s₀ s) :
    Keeps s₀ (State.csiEnds page s) := by
  unfold State.csiEnds
  exact Keeps.ite (Keeps.foldl h (fun t0 y1 h2 => State.endFrame_keeps h2)) h

theorem execStreamEnable_keeps {rq n s'} (s : State) : ∃ t, execStreamEnable rq n s' s = .next t ∧ Keeps s t :=
  have h := Keeps.refl s
  ⟨_, rfl, Keeps.ite (State.access_keeps h (fun t0 h1 => State.enableStream_keeps h1)) h⟩

theorem State.spmNext_keeps {s₀ s : State} {p} (h : Keeps s₀ s) :
    Keeps s₀ (State.spmNext p s) := by
  unfold State.spmNext
  split
  · exact State.emit_keeps h
  · exact h

theorem execDrdyEdge_keeps {p subTick rising} (s : State) : ∃ t, execDrdyEdge p subTick rising s = .next t ∧ Keeps s t := by
  have h := Keeps.refl s
  refine ⟨_, rfl, ?_⟩
  extract_lets x0 x1 x2 x3 x4 x5
  have h6 : Keeps s x3 := State.stampEdge_keeps h
  have h7 : Keeps s x4 := Keeps.ite (State.setW1c_keeps h6) h6
  exact Keeps.ite h (Keeps.ite h (Keeps.ite (State.inc_keeps h) (State.spmNext_keeps (State.setIo_keeps h7))))

theorem execSampleTransactionDone_keeps {p cs readBytes} (s : State) : ∃ t, execSampleTransactionDone p cs readBytes s = .next t ∧ Keeps s t := by
  have h := Keeps.refl s
  refine ⟨_, rfl, ?_⟩
  split
  · extract_lets x0 x1 x2 x3
    have h4 : Keeps s x1 := State.fire_keeps (State.wr_keeps (State.wr_keeps h))
    have h5 : Keeps s x2 := State.deliverSample_keeps h4
    exact Keeps.ite h (State.spmNext_keeps (State.setIo_keeps h5))
  · exact h

theorem State.xfer_keeps {s₀ s : State} {p cs len} (h : Keeps s₀ s) :
    Keeps s₀ (State.xfer p cs len s) := by
  unfold State.xfer
  extract_lets x0
  have h1 : Keeps s₀ x0 := State.wr_keeps (State.wr_keeps (State.wr_keeps h))
  exact Keeps.ite (State.reject_keeps h) (State.emit_keeps h1)

theorem execXfer_keeps {rq p cs len} (s : State) : ∃ t, execXfer rq p cs len s = .next t ∧ Keeps s t :=
  have h := Keeps.refl s
  ⟨_, rfl, Keeps.ite (State.access_keeps h (fun t0 h1 => State.xfer_keeps h1)) h⟩

theorem execXferDone_keeps {p rx} (s : State) : ∃ t, execXferDone p rx s = .next t ∧ Keeps s t :=
  have h := Keeps.refl s
  ⟨_, rfl, Keeps.ite (State.wr_keeps (State.wr64_keeps h)) h⟩

theorem State.bspiStat_keeps {s₀ s : State} {result reason} (h : Keeps s₀ s) :
    Keeps s₀ (State.bspiStat result reason s) := by
  unfold State.bspiStat
  exact State.wr_keeps (State.wr_keeps h)

theorem State.bspiStart_keeps {s₀ s : State} {op} (h : Keeps s₀ s) :
    Keeps s₀ (State.bspiStart op s) := by
  unfold State.bspiStart
  extract_lets x0 x1 x2 x3
  exact Keeps.ite (State.reject_keeps h) (Keeps.ite (State.bspiStat_keeps h) (Keeps.ite (State.bspiStat_keeps h) (Keeps.ite (State.bspiStat_keeps h) (State.emit_keeps (State.setIo_keeps (State.bspiStat_keeps h))))))

theorem State.bspiCmd_keeps {s₀ s : State} {op} (h : Keeps s₀ s) :
    Keeps s₀ (State.bspiCmd op s) := by
  unfold State.bspiCmd
  exact State.expert_keeps h (fun t0 h1 => State.bspiStart_keeps (State.wr_keeps h1))

theorem execBspiRead_keeps {rq} (s : State) : ∃ t, execBspiRead rq s = .next t ∧ Keeps s t :=
  have h := Keeps.refl s
  ⟨_, rfl, State.access_keeps h (fun t0 h1 => State.bspiCmd_keeps h1)⟩

theorem execBspiProgram_keeps {rq} (s : State) : ∃ t, execBspiProgram rq s = .next t ∧ Keeps s t :=
  have h := Keeps.refl s
  ⟨_, rfl, State.access_keeps h (fun t0 h1 => State.bspiCmd_keeps h1)⟩

theorem execBspiErase_keeps {rq} (s : State) : ∃ t, execBspiErase rq s = .next t ∧ Keeps s t :=
  have h := Keeps.refl s
  ⟨_, rfl, State.access_keeps h (fun t0 h1 => State.bspiCmd_keeps h1)⟩

theorem execBspiOpInvalid_keeps {rq} (s : State) : ∃ t, execBspiOpInvalid rq s = .next t ∧ Keeps s t :=
  have h := Keeps.refl s
  ⟨_, rfl, State.access_keeps h (fun t0 h1 => State.bspiCmd_keeps h1)⟩

theorem State.bspiApply_keeps {s₀ s : State} {o} (h : Keeps s₀ s) :
    Keeps s₀ (State.bspiApply o s) := by
  unfold State.bspiApply
  refine Keeps.ite (Keeps.ite (State.storeFrom_keeps h) h) ?_
  refine Keeps.ite ?_ (State.flashWrite_keeps h)
  split
  · rename_i z0 z1 z2 z3
    have h4 : Keeps s₀ z2 := Keeps.snd_eq (State.blockRead_keeps h) z3
    exact State.flashWrite_keeps h4
  · rename_i z5 z6 z7
    have h8 : Keeps s₀ z6 := Keeps.snd_eq (State.blockRead_keeps h) z7
    exact h8

theorem execBspiDone_keeps {busyTimeout verifyFail} (s : State) : ∃ t, execBspiDone busyTimeout verifyFail s = .next t ∧ Keeps s t := by
  have h := Keeps.refl s
  refine ⟨_, rfl, ?_⟩
  extract_lets x0 x1 x2
  have h3 : Keeps s x1 := State.setIo_keeps h
  have h4 : Keeps s x2 := State.bspiStat_keeps h3
  split
  · exact h
  · extract_lets x10
    refine Keeps.ite h ?_
    refine Keeps.ite (State.bspiStat_keeps (State.bspiApply_keeps h3)) ?_
    refine Keeps.ite h4 ?_
    split
    · rename_i z11 z12 z13 z14
      have h15 : Keeps s z13 := Keeps.snd_eq (State.freeBytes_keeps h4) z14
      exact State.flashWrite_keeps h15

theorem State.sdmCheck_keeps {s₀ s : State} {n edges} (h : Keeps s₀ s) :
    Keeps s₀ (State.sdmCheck n edges s) := by
  unfold State.sdmCheck
  extract_lets x0 x1 x2 x3 x4 x5 x6 x7 x8 x9
  have h10 : Keeps s₀ x8 := State.setIo_keeps h
  have h11 : Keeps s₀ x9 := State.wr_keeps h10
  exact Keeps.ite (State.fire_keeps (State.setW1c_keeps (State.orBits_keeps h11))) (Keeps.ite (State.clearBits_keeps h11) h11)

theorem execSdmClockCheck_keeps {edges} (s : State) : ∃ t, execSdmClockCheck edges s = .next t ∧ Keeps s t :=
  have h := Keeps.refl s
  ⟨_, rfl, Keeps.ite (Keeps.forEach h (fun x0 t1 h2 => State.sdmCheck_keeps h2)) h⟩

theorem State.sdmClkCfg_keeps {s₀ s : State} {x value} (h : Keeps s₀ s) :
    Keeps s₀ (State.sdmClkCfg x value s) := by
  unfold State.sdmClkCfg
  exact Keeps.ite (State.reject_keeps h) (State.wr_keeps (State.wr_keeps h))

theorem execSdmClkCfgWrite_keeps {rq x value} (s : State) : ∃ t, execSdmClkCfgWrite rq x value s = .next t ∧ Keeps s t :=
  have h := Keeps.refl s
  ⟨_, rfl, Keeps.ite (State.access_keeps h (fun t0 h1 => State.sdmClkCfg_keeps h1)) h⟩

theorem execMspiBadCmd_keeps {op} (s : State) : ∃ t, execMspiBadCmd op s = .next t ∧ Keeps s t := by
  have h := Keeps.refl s
  refine ⟨_, rfl, ?_⟩
  extract_lets x0
  exact Keeps.ite h (State.emit_keeps (State.setIo_keeps (State.setW1c_keeps h)))

theorem execMspiWaitTimeout_keeps {n} (s : State) : ∃ t, execMspiWaitTimeout n s = .next t ∧ Keeps s t := by
  have h := Keeps.refl s
  refine ⟨_, rfl, ?_⟩
  extract_lets x0 x1 x2 x3
  have h4 : Keeps s x2 := State.incBy_keeps (State.setW1c_keeps h)
  exact Keeps.ite h (State.emit_keeps (State.setIo_keeps h4))

theorem execMspiCsRise_keeps {midWord wordsLeft overclocked} (s : State) : ∃ t, execMspiCsRise midWord wordsLeft overclocked s = .next t ∧ Keeps s t := by
  have h := Keeps.refl s
  refine ⟨_, rfl, ?_⟩
  extract_lets x0 x1
  exact State.setIo_keeps (State.inc_keeps (State.setW1c_keeps h))

theorem execMspiIdleTimeout_keeps (s : State) : ∃ t, execMspiIdleTimeout s = .next t ∧ Keeps s t := by
  have h := Keeps.refl s
  refine ⟨_, rfl, ?_⟩
  extract_lets x0
  exact Keeps.ite h (State.setIo_keeps (State.setW1c_keeps h))

theorem execTapReset_keeps (s : State) : ∃ t, execTapReset s = .next t ∧ Keeps s t := by
  have h := Keeps.refl s
  refine ⟨_, rfl, ?_⟩
  extract_lets x0
  exact State.setIo_keeps h

theorem execIdcode_keeps (s : State) : ∃ t, execIdcode s = .next t ∧ Keeps s t := by
  have h := Keeps.refl s
  refine ⟨_, rfl, ?_⟩
  extract_lets x0
  exact State.emit_keeps (State.setIo_keeps h)

theorem execSamplePreload_keeps {capture shift} (s : State) : ∃ t, execSamplePreload capture shift s = .next t ∧ Keeps s t := by
  have h := Keeps.refl s
  refine ⟨_, rfl, ?_⟩
  extract_lets x0
  exact State.emit_keeps (State.setIo_keeps h)

theorem execExtest_keeps (s : State) : ∃ t, execExtest s = .next t ∧ Keeps s t := by
  have h := Keeps.refl s
  refine ⟨_, rfl, ?_⟩
  extract_lets x0
  exact State.setIo_keeps h

theorem execClamp_keeps (s : State) : ∃ t, execClamp s = .next t ∧ Keeps s t := by
  have h := Keeps.refl s
  refine ⟨_, rfl, ?_⟩
  extract_lets x0
  exact State.emit_keeps (State.setIo_keeps h)

theorem execHighz_keeps (s : State) : ∃ t, execHighz s = .next t ∧ Keeps s t := by
  have h := Keeps.refl s
  refine ⟨_, rfl, ?_⟩
  extract_lets x0
  exact State.emit_keeps (State.setIo_keeps h)

theorem execStapSelect_keeps {chain} (s : State) : ∃ t, execStapSelect chain s = .next t ∧ Keeps s t := by
  have h := Keeps.refl s
  refine ⟨_, rfl, ?_⟩
  extract_lets x0
  exact State.setIo_keeps h

theorem State.dwrCapture_keeps {s₀ s : State} {key n} (h : Keeps s₀ s) :
    Keeps s₀ (State.dwrCapture key n s).2 := by
  unfold State.dwrCapture
  split
  · rename_i z0 z1 z2 z3
    have h4 : Keeps s₀ z2 := Keeps.snd_eq (State.freeBits_keeps h) z3
    exact h4

theorem execDwrAccess_keeps {die shift} (s : State) : ∃ t, execDwrAccess die shift s = .next t ∧ Keeps s t := by
  have h := Keeps.refl s
  refine ⟨_, rfl, ?_⟩
  extract_lets x0 x1
  have h2 : Keeps s x1 := State.setIo_keeps h
  split
  · exact State.emit_keeps h2
  · split
    · rename_i z9 z10 z11 z12
      have h13 : Keeps s z11 := Keeps.snd_eq (State.dwrCapture_keeps h2) z12
      extract_lets x14
      exact State.emit_keeps (State.setIo_keeps h13)

theorem execBypass_keeps {code} (s : State) : ∃ t, execBypass code s = .next t ∧ Keeps s t := by
  have h := Keeps.refl s
  refine ⟨_, rfl, ?_⟩
  extract_lets x0
  exact Keeps.ite h (State.emit_keeps (State.setIo_keeps h))

end Sys2Proof.Machine
end

