-- ==== Sys2Proof/Laws/KeepsBlocks.lean ====
section
/-! SUPPORT. Every operation of `Machine/Blocks` keeps the part, the tick, the queue and the canonical forms (`Keeps`), and every command
there answers a next state. -/

namespace Sys2Proof.Machine

theorem State.startPlls_keeps {s₀ s : State} {ns} (h : Keeps s₀ s) :
    Keeps s₀ (State.startPlls ns s) := by
  unfold State.startPlls
  refine Keeps.foldl h (fun t0 x1 h2 => ?_)
  extract_lets x3
  exact Keeps.ite h2 (Keeps.same h2 rfl rfl rfl rfl rfl rfl)

theorem State.stopPll_keeps {s₀ s : State} {n} (h : Keeps s₀ s) :
    Keeps s₀ (State.stopPll n s) := by
  unfold State.stopPll
  extract_lets x0
  exact State.clearBits_keeps (Keeps.same h rfl rfl rfl rfl rfl rfl)

theorem State.syncPlls_keeps {s₀ s : State} (h : Keeps s₀ s) :
    Keeps s₀ (State.syncPlls s) := by
  unfold State.syncPlls
  exact Keeps.ite (Keeps.foldl h (fun t0 x1 h2 => Keeps.ite h2 (State.stopPll_keeps h2))) h

theorem State.toReady_keeps {s₀ s : State} {page cause} (h : Keeps s₀ s) :
    Keeps s₀ (State.toReady page cause s) := by
  unfold State.toReady
  extract_lets x0
  have h1 : Keeps s₀ x0 := State.goto_keeps h
  exact Keeps.ite (State.fabStart_keeps h1) (Keeps.ite (State.nvpStart_keeps h1) (Keeps.ite (State.syncFil_keeps h1) h1))

theorem State.onOff_keeps {s₀ s : State} {page} (h : Keeps s₀ s) :
    Keeps s₀ (State.onOff page s) := by
  unfold State.onOff
  extract_lets x0
  exact Keeps.ite (State.fabStop_keeps h) (Keeps.ite (State.nvpStop_keeps h) (Keeps.ite (State.hmStop_keeps h) (Keeps.ite (State.wr_keeps h) (Keeps.ite (State.setIo_keeps h) (Keeps.ite (State.setIo_keeps h) h)))))

theorem State.onPowerOff_keeps {s₀ s : State} {page} (h : Keeps s₀ s) :
    Keeps s₀ (State.onPowerOff page s) := by
  unfold State.onPowerOff
  exact Keeps.ite h (State.onOff_keeps h)

theorem State.tryReady_keeps {s₀ s : State} {page cause} (h : Keeps s₀ s) :
    Keeps s₀ (State.tryReady page cause s) := by
  unfold State.tryReady
  exact Keeps.ite h (Keeps.ite (State.toReady_keeps h) (State.startPlls_keeps h))

theorem State.readyWaiting_keeps {s₀ s : State} {cause} (h : Keeps s₀ s) :
    Keeps s₀ (State.readyWaiting cause s) := by
  unfold State.readyWaiting
  exact Keeps.foldl h (fun t0 x1 h2 => Keeps.ite (State.tryReady_keeps h2) h2)

theorem State.enableWrite_keeps {s₀ s : State} {page value} (h : Keeps s₀ s) :
    Keeps s₀ (State.enableWrite page value s) := by
  unfold State.enableWrite
  extract_lets x0 x1 x2 x3 x4
  have h5 : Keeps s₀ x1 := State.wr_keeps (State.wr_keeps h)
  have h6 : Keeps s₀ x2 := Keeps.ite (State.startPlls_keeps h5) h5
  have h7 : Keeps s₀ x3 := Keeps.ite (State.filHalt_keeps h6) h6
  have h8 : Keeps s₀ x4 := Keeps.ite (State.cancel_keeps h6) (State.csiEnds_keeps h6)
  refine Keeps.ite (State.tryReady_keeps h7) ?_
  split
  · exact State.syncPlls_keeps (State.goto_keeps (State.onOff_keeps h8))
  · exact State.goto_keeps h8
  · exact State.syncPlls_keeps h8

theorem State.resetRegs_keeps {s₀ s : State} {page} (h : Keeps s₀ s) :
    Keeps s₀ (State.resetRegs page s) := by
  unfold State.resetRegs
  extract_lets x0 x1
  have h2 : Keeps s₀ x0 := Keeps.filtered h _ (fun _ => true) rfl rfl rfl rfl rfl (filter_true _).symm
  exact State.wr_keeps (State.wr_keeps h2)

theorem State.resetUnit_keeps {s₀ s : State} {page} (h : Keeps s₀ s) :
    Keeps s₀ (State.resetUnit page s) := by
  unfold State.resetUnit
  extract_lets x0 x1 x2 x3 x4 x5 x6 x7 x8 x9 x10
  have h11 : Keeps s₀ x6 := State.setLnk_keeps h
  refine Keeps.ite (State.setRows_keeps h) ?_
  refine Keeps.ite (State.rowsLost_keeps h) ?_
  refine Keeps.ite (State.clearSketch_keeps (State.setRows_keeps h)) ?_
  refine Keeps.ite (Keeps.same h rfl rfl rfl rfl rfl rfl) ?_
  refine Keeps.ite (State.filLost_keeps h) ?_
  refine Keeps.ite (State.setFil_keeps h) ?_
  refine Keeps.ite (State.setHm_keeps h) ?_
  refine Keeps.ite (State.setHm_keeps h) ?_
  refine Keeps.ite (State.fabStop_keeps h) ?_
  refine Keeps.ite (State.setIo_keeps h) ?_
  refine Keeps.ite (State.setIo_keeps h) ?_
  refine Keeps.ite (State.setIo_keeps h) ?_
  refine Keeps.ite (Keeps.ite (State.setGuest_keeps h11) h11) ?_
  refine Keeps.ite ?_ (Keeps.ite (State.syncVc_keeps (State.syncCores_keeps h)) (Keeps.ite (Keeps.foldl h (fun t16 y17 h18 => State.requota_keeps (State.requota_keeps h18))) (Keeps.ite (State.setFab_keeps (State.setCk_keeps h)) (Keeps.ite (State.syncShares_keeps (State.setSch_keeps h)) h))))
  refine Keeps.foldl h (fun t12 y13 h14 => ?_)
  extract_lets x15
  exact State.setLnk_keeps h14

theorem State.doReset_keeps {s₀ s : State} {page} (h : Keeps s₀ s) :
    Keeps s₀ (State.doReset page s) := by
  unfold State.doReset
  extract_lets x0 x1 x2 x3 x4
  have h5 : Keeps s₀ x1 := Keeps.foldl h (fun t6 x7 h8 => State.resetRegs_keeps h8)
  have h9 : Keeps s₀ x2 := State.syncLocked_keeps (State.resetUnit_keeps h5)
  have h10 : Keeps s₀ x3 := State.goto_keeps (State.onOff_keeps h9)
  exact Keeps.ite h9 (State.syncPlls_keeps (State.setBlk_keeps h10))

theorem State.blkCtrl_keeps {s₀ s : State} {page value} (h : Keeps s₀ s) :
    Keeps s₀ (State.blkCtrl page value s) := by
  unfold State.blkCtrl
  exact Keeps.ite (State.resetUnit_keeps (State.resetRegs_keeps h)) (Keeps.ite h (Keeps.ite (Keeps.ite (State.doReset_keeps h) (State.enableWrite_keeps (State.reject_keeps h))) (State.enableWrite_keeps h)))

theorem execBlockEnable_keeps {rq page clkReq} (s : State) : ∃ t, execBlockEnable rq page clkReq s = .next t ∧ Keeps s t :=
  have h := Keeps.refl s
  ⟨_, rfl, State.access_keeps h (fun t0 h1 => State.blkCtrl_keeps h1)⟩

theorem execBlockDisable_keeps {rq page clkReq} (s : State) : ∃ t, execBlockDisable rq page clkReq s = .next t ∧ Keeps s t :=
  have h := Keeps.refl s
  ⟨_, rfl, State.access_keeps h (fun t0 h1 => State.blkCtrl_keeps h1)⟩

theorem execSoftReset_keeps {rq page enable clkReq} (s : State) : ∃ t, execSoftReset rq page enable clkReq s = .next t ∧ Keeps s t :=
  have h := Keeps.refl s
  ⟨_, rfl, State.access_keeps h (fun t0 h1 => State.blkCtrl_keeps h1)⟩

theorem execNvpEnable_keeps {rq found} (s : State) : ∃ t, execNvpEnable rq found s = .next t ∧ Keeps s t := by
  have h := Keeps.refl s
  refine ⟨_, rfl, ?_⟩
  refine State.access_keeps h (fun t0 h1 => ?_)
  extract_lets x2
  exact State.blkCtrl_keeps (State.setIo_keeps h1)

theorem State.irqForce_keeps {s₀ s : State} {page bits} (h : Keeps s₀ s) :
    Keeps s₀ (State.irqForce page bits s) := by
  unfold State.irqForce
  exact Keeps.foldl h (fun t0 y1 h2 => State.setIrq_keeps h2)

theorem execIrqForce_keeps {rq page bits} (s : State) : ∃ t, execIrqForce rq page bits s = .next t ∧ Keeps s t :=
  have h := Keeps.refl s
  ⟨_, rfl, State.access_keeps h (fun t0 h1 => State.irqForce_keeps h1)⟩

theorem execDrainComplete_keeps {page lost} (s : State) : ∃ t, execDrainComplete page lost s = .next t ∧ Keeps s t := by
  have h := Keeps.refl s
  refine ⟨_, rfl, ?_⟩
  extract_lets x0 x1 x2 x3 x4
  have h5 : Keeps s x2 := Keeps.ite (State.onPowerOff_keeps h) (State.onOff_keeps h)
  have h6 : Keeps s x4 := State.setBlk_keeps h
  refine Keeps.ite h ?_
  split
  · exact Keeps.ite (State.syncPlls_keeps (State.goto_keeps h5)) h
  · refine Keeps.ite h ?_
    split <;> exact Keeps.ite (State.incBy_keeps h6) h6
  · exact h

theorem State.arm_keeps {s₀ s : State} {rq page on} (h : Keeps s₀ s) :
    Keeps s₀ (State.arm rq page on s) := by
  unfold State.arm
  extract_lets x0 x1 x2
  exact Keeps.same h rfl rfl rfl rfl rfl rfl

theorem State.expWrite_keeps {s₀ s : State} {rq page value} (h : Keeps s₀ s) :
    Keeps s₀ (State.expWrite rq page value s) := by
  unfold State.expWrite
  split
  · exact State.blocked_keeps h
  · extract_lets x0 x1 x2 x3
    have h4 : Keeps s₀ x2 := State.arm_keeps h
    have h5 : Keeps s₀ x3 := State.wr_keeps h4
    exact Keeps.ite (State.blocked_keeps (State.arm_keeps h)) (Keeps.ite (State.arm_keeps h) (Keeps.ite
      (Keeps.ite (State.blocked_keeps h5) h5) (Keeps.ite (Keeps.ite h4 (State.wr_keeps h4)) (State.blocked_keeps h4))))

theorem State.expAccess_keeps {s₀ s : State} {rq page value} (h : Keeps s₀ s) :
    Keeps s₀ (State.expAccess rq page value s) := by
  unfold State.expAccess
  split
  · exact Keeps.ite (State.access_keeps h (fun t0 h1 => State.blocked_keeps h1)) h
  · exact State.access_keeps h (fun t2 h3 => State.expWrite_keeps h3)

theorem execExpUnlockFirstKey_keeps {rq page upper} (s : State) : ∃ t, execExpUnlockFirstKey rq page upper s = .next t ∧ Keeps s t :=
  have h := Keeps.refl s
  ⟨_, rfl, State.expAccess_keeps h⟩

theorem execExpUnlockSecondKey_keeps {rq page value} (s : State) : ∃ t, execExpUnlockSecondKey rq page value s = .next t ∧ Keeps s t :=
  have h := Keeps.refl s
  ⟨_, rfl, State.expAccess_keeps h⟩

theorem execExpRelock_keeps {rq page upper} (s : State) : ∃ t, execExpRelock rq page upper s = .next t ∧ Keeps s t :=
  have h := Keeps.refl s
  ⟨_, rfl, State.expAccess_keeps h⟩

theorem execUnlockWindowExpiry_keeps {rq page} (s : State) : ∃ t, execUnlockWindowExpiry rq page s = .next t ∧ Keeps s t := by
  have h := Keeps.refl s
  refine ⟨_, rfl, ?_⟩
  split
  · exact Keeps.ite (State.arm_keeps h) h
  · exact h

theorem State.answerRead_keeps {s₀ s : State} {rq l} (h : Keeps s₀ s) :
    Keeps s₀ (State.answerRead rq l s) := by
  unfold State.answerRead
  exact Keeps.foldl h (fun t0 y1 h2 => State.emit_keeps h2)

theorem State.hostPiece_keeps {s₀ s : State} {fn a n} (h : Keeps s₀ s) :
    Keeps s₀ (State.hostPiece fn a n s).2.2 := by
  unfold State.hostPiece
  split
  · rename_i z0 z1 z2 z3
    have h4 := Keeps.snd_eq (State.eccRead_keeps h) z3
    exact h4

theorem execBar2Access_keeps {fn off len write data} (s : State) : ∃ t, execBar2Access fn off len write data s = .next t ∧ Keeps s t := by
  have h := Keeps.refl s
  refine ⟨_, rfl, ?_⟩
  extract_lets x0 x1 x2 x3
  have h13 : Keeps s x3.2 := by
    unfold x3
    refine Keeps.foldl_snd h (fun y4 y5 h6 => ?_)
    refine Keeps.ite_at (fun (p : Cpls × State) => p.2) ?_ ?_
    · split
      · rename_i z7 z8 z9 z10 z11
        have h12 : Keeps s z10 := Keeps.snd_snd_eq (State.hostPiece_keeps h6) z11
        dsimp only
        exact State.readTo_keeps h12
    · dsimp only
      dsimp only [x2]
      exact Keeps.ite h6 (State.inc_keeps h6)
  refine Keeps.ite h ?_
  refine Keeps.ite ?_ (State.answerRead_keeps h13)
  refine Keeps.foldl h (fun t14 y15 h16 => ?_)
  extract_lets x17
  refine Keeps.ite (State.storeFrom_keeps h16) ?_
  dsimp only [x2]
  exact Keeps.ite h16 (State.inc_keeps h16)

theorem bar4Piece_keeps {s₀ : State} {b q p} (h : Keeps s₀ q.2) : Keeps s₀ (bar4Piece b q p).2 := by
  unfold bar4Piece
  split
  · exact State.countRead_keeps (State.hostPiece_keeps (n := p.2) h)
  · exact h

theorem execBar4Access_keeps {off len write data} (s : State) : ∃ t, execBar4Access off len write data s = .next t ∧ Keeps s t := by
  have h := Keeps.refl s
  refine ⟨_, rfl, Keeps.ite h (Keeps.ite ?_ (State.answerRead_keeps (Keeps.foldl_snd h (fun q x hq => bar4Piece_keeps hq))))⟩
  exact Keeps.foldl h (fun t x ht => Keeps.ite (State.store_keeps ht) ht)

end Sys2Proof.Machine
end

