-- ==== Sys2Proof/Laws/KeepsPower.lean ====
section
/-! SUPPORT. Every operation of `Machine/Power` keeps the part, the tick, the queue and the canonical forms (`Keeps`), and every command
there answers a next state. -/

namespace Sys2Proof.Machine

theorem State.setPwr_keeps {s₀ s : State} {p} (h : Keeps s₀ s) :
    Keeps s₀ (State.setPwr p s) := by
  unfold State.setPwr
  exact Keeps.same h rfl rfl rfl rfl rfl rfl

theorem State.setBoot_keeps {s₀ s : State} {b} (h : Keeps s₀ s) :
    Keeps s₀ (State.setBoot b s) := by
  unfold State.setBoot
  exact Keeps.same h rfl rfl rfl rfl rfl rfl

theorem State.releaseBlocks_keeps {s₀ s : State} {ps} (h : Keeps s₀ s) :
    Keeps s₀ (State.releaseBlocks ps s) := by
  unfold State.releaseBlocks
  refine Keeps.foldl h (fun t0 x1 h2 => ?_)
  split
  · extract_lets x3 x4
    have h5 : Keeps s₀ x4 := State.setBlk_keeps h2
    exact Keeps.foldl h5 (fun t6 x7 h8 => State.wr_keeps h8)
  · exact h2

theorem State.hifNoLink_keeps {s₀ s : State} (h : Keeps s₀ s) :
    Keeps s₀ (State.hifNoLink s) := by
  unfold State.hifNoLink
  extract_lets x0
  exact State.setBoot_keeps (State.wr_keeps (State.wr_keeps (State.wr_keeps h)))

theorem State.bootError_keeps {s₀ s : State} {code unit} (h : Keeps s₀ s) :
    Keeps s₀ (State.bootError code unit s) := by
  unfold State.bootError
  extract_lets x0 x1 x2 x3 x4 x5 x6
  have h7 : Keeps s₀ x1 := State.releaseBlocks_keeps h
  have h8 : Keeps s₀ x2 := Keeps.ite (State.faultBlock_keeps h7) h7
  have h9 : Keeps s₀ x3 := Keeps.ite h8 (State.syncPin_keeps (State.goto_keeps h8))
  have h10 : Keeps s₀ x4 := State.wr_keeps (State.wr_keeps (State.wr_keeps h9))
  have h11 : Keeps s₀ x5 := Keeps.ite h10 (State.hifNoLink_keeps h10)
  exact Keeps.ite (State.setBoot_keeps h11) (Keeps.ite (State.hifNoLink_keeps (State.wr_keeps (State.wr_keeps h))) h)

theorem State.logEvent_keeps {s₀ s : State} {r} (h : Keeps s₀ s) :
    Keeps s₀ (State.logEvent r s) := by
  unfold State.logEvent
  extract_lets x0 x1
  exact Keeps.ite h (Keeps.ite (State.inc_keeps (State.setW1c_keeps h)) (State.wr_keeps (State.storeFrom_keeps h)))

theorem State.deliverEvent_keeps {s₀ s : State} {r} (h : Keeps s₀ s) :
    Keeps s₀ (State.deliverEvent r s) := by
  unfold State.deliverEvent
  extract_lets x0
  have h1 : Keeps s₀ x0 := State.emit_keeps (State.logEvent_keeps h)
  exact Keeps.ite (State.emit_keeps h1) h1

theorem execTickEventSampling_keeps (s : State) : ∃ t, execTickEventSampling s = .next t ∧ Keeps s t := by
  have h := Keeps.refl s
  refine ⟨_, rfl, ?_⟩
  extract_lets x0 x1 x2
  have h13 : Keeps s x1 := by
    unfold x1
    refine Keeps.foldl h (fun t3 y4 h5 => ?_)
    split
    · exact State.deliverEvent_keeps h5
    · exact h5
  exact Keeps.ite h (Keeps.same h13 rfl rfl rfl rfl rfl rfl)

theorem State.evtLogEnable_keeps {s₀ s : State} (h : Keeps s₀ s) :
    Keeps s₀ (State.evtLogEnable s) := by
  unfold State.evtLogEnable
  extract_lets x0
  have h1 : Keeps s₀ x0 := State.wr_keeps h
  exact Keeps.ite h1 (State.setW1c_keeps h1)

theorem execEvtLogEnable_keeps {rq} (s : State) : ∃ t, execEvtLogEnable rq s = .next t ∧ Keeps s t :=
  have h := Keeps.refl s
  ⟨_, rfl, State.access_keeps h (fun t0 h1 => State.evtLogEnable_keeps h1)⟩

theorem State.evtInject_keeps {s₀ s : State} {word bits} (h : Keeps s₀ s) :
    Keeps s₀ (State.evtInject word bits s) := by
  unfold State.evtInject
  extract_lets x0 x1
  exact Keeps.same h rfl rfl rfl rfl rfl rfl

theorem execEvtInject_keeps {rq word bits} (s : State) : ∃ t, execEvtInject rq word bits s = .next t ∧ Keeps s t :=
  have h := Keeps.refl s
  ⟨_, rfl, Keeps.ite (State.access_keeps h (fun t0 h1 => State.expert_keeps h1 (fun t2 h3 => State.evtInject_keeps h3))) h⟩

theorem State.fireInjected_keeps {s₀ s : State} (h : Keeps s₀ s) :
    Keeps s₀ (State.fireInjected s) := by
  unfold State.fireInjected
  extract_lets x0 x1 x2 x3
  have h7 : Keeps s₀ x2 := Keeps.foldl (Keeps.same h rfl rfl rfl rfl rfl rfl) (fun t4 y5 h6 => State.fire_keeps h6)
  have h8 : Keeps s₀ x3 := Keeps.ite (State.bootError_keeps h7) h7
  exact Keeps.ite (State.bootError_keeps h8) h8

theorem State.clockGone_keeps {s₀ s : State} {page} (h : Keeps s₀ s) :
    Keeps s₀ (State.clockGone page s) := by
  unfold State.clockGone
  exact Keeps.ite (State.hmToKeeper_keeps h) (Keeps.ite (State.fabFaulted_keeps h) (Keeps.ite (Keeps.ite h (State.wr_keeps h)) h))

theorem State.clockFault_keeps {s₀ s : State} {ps isLocal start rep} (h : Keeps s₀ s) :
    Keeps s₀ (State.clockFault ps isLocal start rep s) := by
  unfold State.clockFault
  exact Keeps.foldl h (fun t0 x1 h2 => Keeps.ite (State.clockGone_keeps (State.faultBlock_keeps h2)) h2)

theorem State.pllFault_keeps {s₀ s : State} {n start} (h : Keeps s₀ s) :
    Keeps s₀ (State.pllFault n start s) := by
  unfold State.pllFault
  extract_lets x0 x1
  have h2 : Keeps s₀ x1 := State.stopPll_keeps h
  split
  · rename_i z3 z4 z5 z6
    have h7 := Keeps.snd_eq (State.detect_keeps h2) z6
    extract_lets x8
    have h9 : Keeps s₀ x8 := State.clockFault_keeps h7
    exact Keeps.ite (State.endAll_keeps h9) h9

theorem State.refFault_keeps {s₀ s : State} (h : Keeps s₀ s) :
    Keeps s₀ (State.refFault s) := by
  unfold State.refFault
  extract_lets x0 x1 x2
  have h3 : Keeps s₀ x2 := Keeps.foldl h (fun t4 x5 h6 => State.stopPll_keeps h6)
  refine Keeps.ite h ?_
  split
  · rename_i z7 z8 z9 z10
    have h11 := Keeps.snd_eq (State.detect_keeps h3) z10
    exact State.endAll_keeps (State.clockFault_keeps h11)

theorem execRefclkLost_keeps (s : State) : ∃ t, execRefclkLost s = .next t ∧ Keeps s t := by
  have h := Keeps.refl s
  refine ⟨_, rfl, ?_⟩
  extract_lets x0 x1
  have h2 : Keeps s x0 := State.wr_keeps (State.setW1c_keeps (State.wr_keeps h))
  exact Keeps.ite (State.refFault_keeps (State.setPwr_keeps h2)) h

theorem execRefclkReturn_keeps (s : State) : ∃ t, execRefclkReturn s = .next t ∧ Keeps s t := by
  have h := Keeps.refl s
  refine ⟨_, rfl, ?_⟩
  extract_lets x0 x1 x2
  have h3 : Keeps s x1 := State.setPwr_keeps (State.wr_keeps h)
  exact Keeps.ite h (Keeps.ite (State.setBoot_keeps h3) h3)

theorem execAonclkDisciplined_keeps {freqErr} (s : State) : ∃ t, execAonclkDisciplined freqErr s = .next t ∧ Keeps s t := by
  have h := Keeps.refl s
  refine ⟨_, rfl, ?_⟩
  split
  · extract_lets x0
    exact Keeps.ite (State.setPwr_keeps (State.wr_keeps (State.wr_keeps h))) h
  · exact h

theorem State.disciplineEn_keeps {s₀ s : State} {on} (h : Keeps s₀ s) :
    Keeps s₀ (State.disciplineEn on s) := by
  unfold State.disciplineEn
  extract_lets x0 x1 x2
  have h3 : Keeps s₀ x1 := State.wr_keeps h
  exact Keeps.ite (State.wr_keeps h3) (Keeps.ite (State.setPwr_keeps h3) h3)

theorem State.lockPll_keeps {s₀ s : State} {n} (h : Keeps s₀ s) :
    Keeps s₀ (State.lockPll n s) := by
  unfold State.lockPll
  exact Keeps.ite (State.orBits_keeps h) h

theorem execPllLock_keeps {n} (s : State) : ∃ t, execPllLock n s = .next t ∧ Keeps s t := by
  have h := Keeps.refl s
  refine ⟨_, rfl, ?_⟩
  extract_lets x0 x1 x2
  have h3 : Keeps s x0 := State.lockPll_keeps h
  have h4 : Keeps s x2 := Keeps.ite (State.setPwr_keeps h3) h3
  exact Keeps.ite (State.readyWaiting_keeps h4) h4

theorem State.pmResult_keeps {s₀ s : State} {code} (h : Keeps s₀ s) :
    Keeps s₀ (State.pmResult code s) := by
  unfold State.pmResult
  exact State.wr_keeps (State.wr_keeps h)

theorem execPllLockTimeout_keeps {n} (s : State) : ∃ t, execPllLockTimeout n s = .next t ∧ Keeps s t := by
  have h := Keeps.refl s
  refine ⟨_, rfl, ?_⟩
  extract_lets x0 x1 x2 x3 x4 x5
  have h6 : Keeps s x2 := State.pllFault_keeps h
  have h7 : Keeps s x3 := Keeps.ite (State.pmResult_keeps h6) h6
  have h8 : Keeps s x5 := State.setPwr_keeps h7
  split
  · exact Keeps.ite h (Keeps.ite (State.bootError_keeps h8) h8)
  · exact h

theorem execClockMonitorFault_keeps {pll} (s : State) : ∃ t, execClockMonitorFault pll s = .next t ∧ Keeps s t :=
  have h := Keeps.refl s
  ⟨_, rfl, Keeps.ite (Keeps.ite h (State.refFault_keeps h)) (Keeps.ite (State.pllFault_keeps h) h)⟩

theorem State.dozeStops_keeps {s₀ s : State} (h : Keeps s₀ s) :
    Keeps s₀ (State.dozeStops s) := by
  unfold State.dozeStops
  extract_lets x0
  have h1 : Keeps s₀ x0 := Keeps.ite (State.hmToKeeper_keeps h) h
  exact Keeps.ite h1 (State.filHalt_keeps h1)

theorem State.hmResume_keeps {s₀ s : State} (h : Keeps s₀ s) :
    Keeps s₀ (State.hmResume s) := by
  unfold State.hmResume
  exact Keeps.ite (State.hmRestart_keeps h) h

theorem execAutoDozeEntry_keeps (s : State) : ∃ t, execAutoDozeEntry s = .next t ∧ Keeps s t :=
  have h := Keeps.refl s
  ⟨_, rfl, Keeps.ite (State.dozeStops_keeps (State.wr_keeps (State.wr_keeps h))) h⟩

theorem execDozeExit_keeps {t} (s : State) : ∃ u, execDozeExit t s = .next u ∧ Keeps s u :=
  have h := Keeps.refl s
  ⟨_, rfl, Keeps.ite (State.leaveDoze_keeps h) h⟩

theorem State.dozeEnds_keeps {s₀ s : State} (h : Keeps s₀ s) :
    Keeps s₀ (State.dozeEnds s) := by
  unfold State.dozeEnds
  split
  · extract_lets x0
    exact Keeps.ite (State.hmResume_keeps (State.wr_keeps (State.wr_keeps (State.wr_keeps (State.setPwr_keeps h))))) h
  · exact h

theorem State.wakeCause_keeps {s₀ s : State} {src e0 index} (h : Keeps s₀ s) :
    Keeps s₀ (State.wakeCause src e0 index s) := by
  unfold State.wakeCause
  extract_lets x0 x1
  have h2 : Keeps s₀ x1 := State.setPwr_keeps h
  exact State.wr_keeps (State.wr_keeps (State.wr_keeps h2))

theorem State.startWake_keeps {s₀ s : State} {src e0 index result} (h : Keeps s₀ s) :
    Keeps s₀ (State.startWake src e0 index result s) := by
  unfold State.startWake
  extract_lets x0 x1 x2 x3 x4 x5
  have h6 : Keeps s₀ x1 := State.setPwr_keeps h
  have h7 : Keeps s₀ x2 := State.pmResult_keeps (State.wr_keeps (State.wr_keeps h6))
  have h8 : Keeps s₀ x5 := State.setPwr_keeps h7
  exact State.wakeCause_keeps h8

theorem State.abandon_keeps {s₀ s : State} {src e0 index} (h : Keeps s₀ s) :
    Keeps s₀ (State.abandon src e0 index s) := by
  unfold State.abandon
  extract_lets x0 x1 x2
  have h3 : Keeps s₀ x1 := State.setPwr_keeps h
  have h4 : Keeps s₀ x2 := State.wr_keeps (State.wr_keeps (State.wr_keeps h3))
  exact Keeps.ite (State.startWake_keeps h) (State.readyWaiting_keeps (State.hmResume_keeps (State.wakeCause_keeps (State.pmResult_keeps h4))))

theorem State.refuseEntry_keeps {s₀ s : State} (h : Keeps s₀ s) :
    Keeps s₀ (State.refuseEntry s) := by
  unfold State.refuseEntry
  extract_lets x0 x1
  have h2 : Keeps s₀ x1 := State.setPwr_keeps h
  exact State.pmResult_keeps (State.wr_keeps (State.wr_keeps h2))

theorem State.sourcesWake_keeps {s₀ s : State} {src e0} (h : Keeps s₀ s) :
    Keeps s₀ (State.sourcesWake src e0 s) := by
  unfold State.sourcesWake
  exact Keeps.ite (Keeps.ite (State.leaveDoze_keeps h) h) (Keeps.ite (State.startWake_keeps h) h)

theorem execWakeStart_keeps (s : State) : ∃ t, execWakeStart s = .next t ∧ Keeps s t := by
  have h := Keeps.refl s
  refine ⟨_, rfl, ?_⟩
  split
  · exact Keeps.ite (State.wakeCause_keeps h) (Keeps.ite h (Keeps.ite (State.sourcesWake_keeps (State.refuseEntry_keeps h)) (Keeps.ite (State.abandon_keeps h) (State.sourcesWake_keeps h))))

theorem State.powerDown_keeps {s₀ s : State} {page} (h : Keeps s₀ s) :
    Keeps s₀ (State.powerDown page s) := by
  unfold State.powerDown
  extract_lets x0 x1 x2 x3
  have h4 : Keeps s₀ x0 := Keeps.ite (State.rowsBack_keeps h) h
  have h5 : Keeps s₀ x1 := h4
  have h6 : Keeps s₀ x2 := Keeps.ite (State.hmToKeeper_keeps h4) h4
  refine Keeps.ite h ?_
  split
  · exact Keeps.ite (State.goto_keeps (State.onPowerOff_keeps h4)) (State.goto_keeps h4)
  · exact State.goto_keeps h6
  · exact State.setBlk_keeps h
  · exact h

theorem State.powerDownAll_keeps {s₀ s : State} (h : Keeps s₀ s) :
    Keeps s₀ (State.powerDownAll s) := by
  unfold State.powerDownAll
  exact Keeps.foldl h (fun t0 x1 h2 => State.powerDown_keeps h2)

theorem State.entryBegins_keeps {s₀ s : State} (h : Keeps s₀ s) :
    Keeps s₀ (State.entryBegins s) := by
  unfold State.entryBegins
  exact State.reclaimAll_keeps (State.fabLeave_keeps (State.filHalt_keeps h))

theorem State.entryGoesOn_keeps {s₀ s : State} (h : Keeps s₀ s) :
    Keeps s₀ (State.entryGoesOn s) := by
  unfold State.entryGoesOn
  extract_lets x0 x1 x2
  have h3 : Keeps s₀ x0 := Keeps.ite (State.entryBegins_keeps h) h
  have h4 : Keeps s₀ x1 := State.powerDownAll_keeps h3
  exact Keeps.ite (Keeps.ite (State.setPwr_keeps h4) h4) h

theorem State.startEntry_keeps {s₀ s : State} {target} (h : Keeps s₀ s) :
    Keeps s₀ (State.startEntry target s) := by
  unfold State.startEntry
  extract_lets x0 x1
  have h2 : Keeps s₀ x1 := State.setPwr_keeps h
  exact State.pmResult_keeps (State.wr_keeps (State.wr_keeps h2))

theorem State.pmSleep_keeps {s₀ s : State} {target dropT0 dropHbm} (h : Keeps s₀ s) :
    Keeps s₀ (State.pmSleep target dropT0 dropHbm s) := by
  unfold State.pmSleep
  split <;> exact Keeps.ite (State.pmResult_keeps h) (Keeps.ite (State.pmResult_keeps h) (Keeps.ite (State.pmResult_keeps h) (Keeps.ite (State.pmResult_keeps h) (Keeps.ite (State.pmResult_keeps h) (Keeps.ite (State.pmResult_keeps h) (State.startEntry_keeps h))))))

theorem execPmReqNap_keeps {rq dropT0 dropHbm} (s : State) : ∃ t, execPmReqNap rq dropT0 dropHbm s = .next t ∧ Keeps s t :=
  have h := Keeps.refl s
  ⟨_, rfl, State.access_keeps h (fun t0 h1 => State.pmSleep_keeps h1)⟩

theorem execPmReqSleep_keeps {rq dropT0 dropHbm} (s : State) : ∃ t, execPmReqSleep rq dropT0 dropHbm s = .next t ∧ Keeps s t :=
  have h := Keeps.refl s
  ⟨_, rfl, State.access_keeps h (fun t0 h1 => State.pmSleep_keeps h1)⟩

theorem execPmReqDeep_keeps {rq dropT0 dropHbm} (s : State) : ∃ t, execPmReqDeep rq dropT0 dropHbm s = .next t ∧ Keeps s t :=
  have h := Keeps.refl s
  ⟨_, rfl, State.access_keeps h (fun t0 h1 => State.pmSleep_keeps h1)⟩

theorem State.pmAwake_keeps {s₀ s : State} (h : Keeps s₀ s) :
    Keeps s₀ (State.pmAwake s) := by
  unfold State.pmAwake
  exact Keeps.ite (State.abandon_keeps h) (Keeps.ite h (Keeps.ite (State.startWake_keeps h) (State.pmResult_keeps (State.leaveDoze_keeps h))))

theorem execPmReqAwake_keeps {rq} (s : State) : ∃ t, execPmReqAwake rq s = .next t ∧ Keeps s t :=
  have h := Keeps.refl s
  ⟨_, rfl, State.access_keeps h (fun t0 h1 => State.pmAwake_keeps h1)⟩

theorem State.pmInvalid_keeps {s₀ s : State} {target} (h : Keeps s₀ s) :
    Keeps s₀ (State.pmInvalid target s) := by
  unfold State.pmInvalid
  extract_lets x0
  exact Keeps.ite h (Keeps.ite (State.pmResult_keeps h) (State.pmResult_keeps h))

theorem execPmReqInvalid_keeps {rq target} (s : State) : ∃ t, execPmReqInvalid rq target s = .next t ∧ Keeps s t :=
  have h := Keeps.refl s
  ⟨_, rfl, State.access_keeps h (fun t0 h1 => State.pmInvalid_keeps h1)⟩

theorem State.tiersLost_keeps {s₀ s : State} {tiers} (h : Keeps s₀ s) :
    Keeps s₀ (State.tiersLost tiers s) := by
  unfold State.tiersLost
  extract_lets x0 x1 x2 x3 x4 x5 x6 x7 x8
  have h9 : Keeps s₀ x2 := Keeps.foldl h (fun t10 x11 h12 => State.unpin_keeps h12)
  have h13 : Keeps s₀ x4 := State.setSch_keeps h9
  have h14 : Keeps s₀ x7 := Keeps.foldl h13 (fun t15 x16 h17 => State.loseObj_keeps h17)
  exact State.setCk_keeps h14

theorem State.relockFacets_keeps {s₀ s : State} (h : Keeps s₀ s) :
    Keeps s₀ (State.relockFacets s) := by
  unfold State.relockFacets
  extract_lets x0 x1 x2
  have h3 : Keeps s₀ x1 := Keeps.foldl h (fun t4 x5 h6 => State.wr_keeps h6)
  clear_value x1
  exact Keeps.same h3 rfl rfl rfl rfl rfl rfl

theorem State.setStale_keeps {s₀ s : State} {l b} (h : Keeps s₀ s) :
    Keeps s₀ (State.setStale l b s) := by
  unfold State.setStale
  exact Keeps.foldl h (fun t0 y1 h2 => State.wr_keeps h2)

theorem State.locketsLost_keeps {s₀ s : State} (h : Keeps s₀ s) :
    Keeps s₀ (State.locketsLost s) := by
  unfold State.locketsLost
  extract_lets x0 x1
  have h2 : Keeps s₀ x0 := State.tiersLost_keeps h
  exact State.setCk_keeps h2

theorem State.deepLost_keeps {s₀ s : State} (h : Keeps s₀ s) :
    Keeps s₀ (State.deepLost s) := by
  unfold State.deepLost
  exact State.filLost_keeps (State.indexesLost_keeps (State.rowsLost_keeps (State.tiersLost_keeps h)))

theorem State.linkToL1_keeps {s₀ s : State} {l} (h : Keeps s₀ s) :
    Keeps s₀ (State.linkToL1 l s) := by
  unfold State.linkToL1
  extract_lets x0
  refine Keeps.ite (State.wr_keeps h) ?_
  split
  · exact Keeps.ite (State.wr_keeps (State.wr_keeps (State.wr_keeps (State.setLnk_keeps h)))) h
  · exact h

theorem execPowerStateEntryComplete_keeps (s : State) : ∃ t, execPowerStateEntryComplete s = .next t ∧ Keeps s t := by
  have h := Keeps.refl s
  refine ⟨_, rfl, ?_⟩
  split
  · extract_lets x8 x9 x10 x11 x12 x13 x14 x15 x16 x17
    have h21 : Keeps s x9 := Keeps.foldl h (fun t18 y19 h20 => State.stopPll_keeps h20)
    have h22 : Keeps s x11 := State.setPwr_keeps h21
    have h23 : Keeps s x12 := State.wr_keeps (State.wr_keeps (State.wr_keeps h22))
    have h24 : Keeps s x13 := State.fabStop_keeps (State.pmResult_keeps h23)
    have h28 : Keeps s x14 := Keeps.foldl h24 (fun t25 y26 h27 => State.linkToL1_keeps h27)
    have h32 : Keeps s x15 := Keeps.foldl h28 (fun t29 y30 h31 => State.wr_keeps h31)
    have h33 : Keeps s x16 := Keeps.ite (State.relockFacets_keeps (State.locketsLost_keeps h32)) h32
    have h34 : Keeps s x17 := Keeps.ite (State.deepLost_keeps h33) h33
    exact Keeps.ite h (State.setStale_keeps h34)
  · exact h

theorem State.wakeTimer_keeps {s₀ s : State} {v} (h : Keeps s₀ s) :
    Keeps s₀ (State.wakeTimer v s) := by
  unfold State.wakeTimer
  extract_lets x0 x1
  have h2 : Keeps s₀ x0 := State.wr64_keeps h
  exact State.setPwr_keeps h2

theorem execWakeTimerSet_keeps {rq value} (s : State) : ∃ t, execWakeTimerSet rq value s = .next t ∧ Keeps s t :=
  have h := Keeps.refl s
  ⟨_, rfl, State.access_keeps h (fun t0 h1 => State.wakeTimer_keeps h1)⟩

theorem execWakeTimerMatch_keeps (s : State) : ∃ t, execWakeTimerMatch s = .next t ∧ Keeps s t := by
  have h := Keeps.refl s
  refine ⟨_, rfl, ?_⟩
  extract_lets x0
  exact Keeps.ite (State.fire_keeps (State.setPwr_keeps h)) h

theorem State.linkWakes_keeps {s₀ s : State} {checked l} (h : Keeps s₀ s) :
    Keeps s₀ (State.linkWakes checked l s) := by
  unfold State.linkWakes
  extract_lets x0
  have h1 : Keeps s₀ x0 := State.wr_keeps h
  exact Keeps.ite (Keeps.ite (State.linkFatal_keeps h1) h1) h

theorem State.hbmRestored_keeps {s₀ s : State} (h : Keeps s₀ s) :
    Keeps s₀ (State.hbmRestored s) := by
  unfold State.hbmRestored
  refine Keeps.foldl (State.dpaClear_keeps h) (fun t0 y1 h2 => ?_)
  refine Keeps.ite ?_ h2
  split
  · rename_i z3 z4 z5 z6
    have h7 : Keeps s₀ z5 := Keeps.snd_eq (State.detect_keeps h2) z6
    exact State.wr_keeps (State.faultBlock_keeps h7)

theorem State.zeroBegins_keeps {s₀ s : State} (h : Keeps s₀ s) :
    Keeps s₀ (State.zeroBegins s) := by
  unfold State.zeroBegins
  refine Keeps.foldl h (fun t0 y1 h2 => ?_)
  extract_lets x3
  exact Keeps.ite (State.wr_keeps (State.setPwr_keeps h2)) h2

theorem State.facetWakes_keeps {s₀ s : State} {d f} (h : Keeps s₀ s) :
    Keeps s₀ (State.facetWakes d f s) := by
  unfold State.facetWakes
  exact Keeps.ite h (Keeps.ite (State.setStale_keeps h) (Keeps.ite (State.linkWakes_keeps (State.dpaClear_keeps h)) h))

theorem State.wakeSteps_keeps {s₀ s : State} (h : Keeps s₀ s) :
    Keeps s₀ (State.wakeSteps s) := by
  unfold State.wakeSteps
  split
  · exact h
  · extract_lets x6 x7 x8
    have h12 : Keeps s₀ x7 := Keeps.foldl h (fun t9 y10 h11 => State.facetWakes_keeps h11)
    have h16 : Keeps s₀ x8 := Keeps.ite (Keeps.foldl h12 (fun t13 y14 h15 => State.linkWakes_keeps h15)) h12
    exact Keeps.ite h (Keeps.ite h16 (Keeps.ite (State.dpaClear_keeps h16) (Keeps.ite (State.setStale_keeps h16) (Keeps.ite (State.hbmRestored_keeps h16) h16))))

theorem State.wakeEnds_keeps {s₀ s : State} (h : Keeps s₀ s) :
    Keeps s₀ (State.wakeEnds s) := by
  unfold State.wakeEnds
  extract_lets x0 x1 x2 x3 x4 x5 x6 x7
  have h8 : Keeps s₀ x2 := State.setPwr_keeps h
  have h9 : Keeps s₀ x3 := State.wr_keeps (State.wr_keeps (State.wr_keeps h8))
  have h13 : Keeps s₀ x4 := Keeps.foldl h9 (fun t10 y11 h12 => State.wr_keeps h12)
  have h17 : Keeps s₀ x5 := Keeps.foldl h13 (fun t14 y15 h16 => State.linkWakes_keeps h16)
  have h18 : Keeps s₀ x6 := Keeps.ite (State.zeroBegins_keeps h17) h17
  have h19 : Keeps s₀ x7 := Keeps.ite (State.pmResult_keeps h18) h18
  exact State.readyWaiting_keeps h19

theorem execWakeComplete_keeps {pllFail linkFail stackFail} (s : State) : ∃ t, execWakeComplete pllFail linkFail stackFail s = .next t ∧ Keeps s t := by
  have h := Keeps.refl s
  refine ⟨_, rfl, ?_⟩
  extract_lets x0 x1 x2
  have h3 : Keeps s x1 := State.setPwr_keeps h
  have h7 : Keeps s x2 := Keeps.foldl h3 (fun t4 y5 h6 => State.pmResult_keeps (State.pllFault_keeps h6))
  split
  · exact Keeps.ite h7 (State.wakeEnds_keeps h7)
  · exact h

theorem State.zeroWaits_keeps {s₀ s : State} (h : Keeps s₀ s) :
    Keeps s₀ (State.zeroWaits s) := by
  unfold State.zeroWaits
  extract_lets x0
  exact State.setPwr_keeps h

theorem execHbmBackgroundZero_keeps {stack} (s : State) : ∃ t, execHbmBackgroundZero stack s = .next t ∧ Keeps s t := by
  have h := Keeps.refl s
  refine ⟨_, rfl, ?_⟩
  split
  · exact h
  · extract_lets x5 x6
    have h7 : Keeps s x5 := Keeps.ite h (State.dpaClear_keeps h)
    exact Keeps.ite h (Keeps.ite (State.wr_keeps (State.setPwr_keeps h7)) (State.setPwr_keeps h7))

theorem State.setCapOp_keeps {s₀ s : State} {f op} (h : Keeps s₀ s) :
    Keeps s₀ (State.setCapOp f op s) := by
  unfold State.setCapOp
  extract_lets x0
  exact State.setPwr_keeps h

theorem State.syncOps_keeps {s₀ s : State} (h : Keeps s₀ s) :
    Keeps s₀ (State.syncOps s) := by
  unfold State.syncOps
  extract_lets x0 x1 x2 x3 x4
  have h5 : Keeps s₀ x3 := Keeps.foldl h (fun t6 x7 h8 => State.setOp_keeps h8)
  have h9 : Keeps s₀ x4 := State.wr_keeps h5
  exact Keeps.ite (State.fire_keeps h9) (Keeps.ite (State.fire_keeps h9) h9)

theorem State.railTick_keeps {s₀ s : State} {r} (h : Keeps s₀ s) :
    Keeps s₀ (State.railTick r s) := by
  unfold State.railTick
  refine Keeps.ite h ?_
  split
  · extract_lets x0 x1 x2 x3
    exact State.setPwr_keeps h

theorem State.warn_keeps {s₀ s : State} {i t limit} (h : Keeps s₀ s) :
    Keeps s₀ (State.warn i t limit s) := by
  unfold State.warn
  extract_lets x0
  exact Keeps.ite (Keeps.ite (State.setPwr_keeps h) h) (Keeps.ite (State.fire_keeps (State.setPwr_keeps h)) h)

theorem State.reading_keeps {s₀ s : State} {i v} (h : Keeps s₀ s) :
    Keeps s₀ (State.reading i v s) := by
  unfold State.reading
  exact Keeps.ite h (State.wr_keeps h)

theorem State.limitsFall_keeps {s₀ s : State} (h : Keeps s₀ s) :
    Keeps s₀ (State.limitsFall s) := by
  unfold State.limitsFall
  extract_lets x0
  exact State.setPwr_keeps h

theorem execTelemetrySample_keeps {values} (s : State) : ∃ t, execTelemetrySample values s = .next t ∧ Keeps s t := by
  have h := Keeps.refl s
  refine ⟨_, rfl, ?_⟩
  extract_lets x0 x1 x2 x3 x4 x5 x6 x7 x8
  have h17 : Keeps s x0 := by
    unfold x0
    refine Keeps.foldl h (fun t9 y10 h11 => ?_)
    split
    · exact State.reading_keeps h11
    · exact h11
  have h18 : Keeps s x1 := State.limitsFall_keeps (State.wr_keeps h17)
  have h22 : Keeps s x2 := Keeps.foldl h18 (fun t19 y20 h21 => State.railTick_keeps h21)
  have h23 : Keeps s x3 := State.wr_keeps h22
  have h27 : Keeps s x4 := Keeps.foldl h23 (fun t24 y25 h26 => Keeps.ite h26 (State.warn_keeps h26))
  have h28 : Keeps s x5 := State.warn_keeps h27
  have h29 : Keeps s x8 := State.setPwr_keeps h28
  exact Keeps.ite h22 (Keeps.foldl h29 (fun t30 y31 h32 => Keeps.ite h32 (State.wr_keeps h32)))

theorem State.applyLevels_keeps {s₀ s : State} (h : Keeps s₀ s) :
    Keeps s₀ (State.applyLevels s) := by
  unfold State.applyLevels
  extract_lets x0 x1 x2
  have h3 : Keeps s₀ x2 := State.wr_keeps h
  refine Keeps.foldl h3 (fun t4 x5 h6 => ?_)
  extract_lets x7
  exact Keeps.ite h6 (State.raiseIrq_keeps (State.wr_keeps h6))

theorem State.crownCools_keeps {s₀ s : State} (h : Keeps s₀ s) :
    Keeps s₀ (State.crownCools s) := by
  unfold State.crownCools
  extract_lets x0
  exact Keeps.ite (State.syncOps_keeps (Keeps.foldl (State.setPwr_keeps h) (fun t1 x2 h3 => State.setCapOp_keeps h3))) h

theorem execPowerCapStep_keeps (s : State) : ∃ t, execPowerCapStep s = .next t ∧ Keeps s t := by
  have h := Keeps.refl s
  refine ⟨_, rfl, ?_⟩
  extract_lets x0 x1 x2 x3 x4 x5 x6 x7 x8 x9 x10
  have h11 : Keeps s x1 := State.setPwr_keeps h
  have h12 : Keeps s x5 := State.wr_keeps h11
  have h17 : Keeps s x7 := by
    unfold x7
    refine Keeps.foldl h12 (fun t13 y14 h15 => ?_)
    extract_lets x16
    exact State.setPwr_keeps h15
  have h18 : Keeps s x10 := State.setPwr_keeps h17
  refine Keeps.ite h ?_
  refine Keeps.ite ?_ ?_
  · split
    · exact State.syncOps_keeps (State.setCapOp_keeps h17)
    · exact Keeps.ite (State.fire_keeps (State.setW1c_keeps (State.setPwr_keeps h17))) (State.syncOps_keeps h17)
  · refine Keeps.ite ?_ (State.syncOps_keeps h18)
    split
    · exact State.syncOps_keeps (State.setCapOp_keeps h18)
    · exact State.syncOps_keeps h18

theorem execFacetThermalLimit_keeps {f} (s : State) : ∃ t, execFacetThermalLimit f s = .next t ∧ Keeps s t := by
  have h := Keeps.refl s
  refine ⟨_, rfl, ?_⟩
  extract_lets x0 x1 x2 x3
  have h4 : Keeps s x1 := State.setPwr_keeps h
  have h5 : Keeps s x2 := State.setW1c_keeps h4
  refine Keeps.ite ?_ h
  split
  · rename_i z6 z7 z8 z9
    have h10 := Keeps.snd_eq (State.detect_keeps h5) z9
    extract_lets x11
    have h12 : Keeps s x11 := State.fence_keeps h10
    exact State.bootError_keeps (State.syncOps_keeps h12)

theorem execCrownThermalLimit_keeps {sensor} (s : State) : ∃ t, execCrownThermalLimit sensor s = .next t ∧ Keeps s t := by
  have h := Keeps.refl s
  refine ⟨_, rfl, ?_⟩
  extract_lets x0 x1
  have h2 : Keeps s x1 := State.setW1c_keeps (State.setPwr_keeps h)
  refine Keeps.ite ?_ h
  split
  · rename_i z3 z4 z5 z6
    have h7 := Keeps.snd_eq (State.detect_keeps h2) z6
    exact State.bootError_keeps (State.syncOps_keeps (State.endAll_keeps h7))

theorem execHbmThermalLimit_keeps {stack} (s : State) : ∃ t, execHbmThermalLimit stack s = .next t ∧ Keeps s t := by
  have h := Keeps.refl s
  refine ⟨_, rfl, ?_⟩
  extract_lets x0
  exact Keeps.ite (Keeps.ite (Keeps.ite (State.wr_keeps (State.clearBits_keeps h)) h) (Keeps.ite (State.fire_keeps (State.wr_keeps (State.orBits_keeps h))) h)) h

theorem execSupplyOutOfRange_keeps {rail} (s : State) : ∃ t, execSupplyOutOfRange rail s = .next t ∧ Keeps s t := by
  have h := Keeps.refl s
  refine ⟨_, rfl, ?_⟩
  split
  · extract_lets x0 x1
    have h2 : Keeps s x1 := State.setPwr_keeps h
    refine Keeps.ite ?_ h
    split
    · rename_i z3 z4 z5 z6
      have h7 := Keeps.snd_eq (State.detect_keeps h2) z6
      exact State.bootError_keeps (State.endAll_keeps h7)
  · exact h

end Sys2Proof.Machine
end

