-- ==== Sys2Proof/Laws/KeepsBoot.lean ====
section
/-! SUPPORT. Every operation of `Machine/Boot` keeps the part, the tick, the queue and the canonical forms (`Keeps`), and every command
there answers a next state. -/

namespace Sys2Proof.Machine

theorem State.refreshReports_keeps {s₀ s : State} (h : Keeps s₀ s) :
    Keeps s₀ (State.refreshReports s) := by
  unfold State.refreshReports
  extract_lets x0
  have h1 : Keeps s₀ x0 := by
    unfold x0
    split
    · exact State.showReport_keeps h
    · exact h
  refine Keeps.ite ?_ h1
  split
  · exact State.showReport_keeps h1
  · exact h1

theorem State.renumberCause_keeps {s₀ s : State} {l} (h : Keeps s₀ s) :
    Keeps s₀ (State.renumberCause l s) := by
  unfold State.renumberCause
  split
  · exact State.wr_keeps h
  · exact h

theorem State.renumberFirst_keeps {s₀ s : State} {l} (h : Keeps s₀ s) :
    Keeps s₀ (State.renumberFirst l s) := by
  unfold State.renumberFirst
  split
  · exact h
  · extract_lets x4
    exact Keeps.ite (State.showReport_keeps h) h

theorem State.numberReports_keeps {s₀ s : State} (h : Keeps s₀ s) :
    Keeps s₀ (State.numberReports s) := by
  unfold State.numberReports
  extract_lets x0 x1 x2 x3
  have h4 : Keeps s₀ x2 := State.setFlt_keeps h
  have h9 : Keeps s₀ x3 := by
    unfold x3
    refine Keeps.foldl h4 (fun t5 y6 h7 => ?_)
    extract_lets x8
    exact State.setBlk_keeps h7
  exact Keeps.ite h (State.refreshReports_keeps (State.renumberFirst_keeps (State.renumberCause_keeps h9)))

theorem State.wiped_keeps {s₀ s : State} {keep} (h : Keeps s₀ s) :
    Keeps s₀ (State.wiped keep s) := by
  unfold State.wiped
  refine State.wr_keeps (Keeps.filtered h _ (fun _ => false) rfl rfl rfl rfl rfl ?_)
  simp [State.reset]

theorem State.deviceReset_keeps {s₀ s : State} {c} (h : Keeps s₀ s) :
    Keeps s₀ (State.deviceReset c s) := by
  unfold State.deviceReset
  extract_lets x0 x1 x2 x3 x4 x5 x6 x7 x8 x9 x10 x11 x12 x13
  have h14 : Keeps s₀ x0 := State.refreshReports_keeps h
  have h15 : Keeps s₀ x6 := State.wiped_keeps h14
  have h16 : Keeps s₀ x8 := State.setPwr_keeps h15
  have h17 : Keeps s₀ x10 := State.setBoot_keeps h16
  have h18 : Keeps s₀ x11 := State.wr_keeps (State.wr_keeps (State.wr_keeps h17))
  have h19 : Keeps s₀ x12 := State.wr64_keeps h18
  have h20 : Keeps s₀ x13 := Keeps.ite (State.setW1c_keeps h19) h19
  exact State.wr_keeps (State.showReport_keeps h20)

theorem State.acceptReset_keeps {s₀ s : State} {c} (h : Keeps s₀ s) :
    Keeps s₀ (State.acceptReset c s) := by
  unfold State.acceptReset
  extract_lets x0 x1 x2 x3
  have h4 : Keeps s₀ x1 := State.wr_keeps h
  have h5 : Keeps s₀ x2 := Keeps.ite (State.wr_keeps h4) h4
  exact Keeps.ite h (Keeps.ite (Keeps.ite (Keeps.ite (State.setBoot_keeps h5) h5) h) (State.deviceReset_keeps h))

theorem State.perstFalls_keeps {s₀ s : State} {low} (h : Keeps s₀ s) :
    Keeps s₀ (State.perstFalls low s) := by
  unfold State.perstFalls
  extract_lets x0
  exact State.setBoot_keeps h

theorem execDeviceReset_keeps {c} (s : State) : ∃ t, execDeviceReset c s = .next t ∧ Keeps s t := by
  have h := Keeps.refl s
  refine ⟨_, rfl, ?_⟩
  split
  · exact State.acceptReset_keeps h
  · exact Keeps.ite (State.acceptReset_keeps (State.perstFalls_keeps h)) h
  · exact Keeps.ite (State.acceptReset_keeps h) h
  · split
    · exact Keeps.ite (State.acceptReset_keeps h) h
    · exact h

/-- The always-on power-on reset sets the tick to 0 and keeps the part, the queue and the canonical forms. -/
theorem execAlwaysOnPowerOnReset_next (s : State) : ∃ t, execAlwaysOnPowerOnReset s = .next t ∧ t.part = s.part
    ∧ t.pending = s.pending ∧ t.tick = 0 ∧ (Memory.wf s.mem = true → Memory.wf t.mem = true) ∧ t.regsWf = true := by
  refine ⟨_, rfl, ?_⟩
  extract_lets x0 x1 _ _ _ _ x2
  have k := State.wr_keeps (f := BZ_AON.AON_STAT_REF_PRESENT) (v := x1)
    (State.wr_keeps (f := DEV.SEC_VER_FUSE) (v := x0) (Keeps.refl x2))
  refine ⟨k.part, k.pending, k.tick, fun g => k.mem (Memory.wf_dpa g (fun _ => mapWf_nil _)), k.regs ?_⟩
  simp only [State.regsWf, x2, State.reset, Bool.and_eq_true]
  refine ⟨?_, mapWf_nil _⟩
  cases s.part <;> decide

theorem State.configReset_keeps {s₀ s : State} (h : Keeps s₀ s) : Keeps s₀ (State.configReset s) := by
  unfold State.configReset
  exact State.wr_keeps (State.wr_keeps (Keeps.same h rfl rfl rfl rfl rfl rfl))

theorem State.perstStays_keeps {s₀ s : State} (h : Keeps s₀ s) :
    Keeps s₀ (State.perstStays s) := by
  unfold State.perstStays
  extract_lets x0 x1 x2 x3
  have h4 : Keeps s₀ x2 := State.setBoot_keeps h
  exact Keeps.ite (State.setBoot_keeps h4) h4

theorem execPerstNFall_keeps (s : State) : ∃ t, execPerstNFall s = .next t ∧ Keeps s t := by
  have h := Keeps.refl s
  refine ⟨_, rfl, ?_⟩
  extract_lets x0 x1 x2
  have h3 : Keeps s x0 := State.perstFalls_keeps h
  have h4 : Keeps s x2 := State.setBoot_keeps h3
  exact Keeps.ite (State.perstStays_keeps h) (Keeps.ite (State.acceptReset_keeps h3) (State.configReset_keeps (State.wr_keeps (State.wr_keeps (State.wr_keeps h4)))))

theorem State.trip_keeps {s₀ s : State} (h : Keeps s₀ s) :
    Keeps s₀ (State.trip s) := by
  unfold State.trip
  extract_lets x0 x1 x2 x3 x4 x5 x6 x7 x8
  have h9 : Keeps s₀ x0 := State.finishAll_keeps (State.setW1c_keeps h)
  have h10 : Keeps s₀ x6 := State.wiped_keeps h9
  have h11 : Keeps s₀ x7 := State.wr_keeps (State.setPwr_keeps
    (Keeps.withBlocks h10 h9 (fun e => alwaysOn e.1) rfl rfl rfl rfl rfl rfl))
  have h12 : Keeps s₀ x8 := State.wr_keeps (State.wr_keeps (State.wr_keeps h11))
  exact State.setStale_keeps h12

theorem execThermtrip_keeps (s : State) : ∃ t, execThermtrip s = .next t ∧ Keeps s t := by
  have h := Keeps.refl s
  refine ⟨_, rfl, ?_⟩
  extract_lets x0
  exact Keeps.ite h (Keeps.ite (State.trip_keeps h) (State.setPwr_keeps h))

theorem execHifLinkTraining_keeps {speed lanes flit} (s : State) : ∃ t, execHifLinkTraining speed lanes flit s = .next t ∧ Keeps s t := by
  have h := Keeps.refl s
  refine ⟨_, rfl, ?_⟩
  extract_lets x0 x1 x2
  exact Keeps.ite (State.wr_keeps (State.wr_keeps (State.wr_keeps (State.setBoot_keeps h)))) h

theorem State.configWrite_keeps {s₀ s : State} {c} (h : Keeps s₀ s) : Keeps s₀ (State.configWrite c s) := by
  unfold State.configWrite
  split
  · exact Keeps.ite (State.wr_keeps (Keeps.same h rfl rfl rfl rfl rfl rfl)) h
  · exact Keeps.ite (State.wr_keeps h) h
  · exact h
  · exact h

theorem execConfigurationRequest_keeps {a0 a1} (s : State) :
    ∃ t, execConfigurationRequest a0 a1 s = .next t ∧ Keeps s t :=
  have h := Keeps.refl s
  ⟨_, rfl, Keeps.ite h (Keeps.ite (State.emit_keeps (Keeps.ite (State.configWrite_keeps h) h)) (State.emit_keeps h))⟩

theorem State.toStage_keeps {s₀ s : State} {n} (h : Keeps s₀ s) :
    Keeps s₀ (State.toStage n s) := by
  unfold State.toStage
  extract_lets x0
  exact State.setBoot_keeps (State.wr_keeps h)

theorem State.beginBoot_keeps {s₀ s : State} (h : Keeps s₀ s) :
    Keeps s₀ (State.beginBoot s) := by
  unfold State.beginBoot
  extract_lets x0 x1 x2
  have h3 : Keeps s₀ x0 := State.wr_keeps (State.wr_keeps (State.wr_keeps (State.wr_keeps h)))
  have h4 : Keeps s₀ x2 := State.setBoot_keeps h3
  exact Keeps.ite (State.toStage_keeps h4) h

theorem execBootClocks_keeps (s : State) : ∃ t, execBootClocks s = .next t ∧ Keeps s t := by
  have h := Keeps.refl s
  refine ⟨_, rfl, ?_⟩
  extract_lets x0 x1
  have h2 : Keeps s x0 := State.beginBoot_keeps h
  have h3 : Keeps s x1 := State.startPlls_keeps h2
  exact Keeps.ite (Keeps.ite (State.toStage_keeps h3) h3) h2

theorem execRefAbsentTimeout_keeps (s : State) : ∃ t, execRefAbsentTimeout s = .next t ∧ Keeps s t := by
  have h := Keeps.refl s
  refine ⟨_, rfl, ?_⟩
  extract_lets x0
  have h1 : Keeps s x0 := State.beginBoot_keeps h
  exact Keeps.ite (State.bootError_keeps h1) h1

theorem execStoreInit_keeps (s : State) : ∃ t, execStoreInit s = .next t ∧ Keeps s t :=
  have h := Keeps.refl s
  ⟨_, rfl, Keeps.ite (State.toStage_keeps (State.dpaClear_keeps h)) h⟩

theorem State.slotFailed_keeps {s₀ s : State} {code} (h : Keeps s₀ s) :
    Keeps s₀ (State.slotFailed code s) := by
  unfold State.slotFailed
  extract_lets x0 x1 x2 x3 x4
  have h5 : Keeps s₀ x1 := State.dpaClear_keeps h
  have h6 : Keeps s₀ x3 := Keeps.ite (State.wr_keeps h5) (State.setBoot_keeps h5)
  exact Keeps.ite (State.toStage_keeps (State.setBoot_keeps h6)) (State.bootError_keeps h6)

theorem execFwLoad_keeps (s : State) : ∃ t, execFwLoad s = .next t ∧ Keeps s t := by
  have h := Keeps.refl s
  refine ⟨_, rfl, ?_⟩
  extract_lets x0 x1 x2 x3 x4
  have h5 : Keeps s x3 := State.dpaWrite_keeps h
  exact Keeps.ite (Keeps.ite (State.slotFailed_keeps h) (State.toStage_keeps (State.setBoot_keeps h5))) h

theorem execFwVerify_keeps (s : State) : ∃ t, execFwVerify s = .next t ∧ Keeps s t := by
  have h := Keeps.refl s
  refine ⟨_, rfl, ?_⟩
  extract_lets x0 x1 x2 x3 x4 x5
  have h6 : Keeps s x3 := State.wr_keeps (State.wr_keeps h)
  have h7 : Keeps s x5 := State.setBoot_keeps (State.dpaClear_keeps h6)
  exact Keeps.ite (Keeps.ite (State.slotFailed_keeps h) (State.toStage_keeps h7)) h

theorem State.trained_keeps {s₀ s : State} {l} (h : Keeps s₀ s) :
    Keeps s₀ (State.trained l s) := by
  unfold State.trained
  extract_lets x0 x1
  have h2 : Keeps s₀ x0 := State.wr_keeps (State.wr_keeps h)
  exact State.setBoot_keeps h2

theorem State.linkFails_keeps {s₀ s : State} {l failCause} (h : Keeps s₀ s) :
    Keeps s₀ (State.linkFails l failCause s) := by
  unfold State.linkFails
  exact State.raiseIrq_keeps (State.wr64_keeps (State.wr_keeps (State.wr_keeps h)))

theorem State.positionEnds_keeps {s₀ s : State} (h : Keeps s₀ s) :
    Keeps s₀ (State.positionEnds s) := by
  unfold State.positionEnds
  extract_lets x0 x1
  have h2 : Keeps s₀ x1 := State.setBoot_keeps h
  exact Keeps.ite (State.toStage_keeps h2) (Keeps.ite h2 (State.wr_keeps h2))

theorem execFacets_keeps {f r} (s : State) : ∃ t, execFacets f r s = .next t ∧ Keeps s t := by
  have h := Keeps.refl s
  refine ⟨_, rfl, ?_⟩
  extract_lets x0 x1 x2 x3
  have h4 : Keeps s x0 := State.startPlls_keeps h
  have h5 : Keeps s x1 := State.lockPll_keeps h4
  have h6 : Keeps s x2 := State.dpaClear_keeps (State.trained_keeps h5)
  refine Keeps.ite ?_ h
  refine Keeps.ite (Keeps.ite (State.positionEnds_keeps h) h) ?_
  split
  · exact State.positionEnds_keeps (State.setBoot_keeps h6)
  · exact State.bootError_keeps (State.linkFails_keeps h5)
  · exact State.bootError_keeps (State.linkFails_keeps (State.trained_keeps h5))
  · exact State.bootError_keeps h
  · exact State.bootError_keeps h6
  · exact State.bootError_keeps h4
  · exact State.bootError_keeps h

theorem execSideLinks_keeps {fails r} (s : State) : ∃ t, execSideLinks fails r s = .next t ∧ Keeps s t := by
  have h := Keeps.refl s
  refine ⟨_, rfl, ?_⟩
  extract_lets x0 x1 x2
  have h8 : Keeps s x2 := by
    unfold x2
    refine Keeps.foldl h (fun t3 y4 h5 => ?_)
    extract_lets x6
    have h7 : Keeps s x6 := Keeps.ite (State.trained_keeps h5) h5
    exact Keeps.ite (State.linkFails_keeps h7) h7
  refine Keeps.ite ?_ h
  split
  · exact State.bootError_keeps h8
  · exact State.toStage_keeps h8

theorem execHbmTrain_keeps {stack r} (s : State) : ∃ t, execHbmTrain stack r s = .next t ∧ Keeps s t := by
  have h := Keeps.refl s
  refine ⟨_, rfl, ?_⟩
  refine Keeps.ite ?_ h
  split
  · extract_lets x0 x1 x2
    have h3 : Keeps s x1 := State.setBoot_keeps h
    have h4 : Keeps s x2 := State.wr_keeps h3
    exact Keeps.ite (State.dpaClear_keeps h4) h4
  · exact State.bootError_keeps h

theorem State.stampBlocks_keeps {s₀ s : State} (h : Keeps s₀ s) :
    Keeps s₀ (State.stampBlocks s) := by
  unfold State.stampBlocks
  refine Keeps.foldl h (fun t0 x1 h2 => ?_)
  split
  · exact h2
  · exact h2
  · extract_lets x3
    exact State.setBlk_keeps h2

theorem execHostReady_keeps (s : State) : ∃ t, execHostReady s = .next t ∧ Keeps s t := by
  have h := Keeps.refl s
  refine ⟨_, rfl, ?_⟩
  extract_lets x0 x1 x2 x3 x4 x5 x6
  have h7 : Keeps s x0 := State.toStage_keeps h
  have h8 : Keeps s x1 := State.releaseBlocks_keeps h7
  have h9 : Keeps s x2 := Keeps.foldl (State.stampBlocks_keeps h8) (fun t10 x11 h12 => State.wr_keeps h12)
  have h13 : Keeps s x4 := Keeps.ite (State.wr_keeps h9) h9
  have h14 : Keeps s x6 := State.setPwr_keeps h13
  exact Keeps.ite (State.wr_keeps (State.wr_keeps h14)) h

theorem execStageTimeout_keeps (s : State) : ∃ t, execStageTimeout s = .next t ∧ Keeps s t := by
  have h := Keeps.refl s
  refine ⟨_, rfl, ?_⟩
  extract_lets x0 x1 x2
  exact Keeps.ite (State.positionEnds_keeps h) (Keeps.ite (State.bootError_keeps h) h)

theorem execWatchdogExpiry_keeps (s : State) : ∃ t, execWatchdogExpiry s = .next t ∧ Keeps s t := by
  have h := Keeps.refl s
  refine ⟨_, rfl, ?_⟩
  extract_lets x0 x1
  have h2 : Keeps s x1 := State.setBoot_keeps h
  refine Keeps.ite h ?_
  refine Keeps.ite (State.acceptReset_keeps (Keeps.ite (State.fire_keeps h) h)) ?_
  split
  · rename_i z3 z4 z5 z6
    have h7 := Keeps.snd_eq (State.detect_keeps h2) z6
    exact State.endAll_keeps h7

theorem execWatchdogRestart_keeps (s : State) : ∃ t, execWatchdogRestart s = .next t ∧ Keeps s t := by
  have h := Keeps.refl s
  refine ⟨_, rfl, ?_⟩
  extract_lets x0
  exact State.setBoot_keeps h

end Sys2Proof.Machine
end

