-- ==== Sys2Proof/Laws/KeepsFaults.lean ====
section
/-! SUPPORT. Every operation of `Machine/Faults` keeps the part, the tick, the queue and the canonical forms (`Keeps`), and every command
there answers a next state. -/

namespace Sys2Proof.Machine

theorem State.logReport_keeps {s₀ s : State} {r} (h : Keeps s₀ s) :
    Keeps s₀ (State.logReport r s) := by
  unfold State.logReport
  extract_lets x0
  exact Keeps.ite (State.inc_keeps h) (Keeps.ite (State.raiseIrq_keeps (State.inc_keeps h)) (State.wr_keeps (State.storeFrom_keeps h)))

theorem State.showClosed_keeps {s₀ s : State} {r} (h : Keeps s₀ s) :
    Keeps s₀ (State.showClosed r s) := by
  unfold State.showClosed
  extract_lets x0
  have h1 : Keeps s₀ x0 := Keeps.ite (State.showReport_keeps h) h
  exact Keeps.ite (State.showReport_keeps h1) h1

theorem execFaultReportClose_keeps {seq} (s : State) : ∃ t, execFaultReportClose seq s = .next t ∧ Keeps s t := by
  have h := Keeps.refl s
  refine ⟨_, rfl, ?_⟩
  split
  · exact h
  · extract_lets x0 x1
    have h2 : Keeps s x1 := Keeps.same h rfl rfl rfl rfl rfl rfl
    exact Keeps.ite h (State.logReport_keeps (State.showClosed_keeps h2))

theorem State.drainFlag_keeps {s₀ s : State} {q} (h : Keeps s₀ s) :
    Keeps s₀ (State.drainFlag q s) := by
  unfold State.drainFlag
  exact Keeps.ite (State.modReport_keeps h) (Keeps.foldl h (fun t0 x1 h2 => Keeps.ite (State.orBits_keeps h2) h2))

theorem execDrainLimitExpiry_keeps {page} (s : State) : ∃ t, execDrainLimitExpiry page s = .next t ∧ Keeps s t := by
  have h := Keeps.refl s
  refine ⟨_, rfl, ?_⟩
  extract_lets x0 x1
  have h2 : Keeps s x1 := by
    unfold x1
    split
    · exact State.drainFlag_keeps h
    · exact h
  exact Keeps.ite (State.faultBlock_keeps h2) h

theorem State.setSentinel_keeps {s₀ s : State} {v} (h : Keeps s₀ s) :
    Keeps s₀ (State.setSentinel v s) := by
  unfold State.setSentinel
  extract_lets x0
  have h1 : Keeps s₀ x0 := State.wr_keeps h
  exact Keeps.foldl h1 (fun t2 x3 h4 => Keeps.ite h4 (State.syncVc_keeps h4))

theorem execSentinelWrite_keeps {rq value} (s : State) : ∃ t, execSentinelWrite rq value s = .next t ∧ Keeps s t :=
  have h := Keeps.refl s
  ⟨_, rfl, State.access_keeps h (fun t0 h1 => State.setSentinel_keeps h1)⟩

theorem State.flogEnable_keeps {s₀ s : State} (h : Keeps s₀ s) :
    Keeps s₀ (State.flogEnable s) := by
  unfold State.flogEnable
  extract_lets x0
  have h1 : Keeps s₀ x0 := State.wr_keeps h
  exact Keeps.ite h1 (State.setW1c_keeps h1)

theorem execFlogEnable_keeps {rq} (s : State) : ∃ t, execFlogEnable rq s = .next t ∧ Keeps s t :=
  have h := Keeps.refl s
  ⟨_, rfl, State.access_keeps h (fun t0 h1 => State.flogEnable_keeps h1)⟩

theorem State.firstClr_keeps {s₀ s : State} (h : Keeps s₀ s) :
    Keeps s₀ (State.firstClr s) := by
  unfold State.firstClr
  split
  · extract_lets x0
    exact State.showReport_keeps (Keeps.same h rfl rfl rfl rfl rfl rfl)
  · extract_lets x1
    exact Keeps.same h rfl rfl rfl rfl rfl rfl

theorem execFirstClr_keeps {rq} (s : State) : ∃ t, execFirstClr rq s = .next t ∧ Keeps s t :=
  have h := Keeps.refl s
  ⟨_, rfl, State.access_keeps h (fun t0 h1 => State.firstClr_keeps h1)⟩

theorem State.faultNClr_keeps {s₀ s : State} (h : Keeps s₀ s) :
    Keeps s₀ (State.faultNClr s) := by
  unfold State.faultNClr
  extract_lets x0
  exact State.syncPin_keeps (Keeps.same h rfl rfl rfl rfl rfl rfl)

theorem execFaultNClr_keeps {rq} (s : State) : ∃ t, execFaultNClr rq s = .next t ∧ Keeps s t :=
  have h := Keeps.refl s
  ⟨_, rfl, State.access_keeps h (fun t0 h1 => State.faultNClr_keeps h1)⟩

theorem State.injReport_keeps {s₀ s : State} (h : Keeps s₀ s) :
    Keeps s₀ (State.injReport s) := by
  unfold State.injReport
  refine Keeps.ite h ?_
  split
  · rename_i z0 z1 z2 z3 z4
    have h5 := Keeps.snd_eq (State.recordWords_keeps h) z4
    exact State.openReport_keeps h5

theorem execInjReport_keeps {rq} (s : State) : ∃ t, execInjReport rq s = .next t ∧ Keeps s t :=
  have h := Keeps.refl s
  ⟨_, rfl, State.access_keeps h (fun t0 h1 => State.expert_keeps h1 (fun t2 h3 => State.injReport_keeps h3))⟩

theorem State.resetCmd_keeps {s₀ s : State} {key} (h : Keeps s₀ s) :
    Keeps s₀ (State.resetCmd key s) := by
  unfold State.resetCmd
  extract_lets x0
  exact Keeps.ite (State.setBoot_keeps h) h

theorem execResetCmd_keeps {rq key} (s : State) : ∃ t, execResetCmd rq key s = .next t ∧ Keeps s t :=
  have h := Keeps.refl s
  ⟨_, rfl, State.access_keeps h (fun t0 h1 => State.expert_keeps h1 (fun t2 h3 => State.resetCmd_keeps h3))⟩

theorem State.contextWord_keeps {s₀ s : State} {page ctx} (h : Keeps s₀ s) :
    Keeps s₀ (State.contextWord page ctx s) := by
  unfold State.contextWord
  refine Keeps.ite ?_ h
  split
  · exact h
  · exact State.dropPeerQs_keeps (State.detectAll_keeps h)

theorem State.ownWord_keeps {s₀ s : State} {page} (h : Keeps s₀ s) :
    Keeps s₀ (State.ownWord page s) := by
  unfold State.ownWord
  extract_lets x0
  refine Keeps.ite (State.contextWord_keeps h) ?_
  refine Keeps.ite ?_ ?_
  · split
    · rename_i z1 z2 z3 z4
      have h5 : Keeps s₀ z3 := Keeps.snd_eq (State.detect_keeps h) z4
      exact State.endAll_keeps h5
  · refine Keeps.ite (State.detect_keeps h) ?_
    refine Keeps.ite h ?_
    split
    · rename_i z6 z7 z8 z9
      have h10 : Keeps s₀ z8 := Keeps.snd_eq (State.detect_keeps h) z9
      extract_lets x11
      have h12 : Keeps s₀ x11 := State.faultBlock_keeps h10
      exact Keeps.ite (State.hmToKeeper_keeps h12) h12

theorem execLockstepMismatch_keeps {timingCore pair} (s : State) : ∃ t, execLockstepMismatch timingCore pair s = .next t ∧ Keeps s t := by
  have h := Keeps.refl s
  refine ⟨_, rfl, ?_⟩
  refine Keeps.ite h ?_
  split
  · refine Keeps.ite ?_ h
    split
    · rename_i z1 z2 z3 z4
      have h5 : Keeps s z3 := Keeps.snd_eq (State.detect_keeps h) z4
      exact State.hmToKeeper_keeps (State.faultBlock_keeps h5)
  · refine Keeps.ite h ?_
    split
    · rename_i z7 z8 z9 z10
      have h11 : Keeps s z9 := Keeps.snd_eq (State.detect_keeps h) z10
      exact State.endAll_keeps h11
  · exact Keeps.ite h (State.ownWord_keeps h)

theorem State.yieldNow_keeps {s₀ s : State} {rid r p ovl} (h : Keeps s₀ s) :
    Keeps s₀ (State.yieldNow rid r p ovl s) := by
  unfold State.yieldNow
  extract_lets x0 x1 x2 x3 x4 x5 x6 x7
  have h8 : Keeps s₀ x1 := State.guestCancel_keeps h
  have h9 : Keeps s₀ x2 := State.modReq_keeps h8
  have h10 : Keeps s₀ x3 := State.turnPorts_keeps h9
  have h11 : Keeps s₀ x4 := Keeps.ite (State.writeRecord_keeps h10) (State.inc_keeps h10)
  have h12 : Keeps s₀ x5 := State.inc_keeps h11
  have h13 : Keeps s₀ x7 := Keeps.ite (State.wr_keeps h12) h12
  exact Keeps.foldl (State.stopScans_keeps h13) (fun t14 y15 h16 => State.settle_keeps h16)

theorem execPreemptionYield_keeps {rid} (s : State) : ∃ t, execPreemptionYield rid s = .next t ∧ Keeps s t := by
  have h := Keeps.refl s
  refine ⟨_, rfl, ?_⟩
  split
  · exact h
  · split
    · exact Keeps.ite (State.yieldNow_keeps h) h
    · exact h

theorem State.workEnds_keeps {s₀ s : State} {rid} (h : Keeps s₀ s) :
    Keeps s₀ (State.workEnds rid s) := by
  unfold State.workEnds
  split
  · exact h
  · exact Keeps.ite (State.endReq_keeps h) h

theorem execRequestEnd_keeps {rid} (s : State) : ∃ t, execRequestEnd rid s = .next t ∧ Keeps s t := 
  have h := Keeps.refl s
  ⟨_, rfl, State.finish_keeps (State.workEnds_keeps (State.checkFailed_keeps h))⟩

end Sys2Proof.Machine
end

