-- ==== Sys2Proof/Laws/KeepsRegisters.lean ====
section
/-! SUPPORT. Every operation of `Machine/Registers` keeps the part, the tick, the queue and the canonical forms (`Keeps`), and every command
there answers a next state. -/

namespace Sys2Proof.Machine

theorem State.dpState_keeps {s₀ s : State} {page} (h : Keeps s₀ s) :
    Keeps s₀ (State.dpState page s).2 := by
  unfold State.dpState
  split
  · split
    · rename_i z0 z1 z2 z3
      have h4 := Keeps.snd_eq (State.freeBits_keeps h) z3
      exact h4
  · exact h

theorem State.aonStat_keeps {s₀ s : State} (h : Keeps s₀ s) :
    Keeps s₀ (State.aonStat s).2 := by
  unfold State.aonStat
  extract_lets x0
  refine Keeps.ite_at (fun (p : Nat × State) => p.2) ?_ ?_
  · exact h
  · split
    · rename_i z1 z2 z3 z4
      have h5 : Keeps s₀ z3 := Keeps.snd_eq (State.freeBits_keeps h) z4
      exact h5

theorem State.live_keeps {s₀ s : State} {rq page off} (h : Keeps s₀ s) :
    Keeps s₀ (State.live rq page off s).2 := by
  unfold State.live
  extract_lets x0 x1
  refine Keeps.ite_at (fun (p : Nat × State) => p.2) ?_ ?_
  · exact State.aonStat_keeps h
  · refine Keeps.ite_at (fun (p : Nat × State) => p.2) ?_ ?_
    · exact State.dpState_keeps h
    · refine Keeps.ite_at (fun (p : Nat × State) => p.2) ?_ ?_
      · exact h
      · refine Keeps.ite_at (fun (p : Nat × State) => p.2) ?_ ?_
        · split
          · rename_i z2 z3 z4 z5
            have h6 : Keeps s₀ z4 := Keeps.snd_eq (State.freeBits_keeps h) z5
            exact h6
        · refine Keeps.ite_at (fun (p : Nat × State) => p.2) ?_ ?_
          · exact State.hmSnap_keeps h
          · refine Keeps.ite_at (fun (p : Nat × State) => p.2) ?_ ?_
            · exact h
            · refine Keeps.ite_at (fun (p : Nat × State) => p.2) ?_ ?_
              · refine Keeps.ite_at (fun (p : Nat × State) => p.2) ?_ ?_
                · exact State.stampSnap_keeps h
                · refine Keeps.ite_at (fun (p : Nat × State) => p.2) ?_ ?_
                  · exact h
                  · exact h
              · split
                · exact h
                · exact h

theorem State.clearRc_keeps {s₀ s : State} {page off} (h : Keeps s₀ s) :
    Keeps s₀ (State.clearRc page off s) := by
  unfold State.clearRc
  extract_lets x0
  exact Keeps.ite h (State.setWord_keeps h)

theorem State.readErrRec_keeps {s₀ s : State} {rq page off} (h : Keeps s₀ s) :
    Keeps s₀ (State.readErrRec rq page off s).2 := by
  unfold State.readErrRec
  extract_lets x0
  split
  · exact Keeps.same h rfl rfl rfl rfl rfl rfl
  · exact h

theorem State.readFull_keeps {s₀ s : State} {rq page off} (h : Keeps s₀ s) :
    Keeps s₀ (State.readFull rq page off s).2 := by
  unfold State.readFull
  extract_lets x0
  have h1 : Keeps s₀ x0 := Keeps.ite (State.refreshReports_keeps h) h
  split
  · exact h
  · split
    · exact State.readErrRec_keeps h1
    · split
      · exact h1
      · split
        · rename_i z2 z3 z4 z5
          have h6 := Keeps.snd_eq (State.live_keeps h1) z5
          split
          · rename_i z7 z8 z9 z10
            have h11 := Keeps.snd_eq (State.live_keeps h6) z10
            extract_lets x12
            dsimp only
            exact Keeps.same h11 rfl rfl rfl rfl rfl rfl
      · split
        · rename_i z13 z14 z15 z16
          have h17 := Keeps.snd_eq (State.live_keeps h1) z16
          dsimp only
          exact State.clearRc_keeps h17

theorem State.readWord_keeps {s₀ s : State} {rq addr} (h : Keeps s₀ s) :
    Keeps s₀ (State.readWord rq addr s).2 := by
  unfold State.readWord
  split
  · exact h
  · split
    · exact State.readFull_keeps h
    · exact State.readFull_keeps h
    · exact h
    · exact h

theorem State.regRead_keeps {s₀ s : State} {rq addr n} (h : Keeps s₀ s) :
    Keeps s₀ (State.regRead rq addr n s).2 := by
  unfold State.regRead
  refine Keeps.foldl_snd h (fun x0 x1 h2 => ?_)
  split
  · rename_i z3 z4 z5 z6
    have h7 := Keeps.snd_eq (State.readWord_keeps h2) z6
    exact h7

theorem State.regReadOut_keeps {s₀ s : State} {rq addr n} (h : Keeps s₀ s) :
    Keeps s₀ (State.regReadOut rq addr n s) := by
  unfold State.regReadOut
  split
  · rename_i z0 z1 z2 z3
    have h4 := Keeps.snd_eq (State.regRead_keeps h) z3
    exact State.emit_keeps h4

theorem State.writeFields_keeps {s₀ s : State} {page off v} (h : Keeps s₀ s) :
    Keeps s₀ (State.writeFields page off v s) := by
  unfold State.writeFields
  extract_lets x0 x1
  split
  · exact h
  · exact State.setWord_keeps h

theorem State.pmReq_keeps {s₀ s : State} {v} (h : Keeps s₀ s) :
    Keeps s₀ (State.pmReq v s) := by
  unfold State.pmReq
  extract_lets x0
  exact Keeps.ite (State.pmAwake_keeps h) (Keeps.ite (State.pmInvalid_keeps h) (State.pmSleep_keeps h))

theorem State.strCfg_keeps {s₀ s : State} {n k v} (h : Keeps s₀ s) :
    Keeps s₀ (State.strCfg n k v s) := by
  unfold State.strCfg
  extract_lets x0 x1 x2
  have h3 : Keeps s₀ x1 := Keeps.ite (State.disableStream_keeps h) h
  have h4 : Keeps s₀ x2 := State.writeFields_keeps h
  exact Keeps.ite (Keeps.ite (State.reject_keeps h3) h3) (Keeps.ite (State.enableStream_keeps h4) h4)

theorem State.writeBz_keeps {s₀ s : State} {page off v} (h : Keeps s₀ s) :
    Keeps s₀ (State.writeBz page off v s) := by
  unfold State.writeBz
  extract_lets x0
  have h1 : Keeps s₀ x0 := State.writeFields_keeps h
  exact Keeps.ite (Keeps.ite (State.disciplineEn_keeps h) h1) (Keeps.ite (Keeps.ite (State.pmReq_keeps h) (Keeps.ite (State.syncOps_keeps h1) h1)) (Keeps.ite (Keeps.ite (State.setSentinel_keeps h) (Keeps.ite (Keeps.ite (State.flogEnable_keeps h1) h1) (Keeps.ite (Keeps.ite (State.firstClr_keeps h) h) (Keeps.ite (Keeps.ite (State.faultNClr_keeps h1) h1) (Keeps.ite (Keeps.ite (State.injReport_keeps h) h) h1))))) (Keeps.ite (Keeps.ite (State.writeFields_keeps h) (Keeps.ite (Keeps.ite (State.evtLogEnable_keeps h) h1) (Keeps.ite (State.evtInject_keeps h) h1))) (Keeps.ite (Keeps.ite (State.resetCmd_keeps h) h1) h1))))

theorem State.writeMem_keeps {s₀ s : State} {rq page off v} (h : Keeps s₀ s) :
    Keeps s₀ (State.writeMem rq page off v s) := by
  unfold State.writeMem
  extract_lets x0 x1
  have h2 : Keeps s₀ x0 := State.writeFields_keeps h
  exact Keeps.ite (Keeps.ite (State.modeForce_keeps h) (Keeps.ite (Keeps.ite (State.retrainLink_keeps h) h) h2)) (Keeps.ite (Keeps.ite (State.clTestStart_keeps h2) h2) (Keeps.ite (Keeps.ite (State.syncLent_keeps h2) (Keeps.ite (State.lendTiles_keeps h) (Keeps.ite (Keeps.ite (State.lendRecall_keeps h) h) h2))) (Keeps.ite (Keeps.ite (Keeps.ite (State.quotaWrite_keeps h) (Keeps.ite (State.quotaWrite_keeps h) h)) h2) (Keeps.ite (Keeps.ite (State.doorbell_keeps h) (Keeps.ite (State.cancel_keeps h) (Keeps.ite (State.pfOnly_keeps h (fun t3 h4 => State.shareWrite_keeps h4)) h2))) h2))))

theorem State.writeEngine_keeps {s₀ s : State} {page off v} (h : Keeps s₀ s) :
    Keeps s₀ (State.writeEngine page off v s) := by
  unfold State.writeEngine
  extract_lets x0
  have h1 : Keeps s₀ x0 := State.writeFields_keeps h
  exact Keeps.ite (Keeps.ite (State.coresLeft_keeps (State.syncCores_keeps h1)) h1) (Keeps.ite (Keeps.ite (State.seed_keeps h) h1) (Keeps.ite (Keeps.ite (Keeps.ite (State.tblAct_keeps h) (Keeps.ite (State.tblDeact_keeps h) h)) h1) (Keeps.ite (Keeps.ite (State.rcSize_keeps h) (Keeps.ite (Keeps.ite (State.clearSketch_keeps h) h) h1)) (Keeps.ite (Keeps.ite (Keeps.ite (State.idxAct_keeps h) (Keeps.ite (State.idxDeact_keeps h) h)) h1) (Keeps.ite (Keeps.ite (State.outEnable_keeps h1) h1) (Keeps.ite (Keeps.ite (State.commit_keeps h) h1) (Keeps.ite (Keeps.ite (State.calWrite_keeps h) (Keeps.ite (Keeps.ite (State.calStart_keeps h) h) h1)) h1)))))))

theorem State.writePort_keeps {s₀ s : State} {page off v} (h : Keeps s₀ s) :
    Keeps s₀ (State.writePort page off v s) := by
  unfold State.writePort
  extract_lets x0
  have h1 : Keeps s₀ x0 := State.writeFields_keeps h
  exact Keeps.ite (Keeps.ite (State.hmCmd_keeps h) (Keeps.ite (Keeps.foldl h (fun t2 x3 h4 => State.fsApply_keeps h4)) h1)) (Keeps.ite (Keeps.ite (State.domWrite_keeps h) h1) (Keeps.ite (Keeps.ite (Keeps.ite (State.txqPop_keeps h) h) h1) (Keeps.ite (Keeps.ite (State.txrTail_keeps h) h1) (Keeps.ite (Keeps.ite (State.fabShard_keeps h1) (Keeps.ite (State.borrowCmd_keeps h) h1)) (Keeps.ite (Keeps.ite (Keeps.ite (State.wrCmd_keeps h) h) h1) (Keeps.ite (Keeps.ite (State.strCfg_keeps h) h1) (Keeps.ite (Keeps.ite (State.xfer_keeps h) (Keeps.ite (Keeps.ite (State.bspiStart_keeps h1) h1) h1)) (Keeps.ite (Keeps.ite (State.sdmClkCfg_keeps h) h1) h1))))))))

theorem State.writeEffect_keeps {s₀ s : State} {rq page off v} (h : Keeps s₀ s) :
    Keeps s₀ (State.writeEffect rq page off v s) := by
  unfold State.writeEffect
  exact Keeps.ite (State.blkCtrl_keeps h) (Keeps.ite (State.irqForce_keeps h) (Keeps.ite (State.recapture_keeps (State.writeFields_keeps h)) (Keeps.ite (State.expWrite_keeps h) (Keeps.ite (State.writeFields_keeps h) (Keeps.ite (State.writeBz_keeps h) (Keeps.ite (State.writeMem_keeps h) (Keeps.ite (State.writeEngine_keeps h) (State.writePort_keeps h))))))))

theorem State.commit64_keeps {s₀ s : State} {page off lo hi0} (h : Keeps s₀ s) :
    Keeps s₀ (State.commit64 page off lo hi0 s) := by
  unfold State.commit64
  extract_lets x0
  have h1 : Keeps s₀ x0 := State.writeFields_keeps (State.writeFields_keeps h)
  exact Keeps.ite (State.wakeTimer_keeps h1) h1

theorem State.writePair_keeps {s₀ s : State} {rq page off v} (h : Keeps s₀ s) :
    Keeps s₀ (State.writePair rq page off v s) := by
  unfold State.writePair
  split
  · extract_lets x0
    exact Keeps.ite h (Keeps.same h rfl rfl rfl rfl rfl rfl)
  · extract_lets x1 x2 x3 x4
    have h5 : Keeps s₀ x4 := Keeps.same h rfl rfl rfl rfl rfl rfl
    exact State.commit64_keeps h5
  · exact State.writeEffect_keeps h

theorem State.writeHeld_keeps {s₀ s t : State} {page off} (h : Keeps s₀ s) (e : State.writeHeld page off s = some t) :
    Keeps s₀ t := by
  unfold State.writeHeld at e
  split at e
  · cases e; exact h
  · split at e
    · cases e; exact h
    · split at e
      · cases e; exact State.reject_keeps h
      · split at e
        · cases e; exact h
        · cases e

theorem State.writeFull_keeps {s₀ s : State} {rq page off v} (h : Keeps s₀ s) :
    Keeps s₀ (State.writeFull rq page off v s) := by
  unfold State.writeFull
  refine Keeps.ite (State.blocked_keeps h) (Keeps.ite h (Keeps.ite (State.blocked_keeps h) ?_))
  split
  · next e => exact State.writeHeld_keeps h e
  · exact State.writePair_keeps h

theorem State.writeBoth_keeps {s₀ s : State} {rq page off lo hi} (h : Keeps s₀ s) :
    Keeps s₀ (State.writeBoth rq page off lo hi s) := by
  unfold State.writeBoth
  exact Keeps.ite (State.blocked_keeps h) (Keeps.ite (State.writeFull_keeps (State.writeFull_keeps h)) (State.writeFull_keeps (State.writeFull_keeps h)))

theorem State.writeWord_keeps {s₀ s : State} {rq addr v} (h : Keeps s₀ s) :
    Keeps s₀ (State.writeWord rq addr v s) := by
  unfold State.writeWord
  split
  · exact h
  · exact Keeps.ite (State.doorbell_keeps (State.leaveDoze_keeps h)) (State.access_keeps h (fun t0 h1 => State.writeFull_keeps h1))

theorem State.regWrite_keeps {s₀ s : State} {rq addr n v} (h : Keeps s₀ s) :
    Keeps s₀ (State.regWrite rq addr n v s) := by
  unfold State.regWrite
  extract_lets x0 x1
  refine Keeps.ite (State.raiseIrq_keeps (State.inc_keeps h)) ?_
  refine Keeps.ite (State.writeWord_keeps h) ?_
  split
  · exact h
  · exact Keeps.ite (State.writeWord_keeps (State.writeWord_keeps h)) (State.access_keeps h (fun t8 h9 => State.writeBoth_keeps h9))

theorem execRegisterWrite_keeps {rq addr width value} (s : State) : ∃ t, execRegisterWrite rq addr width value s = .next t ∧ Keeps s t :=
  have h := Keeps.refl s
  ⟨_, rfl, State.regWrite_keeps h⟩

theorem execRcFieldRead_keeps {rq addr width} (s : State) : ∃ t, execRcFieldRead rq addr width s = .next t ∧ Keeps s t :=
  have h := Keeps.refl s
  ⟨_, rfl, State.regReadOut_keeps h⟩

theorem execLowWordRead_keeps {rq addr width} (s : State) : ∃ t, execLowWordRead rq addr width s = .next t ∧ Keeps s t :=
  have h := Keeps.refl s
  ⟨_, rfl, State.regReadOut_keeps h⟩

theorem execHighWordWrite_keeps {rq addr value} (s : State) : ∃ t, execHighWordWrite rq addr value s = .next t ∧ Keeps s t :=
  have h := Keeps.refl s
  ⟨_, rfl, State.regWrite_keeps h⟩

theorem execLowWordWrite_keeps {rq addr width value} (s : State) : ∃ t, execLowWordWrite rq addr width value s = .next t ∧ Keeps s t :=
  have h := Keeps.refl s
  ⟨_, rfl, State.regWrite_keeps h⟩

theorem execHmNsRead_keeps {rq width} (s : State) : ∃ t, execHmNsRead rq width s = .next t ∧ Keeps s t :=
  have h := Keeps.refl s
  ⟨_, rfl, State.regReadOut_keeps h⟩

theorem execStampNsRead_keeps {rq line} (s : State) : ∃ t, execStampNsRead rq line s = .next t ∧ Keeps s t :=
  have h := Keeps.refl s
  ⟨_, rfl, Keeps.ite (State.regReadOut_keeps h) h⟩

theorem execMspiRead_keeps {addr n waitBits} (s : State) : ∃ t, execMspiRead addr n waitBits s = .next t ∧ Keeps s t := by
  have h := Keeps.refl s
  refine ⟨_, rfl, ?_⟩
  extract_lets x0 x1 x2 x3 x4 x5
  have h6 : Keeps s x3 := State.setIo_keeps h
  have h15 : Keeps s x5.2 := by
    unfold x5
    refine Keeps.foldl_snd h6 (fun y7 y8 h9 => ?_)
    split
    · rename_i z10 z11 z12 z13
      have h14 : Keeps s z12 := Keeps.snd_eq (State.readWord_keeps h9) z13
      exact h14
  exact Keeps.ite h (Keeps.ite (State.emit_keeps (State.incBy_keeps (State.setW1c_keeps h6))) (State.emit_keeps (State.incBy_keeps h15)))

theorem execMspiWrite_keeps {addr words} (s : State) : ∃ t, execMspiWrite addr words s = .next t ∧ Keeps s t := by
  have h := Keeps.refl s
  refine ⟨_, rfl, ?_⟩
  extract_lets x0 x1
  refine Keeps.ite h ?_
  refine Keeps.foldl (State.emit_keeps (State.setIo_keeps h)) (fun t2 y3 h4 => ?_)
  extract_lets x5 x6
  have h7 : Keeps s x6 := Keeps.ite (State.inc_keeps h4) h4
  exact State.writeWord_keeps h7

theorem execRegAccess_keeps {write off data} (s : State) : ∃ t, execRegAccess write off data s = .next t ∧ Keeps s t := by
  have h := Keeps.refl s
  refine ⟨_, rfl, ?_⟩
  extract_lets x0 x1 x2 x3 x4 x5 x6
  have h7 : Keeps s x2 := State.setIo_keeps (State.inc_keeps h)
  have h8 : Keeps s x5 := State.regWrite_keeps h7
  refine Keeps.ite (State.setIo_keeps h7) ?_
  refine Keeps.ite (State.setIo_keeps h8) ?_
  split
  · rename_i z9 z10 z11 z12
    have h13 := Keeps.snd_eq (State.regRead_keeps h7) z12
    extract_lets x14
    exact State.setIo_keeps h13

end Sys2Proof.Machine
end

