-- ==== Sys2Proof/Laws/KeepsTick.lean ====
section
/-! SUPPORT. Every operation of `Machine/Tick` keeps the part, the tick, the queue and the canonical forms (`Keeps`), and every command
there answers a next state. -/

namespace Sys2Proof.Machine

theorem State.starved_keeps {s₀ s : State} (h : Keeps s₀ s) :
    Keeps s₀ (State.starved s) := by
  unfold State.starved
  extract_lets x0
  refine Keeps.ite ?_ h
  refine Keeps.foldl h (fun t1 y2 h3 => ?_)
  split
  · rename_i z4 z5 z6 z7
    have h8 : Keeps s₀ z6 := Keeps.snd_eq (State.freeBits_keeps h3) z7
    exact State.incBy_keeps h8

theorem State.tickCounts_keeps {s₀ s : State} (h : Keeps s₀ s) :
    Keeps s₀ (State.tickCounts s) := by
  unfold State.tickCounts
  extract_lets x0 x1 x2 x3 x4 x5 x6
  have h7 : Keeps s₀ x2 := Keeps.ite (State.inc64_keeps h) h
  have h11 : Keeps s₀ x3 := Keeps.ite (Keeps.foldl (State.inc64_keeps h7) (fun t8 y9 h10 => State.inc64_keeps h10)) h7
  have h12 : Keeps s₀ x4 := Keeps.ite (State.starved_keeps h11) h11
  have h19 : Keeps s₀ x5 := Keeps.foldl h12 (fun t13 y14 h15 => Keeps.foldl h15 (fun t16 y17 h18 => State.inc_keeps h18))
  exact State.setPwr_keeps h19

theorem State.estimatesFall_keeps {s₀ s : State} (h : Keeps s₀ s) :
    Keeps s₀ (State.estimatesFall s) := by
  unfold State.estimatesFall
  extract_lets x0 x1
  exact State.setSch_keeps h

theorem State.linksTick_keeps {s₀ s : State} (h : Keeps s₀ s) :
    Keeps s₀ (State.linksTick s) := by
  unfold State.linksTick
  refine Keeps.foldl h (fun t0 x1 h2 => ?_)
  split
  · extract_lets x3
    exact Keeps.ite (State.setLnk_keeps h2) h2
  · extract_lets x4
    exact State.wr_keeps (State.setLnk_keeps h2)

theorem State.readyTick_keeps {s₀ s : State} (h : Keeps s₀ s) :
    Keeps s₀ (State.readyTick s) := by
  unfold State.readyTick
  exact Keeps.ite (State.readyWaiting_keeps h) h

theorem State.faultsReturn_keeps {s₀ s : State} (h : Keeps s₀ s) :
    Keeps s₀ (State.faultsReturn s) := by
  unfold State.faultsReturn
  exact Keeps.foldl h (fun t0 y1 h2 => Keeps.ite (State.faultBlock_keeps h2) h2)

theorem State.tickStart_keeps {s₀ s : State} (h : Keeps s₀ s) :
    Keeps s₀ (State.tickStart s) := by
  unfold State.tickStart
  extract_lets x0 x1
  have h2 : Keeps s₀ x0 := State.beginBoot_keeps (State.faultsReturn_keeps (State.wakeSteps_keeps (State.dozeEnds_keeps (State.crownCools_keeps (State.applyLevels_keeps (State.fireInjected_keeps (State.guaranteeCheck_keeps h)))))))
  have h3 : Keeps s₀ x1 := State.nvpInitEnds_keeps (State.framesWake_keeps (State.readyTick_keeps (State.hmTick_keeps h2)))
  exact State.refreshReports_keeps (State.peersRest_keeps (State.beginSteps_keeps (State.fabFaulted_keeps (State.servePeers_keeps (State.serveHeld_keeps (Keeps.ite h3 (State.rowsTick_keeps h3)))))))

end Sys2Proof.Machine
end

