-- ==== Sys2Proof/Laws/Exec.lean ====
section
/-! SUPPORT. What every command keeps: one case for each, citing the lemma about its meaning. -/

namespace Sys2Proof.Machine

/-- Every command but the power-on reset of the always-on domain answers a next state and keeps the part, the tick, the queue
and the canonical forms. -/
theorem exec_keeps (c : Instr) (s : State) (h : c ≠ .alwaysOnPowerOnReset) : ∃ t, exec c s = .next t ∧ Keeps s t := by
  cases c with
  | alwaysOnPowerOnReset => exact absurd rfl h
  | registerWrite => exact execRegisterWrite_keeps s
  | rcFieldRead => exact execRcFieldRead_keeps s
  | lowWordRead => exact execLowWordRead_keeps s
  | highWordWrite => exact execHighWordWrite_keeps s
  | lowWordWrite => exact execLowWordWrite_keeps s
  | expUnlockFirstKey => exact execExpUnlockFirstKey_keeps s
  | expUnlockSecondKey => exact execExpUnlockSecondKey_keeps s
  | expRelock => exact execExpRelock_keeps s
  | unlockWindowExpiry => exact execUnlockWindowExpiry_keeps s
  | blockEnable => exact execBlockEnable_keeps s
  | blockDisable => exact execBlockDisable_keeps s
  | softReset => exact execSoftReset_keeps s
  | irqForce => exact execIrqForce_keeps s
  | drainComplete => exact execDrainComplete_keeps s
  | bar2Access => exact execBar2Access_keeps s
  | bar4Access => exact execBar4Access_keeps s
  | tickEventSampling => exact execTickEventSampling_keeps s
  | evtLogEnable => exact execEvtLogEnable_keeps s
  | evtInject => exact execEvtInject_keeps s
  | refclkLost => exact execRefclkLost_keeps s
  | refclkReturn => exact execRefclkReturn_keeps s
  | aonclkDisciplined => exact execAonclkDisciplined_keeps s
  | pllLock => exact execPllLock_keeps s
  | pllLockTimeout => exact execPllLockTimeout_keeps s
  | clockMonitorFault => exact execClockMonitorFault_keeps s
  | autoDozeEntry => exact execAutoDozeEntry_keeps s
  | dozeExit => exact execDozeExit_keeps s
  | pmReqNap => exact execPmReqNap_keeps s
  | pmReqSleep => exact execPmReqSleep_keeps s
  | pmReqDeep => exact execPmReqDeep_keeps s
  | pmReqAwake => exact execPmReqAwake_keeps s
  | pmReqInvalid => exact execPmReqInvalid_keeps s
  | powerStateEntryComplete => exact execPowerStateEntryComplete_keeps s
  | wakeTimerSet => exact execWakeTimerSet_keeps s
  | wakeTimerMatch => exact execWakeTimerMatch_keeps s
  | wakeStart => exact execWakeStart_keeps s
  | wakeComplete => exact execWakeComplete_keeps s
  | hbmBackgroundZero => exact execHbmBackgroundZero_keeps s
  | telemetrySample => exact execTelemetrySample_keeps s
  | powerCapStep => exact execPowerCapStep_keeps s
  | facetThermalLimit => exact execFacetThermalLimit_keeps s
  | crownThermalLimit => exact execCrownThermalLimit_keeps s
  | thermtrip => exact execThermtrip_keeps s
  | hbmThermalLimit => exact execHbmThermalLimit_keeps s
  | supplyOutOfRange => exact execSupplyOutOfRange_keeps s
  | deviceReset => exact execDeviceReset_keeps s
  | perstNFall => exact execPerstNFall_keeps s
  | hifLinkTraining => exact execHifLinkTraining_keeps s
  | configurationRequest n c => exact execConfigurationRequest_keeps (a0 := n) (a1 := c) s
  | bootClocks => exact execBootClocks_keeps s
  | refAbsentTimeout => exact execRefAbsentTimeout_keeps s
  | storeInit => exact execStoreInit_keeps s
  | fwLoad => exact execFwLoad_keeps s
  | fwVerify => exact execFwVerify_keeps s
  | facets => exact execFacets_keeps s
  | sideLinks => exact execSideLinks_keeps s
  | hbmTrain => exact execHbmTrain_keeps s
  | hostReady => exact execHostReady_keeps s
  | stageTimeout => exact execStageTimeout_keeps s
  | watchdogExpiry => exact execWatchdogExpiry_keeps s
  | watchdogRestart => exact execWatchdogRestart_keeps s
  | capDecl => exact execCapDecl_keeps s
  | guestSlotTimeout => exact execGuestSlotTimeout_keeps s
  | tickMessage => exact execTickMessage_keeps s
  | tickAck => exact execTickAck_keeps s
  | modeForce => exact execModeForce_keeps s
  | retrain => exact execRetrain_keeps s
  | linkRetrainComplete => exact execLinkRetrainComplete_keeps s
  | nativeFrame => exact execNativeFrame_keeps s
  | nak => exact execNak_keeps s
  | ack => exact execAck_keeps s
  | ackTimeoutReplay => exact execAckTimeoutReplay_keeps s
  | rdReq => exact execRdReq_keeps s
  | wrReq => exact execWrReq_keeps s
  | wrPosted => exact execWrPosted_keeps s
  | rdCpl => exact execRdCpl_keeps s
  | wrCpl => exact execWrCpl_keeps s
  | credit => exact execCredit_keeps s
  | complete => exact execComplete_keeps s
  | txnTimeoutExpiry => exact execTxnTimeoutExpiry_keeps s
  | linkTimeout => exact execLinkTimeout_keeps s
  | laneMonitorBurst => exact execLaneMonitorBurst_keeps s
  | clTestStart => exact execClTestStart_keeps s
  | clTestDone => exact execClTestDone_keeps s
  | tileInstall => exact execTileInstall_keeps s
  | tierLate => exact execTierLate_keeps s
  | tierFailed => exact execTierFailed_keeps s
  | evictionWritebackDone => exact execEvictionWritebackDone_keeps s
  | quotaWrite => exact execQuotaWrite_keeps s
  | locketLend => exact execLocketLend_keeps s
  | lendReclaim => exact execLendReclaim_keeps s
  | reclaimPeriodEnd => exact execReclaimPeriodEnd_keeps s
  | casketScrub => exact execCasketScrub_keeps s
  | patrolScrub => exact execPatrolScrub_keeps s
  | doorbell => exact execDoorbell_keeps s
  | cancel => exact execCancel_keeps s
  | admission => exact execAdmission_keeps s
  | nop => exact execNop_keeps s
  | run => exact execRun_keeps s
  | alloc => exact execAlloc_keeps s
  | free => exact execFree_keeps s
  | loadPlan => exact execLoadPlan_keeps s
  | modelLoadComplete => exact execModelLoadComplete_keeps s
  | dmaIn => exact execDmaIn_keeps s
  | dmaOut => exact execDmaOut_keeps s
  | flush => exact execFlush_keeps s
  | shareWrite => exact execShareWrite_keeps s
  | dispatch => exact execDispatch_keeps s
  | preemptionYield => exact execPreemptionYield_keeps s
  | latestStartReached => exact execLatestStartReached_keeps s
  | requestEnd => exact execRequestEnd_keeps s
  | deadlineMissed => exact execDeadlineMissed_keeps s
  | irqModerationExpiry => exact execIrqModerationExpiry_keeps s
  | stateAudit => exact execStateAudit_keeps s
  | facetTile => exact execFacetTile_keeps s
  | abftRecompute => exact execAbftRecompute_keeps s
  | exchangeStep => exact execExchangeStep_keeps s
  | tblCmdAct => exact execTblCmdAct_keeps s
  | tblCmdDeact => exact execTblCmdDeact_keeps s
  | tableDeactComplete => exact execTableDeactComplete_keeps s
  | gather => exact execGather_keeps s
  | update => exact execUpdate_keeps s
  | put => exact execPut_keeps s
  | flip => exact execFlip_keeps s
  | slotFree => exact execSlotFree_keeps s
  | srSeedWrite => exact execSrSeedWrite_keeps s
  | rcSizeWrite => exact execRcSizeWrite_keeps s
  | sketchClear => exact execSketchClear_keeps s
  | roundOpen => exact execRoundOpen_keeps s
  | roundClose => exact execRoundClose_keeps s
  | peerBatch => exact execPeerBatch_keeps s
  | remoteReply => exact execRemoteReply_keeps s
  | remoteLateExpiry => exact execRemoteLateExpiry_keeps s
  | idxCmdAct => exact execIdxCmdAct_keeps s
  | idxCmdDeact => exact execIdxCmdDeact_keeps s
  | indexDeactComplete => exact execIndexDeactComplete_keeps s
  | searchApproximate => exact execSearchApproximate_keeps s
  | searchExact => exact execSearchExact_keeps s
  | listScanStart => exact execListScanStart_keeps s
  | merge => exact execMerge_keeps s
  | shardLateExpiry => exact execShardLateExpiry_keeps s
  | peerSearch => exact execPeerSearch_keeps s
  | solve => exact execSolve_keeps s
  | recheckDue => exact execRecheckDue_keeps s
  | channelSlot => exact execChannelSlot_keeps s
  | commit => exact execCommit_keeps s
  | timingSlip => exact execTimingSlip_keeps s
  | filter => exact execFilter_keeps s
  | outEnable => exact execOutEnable_keeps s
  | calStart => exact execCalStart_keeps s
  | hmNsRead => exact execHmNsRead_keeps s
  | stampNsRead => exact execStampNsRead_keeps s
  | set => exact execSet_keeps s
  | snap => exact execSnap_keeps s
  | switchPri => exact execSwitchPri_keeps s
  | switchSec => exact execSwitchSec_keeps s
  | hmCmdInvalid => exact execHmCmdInvalid_keeps s
  | stampEdge => exact execStampEdge_keeps s
  | txqPop => exact execTxqPop_keeps s
  | sync => exact execSync_keeps s
  | followUp => exact execFollowUp_keeps s
  | delayReq => exact execDelayReq_keeps s
  | delayResp => exact execDelayResp_keeps s
  | pdelayReq => exact execPdelayReq_keeps s
  | pdelayResp => exact execPdelayResp_keeps s
  | pdelayRespFollowUp => exact execPdelayRespFollowUp_keeps s
  | announcePtp => exact execAnnouncePtp_keeps s
  | managementSignaling d => exact execManagementSignaling_keeps (a0 := d) s
  | ptpMessageSend => exact execPtpMessageSend_keeps s
  | domainLoss => exact execDomainLoss_keeps s
  | domainConfigWrite => exact execDomainConfigWrite_keeps s
  | ppsInEdge => exact execPpsInEdge_keeps s
  | fsyncOutEdge => exact execFsyncOutEdge_keeps s
  | fsApply => exact execFsApply_keeps s
  | ethLinkChange => exact execEthLinkChange_keeps s
  | txrTail => exact execTxrTail_keeps s
  | frameRx => exact execFrameRx_keeps s
  | send => exact execSend_keeps s
  | rdmaWrite => exact execRdmaWrite_keeps s
  | rdmaRead => exact execRdmaRead_keeps s
  | roceAckTimeout => exact execRoceAckTimeout_keeps s
  | cnp => exact execCnp_keeps s
  | roceRateRaise => exact execRoceRateRaise_keeps s
  | announce => exact execAnnounce_keeps s
  | ackCfp => exact execAckCfp_keeps s
  | cfpResend => exact execCfpResend_keeps s
  | leave => exact execLeave_keeps s
  | gone => exact execGone_keeps s
  | leaveTimeout => exact execLeaveTimeout_keeps s
  | peerSilenceTimeout => exact execPeerSilenceTimeout_keeps s
  | handoverRange => exact execHandoverRange_keeps s
  | handoverEnd => exact execHandoverEnd_keeps s
  | handoverTimeout => exact execHandoverTimeout_keeps s
  | borrowCmdBorrow => exact execBorrowCmdBorrow_keeps s
  | borrowCmdRelease => exact execBorrowCmdRelease_keeps s
  | borrowReq => exact execBorrowReq_keeps s
  | borrowGrant => exact execBorrowGrant_keeps s
  | borrowDeny => exact execBorrowDeny_keeps s
  | release => exact execRelease_keeps s
  | reclaim => exact execReclaim_keeps s
  | lendRevoke => exact execLendRevoke_keeps s
  | flr => exact execFlr_keeps s
  | dmaCompletion => exact execDmaCompletion_keeps s
  | nvpEnable => exact execNvpEnable_keeps s
  | nvmeCompletion => exact execNvmeCompletion_keeps s
  | nvpTimeout => exact execNvpTimeout_keeps s
  | wrCmd => exact execWrCmd_keeps s
  | flashWriteDone => exact execFlashWriteDone_keeps s
  | frameStart => exact execFrameStart_keeps s
  | linePacket => exact execLinePacket_keeps s
  | frameEnd => exact execFrameEnd_keeps s
  | streamEnable => exact execStreamEnable_keeps s
  | drdyEdge => exact execDrdyEdge_keeps s
  | sampleTransactionDone => exact execSampleTransactionDone_keeps s
  | xfer => exact execXfer_keeps s
  | xferDone => exact execXferDone_keeps s
  | bspiRead => exact execBspiRead_keeps s
  | bspiProgram => exact execBspiProgram_keeps s
  | bspiErase => exact execBspiErase_keeps s
  | bspiOpInvalid => exact execBspiOpInvalid_keeps s
  | bspiDone => exact execBspiDone_keeps s
  | sdmClockCheck => exact execSdmClockCheck_keeps s
  | sdmClkCfgWrite => exact execSdmClkCfgWrite_keeps s
  | mspiRead => exact execMspiRead_keeps s
  | mspiWrite => exact execMspiWrite_keeps s
  | mspiBadCmd => exact execMspiBadCmd_keeps s
  | mspiWaitTimeout => exact execMspiWaitTimeout_keeps s
  | mspiCsRise => exact execMspiCsRise_keeps s
  | samplePreload => exact execSamplePreload_keeps s
  | regAccess => exact execRegAccess_keeps s
  | stapSelect => exact execStapSelect_keeps s
  | dwrAccess => exact execDwrAccess_keeps s
  | bypass => exact execBypass_keeps s
  | faultReportClose => exact execFaultReportClose_keeps s
  | drainLimitExpiry => exact execDrainLimitExpiry_keeps s
  | sentinelWrite => exact execSentinelWrite_keeps s
  | flogEnable => exact execFlogEnable_keeps s
  | firstClr => exact execFirstClr_keeps s
  | faultNClr => exact execFaultNClr_keeps s
  | injReport => exact execInjReport_keeps s
  | resetCmd => exact execResetCmd_keeps s
  | lockstepMismatch => exact execLockstepMismatch_keeps s
  | calResult => exact execCalResult_keeps s
  | calTimeout => exact execCalTimeout_keeps s
  | stampRoutine => exact execStampRoutine_keeps s
  | autoSwitch => exact execAutoSwitch_keeps s
  | initialStep => exact execInitialStep_keeps s
  | slewEnd => exact execSlewEnd_keeps s
  | hmCoreStart => exact execHmCoreStart_keeps s
  | ppsOutEdge => exact execPpsOutEdge_keeps s
  | announceSend => exact execAnnounceSend_keeps s
  | joinListenEnd => exact execJoinListenEnd_keeps s
  | hifLinkDown => exact execHifLinkDown_keeps s
  | hifLinkUp => exact execHifLinkUp_keeps s
  | nvpInitTimeout => exact execNvpInitTimeout_keeps s
  | mspiIdleTimeout => exact execMspiIdleTimeout_keeps s
  | tapReset => exact execTapReset_keeps s
  | idcode => exact execIdcode_keeps s
  | extest => exact execExtest_keeps s
  | clamp => exact execClamp_keeps s
  | highz => exact execHighz_keeps s

end Sys2Proof.Machine
end

