-- ==== Sys2Proof/Laws/State.lean ====
section
/-! SUPPORT. What each update of the state leaves alone: one lemma per field and update, so that no proof unfolds a record update. -/

namespace Sys2Proof.Machine

/-! ### `setWord` -/

@[simp] theorem State.setWord_part (s : State) (p o : Nat) (w : Word) : (s.setWord p o w).part = s.part := rfl
@[simp] theorem State.setWord_tick (s : State) (p o : Nat) (w : Word) : (s.setWord p o w).tick = s.tick := rfl
@[simp] theorem State.setWord_blocks (s : State) (p o : Nat) (w : Word) : (s.setWord p o w).blocks = s.blocks := rfl
@[simp] theorem State.setWord_bus (s : State) (p o : Nat) (w : Word) : (s.setWord p o w).bus = s.bus := rfl
@[simp] theorem State.setWord_evt (s : State) (p o : Nat) (w : Word) : (s.setWord p o w).evt = s.evt := rfl
@[simp] theorem State.setWord_pwr (s : State) (p o : Nat) (w : Word) : (s.setWord p o w).pwr = s.pwr := rfl
@[simp] theorem State.setWord_boot (s : State) (p o : Nat) (w : Word) : (s.setWord p o w).boot = s.boot := rfl
@[simp] theorem State.setWord_links (s : State) (p o : Nat) (w : Word) : (s.setWord p o w).links = s.links := rfl
@[simp] theorem State.setWord_guest (s : State) (p o : Nat) (w : Word) : (s.setWord p o w).guest = s.guest := rfl
@[simp] theorem State.setWord_mem (s : State) (p o : Nat) (w : Word) : (s.setWord p o w).mem = s.mem := rfl
@[simp] theorem State.setWord_ck (s : State) (p o : Nat) (w : Word) : (s.setWord p o w).ck = s.ck := rfl
@[simp] theorem State.setWord_sch (s : State) (p o : Nat) (w : Word) : (s.setWord p o w).sch = s.sch := rfl
@[simp] theorem State.setWord_rows (s : State) (p o : Nat) (w : Word) : (s.setWord p o w).rows = s.rows := rfl
@[simp] theorem State.setWord_lps (s : State) (p o : Nat) (w : Word) : (s.setWord p o w).lps = s.lps := rfl
@[simp] theorem State.setWord_ises (s : State) (p o : Nat) (w : Word) : (s.setWord p o w).ises = s.ises := rfl
@[simp] theorem State.setWord_fil (s : State) (p o : Nat) (w : Word) : (s.setWord p o w).fil = s.fil := rfl
@[simp] theorem State.setWord_hm (s : State) (p o : Nat) (w : Word) : (s.setWord p o w).hm = s.hm := rfl
@[simp] theorem State.setWord_fab (s : State) (p o : Nat) (w : Word) : (s.setWord p o w).fab = s.fab := rfl
@[simp] theorem State.setWord_flt (s : State) (p o : Nat) (w : Word) : (s.setWord p o w).flt = s.flt := rfl
@[simp] theorem State.setWord_io (s : State) (p o : Nat) (w : Word) : (s.setWord p o w).io = s.io := rfl
@[simp] theorem State.setWord_out (s : State) (p o : Nat) (w : Word) : (s.setWord p o w).out = s.out := rfl
@[simp] theorem State.setWord_free (s : State) (p o : Nat) (w : Word) : (s.setWord p o w).free = s.free := rfl
@[simp] theorem State.setWord_pending (s : State) (p o : Nat) (w : Word) : (s.setWord p o w).pending = s.pending := rfl
@[simp] theorem State.setWord_bst (s : State) (p o : Nat) (w : Word) (page : Nat) : (s.setWord p o w).bst page = s.bst page := rfl

/-! ### `wr` -/

@[simp] theorem State.wr_part (s : State) (f : FRef) (v : Nat) : (s.wr f v).part = s.part := rfl
@[simp] theorem State.wr_tick (s : State) (f : FRef) (v : Nat) : (s.wr f v).tick = s.tick := rfl
@[simp] theorem State.wr_blocks (s : State) (f : FRef) (v : Nat) : (s.wr f v).blocks = s.blocks := rfl
@[simp] theorem State.wr_bus (s : State) (f : FRef) (v : Nat) : (s.wr f v).bus = s.bus := rfl
@[simp] theorem State.wr_evt (s : State) (f : FRef) (v : Nat) : (s.wr f v).evt = s.evt := rfl
@[simp] theorem State.wr_pwr (s : State) (f : FRef) (v : Nat) : (s.wr f v).pwr = s.pwr := rfl
@[simp] theorem State.wr_boot (s : State) (f : FRef) (v : Nat) : (s.wr f v).boot = s.boot := rfl
@[simp] theorem State.wr_links (s : State) (f : FRef) (v : Nat) : (s.wr f v).links = s.links := rfl
@[simp] theorem State.wr_guest (s : State) (f : FRef) (v : Nat) : (s.wr f v).guest = s.guest := rfl
@[simp] theorem State.wr_mem (s : State) (f : FRef) (v : Nat) : (s.wr f v).mem = s.mem := rfl
@[simp] theorem State.wr_ck (s : State) (f : FRef) (v : Nat) : (s.wr f v).ck = s.ck := rfl
@[simp] theorem State.wr_sch (s : State) (f : FRef) (v : Nat) : (s.wr f v).sch = s.sch := rfl
@[simp] theorem State.wr_rows (s : State) (f : FRef) (v : Nat) : (s.wr f v).rows = s.rows := rfl
@[simp] theorem State.wr_lps (s : State) (f : FRef) (v : Nat) : (s.wr f v).lps = s.lps := rfl
@[simp] theorem State.wr_ises (s : State) (f : FRef) (v : Nat) : (s.wr f v).ises = s.ises := rfl
@[simp] theorem State.wr_fil (s : State) (f : FRef) (v : Nat) : (s.wr f v).fil = s.fil := rfl
@[simp] theorem State.wr_hm (s : State) (f : FRef) (v : Nat) : (s.wr f v).hm = s.hm := rfl
@[simp] theorem State.wr_fab (s : State) (f : FRef) (v : Nat) : (s.wr f v).fab = s.fab := rfl
@[simp] theorem State.wr_flt (s : State) (f : FRef) (v : Nat) : (s.wr f v).flt = s.flt := rfl
@[simp] theorem State.wr_io (s : State) (f : FRef) (v : Nat) : (s.wr f v).io = s.io := rfl
@[simp] theorem State.wr_out (s : State) (f : FRef) (v : Nat) : (s.wr f v).out = s.out := rfl
@[simp] theorem State.wr_free (s : State) (f : FRef) (v : Nat) : (s.wr f v).free = s.free := rfl
@[simp] theorem State.wr_pending (s : State) (f : FRef) (v : Nat) : (s.wr f v).pending = s.pending := rfl
@[simp] theorem State.wr_bst (s : State) (f : FRef) (v : Nat) (page : Nat) : (s.wr f v).bst page = s.bst page := rfl

/-! ### `incBy` -/

@[simp] theorem State.incBy_part (s : State) (f : FRef) (n : Nat) : (s.incBy f n).part = s.part := rfl
@[simp] theorem State.incBy_tick (s : State) (f : FRef) (n : Nat) : (s.incBy f n).tick = s.tick := rfl
@[simp] theorem State.incBy_blocks (s : State) (f : FRef) (n : Nat) : (s.incBy f n).blocks = s.blocks := rfl
@[simp] theorem State.incBy_bus (s : State) (f : FRef) (n : Nat) : (s.incBy f n).bus = s.bus := rfl
@[simp] theorem State.incBy_evt (s : State) (f : FRef) (n : Nat) : (s.incBy f n).evt = s.evt := rfl
@[simp] theorem State.incBy_pwr (s : State) (f : FRef) (n : Nat) : (s.incBy f n).pwr = s.pwr := rfl
@[simp] theorem State.incBy_boot (s : State) (f : FRef) (n : Nat) : (s.incBy f n).boot = s.boot := rfl
@[simp] theorem State.incBy_links (s : State) (f : FRef) (n : Nat) : (s.incBy f n).links = s.links := rfl
@[simp] theorem State.incBy_guest (s : State) (f : FRef) (n : Nat) : (s.incBy f n).guest = s.guest := rfl
@[simp] theorem State.incBy_mem (s : State) (f : FRef) (n : Nat) : (s.incBy f n).mem = s.mem := rfl
@[simp] theorem State.incBy_ck (s : State) (f : FRef) (n : Nat) : (s.incBy f n).ck = s.ck := rfl
@[simp] theorem State.incBy_sch (s : State) (f : FRef) (n : Nat) : (s.incBy f n).sch = s.sch := rfl
@[simp] theorem State.incBy_rows (s : State) (f : FRef) (n : Nat) : (s.incBy f n).rows = s.rows := rfl
@[simp] theorem State.incBy_lps (s : State) (f : FRef) (n : Nat) : (s.incBy f n).lps = s.lps := rfl
@[simp] theorem State.incBy_ises (s : State) (f : FRef) (n : Nat) : (s.incBy f n).ises = s.ises := rfl
@[simp] theorem State.incBy_fil (s : State) (f : FRef) (n : Nat) : (s.incBy f n).fil = s.fil := rfl
@[simp] theorem State.incBy_hm (s : State) (f : FRef) (n : Nat) : (s.incBy f n).hm = s.hm := rfl
@[simp] theorem State.incBy_fab (s : State) (f : FRef) (n : Nat) : (s.incBy f n).fab = s.fab := rfl
@[simp] theorem State.incBy_flt (s : State) (f : FRef) (n : Nat) : (s.incBy f n).flt = s.flt := rfl
@[simp] theorem State.incBy_io (s : State) (f : FRef) (n : Nat) : (s.incBy f n).io = s.io := rfl
@[simp] theorem State.incBy_out (s : State) (f : FRef) (n : Nat) : (s.incBy f n).out = s.out := rfl
@[simp] theorem State.incBy_free (s : State) (f : FRef) (n : Nat) : (s.incBy f n).free = s.free := rfl
@[simp] theorem State.incBy_pending (s : State) (f : FRef) (n : Nat) : (s.incBy f n).pending = s.pending := rfl
@[simp] theorem State.incBy_bst (s : State) (f : FRef) (n : Nat) (page : Nat) : (s.incBy f n).bst page = s.bst page := rfl

/-! ### `inc` -/

@[simp] theorem State.inc_part (s : State) (f : FRef) : (s.inc f).part = s.part := rfl
@[simp] theorem State.inc_tick (s : State) (f : FRef) : (s.inc f).tick = s.tick := rfl
@[simp] theorem State.inc_blocks (s : State) (f : FRef) : (s.inc f).blocks = s.blocks := rfl
@[simp] theorem State.inc_bus (s : State) (f : FRef) : (s.inc f).bus = s.bus := rfl
@[simp] theorem State.inc_evt (s : State) (f : FRef) : (s.inc f).evt = s.evt := rfl
@[simp] theorem State.inc_pwr (s : State) (f : FRef) : (s.inc f).pwr = s.pwr := rfl
@[simp] theorem State.inc_boot (s : State) (f : FRef) : (s.inc f).boot = s.boot := rfl
@[simp] theorem State.inc_links (s : State) (f : FRef) : (s.inc f).links = s.links := rfl
@[simp] theorem State.inc_guest (s : State) (f : FRef) : (s.inc f).guest = s.guest := rfl
@[simp] theorem State.inc_mem (s : State) (f : FRef) : (s.inc f).mem = s.mem := rfl
@[simp] theorem State.inc_ck (s : State) (f : FRef) : (s.inc f).ck = s.ck := rfl
@[simp] theorem State.inc_sch (s : State) (f : FRef) : (s.inc f).sch = s.sch := rfl
@[simp] theorem State.inc_rows (s : State) (f : FRef) : (s.inc f).rows = s.rows := rfl
@[simp] theorem State.inc_lps (s : State) (f : FRef) : (s.inc f).lps = s.lps := rfl
@[simp] theorem State.inc_ises (s : State) (f : FRef) : (s.inc f).ises = s.ises := rfl
@[simp] theorem State.inc_fil (s : State) (f : FRef) : (s.inc f).fil = s.fil := rfl
@[simp] theorem State.inc_hm (s : State) (f : FRef) : (s.inc f).hm = s.hm := rfl
@[simp] theorem State.inc_fab (s : State) (f : FRef) : (s.inc f).fab = s.fab := rfl
@[simp] theorem State.inc_flt (s : State) (f : FRef) : (s.inc f).flt = s.flt := rfl
@[simp] theorem State.inc_io (s : State) (f : FRef) : (s.inc f).io = s.io := rfl
@[simp] theorem State.inc_out (s : State) (f : FRef) : (s.inc f).out = s.out := rfl
@[simp] theorem State.inc_free (s : State) (f : FRef) : (s.inc f).free = s.free := rfl
@[simp] theorem State.inc_pending (s : State) (f : FRef) : (s.inc f).pending = s.pending := rfl
@[simp] theorem State.inc_bst (s : State) (f : FRef) (page : Nat) : (s.inc f).bst page = s.bst page := rfl

/-! ### `orBits` -/

@[simp] theorem State.orBits_part (s : State) (f : FRef) (m : Nat) : (s.orBits f m).part = s.part := rfl
@[simp] theorem State.orBits_tick (s : State) (f : FRef) (m : Nat) : (s.orBits f m).tick = s.tick := rfl
@[simp] theorem State.orBits_blocks (s : State) (f : FRef) (m : Nat) : (s.orBits f m).blocks = s.blocks := rfl
@[simp] theorem State.orBits_bus (s : State) (f : FRef) (m : Nat) : (s.orBits f m).bus = s.bus := rfl
@[simp] theorem State.orBits_evt (s : State) (f : FRef) (m : Nat) : (s.orBits f m).evt = s.evt := rfl
@[simp] theorem State.orBits_pwr (s : State) (f : FRef) (m : Nat) : (s.orBits f m).pwr = s.pwr := rfl
@[simp] theorem State.orBits_boot (s : State) (f : FRef) (m : Nat) : (s.orBits f m).boot = s.boot := rfl
@[simp] theorem State.orBits_links (s : State) (f : FRef) (m : Nat) : (s.orBits f m).links = s.links := rfl
@[simp] theorem State.orBits_guest (s : State) (f : FRef) (m : Nat) : (s.orBits f m).guest = s.guest := rfl
@[simp] theorem State.orBits_mem (s : State) (f : FRef) (m : Nat) : (s.orBits f m).mem = s.mem := rfl
@[simp] theorem State.orBits_ck (s : State) (f : FRef) (m : Nat) : (s.orBits f m).ck = s.ck := rfl
@[simp] theorem State.orBits_sch (s : State) (f : FRef) (m : Nat) : (s.orBits f m).sch = s.sch := rfl
@[simp] theorem State.orBits_rows (s : State) (f : FRef) (m : Nat) : (s.orBits f m).rows = s.rows := rfl
@[simp] theorem State.orBits_lps (s : State) (f : FRef) (m : Nat) : (s.orBits f m).lps = s.lps := rfl
@[simp] theorem State.orBits_ises (s : State) (f : FRef) (m : Nat) : (s.orBits f m).ises = s.ises := rfl
@[simp] theorem State.orBits_fil (s : State) (f : FRef) (m : Nat) : (s.orBits f m).fil = s.fil := rfl
@[simp] theorem State.orBits_hm (s : State) (f : FRef) (m : Nat) : (s.orBits f m).hm = s.hm := rfl
@[simp] theorem State.orBits_fab (s : State) (f : FRef) (m : Nat) : (s.orBits f m).fab = s.fab := rfl
@[simp] theorem State.orBits_flt (s : State) (f : FRef) (m : Nat) : (s.orBits f m).flt = s.flt := rfl
@[simp] theorem State.orBits_io (s : State) (f : FRef) (m : Nat) : (s.orBits f m).io = s.io := rfl
@[simp] theorem State.orBits_out (s : State) (f : FRef) (m : Nat) : (s.orBits f m).out = s.out := rfl
@[simp] theorem State.orBits_free (s : State) (f : FRef) (m : Nat) : (s.orBits f m).free = s.free := rfl
@[simp] theorem State.orBits_pending (s : State) (f : FRef) (m : Nat) : (s.orBits f m).pending = s.pending := rfl
@[simp] theorem State.orBits_bst (s : State) (f : FRef) (m : Nat) (page : Nat) : (s.orBits f m).bst page = s.bst page := rfl

/-! ### `clearBits` -/

@[simp] theorem State.clearBits_part (s : State) (f : FRef) (m : Nat) : (s.clearBits f m).part = s.part := rfl
@[simp] theorem State.clearBits_tick (s : State) (f : FRef) (m : Nat) : (s.clearBits f m).tick = s.tick := rfl
@[simp] theorem State.clearBits_blocks (s : State) (f : FRef) (m : Nat) : (s.clearBits f m).blocks = s.blocks := rfl
@[simp] theorem State.clearBits_bus (s : State) (f : FRef) (m : Nat) : (s.clearBits f m).bus = s.bus := rfl
@[simp] theorem State.clearBits_evt (s : State) (f : FRef) (m : Nat) : (s.clearBits f m).evt = s.evt := rfl
@[simp] theorem State.clearBits_pwr (s : State) (f : FRef) (m : Nat) : (s.clearBits f m).pwr = s.pwr := rfl
@[simp] theorem State.clearBits_boot (s : State) (f : FRef) (m : Nat) : (s.clearBits f m).boot = s.boot := rfl
@[simp] theorem State.clearBits_links (s : State) (f : FRef) (m : Nat) : (s.clearBits f m).links = s.links := rfl
@[simp] theorem State.clearBits_guest (s : State) (f : FRef) (m : Nat) : (s.clearBits f m).guest = s.guest := rfl
@[simp] theorem State.clearBits_mem (s : State) (f : FRef) (m : Nat) : (s.clearBits f m).mem = s.mem := rfl
@[simp] theorem State.clearBits_ck (s : State) (f : FRef) (m : Nat) : (s.clearBits f m).ck = s.ck := rfl
@[simp] theorem State.clearBits_sch (s : State) (f : FRef) (m : Nat) : (s.clearBits f m).sch = s.sch := rfl
@[simp] theorem State.clearBits_rows (s : State) (f : FRef) (m : Nat) : (s.clearBits f m).rows = s.rows := rfl
@[simp] theorem State.clearBits_lps (s : State) (f : FRef) (m : Nat) : (s.clearBits f m).lps = s.lps := rfl
@[simp] theorem State.clearBits_ises (s : State) (f : FRef) (m : Nat) : (s.clearBits f m).ises = s.ises := rfl
@[simp] theorem State.clearBits_fil (s : State) (f : FRef) (m : Nat) : (s.clearBits f m).fil = s.fil := rfl
@[simp] theorem State.clearBits_hm (s : State) (f : FRef) (m : Nat) : (s.clearBits f m).hm = s.hm := rfl
@[simp] theorem State.clearBits_fab (s : State) (f : FRef) (m : Nat) : (s.clearBits f m).fab = s.fab := rfl
@[simp] theorem State.clearBits_flt (s : State) (f : FRef) (m : Nat) : (s.clearBits f m).flt = s.flt := rfl
@[simp] theorem State.clearBits_io (s : State) (f : FRef) (m : Nat) : (s.clearBits f m).io = s.io := rfl
@[simp] theorem State.clearBits_out (s : State) (f : FRef) (m : Nat) : (s.clearBits f m).out = s.out := rfl
@[simp] theorem State.clearBits_free (s : State) (f : FRef) (m : Nat) : (s.clearBits f m).free = s.free := rfl
@[simp] theorem State.clearBits_pending (s : State) (f : FRef) (m : Nat) : (s.clearBits f m).pending = s.pending := rfl
@[simp] theorem State.clearBits_bst (s : State) (f : FRef) (m : Nat) (page : Nat) : (s.clearBits f m).bst page = s.bst page := rfl

/-! ### `wr64` -/

@[simp] theorem State.wr64_part (s : State) (f g : FRef) (v : Nat) : (s.wr64 f g v).part = s.part := by simp only [State.wr64, State.wr_part]
@[simp] theorem State.wr64_tick (s : State) (f g : FRef) (v : Nat) : (s.wr64 f g v).tick = s.tick := by simp only [State.wr64, State.wr_tick]
@[simp] theorem State.wr64_blocks (s : State) (f g : FRef) (v : Nat) : (s.wr64 f g v).blocks = s.blocks := by simp only [State.wr64, State.wr_blocks]
@[simp] theorem State.wr64_bus (s : State) (f g : FRef) (v : Nat) : (s.wr64 f g v).bus = s.bus := by simp only [State.wr64, State.wr_bus]
@[simp] theorem State.wr64_evt (s : State) (f g : FRef) (v : Nat) : (s.wr64 f g v).evt = s.evt := by simp only [State.wr64, State.wr_evt]
@[simp] theorem State.wr64_pwr (s : State) (f g : FRef) (v : Nat) : (s.wr64 f g v).pwr = s.pwr := by simp only [State.wr64, State.wr_pwr]
@[simp] theorem State.wr64_boot (s : State) (f g : FRef) (v : Nat) : (s.wr64 f g v).boot = s.boot := by simp only [State.wr64, State.wr_boot]
@[simp] theorem State.wr64_links (s : State) (f g : FRef) (v : Nat) : (s.wr64 f g v).links = s.links := by simp only [State.wr64, State.wr_links]
@[simp] theorem State.wr64_guest (s : State) (f g : FRef) (v : Nat) : (s.wr64 f g v).guest = s.guest := by simp only [State.wr64, State.wr_guest]
@[simp] theorem State.wr64_mem (s : State) (f g : FRef) (v : Nat) : (s.wr64 f g v).mem = s.mem := by simp only [State.wr64, State.wr_mem]
@[simp] theorem State.wr64_ck (s : State) (f g : FRef) (v : Nat) : (s.wr64 f g v).ck = s.ck := by simp only [State.wr64, State.wr_ck]
@[simp] theorem State.wr64_sch (s : State) (f g : FRef) (v : Nat) : (s.wr64 f g v).sch = s.sch := by simp only [State.wr64, State.wr_sch]
@[simp] theorem State.wr64_rows (s : State) (f g : FRef) (v : Nat) : (s.wr64 f g v).rows = s.rows := by simp only [State.wr64, State.wr_rows]
@[simp] theorem State.wr64_lps (s : State) (f g : FRef) (v : Nat) : (s.wr64 f g v).lps = s.lps := by simp only [State.wr64, State.wr_lps]
@[simp] theorem State.wr64_ises (s : State) (f g : FRef) (v : Nat) : (s.wr64 f g v).ises = s.ises := by simp only [State.wr64, State.wr_ises]
@[simp] theorem State.wr64_fil (s : State) (f g : FRef) (v : Nat) : (s.wr64 f g v).fil = s.fil := by simp only [State.wr64, State.wr_fil]
@[simp] theorem State.wr64_hm (s : State) (f g : FRef) (v : Nat) : (s.wr64 f g v).hm = s.hm := by simp only [State.wr64, State.wr_hm]
@[simp] theorem State.wr64_fab (s : State) (f g : FRef) (v : Nat) : (s.wr64 f g v).fab = s.fab := by simp only [State.wr64, State.wr_fab]
@[simp] theorem State.wr64_flt (s : State) (f g : FRef) (v : Nat) : (s.wr64 f g v).flt = s.flt := by simp only [State.wr64, State.wr_flt]
@[simp] theorem State.wr64_io (s : State) (f g : FRef) (v : Nat) : (s.wr64 f g v).io = s.io := by simp only [State.wr64, State.wr_io]
@[simp] theorem State.wr64_out (s : State) (f g : FRef) (v : Nat) : (s.wr64 f g v).out = s.out := by simp only [State.wr64, State.wr_out]
@[simp] theorem State.wr64_free (s : State) (f g : FRef) (v : Nat) : (s.wr64 f g v).free = s.free := by simp only [State.wr64, State.wr_free]
@[simp] theorem State.wr64_pending (s : State) (f g : FRef) (v : Nat) : (s.wr64 f g v).pending = s.pending := by simp only [State.wr64, State.wr_pending]
@[simp] theorem State.wr64_bst (s : State) (f g : FRef) (v : Nat) (page : Nat) : (s.wr64 f g v).bst page = s.bst page := by simp only [State.bst, State.blk, State.wr64_blocks]

/-! ### `inc64` -/

@[simp] theorem State.inc64_part (s : State) (f g : FRef) (v : Nat) : (s.inc64 f g v).part = s.part := by simp only [State.inc64, State.wr64_part]
@[simp] theorem State.inc64_tick (s : State) (f g : FRef) (v : Nat) : (s.inc64 f g v).tick = s.tick := by simp only [State.inc64, State.wr64_tick]
@[simp] theorem State.inc64_blocks (s : State) (f g : FRef) (v : Nat) : (s.inc64 f g v).blocks = s.blocks := by simp only [State.inc64, State.wr64_blocks]
@[simp] theorem State.inc64_bus (s : State) (f g : FRef) (v : Nat) : (s.inc64 f g v).bus = s.bus := by simp only [State.inc64, State.wr64_bus]
@[simp] theorem State.inc64_evt (s : State) (f g : FRef) (v : Nat) : (s.inc64 f g v).evt = s.evt := by simp only [State.inc64, State.wr64_evt]
@[simp] theorem State.inc64_pwr (s : State) (f g : FRef) (v : Nat) : (s.inc64 f g v).pwr = s.pwr := by simp only [State.inc64, State.wr64_pwr]
@[simp] theorem State.inc64_boot (s : State) (f g : FRef) (v : Nat) : (s.inc64 f g v).boot = s.boot := by simp only [State.inc64, State.wr64_boot]
@[simp] theorem State.inc64_links (s : State) (f g : FRef) (v : Nat) : (s.inc64 f g v).links = s.links := by simp only [State.inc64, State.wr64_links]
@[simp] theorem State.inc64_guest (s : State) (f g : FRef) (v : Nat) : (s.inc64 f g v).guest = s.guest := by simp only [State.inc64, State.wr64_guest]
@[simp] theorem State.inc64_mem (s : State) (f g : FRef) (v : Nat) : (s.inc64 f g v).mem = s.mem := by simp only [State.inc64, State.wr64_mem]
@[simp] theorem State.inc64_ck (s : State) (f g : FRef) (v : Nat) : (s.inc64 f g v).ck = s.ck := by simp only [State.inc64, State.wr64_ck]
@[simp] theorem State.inc64_sch (s : State) (f g : FRef) (v : Nat) : (s.inc64 f g v).sch = s.sch := by simp only [State.inc64, State.wr64_sch]
@[simp] theorem State.inc64_rows (s : State) (f g : FRef) (v : Nat) : (s.inc64 f g v).rows = s.rows := by simp only [State.inc64, State.wr64_rows]
@[simp] theorem State.inc64_lps (s : State) (f g : FRef) (v : Nat) : (s.inc64 f g v).lps = s.lps := by simp only [State.inc64, State.wr64_lps]
@[simp] theorem State.inc64_ises (s : State) (f g : FRef) (v : Nat) : (s.inc64 f g v).ises = s.ises := by simp only [State.inc64, State.wr64_ises]
@[simp] theorem State.inc64_fil (s : State) (f g : FRef) (v : Nat) : (s.inc64 f g v).fil = s.fil := by simp only [State.inc64, State.wr64_fil]
@[simp] theorem State.inc64_hm (s : State) (f g : FRef) (v : Nat) : (s.inc64 f g v).hm = s.hm := by simp only [State.inc64, State.wr64_hm]
@[simp] theorem State.inc64_fab (s : State) (f g : FRef) (v : Nat) : (s.inc64 f g v).fab = s.fab := by simp only [State.inc64, State.wr64_fab]
@[simp] theorem State.inc64_flt (s : State) (f g : FRef) (v : Nat) : (s.inc64 f g v).flt = s.flt := by simp only [State.inc64, State.wr64_flt]
@[simp] theorem State.inc64_io (s : State) (f g : FRef) (v : Nat) : (s.inc64 f g v).io = s.io := by simp only [State.inc64, State.wr64_io]
@[simp] theorem State.inc64_out (s : State) (f g : FRef) (v : Nat) : (s.inc64 f g v).out = s.out := by simp only [State.inc64, State.wr64_out]
@[simp] theorem State.inc64_free (s : State) (f g : FRef) (v : Nat) : (s.inc64 f g v).free = s.free := by simp only [State.inc64, State.wr64_free]
@[simp] theorem State.inc64_pending (s : State) (f g : FRef) (v : Nat) : (s.inc64 f g v).pending = s.pending := by simp only [State.inc64, State.wr64_pending]
@[simp] theorem State.inc64_bst (s : State) (f g : FRef) (v : Nat) (page : Nat) : (s.inc64 f g v).bst page = s.bst page := by simp only [State.bst, State.blk, State.inc64_blocks]

/-! ### `setW1c` -/

@[simp] theorem State.setW1c_part (s : State) (f : FRef) (m : Nat) : (s.setW1c f m).part = s.part := rfl
@[simp] theorem State.setW1c_tick (s : State) (f : FRef) (m : Nat) : (s.setW1c f m).tick = s.tick := rfl
@[simp] theorem State.setW1c_blocks (s : State) (f : FRef) (m : Nat) : (s.setW1c f m).blocks = s.blocks := rfl
@[simp] theorem State.setW1c_evt (s : State) (f : FRef) (m : Nat) : (s.setW1c f m).evt = s.evt := rfl
@[simp] theorem State.setW1c_pwr (s : State) (f : FRef) (m : Nat) : (s.setW1c f m).pwr = s.pwr := rfl
@[simp] theorem State.setW1c_boot (s : State) (f : FRef) (m : Nat) : (s.setW1c f m).boot = s.boot := rfl
@[simp] theorem State.setW1c_links (s : State) (f : FRef) (m : Nat) : (s.setW1c f m).links = s.links := rfl
@[simp] theorem State.setW1c_guest (s : State) (f : FRef) (m : Nat) : (s.setW1c f m).guest = s.guest := rfl
@[simp] theorem State.setW1c_mem (s : State) (f : FRef) (m : Nat) : (s.setW1c f m).mem = s.mem := rfl
@[simp] theorem State.setW1c_ck (s : State) (f : FRef) (m : Nat) : (s.setW1c f m).ck = s.ck := rfl
@[simp] theorem State.setW1c_sch (s : State) (f : FRef) (m : Nat) : (s.setW1c f m).sch = s.sch := rfl
@[simp] theorem State.setW1c_rows (s : State) (f : FRef) (m : Nat) : (s.setW1c f m).rows = s.rows := rfl
@[simp] theorem State.setW1c_lps (s : State) (f : FRef) (m : Nat) : (s.setW1c f m).lps = s.lps := rfl
@[simp] theorem State.setW1c_ises (s : State) (f : FRef) (m : Nat) : (s.setW1c f m).ises = s.ises := rfl
@[simp] theorem State.setW1c_fil (s : State) (f : FRef) (m : Nat) : (s.setW1c f m).fil = s.fil := rfl
@[simp] theorem State.setW1c_hm (s : State) (f : FRef) (m : Nat) : (s.setW1c f m).hm = s.hm := rfl
@[simp] theorem State.setW1c_fab (s : State) (f : FRef) (m : Nat) : (s.setW1c f m).fab = s.fab := rfl
@[simp] theorem State.setW1c_flt (s : State) (f : FRef) (m : Nat) : (s.setW1c f m).flt = s.flt := rfl
@[simp] theorem State.setW1c_io (s : State) (f : FRef) (m : Nat) : (s.setW1c f m).io = s.io := rfl
@[simp] theorem State.setW1c_out (s : State) (f : FRef) (m : Nat) : (s.setW1c f m).out = s.out := rfl
@[simp] theorem State.setW1c_free (s : State) (f : FRef) (m : Nat) : (s.setW1c f m).free = s.free := rfl
@[simp] theorem State.setW1c_pending (s : State) (f : FRef) (m : Nat) : (s.setW1c f m).pending = s.pending := rfl
@[simp] theorem State.setW1c_bst (s : State) (f : FRef) (m : Nat) (page : Nat) : (s.setW1c f m).bst page = s.bst page := rfl

/-! ### `emit` -/

@[simp] theorem State.emit_part (s : State) (o : Out) : (s.emit o).part = s.part := rfl
@[simp] theorem State.emit_tick (s : State) (o : Out) : (s.emit o).tick = s.tick := rfl
@[simp] theorem State.emit_regs (s : State) (o : Out) : (s.emit o).regs = s.regs := rfl
@[simp] theorem State.emit_blocks (s : State) (o : Out) : (s.emit o).blocks = s.blocks := rfl
@[simp] theorem State.emit_bus (s : State) (o : Out) : (s.emit o).bus = s.bus := rfl
@[simp] theorem State.emit_evt (s : State) (o : Out) : (s.emit o).evt = s.evt := rfl
@[simp] theorem State.emit_pwr (s : State) (o : Out) : (s.emit o).pwr = s.pwr := rfl
@[simp] theorem State.emit_boot (s : State) (o : Out) : (s.emit o).boot = s.boot := rfl
@[simp] theorem State.emit_links (s : State) (o : Out) : (s.emit o).links = s.links := rfl
@[simp] theorem State.emit_guest (s : State) (o : Out) : (s.emit o).guest = s.guest := rfl
@[simp] theorem State.emit_mem (s : State) (o : Out) : (s.emit o).mem = s.mem := rfl
@[simp] theorem State.emit_ck (s : State) (o : Out) : (s.emit o).ck = s.ck := rfl
@[simp] theorem State.emit_sch (s : State) (o : Out) : (s.emit o).sch = s.sch := rfl
@[simp] theorem State.emit_rows (s : State) (o : Out) : (s.emit o).rows = s.rows := rfl
@[simp] theorem State.emit_lps (s : State) (o : Out) : (s.emit o).lps = s.lps := rfl
@[simp] theorem State.emit_ises (s : State) (o : Out) : (s.emit o).ises = s.ises := rfl
@[simp] theorem State.emit_fil (s : State) (o : Out) : (s.emit o).fil = s.fil := rfl
@[simp] theorem State.emit_hm (s : State) (o : Out) : (s.emit o).hm = s.hm := rfl
@[simp] theorem State.emit_fab (s : State) (o : Out) : (s.emit o).fab = s.fab := rfl
@[simp] theorem State.emit_flt (s : State) (o : Out) : (s.emit o).flt = s.flt := rfl
@[simp] theorem State.emit_io (s : State) (o : Out) : (s.emit o).io = s.io := rfl
@[simp] theorem State.emit_free (s : State) (o : Out) : (s.emit o).free = s.free := rfl
@[simp] theorem State.emit_pending (s : State) (o : Out) : (s.emit o).pending = s.pending := rfl
@[simp] theorem State.emit_word (s : State) (o : Out) (page off : Nat) : (s.emit o).word page off = s.word page off := rfl
@[simp] theorem State.emit_rd (s : State) (o : Out) (ref : FRef) : (s.emit o).rd ref = s.rd ref := rfl
@[simp] theorem State.emit_on (s : State) (o : Out) (ref : FRef) : (s.emit o).on ref = s.on ref := rfl
@[simp] theorem State.emit_bst (s : State) (o : Out) (page : Nat) : (s.emit o).bst page = s.bst page := rfl

/-! ### `hostAsk` -/

@[simp] theorem State.hostAsk_part (s : State) (f a n : Nat) : (s.hostAsk f a n).part = s.part := rfl
@[simp] theorem State.hostAsk_tick (s : State) (f a n : Nat) : (s.hostAsk f a n).tick = s.tick := rfl
@[simp] theorem State.hostAsk_regs (s : State) (f a n : Nat) : (s.hostAsk f a n).regs = s.regs := rfl
@[simp] theorem State.hostAsk_blocks (s : State) (f a n : Nat) : (s.hostAsk f a n).blocks = s.blocks := rfl
@[simp] theorem State.hostAsk_bus (s : State) (f a n : Nat) : (s.hostAsk f a n).bus = s.bus := rfl
@[simp] theorem State.hostAsk_evt (s : State) (f a n : Nat) : (s.hostAsk f a n).evt = s.evt := rfl
@[simp] theorem State.hostAsk_pwr (s : State) (f a n : Nat) : (s.hostAsk f a n).pwr = s.pwr := rfl
@[simp] theorem State.hostAsk_boot (s : State) (f a n : Nat) : (s.hostAsk f a n).boot = s.boot := rfl
@[simp] theorem State.hostAsk_links (s : State) (f a n : Nat) : (s.hostAsk f a n).links = s.links := rfl
@[simp] theorem State.hostAsk_guest (s : State) (f a n : Nat) : (s.hostAsk f a n).guest = s.guest := rfl
@[simp] theorem State.hostAsk_mem (s : State) (f a n : Nat) : (s.hostAsk f a n).mem = s.mem := rfl
@[simp] theorem State.hostAsk_ck (s : State) (f a n : Nat) : (s.hostAsk f a n).ck = s.ck := rfl
@[simp] theorem State.hostAsk_sch (s : State) (f a n : Nat) : (s.hostAsk f a n).sch = s.sch := rfl
@[simp] theorem State.hostAsk_rows (s : State) (f a n : Nat) : (s.hostAsk f a n).rows = s.rows := rfl
@[simp] theorem State.hostAsk_lps (s : State) (f a n : Nat) : (s.hostAsk f a n).lps = s.lps := rfl
@[simp] theorem State.hostAsk_ises (s : State) (f a n : Nat) : (s.hostAsk f a n).ises = s.ises := rfl
@[simp] theorem State.hostAsk_fil (s : State) (f a n : Nat) : (s.hostAsk f a n).fil = s.fil := rfl
@[simp] theorem State.hostAsk_hm (s : State) (f a n : Nat) : (s.hostAsk f a n).hm = s.hm := rfl
@[simp] theorem State.hostAsk_fab (s : State) (f a n : Nat) : (s.hostAsk f a n).fab = s.fab := rfl
@[simp] theorem State.hostAsk_flt (s : State) (f a n : Nat) : (s.hostAsk f a n).flt = s.flt := rfl
@[simp] theorem State.hostAsk_io (s : State) (f a n : Nat) : (s.hostAsk f a n).io = s.io := rfl
@[simp] theorem State.hostAsk_free (s : State) (f a n : Nat) : (s.hostAsk f a n).free = s.free := rfl
@[simp] theorem State.hostAsk_pending (s : State) (f a n : Nat) : (s.hostAsk f a n).pending = s.pending := rfl
@[simp] theorem State.hostAsk_word (s : State) (f a n : Nat) (page off : Nat) : (s.hostAsk f a n).word page off = s.word page off := rfl
@[simp] theorem State.hostAsk_rd (s : State) (f a n : Nat) (ref : FRef) : (s.hostAsk f a n).rd ref = s.rd ref := rfl
@[simp] theorem State.hostAsk_on (s : State) (f a n : Nat) (ref : FRef) : (s.hostAsk f a n).on ref = s.on ref := rfl
@[simp] theorem State.hostAsk_bst (s : State) (f a n : Nat) (page : Nat) : (s.hostAsk f a n).bst page = s.bst page := rfl

/-! ### `fire` -/

@[simp] theorem State.fire_part (s : State) (i d : Nat) : (s.fire i d).part = s.part := rfl
@[simp] theorem State.fire_tick (s : State) (i d : Nat) : (s.fire i d).tick = s.tick := rfl
@[simp] theorem State.fire_regs (s : State) (i d : Nat) : (s.fire i d).regs = s.regs := rfl
@[simp] theorem State.fire_blocks (s : State) (i d : Nat) : (s.fire i d).blocks = s.blocks := rfl
@[simp] theorem State.fire_bus (s : State) (i d : Nat) : (s.fire i d).bus = s.bus := rfl
@[simp] theorem State.fire_pwr (s : State) (i d : Nat) : (s.fire i d).pwr = s.pwr := rfl
@[simp] theorem State.fire_boot (s : State) (i d : Nat) : (s.fire i d).boot = s.boot := rfl
@[simp] theorem State.fire_links (s : State) (i d : Nat) : (s.fire i d).links = s.links := rfl
@[simp] theorem State.fire_guest (s : State) (i d : Nat) : (s.fire i d).guest = s.guest := rfl
@[simp] theorem State.fire_mem (s : State) (i d : Nat) : (s.fire i d).mem = s.mem := rfl
@[simp] theorem State.fire_ck (s : State) (i d : Nat) : (s.fire i d).ck = s.ck := rfl
@[simp] theorem State.fire_sch (s : State) (i d : Nat) : (s.fire i d).sch = s.sch := rfl
@[simp] theorem State.fire_rows (s : State) (i d : Nat) : (s.fire i d).rows = s.rows := rfl
@[simp] theorem State.fire_lps (s : State) (i d : Nat) : (s.fire i d).lps = s.lps := rfl
@[simp] theorem State.fire_ises (s : State) (i d : Nat) : (s.fire i d).ises = s.ises := rfl
@[simp] theorem State.fire_fil (s : State) (i d : Nat) : (s.fire i d).fil = s.fil := rfl
@[simp] theorem State.fire_hm (s : State) (i d : Nat) : (s.fire i d).hm = s.hm := rfl
@[simp] theorem State.fire_fab (s : State) (i d : Nat) : (s.fire i d).fab = s.fab := rfl
@[simp] theorem State.fire_flt (s : State) (i d : Nat) : (s.fire i d).flt = s.flt := rfl
@[simp] theorem State.fire_io (s : State) (i d : Nat) : (s.fire i d).io = s.io := rfl
@[simp] theorem State.fire_out (s : State) (i d : Nat) : (s.fire i d).out = s.out := rfl
@[simp] theorem State.fire_free (s : State) (i d : Nat) : (s.fire i d).free = s.free := rfl
@[simp] theorem State.fire_pending (s : State) (i d : Nat) : (s.fire i d).pending = s.pending := rfl
@[simp] theorem State.fire_word (s : State) (i d : Nat) (page off : Nat) : (s.fire i d).word page off = s.word page off := rfl
@[simp] theorem State.fire_rd (s : State) (i d : Nat) (ref : FRef) : (s.fire i d).rd ref = s.rd ref := rfl
@[simp] theorem State.fire_on (s : State) (i d : Nat) (ref : FRef) : (s.fire i d).on ref = s.on ref := rfl
@[simp] theorem State.fire_bst (s : State) (i d : Nat) (page : Nat) : (s.fire i d).bst page = s.bst page := rfl

/-! ### `setBlk` -/

@[simp] theorem State.setBlk_part (s : State) (p : Nat) (b : Block) : (s.setBlk p b).part = s.part := rfl
@[simp] theorem State.setBlk_tick (s : State) (p : Nat) (b : Block) : (s.setBlk p b).tick = s.tick := rfl
@[simp] theorem State.setBlk_regs (s : State) (p : Nat) (b : Block) : (s.setBlk p b).regs = s.regs := rfl
@[simp] theorem State.setBlk_bus (s : State) (p : Nat) (b : Block) : (s.setBlk p b).bus = s.bus := rfl
@[simp] theorem State.setBlk_evt (s : State) (p : Nat) (b : Block) : (s.setBlk p b).evt = s.evt := rfl
@[simp] theorem State.setBlk_pwr (s : State) (p : Nat) (b : Block) : (s.setBlk p b).pwr = s.pwr := rfl
@[simp] theorem State.setBlk_boot (s : State) (p : Nat) (b : Block) : (s.setBlk p b).boot = s.boot := rfl
@[simp] theorem State.setBlk_links (s : State) (p : Nat) (b : Block) : (s.setBlk p b).links = s.links := rfl
@[simp] theorem State.setBlk_guest (s : State) (p : Nat) (b : Block) : (s.setBlk p b).guest = s.guest := rfl
@[simp] theorem State.setBlk_mem (s : State) (p : Nat) (b : Block) : (s.setBlk p b).mem = s.mem := rfl
@[simp] theorem State.setBlk_ck (s : State) (p : Nat) (b : Block) : (s.setBlk p b).ck = s.ck := rfl
@[simp] theorem State.setBlk_sch (s : State) (p : Nat) (b : Block) : (s.setBlk p b).sch = s.sch := rfl
@[simp] theorem State.setBlk_rows (s : State) (p : Nat) (b : Block) : (s.setBlk p b).rows = s.rows := rfl
@[simp] theorem State.setBlk_lps (s : State) (p : Nat) (b : Block) : (s.setBlk p b).lps = s.lps := rfl
@[simp] theorem State.setBlk_ises (s : State) (p : Nat) (b : Block) : (s.setBlk p b).ises = s.ises := rfl
@[simp] theorem State.setBlk_fil (s : State) (p : Nat) (b : Block) : (s.setBlk p b).fil = s.fil := rfl
@[simp] theorem State.setBlk_hm (s : State) (p : Nat) (b : Block) : (s.setBlk p b).hm = s.hm := rfl
@[simp] theorem State.setBlk_fab (s : State) (p : Nat) (b : Block) : (s.setBlk p b).fab = s.fab := rfl
@[simp] theorem State.setBlk_flt (s : State) (p : Nat) (b : Block) : (s.setBlk p b).flt = s.flt := rfl
@[simp] theorem State.setBlk_io (s : State) (p : Nat) (b : Block) : (s.setBlk p b).io = s.io := rfl
@[simp] theorem State.setBlk_out (s : State) (p : Nat) (b : Block) : (s.setBlk p b).out = s.out := rfl
@[simp] theorem State.setBlk_free (s : State) (p : Nat) (b : Block) : (s.setBlk p b).free = s.free := rfl
@[simp] theorem State.setBlk_pending (s : State) (p : Nat) (b : Block) : (s.setBlk p b).pending = s.pending := rfl
@[simp] theorem State.setBlk_word (s : State) (p : Nat) (b : Block) (page off : Nat) : (s.setBlk p b).word page off = s.word page off := rfl
@[simp] theorem State.setBlk_rd (s : State) (p : Nat) (b : Block) (ref : FRef) : (s.setBlk p b).rd ref = s.rd ref := rfl
@[simp] theorem State.setBlk_on (s : State) (p : Nat) (b : Block) (ref : FRef) : (s.setBlk p b).on ref = s.on ref := rfl

/-! ### `dpaWrite` -/

@[simp] theorem State.dpaWrite_part (s : State) (a : Nat) (l : List Byte) : (s.dpaWrite a l).part = s.part := rfl
@[simp] theorem State.dpaWrite_tick (s : State) (a : Nat) (l : List Byte) : (s.dpaWrite a l).tick = s.tick := rfl
@[simp] theorem State.dpaWrite_regs (s : State) (a : Nat) (l : List Byte) : (s.dpaWrite a l).regs = s.regs := rfl
@[simp] theorem State.dpaWrite_blocks (s : State) (a : Nat) (l : List Byte) : (s.dpaWrite a l).blocks = s.blocks := rfl
@[simp] theorem State.dpaWrite_bus (s : State) (a : Nat) (l : List Byte) : (s.dpaWrite a l).bus = s.bus := rfl
@[simp] theorem State.dpaWrite_evt (s : State) (a : Nat) (l : List Byte) : (s.dpaWrite a l).evt = s.evt := rfl
@[simp] theorem State.dpaWrite_pwr (s : State) (a : Nat) (l : List Byte) : (s.dpaWrite a l).pwr = s.pwr := rfl
@[simp] theorem State.dpaWrite_boot (s : State) (a : Nat) (l : List Byte) : (s.dpaWrite a l).boot = s.boot := rfl
@[simp] theorem State.dpaWrite_links (s : State) (a : Nat) (l : List Byte) : (s.dpaWrite a l).links = s.links := rfl
@[simp] theorem State.dpaWrite_guest (s : State) (a : Nat) (l : List Byte) : (s.dpaWrite a l).guest = s.guest := rfl
@[simp] theorem State.dpaWrite_ck (s : State) (a : Nat) (l : List Byte) : (s.dpaWrite a l).ck = s.ck := rfl
@[simp] theorem State.dpaWrite_sch (s : State) (a : Nat) (l : List Byte) : (s.dpaWrite a l).sch = s.sch := rfl
@[simp] theorem State.dpaWrite_rows (s : State) (a : Nat) (l : List Byte) : (s.dpaWrite a l).rows = s.rows := rfl
@[simp] theorem State.dpaWrite_lps (s : State) (a : Nat) (l : List Byte) : (s.dpaWrite a l).lps = s.lps := rfl
@[simp] theorem State.dpaWrite_ises (s : State) (a : Nat) (l : List Byte) : (s.dpaWrite a l).ises = s.ises := rfl
@[simp] theorem State.dpaWrite_fil (s : State) (a : Nat) (l : List Byte) : (s.dpaWrite a l).fil = s.fil := rfl
@[simp] theorem State.dpaWrite_hm (s : State) (a : Nat) (l : List Byte) : (s.dpaWrite a l).hm = s.hm := rfl
@[simp] theorem State.dpaWrite_fab (s : State) (a : Nat) (l : List Byte) : (s.dpaWrite a l).fab = s.fab := rfl
@[simp] theorem State.dpaWrite_flt (s : State) (a : Nat) (l : List Byte) : (s.dpaWrite a l).flt = s.flt := rfl
@[simp] theorem State.dpaWrite_io (s : State) (a : Nat) (l : List Byte) : (s.dpaWrite a l).io = s.io := rfl
@[simp] theorem State.dpaWrite_out (s : State) (a : Nat) (l : List Byte) : (s.dpaWrite a l).out = s.out := rfl
@[simp] theorem State.dpaWrite_free (s : State) (a : Nat) (l : List Byte) : (s.dpaWrite a l).free = s.free := rfl
@[simp] theorem State.dpaWrite_pending (s : State) (a : Nat) (l : List Byte) : (s.dpaWrite a l).pending = s.pending := rfl
@[simp] theorem State.dpaWrite_word (s : State) (a : Nat) (l : List Byte) (page off : Nat) : (s.dpaWrite a l).word page off = s.word page off := rfl
@[simp] theorem State.dpaWrite_rd (s : State) (a : Nat) (l : List Byte) (ref : FRef) : (s.dpaWrite a l).rd ref = s.rd ref := rfl
@[simp] theorem State.dpaWrite_on (s : State) (a : Nat) (l : List Byte) (ref : FRef) : (s.dpaWrite a l).on ref = s.on ref := rfl
@[simp] theorem State.dpaWrite_bst (s : State) (a : Nat) (l : List Byte) (page : Nat) : (s.dpaWrite a l).bst page = s.bst page := rfl

/-! ### `dpaClear` -/

@[simp] theorem State.dpaClear_part (s : State) (a n : Nat) : (s.dpaClear a n).part = s.part := rfl
@[simp] theorem State.dpaClear_tick (s : State) (a n : Nat) : (s.dpaClear a n).tick = s.tick := rfl
@[simp] theorem State.dpaClear_regs (s : State) (a n : Nat) : (s.dpaClear a n).regs = s.regs := rfl
@[simp] theorem State.dpaClear_blocks (s : State) (a n : Nat) : (s.dpaClear a n).blocks = s.blocks := rfl
@[simp] theorem State.dpaClear_bus (s : State) (a n : Nat) : (s.dpaClear a n).bus = s.bus := rfl
@[simp] theorem State.dpaClear_evt (s : State) (a n : Nat) : (s.dpaClear a n).evt = s.evt := rfl
@[simp] theorem State.dpaClear_pwr (s : State) (a n : Nat) : (s.dpaClear a n).pwr = s.pwr := rfl
@[simp] theorem State.dpaClear_boot (s : State) (a n : Nat) : (s.dpaClear a n).boot = s.boot := rfl
@[simp] theorem State.dpaClear_links (s : State) (a n : Nat) : (s.dpaClear a n).links = s.links := rfl
@[simp] theorem State.dpaClear_guest (s : State) (a n : Nat) : (s.dpaClear a n).guest = s.guest := rfl
@[simp] theorem State.dpaClear_ck (s : State) (a n : Nat) : (s.dpaClear a n).ck = s.ck := rfl
@[simp] theorem State.dpaClear_sch (s : State) (a n : Nat) : (s.dpaClear a n).sch = s.sch := rfl
@[simp] theorem State.dpaClear_rows (s : State) (a n : Nat) : (s.dpaClear a n).rows = s.rows := rfl
@[simp] theorem State.dpaClear_lps (s : State) (a n : Nat) : (s.dpaClear a n).lps = s.lps := rfl
@[simp] theorem State.dpaClear_ises (s : State) (a n : Nat) : (s.dpaClear a n).ises = s.ises := rfl
@[simp] theorem State.dpaClear_fil (s : State) (a n : Nat) : (s.dpaClear a n).fil = s.fil := rfl
@[simp] theorem State.dpaClear_hm (s : State) (a n : Nat) : (s.dpaClear a n).hm = s.hm := rfl
@[simp] theorem State.dpaClear_fab (s : State) (a n : Nat) : (s.dpaClear a n).fab = s.fab := rfl
@[simp] theorem State.dpaClear_flt (s : State) (a n : Nat) : (s.dpaClear a n).flt = s.flt := rfl
@[simp] theorem State.dpaClear_io (s : State) (a n : Nat) : (s.dpaClear a n).io = s.io := rfl
@[simp] theorem State.dpaClear_out (s : State) (a n : Nat) : (s.dpaClear a n).out = s.out := rfl
@[simp] theorem State.dpaClear_free (s : State) (a n : Nat) : (s.dpaClear a n).free = s.free := rfl
@[simp] theorem State.dpaClear_pending (s : State) (a n : Nat) : (s.dpaClear a n).pending = s.pending := rfl
@[simp] theorem State.dpaClear_word (s : State) (a n : Nat) (page off : Nat) : (s.dpaClear a n).word page off = s.word page off := rfl
@[simp] theorem State.dpaClear_rd (s : State) (a n : Nat) (ref : FRef) : (s.dpaClear a n).rd ref = s.rd ref := rfl
@[simp] theorem State.dpaClear_on (s : State) (a n : Nat) (ref : FRef) : (s.dpaClear a n).on ref = s.on ref := rfl
@[simp] theorem State.dpaClear_bst (s : State) (a n : Nat) (page : Nat) : (s.dpaClear a n).bst page = s.bst page := rfl

/-! ### `hostWrite` -/

@[simp] theorem State.hostWrite_part (s : State) (f a : Nat) (l : List Byte) : (s.hostWrite f a l).part = s.part := rfl
@[simp] theorem State.hostWrite_tick (s : State) (f a : Nat) (l : List Byte) : (s.hostWrite f a l).tick = s.tick := rfl
@[simp] theorem State.hostWrite_regs (s : State) (f a : Nat) (l : List Byte) : (s.hostWrite f a l).regs = s.regs := rfl
@[simp] theorem State.hostWrite_blocks (s : State) (f a : Nat) (l : List Byte) : (s.hostWrite f a l).blocks = s.blocks := rfl
@[simp] theorem State.hostWrite_bus (s : State) (f a : Nat) (l : List Byte) : (s.hostWrite f a l).bus = s.bus := rfl
@[simp] theorem State.hostWrite_evt (s : State) (f a : Nat) (l : List Byte) : (s.hostWrite f a l).evt = s.evt := rfl
@[simp] theorem State.hostWrite_pwr (s : State) (f a : Nat) (l : List Byte) : (s.hostWrite f a l).pwr = s.pwr := rfl
@[simp] theorem State.hostWrite_boot (s : State) (f a : Nat) (l : List Byte) : (s.hostWrite f a l).boot = s.boot := rfl
@[simp] theorem State.hostWrite_links (s : State) (f a : Nat) (l : List Byte) : (s.hostWrite f a l).links = s.links := rfl
@[simp] theorem State.hostWrite_guest (s : State) (f a : Nat) (l : List Byte) : (s.hostWrite f a l).guest = s.guest := rfl
@[simp] theorem State.hostWrite_ck (s : State) (f a : Nat) (l : List Byte) : (s.hostWrite f a l).ck = s.ck := rfl
@[simp] theorem State.hostWrite_sch (s : State) (f a : Nat) (l : List Byte) : (s.hostWrite f a l).sch = s.sch := rfl
@[simp] theorem State.hostWrite_rows (s : State) (f a : Nat) (l : List Byte) : (s.hostWrite f a l).rows = s.rows := rfl
@[simp] theorem State.hostWrite_lps (s : State) (f a : Nat) (l : List Byte) : (s.hostWrite f a l).lps = s.lps := rfl
@[simp] theorem State.hostWrite_ises (s : State) (f a : Nat) (l : List Byte) : (s.hostWrite f a l).ises = s.ises := rfl
@[simp] theorem State.hostWrite_fil (s : State) (f a : Nat) (l : List Byte) : (s.hostWrite f a l).fil = s.fil := rfl
@[simp] theorem State.hostWrite_hm (s : State) (f a : Nat) (l : List Byte) : (s.hostWrite f a l).hm = s.hm := rfl
@[simp] theorem State.hostWrite_fab (s : State) (f a : Nat) (l : List Byte) : (s.hostWrite f a l).fab = s.fab := rfl
@[simp] theorem State.hostWrite_flt (s : State) (f a : Nat) (l : List Byte) : (s.hostWrite f a l).flt = s.flt := rfl
@[simp] theorem State.hostWrite_io (s : State) (f a : Nat) (l : List Byte) : (s.hostWrite f a l).io = s.io := rfl
@[simp] theorem State.hostWrite_free (s : State) (f a : Nat) (l : List Byte) : (s.hostWrite f a l).free = s.free := rfl
@[simp] theorem State.hostWrite_pending (s : State) (f a : Nat) (l : List Byte) : (s.hostWrite f a l).pending = s.pending := rfl
@[simp] theorem State.hostWrite_word (s : State) (f a : Nat) (l : List Byte) (page off : Nat) : (s.hostWrite f a l).word page off = s.word page off := rfl
@[simp] theorem State.hostWrite_rd (s : State) (f a : Nat) (l : List Byte) (ref : FRef) : (s.hostWrite f a l).rd ref = s.rd ref := rfl
@[simp] theorem State.hostWrite_on (s : State) (f a : Nat) (l : List Byte) (ref : FRef) : (s.hostWrite f a l).on ref = s.on ref := rfl
@[simp] theorem State.hostWrite_bst (s : State) (f a : Nat) (l : List Byte) (page : Nat) : (s.hostWrite f a l).bst page = s.bst page := rfl

/-! ### `nvmeWrite` -/

@[simp] theorem State.nvmeWrite_part (s : State) (a : Nat) (l : List Byte) : (s.nvmeWrite a l).part = s.part := rfl
@[simp] theorem State.nvmeWrite_tick (s : State) (a : Nat) (l : List Byte) : (s.nvmeWrite a l).tick = s.tick := rfl
@[simp] theorem State.nvmeWrite_regs (s : State) (a : Nat) (l : List Byte) : (s.nvmeWrite a l).regs = s.regs := rfl
@[simp] theorem State.nvmeWrite_blocks (s : State) (a : Nat) (l : List Byte) : (s.nvmeWrite a l).blocks = s.blocks := rfl
@[simp] theorem State.nvmeWrite_bus (s : State) (a : Nat) (l : List Byte) : (s.nvmeWrite a l).bus = s.bus := rfl
@[simp] theorem State.nvmeWrite_evt (s : State) (a : Nat) (l : List Byte) : (s.nvmeWrite a l).evt = s.evt := rfl
@[simp] theorem State.nvmeWrite_pwr (s : State) (a : Nat) (l : List Byte) : (s.nvmeWrite a l).pwr = s.pwr := rfl
@[simp] theorem State.nvmeWrite_boot (s : State) (a : Nat) (l : List Byte) : (s.nvmeWrite a l).boot = s.boot := rfl
@[simp] theorem State.nvmeWrite_links (s : State) (a : Nat) (l : List Byte) : (s.nvmeWrite a l).links = s.links := rfl
@[simp] theorem State.nvmeWrite_guest (s : State) (a : Nat) (l : List Byte) : (s.nvmeWrite a l).guest = s.guest := rfl
@[simp] theorem State.nvmeWrite_ck (s : State) (a : Nat) (l : List Byte) : (s.nvmeWrite a l).ck = s.ck := rfl
@[simp] theorem State.nvmeWrite_sch (s : State) (a : Nat) (l : List Byte) : (s.nvmeWrite a l).sch = s.sch := rfl
@[simp] theorem State.nvmeWrite_rows (s : State) (a : Nat) (l : List Byte) : (s.nvmeWrite a l).rows = s.rows := rfl
@[simp] theorem State.nvmeWrite_lps (s : State) (a : Nat) (l : List Byte) : (s.nvmeWrite a l).lps = s.lps := rfl
@[simp] theorem State.nvmeWrite_ises (s : State) (a : Nat) (l : List Byte) : (s.nvmeWrite a l).ises = s.ises := rfl
@[simp] theorem State.nvmeWrite_fil (s : State) (a : Nat) (l : List Byte) : (s.nvmeWrite a l).fil = s.fil := rfl
@[simp] theorem State.nvmeWrite_hm (s : State) (a : Nat) (l : List Byte) : (s.nvmeWrite a l).hm = s.hm := rfl
@[simp] theorem State.nvmeWrite_fab (s : State) (a : Nat) (l : List Byte) : (s.nvmeWrite a l).fab = s.fab := rfl
@[simp] theorem State.nvmeWrite_flt (s : State) (a : Nat) (l : List Byte) : (s.nvmeWrite a l).flt = s.flt := rfl
@[simp] theorem State.nvmeWrite_io (s : State) (a : Nat) (l : List Byte) : (s.nvmeWrite a l).io = s.io := rfl
@[simp] theorem State.nvmeWrite_out (s : State) (a : Nat) (l : List Byte) : (s.nvmeWrite a l).out = s.out := rfl
@[simp] theorem State.nvmeWrite_free (s : State) (a : Nat) (l : List Byte) : (s.nvmeWrite a l).free = s.free := rfl
@[simp] theorem State.nvmeWrite_pending (s : State) (a : Nat) (l : List Byte) : (s.nvmeWrite a l).pending = s.pending := rfl
@[simp] theorem State.nvmeWrite_word (s : State) (a : Nat) (l : List Byte) (page off : Nat) : (s.nvmeWrite a l).word page off = s.word page off := rfl
@[simp] theorem State.nvmeWrite_rd (s : State) (a : Nat) (l : List Byte) (ref : FRef) : (s.nvmeWrite a l).rd ref = s.rd ref := rfl
@[simp] theorem State.nvmeWrite_on (s : State) (a : Nat) (l : List Byte) (ref : FRef) : (s.nvmeWrite a l).on ref = s.on ref := rfl
@[simp] theorem State.nvmeWrite_bst (s : State) (a : Nat) (l : List Byte) (page : Nat) : (s.nvmeWrite a l).bst page = s.bst page := rfl

/-! ### `flashWrite` -/

@[simp] theorem State.flashWrite_part (s : State) (a : Nat) (l : List Byte) : (s.flashWrite a l).part = s.part := rfl
@[simp] theorem State.flashWrite_tick (s : State) (a : Nat) (l : List Byte) : (s.flashWrite a l).tick = s.tick := rfl
@[simp] theorem State.flashWrite_regs (s : State) (a : Nat) (l : List Byte) : (s.flashWrite a l).regs = s.regs := rfl
@[simp] theorem State.flashWrite_blocks (s : State) (a : Nat) (l : List Byte) : (s.flashWrite a l).blocks = s.blocks := rfl
@[simp] theorem State.flashWrite_bus (s : State) (a : Nat) (l : List Byte) : (s.flashWrite a l).bus = s.bus := rfl
@[simp] theorem State.flashWrite_evt (s : State) (a : Nat) (l : List Byte) : (s.flashWrite a l).evt = s.evt := rfl
@[simp] theorem State.flashWrite_pwr (s : State) (a : Nat) (l : List Byte) : (s.flashWrite a l).pwr = s.pwr := rfl
@[simp] theorem State.flashWrite_boot (s : State) (a : Nat) (l : List Byte) : (s.flashWrite a l).boot = s.boot := rfl
@[simp] theorem State.flashWrite_links (s : State) (a : Nat) (l : List Byte) : (s.flashWrite a l).links = s.links := rfl
@[simp] theorem State.flashWrite_guest (s : State) (a : Nat) (l : List Byte) : (s.flashWrite a l).guest = s.guest := rfl
@[simp] theorem State.flashWrite_ck (s : State) (a : Nat) (l : List Byte) : (s.flashWrite a l).ck = s.ck := rfl
@[simp] theorem State.flashWrite_sch (s : State) (a : Nat) (l : List Byte) : (s.flashWrite a l).sch = s.sch := rfl
@[simp] theorem State.flashWrite_rows (s : State) (a : Nat) (l : List Byte) : (s.flashWrite a l).rows = s.rows := rfl
@[simp] theorem State.flashWrite_lps (s : State) (a : Nat) (l : List Byte) : (s.flashWrite a l).lps = s.lps := rfl
@[simp] theorem State.flashWrite_ises (s : State) (a : Nat) (l : List Byte) : (s.flashWrite a l).ises = s.ises := rfl
@[simp] theorem State.flashWrite_fil (s : State) (a : Nat) (l : List Byte) : (s.flashWrite a l).fil = s.fil := rfl
@[simp] theorem State.flashWrite_hm (s : State) (a : Nat) (l : List Byte) : (s.flashWrite a l).hm = s.hm := rfl
@[simp] theorem State.flashWrite_fab (s : State) (a : Nat) (l : List Byte) : (s.flashWrite a l).fab = s.fab := rfl
@[simp] theorem State.flashWrite_flt (s : State) (a : Nat) (l : List Byte) : (s.flashWrite a l).flt = s.flt := rfl
@[simp] theorem State.flashWrite_io (s : State) (a : Nat) (l : List Byte) : (s.flashWrite a l).io = s.io := rfl
@[simp] theorem State.flashWrite_out (s : State) (a : Nat) (l : List Byte) : (s.flashWrite a l).out = s.out := rfl
@[simp] theorem State.flashWrite_free (s : State) (a : Nat) (l : List Byte) : (s.flashWrite a l).free = s.free := rfl
@[simp] theorem State.flashWrite_pending (s : State) (a : Nat) (l : List Byte) : (s.flashWrite a l).pending = s.pending := rfl
@[simp] theorem State.flashWrite_word (s : State) (a : Nat) (l : List Byte) (page off : Nat) : (s.flashWrite a l).word page off = s.word page off := rfl
@[simp] theorem State.flashWrite_rd (s : State) (a : Nat) (l : List Byte) (ref : FRef) : (s.flashWrite a l).rd ref = s.rd ref := rfl
@[simp] theorem State.flashWrite_on (s : State) (a : Nat) (l : List Byte) (ref : FRef) : (s.flashWrite a l).on ref = s.on ref := rfl
@[simp] theorem State.flashWrite_bst (s : State) (a : Nat) (l : List Byte) (page : Nat) : (s.flashWrite a l).bst page = s.bst page := rfl

/-! ### `setFil` -/

@[simp] theorem State.setFil_part (f : Fil) (s : State) : (s.setFil f).part = s.part := rfl
@[simp] theorem State.setFil_tick (f : Fil) (s : State) : (s.setFil f).tick = s.tick := rfl
@[simp] theorem State.setFil_regs (f : Fil) (s : State) : (s.setFil f).regs = s.regs := rfl
@[simp] theorem State.setFil_blocks (f : Fil) (s : State) : (s.setFil f).blocks = s.blocks := rfl
@[simp] theorem State.setFil_bus (f : Fil) (s : State) : (s.setFil f).bus = s.bus := rfl
@[simp] theorem State.setFil_evt (f : Fil) (s : State) : (s.setFil f).evt = s.evt := rfl
@[simp] theorem State.setFil_pwr (f : Fil) (s : State) : (s.setFil f).pwr = s.pwr := rfl
@[simp] theorem State.setFil_boot (f : Fil) (s : State) : (s.setFil f).boot = s.boot := rfl
@[simp] theorem State.setFil_links (f : Fil) (s : State) : (s.setFil f).links = s.links := rfl
@[simp] theorem State.setFil_guest (f : Fil) (s : State) : (s.setFil f).guest = s.guest := rfl
@[simp] theorem State.setFil_mem (f : Fil) (s : State) : (s.setFil f).mem = s.mem := rfl
@[simp] theorem State.setFil_ck (f : Fil) (s : State) : (s.setFil f).ck = s.ck := rfl
@[simp] theorem State.setFil_sch (f : Fil) (s : State) : (s.setFil f).sch = s.sch := rfl
@[simp] theorem State.setFil_rows (f : Fil) (s : State) : (s.setFil f).rows = s.rows := rfl
@[simp] theorem State.setFil_lps (f : Fil) (s : State) : (s.setFil f).lps = s.lps := rfl
@[simp] theorem State.setFil_ises (f : Fil) (s : State) : (s.setFil f).ises = s.ises := rfl
@[simp] theorem State.setFil_hm (f : Fil) (s : State) : (s.setFil f).hm = s.hm := rfl
@[simp] theorem State.setFil_fab (f : Fil) (s : State) : (s.setFil f).fab = s.fab := rfl
@[simp] theorem State.setFil_flt (f : Fil) (s : State) : (s.setFil f).flt = s.flt := rfl
@[simp] theorem State.setFil_io (f : Fil) (s : State) : (s.setFil f).io = s.io := rfl
@[simp] theorem State.setFil_out (f : Fil) (s : State) : (s.setFil f).out = s.out := rfl
@[simp] theorem State.setFil_free (f : Fil) (s : State) : (s.setFil f).free = s.free := rfl
@[simp] theorem State.setFil_pending (f : Fil) (s : State) : (s.setFil f).pending = s.pending := rfl
@[simp] theorem State.setFil_fil (f : Fil) (s : State) : (s.setFil f).fil = f := rfl
@[simp] theorem State.setFil_word (f : Fil) (s : State) (page off : Nat) : (s.setFil f).word page off = s.word page off := rfl
@[simp] theorem State.setFil_rd (f : Fil) (s : State) (ref : FRef) : (s.setFil f).rd ref = s.rd ref := rfl
@[simp] theorem State.setFil_on (f : Fil) (s : State) (ref : FRef) : (s.setFil f).on ref = s.on ref := rfl
@[simp] theorem State.setFil_bst (f : Fil) (s : State) (page : Nat) : (s.setFil f).bst page = s.bst page := rfl

/-! ### `setHm` -/

@[simp] theorem State.setHm_part (h : Hm) (s : State) : (s.setHm h).part = s.part := rfl
@[simp] theorem State.setHm_tick (h : Hm) (s : State) : (s.setHm h).tick = s.tick := rfl
@[simp] theorem State.setHm_regs (h : Hm) (s : State) : (s.setHm h).regs = s.regs := rfl
@[simp] theorem State.setHm_blocks (h : Hm) (s : State) : (s.setHm h).blocks = s.blocks := rfl
@[simp] theorem State.setHm_bus (h : Hm) (s : State) : (s.setHm h).bus = s.bus := rfl
@[simp] theorem State.setHm_evt (h : Hm) (s : State) : (s.setHm h).evt = s.evt := rfl
@[simp] theorem State.setHm_pwr (h : Hm) (s : State) : (s.setHm h).pwr = s.pwr := rfl
@[simp] theorem State.setHm_boot (h : Hm) (s : State) : (s.setHm h).boot = s.boot := rfl
@[simp] theorem State.setHm_links (h : Hm) (s : State) : (s.setHm h).links = s.links := rfl
@[simp] theorem State.setHm_guest (h : Hm) (s : State) : (s.setHm h).guest = s.guest := rfl
@[simp] theorem State.setHm_mem (h : Hm) (s : State) : (s.setHm h).mem = s.mem := rfl
@[simp] theorem State.setHm_ck (h : Hm) (s : State) : (s.setHm h).ck = s.ck := rfl
@[simp] theorem State.setHm_sch (h : Hm) (s : State) : (s.setHm h).sch = s.sch := rfl
@[simp] theorem State.setHm_rows (h : Hm) (s : State) : (s.setHm h).rows = s.rows := rfl
@[simp] theorem State.setHm_lps (h : Hm) (s : State) : (s.setHm h).lps = s.lps := rfl
@[simp] theorem State.setHm_ises (h : Hm) (s : State) : (s.setHm h).ises = s.ises := rfl
@[simp] theorem State.setHm_fil (h : Hm) (s : State) : (s.setHm h).fil = s.fil := rfl
@[simp] theorem State.setHm_fab (h : Hm) (s : State) : (s.setHm h).fab = s.fab := rfl
@[simp] theorem State.setHm_flt (h : Hm) (s : State) : (s.setHm h).flt = s.flt := rfl
@[simp] theorem State.setHm_io (h : Hm) (s : State) : (s.setHm h).io = s.io := rfl
@[simp] theorem State.setHm_out (h : Hm) (s : State) : (s.setHm h).out = s.out := rfl
@[simp] theorem State.setHm_free (h : Hm) (s : State) : (s.setHm h).free = s.free := rfl
@[simp] theorem State.setHm_pending (h : Hm) (s : State) : (s.setHm h).pending = s.pending := rfl
@[simp] theorem State.setHm_hm (h : Hm) (s : State) : (s.setHm h).hm = h := rfl
@[simp] theorem State.setHm_word (h : Hm) (s : State) (page off : Nat) : (s.setHm h).word page off = s.word page off := rfl
@[simp] theorem State.setHm_rd (h : Hm) (s : State) (ref : FRef) : (s.setHm h).rd ref = s.rd ref := rfl
@[simp] theorem State.setHm_on (h : Hm) (s : State) (ref : FRef) : (s.setHm h).on ref = s.on ref := rfl
@[simp] theorem State.setHm_bst (h : Hm) (s : State) (page : Nat) : (s.setHm h).bst page = s.bst page := rfl

/-! ### `setFlt` -/

@[simp] theorem State.setFlt_part (s : State) (f : Flt) : (s.setFlt f).part = s.part := rfl
@[simp] theorem State.setFlt_tick (s : State) (f : Flt) : (s.setFlt f).tick = s.tick := rfl
@[simp] theorem State.setFlt_regs (s : State) (f : Flt) : (s.setFlt f).regs = s.regs := rfl
@[simp] theorem State.setFlt_blocks (s : State) (f : Flt) : (s.setFlt f).blocks = s.blocks := rfl
@[simp] theorem State.setFlt_bus (s : State) (f : Flt) : (s.setFlt f).bus = s.bus := rfl
@[simp] theorem State.setFlt_evt (s : State) (f : Flt) : (s.setFlt f).evt = s.evt := rfl
@[simp] theorem State.setFlt_pwr (s : State) (f : Flt) : (s.setFlt f).pwr = s.pwr := rfl
@[simp] theorem State.setFlt_boot (s : State) (f : Flt) : (s.setFlt f).boot = s.boot := rfl
@[simp] theorem State.setFlt_links (s : State) (f : Flt) : (s.setFlt f).links = s.links := rfl
@[simp] theorem State.setFlt_guest (s : State) (f : Flt) : (s.setFlt f).guest = s.guest := rfl
@[simp] theorem State.setFlt_mem (s : State) (f : Flt) : (s.setFlt f).mem = s.mem := rfl
@[simp] theorem State.setFlt_ck (s : State) (f : Flt) : (s.setFlt f).ck = s.ck := rfl
@[simp] theorem State.setFlt_sch (s : State) (f : Flt) : (s.setFlt f).sch = s.sch := rfl
@[simp] theorem State.setFlt_rows (s : State) (f : Flt) : (s.setFlt f).rows = s.rows := rfl
@[simp] theorem State.setFlt_lps (s : State) (f : Flt) : (s.setFlt f).lps = s.lps := rfl
@[simp] theorem State.setFlt_ises (s : State) (f : Flt) : (s.setFlt f).ises = s.ises := rfl
@[simp] theorem State.setFlt_fil (s : State) (f : Flt) : (s.setFlt f).fil = s.fil := rfl
@[simp] theorem State.setFlt_hm (s : State) (f : Flt) : (s.setFlt f).hm = s.hm := rfl
@[simp] theorem State.setFlt_fab (s : State) (f : Flt) : (s.setFlt f).fab = s.fab := rfl
@[simp] theorem State.setFlt_io (s : State) (f : Flt) : (s.setFlt f).io = s.io := rfl
@[simp] theorem State.setFlt_out (s : State) (f : Flt) : (s.setFlt f).out = s.out := rfl
@[simp] theorem State.setFlt_free (s : State) (f : Flt) : (s.setFlt f).free = s.free := rfl
@[simp] theorem State.setFlt_pending (s : State) (f : Flt) : (s.setFlt f).pending = s.pending := rfl
@[simp] theorem State.setFlt_flt (s : State) (f : Flt) : (s.setFlt f).flt = f := rfl
@[simp] theorem State.setFlt_word (s : State) (f : Flt) (page off : Nat) : (s.setFlt f).word page off = s.word page off := rfl
@[simp] theorem State.setFlt_rd (s : State) (f : Flt) (ref : FRef) : (s.setFlt f).rd ref = s.rd ref := rfl
@[simp] theorem State.setFlt_on (s : State) (f : Flt) (ref : FRef) : (s.setFlt f).on ref = s.on ref := rfl
@[simp] theorem State.setFlt_bst (s : State) (f : Flt) (page : Nat) : (s.setFlt f).bst page = s.bst page := rfl

/-! ### `setSch` -/

@[simp] theorem State.setSch_part (s : State) (c : Sch) : (s.setSch c).part = s.part := rfl
@[simp] theorem State.setSch_tick (s : State) (c : Sch) : (s.setSch c).tick = s.tick := rfl
@[simp] theorem State.setSch_regs (s : State) (c : Sch) : (s.setSch c).regs = s.regs := rfl
@[simp] theorem State.setSch_blocks (s : State) (c : Sch) : (s.setSch c).blocks = s.blocks := rfl
@[simp] theorem State.setSch_bus (s : State) (c : Sch) : (s.setSch c).bus = s.bus := rfl
@[simp] theorem State.setSch_evt (s : State) (c : Sch) : (s.setSch c).evt = s.evt := rfl
@[simp] theorem State.setSch_pwr (s : State) (c : Sch) : (s.setSch c).pwr = s.pwr := rfl
@[simp] theorem State.setSch_boot (s : State) (c : Sch) : (s.setSch c).boot = s.boot := rfl
@[simp] theorem State.setSch_links (s : State) (c : Sch) : (s.setSch c).links = s.links := rfl
@[simp] theorem State.setSch_guest (s : State) (c : Sch) : (s.setSch c).guest = s.guest := rfl
@[simp] theorem State.setSch_mem (s : State) (c : Sch) : (s.setSch c).mem = s.mem := rfl
@[simp] theorem State.setSch_ck (s : State) (c : Sch) : (s.setSch c).ck = s.ck := rfl
@[simp] theorem State.setSch_rows (s : State) (c : Sch) : (s.setSch c).rows = s.rows := rfl
@[simp] theorem State.setSch_lps (s : State) (c : Sch) : (s.setSch c).lps = s.lps := rfl
@[simp] theorem State.setSch_ises (s : State) (c : Sch) : (s.setSch c).ises = s.ises := rfl
@[simp] theorem State.setSch_fil (s : State) (c : Sch) : (s.setSch c).fil = s.fil := rfl
@[simp] theorem State.setSch_hm (s : State) (c : Sch) : (s.setSch c).hm = s.hm := rfl
@[simp] theorem State.setSch_fab (s : State) (c : Sch) : (s.setSch c).fab = s.fab := rfl
@[simp] theorem State.setSch_flt (s : State) (c : Sch) : (s.setSch c).flt = s.flt := rfl
@[simp] theorem State.setSch_io (s : State) (c : Sch) : (s.setSch c).io = s.io := rfl
@[simp] theorem State.setSch_out (s : State) (c : Sch) : (s.setSch c).out = s.out := rfl
@[simp] theorem State.setSch_free (s : State) (c : Sch) : (s.setSch c).free = s.free := rfl
@[simp] theorem State.setSch_pending (s : State) (c : Sch) : (s.setSch c).pending = s.pending := rfl
@[simp] theorem State.setSch_sch (s : State) (c : Sch) : (s.setSch c).sch = c := rfl
@[simp] theorem State.setSch_word (s : State) (c : Sch) (page off : Nat) : (s.setSch c).word page off = s.word page off := rfl
@[simp] theorem State.setSch_rd (s : State) (c : Sch) (ref : FRef) : (s.setSch c).rd ref = s.rd ref := rfl
@[simp] theorem State.setSch_on (s : State) (c : Sch) (ref : FRef) : (s.setSch c).on ref = s.on ref := rfl
@[simp] theorem State.setSch_bst (s : State) (c : Sch) (page : Nat) : (s.setSch c).bst page = s.bst page := rfl

/-! ### `setLps` -/

@[simp] theorem State.setLps_part (l : Lps) (s : State) : (s.setLps l).part = s.part := rfl
@[simp] theorem State.setLps_tick (l : Lps) (s : State) : (s.setLps l).tick = s.tick := rfl
@[simp] theorem State.setLps_regs (l : Lps) (s : State) : (s.setLps l).regs = s.regs := rfl
@[simp] theorem State.setLps_blocks (l : Lps) (s : State) : (s.setLps l).blocks = s.blocks := rfl
@[simp] theorem State.setLps_bus (l : Lps) (s : State) : (s.setLps l).bus = s.bus := rfl
@[simp] theorem State.setLps_evt (l : Lps) (s : State) : (s.setLps l).evt = s.evt := rfl
@[simp] theorem State.setLps_pwr (l : Lps) (s : State) : (s.setLps l).pwr = s.pwr := rfl
@[simp] theorem State.setLps_boot (l : Lps) (s : State) : (s.setLps l).boot = s.boot := rfl
@[simp] theorem State.setLps_links (l : Lps) (s : State) : (s.setLps l).links = s.links := rfl
@[simp] theorem State.setLps_guest (l : Lps) (s : State) : (s.setLps l).guest = s.guest := rfl
@[simp] theorem State.setLps_mem (l : Lps) (s : State) : (s.setLps l).mem = s.mem := rfl
@[simp] theorem State.setLps_ck (l : Lps) (s : State) : (s.setLps l).ck = s.ck := rfl
@[simp] theorem State.setLps_sch (l : Lps) (s : State) : (s.setLps l).sch = s.sch := rfl
@[simp] theorem State.setLps_rows (l : Lps) (s : State) : (s.setLps l).rows = s.rows := rfl
@[simp] theorem State.setLps_ises (l : Lps) (s : State) : (s.setLps l).ises = s.ises := rfl
@[simp] theorem State.setLps_fil (l : Lps) (s : State) : (s.setLps l).fil = s.fil := rfl
@[simp] theorem State.setLps_hm (l : Lps) (s : State) : (s.setLps l).hm = s.hm := rfl
@[simp] theorem State.setLps_fab (l : Lps) (s : State) : (s.setLps l).fab = s.fab := rfl
@[simp] theorem State.setLps_flt (l : Lps) (s : State) : (s.setLps l).flt = s.flt := rfl
@[simp] theorem State.setLps_io (l : Lps) (s : State) : (s.setLps l).io = s.io := rfl
@[simp] theorem State.setLps_out (l : Lps) (s : State) : (s.setLps l).out = s.out := rfl
@[simp] theorem State.setLps_free (l : Lps) (s : State) : (s.setLps l).free = s.free := rfl
@[simp] theorem State.setLps_pending (l : Lps) (s : State) : (s.setLps l).pending = s.pending := rfl
@[simp] theorem State.setLps_lps (l : Lps) (s : State) : (s.setLps l).lps = l := rfl
@[simp] theorem State.setLps_word (l : Lps) (s : State) (page off : Nat) : (s.setLps l).word page off = s.word page off := rfl
@[simp] theorem State.setLps_rd (l : Lps) (s : State) (ref : FRef) : (s.setLps l).rd ref = s.rd ref := rfl
@[simp] theorem State.setLps_on (l : Lps) (s : State) (ref : FRef) : (s.setLps l).on ref = s.on ref := rfl
@[simp] theorem State.setLps_bst (l : Lps) (s : State) (page : Nat) : (s.setLps l).bst page = s.bst page := rfl

/-! ### `setPwr` -/

@[simp] theorem State.setPwr_part (p : Pwr) (s : State) : (s.setPwr p).part = s.part := rfl
@[simp] theorem State.setPwr_tick (p : Pwr) (s : State) : (s.setPwr p).tick = s.tick := rfl
@[simp] theorem State.setPwr_regs (p : Pwr) (s : State) : (s.setPwr p).regs = s.regs := rfl
@[simp] theorem State.setPwr_blocks (p : Pwr) (s : State) : (s.setPwr p).blocks = s.blocks := rfl
@[simp] theorem State.setPwr_bus (p : Pwr) (s : State) : (s.setPwr p).bus = s.bus := rfl
@[simp] theorem State.setPwr_evt (p : Pwr) (s : State) : (s.setPwr p).evt = s.evt := rfl
@[simp] theorem State.setPwr_boot (p : Pwr) (s : State) : (s.setPwr p).boot = s.boot := rfl
@[simp] theorem State.setPwr_links (p : Pwr) (s : State) : (s.setPwr p).links = s.links := rfl
@[simp] theorem State.setPwr_guest (p : Pwr) (s : State) : (s.setPwr p).guest = s.guest := rfl
@[simp] theorem State.setPwr_mem (p : Pwr) (s : State) : (s.setPwr p).mem = s.mem := rfl
@[simp] theorem State.setPwr_ck (p : Pwr) (s : State) : (s.setPwr p).ck = s.ck := rfl
@[simp] theorem State.setPwr_sch (p : Pwr) (s : State) : (s.setPwr p).sch = s.sch := rfl
@[simp] theorem State.setPwr_rows (p : Pwr) (s : State) : (s.setPwr p).rows = s.rows := rfl
@[simp] theorem State.setPwr_lps (p : Pwr) (s : State) : (s.setPwr p).lps = s.lps := rfl
@[simp] theorem State.setPwr_ises (p : Pwr) (s : State) : (s.setPwr p).ises = s.ises := rfl
@[simp] theorem State.setPwr_fil (p : Pwr) (s : State) : (s.setPwr p).fil = s.fil := rfl
@[simp] theorem State.setPwr_hm (p : Pwr) (s : State) : (s.setPwr p).hm = s.hm := rfl
@[simp] theorem State.setPwr_fab (p : Pwr) (s : State) : (s.setPwr p).fab = s.fab := rfl
@[simp] theorem State.setPwr_flt (p : Pwr) (s : State) : (s.setPwr p).flt = s.flt := rfl
@[simp] theorem State.setPwr_io (p : Pwr) (s : State) : (s.setPwr p).io = s.io := rfl
@[simp] theorem State.setPwr_out (p : Pwr) (s : State) : (s.setPwr p).out = s.out := rfl
@[simp] theorem State.setPwr_free (p : Pwr) (s : State) : (s.setPwr p).free = s.free := rfl
@[simp] theorem State.setPwr_pending (p : Pwr) (s : State) : (s.setPwr p).pending = s.pending := rfl
@[simp] theorem State.setPwr_pwr (p : Pwr) (s : State) : (s.setPwr p).pwr = p := rfl
@[simp] theorem State.setPwr_word (p : Pwr) (s : State) (page off : Nat) : (s.setPwr p).word page off = s.word page off := rfl
@[simp] theorem State.setPwr_rd (p : Pwr) (s : State) (ref : FRef) : (s.setPwr p).rd ref = s.rd ref := rfl
@[simp] theorem State.setPwr_on (p : Pwr) (s : State) (ref : FRef) : (s.setPwr p).on ref = s.on ref := rfl
@[simp] theorem State.setPwr_bst (p : Pwr) (s : State) (page : Nat) : (s.setPwr p).bst page = s.bst page := rfl

/-! ### `setBoot` -/

@[simp] theorem State.setBoot_part (b : Boot) (s : State) : (s.setBoot b).part = s.part := rfl
@[simp] theorem State.setBoot_tick (b : Boot) (s : State) : (s.setBoot b).tick = s.tick := rfl
@[simp] theorem State.setBoot_regs (b : Boot) (s : State) : (s.setBoot b).regs = s.regs := rfl
@[simp] theorem State.setBoot_blocks (b : Boot) (s : State) : (s.setBoot b).blocks = s.blocks := rfl
@[simp] theorem State.setBoot_bus (b : Boot) (s : State) : (s.setBoot b).bus = s.bus := rfl
@[simp] theorem State.setBoot_evt (b : Boot) (s : State) : (s.setBoot b).evt = s.evt := rfl
@[simp] theorem State.setBoot_pwr (b : Boot) (s : State) : (s.setBoot b).pwr = s.pwr := rfl
@[simp] theorem State.setBoot_links (b : Boot) (s : State) : (s.setBoot b).links = s.links := rfl
@[simp] theorem State.setBoot_guest (b : Boot) (s : State) : (s.setBoot b).guest = s.guest := rfl
@[simp] theorem State.setBoot_mem (b : Boot) (s : State) : (s.setBoot b).mem = s.mem := rfl
@[simp] theorem State.setBoot_ck (b : Boot) (s : State) : (s.setBoot b).ck = s.ck := rfl
@[simp] theorem State.setBoot_sch (b : Boot) (s : State) : (s.setBoot b).sch = s.sch := rfl
@[simp] theorem State.setBoot_rows (b : Boot) (s : State) : (s.setBoot b).rows = s.rows := rfl
@[simp] theorem State.setBoot_lps (b : Boot) (s : State) : (s.setBoot b).lps = s.lps := rfl
@[simp] theorem State.setBoot_ises (b : Boot) (s : State) : (s.setBoot b).ises = s.ises := rfl
@[simp] theorem State.setBoot_fil (b : Boot) (s : State) : (s.setBoot b).fil = s.fil := rfl
@[simp] theorem State.setBoot_hm (b : Boot) (s : State) : (s.setBoot b).hm = s.hm := rfl
@[simp] theorem State.setBoot_fab (b : Boot) (s : State) : (s.setBoot b).fab = s.fab := rfl
@[simp] theorem State.setBoot_flt (b : Boot) (s : State) : (s.setBoot b).flt = s.flt := rfl
@[simp] theorem State.setBoot_io (b : Boot) (s : State) : (s.setBoot b).io = s.io := rfl
@[simp] theorem State.setBoot_out (b : Boot) (s : State) : (s.setBoot b).out = s.out := rfl
@[simp] theorem State.setBoot_free (b : Boot) (s : State) : (s.setBoot b).free = s.free := rfl
@[simp] theorem State.setBoot_pending (b : Boot) (s : State) : (s.setBoot b).pending = s.pending := rfl
@[simp] theorem State.setBoot_boot (b : Boot) (s : State) : (s.setBoot b).boot = b := rfl
@[simp] theorem State.setBoot_word (b : Boot) (s : State) (page off : Nat) : (s.setBoot b).word page off = s.word page off := rfl
@[simp] theorem State.setBoot_rd (b : Boot) (s : State) (ref : FRef) : (s.setBoot b).rd ref = s.rd ref := rfl
@[simp] theorem State.setBoot_on (b : Boot) (s : State) (ref : FRef) : (s.setBoot b).on ref = s.on ref := rfl
@[simp] theorem State.setBoot_bst (b : Boot) (s : State) (page : Nat) : (s.setBoot b).bst page = s.bst page := rfl

/-! ### `setGuest` -/

@[simp] theorem State.setGuest_part (g : Guest) (s : State) : (s.setGuest g).part = s.part := rfl
@[simp] theorem State.setGuest_tick (g : Guest) (s : State) : (s.setGuest g).tick = s.tick := rfl
@[simp] theorem State.setGuest_regs (g : Guest) (s : State) : (s.setGuest g).regs = s.regs := rfl
@[simp] theorem State.setGuest_blocks (g : Guest) (s : State) : (s.setGuest g).blocks = s.blocks := rfl
@[simp] theorem State.setGuest_bus (g : Guest) (s : State) : (s.setGuest g).bus = s.bus := rfl
@[simp] theorem State.setGuest_evt (g : Guest) (s : State) : (s.setGuest g).evt = s.evt := rfl
@[simp] theorem State.setGuest_pwr (g : Guest) (s : State) : (s.setGuest g).pwr = s.pwr := rfl
@[simp] theorem State.setGuest_boot (g : Guest) (s : State) : (s.setGuest g).boot = s.boot := rfl
@[simp] theorem State.setGuest_links (g : Guest) (s : State) : (s.setGuest g).links = s.links := rfl
@[simp] theorem State.setGuest_mem (g : Guest) (s : State) : (s.setGuest g).mem = s.mem := rfl
@[simp] theorem State.setGuest_ck (g : Guest) (s : State) : (s.setGuest g).ck = s.ck := rfl
@[simp] theorem State.setGuest_sch (g : Guest) (s : State) : (s.setGuest g).sch = s.sch := rfl
@[simp] theorem State.setGuest_rows (g : Guest) (s : State) : (s.setGuest g).rows = s.rows := rfl
@[simp] theorem State.setGuest_lps (g : Guest) (s : State) : (s.setGuest g).lps = s.lps := rfl
@[simp] theorem State.setGuest_ises (g : Guest) (s : State) : (s.setGuest g).ises = s.ises := rfl
@[simp] theorem State.setGuest_fil (g : Guest) (s : State) : (s.setGuest g).fil = s.fil := rfl
@[simp] theorem State.setGuest_hm (g : Guest) (s : State) : (s.setGuest g).hm = s.hm := rfl
@[simp] theorem State.setGuest_fab (g : Guest) (s : State) : (s.setGuest g).fab = s.fab := rfl
@[simp] theorem State.setGuest_flt (g : Guest) (s : State) : (s.setGuest g).flt = s.flt := rfl
@[simp] theorem State.setGuest_io (g : Guest) (s : State) : (s.setGuest g).io = s.io := rfl
@[simp] theorem State.setGuest_out (g : Guest) (s : State) : (s.setGuest g).out = s.out := rfl
@[simp] theorem State.setGuest_free (g : Guest) (s : State) : (s.setGuest g).free = s.free := rfl
@[simp] theorem State.setGuest_pending (g : Guest) (s : State) : (s.setGuest g).pending = s.pending := rfl
@[simp] theorem State.setGuest_guest (g : Guest) (s : State) : (s.setGuest g).guest = g := rfl
@[simp] theorem State.setGuest_word (g : Guest) (s : State) (page off : Nat) : (s.setGuest g).word page off = s.word page off := rfl
@[simp] theorem State.setGuest_rd (g : Guest) (s : State) (ref : FRef) : (s.setGuest g).rd ref = s.rd ref := rfl
@[simp] theorem State.setGuest_on (g : Guest) (s : State) (ref : FRef) : (s.setGuest g).on ref = s.on ref := rfl
@[simp] theorem State.setGuest_bst (g : Guest) (s : State) (page : Nat) : (s.setGuest g).bst page = s.bst page := rfl

/-! ### `setFab` -/

@[simp] theorem State.setFab_part (f : Fab) (s : State) : (s.setFab f).part = s.part := rfl
@[simp] theorem State.setFab_tick (f : Fab) (s : State) : (s.setFab f).tick = s.tick := rfl
@[simp] theorem State.setFab_regs (f : Fab) (s : State) : (s.setFab f).regs = s.regs := rfl
@[simp] theorem State.setFab_blocks (f : Fab) (s : State) : (s.setFab f).blocks = s.blocks := rfl
@[simp] theorem State.setFab_bus (f : Fab) (s : State) : (s.setFab f).bus = s.bus := rfl
@[simp] theorem State.setFab_evt (f : Fab) (s : State) : (s.setFab f).evt = s.evt := rfl
@[simp] theorem State.setFab_pwr (f : Fab) (s : State) : (s.setFab f).pwr = s.pwr := rfl
@[simp] theorem State.setFab_boot (f : Fab) (s : State) : (s.setFab f).boot = s.boot := rfl
@[simp] theorem State.setFab_links (f : Fab) (s : State) : (s.setFab f).links = s.links := rfl
@[simp] theorem State.setFab_guest (f : Fab) (s : State) : (s.setFab f).guest = s.guest := rfl
@[simp] theorem State.setFab_mem (f : Fab) (s : State) : (s.setFab f).mem = s.mem := rfl
@[simp] theorem State.setFab_ck (f : Fab) (s : State) : (s.setFab f).ck = s.ck := rfl
@[simp] theorem State.setFab_sch (f : Fab) (s : State) : (s.setFab f).sch = s.sch := rfl
@[simp] theorem State.setFab_rows (f : Fab) (s : State) : (s.setFab f).rows = s.rows := rfl
@[simp] theorem State.setFab_lps (f : Fab) (s : State) : (s.setFab f).lps = s.lps := rfl
@[simp] theorem State.setFab_ises (f : Fab) (s : State) : (s.setFab f).ises = s.ises := rfl
@[simp] theorem State.setFab_fil (f : Fab) (s : State) : (s.setFab f).fil = s.fil := rfl
@[simp] theorem State.setFab_hm (f : Fab) (s : State) : (s.setFab f).hm = s.hm := rfl
@[simp] theorem State.setFab_flt (f : Fab) (s : State) : (s.setFab f).flt = s.flt := rfl
@[simp] theorem State.setFab_io (f : Fab) (s : State) : (s.setFab f).io = s.io := rfl
@[simp] theorem State.setFab_out (f : Fab) (s : State) : (s.setFab f).out = s.out := rfl
@[simp] theorem State.setFab_free (f : Fab) (s : State) : (s.setFab f).free = s.free := rfl
@[simp] theorem State.setFab_pending (f : Fab) (s : State) : (s.setFab f).pending = s.pending := rfl
@[simp] theorem State.setFab_fab (f : Fab) (s : State) : (s.setFab f).fab = f := rfl
@[simp] theorem State.setFab_word (f : Fab) (s : State) (page off : Nat) : (s.setFab f).word page off = s.word page off := rfl
@[simp] theorem State.setFab_rd (f : Fab) (s : State) (ref : FRef) : (s.setFab f).rd ref = s.rd ref := rfl
@[simp] theorem State.setFab_on (f : Fab) (s : State) (ref : FRef) : (s.setFab f).on ref = s.on ref := rfl
@[simp] theorem State.setFab_bst (f : Fab) (s : State) (page : Nat) : (s.setFab f).bst page = s.bst page := rfl

/-! ### `setCk` -/

@[simp] theorem State.setCk_part (s : State) (c : Ck) : (s.setCk c).part = s.part := rfl
@[simp] theorem State.setCk_tick (s : State) (c : Ck) : (s.setCk c).tick = s.tick := rfl
@[simp] theorem State.setCk_regs (s : State) (c : Ck) : (s.setCk c).regs = s.regs := rfl
@[simp] theorem State.setCk_blocks (s : State) (c : Ck) : (s.setCk c).blocks = s.blocks := rfl
@[simp] theorem State.setCk_bus (s : State) (c : Ck) : (s.setCk c).bus = s.bus := rfl
@[simp] theorem State.setCk_evt (s : State) (c : Ck) : (s.setCk c).evt = s.evt := rfl
@[simp] theorem State.setCk_pwr (s : State) (c : Ck) : (s.setCk c).pwr = s.pwr := rfl
@[simp] theorem State.setCk_boot (s : State) (c : Ck) : (s.setCk c).boot = s.boot := rfl
@[simp] theorem State.setCk_links (s : State) (c : Ck) : (s.setCk c).links = s.links := rfl
@[simp] theorem State.setCk_guest (s : State) (c : Ck) : (s.setCk c).guest = s.guest := rfl
@[simp] theorem State.setCk_mem (s : State) (c : Ck) : (s.setCk c).mem = s.mem := rfl
@[simp] theorem State.setCk_sch (s : State) (c : Ck) : (s.setCk c).sch = s.sch := rfl
@[simp] theorem State.setCk_rows (s : State) (c : Ck) : (s.setCk c).rows = s.rows := rfl
@[simp] theorem State.setCk_lps (s : State) (c : Ck) : (s.setCk c).lps = s.lps := rfl
@[simp] theorem State.setCk_ises (s : State) (c : Ck) : (s.setCk c).ises = s.ises := rfl
@[simp] theorem State.setCk_fil (s : State) (c : Ck) : (s.setCk c).fil = s.fil := rfl
@[simp] theorem State.setCk_hm (s : State) (c : Ck) : (s.setCk c).hm = s.hm := rfl
@[simp] theorem State.setCk_fab (s : State) (c : Ck) : (s.setCk c).fab = s.fab := rfl
@[simp] theorem State.setCk_flt (s : State) (c : Ck) : (s.setCk c).flt = s.flt := rfl
@[simp] theorem State.setCk_io (s : State) (c : Ck) : (s.setCk c).io = s.io := rfl
@[simp] theorem State.setCk_out (s : State) (c : Ck) : (s.setCk c).out = s.out := rfl
@[simp] theorem State.setCk_free (s : State) (c : Ck) : (s.setCk c).free = s.free := rfl
@[simp] theorem State.setCk_pending (s : State) (c : Ck) : (s.setCk c).pending = s.pending := rfl
@[simp] theorem State.setCk_ck (s : State) (c : Ck) : (s.setCk c).ck = c := rfl
@[simp] theorem State.setCk_word (s : State) (c : Ck) (page off : Nat) : (s.setCk c).word page off = s.word page off := rfl
@[simp] theorem State.setCk_rd (s : State) (c : Ck) (ref : FRef) : (s.setCk c).rd ref = s.rd ref := rfl
@[simp] theorem State.setCk_on (s : State) (c : Ck) (ref : FRef) : (s.setCk c).on ref = s.on ref := rfl
@[simp] theorem State.setCk_bst (s : State) (c : Ck) (page : Nat) : (s.setCk c).bst page = s.bst page := rfl

/-! ### `setRows` -/

@[simp] theorem State.setRows_part (r : Rows) (s : State) : (s.setRows r).part = s.part := rfl
@[simp] theorem State.setRows_tick (r : Rows) (s : State) : (s.setRows r).tick = s.tick := rfl
@[simp] theorem State.setRows_regs (r : Rows) (s : State) : (s.setRows r).regs = s.regs := rfl
@[simp] theorem State.setRows_blocks (r : Rows) (s : State) : (s.setRows r).blocks = s.blocks := rfl
@[simp] theorem State.setRows_bus (r : Rows) (s : State) : (s.setRows r).bus = s.bus := rfl
@[simp] theorem State.setRows_evt (r : Rows) (s : State) : (s.setRows r).evt = s.evt := rfl
@[simp] theorem State.setRows_pwr (r : Rows) (s : State) : (s.setRows r).pwr = s.pwr := rfl
@[simp] theorem State.setRows_boot (r : Rows) (s : State) : (s.setRows r).boot = s.boot := rfl
@[simp] theorem State.setRows_links (r : Rows) (s : State) : (s.setRows r).links = s.links := rfl
@[simp] theorem State.setRows_guest (r : Rows) (s : State) : (s.setRows r).guest = s.guest := rfl
@[simp] theorem State.setRows_mem (r : Rows) (s : State) : (s.setRows r).mem = s.mem := rfl
@[simp] theorem State.setRows_ck (r : Rows) (s : State) : (s.setRows r).ck = s.ck := rfl
@[simp] theorem State.setRows_sch (r : Rows) (s : State) : (s.setRows r).sch = s.sch := rfl
@[simp] theorem State.setRows_lps (r : Rows) (s : State) : (s.setRows r).lps = s.lps := rfl
@[simp] theorem State.setRows_ises (r : Rows) (s : State) : (s.setRows r).ises = s.ises := rfl
@[simp] theorem State.setRows_fil (r : Rows) (s : State) : (s.setRows r).fil = s.fil := rfl
@[simp] theorem State.setRows_hm (r : Rows) (s : State) : (s.setRows r).hm = s.hm := rfl
@[simp] theorem State.setRows_fab (r : Rows) (s : State) : (s.setRows r).fab = s.fab := rfl
@[simp] theorem State.setRows_flt (r : Rows) (s : State) : (s.setRows r).flt = s.flt := rfl
@[simp] theorem State.setRows_io (r : Rows) (s : State) : (s.setRows r).io = s.io := rfl
@[simp] theorem State.setRows_out (r : Rows) (s : State) : (s.setRows r).out = s.out := rfl
@[simp] theorem State.setRows_free (r : Rows) (s : State) : (s.setRows r).free = s.free := rfl
@[simp] theorem State.setRows_pending (r : Rows) (s : State) : (s.setRows r).pending = s.pending := rfl
@[simp] theorem State.setRows_rows (r : Rows) (s : State) : (s.setRows r).rows = r := rfl
@[simp] theorem State.setRows_word (r : Rows) (s : State) (page off : Nat) : (s.setRows r).word page off = s.word page off := rfl
@[simp] theorem State.setRows_rd (r : Rows) (s : State) (ref : FRef) : (s.setRows r).rd ref = s.rd ref := rfl
@[simp] theorem State.setRows_on (r : Rows) (s : State) (ref : FRef) : (s.setRows r).on ref = s.on ref := rfl
@[simp] theorem State.setRows_bst (r : Rows) (s : State) (page : Nat) : (s.setRows r).bst page = s.bst page := rfl

/-! ### `setLnk` -/

@[simp] theorem State.setLnk_part (l : Nat) (k : Link) (s : State) : (s.setLnk l k).part = s.part := rfl
@[simp] theorem State.setLnk_tick (l : Nat) (k : Link) (s : State) : (s.setLnk l k).tick = s.tick := rfl
@[simp] theorem State.setLnk_regs (l : Nat) (k : Link) (s : State) : (s.setLnk l k).regs = s.regs := rfl
@[simp] theorem State.setLnk_blocks (l : Nat) (k : Link) (s : State) : (s.setLnk l k).blocks = s.blocks := rfl
@[simp] theorem State.setLnk_bus (l : Nat) (k : Link) (s : State) : (s.setLnk l k).bus = s.bus := rfl
@[simp] theorem State.setLnk_evt (l : Nat) (k : Link) (s : State) : (s.setLnk l k).evt = s.evt := rfl
@[simp] theorem State.setLnk_pwr (l : Nat) (k : Link) (s : State) : (s.setLnk l k).pwr = s.pwr := rfl
@[simp] theorem State.setLnk_boot (l : Nat) (k : Link) (s : State) : (s.setLnk l k).boot = s.boot := rfl
@[simp] theorem State.setLnk_guest (l : Nat) (k : Link) (s : State) : (s.setLnk l k).guest = s.guest := rfl
@[simp] theorem State.setLnk_mem (l : Nat) (k : Link) (s : State) : (s.setLnk l k).mem = s.mem := rfl
@[simp] theorem State.setLnk_ck (l : Nat) (k : Link) (s : State) : (s.setLnk l k).ck = s.ck := rfl
@[simp] theorem State.setLnk_sch (l : Nat) (k : Link) (s : State) : (s.setLnk l k).sch = s.sch := rfl
@[simp] theorem State.setLnk_rows (l : Nat) (k : Link) (s : State) : (s.setLnk l k).rows = s.rows := rfl
@[simp] theorem State.setLnk_lps (l : Nat) (k : Link) (s : State) : (s.setLnk l k).lps = s.lps := rfl
@[simp] theorem State.setLnk_ises (l : Nat) (k : Link) (s : State) : (s.setLnk l k).ises = s.ises := rfl
@[simp] theorem State.setLnk_fil (l : Nat) (k : Link) (s : State) : (s.setLnk l k).fil = s.fil := rfl
@[simp] theorem State.setLnk_hm (l : Nat) (k : Link) (s : State) : (s.setLnk l k).hm = s.hm := rfl
@[simp] theorem State.setLnk_fab (l : Nat) (k : Link) (s : State) : (s.setLnk l k).fab = s.fab := rfl
@[simp] theorem State.setLnk_flt (l : Nat) (k : Link) (s : State) : (s.setLnk l k).flt = s.flt := rfl
@[simp] theorem State.setLnk_out (l : Nat) (k : Link) (s : State) : (s.setLnk l k).out = s.out := rfl
@[simp] theorem State.setLnk_free (l : Nat) (k : Link) (s : State) : (s.setLnk l k).free = s.free := rfl
@[simp] theorem State.setLnk_pending (l : Nat) (k : Link) (s : State) : (s.setLnk l k).pending = s.pending := rfl
@[simp] theorem State.setLnk_io (l : Nat) (k : Link) (s : State) : (s.setLnk l k).io = s.io := rfl
@[simp] theorem State.setLnk_word (l : Nat) (k : Link) (s : State) (page off : Nat) : (s.setLnk l k).word page off = s.word page off := rfl
@[simp] theorem State.setLnk_rd (l : Nat) (k : Link) (s : State) (ref : FRef) : (s.setLnk l k).rd ref = s.rd ref := rfl
@[simp] theorem State.setLnk_on (l : Nat) (k : Link) (s : State) (ref : FRef) : (s.setLnk l k).on ref = s.on ref := rfl
@[simp] theorem State.setLnk_bst (l : Nat) (k : Link) (s : State) (page : Nat) : (s.setLnk l k).bst page = s.bst page := rfl

/-! ### `setIo` -/

@[simp] theorem State.setIo_part (i : Io) (s : State) : (s.setIo i).part = s.part := rfl
@[simp] theorem State.setIo_tick (i : Io) (s : State) : (s.setIo i).tick = s.tick := rfl
@[simp] theorem State.setIo_regs (i : Io) (s : State) : (s.setIo i).regs = s.regs := rfl
@[simp] theorem State.setIo_blocks (i : Io) (s : State) : (s.setIo i).blocks = s.blocks := rfl
@[simp] theorem State.setIo_bus (i : Io) (s : State) : (s.setIo i).bus = s.bus := rfl
@[simp] theorem State.setIo_evt (i : Io) (s : State) : (s.setIo i).evt = s.evt := rfl
@[simp] theorem State.setIo_pwr (i : Io) (s : State) : (s.setIo i).pwr = s.pwr := rfl
@[simp] theorem State.setIo_boot (i : Io) (s : State) : (s.setIo i).boot = s.boot := rfl
@[simp] theorem State.setIo_links (i : Io) (s : State) : (s.setIo i).links = s.links := rfl
@[simp] theorem State.setIo_guest (i : Io) (s : State) : (s.setIo i).guest = s.guest := rfl
@[simp] theorem State.setIo_mem (i : Io) (s : State) : (s.setIo i).mem = s.mem := rfl
@[simp] theorem State.setIo_ck (i : Io) (s : State) : (s.setIo i).ck = s.ck := rfl
@[simp] theorem State.setIo_sch (i : Io) (s : State) : (s.setIo i).sch = s.sch := rfl
@[simp] theorem State.setIo_rows (i : Io) (s : State) : (s.setIo i).rows = s.rows := rfl
@[simp] theorem State.setIo_lps (i : Io) (s : State) : (s.setIo i).lps = s.lps := rfl
@[simp] theorem State.setIo_ises (i : Io) (s : State) : (s.setIo i).ises = s.ises := rfl
@[simp] theorem State.setIo_fil (i : Io) (s : State) : (s.setIo i).fil = s.fil := rfl
@[simp] theorem State.setIo_hm (i : Io) (s : State) : (s.setIo i).hm = s.hm := rfl
@[simp] theorem State.setIo_fab (i : Io) (s : State) : (s.setIo i).fab = s.fab := rfl
@[simp] theorem State.setIo_flt (i : Io) (s : State) : (s.setIo i).flt = s.flt := rfl
@[simp] theorem State.setIo_out (i : Io) (s : State) : (s.setIo i).out = s.out := rfl
@[simp] theorem State.setIo_free (i : Io) (s : State) : (s.setIo i).free = s.free := rfl
@[simp] theorem State.setIo_pending (i : Io) (s : State) : (s.setIo i).pending = s.pending := rfl
@[simp] theorem State.setIo_io (i : Io) (s : State) : (s.setIo i).io = i := rfl
@[simp] theorem State.setIo_word (i : Io) (s : State) (page off : Nat) : (s.setIo i).word page off = s.word page off := rfl
@[simp] theorem State.setIo_rd (i : Io) (s : State) (ref : FRef) : (s.setIo i).rd ref = s.rd ref := rfl
@[simp] theorem State.setIo_on (i : Io) (s : State) (ref : FRef) : (s.setIo i).on ref = s.on ref := rfl
@[simp] theorem State.setIo_bst (i : Io) (s : State) (page : Nat) : (s.setIo i).bst page = s.bst page := rfl

end Sys2Proof.Machine
end

