-- ==== Sys2Proof/Laws/Registers.lean ====
section
/-! SUPPORT. What a register field reads after a write: the field written, the other bits of its word, and every other word. -/

namespace Sys2Proof.Machine

/-! ### Bit fields -/

theorem bitsOf_eq_mod (v hi lo : Nat) : bitsOf v hi lo = v / 2 ^ lo % 2 ^ (hi + 1 - lo) := rfl

theorem bitsOf_lt (v hi lo : Nat) : bitsOf v hi lo < 2 ^ (hi + 1 - lo) := Nat.mod_lt _ (Nat.two_pow_pos _)

theorem testBit_bitsOf (v hi lo i : Nat) : (bitsOf v hi lo).testBit i = (decide (i < hi + 1 - lo) && v.testBit (lo + i)) := by
  rw [bitsOf, Nat.testBit_mod_two_pow, Nat.testBit_div_two_pow, Nat.add_comm i lo]

/-- The number with bits [hi:lo] replaced, split into what lies above, in and below them. -/
theorem putBits_split (v lo w x : Nat) :
    v - v / 2 ^ lo % 2 ^ w * 2 ^ lo + x % 2 ^ w * 2 ^ lo
      = (v / 2 ^ lo / 2 ^ w * 2 ^ w + x % 2 ^ w) * 2 ^ lo + v % 2 ^ lo := by
  have h1 := Nat.div_add_mod v (2 ^ lo)
  have h2 := Nat.div_add_mod (v / 2 ^ lo) (2 ^ w)
  generalize v / 2 ^ lo / 2 ^ w = a at *
  generalize v / 2 ^ lo % 2 ^ w = b at *
  generalize v / 2 ^ lo = c at *
  generalize v % 2 ^ lo = d at *
  subst h1
  subst h2
  have e1 : 2 ^ lo * (2 ^ w * a + b) + d = a * 2 ^ w * 2 ^ lo + b * 2 ^ lo + d := by
    rw [Nat.mul_add, Nat.mul_comm (2 ^ lo) (2 ^ w * a), Nat.mul_comm (2 ^ w) a, Nat.mul_comm (2 ^ lo) b]
  have e2 : (a * 2 ^ w + x % 2 ^ w) * 2 ^ lo + d = a * 2 ^ w * 2 ^ lo + x % 2 ^ w * 2 ^ lo + d := by
    rw [Nat.add_mul]
  rw [e1, e2]
  omega

theorem testBit_putBits (v hi lo x i : Nat) :
    (putBits v hi lo x).testBit i
      = if lo ≤ i ∧ i < lo + (hi + 1 - lo) then x.testBit (i - lo) else v.testBit i := by
  unfold putBits bitsOf
  generalize hi + 1 - lo = w
  rw [putBits_split, Nat.mul_comm, Nat.testBit_two_pow_mul_add _ (Nat.mod_lt _ (Nat.two_pow_pos lo))]
  by_cases h1 : i < lo
  · rw [if_pos h1, if_neg (by omega), Nat.testBit_mod_two_pow]
    simp [h1]
  · rw [if_neg h1, Nat.mul_comm, Nat.testBit_two_pow_mul_add _ (Nat.mod_lt _ (Nat.two_pow_pos w))]
    by_cases h2 : i - lo < w
    · rw [if_pos h2, if_pos (by omega), Nat.testBit_mod_two_pow]
      simp [h2]
    · rw [if_neg h2, if_neg (by omega), Nat.testBit_div_two_pow, Nat.testBit_div_two_pow]
      congr 1
      omega

/-- The field put in reads as the value, its higher bits dropped. -/
theorem bitsOf_putBits (v hi lo x : Nat) : bitsOf (putBits v hi lo x) hi lo = x % 2 ^ (hi + 1 - lo) := by
  apply Nat.eq_of_testBit_eq
  intro i
  rw [testBit_bitsOf, testBit_putBits, Nat.testBit_mod_two_pow]
  by_cases h : i < hi + 1 - lo
  · rw [if_pos (by omega)]
    simp [h]
  · simp [h]

/-- Bits outside the field put in read as before. -/
theorem bitsOf_putBits_disjoint (v hi lo x h l : Nat) (d : h < lo ∨ hi < l) : bitsOf (putBits v hi lo x) h l = bitsOf v h l := by
  apply Nat.eq_of_testBit_eq
  intro i
  rw [testBit_bitsOf, testBit_bitsOf, testBit_putBits]
  by_cases k : i < h + 1 - l
  · rw [if_neg (by omega)]
  · simp [k]

theorem bitsOf_mod (v hi lo : Nat) (h : hi < 32) : bitsOf (v % 2 ^ 32) hi lo = bitsOf v hi lo := by
  apply Nat.eq_of_testBit_eq
  intro i
  rw [testBit_bitsOf, testBit_bitsOf, Nat.testBit_mod_two_pow]
  by_cases k : i < hi + 1 - lo
  · simp [show lo + i < 32 by omega]
  · simp [k]

/-! ### Words -/

theorem State.word_setWord (s : State) (p o : Nat) (w : Word) : (s.setWord p o w).word p o = w :=
  mapGet_mapSet_same _ _ _ _

theorem State.word_setWord_other (s : State) (p o q r : Nat) (w : Word) (h : regKey q r ≠ regKey p o) :
    (s.setWord p o w).word q r = s.word q r :=
  mapGet_mapSet_other _ _ _ h

theorem State.word_wr_other (s : State) (f : FRef) (v q r : Nat) (h : regKey q r ≠ regKey f.page f.off) :
    (s.wr f v).word q r = s.word q r :=
  State.word_setWord_other _ _ _ _ _ _ h

/-! ### Fields -/

/-- A field written reads as the value, its higher bits dropped. -/
theorem State.rd_wr_same (s : State) (f : FRef) (v : Nat) (h : f.hi < 32) : (s.wr f v).rd f = v % 2 ^ (f.hi + 1 - f.lo) := by
  rw [State.rd, State.wr, State.word_setWord, BitVec.toNat_ofNat, bitsOf_mod _ _ _ h, bitsOf_putBits]

/-- A field of another word reads as before. -/
theorem State.rd_wr_other (s : State) (f g : FRef) (v : Nat) (h : regKey g.page g.off ≠ regKey f.page f.off) :
    (s.wr f v).rd g = s.rd g := by
  rw [State.rd, State.rd, State.word_wr_other _ _ _ _ _ h]

/-- A field of the same word with other bits reads as before. -/
theorem State.rd_wr_disjoint (s : State) (f g : FRef) (v : Nat) (hp : g.page = f.page) (ho : g.off = f.off) (h : g.hi < 32)
    (d : g.hi < f.lo ∨ f.hi < g.lo) : (s.wr f v).rd g = s.rd g := by
  rw [State.rd, State.rd, hp, ho, State.wr, State.word_setWord, BitVec.toNat_ofNat, bitsOf_mod _ _ _ h,
    bitsOf_putBits_disjoint _ _ _ _ _ _ d]

theorem State.rd_lt (s : State) (f : FRef) : s.rd f < 2 ^ (f.hi + 1 - f.lo) := bitsOf_lt _ _ _

/-- A field that shares no bit with the one written reads as before. -/
theorem State.rd_wr_apart (s : State) (f g : FRef) (v : Nat) (h : f.apart g = true) : (s.wr f v).rd g = s.rd g := by
  simp only [FRef.apart, Bool.or_eq_true, bne_iff_ne, Bool.and_eq_true, beq_iff_eq, decide_eq_true_eq] at h
  rcases h with h | ⟨⟨⟨hp, ho⟩, h32⟩, hd⟩
  · exact State.rd_wr_other s f g v (fun e => h e.symm)
  · exact State.rd_wr_disjoint s f g v hp.symm ho.symm h32 hd

theorem State.on_wr_apart (s : State) (f g : FRef) (v : Nat) (h : f.apart g = true) : (s.wr f v).on g = s.on g := by
  rw [State.on, State.on, State.rd_wr_apart _ _ _ _ h]

theorem State.rd_setW1c_apart (s : State) (f g : FRef) (m : Nat) (h : f.apart g = true) : (s.setW1c f m).rd g = s.rd g :=
  State.rd_wr_apart s f g _ h

theorem State.rd_inc_apart (s : State) (f g : FRef) (h : f.apart g = true) : (s.inc f).rd g = s.rd g :=
  State.rd_wr_apart s f g _ h

theorem State.rd_orBits (s : State) (f : FRef) (m : Nat) (h : f.hi < 32) (hm : m < 2 ^ (f.hi + 1 - f.lo)) :
    (s.orBits f m).rd f = s.rd f ||| m := by
  rw [State.orBits, State.rd_wr_same _ _ _ h]
  exact Nat.mod_eq_of_lt (Nat.or_lt_two_pow (State.rd_lt s f) hm)

theorem State.rd_setW1c (s : State) (f : FRef) (m : Nat) (h : f.hi < 32) (hm : m < 2 ^ (f.hi + 1 - f.lo)) :
    (s.setW1c f m).rd f = s.rd f ||| m :=
  State.rd_orBits s f m h hm

/-- A counter at less than its largest value counts one more. -/
theorem State.rd_inc (s : State) (f : FRef) (h : f.hi < 32) (hm : s.rd f + 1 < 2 ^ (f.hi + 1 - f.lo)) :
    (s.inc f).rd f = s.rd f + 1 := by
  rw [State.inc, State.incBy, State.rd_wr_same _ _ _ h]
  simp [satBits, hm, Nat.mod_eq_of_lt hm]

/-- A counter at its largest value stays there. -/
theorem State.rd_inc_full (s : State) (f : FRef) (h : f.hi < 32) (hm : s.rd f + 1 = 2 ^ (f.hi + 1 - f.lo)) :
    (s.inc f).rd f = s.rd f := by
  rw [State.inc, State.incBy, State.rd_wr_same _ _ _ h, satBits, if_neg (by omega), Nat.mod_eq_of_lt (by omega)]
  omega

/-! ### Blocks -/

theorem State.blk_setBlk (s : State) (p : Nat) (b : Block) : (s.setBlk p b).blk p = b := mapGet_mapSet_same _ _ _ _

theorem State.blk_setBlk_other (s : State) (p q : Nat) (b : Block) (h : unitPage q ≠ unitPage p) :
    (s.setBlk p b).blk q = s.blk q :=
  mapGet_mapSet_other _ _ _ h

/-! ### Memory -/

theorem State.dpaRead_dpaWrite (s : State) (a : Nat) (l : List Byte) : (s.dpaWrite a l).dpaRead a l.length = l :=
  mapRead_mapWrite _ _ _ _

theorem State.hostRead_hostWrite (s : State) (f a : Nat) (l : List Byte) : (s.hostWrite f a l).hostRead a l.length = l :=
  mapRead_mapWrite _ _ _ _

end Sys2Proof.Machine
end

