-- ==== Sys2Proof/Laws/Rings.lean ====
section
/-! SUPPORT. The submission rings of a state whose workspace pages list nothing are empty, and no share is given; where the quota page lists nothing,
every quota is 0. -/

namespace Sys2Proof.Machine

theorem wsKind : ∀ w : Nat, w < 64 → pageKind (0x100 + w) = some .ws := by decide +kernel

/-- A key that a map does not list reads as the default. -/
theorem mapGet_unlisted {α : Type} (d : Nat → α) (m : NMap α) (k : Nat) (h : ∀ e ∈ m, e.1 ≠ k) : mapGet d m k = d k := by
  induction m with
  | nil => rfl
  | cons e r ih =>
    obtain ⟨j, v⟩ := e
    simp only [mapGet]
    rw [if_neg (h _ (List.mem_cons_self)), ih (fun e he => h e (List.mem_cons_of_mem _ he))]

theorem ringRows : ∀ r : Nat, r < 4 → ∀ o ∈ [0x10C + 16 * r, 0x140 + 4 * r],
    ((headerRows ++ kindRows .ws).filter (fun x => x.hits o)).all (fun x => x.reset == 0) = true ∧ 0x14 ≤ o ∧ o < 0x200 ∧ o % 4 = 0 := by decide +kernel

theorem resets_zero (l : List Row) (h : l.all (fun x => x.reset == 0) = true) :
   l.foldl (fun w r => w + r.reset % 2 ^ (r.hi + 1 - r.lo) * 2 ^ r.lo) 0 = 0 := by
  suffices ∀ n, l.foldl (fun w r => w + r.reset % 2 ^ (r.hi + 1 - r.lo) * 2 ^ r.lo) n = n from this 0
  induction l with
  | nil => intro n; rfl
  | cons r l ih =>
    simp only [List.all_cons, Bool.and_eq_true, beq_iff_eq] at h
    intro n
    rw [List.foldl_cons, h.1, ih h.2]; simp

/-- The pages of the workspaces and of the quotas have no reset word of their own past their header. -/
theorem specialReset_none {part : Part} {page off : Nat} (hk : (pageKind page).isNone = false) (ho : 0x10 ≤ off)
    (hp : 0x100 ≤ page ∨ page = 0x019) : specialReset part page off = none := by
  unfold specialReset
  simp only [hk, Bool.false_eq_true, if_false]
  repeat' split
  all_goals first | omega | rfl

/-- A word of such a page that is not listed, and whose fields all reset to 0, reads 0. -/
theorem unlistedWord {s : State} {page off : Nat} {k : PageKind} (hk : pageKind page = some k) (ho : 0x10 ≤ off)
    (h4 : off < 4096 ∧ off % 4 = 0) (hp : 0x100 ≤ page ∨ page = 0x019)
    (hr : ((headerRows ++ kindRows k).filter (fun x => x.hits off)).all (fun x => x.reset == 0) = true)
    (hu : ∀ e ∈ s.regs, e.1 ≠ regKey page off) : s.word page off = 0 := by
  have e1 : regKey page off / 1024 = page := by unfold regKey; omega
  have e2 : regKey page off % 1024 * 4 = off := by unfold regKey; omega
  rw [State.word, mapGet_unlisted _ _ _ hu, regDefault, e1, e2, resetWord, specialReset_none (by rw [hk]; rfl) ho hp]
  simp only [rowsAt, pageRows, hk]
  rw [resets_zero _ hr]; rfl

theorem ringWord (s : State) (w r o : Nat) (hw : w < 64) (hr : r < 4) (ho : o ∈ [0x10C + 16 * r, 0x140 + 4 * r])
    (h : ∀ e ∈ s.regs, e.1 < 0x40000) : s.word (pgWs w) o = 0 := by
  obtain ⟨h1, h2, h3, h4⟩ := ringRows r hr o ho
  have hp : pgWs w = 0x100 + w := by simp [pgWs, pgOf, hw]
  rw [hp]
  exact unlistedWord (wsKind w hw) (by omega) (by omega) (by omega) h1 (fun e he => by have := h e he; unfold regKey; omega)

theorem ringPending_zero (s : State) (w r : Nat) (hw : w < 64) (hr : r < 4) (h : ∀ e ∈ s.regs, e.1 < 0x40000) : s.ringPending w r = 0 := by
  have a : s.rd (WS.RING_HEAD w r) = 0 := by rw [State.rd, show s.word (WS.RING_HEAD w r).page (WS.RING_HEAD w r).off = 0 from ringWord s w r _ hw hr (by simp [WS.RING_HEAD]) h]; simp [bitsOf]
  have b : s.rd (WS.RING_TAIL w r) = 0 := by rw [State.rd, show s.word (WS.RING_TAIL w r).page (WS.RING_TAIL w r).off = 0 from ringWord s w r _ hw hr (by simp [WS.RING_TAIL]) h]; simp [bitsOf]
  simp [State.ringPending, a, b]

theorem foldl_constant {α : Type} (l : List Nat) (f : α → Nat → α) (h : ∀ a, ∀ x ∈ l, f a x = a) (a : α) : l.foldl f a = a := by
  induction l with
  | nil => rfl
  | cons x r ih => rw [List.foldl_cons, h a x List.mem_cons_self]; exact ih (fun a y hy => h a y (List.mem_cons_of_mem _ hy))

/-- No descriptor is pending where no register of a workspace page is listed. -/
theorem pendingAll_zero (s : State) (h : s.regs.all (fun e => decide (e.1 < 0x40000)) = true) : s.pendingAll = 0 := by
  have h : ∀ e ∈ s.regs, e.1 < 0x40000 := by simpa using h
  unfold State.pendingAll
  refine foldl_constant _ _ (fun n w hw => foldl_constant _ _ (fun n r hr => ?_) n) 0
  rw [ringPending_zero s w r (List.mem_range.1 hw) (List.mem_range.1 hr) h]; rfl

/-- A pending descriptor of one ring is pending. -/
theorem pendingAll_pos (s : State) (w r : Nat) (hw : w < 64) (hr : r < 4) (h : s.ringPending w r ≠ 0) : s.pendingAll ≠ 0 := by
  have mono : ∀ (l : List Nat) (f : Nat → Nat → Nat), (∀ n x, n ≤ f n x) → ∀ n, n ≤ l.foldl f n := by
    intro l f hf
    induction l with
    | nil => intro n; exact Nat.le_refl n
    | cons x r ih => intro n; exact Nat.le_trans (hf n x) (ih _)
  have grow : ∀ (l : List Nat) (f : Nat → Nat → Nat) (y : Nat), (∀ n x, n ≤ f n x) → (∀ n, n < f n y) → y ∈ l → ∀ n, n < l.foldl f n := by
    intro l f y hf hy
    induction l with
    | nil => intro hm; cases hm
    | cons x r ih =>
      intro hm n
      rcases List.mem_cons.1 hm with e | hm
      · subst e; exact Nat.lt_of_lt_of_le (hy n) (mono r f hf _)
      · exact Nat.lt_of_le_of_lt (hf n x) (ih hm _)
  have inner : ∀ v n, n ≤ (List.range 4).foldl (fun n q => n + s.ringPending v q) n :=
    fun v n => mono _ _ (fun n x => Nat.le_add_right n _) n
  exact Nat.pos_iff_ne_zero.1 (grow _ _ w (fun n x => inner x n)
    (fun n => grow _ _ r (fun n x => Nat.le_add_right n _) (fun n => Nat.lt_add_of_pos_right (Nat.pos_iff_ne_zero.2 h))
      (List.mem_range.2 hr) n) (List.mem_range.2 hw) 0)

theorem shareRows : ∀ c : Nat, c < 4 →
    ((headerRows ++ kindRows .ws).filter (fun x => x.hits (0x180 + 4 * c))).all (fun x => x.reset == 0) = true := by decide +kernel

/-- No share is given where no register of a workspace page is listed. -/
theorem shareTotal_zero (s : State) (h : s.regs.all (fun e => decide (e.1 < 0x40000)) = true) : s.shareTotal = 0 := by
  have h : ∀ e ∈ s.regs, e.1 < 0x40000 := by simpa using h
  unfold State.shareTotal
  refine foldl_constant _ _ (fun n c hc => ?_) 0
  have hc := List.mem_range.1 hc
  suffices s.shareSum c = 0 by rw [this]; rfl
  unfold State.shareSum
  refine foldl_constant _ _ (fun n w hw => ?_) 0
  have hw := List.mem_range.1 hw
  have h1 := shareRows c hc
  have hp : pgWs w = 0x100 + w := by simp [pgWs, pgOf, hw]
  suffices s.word (pgWs w) (0x180 + 4 * c) = 0 by
    rw [State.share, State.rd, show s.word (WS.SHARE w c).page (WS.SHARE w c).off = 0 from this]; simp [bitsOf]
  rw [hp]
  exact unlistedWord (wsKind w hw) (by omega) (by omega) (by omega) h1 (fun e he => by have := h e he; unfold regKey; omega)

theorem quotaRows : ∀ w : Nat, w < 64 → ∀ o ∈ [0x100 + 16 * w, 0x104 + 16 * w],
    ((headerRows ++ kindRows .ckQuota).filter (fun x => x.hits o)).all (fun x => x.reset == 0) = true := by decide +kernel

theorem quotaWord (s : State) (w o : Nat) (hw : w < 64) (ho : o ∈ [0x100 + 16 * w, 0x104 + 16 * w])
    (h : ∀ e ∈ s.regs, e.1 < 0x6400 ∨ 0x6800 ≤ e.1) : s.word 0x019 o = 0 := by
  have h1 := quotaRows w hw o ho
  have h2 : 0x100 ≤ o ∧ o < 0x500 ∧ o % 4 = 0 := by simp at ho; omega
  exact unlistedWord (k := .ckQuota) (by decide +kernel) (by omega) (by omega) (by omega) h1
    (fun e he => by have := h e he; unfold regKey; omega)

/-- Every quota is 0 where the quota page lists no register. -/
theorem quotaSum_zero (s : State) (tier : Nat) (h : s.regs.all (fun e => decide (e.1 < 0x6400) || decide (0x6800 ≤ e.1)) = true) :
    s.quotaSum tier = 0 := by
  have h : ∀ e ∈ s.regs, e.1 < 0x6400 ∨ 0x6800 ≤ e.1 := by simpa using h
  unfold State.quotaSum
  refine foldl_constant _ _ (fun n w hw => ?_) 0
  have a : s.quota w tier = 0 := by
    have hw := List.mem_range.1 hw
    have w0 := quotaWord s w (0x100 + 16 * w) hw (by simp) h
    have w1 := quotaWord s w (0x104 + 16 * w) hw (by simp) h
    unfold State.quota
    split
    · rw [State.rd, show s.word (CK_QUOTA.QUOTA_T0 w).page (CK_QUOTA.QUOTA_T0 w).off = 0 from w0]; simp [bitsOf]
    · split
      · rw [State.rd, show s.word (CK_QUOTA.QUOTA_T1 w).page (CK_QUOTA.QUOTA_T1 w).off = 0 from w0]; simp [bitsOf]
      · rw [State.rd, show s.word (CK_QUOTA.QUOTA_T2 w).page (CK_QUOTA.QUOTA_T2 w).off = 0 from w1]; simp [bitsOf]
  rw [a]; rfl

end Sys2Proof.Machine
end

