-- ==== Sys2Proof/WellFormed.lean ====
section
/-! DEFINITION. Well-formed commands: every operand within the range its field, index or name has in the manual. A command that
is not well-formed is none that a sender can give; exec answers it all the same. -/

namespace Sys2Proof

/-- Bytes of the register space: 1,024 pages of 4 KiB (R89). -/
def barSize : Nat := 0x40_0000

/-- A virtual function's number is 1 to 63 (R89, R580). -/
def rqOk : Requester → Bool
  | .vf n => decide (1 ≤ n) && decide (n ≤ 63)
  | _ => true

/-- A page index (R89). -/
def pageOk (page : Nat) : Bool := decide (page < 0x400)
/-- A workspace, or a function (R283, R580). -/
def wsOk (n : Nat) : Bool := decide (n < 64)
/-- One of four: a ring, a class, a stack, a chip select. -/
def ringOk (n : Nat) : Bool := decide (n < 4)
/-- The head of a BLP packet: SEQ and ACK_SEQ have 16 bits (Table CLS-3). -/
def pktOk (h : PktHead) : Bool := decide (h.seq < 65536) && decide (h.ackSeq < 65536)

/-- A Clasp link (R196). -/
def linkOk (n : Nat) : Bool := decide (n < 8)
/-- A configuration write: at most 63 virtual functions, a BAR4 of 2^28 to 2^37 bytes (R95, Table PRT-1). -/
def configOk : ConfigAccess → Bool
  | .enableVfs n => decide (n ≤ 63)
  | .bar4Size k => decide (28 ≤ k) && decide (k ≤ 37)
  | _ => true
/-- A Facet position, its Locket, or an FSYNC output. -/
def facetOk (n : Nat) : Bool := decide (n < 4)
/-- A port of four. -/
def portOk (n : Nat) : Bool := decide (n < 4)
/-- A peer slot (R556). -/
def peerOk (n : Nat) : Bool := decide (n < 64)
/-- A PLL (Table TCK-3). -/
def pllOk (n : Nat) : Bool := decide (n < 8)
/-- The width of a register access as a requester may give it; R72 discards other widths of writes. -/
def widthOk (n : Nat) : Bool := decide (1 ≤ n) && decide (n ≤ 8)
/-- A 32-bit value. -/
def word32 (v : Nat) : Bool := decide (v < 2 ^ 32)
/-- A write carries as many bytes as it is long, a read none. -/
def dataOk (write : Bool) (len : Nat) (data : List Byte) : Bool := decide (data.length = if write then len else 0)
/-- Fields of a CFP header within their widths (Table FAB-5). -/
def cfpOk (h : CfpHeader) : Bool :=
  decide (h.magic < 2 ^ 16) && decide (h.version < 2 ^ 8) && decide (h.seq < 2 ^ 16) && decide (h.deviceId < 2 ^ 64)
    && decide (h.port < 4)

/-- The command is well-formed. -/
def Instr.wf : Instr → Bool
  | .registerWrite rq addr width value => rqOk rq && decide (addr < barSize) && widthOk width && decide (value < 2 ^ (8 * width))
  | .rcFieldRead rq addr width => rqOk rq && decide (addr < barSize) && widthOk width
  | .lowWordRead rq addr width => rqOk rq && decide (addr < barSize) && widthOk width
  | .highWordWrite rq addr value => rqOk rq && decide (addr < barSize) && word32 value
  | .lowWordWrite rq addr width value => rqOk rq && decide (addr < barSize) && widthOk width && decide (value < 2 ^ (8 * width))
  | .expUnlockFirstKey rq page upper => rqOk rq && pageOk page && decide (upper < 2 ^ 16)
  | .expUnlockSecondKey rq page value => rqOk rq && pageOk page && word32 value
  | .expRelock rq page upper => rqOk rq && pageOk page && decide (upper < 2 ^ 16)
  | .unlockWindowExpiry rq page => rqOk rq && pageOk page
  | .blockEnable rq page _ => rqOk rq && pageOk page
  | .blockDisable rq page _ => rqOk rq && pageOk page
  | .softReset rq page _ _ => rqOk rq && pageOk page
  | .irqForce rq page bits => rqOk rq && pageOk page && word32 bits
  | .drainComplete page _ => pageOk page
  | .bar2Access fn _ len write data => wsOk fn && dataOk write len data
  | .bar4Access _ len write data => dataOk write len data
  | .tickEventSampling => true
  | .evtLogEnable rq => rqOk rq
  | .evtInject rq word bits => rqOk rq && decide (word < 3) && word32 bits
  | .refclkLost => true
  | .refclkReturn => true
  | .aonclkDisciplined _ => true
  | .pllLock n => pllOk n
  | .pllLockTimeout n => pllOk n
  | .clockMonitorFault pll => decide (pll < 8 ∨ pll = 0xFF)
  | .autoDozeEntry => true
  | .dozeExit _ => true
  | .pmReqNap rq _ _ => rqOk rq
  | .pmReqSleep rq _ _ => rqOk rq
  | .pmReqDeep rq _ _ => rqOk rq
  | .pmReqAwake rq => rqOk rq
  | .pmReqInvalid rq target => rqOk rq && decide (target = 1 ∨ (5 ≤ target ∧ target ≤ 7))
  | .powerStateEntryComplete => true
  | .wakeTimerSet rq value => rqOk rq && decide (value < 2 ^ 64)
  | .wakeTimerMatch => true
  | .wakeStart => true
  | .wakeComplete _ _ _ => true
  | .hbmBackgroundZero stack => ringOk stack
  | .telemetrySample _ => true
  | .powerCapStep => true
  | .facetThermalLimit f => facetOk f
  | .crownThermalLimit _ => true
  | .thermtrip => true
  | .hbmThermalLimit stack => ringOk stack
  | .supplyOutOfRange _ => true
  | .alwaysOnPowerOnReset => true
  | .deviceReset _ => true
  | .perstNFall => true
  | .hifLinkTraining speed _ _ => decide (1 ≤ speed ∧ speed ≤ 6)
  | .configurationRequest fn c => wsOk fn && configOk c
  | .bootClocks => true
  | .refAbsentTimeout => true
  | .storeInit => true
  | .fwLoad => true
  | .fwVerify => true
  | .facets f _ => facetOk f
  | .sideLinks _ _ => true
  | .hbmTrain stack _ => ringOk stack
  | .hostReady => true
  | .stageTimeout => true
  | .watchdogExpiry => true
  | .watchdogRestart => true
  | .capDecl _ m _ => pktOk m.head
  | .guestSlotTimeout => true
  | .tickMessage => true
  | .tickAck _ => true
  | .modeForce rq link _ => rqOk rq && linkOk link
  | .retrain rq link => rqOk rq && linkOk link
  | .linkRetrainComplete link _ => linkOk link
  | .nativeFrame link seq ackSeq _ _ => linkOk link && decide (seq < 4096) && decide (ackSeq < 4096)
  | .nak link seq => linkOk link && decide (seq < 4096)
  | .ack link seq => linkOk link && decide (seq < 4096)
  | .ackTimeoutReplay link => linkOk link
  | .rdReq h _ _ tag => pktOk h && decide (tag < 4096)
  | .wrReq h _ tag _ => pktOk h && decide (tag < 4096)
  | .wrPosted h _ _ => pktOk h
  | .rdCpl link tag _ _ => linkOk link && pktOk tag.head && decide (tag.tag < 4096)
  | .wrCpl link tag _ => linkOk link && pktOk tag.head && decide (tag.tag < 4096)
  | .credit _ _ _ => true
  | .complete m _ _ _ _ => pktOk m.head
  | .txnTimeoutExpiry link tag => linkOk link && decide (tag < 4096)
  | .linkTimeout link tag => linkOk link && decide (tag < 4096)
  | .laneMonitorBurst link _ _ => linkOk link
  | .clTestStart rq link _ => rqOk rq && linkOk link
  | .clTestDone _ => true
  | .tileInstall _ _ => true
  | .tierLate _ _ => true
  | .tierFailed _ _ => true
  | .evictionWritebackDone _ => true
  | .quotaWrite rq w word value => rqOk rq && wsOk w && decide (word < 2) && word32 value
  | .locketLend n => facetOk n
  | .lendReclaim rq => rqOk rq
  | .reclaimPeriodEnd slot => peerOk slot
  | .casketScrub => true
  | .patrolScrub stack => ringOk stack
  | .doorbell rq ws ring tail => rqOk rq && wsOk ws && ringOk ring && decide (tail < 4096)
  | .cancel rq ws rings => rqOk rq && wsOk ws && decide (rings < 16)
  | .admission => true
  | .nop ws ring => wsOk ws && ringOk ring
  | .run ws ring => wsOk ws && ringOk ring
  | .alloc ws ring => wsOk ws && ringOk ring
  | .free ws ring => wsOk ws && ringOk ring
  | .loadPlan ws ring => wsOk ws && ringOk ring
  | .modelLoadComplete _ => true
  | .dmaIn ws ring => wsOk ws && ringOk ring
  | .dmaOut ws ring => wsOk ws && ringOk ring
  | .flush ws ring => wsOk ws && ringOk ring
  | .shareWrite rq ws c value => rqOk rq && wsOk ws && ringOk c && word32 value
  | .dispatch unit => decide (unit < 16)
  | .preemptionYield _ => true
  | .latestStartReached _ => true
  | .requestEnd _ => true
  | .deadlineMissed _ => true
  | .irqModerationExpiry ws => wsOk ws
  | .stateAudit _ => true
  | .facetTile _ f core _ _ => facetOk f && decide (core < 8)
  | .abftRecompute _ f core _ => facetOk f && decide (core < 8)
  | .exchangeStep _ => true
  | .tblCmdAct rq table => rqOk rq && decide (table < 256)
  | .tblCmdDeact rq table => rqOk rq && decide (table < 256)
  | .tableDeactComplete table => decide (table < 256)
  | .gather _ g => decide (g < 2)
  | .update _ g => decide (g < 2)
  | .put _ g => decide (g < 2)
  | .flip g => decide (g < 2)
  | .slotFree g => decide (g < 2)
  | .srSeedWrite rq g value => rqOk rq && decide (g < 2) && word32 value
  | .rcSizeWrite rq value => rqOk rq && word32 value
  | .sketchClear rq => rqOk rq
  | .roundOpen g => decide (g < 2)
  | .roundClose g _ => decide (g < 2)
  | .peerBatch slot _ _ => peerOk slot
  | .remoteReply slot table _ _ => peerOk slot && decide (table < 256)
  | .remoteLateExpiry _ => true
  | .idxCmdAct rq lp _ => rqOk rq && decide (lp < 2)
  | .idxCmdDeact rq lp _ => rqOk rq && decide (lp < 2)
  | .indexDeactComplete lp _ => decide (lp < 2)
  | .searchApproximate _ => true
  | .searchExact _ => true
  | .listScanStart lp _ _ => decide (lp < 2)
  | .merge _ => true
  | .shardLateExpiry _ => true
  | .peerSearch lp slot _ _ _ _ _ _ _ => decide (lp < 2) && peerOk slot
  | .solve _ => true
  | .recheckDue ise => decide (ise < 2)
  | .channelSlot k _ => decide (k < 24)
  | .commit rq mask => rqOk rq && decide (mask < 2 ^ 24)
  | .timingSlip k => decide (16 ≤ k ∧ k < 24)
  | .filter _ => true
  | .outEnable rq => rqOk rq
  | .calStart rq channel range _ => rqOk rq && decide (channel < 24) && decide (range < 4)
  | .hmNsRead rq width => rqOk rq && widthOk width
  | .stampNsRead rq line => rqOk rq && decide (line ≤ 16)
  | .set rq => rqOk rq
  | .snap rq => rqOk rq
  | .switchPri rq => rqOk rq
  | .switchSec rq => rqOk rq
  | .hmCmdInvalid rq code => rqOk rq && decide (code = 0 ∨ (5 ≤ code ∧ code ≤ 7))
  | .stampEdge line subTick => decide (line ≤ 16) && decide (subTick < 1000)
  | .txqPop rq p => rqOk rq && portOk p
  | .sync d _ _ _ logInterval _ _ _ => decide (d < 2) && decide (logInterval < 256)
  | .followUp d _ _ _ => decide (d < 2)
  | .delayReq d _ _ => decide (d < 2)
  | .delayResp d _ _ _ => decide (d < 2)
  | .pdelayReq d _ _ => decide (d < 2)
  | .pdelayResp d _ _ _ _ _ => decide (d < 2)
  | .pdelayRespFollowUp d _ _ _ => decide (d < 2)
  | .announcePtp d _ => decide (d < 2)
  | .managementSignaling d => decide (d < 2)
  | .ptpMessageSend d _ => decide (d < 2)
  | .domainLoss d => decide (d < 2)
  | .domainConfigWrite rq d word value => rqOk rq && decide (d < 2) && decide (word < 3) && word32 value
  | .ppsInEdge subTick => decide (subTick < 1000)
  | .fsyncOutEdge f => facetOk f
  | .fsApply rq f => rqOk rq && facetOk f
  | .ethLinkChange p _ => portOk p
  | .txrTail rq p tail => rqOk rq && portOk p && decide (tail < 4096)
  | .frameRx p _ _ _ _ => portOk p
  | .send slot _ => peerOk slot
  | .rdmaWrite slot _ incoming _ => peerOk slot || (decide (slot = 64) && !incoming)
  | .rdmaRead slot _ _ _ => peerOk slot
  | .roceAckTimeout slot => peerOk slot
  | .cnp slot => peerOk slot
  | .roceRateRaise slot => peerOk slot
  | .announce h _ => cfpOk h
  | .ackCfp h _ => cfpOk h
  | .cfpResend slot _ => peerOk slot
  | .leave h => cfpOk h
  | .gone h => cfpOk h
  | .leaveTimeout slot => peerOk slot
  | .peerSilenceTimeout slot => peerOk slot
  | .handoverRange table _ => decide (table < 256)
  | .handoverEnd h table _ _ => cfpOk h && decide (table < 256)
  | .handoverTimeout table _ => decide (table < 256)
  | .borrowCmdBorrow rq slot => rqOk rq && peerOk slot
  | .borrowCmdRelease rq slot => rqOk rq && peerOk slot
  | .borrowReq h _ => cfpOk h
  | .borrowGrant h _ _ _ => cfpOk h
  | .borrowDeny h => cfpOk h
  | .release h => cfpOk h
  | .reclaim h => cfpOk h
  | .lendRevoke slot => peerOk slot
  | .flr fn => wsOk fn
  | .dmaCompletion _ _ _ => true
  | .nvpEnable rq _ => rqOk rq
  | .nvmeCompletion _ _ _ => true
  | .nvpTimeout _ => true
  | .wrCmd rq => rqOk rq
  | .flashWriteDone _ => true
  | .frameStart n vc _ => decide (n < 8) && decide (vc < 16)
  | .linePacket n vc dt _ _ _ _ => decide (n < 8) && decide (vc < 16) && decide (dt < 64)
  | .frameEnd n vc => decide (n < 8) && decide (vc < 16)
  | .streamEnable rq n stream => rqOk rq && decide (n < 8) && decide (stream < 4)
  | .drdyEdge p subTick _ => portOk p && decide (subTick < 1000)
  | .sampleTransactionDone p cs _ => portOk p && ringOk cs
  | .xfer rq p cs len => rqOk rq && portOk p && ringOk cs && decide (len < 8)
  | .xferDone p _ => portOk p
  | .bspiRead rq => rqOk rq
  | .bspiProgram rq => rqOk rq
  | .bspiErase rq => rqOk rq
  | .bspiOpInvalid rq => rqOk rq
  | .bspiDone _ _ => true
  | .sdmClockCheck edges => decide (edges.length ≤ 16)
  | .sdmClkCfgWrite rq x value => rqOk rq && decide (x < 2) && word32 value
  | .mspiRead addr n _ => decide (addr < barSize) && decide (1 ≤ n ∧ n ≤ 16)
  | .mspiWrite addr words => decide (addr < barSize) && decide (1 ≤ words.length ∧ words.length ≤ 16)
  | .mspiBadCmd op => decide (op < 16 ∧ op ≠ 1 ∧ op ≠ 2)
  | .mspiWaitTimeout n => decide (1 ≤ n ∧ n ≤ 16)
  | .mspiCsRise _ _ _ => true
  | .samplePreload _ _ => true
  | .regAccess _ off _ => decide (off < barSize)
  | .stapSelect _ => true
  | .dwrAccess _ _ => true
  | .bypass code => decide (code < 256)
  | .faultReportClose _ => true
  | .drainLimitExpiry page => pageOk page
  | .sentinelWrite rq _ => rqOk rq
  | .flogEnable rq => rqOk rq
  | .firstClr rq => rqOk rq
  | .faultNClr rq => rqOk rq
  | .injReport rq => rqOk rq
  | .resetCmd rq key => rqOk rq && decide (key < 2 ^ 32)
  | .lockstepMismatch _ _ => true
  | .calResult => true
  | .calTimeout => true
  | .stampRoutine => true
  | .autoSwitch => true
  | .initialStep => true
  | .slewEnd => true
  | .hmCoreStart => true
  | .ppsOutEdge => true
  | .announceSend => true
  | .joinListenEnd => true
  | .hifLinkDown => true
  | .hifLinkUp => true
  | .nvpInitTimeout => true
  | .mspiIdleTimeout => true
  | .tapReset => true
  | .idcode => true
  | .extest => true
  | .clamp => true
  | .highz => true

end Sys2Proof
end

