-- ==== Sys2Proof/Tests/Slice0.lean ====
section
/-! SUPPORT. Tests: ill-formed commands, small checks against figures of the manual, and for every hypothesis of every statement
a state and operands that meet it. -/

set_option Elab.async false

open Sys2Proof Sys2Proof.Machine

/-! ### Ill-formed commands, one for each check -/

theorem test_wf_rq_vf0 : Instr.wf (.evtLogEnable (.vf 0)) = false := by decide
theorem test_wf_page : Instr.wf (.drainComplete 0x400 0) = false := by decide
theorem test_wf_ws : Instr.wf (.irqModerationExpiry 64) = false := by decide
theorem test_wf_ring : Instr.wf (.nop 0 4) = false := by decide
theorem test_wf_link : Instr.wf (.ackTimeoutReplay 8) = false := by decide
theorem test_wf_facet : Instr.wf (.locketLend 4) = false := by decide
theorem test_wf_port : Instr.wf (.ethLinkChange 4 true) = false := by decide
theorem test_wf_peer : Instr.wf (.cnp 64) = false := by decide
theorem test_wf_pll : Instr.wf (.pllLock 8) = false := by decide
theorem test_wf_width : Instr.wf (.rcFieldRead .pf 0 9) = false := by decide
theorem test_wf_width0 : Instr.wf (.rcFieldRead .pf 0 0) = false := by decide
theorem test_wf_address : Instr.wf (.rcFieldRead .pf 0x40_0000 4) = false := by decide
theorem test_wf_word : Instr.wf (.srSeedWrite .pf 0 0x1_0000_0000) = false := by decide
theorem test_wf_write_data : Instr.wf (.bar4Access 0 2 true [0]) = false := by decide
theorem test_wf_read_data : Instr.wf (.bar2Access 0 0 1 false [0]) = false := by decide
theorem test_wf_cfp : Instr.wf (.leave { magic := 0x10000, version := 1, cellId := 0, deviceId := 0, seq := 0, port := 0, listed := true }) = false := by decide
theorem test_wf_value : Instr.wf (.registerWrite .pf 0 4 0x1_0000_0000) = false := by decide
theorem test_wf_key_half : Instr.wf (.expRelock .pf 3 0x1_0000) = false := by decide
theorem test_wf_key : Instr.wf (.expUnlockSecondKey .pf 3 0x1_0000_0000) = false := by decide
theorem test_wf_inject_word : Instr.wf (.evtInject .pf 3 0) = false := by decide
theorem test_wf_clock : Instr.wf (.clockMonitorFault 8) = false := by decide
theorem test_wf_pm_target : Instr.wf (.pmReqInvalid .pf 2) = false := by decide
theorem test_wf_wake_tick : Instr.wf (.wakeTimerSet .pf 0x1_0000_0000_0000_0000) = false := by decide
theorem test_wf_speed : Instr.wf (.hifLinkTraining 0 16 true) = false := by decide
theorem test_wf_seq : Instr.wf (.nak 0 4096) = false := by decide
theorem test_wf_tag : Instr.wf (.rdReq default 0 4 4096) = false := by decide
theorem test_wf_quota_word : Instr.wf (.quotaWrite .pf 0 2 0) = false := by decide
theorem test_wf_tail : Instr.wf (.doorbell .pf 0 0 4096) = false := by decide
theorem test_wf_rings : Instr.wf (.cancel .pf 0 16) = false := by decide
theorem test_wf_unit : Instr.wf (.dispatch 16) = false := by decide
theorem test_wf_core : Instr.wf (.facetTile 0 0 8 default false) = false := by decide
theorem test_wf_table : Instr.wf (.tblCmdAct .pf 256) = false := by decide
theorem test_wf_gse : Instr.wf (.flip 2) = false := by decide
theorem test_wf_lp : Instr.wf (.idxCmdAct .pf 2 0) = false := by decide
theorem test_wf_ise : Instr.wf (.recheckDue 2) = false := by decide
theorem test_wf_slot : Instr.wf (.channelSlot 24 []) = false := by decide
theorem test_wf_commit : Instr.wf (.commit .pf 0x100_0000) = false := by decide
theorem test_wf_slip : Instr.wf (.timingSlip 15) = false := by decide
theorem test_wf_cal_channel : Instr.wf (.calStart .pf 24 0 true) = false := by decide
theorem test_wf_cal_range : Instr.wf (.calStart .pf 0 4 true) = false := by decide
theorem test_wf_hm_code : Instr.wf (.hmCmdInvalid .pf 4) = false := by decide
theorem test_wf_line : Instr.wf (.stampNsRead .pf 17) = false := by decide
theorem test_wf_sub_tick : Instr.wf (.ppsInEdge 1000) = false := by decide
theorem test_wf_domain : Instr.wf (.domainLoss 2) = false := by decide
theorem test_wf_dom_word : Instr.wf (.domainConfigWrite .pf 0 3 0) = false := by decide
theorem test_wf_log_interval : Instr.wf (.sync 0 true false 0 256 0 0 0) = false := by decide
theorem test_wf_csi : Instr.wf (.frameEnd 8 0) = false := by decide
theorem test_wf_vc : Instr.wf (.frameEnd 0 16) = false := by decide
theorem test_wf_dt : Instr.wf (.linePacket 0 0 64 true false true []) = false := by decide
theorem test_wf_stream : Instr.wf (.streamEnable .pf 0 4) = false := by decide
theorem test_wf_xfer_len : Instr.wf (.xfer .pf 0 0 8) = false := by decide
theorem test_wf_edges : Instr.wf (.sdmClockCheck (List.replicate 17 0)) = false := by decide
theorem test_wf_sdm_clock : Instr.wf (.sdmClkCfgWrite .pf 2 0) = false := by decide
theorem test_wf_mspi_n : Instr.wf (.mspiRead 0 17 0) = false := by decide
theorem test_wf_mspi_words : Instr.wf (.mspiWrite 0 []) = false := by decide
theorem test_wf_mspi_op : Instr.wf (.mspiBadCmd 1) = false := by decide
theorem test_wf_tap_off : Instr.wf (.regAccess false 0x40_0000 0) = false := by decide
theorem test_wf_tap_code : Instr.wf (.bypass 256) = false := by decide
theorem test_wf_reset_key : Instr.wf (.resetCmd .pf 0x1_0000_0000) = false := by decide

theorem test_wf_ok : (Instr.wf (.doorbell (.vf 63) 63 3 4095) && Instr.wf (.channelSlot 23 []) && Instr.wf (.evtLogEnable .tap)) = true := by
  decide

/-! ### Figures of the manual -/

/-- The check value of CRC-32C over the digits 1 to 9. -/
theorem test_crc32c : crc32c (leBytes 9 0x393837363534333231) = 0xE3069283 := by decide +kernel

/-- Table SCOPE-5: a FRAME request past its deadline, and one at it (R21). -/
theorem test_frame_late : finalOutcome 0 5 6 false = ocDeadlineMissed ∧ finalOutcome 0 5 5 false = ocDone := by decide

/-- With the end of the tick queued and done, the next idle step passes the tick (log entry 3). -/
theorem test_idle_tick : (match step { State.reset with evt := { State.reset.evt with tickDone := true } } with
    | .next t => t.tick
    | _ => 0) = 1 := by decide +kernel

/-- No row of the table has bits (log entry 38). -/
theorem test_no_word : decodeTableWord 8 1 = none ∧ (State.reset.withFetchWord 8 1).pending = [] := by decide

/-- Table FIL-5: the taps of ROM responses 0, 16 and 31. -/
theorem test_rom_taps : romTaps 0 = 1 ∧ romTaps 16 = 127 ∧ romTaps 31 = 23 := by decide

/-- R528: 50 ppm of a tick is 0.05 ns, and 2^-32 ns is the unit. -/
theorem test_slew : slewStep = 50 * 1000 * nsUnit / 1000000 := by decide

/-! ### States that meet the hypotheses -/

/-- A device that has booted, in AWAKE. -/
def awakeState : State := State.reset.wr DEV.BOOT_STAGE 8

/-- The same with every PLL locked. -/
def clockedState : State := awakeState.wr BZ_PM.PLL_LOCK 0xFF

/-- The same with the host link up. -/
def hostState : State := awakeState.setBoot { awakeState.boot with linkUp := true }

/-- A block in a state. -/
def blockIn (st : BState) : Block :=
  { st := st, drained := true, cause := 0, entry := 0, mism := 0, faultLocal := false, report := none }

/-- A device whose event log is enabled at the keep region's start with a write index. -/
def logState (w : Nat) : State :=
  ((State.reset.wr BZ_EVT.EVT_CTRL_LOG_EN 1).wr64 BZ_EVT.EVT_LOG_BASE_LO BZ_EVT.EVT_LOG_BASE_HI casketBase).wr BZ_EVT.EVT_WR_IDX w

/-- A booted device with PLL 0 and PLL 3 running and the Casket's page READY. -/
def pllState : State :=
  { clockedState.setBlk 0x010 (blockIn .ready) with pwr := { pwrReset with pllOn := [(0, 0), (3, 0)] } }

/-- A booted device with one descriptor pending on ring 0 of workspace 1. -/
def pendingState : State := awakeState.wr (WS.RING_TAIL 1 0) 1

/-- An open report. -/
def reportOne : Report := { (default : Report) with page := 0x011, seq := 3 }

/-- A booted device with an open report, number 3, on page 0x011. -/
def reportState : State :=
  awakeState.setFlt { awakeState.flt with opens := [(3, reportOne)] }

/-- The same with the fault log enabled at the keep region's start. -/
def flogState : State := (reportState.wr BZ_FAULT.FLOG_CFG_EN 1).wr64 BZ_FAULT.FLOG_BASE_LO BZ_FAULT.FLOG_BASE_HI casketBase

/-- A booted device with Hallmark's timing core running. -/
def hmState : State := (awakeState.setBlk 0x080 (blockIn .active)).wr HM.CELL_STAT_COARSE 0

/-- A capability block that passes every check of Table CLS-5. -/
def capOk : List Byte :=
  let b := leBytes 4 0x4C425043 ++ [0, 1, 1, 1] ++ leBytes 2 8 ++ leBytes 2 8 ++ leBytes 2 64 ++ leBytes 2 4096
    ++ leBytes 8 0x10000 ++ List.replicate 36 0
  b ++ leBytes 4 (crc32c b)

/-- A booted device on which a native link carries traffic. -/
def upState (l : Nat) : State := awakeState.wr (CL.LINK_STAT_STATE l) lsUp

/-- The same with one transaction outstanding on link 0. -/
def txnState : State :=
  (upState 0).setLnk 0 { linkReset with txns := [{ tag := 4095, rid := some 7, fetch := none, issue := 0, expired := none }] }

/-- A PMX-7241 with an accepted guest and one writable window of 64 KiB at address 0. -/
def guestState : State :=
  { ((upState 3).wr (CL.CAP_STAT_NEG_STATE 3) 2) with
    part := .pmx7241
    guest := { guestReset with accepted := true, maxPkt := 4096, hisReq := 128, hisData := 2048, gmapOld := [(0, 65536, true)] } }

/-- The head of a packet that arrives in order; the same guest with credits of its own left and some granted to the Crown; and its
entry of the work ring for request 7. -/
def headOk : PktHead := { seq := 0, ackSeq := 0, crcOk := true, listed := true }
def creditState : State :=
  { guestState with guest := { guestState.guest with credReq := 8, credCpl := 8, credData := 64, hisCpl := 8 } }
def guestEntry (cancelled : Bool) : GuestEntry :=
  { place := 0, tag := 3, rid := 7, disp := 0, sent := some 1, cancelled := cancelled }

/-- A request of workspace 1 with tag 9, class BULK, and no unit. -/
def reqOne : Req := { (default : Req) with ws := 1, tag := 9, cls := 3, op := 1 }

/-- A booted device whose workspace 1 is granted the keep region's first 64 KiB. -/
def grantedState : State :=
  ((awakeState.wr64 (WS.GRANT_BASE_LO 1 0) (WS.GRANT_BASE_HI 1 0) casketBase).wr (WS.GRANT_SIZE 1 0) 1).wr (WS.GRANT_CTRL_EN 1 0) 1

/-- A booted device on which a request, number 7, runs; its workspace's completion ring stands in the keep region. -/
def reqState (r : Req) : State :=
  let s := (grantedState.wr64 (WS.CPL_BASE_LO 1) (WS.CPL_BASE_HI 1) casketBase).setBlk 0x101 (blockIn .active)
  s.setSch { s.sch with reqs := [(7, r)], nextRid := 8 }

/-- A cause that ends a request as late, and a request it ends. -/
def endOne : Ending := { rep := none, outcome := 0x0300, cause := 0, endTick := none }
def endedReq : Req := { reqOne with ends := some endOne }

/-- A fetch of tile 0 of object 5 of workspace 1 from a source into the first slot after the keep region. -/
def fetchOne (src tier : Nat) : Fetch :=
  { ws := 1, obj := 5, tile := 0, tier := tier, src := src, lent := false, dest := some (casketBase + 512 * tileSize)
    waitSlot := none, issue := 0, waits := [(7, 0)], asked := [], parts := [] }

/-- The slot it is fetched into. -/
def slotOne : Slot := newSlot 1 5 0 1 false true 0 0 [7]

/-- Request 7 waits on that fetch, number 2. -/
def fetchState (src tier : Nat) : State :=
  let s := reqState { reqOne with phase := .running }
  s.setCk { s.ck with
    slots := [(casketBase + 512 * tileSize, slotOne)]
    fetches := [(2, fetchOne src tier)]
    objs := [{ ws := 1, id := 5, tiles := 1, home := tier, place := 0, addrs := [src], lost := false, freedBy := none }] }

/-- A tile with a sound header and no payload. -/
def tileOne : List Byte := (tileBytes { (default : TileHdr) with tag := tileTag, format := 0x0C, layout := 7, dim0 := 1, dim1 := 4, pitch := 4 } [1, 2, 3, 4]).take 68

/-- A booted device on which the write-back of a dirty tile is under way. -/
def dirtyState : State :=
  let s := awakeState.dpaWrite (casketBase + 512 * tileSize) [1, 2, 3]
  s.setCk { s.ck with
    slots := [(casketBase + 512 * tileSize, { slotOne with dirty := true, writeback := true })]
    objs := [{ ws := 1, id := 5, tiles := 1, home := 2, place := 0, addrs := [0x8000], lost := false, freedBy := none }] }

/-- A booted device with one descriptor, its first 40 bytes given, pending on ring 0 of workspace 1. -/
def ringState (d : List Byte) : State :=
  let a := casketBase + 0x10000
  let s := (((grantedState.wr WK_SCHED.SCHED_CTRL_ADMIT_EN 1).setBlk 0x101 (blockIn .active)).wr64 (WS.CPL_BASE_LO 1) (WS.CPL_BASE_HI 1)
    casketBase).wr (WS.SHARE 1 3) 500
  (((s.wr64 (WS.RING_BASE_LO 1 0) (WS.RING_BASE_HI 1 0) a).wr (WS.RING_TAIL 1 0) 1).dpaWrite a d).setSubmits 1 0 [0]

/-- The descriptor of class BULK with an opcode, a tag of 9, OBJ_A, OBJ_B, placement word and count. -/
def descBytes (op plan a b place count : Nat) : List Byte :=
  leBytes 1 op ++ leBytes 1 3 ++ leBytes 2 9 ++ leBytes 4 plan ++ leBytes 8 0 ++ leBytes 8 a ++ leBytes 8 b ++ leBytes 4 place
    ++ leBytes 4 count

/-- The device with an uncorrectable error armed for the next read of its ring. -/
def eccRing : State := (ringState []).wr CK_CTRL.INJ_ECC 2

/-- The same with an object of one tile at home in HBM. -/
def objState (d : List Byte) (slots : NMap Slot) : State :=
  let s := ringState d
  s.setCk { s.ck with slots := slots, objs := [{ ws := 1, id := 5, tiles := 1, home := 2, place := 0, addrs := [0x8000], lost := false, freedBy := none }] }

/-- The same with a plan of one unit, the ISE 0, under number 2. -/
def planState (d : List Byte) : State :=
  let s := ringState d
  s.setSch { s.sch with plans := [(planKey 1 2, { plan := { (default : Plan) with units := [(12, 8)] }, resident := 0, streamed := false, window := [], pinned := [] })] }

/-- A cancel of ring 0 of workspace 1, written in the tick before, with one descriptor pending. -/
def cancelState : State :=
  let s := { (((awakeState.wr WK_SCHED.SCHED_CTRL_ADMIT_EN 0).wr (WS.RING_TAIL 1 0) 1).setSubmits 1 0 [0]) with tick := 1 }
  s.setSch { s.sch with cancels := [(4, 0)] }

/-- A booted device whose DMA engine is claimed to its capacity. -/
def fullState : State := reqState { reqOne with est := [(15, awakeState.capacity 15)] }

/-- A load of a plan whose tiles are all in place. -/
def loadReq : Req := { reqOne with op := 4, slot := some { plan := default, resident := 0, streamed := true, window := [], pinned := [] } }

/-- A waiting request for the ISE 0, and the device it waits on. -/
def waitReq (loan : Bool) : Req := { reqOne with est := [(12, 8)], loan := loan }
def waitState (loan : Bool) : State := (reqState (waitReq loan)).setBlk 0x070 (blockIn .ready)

/-- A tile that passes its check, and one that fails it. -/
def tileWork : TileWork := .product 0x0C 0x0C [[1, 0], [0, 1]] [[1, 3], [2, 4]] 0
def tileOk : TileRun := { work := tileWork }
def tileBad : TileRun := { work := tileWork, faults := [{ row := 1, col := 1, bits := 1 }] }
def vecTile : TileRun := { work := .vector .fma 0x0C [[1, 2]] [[3, 4]] [[5, 6]] 0 }
def sumsOk : TileSums := { isFloat := false, rows := [[1, 2], [3, 4]], rowCheck := [3, 7], colCheck := [4, 6] }
def sumsBad : TileSums := { sumsOk with rows := [[1, 2], [3, 5]] }

/-- Requests with a phase of one tile on Facet 0: plain; a reduction; with a tile that waits; with its partial sum. -/
def facetReq : Req := { reqOne with phase := .running, est := [(0, 8), (4, 8)], steps := [.phase 1 1 false false [] [(0x0C, 0x0C)] 8 0x0A none] }
def reduceReq : Req := { facetReq with steps := [.phase 1 1 true true [] [(0x0C, 0x0C)] 8 0x0A none] }
def abftOne : Abft := { f := 0, core := 7, work := tileWork, sums := sumsBad, nonfinite := false, both := false, tick := 0 }
def abftReq : Req := { facetReq with abft := some abftOne }
def exchReq : Req := { reduceReq with partials := [(0, sumsOk)] }

/-- The device they run on, with their output object at home in the Casket. -/
def facetState (r : Req) : State :=
  let s := (reqState r).setBlk 0x040 (blockIn .active)
  s.setCk { s.ck with objs := [{ ws := 1, id := 8, tiles := 1, home := 1, place := 0, addrs := [casketBase + 512 * tileSize], lost := false, freedBy := none }] }

/-- A learnable table of 1,000 rows of 16 elements. -/
def tabOne : MapTab :=
  { fmt := 0x0E, elems := 16, learn := true, stoch := false, sharded := false, opt := 1, rmw := true, shift := 8, rows := 1000
    shadow := 8, ptrObj := 5, slotObj := 6, shadowObj := 7, lr := 0, beta1 := 0, beta2 := 0, eps := 0, cacheTiles := 0, ws := 1
    used := [], freed := [], leaving := false }

/-- A booted device with that table active under number 3; the same with a request that runs on GSE 0. -/
def tabState : State :=
  let s := awakeState.setBlk 0x062 (blockIn .ready)
  s.setRows { s.rows with tabs := [(3, tabOne)] }
def rowState (r : Req) : State :=
  let s := ((reqState r).setBlk 0x060 (blockIn .active)).setBlk 0x062 (blockIn .ready)
  s.setRows { s.rows with tabs := [(3, tabOne)] }
def gatherReq : Req := { reqOne with phase := .running, est := [(10, 8)], steps := [.gather 3 5 6 0 false] }
def updateReq : Req := { gatherReq with steps := [.update 3 5 6] }
def putReq : Req := { gatherReq with steps := [.put 3 5 6] }

/-- A directory whose entry 3 is sound, and the objects it names. -/
def entryState : State :=
  let b := [3, 0x0E] ++ leBytes 2 16 ++ [0, 0, 0, 8] ++ leBytes 4 1000 ++ leBytes 4 0 ++ leBytes 8 5 ++ leBytes 8 6 ++ leBytes 8 0
    ++ List.replicate 14 0 ++ [1] ++ List.replicate 5 0
  let s := ((awakeState.setBlk 0x062 (blockIn .ready)).wr64 MAP_DIR.DIR_BASE_LO MAP_DIR.DIR_BASE_HI casketBase).dpaWrite
    (casketBase + 192) (b ++ leBytes 4 (crc32c b))
  let o : Obj := { ws := 1, id := 5, tiles := 2, home := 2, place := 0, addrs := [0x8000, 0x10000], lost := false, freedBy := none }
  s.setCk { s.ck with objs := [o, { o with id := 6 }] }

/-- A flip of row 9 of table 3 to its shadow slot 1,001, and the device on which it waits. -/
def flipOp : FlipOp :=
  { rid := none, peer := none, g := 0, table := 3, row := 9, newSlot := 1001, oldSlot := 9, version := 2, written := 0 }
def flipState : State :=
  let s := { rowState gatherReq with tick := 1 }
  let s := s.setRows { s.rows with flips := [flipOp] }
  s.setCk { s.ck with objs := [{ ws := 1, id := 5, tiles := 1, home := 1, place := 0, addrs := [casketBase + 512 * tileSize], lost := false, freedBy := none }] }

/-- A lookup of row 9 at peer slot 2, waiting for a round or sent in one. -/
def lookOne (round : Option Nat) : Lookup :=
  { rid := 7, g := 0, table := 3, row := 9, pos := 0, owner := 3, slot := 0, ver := 0, joined := 0, issue := round.map (fun _ => 0)
    epoch := 0, round := round, upd := none, answer := none }
def lookState (round : Option Nat) : State :=
  let s := rowState gatherReq
  s.setRows { s.rows with lookups := [lookOne round] }

/-- A booted device in a cell with a peer in slot 2. -/
def peerState : State :=
  let s := tabState.setBlk 0x08C (blockIn .active)
  { s with fab := { s.fab with peers := [(2, default)] } }

/-- An index of four nodes of 16 FP32 elements, its directory entry under number 40, and devices with the entry and the index. -/
def indexOne : LpIndex :=
  { fmt := 0, metric := 0, normed := false, peerServe := true, dims := 16, degree := 8, ws := 1, nodesM1 := 3, entry := 0
    nodeObj := 5, listObj := 0, centObj := 0, lists := 1, shard := 0, table := [(0, 4)], leaving := false }
def indexBytes : List Byte :=
  let b := [40, 0, 0, 2] ++ leBytes 2 16 ++ [8, 1] ++ leBytes 4 3 ++ leBytes 4 0 ++ leBytes 8 5 ++ List.replicate 16 0 ++ leBytes 4 1
    ++ List.replicate 16 0
  b ++ leBytes 4 (crc32c b)
def listBytes : List Byte :=
  let b := [40, 0, 0, 2] ++ leBytes 2 16 ++ [8, 1] ++ leBytes 4 3 ++ leBytes 4 0 ++ leBytes 8 5 ++ leBytes 8 5 ++ leBytes 8 5 ++ leBytes 4 1
    ++ List.replicate 16 0
  b ++ leBytes 4 (crc32c b)
def entryOf (b : List Byte) : State :=
  let s := ((awakeState.setBlk 0x068 (blockIn .active)).wr64 (LP.IDX_BASE_LO 0) (LP.IDX_BASE_HI 0) casketBase).dpaWrite
    (casketBase + 64 * 40) b
  s.setCk { s.ck with objs := [{ ws := 1, id := 5, tiles := 1, home := 2, place := 0, addrs := [0x8000], lost := false, freedBy := none }] }
def indexState : State := entryOf indexBytes
def loupeState (r : Req) : State :=
  let s := (reqState r).setBlk 0x068 (blockIn .active)
  s.setLps { s.lps with idx := [(40, indexOne)] }
def searchReq (exact : Bool) : Req :=
  { reqOne with phase := .running, est := [(8, 8)], steps := [.search exact 40 1 256 5 0 5 6] }
def mergeReq : Req := { searchReq false with steps := [.merge false 5 3 2 5 9] }
def scanOne : ListScan := { lp := 0, index := 40, x := indexOne, list := 0, opened := 0, running := false, pos := 0 }
def loupePeer : State :=
  let s := (loupeState reqOne).setBlk 0x08C (blockIn .active)
  { s with fab := { s.fab with peers := [(2, default)] } }

/-- A peer's search that has begun, or not; and the device that fetches the index's tile. -/
def searchOne : PeerSearch :=
  { slot := 2, lp := 0, index := 40, qi := 0, x := indexOne, k := 1, l := 4, visitMax := 1, exact := false, probe := 0, charged := 0 }
def peerQ (started ctx : Bool) : LpQuery := { newQuery peerRid 0 40 0 indexOne [] with started := started, ctx := ctx }
def peerTurn (p : PeerSearch) (q : LpQuery) (s : State) : WalkAns × LpQuery × State :=
  if p.exact = true then ((s.grantCtx p.lp s.lps.queries.length).syncCtx p.lp).exactTurn peerRid p.lp p.index p.probe p.x q
  else ((s.grantCtx p.lp s.lps.queries.length).syncCtx p.lp).approxTurn peerRid p.lp p.l p.visitMax p.x q
def withPeer (started : Bool) (s : State) : State :=
  s.setLps { s.lps with peers := [searchOne], queries := [peerQ started true] }
def ctxFull : State :=
  (withPeer false loupePeer).setLps { (withPeer false loupePeer).lps with
    queries := peerQ false false :: List.replicate 1024 { newQuery 7 0 40 0 indexOne [] with ctx := true } }
def peerFar : State :=
  loupePeer.setCk { loupePeer.ck with objs := indexState.ck.objs, fetches := [(2, fetchOne 0x8000 2)] }

/-- A system of one equation, its request and run on ISE 0, and the device; the value of A is 1. -/
def solveSched : IseSchedule :=
  { n := 1, nnz := 1, prec := 0, block := 0, factorTier := 1, nnzL := 1, levelsF := 0, levelsB := 0, maxIter := 9, tol := 0x3A83126F
    cIt := 1, cSetup := 1, patternObj := 9, pattern := [[0]] }
def solveReq : Req :=
  { reqOne with
    phase := .running, est := [(12, 8)], steps := [.solve], objA := 8, objB := 10, args := leBytes 8 9 ++ List.replicate 8 0
    slot := some { plan := { (default : Plan) with ise := some solveSched }, resident := 0, streamed := false, window := [], pinned := [] } }
def solveRun : IseRun :=
  { ise := 0, rid := 7, tol := 0x3A83126F, maxIter := 9, x := [0], r := [0x3F800000], z := [0x3F800000], p := [0x3F800000]
    rho := 0x3FF0000000000000, nb := 0x3FF0000000000000, nr := 0x3FF0000000000000, i := 0, restarts := 0, shifts := 0, pivotRow := 0
    seq := 0, resid := 0, cycles := 0, due := false, vers := [], pre := [], stop := none }
def doneRun : IseRun := { solveRun with r := [0], nr := 0 }
def solveState (l : List IseRun) : State :=
  let s := ((reqState solveReq).setBlk 0x070 (blockIn .active)).dpaWrite (casketBase + 512 * tileSize)
    ((tileBytes { (default : TileHdr) with tag := tileTag, dim0 := 1, dim1 := 1, pitch := 4 } (leBytes 4 0x3F800000)).take 68)
  let s := s.setCk { s.ck with objs := [{ ws := 1, id := 8, tiles := 1, home := 1, place := 0, addrs := [casketBase + 512 * tileSize], lost := false, freedBy := none }] }
  { s with ises := l }

/-- Settings of SPI channel 20: enabled, W 3, R 1, 100,000 samples a second; devices on which Filigree is READY, with
the channel enabled under them and its output ring enabled in the Casket; one with the settings staged. -/
def spiCfg : FilCfg := [0x11, 0, 0, 100000]
def filState (en : Bool) (q : List (Int × Int)) : State :=
  let s := ((awakeState.setBlk 0x078 (blockIn .ready)).wr64 FIL.OUT_BASE_LO FIL.OUT_BASE_HI casketBase).wr FIL.OUT_CFG_EN 1
  if en then s.setChan 20 { chanReset with cfg := spiCfg, queue := q } else s
def stagedState : State :=
  (awakeState.setWord 0x079 0x240 0x11).setWord 0x079 0x24C 100000

/-- A request with a FILTER step, and calibrations of channel 3 and range 1 with n samples collected. -/
def filterReq : Req := { reqOne with phase := .running, est := [(14, 8)], steps := [.filter true 3 8 31 5 6] }
def calOne (n : Nat) : FilCal := { channel := 3, range := 1, ref := false, since := 0, raws := List.replicate n 4, sat := false }
def calState (n : Nat) : State :=
  let s := filState true []
  ((((s.setFil { s.fil with cal := some (calOne n) }).wr FIL_CAL.CAL_SAMPLES 16).wr FIL_CAL.CAL_STAT_RESULT 1).wr (FIL_CAL.GAIN 3 1) 0x3F800000).wr FIL_CAL.CAL_REF
    0x3F800000

/-- A device on which both domains take PTP on ports 0 and 1, each in a state; one on which FSYNC output 3 runs in a mode,
with edges every 100 ticks from 50 or every 100,000 ns from 50; one with settings staged for it. -/
def ptpState (st : Nat) : State :=
  ((((hmState.wr (HM_DOM.DOM_CFG_SRC 0) 1).wr (HM_DOM.DOM_CFG_SRC 1) 1).wr (HM_DOM.DOM_CFG_PORT 1) 1).wr
    (HM_DOM.DOM_STAT_STATE 0) st).wr (HM_DOM.DOM_STAT_STATE 1) st
def fsState (m : Nat) : State :=
  hmState.setHm { hmState.hm with fs := [(3, { mode := m, start := 50, period := if m = 1 then 100 else 100000, width := 9 })] }
def stagedFs (m p w : Nat) : State := ((hmState.wr (HM.FS_CFG_MODE 3) m).wr (HM.FS_PERIOD 3) p).wr (HM.FS_WIDTH 3) w

/-- A peer in slot 2, a message of it, and one sent to it; a booted device in its cell with ETH0 up; the same with the message
unacknowledged, with a frame queued, with a receive buffer, with a tile granted to the peer, and with a range to hand over. -/
def peerOne : Peer := { (default : Peer) with dev := 9, interval := 1000, rate := 20000 }
def cfpOne : CfpHeader := { magic := 0x4643, version := 1, cellId := 0, deviceId := 9, seq := 6, port := 0, listed := true }
def outOne : CfpOut := { seq := 7, kind := 5, words := [1], sent := 0, resends := 5 }
def fabState : State :=
  let s := (((awakeState.setBlk 0x08C (blockIn .active)).setBlk 0x088 (blockIn .active)).wr (FAB.PEER_STAT_STATE 2) 2).wr
    (FAB.PEER_ID_LO 2) 9
  { s with fab := { s.fab with peers := [(2, peerOne)] } }
def resendState : State := { fabState with fab := { fabState.fab with peers := [(2, { peerOne with unacked := [outOne] })] } }
def ethState : State :=
  (fabState.wr (ETH.LINK_STAT_UP 0) 1).wr64 (ETH.TXR_BASE_LO 0) (ETH.TXR_BASE_HI 0) casketBase
def rxState : State :=
  (((fabState.wr (ETH.LINK_STAT_UP 0) 1).wr (ETH.RX_FILTER 0) 1).wr64 (ETH.RXR_BASE_LO 0) (ETH.RXR_BASE_HI 0) casketBase).dpaWrite
    casketBase (leBytes 8 (casketBase + 4096))
def grantOne : Grant := { places := [casketBase], key := 5, order := 0, reclaim := none }
def grantState : State := { fabState with fab := { fabState.fab with peers := [(2, { peerOne with grant := some grantOne })] } }
def handState (frozen : Bool) : State :=
  { fabState with fab := { fabState.fab with outs := [(3, 0, frozen)], cur := { id := 1, members := [9] } } }

/-- A DMA request of 4 bytes to or from the Casket's start; devices with a fetch from the SSD under way and with a write set up;
one with a camera's stream bound to channel 0 for RAW8; one with sensor port 0 serving rising data-ready edges; one with the port
page unlocked; a frame in capture. -/
def dmaReq (op : Nat) : Req :=
  { reqOne with op := op, hostOut := true, objA := 2 ^ 64 + casketBase, objB := 0x1000, count := 4 }
def nvmeState : State := (fetchState flashBase 3).wr NVP.NVP_STAT_CTRL_STATE 2
def wrState : State :=
  (((awakeState.wr NVP.NVP_STAT_CTRL_STATE 2).wr64 NVP.WR_SRC_LO NVP.WR_SRC_HI casketBase).wr NVP.WR_TILES 1).wr64 NVP.NS_BYTES_LO
    NVP.NS_BYTES_HI 0x100000
def tileWrite : FlashOp := { op := 0, flash := 0, casket := casketBase, len := tileSize, since := 0 }
def csiState : State :=
  (((awakeState.setBlk (pgCsi 0) (blockIn .ready)).wr (CSI.STR_CFG_EN 0 0) 1).wr (CSI.STR_CFG_DT 0 0) 0x2A).wr (CSI.FRAME_SIZE_WIDTH 0 0) 4
def capOne : Capture :=
  { tile0 := [], cur := [], buf := 0, fsTick := 0, frameNum := 9, lines := 1, flags := 0, vc := 0 }
def spmState : State :=
  (((((awakeState.setBlk 0x09A (blockIn .active)).wr (SPM.PORT_CFG_EN 0) 1).wr (SPM.PORT_CFG_DRDY_EN 0) 1).wr (SPM.PORT_CFG_DRDY_POL 0) 1).wr
    (SPM.CS_CFG_LIST 0 2) 1).wr (SPM.CS_CFG_SAMPLE_BITS 0 2) 8
def unlockedSpm : State := spmState.wr (HDR.EXP_STATE_UNLOCKED 0x09A) 1

/-- A pair is its first part with its second. -/
theorem pair_of_first {α β : Type} {p : α × β} {q : α} (h : p.1 = q) : p = (q, p.2) := by
  cases h; rfl

/-- A triple is its first part with the other two. -/
theorem triple_of_first {α β γ : Type} {p : α × β × γ} {q : α} (h : p.1 = q) : p = (q, p.2.1, p.2.2) := by
  cases h; rfl

/-- A read where an uncorrectable error is armed finds it. -/
theorem eccRead_meets_error {mech a ws : Nat} {s : State} (hz : s.unzeroed a = false) (hp : inPackage s.part a = true)
    (hi : s.rd (storeOf a).1 = 2) : (s.eccRead mech a ws).1.isSome = true := by
  unfold State.eccRead
  generalize storeOf a = p at *
  obtain ⟨f, g⟩ := p
  generalize hu : s.unzeroed a = u at *
  generalize hv : inPackage s.part a = v at *
  subst hz hp
  simp only [State.takeInj, hi]
  rfl

/-- A ring in the Casket whose next read meets an uncorrectable error. -/
theorem fetch_meets_error {w r a : Nat} {s : State} (hl : s.on (WS.RING_CFG_LOC w r) = false)
    (ha : s.ringBase w r + 64 * (s.rd (WS.RING_HEAD w r) % s.ringSize w r) = a) (hz : (s.readTo 0 a 64).unzeroed a = false)
    (hp : inPackage (s.readTo 0 a 64).part a = true) (hi : (s.readTo 0 a 64).rd (storeOf a).1 = 2) :
    (s.fetchDesc w r).1.isSome = true := by
  have h : s.fetchDesc w r = (s.readTo 0 a 64).eccRead 0x01 a w := by
    subst ha
    exact if_neg (by rw [hl]; decide)
  rw [h]
  exact eccRead_meets_error hz hp hi

/-- A head descriptor that cannot be read is all that is read. -/
theorem fetchHead_of_error {w r : Nat} {d : Desc} {s : State} (h : (s.fetchDesc w r).1.isSome = true) :
    s.fetchHead w r d = s.fetchDesc w r := if_pos h

theorem eccRing_meets_error : (eccRing.fetchDesc 1 0).1.isSome = true := by
  have hl : eccRing.on (WS.RING_CFG_LOC 1 0) = false := by decide +kernel
  have ha : eccRing.ringBase 1 0 + 64 * (eccRing.rd (WS.RING_HEAD 1 0) % eccRing.ringSize 1 0) = casketBase + 0x10000 := by
    decide +kernel
  have hz : (eccRing.readTo 0 (casketBase + 0x10000) 64).unzeroed (casketBase + 0x10000) = false := by decide +kernel
  have hp : inPackage (eccRing.readTo 0 (casketBase + 0x10000) 64).part (casketBase + 0x10000) = true := by decide +kernel
  have hi : (eccRing.readTo 0 (casketBase + 0x10000) 64).rd (storeOf (casketBase + 0x10000)).1 = 2 := by decide +kernel
  generalize eccRing = s at *
  exact fetch_meets_error hl ha hz hp hi

/-! ### The machine as a whole -/

theorem stepKeepsCanonicalForms_met : ∃ (s t : State),
    s.canonical = true ∧
    step s = .next t :=
  ⟨State.reset, State.reset.idleStep, ⟨by decide, rfl⟩⟩

theorem onlyIdleStepsPassTime_met_1 : ∃ (c : Instr) (s : State),
    c ≠ .alwaysOnPowerOnReset :=
  ⟨.admission, State.reset, by decide⟩

theorem onlyIdleStepsPassTime_met_2 : ∃ (s t : State),
    s.pending = [] ∧
    step s = .next t :=
  ⟨State.reset, State.reset.idleStep, ⟨rfl, rfl⟩⟩

theorem fieldWriteIsLocal_met : ∃ (s : State) (f g : FRef) (v : Nat),
    f.hi < 32 :=
  ⟨State.reset, BZ_FAULT.SENTINEL, BZ_PM.PM_STATE_CUR, 1, by decide⟩

/-! ### Register accesses -/

theorem registerWriteByAccessCode_met_1 : ∃ (rq : Requester) (addr page v : Nat) (s : State),
    (target rq addr = some (page, 0x01C) ∧ s.answers rq page ∧ addr % 4 = 0) :=
  ⟨.bezel, 0x301C, 3, 7, State.reset, by decide⟩

theorem registerWriteByAccessCode_met_2 : ∃ (rq : Requester) (addr page v : Nat) (s : State),
    (target rq addr = some (page, 0x020) ∧ s.answers rq page ∧ addr % 4 = 0) :=
  ⟨.vf 63, 0x020, 0x13F, 0xFFFFFFFF, awakeState, by decide⟩

theorem registerWriteByAccessCode_met_3 : ∃ (rq : Requester) (addr page off v : Nat) (s : State),
    (target rq addr = some (page, off) ∧ s.answers rq page ∧ addr % 4 = 0) ∧
    (wordDefined page off = false ∧ off < 0x800) :=
  ⟨.tap, 0x37FC, 3, 0x7FC, 1, State.reset, by decide⟩

theorem registerWriteByAccessCode_met_4 : ∃ (rq : Requester) (addr n v : Nat) (s : State),
    badWrite addr n = true :=
  ⟨.pf, 0x102, 4, 1, State.reset, by decide⟩

theorem registerWriteByAccessCode_met_5 : ∃ (rq : Requester) (addr page off v : Nat) (s : State),
    (target rq addr = some (page, off) ∧ s.answers rq page ∧ addr % 4 = 0 ∧ s.lockedOut page off = false ∧ rqIsVf rq = false) ∧
    (0x020 ≤ page ∧ page ≤ 0x027 ∧ 0x180 ≤ off ∧ off < 0x280 ∧ (page ≠ 0x023 ∨ s.part ≠ .pmx7241)) :=
  ⟨.bezel, 0x2727C, 0x027, 0x27C, 1, awakeState, by decide⟩

theorem rcReadReturnsAndClears_met_1 : ∃ (rq : Requester) (addr page off : Nat) (s : State),
    (target rq addr = some (page, off) ∧ s.answers rq page ∧ addr % 4 = 0) ∧
    ((off = 0x038 ∨ off = 0x03C) ∧ page ≠ 0x003) :=
  ⟨.mspi, 0x4038, 4, 0x038, State.reset, by decide⟩

theorem rcReadReturnsAndClears_met_2 : ∃ (rq : Requester) (addr page off : Nat) (s : State),
    (target rq addr = some (page, off) ∧ s.serve page = .nothing ∧ addr % 4 = 0) :=
  ⟨.pf, 0x07038, 7, 0x038, State.reset, by decide⟩

theorem sixtyFourBitRegisterAccess_met_1 : ∃ (rq : Requester) (s : State),
    rqIsVf rq = false :=
  ⟨.bezel, State.reset, by decide⟩

theorem sixtyFourBitRegisterAccess_met_2 : ∃ (rq : Requester) (addr page : Nat) (s : State),
    (target rq addr = some (page, 0x048) ∧ s.answers rq page ∧ addr % 4 = 0 ∧ page ≠ 0x003) :=
  ⟨.vf 1, 0x048, 0x101, awakeState, by decide⟩

theorem sixtyFourBitRegisterAccess_met_3 : ∃ (rq : Requester) (addr page off v : Nat) (s : State),
    (target rq addr = some (page, off) ∧ s.answers rq page ∧ addr % 4 = 0) ∧
    (pairAt page off = .hi ∧ s.lockedOut page off = false ∧ s.writeHeld page off = none) ∧
    ((rowsAt page off).any (fun r => r.acc == .ro || (r.pf && rqIsVf rq))) = false :=
  ⟨.pf, 0x211C, 2, 0x11C, 5, State.reset, by decide⟩

theorem sixtyFourBitRegisterAccess_met_4 : ∃ (rq : Requester) (addr page off v : Nat) (s : State),
    (target rq addr = some (page, off) ∧ s.answers rq page ∧ addr % 4 = 0) ∧
    (pairAt page off = .lo ∧ s.lockedOut page off = false ∧ s.writeHeld page off = none ∧ (page, off) ≠ (0x002, 0x118)) ∧
    (rowsAt page off).map (fun r => (r.acc, r.hi, r.lo)) = [(.rw, 31, 0)] ∧
    (rowsAt page (off + 4)).map (fun r => (r.acc, r.hi, r.lo)) = [(.rw, 31, 0)] ∧
    (rqIsVf rq = false ∨ (rowsAt page off).any (fun r => r.pf) = false) :=
  ⟨.bezel, 0x4100, 4, 0x100, 0x1000, State.reset, by decide⟩

theorem sixtyFourBitRegisterAccess_met_5 : ∃ (rq : Requester) (addr page off v : Nat) (s : State),
    (target rq addr = some (page, off) ∧ s.answers rq page ∧ addr % 4 = 0) ∧
    (pairAt page off = .hi ∧ s.lockedOut page off = false ∧ s.writeHeld page off = none) ∧
    (rqIsVf rq = false ∧ (rowsAt page off).any (fun r => r.acc == .ro) = true) :=
  ⟨.bezel, 0x304C, 3, 0x04C, 1, State.reset, by decide⟩

theorem sixtyFourBitRegisterAccess_met_6 : ∃ (rq : Requester) (addr page : Nat) (s : State),
    (target rq addr = some (page, 0x028) ∧ s.answers rq page ∧ addr % 4 = 0 ∧ page ≠ 0x003) :=
  ⟨.vf 63, 0x028, 0x13F, awakeState, by decide⟩

theorem sixtyFourBitRegisterAccess_met_7 : ∃ (rq : Requester) (addr page off : Nat) (s : State),
    (target rq addr = some (page, off) ∧ s.answers rq page ∧ addr % 4 = 0 ∧ page ≠ 0x003 ∧ 0x02C ≤ off ∧ off ≤ 0x034) :=
  ⟨.bezel, 0x4034, 4, 0x034, State.reset, by decide⟩

theorem cellTimeReads_met_1 : ∃ (rq : Requester) (s : State),
    (rqIsVf rq = false ∧ s.serve 0x080 = .full) :=
  ⟨.bezel, awakeState, by decide⟩

theorem cellTimeReads_met_2 : ∃ (rq : Requester) (line : Nat) (s : State),
    (rqIsVf rq = false ∧ s.serve 0x080 = .full ∧ line ≤ 16) :=
  ⟨.tap, 16, awakeState, by decide⟩

/-! ### Blocks, the expert lock and the apertures -/

theorem expertUnlockSequence_met_1 : ∃ (rq : Requester) (page upper : Nat) (s : State),
    (rqIsVf rq = false ∧ s.serve page = .full ∧ upper % 65536 = 0) :=
  ⟨.bezel, 3, 65536, State.reset, by decide⟩

theorem expertUnlockSequence_met_2 : ∃ (rq : Requester) (page upper : Nat) (s : State),
    (rqIsVf rq = false ∧ s.serve page = .full ∧ upper % 65536 ≠ 0) :=
  ⟨.pf, 0x092, 65535, awakeState, by decide⟩

theorem expertUnlockSequence_met_3 : ∃ (rq : Requester) (page a : Nat) (s : State),
    (rqIsVf rq = false ∧ s.serve page = .full ∧ s.armedAt rq page = some a ∧ s.tick ≤ a + 16) ∧
    mapFind s.bus.hot (regKey page 0x040) = none :=
  ⟨.tap, 6, 0, { State.reset with tick := 16, bus := { State.reset.bus with armed := [(1030, 0)] } }, by decide⟩

theorem expertUnlockSequence_met_4 : ∃ (rq : Requester) (page a value : Nat) (s : State),
    (rqIsVf rq = false ∧ s.serve page = .full ∧ s.armedAt rq page = some a) ∧
    (value % 2 ^ 32 ≠ 0x5A5A ∧ value % 2 ^ 32 ≠ 0 ∧ (value % 2 ^ 32 = 0xC3E7 → a + 16 < s.tick)) :=
  ⟨.tap, 6, 0, 0xC3E7, { State.reset with tick := 17, bus := { State.reset.bus with armed := [(1030, 0)] } }, by decide⟩

theorem expertUnlockSequence_met_5 : ∃ (rq : Requester) (page upper : Nat) (s : State),
    (rqIsVf rq = false ∧ s.serve page = .full ∧ upper % 65536 = 0) :=
  ⟨.tap, 6, 0, { State.reset with tick := 16, bus := { State.reset.bus with armed := [(1030, 0)] } }, by decide⟩

theorem expertUnlockSequence_met_6 : ∃ (rq : Requester) (page a : Nat) (s : State),
    (s.armedAt rq page = some a ∧ a + 16 < s.tick) :=
  ⟨.tap, 6, 0, { State.reset with tick := 17, bus := { State.reset.bus with armed := [(1030, 0)] } }, by decide⟩

theorem expertUnlockSequence_met_7 : ∃ (n other value : Nat) (s : State),
    (1 ≤ n ∧ n ≤ 63 ∧ s.serve (0x100 + n) = .full) :=
  ⟨63, 0, 0xC3E7, awakeState, by decide⟩

theorem blockEnableAndDisable_met_1 : ∃ (rq : Requester) (page : Nat) (clk : Bool) (s : State),
    (s.answers rq page ∧ followsPage page = false ∧ alwaysOn page = false ∧ page ≠ 0x078) ∧
    (s.bst page = .off ∧ deadLink s.part page = false ∧ (s.reached page).clocked page = true) :=
  ⟨.bezel, 0x092, true, clockedState, by decide⟩

theorem blockEnableAndDisable_met_2 : ∃ (rq : Requester) (page : Nat) (clk : Bool) (s : State),
    (s.answers rq page ∧ followsPage page = false ∧ alwaysOn page = false ∧ page ≠ 0x078) ∧
    (s.bst page = .off ∧ deadLink s.part page = false ∧ (s.reached page).clocked page = false) :=
  ⟨.bezel, 0x068, false, awakeState, by decide⟩

theorem blockEnableAndDisable_met_3 : ∃ (rq : Requester) (page : Nat) (clk : Bool) (s : State),
    (s.answers rq page ∧ followsPage page = false ∧ page < 0x100 ∧ s.bst page = .active ∧ (page < 0x092 ∨ 0x099 < page)) :=
  ⟨.tap, 0x0A3, false, awakeState.setBlk 0x0A3 (blockIn .active), by decide⟩

theorem blockEnableAndDisable_met_4 : ∃ (rq : Requester) (page : Nat) (clk : Bool) (s : State),
    (s.answers rq page ∧ followsPage page = false ∧ page < 0x100 ∧ s.bst page = .ready ∧ (page < 0x092 ∨ 0x099 < page)) :=
  ⟨.tap, 0x0A3, true, awakeState.setBlk 0x0A3 (blockIn .ready), by decide⟩

theorem blockEnableAndDisable_met_5 : ∃ (rq : Requester) (n k : Nat) (clk : Bool) (c : Capture) (s : State),
    (n < 8 ∧ k < 4 ∧ s.answers rq (pgCsi n) ∧ s.bst (pgCsi n) = .active ∧ s.io.capture = [(4 * n + k, c)]) :=
  ⟨.pf, 0, 0, false, capOne, (awakeState.setBlk (pgCsi 0) (blockIn .active)).setIo { awakeState.io with capture := [(0, capOne)] }, by decide⟩

theorem softResetOutcome_met_1 : ∃ (rq : Requester) (page : Nat) (enable clk : Bool) (s : State),
    (s.answers rq page ∧ followsPage page = false ∧ alwaysOn page = false ∧ facetOfPage (unitPage page) = none) ∧
    ((s.reached page).on (HDR.BLK_CAP_SRESET page) = true ∧ (s.reached page).resetOk page = true) :=
  ⟨.bezel, 0x092, true, false, awakeState.setBlk 0x092 (blockIn .ready), by decide⟩

theorem softResetOutcome_met_2 : ∃ (rq : Requester) (page : Nat) (enable clk : Bool) (s : State),
    (s.answers rq page ∧ followsPage page = false) ∧
    ((s.reached page).on (HDR.BLK_CAP_SRESET page) = true ∧ (s.reached page).resetOk page = false) :=
  ⟨.bezel, 0x092, true, false, awakeState.setBlk 0x092 (blockIn .draining), by decide⟩

theorem irqForceRaisesEachBit_met : ∃ (rq : Requester) (page bits : Nat) (s : State),
    (s.answers rq page ∧ page < 0x100) :=
  ⟨.bezel, 0x0A3, 0x80000001, awakeState, by decide⟩

theorem drainComplete_met_1 : ∃ (page lost : Nat) (s : State),
    (followsPage (unitPage page) = false ∧ pagePresent s.part (unitPage page) = true) ∧
    (s.bst (unitPage page) = .draining ∧ s.pageIdle (unitPage page) = true) :=
  ⟨0x0A3, 0, awakeState.setBlk 0x0A3 (blockIn .draining), by decide⟩

theorem drainComplete_met_2 : ∃ (page lost : Nat) (s : State),
    (followsPage (unitPage page) = false ∧ pagePresent s.part (unitPage page) = true) ∧
    (s.bst (unitPage page) = .fenced ∧ (s.blk (unitPage page)).drained = false) ∧
    (facetOfPage (unitPage page) = none ∧ (unitPage page < 0x020 ∨ 0x027 < unitPage page)) :=
  ⟨0x078, 3, awakeState.setBlk 0x078 { blockIn .fenced with drained := false }, by decide⟩

theorem drainComplete_met_3 : ∃ (page f lost : Nat) (s : State),
    (followsPage (unitPage page) = false ∧ pagePresent s.part (unitPage page) = true ∧ 0x040 ≤ unitPage page) ∧
    (s.bst (unitPage page) = .fenced ∧ (s.blk (unitPage page)).drained = false ∧ facetOfPage (unitPage page) = some f) :=
  ⟨0x05F, 3, 7, awakeState.setBlk 0x058 { blockIn .fenced with drained := false }, by decide⟩

theorem aperturesReachTheCasketAndHbm_met_1 : ∃ (off len : Nat) (data : List Byte) (s : State),
    (s.hostOpen = true ∧ 0 < len ∧ off + len ≤ casketSize) :=
  ⟨0x0FFFFFFF, 1, [0xFF], hostState, by decide⟩

theorem aperturesReachTheCasketAndHbm_met_2 : ∃ (off len : Nat) (data : List Byte) (s : State),
    (s.hostOpen = true ∧ 0 < len ∧ off % 64 + len ≤ 64 ∧ off + len ≤ casketSize) ∧
    s.rd (storeOf (casketBase + off)).1 = 0 :=
  ⟨0, 64, [], hostState, by decide⟩

theorem aperturesReachTheCasketAndHbm_met_3 : ∃ (n off len : Nat) (data : List Byte) (s : State),
    (s.hostOpen = true ∧ 1 ≤ n ∧ n < 64 ∧ 0 < len ∧ off % 64 + len ≤ 64) ∧
    ((off + len ≤ casketSize → s.inGrant n (casketBase + off) len true = false)) :=
  ⟨63, 0, 64, [], hostState, by decide⟩

theorem aperturesReachTheCasketAndHbm_met_4 : ∃ (off len : Nat) (data : List Byte) (s : State),
    (s.hostOpen = true ∧ 0 < len ∧ off % 64 + len ≤ 64 ∧ off + len ≤ 2 ^ s.rd HIF.BAR4_SIZE) ∧
    inHbm (s.bar4Base + off) len = true :=
  ⟨0, 1, [1], hostState, by decide⟩

theorem aperturesReachTheCasketAndHbm_met_5 : ∃ (off len : Nat) (data : List Byte) (s : State),
    (s.hostOpen = true ∧ 0 < len ∧ off % 64 + len ≤ 64 ∧ off + len ≤ 2 ^ s.rd HIF.BAR4_SIZE) ∧
    (inHbm (s.bar4Base + off) len = true ∧ s.rd (storeOf (s.bar4Base + off)).1 = 0) :=
  ⟨64, 64, [], hostState, by decide⟩

/-! ### The tick, clocks, power and heat -/

theorem eventsAreSampledOncePerTick_met_1 : ∃ (s : State),
    (s.on BZ_EVT.EVT_CTRL_LOG_EN = false ∧ s.evt.sampled = []) :=
  ⟨((State.reset.fire 13 0).fire 64 1).fire 13 5, by decide⟩

theorem eventsAreSampledOncePerTick_met_2 : ∃ (src cnt det : Nat) (s : State),
    (s.evt.sampled = [] ∧ s.evt.fired = [(src, cnt, det)] ∧ s.on BZ_EVT.EVT_CTRL_LOG_EN = true ∧ s.evtBaseOk = true ∧ s.evtMasked src = false) ∧
    ((s.rd BZ_EVT.EVT_WR_IDX + 1) % 1024 ≠ s.rd BZ_EVT.EVT_RD_IDX) :=
  ⟨13, 1, 0, ((logState 1023).wr BZ_EVT.EVT_RD_IDX 1).fire 13 0, by decide⟩

theorem eventsAreSampledOncePerTick_met_3 : ∃ (src cnt det : Nat) (s : State),
    (s.evt.sampled = [] ∧ s.evt.fired = [(src, cnt, det)] ∧ s.on BZ_EVT.EVT_CTRL_LOG_EN = true ∧ s.evtBaseOk = true ∧ s.evtMasked src = false) ∧
    ((s.rd BZ_EVT.EVT_WR_IDX + 1) % 1024 = s.rd BZ_EVT.EVT_RD_IDX ∧ 8 ≤ src) :=
  ⟨13, 1, 0, (logState 1023).fire 13 0, by decide⟩

theorem eventsAreSampledOncePerTick_met_4 : ∃ (s : State),
    (s.evt.sampled ≠ []) :=
  ⟨{ State.reset with evt := { State.reset.evt with sampled := [13] } }, by decide⟩

theorem eventsAreSampledOncePerTick_met_5 : ∃ (rq : Requester) (s : State),
    (s.answers rq 0x004 ∧ s.evtBaseOk = true) :=
  ⟨.bezel, logState 0, by decide⟩

theorem eventsAreSampledOncePerTick_met_6 : ∃ (rq : Requester) (s : State),
    (s.answers rq 0x004 ∧ s.evtBaseOk = false) :=
  ⟨.bezel, State.reset, by decide⟩

theorem eventsAreSampledOncePerTick_met_7 : ∃ (rq : Requester) (word bits : Nat) (s : State),
    (s.answers rq 0x004 ∧ word < 3 ∧ s.unlocked 0x004 = true) :=
  ⟨.bezel, 2, 0x80000001, State.reset.wr (HDR.EXP_STATE_UNLOCKED 4) 1, by decide⟩

theorem eventsAreSampledOncePerTick_met_8 : ∃ (rq : Requester) (word bits : Nat) (s : State),
    (s.answers rq 0x004 ∧ word < 3 ∧ s.unlocked 0x004 = false) :=
  ⟨.pf, 0, 1, State.reset, by decide⟩

theorem referenceAndPlls_met_1 : ∃ (s : State),
    (s.on BZ_AON.AON_STAT_REF_PRESENT = true ∧ s.pwr.pllOn = []) :=
  ⟨State.reset, by decide⟩

theorem referenceAndPlls_met_2 : ∃ (s : State),
    (s.on BZ_AON.AON_STAT_REF_PRESENT = true ∧ s.pwr.pllOn ≠ []) :=
  ⟨pllState, by decide⟩

theorem referenceAndPlls_met_3 : ∃ (s : State),
    s.on BZ_AON.AON_STAT_REF_PRESENT = false :=
  ⟨State.reset.wr BZ_AON.AON_STAT_REF_PRESENT 0, by decide⟩

theorem referenceAndPlls_met_4 : ∃ (e a : Nat) (s : State),
    (s.pwr.refBack = some a ∧ s.on BZ_AON.AON_CTRL_DISCIPLINE_EN = true ∧ a + 1000000 ≤ s.tick ∧ (toSigned 16 e).natAbs ≤ 1) :=
  ⟨0xFFFF, 7, { State.reset.wr BZ_AON.AON_CTRL_DISCIPLINE_EN 1 with tick := 1000007, pwr := { pwrReset with refBack := some 7 } }, by decide⟩

theorem referenceAndPlls_met_5 : ∃ (n : Nat) (s : State),
    ((mapFind s.pwr.pllOn n).isSome = true ∧ s.on BZ_AON.AON_STAT_REF_PRESENT = true) ∧
    (¬(s.stage = 8 ∧ s.pm ≤ 1 ∧ s.pwr.entry.isNone = true ∧ s.pwr.wake.isNone = true)) :=
  ⟨3, { pllState.wr DEV.BOOT_STAGE 1 with pwr := { pwrReset with pllOn := [(3, 0)] } }, by decide⟩

theorem referenceAndPlls_met_6 : ∃ (n : Nat) (s : State),
    ((mapFind s.pwr.pllOn n).isSome = true ∧ s.on BZ_AON.AON_STAT_REF_PRESENT = true) ∧
    (s.stage = 8 ∧ s.pm ≤ 1 ∧ s.pwr.entry.isNone = true ∧ s.pwr.wake.isNone = true) :=
  ⟨0, pllState, by decide⟩

theorem referenceAndPlls_met_7 : ∃ (n a : Nat) (s : State),
    (mapFind s.pwr.pllOn n = some a ∧ s.bitOn BZ_PM.PLL_LOCK n = false ∧ a + 40 ≤ s.tick) ∧
    (s.booting = false ∧ s.pwr.wake = none ∧ s.pwr.wakeLocks = false) :=
  ⟨1, 0, { awakeState with tick := 40, pwr := { pwrReset with pllOn := [(1, 0)] } }, by decide⟩

theorem referenceAndPlls_met_8 : ∃ (n a : Nat) (s : State),
    (mapFind s.pwr.pllOn n = some a ∧ s.bitOn BZ_PM.PLL_LOCK n = false ∧ a + 40 ≤ s.tick) ∧
    (s.booting = false ∧ (s.pwr.wake.isSome = true ∨ s.pwr.wakeLocks = true)) :=
  ⟨0, 0, { awakeState with tick := 40, pwr := { pwrReset with pllOn := [(0, 0)], wakeLocks := true } }, by decide⟩

theorem referenceAndPlls_met_9 : ∃ (n a : Nat) (s : State),
    (mapFind s.pwr.pllOn n = some a ∧ s.bitOn BZ_PM.PLL_LOCK n = false ∧ a + 40 ≤ s.tick) ∧
    (s.booting = true ∧ s.pwr.wake = none ∧ s.pwr.wakeLocks = false) :=
  ⟨0, 0, { State.reset.wr DEV.BOOT_STAGE 1 with tick := 40, pwr := { pwrReset with pllOn := [(0, 0)] } }, by decide⟩

theorem referenceAndPlls_met_10 : ∃ (n : Nat) (s : State),
    (n ≠ 0xFF ∧ (mapFind s.pwr.pllOn n).isSome = true) :=
  ⟨0, pllState, by decide⟩

theorem referenceAndPlls_met_11 : ∃ (s : State),
    s.on BZ_AON.AON_STAT_REF_PRESENT = false :=
  ⟨pllState.wr BZ_AON.AON_STAT_REF_PRESENT 0, by decide⟩

theorem referenceAndPlls_met_12 : ∃ (n page : Nat) (start : Bool) (s : State),
    (n < 8 ∧ page ∈ s.blockPages ∧ (pllsOf s.part page).contains n = true ∧ s.bst page ≠ .off) :=
  ⟨0, 0x010, false, pllState, by decide⟩

theorem powerRequests_met_1 : ∃ (rq : Requester) (d0 dh : Bool) (s : State),
    (s.answers rq 0x002 ∧ s.on BZ_PM.PM_STATE_IN_TRANSITION = false ∧ s.pm < 2 ∧ s.pendingAll = 0 ∧ s.wakeNow = (0, false)) :=
  ⟨.bezel, false, false, awakeState, by rw [pendingAll_zero] <;> decide⟩

theorem powerRequests_met_2 : ∃ (rq : Requester) (dh : Bool) (s : State),
    (s.answers rq 0x002 ∧ s.on BZ_PM.PM_STATE_IN_TRANSITION = false ∧ s.pm < 3 ∧ s.pendingAll = 0 ∧ s.wakeNow = (0, false)) :=
  ⟨.tap, false, awakeState.wr BZ_PM.PM_STATE_CUR 2, by rw [pendingAll_zero] <;> decide⟩

theorem powerRequests_met_3 : ∃ (rq : Requester) (s : State),
    (s.answers rq 0x002 ∧ s.on BZ_PM.PM_STATE_IN_TRANSITION = false ∧ s.pm < 4 ∧ s.pendingAll = 0 ∧ s.wakeNow = (0, false)) :=
  ⟨.pf, awakeState.wr BZ_PM.PM_STATE_CUR 3, by rw [pendingAll_zero] <;> decide⟩

theorem powerRequests_met_4 : ∃ (target : Nat) (s : State),
    target < 8 :=
  ⟨4, clockedState, by decide⟩

theorem powerRequests_met_5 : ∃ (rq : Requester) (d0 dh : Bool) (s : State),
    (s.answers rq 0x002 ∧ s.on BZ_PM.PM_STATE_IN_TRANSITION = true) :=
  ⟨.bezel, true, true, awakeState.wr BZ_PM.PM_STATE_IN_TRANSITION 1, by decide⟩

theorem powerRequests_met_6 : ∃ (rq : Requester) (d0 dh : Bool) (s : State),
    (s.answers rq 0x002 ∧ s.on BZ_PM.PM_STATE_IN_TRANSITION = false ∧ s.pm < 2 ∧ s.pendingAll ≠ 0) :=
  ⟨.bezel, true, true, pendingState, ⟨by decide, by decide, by decide, pendingAll_pos _ 1 0 (by decide) (by decide) (by decide)⟩⟩

theorem powerRequests_met_7 : ∃ (rq : Requester) (dh : Bool) (s : State),
    (s.answers rq 0x002 ∧ s.on BZ_PM.PM_STATE_IN_TRANSITION = false ∧ s.pm < 2 ∧ s.pendingAll = 0) :=
  ⟨.bezel, true, awakeState, by rw [pendingAll_zero] <;> decide⟩

theorem powerRequests_met_8 : ∃ (rq : Requester) (d0 dh : Bool) (s : State),
    (s.answers rq 0x002 ∧ s.on BZ_PM.PM_STATE_IN_TRANSITION = false ∧ s.pm < 2 ∧ s.pendingAll = 0 ∧ s.wakeNow ≠ (0, false)) :=
  ⟨.bezel, true, true, awakeState.fire 0 0, by rw [pendingAll_zero] <;> decide⟩

theorem powerRequests_met_9 : ∃ (rq : Requester) (s : State),
    (s.answers rq 0x002 ∧ s.pm = 0 ∧ s.pwr.entry = none ∧ s.pwr.wake = none) :=
  ⟨.pf, awakeState, by decide⟩

theorem powerRequests_met_10 : ∃ (rq : Requester) (s : State),
    (s.answers rq 0x002 ∧ 2 ≤ s.pm ∧ s.pwr.entry = none ∧ s.pwr.wake = none) :=
  ⟨.pf, awakeState.wr BZ_PM.PM_STATE_CUR 4, by decide⟩

theorem powerRequests_met_11 : ∃ (rq : Requester) (target : Nat) (s : State),
    (s.answers rq 0x002 ∧ (target % 8 = 1 ∨ 5 ≤ target % 8) ∧ s.on BZ_PM.PM_STATE_IN_TRANSITION = false) :=
  ⟨.mspi, 1, awakeState, by decide⟩

theorem sleepAndWakeTransitions_met_1 : ∃ (s : State),
    (s.on BZ_PM.AUTO_DOZE_EN = true ∧ s.pm = 0 ∧ s.stage = 8 ∧ s.pwr.entry = none ∧ s.pwr.wake = none) ∧
    (s.sch.reqs = [] ∧ s.pendingAll = 0 ∧ s.dozeAfter ≤ s.pwr.idle ∧ s.pwr.tripped = false) :=
  ⟨{ awakeState.wr BZ_PM.AUTO_DOZE_EN 1 with pwr := { pwrReset with idle := 100000 } }, by rw [pendingAll_zero] <;> decide⟩

theorem sleepAndWakeTransitions_met_2 : ∃ (g : DozeTrigger) (s : State),
    (s.dozeTriggered g = true ∧ s.pm = 1 ∧ s.pwr.entry = none ∧ s.pwr.dozeExit = none) :=
  ⟨.doorbell, (awakeState.wr BZ_PM.PM_STATE_CUR 1).fire 79 1, by decide⟩

theorem sleepAndWakeTransitions_met_3 : ∃ (target a since from_ : Nat) (s : State),
    (s.pwr.entry = some (target, since, from_) ∧ s.pwr.entryFrom = some a ∧ a + entryTime target ≤ s.tick ∧ 2 ≤ target ∧ target ≤ 4) :=
  ⟨4, 0, 0, 0, { clockedState with tick := 2000, pwr := { pwrReset with entry := some (4, 0, 0), entryFrom := some 0 } }, by decide⟩

theorem sleepAndWakeTransitions_met_4 : ∃ (rq : Requester) (v : Nat) (s : State),
    s.answers rq 0x002 :=
  ⟨.bezel, 0, State.reset, by decide⟩

theorem sleepAndWakeTransitions_met_5 : ∃ (s : State),
    ((s.pwr.timerLate = none ∧ s.rd64 BZ_PM.WAKE_TICK_LO BZ_PM.WAKE_TICK_HI = s.tick) ∨ s.pwr.timerLate.any (fun t => decide (t < s.tick)) = true) :=
  ⟨State.reset.wr64 BZ_PM.WAKE_TICK_LO BZ_PM.WAKE_TICK_HI 0, by decide⟩

theorem sleepAndWakeTransitions_met_6 : ∃ (src : Nat) (e0 : Bool) (s : State),
    (s.wakeNow = (src, e0) ∧ (src ≠ 0 ∨ e0 = true) ∧ s.pwr.entry = none ∧ 2 ≤ s.pm ∧ s.pwr.wake = none ∧ s.pwr.wokeAt ≠ some s.tick) :=
  ⟨1, false, ((awakeState.wr BZ_PM.PM_STATE_CUR 3).wr BZ_PM.WAKE_EN 63).fire 13 0, by decide⟩

theorem sleepAndWakeTransitions_met_7 : ∃ (src : Nat) (e0 : Bool) (s : State),
    (s.wakeNow = (src, e0) ∧ s.pwr.wokeAt = some s.tick) :=
  ⟨1, false, { ((awakeState.wr BZ_PM.PM_STATE_CUR 3).wr BZ_PM.WAKE_EN 63).fire 13 0 with pwr := { pwrReset with wokeAt := some 0 } }, by decide⟩

theorem sleepAndWakeTransitions_met_8 : ∃ (src : Nat) (e0 : Bool) (s : State),
    (s.wakeNow = (src, e0) ∧ (src ≠ 0 ∨ e0 = true) ∧ s.pwr.wokeAt ≠ some s.tick) :=
  ⟨1, false, { ((awakeState.wr BZ_PM.PM_STATE_CUR 3).wr BZ_PM.WAKE_EN 63).fire 13 0 with pwr := { pwrReset with entry := some (4, 0, 3) } }, by decide⟩

theorem sleepAndWakeTransitions_met_9 : ∃ (s : State),
    (s.wakeNow = (0, false) ∧ s.pwr.wokeAt ≠ some s.tick) :=
  ⟨awakeState, by decide⟩

theorem sleepAndWakeTransitions_met_10 : ∃ (pllF linkF stackF : List Nat) (since at_ : Nat) (s : State),
    (s.pwr.wake = some (since, at_) ∧ at_ ≤ s.tick) :=
  ⟨[1], [0], [3], 0, 9000, { clockedState.wr BZ_PM.PM_STATE_CUR 4 with tick := 9000, pwr := { pwrReset with wake := some (0, 9000), pllOn := [(0, 1), (1, 1)] } }, by decide⟩

theorem sleepAndWakeTransitions_met_11 : ∃ (h : Nat) (z : HbmZero) (s : State),
    (mapFind s.pwr.zero h = some z ∧ z.early.contains z.next = false ∧ h < 4 ∧ zeroDue z s.tick = true ∧ s.hbmRuns h = true) :=
  ⟨3, { since := 0, next := 12287, early := [] }, { ((awakeState.setBlk 0x0A3 (blockIn .ready)).dpaWrite 0x17FFFFFFFF [1]).wr (HBM.HBM_STAT_ZEROING 3) 1 with tick := 21475, pwr := { pwrReset with zero := [(3, { since := 0, next := 12287, early := [] })] } }, by decide⟩

theorem sleepAndWakeTransitions_met_12 : ∃ (h : Nat) (z : HbmZero) (s : State),
    (mapFind s.pwr.zero h = none ∨ (mapFind s.pwr.zero h = some z ∧ (zeroDue z s.tick = false ∨ s.hbmRuns h = false))) :=
  ⟨0, { since := 0, next := 0, early := [] }, { awakeState with pwr := { pwrReset with zero := [(0, { since := 0, next := 0, early := [] })] } }, by decide⟩

theorem telemetryCapAndThermalLimits_met_1 : ∃ (values : List Int) (i : Nat) (v : Int) (s : State),
    (i < 64 ∧ i ≠ 56 ∧ values[i]? = some v ∧ s.on (BZ_THERM.SENS_STALE i) = false) :=
  ⟨[-16, 1680], 1, 1680, awakeState, by decide⟩

theorem telemetryCapAndThermalLimits_met_2 : ∃ (values : List Int) (i : Nat) (s : State),
    (i < 64 ∧ i ≠ 56 ∧ s.on (BZ_THERM.SENS_STALE i) = true) :=
  ⟨[1, 2], 0, awakeState.wr (BZ_THERM.SENS_STALE 0) 1, by decide⟩

theorem telemetryCapAndThermalLimits_met_3 : ∃ (s : State),
    (s.pwr.tripped = false) :=
  ⟨{ awakeState with pwr := { pwrReset with power := [700, 600] } }, by decide⟩

theorem telemetryCapAndThermalLimits_met_4 : ∃ (f : Nat) (l : List Nat) (s : State),
    (s.pwr.tripped = false ∧ s.pwr.facetHeld = 0 ∧ s.capOp f < 6 ∧ l = (s.rd (BZ_THERM.SENS_VALUE 56) :: s.pwr.power).take 1000) ∧
    (clampNat 60 180 (s.rd BZ_PM.PCAP_CAP_W) * 1020 * l.length < l.foldl (· + ·) 0 * 100) ∧
    (s.byWork false (s.facets.filter (fun g => decide (s.facetOp g < 6))) = some f) :=
  ⟨0, [2000], awakeState.wr (BZ_THERM.SENS_VALUE 56) 2000, by decide⟩

theorem telemetryCapAndThermalLimits_met_5 : ∃ (f : Nat) (l : List Nat) (s : State),
    (s.pwr.tripped = false ∧ s.pwr.facetHeld = 0 ∧ 0 < s.capOp f ∧ l = (s.rd (BZ_THERM.SENS_VALUE 56) :: s.pwr.power).take 1000) ∧
    (l.foldl (· + ·) 0 * 100 < clampNat 60 180 (s.rd BZ_PM.PCAP_CAP_W) * 950 * l.length) ∧
    (s.byWork true (s.facets.filter (fun g => decide (0 < s.capOp g))) = some f) :=
  ⟨3, [0], { awakeState with pwr := { pwrReset with capOp := 0x1000 } }, by decide⟩

theorem telemetryCapAndThermalLimits_met_6 : ∃ (f : Nat) (s : State),
    (s.hasFacet f = true ∧ 105 * 16 ≤ s.testTemp f ∧ s.pwr.tripped = false) ∧
    (s.on (BZ_THERM.SENS_STALE (8 + 2 * f)) = false ∧ (s.bst (pgFct f 0)).live = true ∧ s.stage = 8) :=
  ⟨3, (awakeState.setBlk 0x058 (blockIn .ready)).wr (BZ_THERM.SENS_VALUE 14) 1680, by decide⟩

theorem telemetryCapAndThermalLimits_met_7 : ∃ (i : Nat) (s : State),
    (i < 8 ∧ 105 * 16 ≤ toSigned 16 (s.rd (BZ_THERM.SENS_VALUE i)) ∧ s.pwr.crownOver = false ∧ s.pwr.tripped = false) :=
  ⟨7, awakeState.wr (BZ_THERM.SENS_VALUE 7) 1680, by decide⟩

theorem telemetryCapAndThermalLimits_met_8 : ∃ (h : Nat) (s : State),
    (h < 4 ∧ s.on (BZ_THERM.SENS_STALE (20 + h)) = false ∧ s.bitOn BZ_THERM.THERM_STAT_HBM_LIMIT h = false) ∧
    95 * 16 ≤ toSigned 16 (s.rd (BZ_THERM.SENS_VALUE (20 + h))) :=
  ⟨3, awakeState.wr (BZ_THERM.SENS_VALUE 23) 1520, by decide⟩

theorem telemetryCapAndThermalLimits_met_9 : ∃ (h : Nat) (s : State),
    (h < 4 ∧ s.on (BZ_THERM.SENS_STALE (20 + h)) = false ∧ s.bitOn BZ_THERM.THERM_STAT_HBM_LIMIT h = true) ∧
    toSigned 16 (s.rd (BZ_THERM.SENS_VALUE (20 + h))) ≤ 90 * 16 :=
  ⟨0, (awakeState.wr (BZ_THERM.SENS_VALUE 20) 1440).wr BZ_THERM.THERM_STAT_HBM_LIMIT 1, by decide⟩

theorem telemetryCapAndThermalLimits_met_10 : ∃ (rail n : Nat) (s : State),
    mapFind s.pwr.rails rail = some (2, n) :=
  ⟨5, 0, { awakeState with pwr := { pwrReset with rails := [(5, (2, 0))] } }, by decide⟩

/-! ### Resets and boot -/

theorem resetsOfTheDevice_met_1 : ∃ (low : Nat) (s : State),
    (s.pwr.tripped = true ∨ s.justReset = false) :=
  ⟨0, State.reset, by decide⟩

theorem resetsOfTheDevice_met_2 : ∃ (low : Nat) (s : State),
    (s.pwr.tripped = false ∧ s.stage = 8) :=
  ⟨9, awakeState, by decide⟩

theorem resetsOfTheDevice_met_3 : ∃ (s : State),
    (s.pwr.tripped = false ∧ s.justReset = false ∧ s.wdogExpired = true) :=
  ⟨{ awakeState with tick := 4000000000 }, by decide⟩

theorem resetsOfTheDevice_met_4 : ∃ (a : Nat) (s : State),
    (s.pwr.tripped = false ∧ s.justReset = false ∧ s.boot.resetNext = some a ∧ a < s.tick) :=
  ⟨4, { awakeState with tick := 5, boot := { awakeState.boot with resetNext := some 4 } }, by decide⟩

theorem resetsOfTheDevice_met_7 : ∃ (s : State),
    (s.perstLow = true) :=
  ⟨{ State.reset with boot := { State.reset.boot with perstHigh := false, perstRel := 5 } }, by decide⟩

theorem resetsOfTheDevice_met_8 : ∃ (s : State),
    (s.stage ≠ 8 ∧ s.perstLow = false) :=
  ⟨State.reset, by decide⟩

theorem resetsOfTheDevice_met_9 : ∃ (s : State),
    (s.pwr.crownReach.any (fun a => decide (a + 1000 ≤ s.tick)) = true ∧ 105 * 16 ≤ s.crownTemp ∧ s.pwr.tripped = false) :=
  ⟨{ pllState.wr (BZ_THERM.SENS_VALUE 0) 1680 with tick := 1000, pwr := { pwrReset with crownReach := [0] } }, by decide⟩

theorem resetsOfTheDevice_met_10 : ∃ (s : State),
    (s.wdogExpired = true ∧ s.pwr.tripped = false ∧ s.stage ≠ 8) :=
  ⟨{ State.reset with tick := 4000000000 }, by decide⟩

theorem resetsOfTheDevice_met_11 : ∃ (s : State),
    (s.wdogExpired = true ∧ s.pwr.tripped = false ∧ s.stage = 8 ∧ s.on BZ_RESET.WDOG_CFG_ACTION = true) :=
  ⟨{ awakeState.wr BZ_RESET.WDOG_CFG_ACTION 1 with tick := 4000000000 }, by decide⟩

theorem resetsOfTheDevice_met_12 : ∃ (s : State),
    (s.wdogExpired = true ∧ s.pwr.tripped = false ∧ s.stage = 8 ∧ s.on BZ_RESET.WDOG_CFG_ACTION = false) :=
  ⟨{ awakeState with tick := 4000000000 }, by decide⟩

theorem hostLinkAndConfiguration_met_1 : ∃ (speed lanes : Nat) (flit : Bool) (s : State),
    (2 ≤ s.stage ∧ s.stage ≤ 8 ∧ s.boot.perstRel ≤ s.tick ∧ s.pwr.tripped = false ∧ s.boot.linkUp = false) :=
  ⟨5, 16, true, awakeState, by decide⟩

theorem hostLinkAndConfiguration_met_2 : ∃ (fn : Nat) (c : ConfigAccess) (s : State),
    s.boot.linkUp = false :=
  ⟨63, .other, State.reset, by decide⟩

theorem hostLinkAndConfiguration_met_3 : ∃ (fn : Nat) (c : ConfigAccess) (s : State),
    (s.boot.linkUp = true ∧ s.stage < 8) :=
  ⟨0, .enableVfs 63, { State.reset with boot := { State.reset.boot with linkUp := true } }, by decide⟩

theorem hostLinkAndConfiguration_met_4 : ∃ (fn : Nat) (s : State),
    (s.boot.linkUp = true ∧ 8 ≤ s.stage) :=
  ⟨63, hostState, by decide⟩

theorem hostLinkAndConfiguration_met_5 : ∃ (n : Nat) (s : State),
    (s.boot.linkUp = true ∧ 8 ≤ s.stage ∧ n ≤ 63) :=
  ⟨63, hostState, by decide⟩

theorem hostLinkAndConfiguration_met_6 : ∃ (k : Nat) (s : State),
    (s.boot.linkUp = true ∧ 8 ≤ s.stage ∧ 28 ≤ k ∧ k ≤ 37) :=
  ⟨37, hostState, by decide⟩

theorem hostLinkAndConfiguration_met_7 : ∃ (fn : Nat) (c : ConfigAccess) (s : State),
    (s.boot.linkUp = true ∧ 8 ≤ s.stage ∧ c ≠ .identity ∧ fn ≠ 0) :=
  ⟨1, .bar4Size 30, hostState, by decide⟩

theorem hostLinkAndConfiguration_met_8 : ∃ (n k : Nat) (s : State),
    (s.boot.linkUp = true ∧ 8 ≤ s.stage ∧ 63 < n ∧ (k < 28 ∨ 37 < k)) :=
  ⟨64, 38, hostState, by decide⟩

theorem bootStages_met_1 : ∃ (s : State),
    (s.bootOn 1 = true ∧ s.on BZ_AON.AON_STAT_REF_PRESENT = true ∧ (mapFind s.pwr.pllOn 0).isSome = true) ∧
    (s.bitOn BZ_PM.PLL_LOCK 0 = true ∧ s.bitOn BZ_PM.PLL_LOCK 3 = true) :=
  ⟨pllState.wr DEV.BOOT_STAGE 1, by decide⟩

theorem bootStages_met_2 : ∃ (s : State),
    (s.bootOn 1 = true ∧ s.on BZ_AON.AON_STAT_REF_PRESENT = true ∧ s.pwr.pllOn = [] ∧ s.rd BZ_PM.PLL_LOCK = 0) :=
  ⟨State.reset.wr DEV.BOOT_STAGE 1, by decide⟩

theorem bootStages_met_3 : ∃ (s : State),
    (s.stage = 1 ∧ s.on BZ_AON.AON_STAT_REF_PRESENT = false ∧ s.boot.sysRel + 100000 ≤ s.tick) :=
  ⟨{ (State.reset.wr DEV.BOOT_STAGE 1).wr BZ_AON.AON_STAT_REF_PRESENT 0 with tick := 100000 }, by decide⟩

theorem bootStages_met_4 : ∃ (s : State),
    s.bootOn 2 = true :=
  ⟨State.reset.wr DEV.BOOT_STAGE 2, by decide⟩

theorem bootStages_met_5 : ∃ (s : State),
    s.bootOn 3 = true :=
  ⟨State.reset.wr DEV.BOOT_STAGE 3, by decide⟩

theorem bootStages_met_6 : ∃ (s : State),
    s.bootOn 4 = true :=
  ⟨State.reset.wr DEV.BOOT_STAGE 4, by decide⟩

theorem bootStages_met_7 : ∃ (f : Nat) (s : State),
    (s.bootOn 5 = true ∧ f = s.boot.facetsDone ∧ s.hasFacet f = true) :=
  ⟨3, { State.reset.wr DEV.BOOT_STAGE 5 with boot := { State.reset.boot with facetsDone := 3 } }, by decide⟩

theorem bootStages_met_8 : ∃ (fails : List Nat) (r : BootResult) (s : State),
    (s.bootOn 6 = true ∧ (sideLinks s.part).find? (fun l => fails.contains l) = none) :=
  ⟨[0, 8], .ok, State.reset.wr DEV.BOOT_STAGE 6, by decide⟩

theorem bootStages_met_9 : ∃ (fails : List Nat) (l : Nat) (s : State),
    (s.bootOn 6 = true ∧ (sideLinks s.part).find? (fun l => fails.contains l) = some l) :=
  ⟨[7], 7, State.reset.wr DEV.BOOT_STAGE 6, by decide⟩

theorem bootStages_met_10 : ∃ (h : Nat) (s : State),
    (s.bootOn 7 = true ∧ h < 4) :=
  ⟨3, { (State.reset.dpaWrite 5 [1]).wr DEV.BOOT_STAGE 7 with boot := { State.reset.boot with hbmDone := 7 } }, by decide⟩

theorem bootStages_met_11 : ∃ (s : State),
    (s.bootOn 7 = true ∧ s.boot.hbmDone = 0xF) :=
  ⟨{ State.reset.wr DEV.BOOT_STAGE 7 with boot := { State.reset.boot with hbmDone := 15 } }, by decide⟩

theorem bootStages_met_12 : ∃ (s : State),
    (s.booting = true ∧ s.boot.stageTick + stageBudget s.stage < s.tick) ∧
    ((s.stage = 1 → s.on BZ_AON.AON_STAT_REF_PRESENT = true) ∧ (s.stage = 5 → s.hasFacet s.boot.facetsDone = true ∨ s.devFaulted = true)) :=
  ⟨{ State.reset.wr DEV.BOOT_STAGE 5 with tick := 8001 }, by decide⟩

theorem bootStages_met_13 : ∃ (code unit : Nat) (s : State),
    (s.booting = true ∧ code < 256 ∧ unit < 1024) :=
  ⟨0x0F, 0, State.reset.wr DEV.BOOT_STAGE 2, by decide⟩

/-! ### Faults -/

theorem detectionOpensAReport_met_1 : ∃ (mech cls page sub ws : Nat) (addr : Option Nat) (s : State),
    (s.joinable mech page = none ∧ page < 0x140 ∧ (cls = 1 ∨ cls = 2 ∨ cls = 3)) :=
  ⟨0x10, 3, 0x13F, 0, 0x7F, none, clockedState, by decide⟩

theorem detectionOpensAReport_met_2 : ∃ (mech cls page sub ws q : Nat) (r : Report) (addr : Option Nat) (s : State),
    (s.joinable mech page = some q ∧ mapFind s.flt.opens q = some r ∧ page < 0x140) :=
  ⟨0x01, 1, 0x011, 0, 0x7F, 3, reportOne, some 5, reportState, by decide⟩

theorem reportsCloseAndAreLogged_met_1 : ∃ (a b : Nat) (x y : Report) (s : State),
    (s.flt.opens = [(a, x), (b, y)] ∧ a < b ∧ x.tick = s.tick ∧ y.tick = s.tick ∧ x.seq = a ∧ y.seq = b) :=
  ⟨3, 4, { reportOne with mech := 0x12 }, { reportOne with mech := 0x04, seq := 4 },
    reportState.setFlt { reportState.flt with opens := [(3, { reportOne with mech := 0x12 }), (4, { reportOne with mech := 0x04, seq := 4 })] }, by decide⟩

theorem reportsCloseAndAreLogged_met_2 : ∃ (q : Nat) (r : Report) (s : State),
    (mapFind s.flt.opens q = some r ∧ r.tick + s.corrWindow ≤ s.tick ∧ s.on BZ_FAULT.FLOG_CFG_EN = true ∧ s.flogBaseOk = true) ∧
    (s.rd BZ_FAULT.FLOG_WR_IDX + 1) % 256 ≠ s.rd BZ_FAULT.FLOG_RD_IDX :=
  ⟨3, reportOne, { flogState with tick := 1000 }, by decide⟩

theorem reportsCloseAndAreLogged_met_3 : ∃ (q : Nat) (r : Report) (s : State),
    (mapFind s.flt.opens q = some r ∧ r.tick + s.corrWindow ≤ s.tick ∧ s.on BZ_FAULT.FLOG_CFG_EN = false) :=
  ⟨3, reportOne, { reportState with tick := 1000 }, by decide⟩

theorem reportsCloseAndAreLogged_met_4 : ∃ (rq : Requester) (s : State),
    s.answers rq 0x003 :=
  ⟨.bezel, State.reset, by decide⟩

theorem reportsCloseAndAreLogged_met_5 : ∃ (rq : Requester) (s : State),
    (s.answers rq 0x003 ∧ s.flt.opens.find? (fun e => decide (e.2.tick = s.tick)) = none) :=
  ⟨.pf, { reportState with tick := 1 }, by decide⟩

theorem reportsCloseAndAreLogged_met_6 : ∃ (rq : Requester) (s : State),
    s.answers rq 0x003 :=
  ⟨.tap, reportState, by decide⟩

theorem reportsCloseAndAreLogged_met_7 : ∃ (rq : Requester) (s : State),
    (s.answers rq 0x003 ∧ s.unlocked 0x003 = true ∧ s.sentinel = false) :=
  ⟨.bezel, State.reset.wr (HDR.EXP_STATE_UNLOCKED 3) 1, by decide⟩

theorem reportsCloseAndAreLogged_met_8 : ∃ (rq : Requester) (s : State),
    (s.answers rq 0x003 ∧ s.unlocked 0x003 = true ∧ s.sentinel = true) :=
  ⟨.bezel, (State.reset.wr (HDR.EXP_STATE_UNLOCKED 3) 1).wr BZ_FAULT.SENTINEL 1, by decide⟩

theorem reportsCloseAndAreLogged_met_9 : ∃ (rq : Requester) (s : State),
    (s.answers rq 0x003 ∧ s.unlocked 0x003 = false) :=
  ⟨.bezel, State.reset, by decide⟩

theorem sentinelResetCommandLockstepAndDrainLimit_met_1 : ∃ (rq : Requester) (v : Bool) (s : State),
    s.answers rq 0x003 :=
  ⟨.bezel, true, awakeState, by decide⟩

theorem sentinelResetCommandLockstepAndDrainLimit_met_2 : ∃ (rq : Requester) (key : Nat) (s : State),
    (s.answers rq 0x006 ∧ s.unlocked 0x006 = true ∧ key % 65536 = 0xD5E7) :=
  ⟨.bezel, 0xD5E7, State.reset.wr (HDR.EXP_STATE_UNLOCKED 6) 1, by decide⟩

theorem sentinelResetCommandLockstepAndDrainLimit_met_3 : ∃ (rq : Requester) (key : Nat) (s : State),
    (s.answers rq 0x006 ∧ s.unlocked 0x006 = true ∧ key % 65536 ≠ 0xD5E7) :=
  ⟨.bezel, 0xD5E6, State.reset.wr (HDR.EXP_STATE_UNLOCKED 6) 1, by decide⟩

theorem sentinelResetCommandLockstepAndDrainLimit_met_4 : ∃ (rq : Requester) (key : Nat) (s : State),
    (s.answers rq 0x006 ∧ s.unlocked 0x006 = false) :=
  ⟨.tap, 0xD5E7, State.reset, by decide⟩

theorem sentinelResetCommandLockstepAndDrainLimit_met_5 : ∃ (pair : Nat) (s : State),
    (s.pwr.tripped = false ∧ s.pm < 2) :=
  ⟨1, awakeState, by decide⟩

theorem sentinelResetCommandLockstepAndDrainLimit_met_6 : ∃ (pair : Nat) (s : State),
    (s.pwr.tripped = false ∧ s.hmRuns = true) :=
  ⟨0, hmState, by decide⟩

theorem sentinelResetCommandLockstepAndDrainLimit_met_7 : ∃ (page : Nat) (s : State),
    (s.pwr.tripped = false ∧ s.pm < 2) :=
  ⟨0x060, awakeState, by decide⟩

theorem sentinelResetCommandLockstepAndDrainLimit_met_8 : ∃ (page : Nat) (s : State),
    (bezelPage (ownerPage page) = true) :=
  ⟨0x003, awakeState, by decide⟩

theorem sentinelResetCommandLockstepAndDrainLimit_met_9 : ∃ (page : Nat) (s : State),
    (bezelPage (ownerPage page) = false ∧ storePage (ownerPage page) = true) :=
  ⟨0x011, awakeState, by decide⟩

theorem sentinelResetCommandLockstepAndDrainLimit_met_10 : ∃ (page : Nat) (s : State),
    (0x040 ≤ page ∧ page < 0x090 ∧ pagePresent s.part (ownerPage page) = true ∧ s.bst (ownerPage page) ≠ .off) ∧
    (bezelPage (ownerPage page) = false ∧ storePage (ownerPage page) = false) :=
  ⟨0x060, awakeState.setBlk 0x060 (blockIn .active), by decide⟩

theorem sentinelResetCommandLockstepAndDrainLimit_met_11 : ∃ (page : Nat) (s : State),
    (s.bst page = .fenced ∧ (s.blk page).drained = false ∧ (s.blk page).entry + atLeast1 (s.rd BZ_FAULT.DRAIN_LIMIT) ≤ s.tick) :=
  ⟨0x041, { awakeState.setBlk 0x040 { blockIn .fenced with drained := false } with tick := 100000 }, by decide⟩

/-! ### Clasp: the links between the dies -/

/-- A PMX-7241 whose position 3 negotiates. -/
def negState : State := ({ State.reset with part := .pmx7241 } : State).wr (CL.CAP_STAT_NEG_STATE 3) 1

theorem claspNegotiationAndTraining_met_1 : ∃ (m : CapHead) (block : List Byte) (s : State),
    (s.part = .pmx7241 ∧ s.rd (CL.CAP_STAT_NEG_STATE 3) = 1 ∧ capReject true m.modules block = 0) ∧
    (m.head.crcOk = true ∧ m.head.seq = 0 ∧ s.linkUp 3 = false) :=
  ⟨{ modules := 4, head := headOk }, capOk, negState, by decide +kernel⟩

theorem claspNegotiationAndTraining_met_2 : ∃ (m : CapHead) (block : List Byte) (s : State),
    (s.part = .pmx7241 ∧ s.rd (CL.CAP_STAT_NEG_STATE 3) = 1 ∧ capReject true m.modules block = 0) ∧
    (m.head.crcOk = true ∧ m.head.seq = (s.lnk 3).rxSeq ∧ s.linkUp 3 = true ∧ (s.lnk 3).rxSince < 63) :=
  ⟨{ modules := 4, head := headOk }, capOk, negState.wr (CL.LINK_STAT_STATE 3) lsUp, by decide +kernel⟩

theorem claspNegotiationAndTraining_met_3 : ∃ (m : CapHead) (c : Nat) (block : List Byte) (s : State),
    (s.part = .pmx7241 ∧ s.rd (CL.CAP_STAT_NEG_STATE 3) = 1 ∧ guestModules m.modules = true) ∧
    (capReject true m.modules block = c ∧ c ≠ 0 ∧ m.head.crcOk = true ∧ m.head.seq = 0 ∧ s.linkUp 3 = false) :=
  ⟨{ modules := 1, head := headOk }, 2, [], negState, by decide +kernel⟩

theorem claspNegotiationAndTraining_met_4 : ∃ (sideband : Bool) (m : CapHead) (block : List Byte) (s : State),
    (s.part = .pmx7241 ∧ s.rd (CL.CAP_STAT_NEG_STATE 3) = 1 ∧ (sideband = false ∨ guestModules m.modules = false)) :=
  ⟨true, { modules := 3, head := headOk }, capOk, negState, by decide +kernel⟩

theorem claspNegotiationAndTraining_met_5 : ∃ (sideband : Bool) (m : CapHead) (block : List Byte) (s : State),
    (s.part = .pmx7241 ∧ s.rd (CL.CAP_STAT_NEG_STATE 3) = 2 ∧ s.linkUp 3 = true) ∧
    (m.head.crcOk = true ∧ m.head.seq = (s.lnk 3).rxSeq ∧ (s.lnk 3).rxSince < 63) :=
  ⟨true, { modules := 4, head := headOk }, capOk, guestState, by decide +kernel⟩

theorem claspNegotiationAndTraining_met_6 : ∃ (sideband : Bool) (m : CapHead) (block : List Byte) (s : State),
    (s.part = .pmx7240 ∨ s.rd (CL.CAP_STAT_NEG_STATE 3) = 0 ∨ s.rd (CL.CAP_STAT_NEG_STATE 3) = 3) :=
  ⟨true, { modules := 4, head := headOk }, capOk, awakeState, by decide +kernel⟩

theorem claspNegotiationAndTraining_met_7 : ∃ (a : Nat) (s : State),
    (s.part = .pmx7241 ∧ s.rd (CL.CAP_STAT_NEG_STATE 3) = 1 ∧ s.slotStart = some a ∧ a + 8000 ≤ s.tick) :=
  ⟨5, { negState.setLnk 3 { linkReset with retrain := some (5, true) } with tick := 8005 }, by decide +kernel⟩

theorem claspNegotiationAndTraining_met_8 : ∃ (s : State),
    (s.part = .pmx7241 ∧ s.rd (CL.CAP_STAT_NEG_STATE 3) = 1 ∧ s.stage = 5 ∧ s.boot.facetsDone = 3) :=
  ⟨{ negState.wr DEV.BOOT_STAGE 5 with boot := { State.reset.boot with facetsDone := 3 } }, by decide +kernel⟩

theorem claspNegotiationAndTraining_met_9 : ∃ (a : Nat) (m : Bool) (s : State),
    (s.part = .pmx7241 ∧ s.rd (CL.CAP_STAT_NEG_STATE 3) = 1 ∧ s.stage ≠ 5 ∧ (s.lnk 3).retrain = some (a, m)) :=
  ⟨5, true, negState.setLnk 3 { linkReset with retrain := some (5, true) }, by decide +kernel⟩

theorem claspNegotiationAndTraining_met_10 : ∃ (s : State),
    (s.guest.accepted = true ∧ s.tick % 1000 = 0) :=
  ⟨{ guestState with tick := 3000, guest := { guestState.guest with tickSent := some 2000, tickMiss := 2 } }, by decide⟩

theorem claspNegotiationAndTraining_met_11 : ∃ (echo : Nat) (s : State),
    (s.guest.accepted = true ∧ s.guest.timeSync = true ∧ s.guest.tickSent = some echo ∧ s.tick ≤ echo + 4) :=
  ⟨2000, { guestState with tick := 2004, guest := { guestState.guest with tickSent := some 2000, timeSync := true } }, by decide⟩

theorem claspNegotiationAndTraining_met_12 : ∃ (rq : Requester) (l : Nat) (packetised : Bool) (s : State),
    (s.answers rq (pgCl l) ∧ (s.reached (pgCl l)).unlocked (pgCl l) = true ∧ s.isGuestLink l = false ∧ s.linkUsable l = true) ∧
    (s.readyDrained (pgCl l) = true ∧ (s.reached (pgCl l)).on (CL.MODE_FORCE l) ≠ packetised) :=
  ⟨.bezel, 7, true, (awakeState.setBlk 0x027 (blockIn .ready)).wr (HDR.EXP_STATE_UNLOCKED 0x027) 1, by decide⟩

theorem claspNegotiationAndTraining_met_13 : ∃ (rq : Requester) (l : Nat) (packetised : Bool) (s : State),
    (s.answers rq (pgCl l) ∧ (s.reached (pgCl l)).unlocked (pgCl l) = true ∧ (s.reached (pgCl l)).on (CL.MODE_FORCE l) = packetised) :=
  ⟨.bezel, 7, true, (awakeState.wr (CL.MODE_FORCE 7) 1).wr (HDR.EXP_STATE_UNLOCKED 0x027) 1, by decide⟩

theorem claspNegotiationAndTraining_met_14 : ∃ (rq : Requester) (l : Nat) (s : State),
    (s.answers rq (pgCl l) ∧ (s.reached (pgCl l)).unlocked (pgCl l) = true ∧ s.isGuestLink l = false ∧ s.linkUsable l = true) ∧
    s.readyDrained (pgCl l) = true :=
  ⟨.bezel, 0, (awakeState.setBlk 0x020 (blockIn .ready)).wr (HDR.EXP_STATE_UNLOCKED 0x020) 1, by decide⟩

theorem claspNegotiationAndTraining_met_15 : ∃ (rq : Requester) (s : State),
    (s.answers rq 0x023 ∧ (s.reached 0x023).unlocked 0x023 = true ∧ s.part = .pmx7241 ∧ s.readyDrained 0x023 = true) :=
  ⟨.bezel, { (awakeState.setBlk 0x023 (blockIn .ready)).wr (HDR.EXP_STATE_UNLOCKED 0x023) 1 with part := .pmx7241 }, by decide⟩

theorem claspNegotiationAndTraining_met_16 : ∃ (rq : Requester) (l : Nat) (s : State),
    (s.answers rq (pgCl l) ∧ (s.reached (pgCl l)).unlocked (pgCl l) = true ∧ (s.linkUsable l = false ∨ s.readyDrained (pgCl l) = false)) :=
  ⟨.bezel, 0, (awakeState.setBlk 0x020 (blockIn .active)).wr (HDR.EXP_STATE_UNLOCKED 0x020) 1, by decide⟩

theorem claspNegotiationAndTraining_met_17 : ∃ (l modules a : Nat) (mode : Bool) (s : State),
    ((s.lnk l).retrain = some (a, mode) ∧ s.isGuestLink l = false ∧ modules = linkModules l ∧ s.tick ≤ a + 5000) :=
  ⟨0, 4, 0, true, awakeState.setLnk 0 { linkReset with retrain := some (0, true) }, by decide⟩

theorem claspNegotiationAndTraining_met_18 : ∃ (l modules a : Nat) (mode : Bool) (s : State),
    ((s.lnk l).retrain = some (a, mode) ∧ s.isGuestLink l = false ∧ (modules ≠ linkModules l ∨ a + 5000 < s.tick) ∧ l < 8) ∧
    (s.rd (CL.LINK_STAT_STATE l) ≠ lsFatal) :=
  ⟨0, 3, 0, true, awakeState.setLnk 0 { linkReset with retrain := some (0, true) }, by decide⟩

theorem claspNegotiationAndTraining_met_19 : ∃ (modules a : Nat) (mode : Bool) (s : State),
    (s.part = .pmx7241 ∧ (s.lnk 3).retrain = some (a, mode) ∧ s.rd (CL.CAP_STAT_NEG_STATE 3) ≠ 2 ∧ guestModules modules = true) :=
  ⟨4, 5, true, negState.setLnk 3 { linkReset with retrain := some (5, true) }, by decide +kernel⟩

theorem claspFramingAndReplay_met_1 : ∃ (l seq ack : Nat) (s : State),
    (s.linkUsable l = true ∧ s.linkUp l = true ∧ s.on (CL.LINK_CFG_MODE l) = false ∧ seq = (s.lnk l).rxSeq ∧ (s.lnk l).rxSince < 63) ∧
    ((s.lnk l).unacked = []) :=
  ⟨5, 4095, 4095, (upState 5).setLnk 5 { linkReset with rxSeq := 4095, rxSince := 62 }, by decide⟩

theorem claspFramingAndReplay_met_2 : ∃ (l seq : Nat) (rest : List (Nat × LinkOut)) (p : LinkOut) (s : State),
    (s.linkUsable l = true ∧ s.linkUp l = true ∧ s.on (CL.LINK_CFG_MODE l) = false ∧ seq = (s.lnk l).rxSeq ∧ (s.lnk l).rxSince < 63) ∧
    ((s.lnk l).unacked = (5, p) :: rest ∧ (s.lnk l).txWait = []) :=
  ⟨5, 0, [(6, .frame [2])], .frame [1], (upState 5).setLnk 5 { linkReset with unacked := [(5, .frame [1]), (6, .frame [2])] }, by decide⟩

theorem claspFramingAndReplay_met_3 : ∃ (l seq ack : Nat) (nak : Bool) (s : State),
    (s.linkUsable l = true ∧ s.linkUp l = true ∧ s.on (CL.LINK_CFG_MODE l) = false ∧ seq ≠ (s.lnk l).rxSeq ∧ (s.lnk l).rxHold = false) ∧
    ((s.lnk l).replays = [] ∧ (s.lnk l).txWait = [] ∧ s.txRoom l = true) :=
  ⟨0, 1, 0, false, upState 0, by decide⟩

theorem claspFramingAndReplay_met_4 : ∃ (l seq ack : Nat) (nak : Bool) (s : State),
    (s.linkUsable l = true ∧ s.linkUp l = true ∧ s.on (CL.LINK_CFG_MODE l) = false ∧ seq ≠ (s.lnk l).rxSeq ∧ (s.lnk l).rxHold = true) :=
  ⟨0, 1, 0, false, (upState 0).setLnk 0 { linkReset with rxHold := true }, by decide⟩

theorem claspFramingAndReplay_met_5 : ∃ (l first n : Nat) (s : State),
    (s.linkUsable l = true ∧ s.linkUp l = true ∧ s.isGuestLink l = false ∧ s.rd (CL.LINK_STAT_STATE l) = lsUp) ∧
    ((s.lnk l).unacked.map (·.1) = (List.range n).map (fun i => (first + i) % s.seqMod l) ∧ n ≤ 1024 ∧ (s.lnk l).txWait = []) :=
  ⟨0, 4095, 2, (upState 0).setLnk 0 { linkReset with unacked := [(4095, .frame [1]), (0, .frame [2])] }, by decide⟩

theorem claspFramingAndReplay_met_6 : ∃ (l seq : Nat) (p : LinkOut) (s : State),
    (s.linkUsable l = true ∧ s.linkUp l = true ∧ s.isGuestLink l = false ∧ (s.lnk l).replays = []) ∧
    ((s.lnk l).unacked = [(seq, p)] ∧ (s.lnk l).txWait = [] ∧ seq < s.seqMod l) :=
  ⟨0, 4095, .frame [1], (upState 0).setLnk 0 { linkReset with unacked := [(4095, .frame [1])] }, by decide⟩

theorem claspFramingAndReplay_met_7 : ∃ (l seq : Nat) (s : State),
    ((s.lnk l).unacked = []) :=
  ⟨0, 5, upState 0, by decide⟩

theorem claspFramingAndReplay_met_8 : ∃ (l seq n : Nat) (r : List Nat) (p : LinkOut) (s : State),
    (s.linkUsable l = true ∧ s.linkUp l = true ∧ (s.lnk l).replays = n :: r ∧ 8 < (((n + 1) :: r).take 4).foldl (· + ·) 0) ∧
    (s.isGuestLink l = false ∧ (s.lnk l).unacked = [(seq, p)] ∧ (s.lnk l).txWait = [] ∧ seq < s.seqMod l) :=
  ⟨0, 0, 8, [], .frame [1], (upState 0).setLnk 0 { linkReset with unacked := [(0, .frame [1])], replays := [8] }, by decide⟩

theorem claspFramingAndReplay_met_9 : ∃ (l : Nat) (s : State),
    (s.linkUsable l = true ∧ s.linkUp l = true ∧ (s.lnk l).testEnd = none ∧ (s.lnk l).burstTick ≠ some s.tick) :=
  ⟨0, upState 0, by decide⟩

theorem claspFramingAndReplay_met_10 : ∃ (l x : Nat) (s : State),
    (s.linkUsable l = true ∧ s.linkUp l = true ∧ (s.lnk l).testEnd = none ∧ x < 256) ∧
    ((s.lnk l).badLanes.contains x = true ∧ (s.lnk l).burstTick = some (s.tick - 1) ∧ 0 < s.tick) :=
  ⟨0, 255, { (upState 0).setLnk 0 { linkReset with badLanes := [255], burstTick := some 4 } with tick := 5 }, by decide⟩

theorem claspFramingAndReplay_met_11 : ∃ (l x : Nat) (s : State),
    (s.linkUsable l = true ∧ s.linkUp l = true ∧ (s.lnk l).testEnd = none ∧ x < 256 ∧ (s.lnk l).burstTick ≠ some s.tick) ∧
    ((s.lnk l).badLanes.contains x = false ∨ (s.lnk l).burstTick = none) :=
  ⟨0, 255, upState 0, by decide⟩

theorem claspFramingAndReplay_met_12 : ∃ (rq : Requester) (l d : Nat) (s : State),
    (s.answers rq 0x02F ∧ (s.reached 0x02F).unlocked 0x02F = true ∧ (s.bst 0x02F).up = true ∧ l < 8 ∧ d < 65536) ∧
    ((s.bst (pgCl l) = .off ∨ s.bst (pgCl l) = .faulted) ∧ (s.reached 0x02F).on CL_TEST.TEST_STAT_BUSY = false) :=
  ⟨.bezel, 7, 65535, (awakeState.setBlk 0x02F (blockIn .ready)).wr (HDR.EXP_STATE_UNLOCKED 0x02F) 1, by decide⟩

theorem claspFramingAndReplay_met_13 : ∃ (rq : Requester) (l d : Nat) (s : State),
    (s.answers rq 0x02F ∧ (s.reached 0x02F).unlocked 0x02F = true ∧ (s.bst 0x02F).up = true ∧ l < 8 ∧ d < 65536) ∧
    ((s.bst (pgCl l) ≠ .off ∧ s.bst (pgCl l) ≠ .faulted) ∨ (s.reached 0x02F).on CL_TEST.TEST_STAT_BUSY = true) :=
  ⟨.bezel, 7, 65535, ((awakeState.setBlk 0x02F (blockIn .ready)).setBlk 0x027 (blockIn .active)).wr (HDR.EXP_STATE_UNLOCKED 0x02F) 1, by decide⟩

theorem claspFramingAndReplay_met_14 : ∃ (rq : Requester) (l d : Nat) (s : State),
    (s.answers rq 0x02F ∧ (s.reached 0x02F).unlocked 0x02F = true ∧ (s.bst 0x02F).up = false) :=
  ⟨.bezel, 7, 65535, awakeState.wr (HDR.EXP_STATE_UNLOCKED 0x02F) 1, by decide⟩

theorem claspFramingAndReplay_met_15 : ∃ (l e : Nat) (bad : List Nat) (s : State),
    ((List.range 8).find? (fun k => (s.lnk k).testEnd.isSome) = some l ∧ (s.lnk l).testEnd = some e ∧ e ≤ s.tick) :=
  ⟨7, 0, [255], awakeState.setLnk 7 { linkReset with testEnd := some 0 }, by decide⟩

theorem claspGuestTraffic_met_1 : ∃ (h : PktHead) (addr len tag : Nat) (s : State),
    (s.linkUp 3 = true ∧ s.part = .pmx7241 ∧ h.crcOk = true ∧ h.seq = (s.lnk 3).rxSeq ∧ (s.lnk 3).rxSince < 63 ∧ h.listed = true) ∧
    (len ≤ s.guest.maxPkt ∧ len % 4 = 0 ∧ 1 ≤ s.guest.hisReq ∧ (s.lnk 3).unacked = [] ∧ s.gmapHolds addr len false = true ∧ s.rd (storeOf addr).1 = 0) ∧
    (s.guest.waiting = [] ∧ 1 ≤ s.guest.credCpl ∧ dataCredits (s.dpaRead addr len).length ≤ s.guest.credData) :=
  ⟨headOk, 65472, 64, 4095, creditState, by decide⟩

theorem claspGuestTraffic_met_2 : ∃ (h : PktHead) (addr len tag : Nat) (s : State),
    (s.linkUp 3 = true ∧ s.part = .pmx7241 ∧ h.crcOk = true ∧ h.seq = (s.lnk 3).rxSeq ∧ (s.lnk 3).rxSince < 63 ∧ h.listed = true) ∧
    (len ≤ s.guest.maxPkt ∧ len % 4 = 0 ∧ 1 ≤ s.guest.hisReq ∧ (s.lnk 3).unacked = [] ∧ s.gmapHolds addr len false = true ∧ s.rd (storeOf addr).1 = 0) ∧
    (s.guest.credCpl = 0) :=
  ⟨headOk, 0, 64, 7, guestState, by decide⟩

theorem claspGuestTraffic_met_3 : ∃ (h : PktHead) (addr len tag : Nat) (s : State),
    (s.linkUp 3 = true ∧ s.part = .pmx7241 ∧ h.crcOk = true ∧ h.seq = (s.lnk 3).rxSeq ∧ (s.lnk 3).rxSince < 63 ∧ h.listed = true) ∧
    (len ≤ s.guest.maxPkt ∧ len % 4 = 0 ∧ 1 ≤ s.guest.hisReq ∧ (s.lnk 3).unacked = [] ∧ s.gmapHolds addr len false = false) ∧
    (s.guest.waiting = [] ∧ 1 ≤ s.guest.credCpl) :=
  ⟨headOk, 65536, 64, 7, creditState, by decide⟩

theorem claspGuestTraffic_met_4 : ∃ (h : PktHead) (addr tag : Nat) (data : List Byte) (s : State),
    (s.linkUp 3 = true ∧ s.part = .pmx7241 ∧ h.crcOk = true ∧ h.seq = (s.lnk 3).rxSeq ∧ (s.lnk 3).rxSince < 63 ∧ h.listed = true) ∧
    (data.length ≤ s.guest.maxPkt ∧ data.length % 4 = 0 ∧ 1 ≤ s.guest.hisReq ∧ dataCredits data.length ≤ s.guest.hisData) ∧
    (s.gmapHolds addr data.length true = true ∧ (s.lnk 3).unacked = [] ∧ s.guest.waiting = [] ∧ 1 ≤ s.guest.credCpl) :=
  ⟨headOk, 65532, 7, [1, 2, 3, 4], creditState, by decide⟩

theorem claspGuestTraffic_met_5 : ∃ (h : PktHead) (addr tag : Nat) (data : List Byte) (s : State),
    (s.linkUp 3 = true ∧ s.part = .pmx7241 ∧ h.crcOk = true ∧ h.seq = (s.lnk 3).rxSeq ∧ (s.lnk 3).rxSince < 63 ∧ h.listed = true) ∧
    (data.length ≤ s.guest.maxPkt ∧ data.length % 4 = 0 ∧ 1 ≤ s.guest.hisReq ∧ dataCredits data.length ≤ s.guest.hisData) ∧
    (s.gmapHolds addr data.length true = false ∧ (s.lnk 3).unacked = [] ∧ s.guest.waiting = [] ∧ 1 ≤ s.guest.credCpl) :=
  ⟨headOk, 65536, 7, [1, 2, 3, 4], creditState, by decide⟩

theorem claspGuestTraffic_met_6 : ∃ (h : PktHead) (addr tag : Nat) (data : List Byte) (s : State),
    (s.linkUp 3 = true ∧ s.part = .pmx7241 ∧ h.crcOk = true ∧ h.seq = (s.lnk 3).rxSeq ∧ (s.lnk 3).rxSince < 63) ∧
    ((s.lnk 3).unacked = [] ∧ (h.listed = false ∨ s.guest.hisReq = 0 ∨ s.guest.hisData < dataCredits data.length)) :=
  ⟨{ headOk with listed := false }, 0, 7, [1, 2, 3, 4], guestState, by decide⟩

theorem claspGuestTraffic_met_7 : ∃ (l : Nat) (tag : CplTag) (status : Nat) (data : List Byte) (x : Txn) (s : State),
    (s.linkUsable l = true ∧ s.linkUp l = true ∧ s.on (CL.INJ_RSP_DROP l) = false ∧ s.isGuestLink l = false) ∧
    ((s.lnk l).txns.find? (fun y => y.tag == tag.tag) = some x ∧ ((x.rid = none ∧ x.fetch = none) ∨ (x.fetch = none ∧ status = 0))) ∧
    (s.on (CL.LINK_CFG_MODE l) = false) :=
  ⟨0, { head := headOk, tag := 4095 }, 0, [], { tag := 4095, rid := some 7, fetch := none, issue := 0, expired := none }, txnState, by decide⟩

theorem claspGuestTraffic_met_8 : ∃ (l : Nat) (tag : CplTag) (status : Nat) (data : List Byte) (s : State),
    (s.linkUsable l = true ∧ s.linkUp l = true ∧ s.on (CL.INJ_RSP_DROP l) = false ∧ s.isGuestLink l = false) ∧
    ((s.lnk l).txns.find? (fun y => y.tag == tag.tag) = none ∧ s.on (CL.LINK_CFG_MODE l) = false ∧ (s.lnk l).timedOut.contains tag.tag = true) :=
  ⟨0, { head := headOk, tag := 4 }, 0, [], txnState.setLnk 0 { txnState.lnk 0 with timedOut := [4] }, by decide⟩

theorem claspGuestTraffic_met_9 : ∃ (l : Nat) (tag : CplTag) (status : Nat) (data : List Byte) (s : State),
    (s.linkUsable l = true ∧ s.linkUp l = true ∧ s.on (CL.INJ_RSP_DROP l) = false ∧ s.isGuestLink l = false) ∧
    ((s.lnk l).txns.find? (fun y => y.tag == tag.tag) = none ∧ s.on (CL.LINK_CFG_MODE l) = false ∧ (s.lnk l).timedOut.contains tag.tag = false) :=
  ⟨0, { head := headOk, tag := 4 }, 0, [], txnState, by decide⟩

theorem claspGuestTraffic_met_10 : ∃ (tag : CplTag) (data : List Byte) (x : Txn) (fid : Nat) (s : State),
    (s.part = .pmx7241 ∧ s.linkUp 3 = true ∧ s.on (CL.INJ_RSP_DROP 3) = false ∧ (s.lnk 3).unacked = []) ∧
    (tag.head.crcOk = true ∧ tag.head.listed = true ∧ tag.head.seq = (s.lnk 3).rxSeq ∧ (s.lnk 3).rxSince < 63) ∧
    (data.length ≤ s.guest.maxPkt ∧ data.length % 4 = 0 ∧ 1 ≤ s.guest.hisCpl ∧ dataCredits data.length ≤ s.guest.hisData) ∧
    ((s.lnk 3).txns.find? (fun y => y.tag == tag.tag) = some x ∧ x.rid = none ∧ x.fetch = some fid) :=
  ⟨{ head := headOk, tag := 5 }, [1, 2, 3, 4], { tag := 5, rid := none, fetch := some 2, issue := 0, expired := none }, 2, creditState.setLnk 3 { linkReset with txns := [{ tag := 5, rid := none, fetch := some 2, issue := 0, expired := none }] }, by decide⟩

theorem claspGuestTraffic_met_11 : ∃ (req cpl data : Nat) (s : State),
    (s.guest.accepted = true ∧ s.guest.waiting = []) :=
  ⟨65535, 0, 1, guestState, by decide⟩

theorem claspGuestTraffic_met_12 : ∃ (tag : Nat) (s : State),
    (s.guest.accepted = true ∧ s.guest.waiting = [.cpl tag 0] ∧ s.guest.credCpl = 0 ∧ s.guest.retCpl = 0 ∧ s.txRoom 3 = true) ∧
    (s.guest.retReq < 65536 ∧ s.guest.retData < 65536) :=
  ⟨7, { guestState with guest := { guestState.guest with waiting := [.cpl 7 0] } }, by decide⟩

theorem claspGuestTraffic_met_14 : ∃ (l tag : Nat) (x : Txn) (s : State),
    ((s.lnk l).txns.find? (fun y => y.tag == tag && y.expired.any (fun e => decide (e < s.tick))) = some x ∧ (s.lnk l).upLast = true) ∧
    (s.rd (CL.LINK_STAT_STATE l) ≠ lsFatal ∧ x.rid = none ∧ x.fetch = none ∧ l < 8) :=
  ⟨0, 5, { tag := 5, rid := none, fetch := none, issue := 0, expired := some 0 }, { upState 0 with tick := 1 }.setLnk 0 { linkReset with upLast := true, txns := [{ tag := 5, rid := none, fetch := none, issue := 0, expired := some 0 }] }, by decide⟩

theorem claspGuestTraffic_met_15 : ∃ (l tag : Nat) (s : State),
    ((∀ x ∈ (s.lnk l).txns, x.tag = tag → x.expired = none ∨ x.expired = some s.tick)) :=
  ⟨0, 4095, txnState, by decide⟩

theorem claspGuestTraffic_met_16 : ∃ (m : GuestMsg) (outcome cause fin start : Nat) (s : State),
    (s.linkUp 3 = true ∧ s.part = .pmx7241 ∧ m.head.crcOk = true ∧ m.head.seq = (s.lnk 3).rxSeq ∧ (s.lnk 3).rxSince < 63) ∧
    (m.head.listed = true ∧ m.len ≤ s.guest.maxPkt ∧ m.len % 4 = 0 ∧ 1 ≤ s.guest.hisReq ∧ dataCredits m.len ≤ s.guest.hisData) ∧
    ((s.lnk 3).unacked = [] ∧ (guestComplete m = false ∨ s.guest.work.find? (fun e => e.tag == m.tag) = none)) :=
  ⟨{ head := headOk, kind := 3, len := 40, tag := 1 }, 0, 0, 0, 0, guestState, by decide⟩

theorem claspGuestTraffic_met_17 : ∃ (m : GuestMsg) (outcome cause fin start : Nat) (e : GuestEntry) (s : State),
    (s.linkUp 3 = true ∧ s.part = .pmx7241 ∧ m.head.crcOk = true ∧ m.head.seq = (s.lnk 3).rxSeq ∧ (s.lnk 3).rxSince < 63) ∧
    (m.head.listed = true ∧ m.kind = 0x02 ∧ m.len = 40 ∧ 40 ≤ s.guest.maxPkt ∧ 1 ≤ s.guest.hisReq ∧ 1 ≤ s.guest.hisData) ∧
    ((s.lnk 3).unacked = [] ∧ s.guest.work.find? (fun x => x.tag == m.tag) = some e ∧ e.cancelled = true) :=
  ⟨{ head := headOk, kind := 2, len := 40, tag := 3 }, 0, 0, 0, 0, guestEntry true, { guestState with guest := { guestState.guest with work := [guestEntry true] } }, by decide⟩

theorem claspGuestTraffic_met_18 : ∃ (m : GuestMsg) (outcome cause fin start : Nat) (e : GuestEntry) (r : Req) (s : State),
    (s.linkUp 3 = true ∧ s.part = .pmx7241 ∧ m.head.crcOk = true ∧ m.head.seq = (s.lnk 3).rxSeq ∧ (s.lnk 3).rxSince < 63) ∧
    (m.head.listed = true ∧ m.kind = 0x02 ∧ m.len = 40 ∧ 40 ≤ s.guest.maxPkt ∧ 1 ≤ s.guest.hisReq ∧ 1 ≤ s.guest.hisData) ∧
    ((s.lnk 3).unacked = [] ∧ s.guest.work.find? (fun x => x.tag == m.tag) = some e ∧ e.cancelled = false ∧ s.req e.rid = some r) ∧
    (r.ends = none) :=
  ⟨{ head := headOk, kind := 2, len := 40, tag := 3 }, 0, 0, 0, 0, guestEntry false, reqOne, { guestState with guest := { guestState.guest with work := [guestEntry false] }, sch := (reqState reqOne).sch }, by decide⟩

/-! ### Requests and the Casket -/

theorem requestsEndOnceWithARecord_met_1 : ∃ (rid outcome cause : Nat) (r : Req) (s : State),
    (s.req rid = some r ∧ r.ends = none) :=
  ⟨7, 3, 1, reqOne, reqState reqOne, by decide⟩

theorem requestsEndOnceWithARecord_met_2 : ∃ (rid outcome cause : Nat) (r : Req) (o : Ending) (s : State),
    (mapFind s.sch.reqs rid = some r ∧ r.ends = some o) :=
  ⟨7, 0x0401, 0, endedReq, endOne, reqState endedReq, by decide⟩

theorem requestsEndOnceWithARecord_met_3 : ∃ (rid : Nat) (r : Req) (o : Ending) (s : State),
    (mapFind s.sch.reqs rid = some r ∧ r.ends = some o ∧ r.held = [] ∧ r.est = [] ∧ r.ws < 64 ∧ s.on (WS.CPL_CFG_LOC r.ws) = false) ∧
    (s.ck.reshard = [] ∧ inCasket (s.recordAt r.ws) 32 = true ∧ s.inGrant r.ws (s.recordAt r.ws) 32 false = true) :=
  ⟨7, endedReq, endOne, reqState endedReq, by decide +kernel⟩

theorem requestsEndOnceWithARecord_met_4 : ∃ (rid outcome cause : Nat) (s : State),
    (mapFind s.sch.reqs rid = none) :=
  ⟨8, 0, 0, reqState reqOne, by decide⟩

theorem tilesAreInstalledOrRefused_met_1 : ∃ (fetch a : Nat) (f : Fetch) (o : Obj) (data : List Byte) (s : State),
    (mapFind s.ck.fetches fetch = some f ∧ f.dest = some a ∧ f.lent = false ∧ regionOf s.part f.src = .host) ∧
    (inCasket a 1 = true ∧ s.objOf f.ws f.obj = some o ∧ placeReadOnly o.place = false) ∧
    installOk s.tileCheckOn (padTo tileSize data) = true :=
  ⟨2, casketBase + 512 * tileSize, fetchOne 0x080000000000 4, { ws := 1, id := 5, tiles := 1, home := 4, place := 0, addrs := [0x080000000000], lost := false, freedBy := none }, tileOne, fetchState 0x080000000000 4, by decide +kernel⟩

theorem tilesAreInstalledOrRefused_met_2 : ∃ (fetch a : Nat) (f : Fetch) (data : List Byte) (s : State),
    (mapFind s.ck.fetches fetch = some f ∧ f.dest = some a ∧ regionOf s.part f.src = .host) ∧
    installOk s.tileCheckOn (padTo tileSize data) = false :=
  ⟨2, casketBase + 512 * tileSize, fetchOne 0x080000000000 4, [], fetchState 0x080000000000 4, by decide +kernel⟩

theorem tilesAreInstalledOrRefused_met_3 : ∃ (fetch : Nat) (st : BusStatus) (f : Fetch) (s : State),
    (mapFind s.ck.fetches fetch = some f ∧ ((st ≠ .ok ∧ 3 ≤ f.tier ∧ f.lent = false) ∨ s.sourceDead f.src = true)) :=
  ⟨2, .timeout, fetchOne 0x080000000000 4, fetchState 0x080000000000 4, by decide⟩

theorem tilesAreInstalledOrRefused_met_4 : ∃ (fetch rid j : Nat) (f : Fetch) (s : State),
    (mapFind s.ck.fetches fetch = some f ∧ f.waits = [(rid, j)] ∧ s.mergeInput rid f = none) :=
  ⟨2, 7, 0, fetchOne 0x080000000000 4, fetchState 0x080000000000 4, by decide⟩

theorem tilesAreInstalledOrRefused_met_5 : ∃ (rid fetch j : Nat) (f : Fetch) (r : Req) (s : State),
    (mapFind s.ck.fetches fetch = some f ∧ mapFind s.sch.reqs rid = some r ∧ (r.phase ≠ .waiting ∨ r.op = opLoadPlan)) ∧
    (f.waits.find? (fun w => w.1 == rid) = some (rid, j) ∧ j + s.lateLimit f.tier ≤ s.tick) :=
  ⟨7, 2, 0, fetchOne 0x080000000000 4, { reqOne with phase := .running }, { fetchState 0x080000000000 4 with tick := 50000000 }, by decide⟩

theorem tilesAreInstalledOrRefused_met_6 : ∃ (rid fetch : Nat) (r : Req) (s : State),
    (mapFind s.sch.reqs rid = some r ∧ r.phase = .waiting ∧ r.op ≠ opLoadPlan) :=
  ⟨7, 2, { reqOne with phase := .waiting }, reqState { reqOne with phase := .waiting }, by decide⟩

theorem tilesAreInstalledOrRefused_met_7 : ∃ (rid fetch j : Nat) (f : Fetch) (s : State),
    (mapFind s.ck.fetches fetch = some f ∧ f.waits.find? (fun w => w.1 == rid) = some (rid, j) ∧ s.tick < j + s.lateLimit f.tier) :=
  ⟨7, 2, 0, fetchOne 0x080000000000 4, fetchState 0x080000000000 4, by decide⟩

theorem quotasLendingAndScrubbing_met_1 : ∃ (rq : Requester) (w value : Nat) (s : State),
    (s.answers rq 0x019 ∧ w < 64) ∧
    ((s.reached 0x019).quotaBad w 0 (bitsOf value 15 0) = false ∧ (s.reached 0x019).quotaBad w 1 (bitsOf value 31 16) = false) :=
  ⟨.bezel, 63, 0x02000800, awakeState, by simp only [State.quotaBad, quotaSum_zero ((awakeState).reached 0x019) _ (by decide)]; decide⟩

theorem quotasLendingAndScrubbing_met_2 : ∃ (rq : Requester) (w value : Nat) (s : State),
    (s.answers rq 0x019 ∧ w < 64 ∧ (s.reached 0x019).quotaBad w 2 (bitsOf value 23 0) = false) :=
  ⟨.pf, 0, 0x01300000, awakeState, by simp only [State.quotaBad, quotaSum_zero ((awakeState).reached 0x019) _ (by decide)]; decide⟩

theorem quotasLendingAndScrubbing_met_3 : ∃ (rq : Requester) (w value : Nat) (s : State),
    (s.answers rq 0x019 ∧ w < 64 ∧ ((s.reached 0x019).quotaBad w 0 (bitsOf value 15 0) = true ∨ (s.reached 0x019).quotaBad w 1 (bitsOf value 31 16) = true)) :=
  ⟨.bezel, 5, 0x00000801, awakeState, by simp only [State.quotaBad, quotaSum_zero ((awakeState).reached 0x019) _ (by decide)]; decide⟩

theorem quotasLendingAndScrubbing_met_4 : ∃ (slot h : Nat) (e : Slot) (s : State),
    (mapFind s.ck.slots slot = some e ∧ e.writeback = true ∧ s.homeAddr e.ws e.obj e.tile = some h) ∧
    (s.ck.fetches = [] ∧ s.sch.reqs = [] ∧ s.rd (storeOf slot).1 = 0) :=
  ⟨casketBase + 512 * tileSize, 0x8000, { slotOne with dirty := true, writeback := true }, dirtyState, by decide⟩

theorem quotasLendingAndScrubbing_met_5 : ∃ (slot rid : Nat) (borrow : Bool) (e : Slot) (r : Req) (s : State),
    (mapFind s.ck.slots slot = some e ∧ e.writeback = true ∧ e.waiter = some (rid, borrow)) ∧
    ((s.writeHome slot).ck.fetches.any (fun f => decide (f.2.waitSlot = some slot)) = false ∧ (s.writeHome slot).req rid = some r) :=
  ⟨casketBase + 512 * tileSize, 7, false, { slotOne with dirty := true, writeback := true, waiter := some (7, false) }, reqOne, { dirtyState with sch := (reqState reqOne).sch, ck := { dirtyState.ck with slots := [(casketBase + 512 * tileSize, { slotOne with dirty := true, writeback := true, waiter := some (7, false) })] } }, by decide +kernel⟩

theorem quotasLendingAndScrubbing_met_6 : ∃ (n : Nat) (s : State),
    (n < 4 ∧ s.mayLend n = true) :=
  ⟨3, ((awakeState.wr CK_TIER.LOCKET_LEND_EN 15).setBlk 0x058 (blockIn .ready)).wr BZ_PM.PLL_LOCK 255, by decide⟩

theorem quotasLendingAndScrubbing_met_7 : ∃ (rq : Requester) (s : State),
    s.answers rq 0x018 :=
  ⟨.bezel, awakeState, by decide⟩

theorem quotasLendingAndScrubbing_met_8 : ∃ (p n : Nat) (s : State),
    (mapFind s.ck.notices p = some n ∧ n + 5000 ≤ s.tick ∧ s.borrowState p = 2 ∧ p < 64) :=
  ⟨63, 0, { awakeState.setBorrow 63 2 with tick := 5000, ck := { awakeState.ck with notices := [(63, 0)] } }, by decide⟩

theorem quotasLendingAndScrubbing_met_9 : ∃ (s : State),
    (s.on CK_CTRL.SCRUB_CTRL_EN = true ∧ s.pm ≤ 1 ∧ s.clockOn 0x010 = true ∧ s.rd CK_CTRL.INJ_ECC = 0 ∧ ∀ f : Nat, f < 4 → s.rd (FCT3.INJ_ECC f) = 0) :=
  ⟨awakeState.wr CK_CTRL.SCRUB_CTRL_EN 1, by decide⟩

theorem quotasLendingAndScrubbing_met_10 : ∃ (k : Nat) (s : State),
    (k < 4 ∧ s.on (HBM.PATROL_CTRL_EN k) = true ∧ s.pm ≤ 1 ∧ s.clockOn (pgHbm k) = true ∧ s.rd (HBM.INJ_ECC k) = 0) :=
  ⟨3, awakeState.wr (HBM.PATROL_CTRL_EN 3) 1, by decide⟩

/-! ### Workspaces and the scheduler -/

theorem doorbellsCancelsSharesAndModeration_met_1 : ∃ (rq : Requester) (w r tail : Nat) (s : State),
    (w < 64 ∧ r < 4 ∧ rqReaches rq (pgWs w) = true ∧ s.booted = true ∧ s.leaveDoze.takesDoorbell w = true) ∧
    ((s.leaveDoze.on (WS.CPL_CFG_LOC w) = false ∨ s.leaveDoze.shadowOk w = true) ∧ tail < s.leaveDoze.ringSize w r) :=
  ⟨.bezel, 1, 3, 15, awakeState.setBlk 0x101 (blockIn .ready), by decide⟩

theorem doorbellsCancelsSharesAndModeration_met_2 : ∃ (rq : Requester) (w r tail : Nat) (s : State),
    (w < 64 ∧ r < 4 ∧ rqReaches rq (pgWs w) = true ∧ s.booted = true ∧ s.leaveDoze.takesDoorbell w = true) ∧
    (s.leaveDoze.on (WS.CPL_CFG_LOC w) = false ∧ s.leaveDoze.ringSize w r ≤ tail ∧ tail < 4096) :=
  ⟨.bezel, 1, 3, 16, awakeState.setBlk 0x101 (blockIn .ready), by decide⟩

theorem doorbellsCancelsSharesAndModeration_met_3 : ∃ (rq : Requester) (w r tail : Nat) (s : State),
    (w < 64 ∧ r < 4 ∧ rqReaches rq (pgWs w) = true ∧ s.booted = true ∧ s.leaveDoze.takesDoorbell w = false) :=
  ⟨.bezel, 63, 3, 1, awakeState, by decide⟩

theorem doorbellsCancelsSharesAndModeration_met_4 : ∃ (rq : Requester) (w r tail : Nat) (s : State),
    (w < 64 ∧ r < 4 ∧ rqReaches rq (pgWs w) = true ∧ s.booted = true ∧ s.leaveDoze.takesDoorbell w = true) ∧
    (s.leaveDoze.on (WS.CPL_CFG_LOC w) = true ∧ s.leaveDoze.shadowOk w = false) :=
  ⟨.bezel, 0, 0, 1, (awakeState.setBlk 0x100 (blockIn .ready)).wr (WS.CPL_CFG_LOC 0) 1, by decide⟩

theorem doorbellsCancelsSharesAndModeration_met_5 : ∃ (rq : Requester) (w rings : Nat) (s : State),
    (w < 64 ∧ s.answers rq (pgWs w)) :=
  ⟨.pf, 63, 10, awakeState, by decide⟩

theorem doorbellsCancelsSharesAndModeration_met_6 : ∃ (rq : Requester) (w c v : Nat) (s : State),
    (w < 64 ∧ c < 4 ∧ s.answers rq (pgWs w) ∧ rqIsVf rq = false ∧ s.leaveDoze.shareTotal - s.leaveDoze.share w c + v % 1024 ≤ 1000) :=
  ⟨.bezel, 63, 3, 1000, awakeState, by refine ⟨by decide, by decide, by decide, by decide, ?_⟩; rw [shareTotal_zero _ (by decide)]; decide⟩

theorem doorbellsCancelsSharesAndModeration_met_7 : ∃ (rq : Requester) (w c v : Nat) (s : State),
    (w < 64 ∧ c < 4 ∧ s.answers rq (pgWs w) ∧ rqIsVf rq = false ∧ 1000 < s.leaveDoze.shareTotal - s.leaveDoze.share w c + v % 1024) :=
  ⟨.bezel, 63, 3, 1001, awakeState, by refine ⟨by decide, by decide, by decide, by decide, ?_⟩; rw [shareTotal_zero _ (by decide)]; decide⟩

theorem doorbellsCancelsSharesAndModeration_met_8 : ∃ (n c v : Nat) (s : State),
    (1 ≤ n ∧ n ≤ 63 ∧ c < 4 ∧ s.answers (.vf n) (pgWs n)) :=
  ⟨1, 0, 0, awakeState, by decide⟩

theorem doorbellsCancelsSharesAndModeration_met_9 : ∃ (w u : Nat) (held : Bool) (s : State),
    (mapFind s.sch.moder w = some (u, held) ∧ u ≤ s.tick) :=
  ⟨1, 0, true, awakeState.setSch { awakeState.sch with moder := [(1, (0, true))] }, by decide⟩

theorem admissionOrderAndDecisions_met_1 : ∃ (w r : Nat) (d : Desc) (s : State),
    s.nextCandidate [] = some (w, r, d) :=
  ⟨1, 0, descOf (descBytes 0 0 0 0 0 0 ++ List.replicate 24 0), ringState (descBytes 0 0 0 0 0 0), by decide +kernel⟩

theorem admissionOrderAndDecisions_met_2 : ∃ (w r : Nat) (d : Desc) (s : State),
    (s.sch.cancels = [] ∧ s.admitting = true ∧ s.nextCandidate [] = some (w, r, d)) :=
  ⟨1, 0, descOf (descBytes 0 0 0 0 0 0 ++ List.replicate 24 0), ringState (descBytes 0 0 0 0 0 0), by decide +kernel⟩

theorem admissionOrderAndDecisions_met_3 : ∃ (s : State),
    (s.sch.cancels = [] ∧ s.nextCandidate [] = none) :=
  ⟨awakeState, by decide +kernel⟩

theorem admissionOrderAndDecisions_met_4 : ∃ (w r a n : Nat) (s : State),
    (s.sch.cancels = [(ringKey w r, a)] ∧ r < 4 ∧ a < s.tick ∧ s.admitting = false) ∧
    (n = ((s.submits w r).filter (fun x => decide (x ≤ a))).length ∧ n ≠ 0) :=
  ⟨1, 0, 0, 1, cancelState, by decide +kernel⟩

theorem admissionOrderAndDecisions_met_5 : ∃ (w r : Nat) (d : Desc) (s : State),
    s.cplFree w = 0 :=
  ⟨1, 0, descOf (descBytes 0 0 0 0 0 0 ++ List.replicate 24 0), awakeState.setSch { awakeState.sch with reserved := [(1, 15)] }, by decide⟩

theorem admissionOrderAndDecisions_met_6 : ∃ (w r q : Nat) (d : Desc) (t s : State),
    (s.cplFree w ≠ 0 ∧ s.fetchHead w r d = (some q, t)) :=
  ⟨1, 0, (eccRing.fetchDesc 1 0).1.get eccRing_meets_error, default, (eccRing.fetchDesc 1 0).2, eccRing,
    ⟨by decide +kernel, (fetchHead_of_error eccRing_meets_error).trans (pair_of_first (Option.some_get _).symm)⟩⟩

theorem admissionOrderAndDecisions_met_7 : ∃ (w r : Nat) (d : Desc) (t s : State),
    (s.cplFree w ≠ 0 ∧ s.fetchHead w r d = (none, t) ∧ t.devFaulted = true) :=
  ⟨1, 0, descOf (descBytes 0 0 0 0 0 0 ++ List.replicate 24 0), ((awakeState.setBlk 0x000 (blockIn .faulted)).fetchDesc 1 0).2, awakeState.setBlk 0x000 (blockIn .faulted), by decide +kernel⟩

theorem admissionOrderAndDecisions_met_8 : ∃ (w r : Nat) (d : Desc) (t s : State),
    (s.cplFree w ≠ 0 ∧ s.fetchHead w r d = (none, t) ∧ t.devFaulted = false ∧ t.malformed w d = true ∧ t.badRsd w d = none) :=
  ⟨1, 0, { descOf (descBytes 0 0 0 0 0 0 ++ List.replicate 24 0) with op := 8 }, ((awakeState).fetchDesc 1 0).2, awakeState, by decide +kernel⟩

theorem admissionOrderAndDecisions_met_9 : ∃ (w r u : Nat) (d : Desc) (t v s : State),
    (s.cplFree w ≠ 0 ∧ s.fetchHead w r d = (none, t) ∧ t.devFaulted = false ∧ t.malformed w d = false ∧ t.headIds w d = v) ∧
    (((unitClaims (t.claimsOf w d)).map (·.1)).find? v.unitOut = some u) :=
  ⟨1, 0, 15, descOf (descBytes 5 0 0 0 0 64 ++ List.replicate 24 0), ((awakeState.setBlk 0x090 (blockIn .faulted)).fetchDesc 1 0).2, ((awakeState.setBlk 0x090 (blockIn .faulted)).fetchDesc 1 0).2, awakeState.setBlk 0x090 (blockIn .faulted), by decide +kernel⟩

theorem admissionOrderAndDecisions_met_10 : ∃ (w r : Nat) (d : Desc) (t s : State),
    (s.cplFree w ≠ 0 ∧ s.fetchHead w r d = (none, t) ∧ t.devFaulted = false ∧ t.malformed w d = false ∧ ((unitClaims (t.claimsOf w d)).map (·.1)).any t.unitOut = false ∧ d.op ≠ opRun) ∧
    ((unitClaims (t.claimsOf w d)).any (fun e => decide (t.capacity e.1 < t.scaled e.1 e.2)) = true) :=
  ⟨1, 0, { descOf (descBytes 5 0 0 0 0 0xFFFFFFC0 ++ List.replicate 24 0) with ctrl := 3 }, ((awakeState.wr WK_SCHED.HORIZON 1000).fetchDesc 1 0).2, awakeState.wr WK_SCHED.HORIZON 1000, by decide +kernel⟩

theorem admissionOrderAndDecisions_met_11 : ∃ (w r : Nat) (d : Desc) (t s : State),
    (s.cplFree w ≠ 0 ∧ s.fetchHead w r d = (none, t) ∧ t.devFaulted = false ∧ t.malformed w d = false ∧ ((unitClaims (t.claimsOf w d)).map (·.1)).any t.unitOut = false ∧ d.op ≠ opRun) ∧
    ((unitClaims (t.claimsOf w d)).any (fun e => decide (t.capacity e.1 < t.scaled e.1 e.2)) = false) ∧
    (d.cls = 0 ∧ d.deadline < t.tick) :=
  ⟨1, 0, { descOf (descBytes 0 0 0 0 0 0 ++ List.replicate 24 0) with ctrl := 0, deadline := 5 }, (({ awakeState with tick := 6 }).fetchDesc 1 0).2, { awakeState with tick := 6 }, by decide +kernel⟩

theorem admissionOrderAndDecisions_met_12 : ∃ (w r : Nat) (d : Desc) (t s : State),
    (s.cplFree w ≠ 0 ∧ s.fetchHead w r d = (none, t) ∧ t.devFaulted = false ∧ t.malformed w d = false ∧ ((unitClaims (t.claimsOf w d)).map (·.1)).any t.unitOut = false ∧ d.op ≠ opRun ∧ ¬(d.cls = 0 ∧ d.deadline < t.tick)) ∧
    (t.inShare w d = true) :=
  ⟨1, 0, descOf (descBytes 0 0 0 0 0 0 ++ List.replicate 24 0), ((awakeState).fetchDesc 1 0).2, awakeState, by decide +kernel⟩

theorem admissionOrderAndDecisions_met_13 : ∃ (w r : Nat) (d : Desc) (t s : State),
    (s.cplFree w ≠ 0 ∧ s.fetchHead w r d = (none, t) ∧ t.devFaulted = false ∧ t.malformed w d = false ∧ ((unitClaims (t.claimsOf w d)).map (·.1)).any t.unitOut = false ∧ d.op ≠ opRun ∧ ¬(d.cls = 0 ∧ d.deadline < t.tick) ∧ t.inShare w d = false) ∧
    ((unitClaims (t.claimsOf w d)).any (fun e => decide (t.capacity e.1 < t.scaled e.1 e.2)) = false) ∧
    ((unitClaims (t.claimsOf w d)).all (fun e => decide (t.claimAll e.1 + t.scaled e.1 e.2 ≤ t.capacity e.1)) = true) :=
  ⟨1, 0, { descOf (descBytes 5 0 0 0 0 64 ++ List.replicate 24 0) with ctrl := 3 }, ((awakeState).fetchDesc 1 0).2, awakeState, by decide +kernel⟩

theorem admissionOrderAndDecisions_met_14 : ∃ (w r : Nat) (d : Desc) (t s : State),
    (s.cplFree w ≠ 0 ∧ s.fetchHead w r d = (none, t) ∧ t.devFaulted = false ∧ t.malformed w d = false ∧ ((unitClaims (t.claimsOf w d)).map (·.1)).any t.unitOut = false ∧ d.op ≠ opRun ∧ ¬(d.cls = 0 ∧ d.deadline < t.tick) ∧ t.inShare w d = false) ∧
    ((unitClaims (t.claimsOf w d)).any (fun e => decide (t.capacity e.1 < t.scaled e.1 e.2)) = false) ∧
    ((unitClaims (t.claimsOf w d)).all (fun e => decide (t.claimAll e.1 + t.scaled e.1 e.2 ≤ t.capacity e.1)) = false) ∧
    (d.cls = 0) :=
  ⟨1, 0, { { descOf (descBytes 5 0 0 0 0 64 ++ List.replicate 24 0) with ctrl := 0 } with deadline := 5 }, ((fullState).fetchDesc 1 0).2, fullState, by decide +kernel⟩

theorem admissionOrderAndDecisions_met_15 : ∃ (w r : Nat) (d : Desc) (t s : State),
    (s.cplFree w ≠ 0 ∧ s.fetchHead w r d = (none, t) ∧ t.devFaulted = false ∧ t.malformed w d = false ∧ ((unitClaims (t.claimsOf w d)).map (·.1)).any t.unitOut = false ∧ d.op ≠ opRun ∧ ¬(d.cls = 0 ∧ d.deadline < t.tick) ∧ t.inShare w d = false) ∧
    ((unitClaims (t.claimsOf w d)).any (fun e => decide (t.capacity e.1 < t.scaled e.1 e.2)) = false) ∧
    ((unitClaims (t.claimsOf w d)).all (fun e => decide (t.claimAll e.1 + t.scaled e.1 e.2 ≤ t.capacity e.1)) = false) ∧
    (d.cls = 1 ∨ (d.cls = 2 ∧ t.rd WK_SCHED.LEARN_MAX_AGE ≠ 0 ∧ t.tick - s.submitOf w r ≤ t.rd WK_SCHED.LEARN_MAX_AGE)) :=
  ⟨1, 0, { descOf (descBytes 5 0 0 0 0 64 ++ List.replicate 24 0) with ctrl := 1 }, ((fullState).fetchDesc 1 0).2, fullState, by decide +kernel⟩

theorem admissionOrderAndDecisions_met_16 : ∃ (w r : Nat) (d : Desc) (t s : State),
    (s.cplFree w ≠ 0 ∧ s.fetchHead w r d = (none, t) ∧ t.devFaulted = false ∧ t.malformed w d = false ∧ ((unitClaims (t.claimsOf w d)).map (·.1)).any t.unitOut = false ∧ d.op ≠ opRun ∧ ¬(d.cls = 0 ∧ d.deadline < t.tick) ∧ t.inShare w d = false) ∧
    ((unitClaims (t.claimsOf w d)).any (fun e => decide (t.capacity e.1 < t.scaled e.1 e.2)) = false) ∧
    ((unitClaims (t.claimsOf w d)).all (fun e => decide (t.claimAll e.1 + t.scaled e.1 e.2 ≤ t.capacity e.1)) = false) ∧
    (d.cls = 3 ∨ (d.cls = 2 ∧ (t.rd WK_SCHED.LEARN_MAX_AGE = 0 ∨ t.rd WK_SCHED.LEARN_MAX_AGE < t.tick - s.submitOf w r))) :=
  ⟨1, 0, { descOf (descBytes 5 0 0 0 0 64 ++ List.replicate 24 0) with ctrl := 3 }, ((fullState).fetchDesc 1 0).2, fullState, by decide +kernel⟩

theorem descriptorsTakeEffect_met_1 : ∃ (w r : Nat) (d : Desc) (u s : State),
    (s.decides w r d u ∧ d.op = opNop ∧ u.inShare w d = true) :=
  ⟨1, 0, descOf (descBytes 0 0 0 0 0 0 ++ List.replicate 24 0), ((ringState (descBytes 0 0 0 0 0 0)).fetchDesc 1 0).2, ringState (descBytes 0 0 0 0 0 0), by decide +kernel⟩

theorem descriptorsTakeEffect_met_2 : ∃ (w r : Nat) (d : Desc) (u s : State),
    (s.decides w r d u ∧ d.op = opRun ∧ u.inShare w d = true ∧ (match u.planOf w d.planId with | some p => u.fencedWriter w (u.nameOf w d.addr d.objA 1) p.plan | none => none) = none) :=
  ⟨1, 0, descOf (descBytes 1 2 0 0 0 0 ++ List.replicate 24 0), (((planState (descBytes 1 2 0 0 0 0)).wr (WS.SHARE 1 3) 1000).fetchDesc 1 0).2, (planState (descBytes 1 2 0 0 0 0)).wr (WS.SHARE 1 3) 1000, by decide +kernel⟩

theorem descriptorsTakeEffect_met_3 : ∃ (w r : Nat) (d : Desc) (u s : State),
    (s.decides w r d u ∧ d.op = opAlloc ∧ u.inShare w d = true) :=
  ⟨1, 0, descOf (descBytes 2 0 7 0x080000000000 0x4004 3 ++ List.replicate 24 0), ((ringState (descBytes 2 0 7 0x080000000000 0x4004 3)).fetchDesc 1 0).2, ringState (descBytes 2 0 7 0x080000000000 0x4004 3), by decide +kernel⟩

theorem descriptorsTakeEffect_met_4 : ∃ (w r : Nat) (d : Desc) (u s : State),
    (s.decides w r d u ∧ d.op = opFree ∧ u.inShare w d = true) :=
  ⟨1, 0, descOf (descBytes 3 0 5 0 0 0 ++ List.replicate 24 0), ((objState (descBytes 3 0 5 0 0 0) []).fetchDesc 1 0).2, objState (descBytes 3 0 5 0 0 0) [], by decide +kernel⟩

theorem descriptorsTakeEffect_met_5 : ∃ (w r : Nat) (d : Desc) (u s : State),
    (s.decides w r d u ∧ d.op = opLoadPlan ∧ u.inShare w d = true) :=
  ⟨1, 0, descOf (descBytes 4 2 0 0 0 0 ++ List.replicate 24 0), ((planState (descBytes 4 2 0 0 0 0)).fetchDesc 1 0).2, planState (descBytes 4 2 0 0 0 0), by decide +kernel⟩

theorem descriptorsTakeEffect_met_6 : ∃ (w r : Nat) (d : Desc) (u s : State),
    (s.decides w r d u ∧ d.op = opDmaIn ∧ u.inShare w d = true) :=
  ⟨1, 0, descOf (descBytes 5 0 0 0 0 64 ++ List.replicate 24 0), ((ringState (descBytes 5 0 0 0 0 64)).fetchDesc 1 0).2, ringState (descBytes 5 0 0 0 0 64), by decide +kernel⟩

theorem descriptorsTakeEffect_met_7 : ∃ (w r : Nat) (d : Desc) (u s : State),
    (s.decides w r d u ∧ d.op = opDmaOut ∧ u.inShare w d = true) :=
  ⟨1, 0, descOf (descBytes 6 0 0 0 0 64 ++ List.replicate 24 0), ((ringState (descBytes 6 0 0 0 0 64)).fetchDesc 1 0).2, ringState (descBytes 6 0 0 0 0 64), by decide +kernel⟩

theorem descriptorsTakeEffect_met_8 : ∃ (w r : Nat) (d : Desc) (u s : State),
    (s.decides w r d u ∧ d.op = opFlush ∧ u.inShare w d = true) :=
  ⟨1, 0, descOf (descBytes 7 0 5 0 0 0 ++ List.replicate 24 0), ((objState (descBytes 7 0 5 0 0 0) []).fetchDesc 1 0).2, objState (descBytes 7 0 5 0 0 0) [], by decide +kernel⟩

theorem descriptorsTakeEffect_met_9 : ∃ (w r : Nat) (d : Desc) (u s : State),
    (s.decides w r d u ∧ d.op = opNop ∧ w < 64 ∧ r < 4 ∧ s.on (WS.CPL_CFG_LOC w) = false ∧ s.ck.reshard = []) ∧
    (inCasket (s.recordAt w) 32 = true ∧ s.inGrant w (s.recordAt w) 32 false = true) :=
  ⟨1, 0, descOf (descBytes 0 0 0 0 0 0 ++ List.replicate 24 0), ((ringState (descBytes 0 0 0 0 0 0)).fetchDesc 1 0).2, ringState (descBytes 0 0 0 0 0 0), by decide +kernel⟩

theorem descriptorsTakeEffect_met_10 : ∃ (w r : Nat) (d : Desc) (u s : State),
    (s.decides w r d u ∧ d.op = opRun ∧ u.inShare w d = true ∧ unitClaims (u.claimsOf w d) ≠ [] ∧ s.gsesOut = [] ∧ (match u.planOf w d.planId with | some p => u.fencedWriter w (u.nameOf w d.addr d.objA 1) p.plan | none => none) = none) :=
  ⟨1, 0, descOf (descBytes 1 2 0 0 0 0 ++ List.replicate 24 0), (((planState (descBytes 1 2 0 0 0 0)).wr (WS.SHARE 1 3) 1000).fetchDesc 1 0).2, (planState (descBytes 1 2 0 0 0 0)).wr (WS.SHARE 1 3) 1000, by decide +kernel⟩

theorem descriptorsTakeEffect_met_11 : ∃ (w r : Nat) (d : Desc) (u s : State),
    (s.decides w r d u ∧ d.op = opDmaIn ∧ u.inShare w d = true ∧ unitClaims (u.claimsOf w d) ≠ []) :=
  ⟨1, 0, descOf (descBytes 5 0 0 0 0 64 ++ List.replicate 24 0), ((ringState (descBytes 5 0 0 0 0 64)).fetchDesc 1 0).2, ringState (descBytes 5 0 0 0 0 64), by decide +kernel⟩

theorem descriptorsTakeEffect_met_12 : ∃ (w r : Nat) (d : Desc) (u s : State),
    (s.decides w r d u ∧ d.op = opDmaOut ∧ u.inShare w d = true ∧ unitClaims (u.claimsOf w d) ≠ []) :=
  ⟨1, 0, descOf (descBytes 6 0 0 0 0 64 ++ List.replicate 24 0), ((ringState (descBytes 6 0 0 0 0 64)).fetchDesc 1 0).2, ringState (descBytes 6 0 0 0 0 64), by decide +kernel⟩

theorem descriptorsTakeEffect_met_13 : ∃ (w r k : Nat) (d : Desc) (u s : State),
    (s.decides w r d u ∧ d.op = opAlloc ∧ s.allocHome w d.place = some k ∧ 3 ≤ k ∧ placeKeep d.place = false) :=
  ⟨1, 0, 4, descOf (descBytes 2 0 7 0x080000000000 0x4004 3 ++ List.replicate 24 0), ((ringState (descBytes 2 0 7 0x080000000000 0x4004 3)).fetchDesc 1 0).2, ringState (descBytes 2 0 7 0x080000000000 0x4004 3), by decide +kernel⟩

theorem descriptorsTakeEffect_met_14 : ∃ (w r : Nat) (d : Desc) (u s : State),
    (s.decides w r d u ∧ d.op = opFree ∧ d.addr = false ∧ s.sch.reqs.all (fun e => !(decide (e.2.ws = w) && e.2.held.contains d.objA)) = true) :=
  ⟨1, 0, descOf (descBytes 3 0 5 0 0 0 ++ List.replicate 24 0), ((objState (descBytes 3 0 5 0 0 0) [(casketBase + 512 * tileSize, { slotOne with holders := [] })]).fetchDesc 1 0).2, objState (descBytes 3 0 5 0 0 0) [(casketBase + 512 * tileSize, { slotOne with holders := [] })], by decide +kernel⟩

theorem descriptorsTakeEffect_met_15 : ∃ (w r : Nat) (d : Desc) (u s : State),
    (s.decides w r d u ∧ d.op = opLoadPlan ∧ d.objA = 0) :=
  ⟨1, 0, descOf (descBytes 4 2 0 0 0 0 ++ List.replicate 24 0), ((planState (descBytes 4 2 0 0 0 0)).fetchDesc 1 0).2, planState (descBytes 4 2 0 0 0 0), by decide +kernel⟩

theorem descriptorsTakeEffect_met_16 : ∃ (w r a k : Nat) (d : Desc) (e : Slot) (u s : State),
    (s.decides w r d u ∧ d.op = opFlush ∧ s.dirtyCopies w (s.nameOf w d.addr d.objA 1) = [a] ∧ mapFind s.ck.slots a = some e) ∧
    (s.homeAddr e.ws e.obj e.tile = some k ∧ k + tileSize ≤ hbmSize ∧ s.ck.reshard = [] ∧ hbmSize ≤ s.recordAt w) :=
  ⟨1, 0, casketBase + 512 * tileSize, 0x8000, descOf (descBytes 7 0 5 0 0 0 ++ List.replicate 24 0), { slotOne with holders := [], dirty := true }, ((objState (descBytes 7 0 5 0 0 0) [(casketBase + 512 * tileSize, { slotOne with holders := [], dirty := true })]).fetchDesc 1 0).2, objState (descBytes 7 0 5 0 0 0) [(casketBase + 512 * tileSize, { slotOne with holders := [], dirty := true })], by decide +kernel⟩

theorem descriptorsTakeEffect_met_17 : ∃ (rid : Nat) (r : Req) (p : PlanSlot) (s : State),
    (s.req rid = some r ∧ r.op = opLoadPlan ∧ r.slot = some p ∧ r.want = [] ∧ s.waits rid = false) :=
  ⟨7, loadReq, { plan := default, resident := 0, streamed := true, window := [], pinned := [] }, reqState loadReq, by decide +kernel⟩

theorem dispatchYieldsAndEnds_met_1 : ∃ (u rid : Nat) (r : Req) (s : State),
    (s.firstWaiting (fun q => q.claims u && !q.loan) = none ∧ s.firstWaiting (fun q => q.claims u) = some (rid, r)) :=
  ⟨12, 7, waitReq true, waitState true, by decide +kernel⟩

theorem dispatchYieldsAndEnds_met_2 : ∃ (u rid k : Nat) (r q : Req) (s : State),
    (s.firstWaiting (fun x => x.claims u) = some (rid, r)) ∧
    (s.req k = some q ∧ (k, q) ∈ s.sch.reqs ∧ q.phase = .waiting ∧ q.claims u = true) :=
  ⟨12, 7, 7, waitReq false, waitReq false, waitState false, by decide +kernel⟩

theorem dispatchYieldsAndEnds_met_3 : ∃ (u rid : Nat) (r : Req) (s : State),
    (s.firstWaiting (fun q => q.claims u && !q.loan) = some (rid, r)) :=
  ⟨12, 7, waitReq false, { waitState false with blocks := [] }, by decide +kernel⟩

theorem dispatchYieldsAndEnds_met_4 : ∃ (rid : Nat) (r : Req) (s : State),
    s.req rid = some r :=
  ⟨7, waitReq false, waitState false, by decide +kernel⟩

theorem dispatchYieldsAndEnds_met_5 : ∃ (rid : Nat) (r : Req) (s : State),
    (s.req rid = some r ∧ r.phase = .waiting ∧ r.cls ≤ 1 ∧ r.deadline ≠ 0) ∧
    r.deadline < s.tick + r.est.foldl (fun n e => if n < e.2 then e.2 else n) 0 :=
  ⟨7, { waitReq false with cls := 0, deadline := 7 }, reqState { waitReq false with cls := 0, deadline := 7 }, by decide +kernel⟩

theorem dispatchYieldsAndEnds_met_6 : ∃ (rid p : Nat) (ovl : Bool) (r : Req) (s : State),
    (s.req rid = some r ∧ r.yieldBy = some (p, ovl) ∧ r.phase = .running ∧ r.ends = none ∧ s.yieldsNow rid r p = true ∧ s.workDone rid r = false) :=
  ⟨7, 0, true, { facetReq with yieldBy := some (0, true) }, reqState { facetReq with yieldBy := some (0, true) }, by decide +kernel⟩

theorem dispatchYieldsAndEnds_met_7 : ∃ (rid : Nat) (r : Req) (s : State),
    (s.req rid = some r ∧ s.workDone rid r = true) :=
  ⟨7, { reqOne with phase := .running }, reqState { reqOne with phase := .running }, by decide +kernel⟩

theorem dispatchYieldsAndEnds_met_8 : ∃ (rid : Nat) (r : Req) (o : Ending) (s : State),
    (mapFind s.sch.reqs rid = some r ∧ r.ends = some o ∧ r.abft = none) :=
  ⟨7, endedReq, endOne, reqState endedReq, by decide +kernel⟩

theorem dispatchYieldsAndEnds_met_9 : ∃ (rid : Nat) (r : Req) (a : Abft) (s : State),
    (mapFind s.sch.reqs rid = some r ∧ r.gone = true ∧ r.abft = some a ∧ (s.endedStep rid a.f).isSome = true ∧ a.tick = s.tick ∧ a.nonfinite = false) :=
  ⟨7, { abftReq with ends := some endOne, steps := facetReq.steps }, abftOne, (facetState { abftReq with ends := some endOne, steps := facetReq.steps }).setBlk 0x040 (blockIn .fenced), by decide +kernel⟩

theorem dispatchYieldsAndEnds_met_10 : ∃ (rid : Nat) (r : Req) (s : State),
    (s.req rid = some r ∧ r.cls = 0 ∧ r.deadline < s.tick) :=
  ⟨7, { reqOne with cls := 0 }, { reqState { reqOne with cls := 0 } with tick := 1 }, by decide +kernel⟩

theorem dispatchYieldsAndEnds_met_11 : ∃ (rid : Nat) (r : Req) (s : State),
    (s.req rid = some r ∧ (r.cls ≠ 0 ∨ s.tick ≤ r.deadline)) :=
  ⟨7, { reqOne with cls := 0 }, reqState { reqOne with cls := 0 }, by decide +kernel⟩

theorem stateAuditCountsAndFences_met_1 : ∃ (l : List Nat) (s : State),
    (s.tick % 100 = 0 ∧ s.pm ≤ 1 ∧ (s.on WK_SCHED.AUDIT_DIS = false ∨ s.sentinel = true) ∧ s.sch.audited < s.tick) :=
  ⟨[0x068], { awakeState with tick := 100 }, by decide +kernel⟩

theorem stateAuditCountsAndFences_met_2 : ∃ (l : List Nat) (s : State),
    (s.tick % 100 = 0 ∧ (2 ≤ s.pm ∨ (s.on WK_SCHED.AUDIT_DIS = true ∧ s.sentinel = false)) ∧ s.sch.audited < s.tick) :=
  ⟨[], { awakeState.wr WK_SCHED.AUDIT_DIS 1 with tick := 100 }, by decide +kernel⟩

theorem stateAuditCountsAndFences_met_3 : ∃ (l : List Nat) (s : State),
    (s.tick % 100 ≠ 0 ∨ s.tick ≤ s.sch.audited) :=
  ⟨[], { awakeState with tick := 99 }, by decide +kernel⟩

theorem stateAuditCountsAndFences_met_4 : ∃ (page : Nat) (l : List Nat) (s : State),
    s.examined page = false :=
  ⟨0x068, [0x068], { awakeState with tick := 100 }, by decide +kernel⟩

theorem stateAuditCountsAndFences_met_5 : ∃ (page : Nat) (l : List Nat) (s : State),
    (s.examined page = true ∧ l.contains page = false ∧ s.on WK_SCHED.AUDIT_INJ_EN = false) :=
  ⟨0x068, [0x069], { awakeState.setBlk 0x068 { blockIn .ready with mism := 1 } with tick := 100 }, by decide +kernel⟩

theorem stateAuditCountsAndFences_met_6 : ∃ (page : Nat) (l : List Nat) (s : State),
    (s.examined page = true ∧ l.contains page = true ∧ (s.blk page).mism = 0) :=
  ⟨0x068, [0x068], { awakeState.setBlk 0x068 (blockIn .active) with tick := 100 }, by decide +kernel⟩

theorem stateAuditCountsAndFences_met_7 : ∃ (page : Nat) (l : List Nat) (s : State),
    (s.examined page = true ∧ l.contains page = true ∧ 1 ≤ (s.blk page).mism ∧ page < 0x100 ∧ (page < 0x020 ∨ 0x028 ≤ page)) ∧
    (s.sch.reqs = [] ∧ s.guest.accepted = false) :=
  ⟨0x068, [0x068], { awakeState.setBlk 0x068 { blockIn .active with mism := 1 } with tick := 100 }, by decide +kernel⟩

/-! ### The Facets -/

/-! ### Map rows: the GSEs -/

theorem tablesAreActivatedAndLeft_met_1 : ∃ (rq : Requester) (n : Nat) (s : State),
    (s.answers rq 0x062 ∧ n < 256 ∧ (s.bst 0x062).up = true ∧ s.tabOf n = none) ∧
    (((s.reached 0x062).dirEntry n).2.activateReason n (((s.reached 0x062).dirEntry n).1.getD []) = 0) :=
  ⟨.bezel, 3, entryState, by decide +kernel⟩

theorem tablesAreActivatedAndLeft_met_2 : ∃ (rq : Requester) (n c : Nat) (s : State),
    (s.answers rq 0x062 ∧ n < 256 ∧ (s.bst 0x062).up = true ∧ s.tabOf n = none) ∧
    (((s.reached 0x062).dirEntry n).2.activateReason n (((s.reached 0x062).dirEntry n).1.getD []) = c ∧ c ≠ 0) :=
  ⟨.bezel, 4, 1, entryState, by decide +kernel⟩

theorem tablesAreActivatedAndLeft_met_3 : ∃ (rq : Requester) (n : Nat) (s : State),
    (s.answers rq 0x062 ∧ n < 256 ∧ (s.bst 0x062).up = true ∧ (s.tabOf n).isSome = true) :=
  ⟨.bezel, 3, tabState, by decide⟩

theorem tablesAreActivatedAndLeft_met_4 : ∃ (rq : Requester) (n : Nat) (s : State),
    (s.answers rq 0x062 ∧ (s.bst 0x062).up = false) :=
  ⟨.bezel, 3, awakeState, by decide⟩

theorem tablesAreActivatedAndLeft_met_5 : ∃ (rq : Requester) (n : Nat) (s : State),
    (s.answers rq 0x062 ∧ n < 256 ∧ (s.bst 0x062).up = true ∧ (s.tabOf n).isSome = true ∧ s.tableHeld n = false) :=
  ⟨.bezel, 3, tabState, by decide⟩

theorem tablesAreActivatedAndLeft_met_6 : ∃ (rq : Requester) (n : Nat) (s : State),
    (s.answers rq 0x062 ∧ n < 256 ∧ (s.bst 0x062).up = true ∧ (s.tabOf n).isSome = true ∧ s.tableHeld n = true) :=
  ⟨.bezel, 3, rowState gatherReq, by decide⟩

theorem tablesAreActivatedAndLeft_met_7 : ∃ (n : Nat) (t : MapTab) (s : State),
    (s.tabOf n = some t ∧ t.leaving = true ∧ s.tableHeld n = false) :=
  ⟨3, { tabOne with leaving := true }, tabState.modTab 3 (fun t => { t with leaving := true }), by decide⟩

theorem tablesAreActivatedAndLeft_met_8 : ∃ (rq : Requester) (g v : Nat) (s : State),
    (g < 2 ∧ s.answers rq (pgGse g)) :=
  ⟨.bezel, 1, 0, awakeState, by decide⟩

theorem tablesAreActivatedAndLeft_met_9 : ∃ (rq : Requester) (v : Nat) (s : State),
    (s.answers rq 0x063 ∧ s.bst 0x063 = .off ∧ (s.reached 0x063).quotaSum 1 ≤ 8192 - 512 - clampNat 0 6144 (v % 8192)) :=
  ⟨.bezel, 6144, awakeState, by refine ⟨by decide, by decide, ?_⟩; rw [quotaSum_zero _ _ (by decide)]; decide⟩

theorem tablesAreActivatedAndLeft_met_10 : ∃ (rq : Requester) (v : Nat) (s : State),
    (s.answers rq 0x063 ∧ s.bst 0x063 ≠ .off) :=
  ⟨.bezel, 1, awakeState.setBlk 0x063 (blockIn .ready), by decide⟩

theorem tablesAreActivatedAndLeft_met_11 : ∃ (rq : Requester) (s : State),
    (s.answers rq 0x063 ∧ s.unlocked 0x063 = true) :=
  ⟨.bezel, awakeState.wr (HDR.EXP_STATE_UNLOCKED 0x063) 1, by decide⟩

theorem tablesAreActivatedAndLeft_met_12 : ∃ (rq : Requester) (s : State),
    (s.answers rq 0x063 ∧ s.unlocked 0x063 = false) :=
  ⟨.bezel, awakeState, by decide⟩

theorem rowsAreReadReplacedAndFlipped_met_1 : ∃ (rid g n ids out fmt : Nat) (raw : Bool) (r : Req) (t : MapTab) (s : State),
    (s.running rid = some (r, .gather n ids out fmt raw) ∧ s.gseWorks r g = true ∧ s.tabOf n = some t) :=
  ⟨7, 0, 3, 5, 6, 0, false, gatherReq, tabOne, rowState gatherReq, by decide +kernel⟩

theorem rowsAreReadReplacedAndFlipped_met_2 : ∃ (rid g n ids out fmt : Nat) (raw : Bool) (r : Req) (s : State),
    (s.running rid = some (r, .gather n ids out fmt raw) ∧ s.gseWorks r g = true ∧ s.tabOf n = none) :=
  ⟨7, 0, 3, 5, 6, 0, false, gatherReq, (rowState gatherReq).setRows { (rowState gatherReq).rows with tabs := [] }, by decide +kernel⟩

theorem rowsAreReadReplacedAndFlipped_met_3 : ∃ (rid g n ids vals : Nat) (r : Req) (t : MapTab) (s : State),
    (s.gseWorks r g = true ∧ r.yieldBy = none ∧ s.tabOf n = some t ∧ t.learn = true) ∧
    s.running rid = some (r, .update n ids vals) :=
  ⟨7, 0, 3, 5, 6, updateReq, tabOne, rowState updateReq, by decide +kernel⟩

theorem rowsAreReadReplacedAndFlipped_met_4 : ∃ (rid g n ids vals : Nat) (r : Req) (t : MapTab) (s : State),
    (s.gseWorks r g = true ∧ r.yieldBy = none ∧ s.tabOf n = some t ∧ t.learn = true) ∧
    s.running rid = some (r, .put n ids vals) :=
  ⟨7, 0, 3, 5, 6, putReq, tabOne, rowState putReq, by decide +kernel⟩

theorem rowsAreReadReplacedAndFlipped_met_5 : ∃ (rid g n ids vals : Nat) (r : Req) (t : MapTab) (s : State),
    (s.gseWorks r g = true ∧ r.yieldBy = none ∧ s.tabOf n = some t ∧ t.learn = false) :=
  ⟨7, 0, 3, 5, 6, putReq, { tabOne with learn := false }, (rowState putReq).modTab 3 (fun t => { t with learn := false }), by decide +kernel⟩

theorem rowsAreReadReplacedAndFlipped_met_9 : ∃ (f : FlipOp) (t : MapTab) (a : Nat) (s : State),
    (s.tabOf f.table = some t ∧ s.tileAddr t.ws t.ptrObj (f.row / ptrPerTile) = some a ∧ inCasket a 1 = true) ∧
    ((s.objOf t.ws t.ptrObj).isSome = true ∧ s.tileLost t.ws t.ptrObj (f.row / ptrPerTile) = false) ∧
    (f.newSlot < 2 ^ 32 ∧ f.version < 2 ^ 32) :=
  ⟨flipOp, tabOne, casketBase + 512 * tileSize, flipState, by decide +kernel⟩

theorem rowsAreReadReplacedAndFlipped_met_10 : ∃ (x : Grace) (g : Nat) (s : State),
    s.rows.grace.filter (fun y => decide (y.g = g) && decide (y.since < s.tick) && !s.rows.lookups.any (fun l =>
        decide (l.table = y.table) && decide (l.slot = y.slot) && decide (l.owner = 0) && l.answer.isNone)) = [x] :=
  ⟨{ g := 0, table := 3, slot := 1001, since := 0 }, 0, flipState.setRows { flipState.rows with grace := [{ g := 0, table := 3, slot := 1001, since := 0 }] }, by decide +kernel⟩

theorem roundsAndPeersRows_met_2 : ∃ (g : Nat) (s : State),
    (g < 2 ∧ s.roundDue g = true ∧ (s.waitingBatch g).all (fun l => decide (l.owner ≠ 0)) = true) :=
  ⟨0, { (lookState none) with tick := 1000 }, by decide +kernel⟩

theorem roundsAndPeersRows_met_3 : ∃ (g n : Nat) (s : State),
    s.rows.rounds.contains (g, n) = true ∧
    s.rows.lookups.any (fun l => l.g == g && l.round == some n && l.answer.isNone) = false :=
  ⟨0, 1, awakeState.setRows { awakeState.rows with rounds := [(0, 1)] }, by decide⟩

theorem roundsAndPeersRows_met_4 : ∃ (slot n row v : Nat) (d : List Byte) (l : Lookup) (s : State),
    s.rows.lookups.find? (fun l => decide (l.owner = slot + 1) && decide (l.table = n) && decide (l.row = row)
        && l.round.isSome && l.answer.isNone && l.upd.isNone) = some l :=
  ⟨2, 3, 9, 5, [], lookOne (some 1), lookState (some 1), by decide +kernel⟩

theorem roundsAndPeersRows_met_5 : ∃ (slot n row : Nat) (l : Lookup) (s : State),
    s.rows.lookups.find? (fun l => decide (l.owner = slot + 1) && decide (l.table = n) && decide (l.row = row)
        && l.round.isSome && l.answer.isNone && true) = some l :=
  ⟨2, 3, 9, lookOne (some 1), lookState (some 1), by decide +kernel⟩

theorem roundsAndPeersRows_met_6 : ∃ (slot n row : Nat) (l : Lookup) (s : State),
    (s.rows.lookups.find? (fun l => decide (l.owner = slot + 1) && decide (l.table = n) && decide (l.row = row)
        && l.round.isSome && l.answer.isNone && true) = some l ∧ ((s.roceProgress slot).reissue l).req l.rid = none) :=
  ⟨2, 3, 9, lookOne (some 1), (lookState (some 1)).setSch { (lookState (some 1)).sch with reqs := [] }, by decide +kernel⟩

theorem roundsAndPeersRows_met_7 : ∃ (slot n row : Nat) (a : RemoteAnswer) (s : State),
    s.rows.lookups.all (fun l => decide (l.owner ≠ slot + 1) || decide (l.table ≠ n) || decide (l.row ≠ row) || l.answer.isSome) = true :=
  ⟨1, 3, 9, .ack, lookState (some 1), by decide +kernel⟩

theorem roundsAndPeersRows_met_8 : ∃ (rid i : Nat) (l : Lookup) (s : State),
    (s.rows.lookups = [l] ∧ l.rid = rid ∧ l.owner ≠ 0 ∧ l.answer = none ∧ l.issue = some i) ∧
    i + atLeast1 (s.rd (GSE.REMOTE_LATE l.g)) ≤ s.tick :=
  ⟨7, 0, lookOne (some 1), { lookState (some 1) with tick := 50000000 }, by decide +kernel⟩

theorem roundsAndPeersRows_met_9 : ∃ (slot epoch : Nat) (items : List RemoteItem) (s : State),
    (s.fabUp = true ∧ (mapFind s.fab.peers slot).isSome = true) ∧
    (s.leaveDoze.fab.batches.any (fun b => b.2.2.any (fun y => items.any (fun x => decide (x.table = y.table) && decide (x.row = y.row)))) = false) ∧
    ((s.leaveDoze.batchCost epoch items).all (fun c => s.leaveDoze.chargeFits c.1 c.2.1 c.2.2) = true) :=
  ⟨2, 0, [{ table := 3, row := 1000, isUpdate := false, isPut := false, values := [] }], peerState, by decide +kernel⟩

theorem roundsAndPeersRows_met_10 : ∃ (slot epoch : Nat) (items : List RemoteItem) (s : State),
    (s.fabUp = true ∧ (mapFind s.fab.peers slot).isSome = true) :=
  ⟨2, 0, [{ table := 3, row := 1000, isUpdate := false, isPut := false, values := [] }], { peerState with fab := { peerState.fab with batches := [(1, 0, [{ table := 3, row := 1000, isUpdate := false, isPut := false, values := [] }])] } }, by decide +kernel⟩

theorem roundsAndPeersRows_met_11 : ∃ (slot epoch : Nat) (x : RemoteItem) (t : MapTab) (s : State),
    isHandRow x = false :=
  ⟨2, 0, { table := 3, row := 1000, isUpdate := false, isPut := false, values := [] }, tabOne, tabState, by decide⟩

/-! ### Loupe -/

theorem indexesAreActivatedAndLeft_met_1 : ∃ (rq : Requester) (lp n : Nat) (b : List Byte) (x : LpIndex) (s : State),
    (lp < 2 ∧ s.answers rq (pgLp lp) ∧ n < 64 ∧ (s.bst (pgLp lp)).up = true ∧ s.indexOf lp n = none) ∧
    (b = ((s.reached (pgLp lp)).indexEntry lp n).1.getD [] ∧ ((s.reached (pgLp lp)).indexEntry lp n).2.indexReason n b = 0) ∧
    (x = { indexOfEntry b with table := (((s.reached (pgLp lp)).indexEntry lp n).2.listTable (indexOfEntry b)).map (fun e => (e.1, e.2.1)) } ∧ (((s.reached (pgLp lp)).indexEntry lp n).2.readLists lp x).1 = true) :=
  ⟨.bezel, 0, 40, indexBytes, indexOne, indexState, by decide +kernel⟩

theorem indexesAreActivatedAndLeft_met_2 : ∃ (rq : Requester) (lp n c : Nat) (b : List Byte) (s : State),
    (lp < 2 ∧ s.answers rq (pgLp lp) ∧ n < 64 ∧ (s.bst (pgLp lp)).up = true ∧ s.indexOf lp n = none) ∧
    (b = ((s.reached (pgLp lp)).indexEntry lp n).1.getD [] ∧ ((s.reached (pgLp lp)).indexEntry lp n).2.indexReason n b = c ∧ c ≠ 0 ∧ c ≠ 5) :=
  ⟨.bezel, 0, 41, 1, List.replicate 64 0, indexState, by decide +kernel⟩

theorem indexesAreActivatedAndLeft_met_3 : ∃ (rq : Requester) (lp n c : Nat) (b : List Byte) (x : LpIndex) (s : State),
    (lp < 2 ∧ s.answers rq (pgLp lp) ∧ n < 64 ∧ (s.bst (pgLp lp)).up = true ∧ s.indexOf lp n = none) ∧
    (b = ((s.reached (pgLp lp)).indexEntry lp n).1.getD [] ∧ ((s.reached (pgLp lp)).indexEntry lp n).2.indexReason n b = c) ∧
    (x = { indexOfEntry b with table := (((s.reached (pgLp lp)).indexEntry lp n).2.listTable (indexOfEntry b)).map (fun e => (e.1, e.2.1)) }) ∧
    (c = 5 ∨ (c = 0 ∧ (((s.reached (pgLp lp)).indexEntry lp n).2.readLists lp x).1 = false)) :=
  ⟨.bezel, 0, 40, 5, listBytes, { indexOfEntry listBytes with table := [(0, 0)] }, entryOf listBytes, by decide +kernel⟩

theorem indexesAreActivatedAndLeft_met_4 : ∃ (rq : Requester) (lp n : Nat) (s : State),
    (lp < 2 ∧ s.answers rq (pgLp lp) ∧ n < 64 ∧ (s.bst (pgLp lp)).up = true ∧ (s.indexOf lp n).isSome = true) :=
  ⟨.bezel, 0, 40, loupeState reqOne, by decide +kernel⟩

theorem indexesAreActivatedAndLeft_met_5 : ∃ (rq : Requester) (lp n : Nat) (s : State),
    (lp < 2 ∧ s.answers rq (pgLp lp) ∧ (s.bst (pgLp lp)).up = false) :=
  ⟨.bezel, 1, 3, awakeState, by decide⟩

theorem indexesAreActivatedAndLeft_met_6 : ∃ (rq : Requester) (lp n : Nat) (s : State),
    (lp < 2 ∧ s.answers rq (pgLp lp) ∧ n < 64 ∧ (s.bst (pgLp lp)).up = true ∧ (s.indexOf lp n).isSome = true ∧ s.indexHeld lp n = false) :=
  ⟨.bezel, 0, 40, loupeState reqOne, by decide +kernel⟩

theorem indexesAreActivatedAndLeft_met_7 : ∃ (rq : Requester) (lp n : Nat) (s : State),
    (lp < 2 ∧ s.answers rq (pgLp lp) ∧ n < 64 ∧ (s.bst (pgLp lp)).up = true ∧ (s.indexOf lp n).isSome = true ∧ s.indexHeld lp n = true) :=
  ⟨.bezel, 0, 40, loupeState (searchReq false), by decide +kernel⟩

theorem indexesAreActivatedAndLeft_met_8 : ∃ (lp n : Nat) (x : LpIndex) (s : State),
    (s.indexOf lp n = some x ∧ x.leaving = true ∧ s.indexHeld lp n = false) :=
  ⟨0, 40, { indexOne with leaving := true }, (loupeState reqOne).setLps { (loupeState reqOne).lps with idx := [(40, { indexOne with leaving := true })] }, by decide +kernel⟩

theorem searchesScansAndMerges_met_1 : ∃ (rid n k l vm pr inObj outObj : Nat) (r : Req) (x : LpIndex) (s : State),
    (s.running rid = some (r, .search false n k l vm pr inObj outObj) ∧ s.lpWorks r = true ∧ s.indexOf (lpOf r) n = some x) ∧
    (1 ≤ k ∧ k ≤ 256 ∧ k ≤ l ∧ l ≤ 1024 ∧ vm ≠ 0) :=
  ⟨7, 40, 1, 256, 5, 0, 5, 6, searchReq false, indexOne, loupeState (searchReq false), by decide +kernel⟩

theorem searchesScansAndMerges_met_2 : ∃ (rid n k l vm pr inObj outObj : Nat) (r : Req) (x : LpIndex) (s : State),
    (s.running rid = some (r, .search true n k l vm pr inObj outObj) ∧ s.lpWorks r = true ∧ s.indexOf (lpOf r) n = some x) ∧
    (1 ≤ k ∧ k ≤ 256) :=
  ⟨7, 40, 1, 256, 5, 0, 5, 6, searchReq true, indexOne, loupeState (searchReq true), by decide +kernel⟩

theorem searchesScansAndMerges_met_3 : ∃ (rid n k l vm pr inObj outObj : Nat) (exact : Bool) (r : Req) (s : State),
    (s.running rid = some (r, .search exact n k l vm pr inObj outObj) ∧ s.lpWorks r = true) ∧
    (s.indexOf (lpOf r) n = none ∨ k = 0 ∨ 256 < k ∨ (exact = false ∧ (l < k ∨ 1024 < l ∨ vm = 0))) :=
  ⟨7, 40, 1, 256, 5, 0, 5, 6, false, searchReq false, { loupeState (searchReq false) with lps := { idx := [], queries := [], scans := [], lanes := [], peers := [] } }, by decide +kernel⟩

theorem searchesScansAndMerges_met_4 : ∃ (rid lp l vm fuel : Nat) (x : LpIndex) (q : LpQuery) (s : State),
    (vm < fuel + q.expansions ∧ q.expansions ≤ vm ∧ q.queue.length ≤ l) :=
  ⟨7, 0, 4, 3, 4, indexOne, newQuery 7 0 40 0 indexOne [], loupeState reqOne, by decide +kernel⟩

theorem searchesScansAndMerges_met_5 : ∃ (lp n list : Nat) (c : ListScan) (s : State),
    (s.lps.scans.filter (fun y => decide (y.lp = lp) && decide (y.index = n) && decide (y.list = list)) = [c] ∧ c.running = false) ∧
    (c.opened + atLeast1 (s.rd (LP.BATCH_WINDOW lp)) ≤ s.tick ∨ s.batchMax lp ≤ (s.inScan c).length) :=
  ⟨0, 40, 0, scanOne, { (loupeState reqOne).setLps { (loupeState reqOne).lps with scans := [scanOne] } with tick := 100000 }, by decide +kernel⟩

theorem searchesScansAndMerges_met_6 : ∃ (lp n list : Nat) (c : ListScan) (s : State),
    (s.lps.scans.filter (fun y => decide (y.lp = lp) && decide (y.index = n) && decide (y.list = list)) = [c]) ∧
    (c.running = true ∨ (s.tick < c.opened + atLeast1 (s.rd (LP.BATCH_WINDOW lp)) ∧ (s.inScan c).length < s.batchMax lp)) :=
  ⟨0, 40, 0, scanOne, (loupeState reqOne).setLps { (loupeState reqOne).lps with scans := [scanOne] }, by decide +kernel⟩

theorem searchesScansAndMerges_met_7 : ∃ (rid k late n inObj outObj : Nat) (po : Bool) (r : Req) (s : State),
    (s.running rid = some (r, .merge po k late n inObj outObj) ∧ s.lpWorks r = true) :=
  ⟨7, 5, 3, 2, 5, 9, false, mergeReq, loupeState mergeReq, by decide +kernel⟩

theorem searchesScansAndMerges_met_8 : ∃ (rid k outObj : Nat) (po failed : Bool) (r : Req) (present missing : List (Nat × Nat)) (s : State),
    (missing ≠ [] ∧ (po = false ∨ present = []) ∧ r.flushing = true) :=
  ⟨7, 5, 9, false, false, { mergeReq with flushing := true }, [], [(0, 5)], loupeState mergeReq, by decide +kernel⟩

theorem searchesScansAndMerges_met_10 : ∃ (lp slot n k l vm pr : Nat) (exact : Bool) (query : List Nat) (x : LpIndex) (s : State),
    (lp < 2 ∧ s.fabUp = true ∧ (mapFind s.fab.peers slot).isSome = true ∧ s.leaveDoze.indexOf lp n = some x ∧ x.peerServe = true) ∧
    (1 ≤ k ∧ k ≤ 256 ∧ (exact = true ∨ (k ≤ l ∧ l ≤ 1024 ∧ vm ≠ 0)) ∧ query.length = x.dims ∧ (s.bst (pgLp lp)).live = true) :=
  ⟨0, 2, 40, 256, 1024, 1, 0, false, List.replicate 16 0, indexOne, loupePeer, by decide +kernel⟩

theorem searchesScansAndMerges_met_11 : ∃ (p : PeerSearch) (q : LpQuery) (a : WalkAns × LpQuery × State) (s : State),
    ((s.bst (pgLp p.lp)).up = true ∧ s.clockOn (pgLp p.lp) = true ∧ ((s.grantCtx p.lp s.lps.queries.length).syncCtx p.lp).peerQuery p = some q ∧ q.ctx = true) ∧
    (a = (if p.exact = true then ((s.grantCtx p.lp s.lps.queries.length).syncCtx p.lp).exactTurn peerRid p.lp p.index p.probe p.x q else ((s.grantCtx p.lp s.lps.queries.length).syncCtx p.lp).approxTurn peerRid p.lp p.l p.visitMax p.x q) ∧ a.1 = .done ∧ (mapFind a.2.2.fab.peers p.slot).isSome = true) :=
  ⟨searchOne, peerQ true true, peerTurn searchOne (peerQ true true) (withPeer true loupePeer), withPeer true loupePeer, by exact ⟨by decide +kernel, rfl, by decide +kernel⟩⟩

theorem searchesScansAndMerges_met_12 : ∃ (p : PeerSearch) (q : LpQuery) (a : WalkAns × LpQuery × State) (s : State),
    ((s.bst (pgLp p.lp)).up = true ∧ s.clockOn (pgLp p.lp) = true ∧ ((s.grantCtx p.lp s.lps.queries.length).syncCtx p.lp).peerQuery p = some q ∧ q.ctx = true) ∧
    (a = (if p.exact = true then ((s.grantCtx p.lp s.lps.queries.length).syncCtx p.lp).exactTurn peerRid p.lp p.index p.probe p.x q else ((s.grantCtx p.lp s.lps.queries.length).syncCtx p.lp).approxTurn peerRid p.lp p.l p.visitMax p.x q) ∧ a.1 = .ended ∧ (mapFind a.2.2.fab.peers p.slot).isSome = true) :=
  ⟨searchOne, peerQ false true, peerTurn searchOne (peerQ false true) (withPeer false loupePeer), withPeer false loupePeer, by exact ⟨by decide +kernel, rfl, by decide +kernel⟩⟩

theorem searchesScansAndMerges_met_13 : ∃ (p : PeerSearch) (q : LpQuery) (a : WalkAns × LpQuery × State) (s : State),
    ((s.bst (pgLp p.lp)).up = true ∧ s.clockOn (pgLp p.lp) = true ∧ ((s.grantCtx p.lp s.lps.queries.length).syncCtx p.lp).peerQuery p = some q ∧ q.ctx = true) ∧
    (a = (if p.exact = true then ((s.grantCtx p.lp s.lps.queries.length).syncCtx p.lp).exactTurn peerRid p.lp p.index p.probe p.x q else ((s.grantCtx p.lp s.lps.queries.length).syncCtx p.lp).approxTurn peerRid p.lp p.l p.visitMax p.x q) ∧ a.1 = .waits) :=
  ⟨searchOne, peerQ false true, peerTurn searchOne (peerQ false true) (withPeer false peerFar), withPeer false peerFar, by exact ⟨by decide +kernel, rfl, by decide +kernel⟩⟩

theorem searchesScansAndMerges_met_14 : ∃ (p : PeerSearch) (q : LpQuery) (s : State),
    ((s.bst (pgLp p.lp)).up = true ∧ s.clockOn (pgLp p.lp) = true ∧ ((s.grantCtx p.lp s.lps.queries.length).syncCtx p.lp).peerQuery p = some q ∧ q.ctx = false) :=
  ⟨searchOne, peerQ false false, ctxFull, by decide +kernel⟩

theorem searchesScansAndMerges_met_15 : ∃ (p : PeerSearch) (s : State),
    (s.bst (pgLp p.lp) = .off ∨ s.bst (pgLp p.lp) = .fenced ∨ s.bst (pgLp p.lp) = .faulted) :=
  ⟨searchOne, loupePeer.setBlk 0x068 (blockIn .faulted), by decide +kernel⟩

theorem searchesScansAndMerges_met_16 : ∃ (p : PeerSearch) (s : State),
    ((s.bst (pgLp p.lp)).up = true ∧ s.clockOn (pgLp p.lp) = false) :=
  ⟨searchOne, loupePeer.wr BZ_PM.PM_STATE_CUR 1, by decide +kernel⟩

theorem searchesScansAndMerges_met_17 : ∃ (lp slot n k l vm pr : Nat) (exact : Bool) (query : List Nat) (s : State),
    (lp < 2 ∧ s.fabUp = true ∧ (mapFind s.fab.peers slot).isSome = true ∧ (s.leaveDoze.indexOf lp n = none ∨ k = 0 ∨ 256 < k)) :=
  ⟨1, 2, 0, 1, 1, 1, 0, true, [], loupePeer, by decide +kernel⟩

/-! ### ISE -/

theorem solvesIterateAndRecheck_met_1 : ∃ (rid : Nat) (r : Req) (c : IseSchedule) (k : IseRun) (s : State),
    (s.solving rid = some (r, c) ∧ s.iseOf rid = some k ∧ k.stop = none) :=
  ⟨7, solveReq, solveSched, solveRun, solveState [solveRun], by decide +kernel⟩

theorem solvesIterateAndRecheck_met_2 : ∃ (rid st oc cause : Nat) (r : Req) (c : IseSchedule) (k : IseRun) (s : State),
    (s.solving rid = some (r, c) ∧ s.iseOf rid = some k ∧ k.stop = some (st, oc, cause)) :=
  ⟨7, 0, 0, 0, solveReq, solveSched, { solveRun with stop := some (0, 0, 0) }, solveState [{ solveRun with stop := some (0, 0, 0) }], by decide +kernel⟩

theorem solvesIterateAndRecheck_met_3 : ∃ (rid : Nat) (r : Req) (c : IseSchedule) (s : State),
    (s.solving rid = some (r, c) ∧ s.iseOf rid = none) :=
  ⟨7, solveReq, solveSched, solveState [], by decide +kernel⟩

theorem solvesIterateAndRecheck_met_4 : ∃ (rid : Nat) (r : Req) (c : IseSchedule) (s : State),
    (tolOk (solveArgs c r).tol = false ∨ (solveArgs c r).reserved = true ∨ s.objHolds r.ws r.objA c.nnzL = false) :=
  ⟨7, { solveReq with objA := 99 }, solveSched, solveState [], by decide +kernel⟩

theorem solvesIterateAndRecheck_met_5 : ∃ (rid : Nat) (r : Req) (c : IseSchedule) (k : IseRun) (s : State),
    (k.due = false ∧ meetsTol k k.nr = false ∧ k.i ≠ k.maxIter) :=
  ⟨7, solveReq, solveSched, solveRun, solveState [solveRun], by decide +kernel⟩

theorem solvesIterateAndRecheck_met_6 : ∃ (rid n : Nat) (rt : List Nat) (big : Bool) (r : Req) (c : IseSchedule) (k : IseRun) (s t : State),
    (k.due = false ∧ (meetsTol k k.nr = true ∨ k.i = k.maxIter)) ∧
    s.recheck rid (lowerOf c.pattern (s.f32sOf r.ws r.objA c.nnzL)) (s.f32sOf r.ws (solveArgs c r).rhs c.n) k = (.done rt n big, t) ∧
    meetsTol (k.rechecked n) n = true :=
  ⟨7, 0, [0], false, solveReq, solveSched, doneRun, solveState [], (solveState []).inc (ISE.RECHECK_CNT 0), by decide +kernel⟩

theorem solvesIterateAndRecheck_met_7 : ∃ (rid n : Nat) (rt : List Nat) (big : Bool) (r : Req) (c : IseSchedule) (k : IseRun) (s t : State),
    (k.due = false ∧ k.i = k.maxIter) ∧
    s.recheck rid (lowerOf c.pattern (s.f32sOf r.ws r.objA c.nnzL)) (s.f32sOf r.ws (solveArgs c r).rhs c.n) k = (.done rt n big, t) ∧
    meetsTol (k.rechecked n) n = false :=
  ⟨7, 0x3FF0000000000000, [0xBF800000], true, solveReq, solveSched, { doneRun with i := 9, x := [0x3F800000] }, solveState [], (solveState []).inc (ISE.RECHECK_CNT 0), by decide +kernel⟩

theorem solvesIterateAndRecheck_met_8 : ∃ (rid : Nat) (r : Req) (c : IseSchedule) (q : SolveArgs) (k : IseRun) (s : State),
    ((s.f32sOf r.ws q.rhs c.n).any (fun x => (f32v x).nonfinite) = false ∧ k.x.any (fun x => (f32v x).nonfinite) = false) ∧
    norm64 (s.f32sOf r.ws q.rhs c.n) = 0 :=
  ⟨7, solveReq, solveSched, solveArgs solveSched solveReq, solveRun, solveState [], by decide +kernel⟩

theorem solvesIterateAndRecheck_met_9 : ∃ (e : Nat) (k : IseRun) (r : Req) (c : IseSchedule) (s : State),
    (s.ises.find? (fun k => decide (k.ise = e) && k.due && k.stop.isNone) = some k ∧ s.solving k.rid = some (r, c)) :=
  ⟨0, { solveRun with due := true }, solveReq, solveSched, solveState [{ solveRun with due := true }], by decide +kernel⟩

theorem solvesIterateAndRecheck_met_10 : ∃ (e : Nat) (s : State),
    s.ises.all (fun k => decide (k.ise ≠ e) || !k.due || k.stop.isSome) = true :=
  ⟨1, solveState [{ solveRun with due := true }], by decide +kernel⟩

/-! ### Filigree -/

theorem channelsCommitAndRunInTheirSlots_met_1 : ∃ (rq : Requester) (k c : Nat) (s : State),
    (s.answers rq 0x079 ∧ k < 24 ∧ (s.reached 0x079).commitReason k ((s.reached 0x079).staged k) = c ∧ c ≠ 0) :=
  ⟨.bezel, 3, 5, awakeState, by decide +kernel⟩

theorem channelsCommitAndRunInTheirSlots_met_2 : ∃ (rq : Requester) (k : Nat) (s : State),
    (s.answers rq 0x079 ∧ k < 24 ∧ (s.reached 0x079).commitReason k ((s.reached 0x079).staged k) = 0) :=
  ⟨.bezel, 20, stagedState, by decide +kernel⟩

theorem channelsCommitAndRunInTheirSlots_met_3 : ∃ (k : Nat) (c : FilCfg) (s : State),
    s.commitReason k c = 0 :=
  ⟨20, spiCfg, filState false [], by decide +kernel⟩

theorem channelsCommitAndRunInTheirSlots_met_5 : ∃ (k t : Nat) (new : FilCfg) (bits : List Bool) (s : State),
    (k < 24 ∧ s.filRuns = true ∧ (s.chan k).next = some (new, t) ∧ t < s.tick) :=
  ⟨20, 0, spiCfg, [], { (filState false []).setChan 20 { chanReset with next := some (spiCfg, 0) } with tick := 5 }, by decide +kernel⟩

theorem channelsCommitAndRunInTheirSlots_met_6 : ∃ (k : Nat) (bits : List Bool) (s : State),
    (k < 24 ∧ s.filRuns = true ∧ (s.chan k).next = none ∧ cfgEn (s.chan k).cfg = false) :=
  ⟨3, [true, true, false], filState false [], by decide +kernel⟩

theorem channelsCommitAndRunInTheirSlots_met_7 : ∃ (k : Nat) (bits : List Bool) (s : State),
    (k < 24 ∧ s.filRuns = true ∧ (s.chan k).next = none ∧ cfgEn (s.chan k).cfg = true ∧ (s.chan k).halted = 0) :=
  ⟨20, [], filState true [(5, 0)], by decide +kernel⟩

theorem channelsCommitAndRunInTheirSlots_met_8 : ∃ (k : Nat) (s : State),
    (16 ≤ k ∧ k < 24 ∧ s.filRuns = true ∧ cfgEn (s.chan k).cfg = true ∧ (s.chan k).fresh = false ∧ (s.chan k).queue = []) :=
  ⟨20, (filState true []).setChan 20 { chanReset with cfg := spiCfg, fresh := false }, by decide +kernel⟩

theorem channelsCommitAndRunInTheirSlots_met_9 : ∃ (k : Nat) (s : State),
    (k < 16 ∨ 24 ≤ k ∨ s.filRuns = false ∨ cfgEn (s.chan k).cfg = false) :=
  ⟨3, filState false [], by decide +kernel⟩

theorem channelsCommitAndRunInTheirSlots_met_10 : ∃ (rq : Requester) (s : State),
    s.answers rq 0x078 :=
  ⟨.bezel, awakeState, by decide +kernel⟩

theorem channelsCommitAndRunInTheirSlots_met_11 : ∃ (k : Nat) (b : List Byte) (s : State),
    (s.on FIL.OUT_CFG_EN = true ∧ s.outBaseOk = true ∧ s.bitOn FIL.OUT_MASK k = false) ∧
    ((s.rd FIL.OUT_WR_IDX + 1) % s.outSize ≠ s.rd FIL.OUT_RD_IDX % s.outSize ∧ b.length = 32 ∧ s.rd FIL.OUT_WR_IDX < s.outSize) :=
  ⟨20, List.replicate 32 7, filState true [], by decide +kernel⟩

theorem channelsCommitAndRunInTheirSlots_met_12 : ∃ (k : Nat) (b : List Byte) (s : State),
    (s.on FIL.OUT_CFG_EN = true ∧ s.outBaseOk = true ∧ s.bitOn FIL.OUT_MASK k = false) ∧
    ((s.rd FIL.OUT_WR_IDX + 1) % s.outSize = s.rd FIL.OUT_RD_IDX % s.outSize) :=
  ⟨20, List.replicate 32 7, (filState true []).wr FIL.OUT_RD_IDX 1, by decide +kernel⟩

theorem offlineFiltersAndCalibrations_met_1 : ∃ (rid rankW rankR rom inObj outObj : Nat) (rankEn : Bool) (r : Req) (s : State),
    (s.running rid = some (r, .filter rankEn rankW rankR rom inObj outObj) ∧ r.claims 14 = true ∧ s.filRuns = true ∧ r.yieldBy = none) ∧
    (rankW ≤ 3 ∧ rankR < rankWidth rankW ∧ rom ≤ 31) :=
  ⟨7, 3, 8, 31, 5, 6, true, filterReq, (reqState filterReq).setBlk 0x078 (blockIn .ready), by decide +kernel⟩

theorem offlineFiltersAndCalibrations_met_2 : ∃ (rid rankW rankR rom inObj outObj : Nat) (rankEn : Bool) (r : Req) (s : State),
    (s.running rid = some (r, .filter rankEn rankW rankR rom inObj outObj) ∧ r.claims 14 = true ∧ s.filRuns = true ∧ r.yieldBy = none) ∧
    (3 < rankW ∨ rankWidth rankW ≤ rankR ∨ 31 < rom) :=
  ⟨7, 3, 9, 31, 5, 6, true, { filterReq with steps := [.filter true 3 9 31 5 6] }, (reqState { filterReq with steps := [.filter true 3 9 31 5 6] }).setBlk 0x078 (blockIn .ready), by decide +kernel⟩

theorem offlineFiltersAndCalibrations_met_3 : ∃ (rid : Nat) (s : State),
    (s.running rid = none ∨ s.filRuns = false) :=
  ⟨7, filState true [], by decide⟩

theorem offlineFiltersAndCalibrations_met_5 : ∃ (rq : Requester) (channel range : Nat) (ref : Bool) (s : State),
    (s.answers rq 0x07A ∧ (s.reached 0x07A).rd FIL_CAL.CAL_STAT_RESULT = 1) :=
  ⟨.bezel, 3, 1, true, awakeState.wr FIL_CAL.CAL_STAT_RESULT 1, by decide +kernel⟩

theorem offlineFiltersAndCalibrations_met_6 : ∃ (rq : Requester) (channel range : Nat) (ref : Bool) (s : State),
    (s.answers rq 0x07A ∧ channel < 32 ∧ range < 4 ∧ (s.reached 0x07A).rd FIL_CAL.CAL_STAT_RESULT ≠ 1) :=
  ⟨.bezel, 23, 3, true, awakeState, by decide +kernel⟩

theorem offlineFiltersAndCalibrations_met_7 : ∃ (c : FilCal) (s : State),
    (s.fil.cal = some c ∧ c.raws.length < (if s.rd FIL_CAL.CAL_SAMPLES < 16 then 16 else s.rd FIL_CAL.CAL_SAMPLES)) :=
  ⟨calOne 4, calState 4, by decide +kernel⟩

theorem offlineFiltersAndCalibrations_met_8 : ∃ (s : State),
    s.fil.cal = none :=
  ⟨awakeState, by decide⟩

theorem offlineFiltersAndCalibrations_met_9 : ∃ (c : FilCal) (why k r : Nat) (s : State),
    (s.fil.cal = some c ∧ ¬(c.raws.length < (if s.rd FIL_CAL.CAL_SAMPLES < 16 then 16 else s.rd FIL_CAL.CAL_SAMPLES))) ∧
    (s.calReason c (calMoments c.raws).1 (calMoments c.raws).2 = why ∧ c.channel < 24 ∧ c.range < 4 ∧ k < 24 ∧ r < 4) :=
  ⟨calOne 16, 2, 3, 1, calState 16, by decide +kernel⟩

theorem offlineFiltersAndCalibrations_met_10 : ∃ (c : FilCal) (s : State),
    s.fil.cal = some c :=
  ⟨calOne 4, calState 4, by decide⟩

/-! ### Hallmark -/

theorem cellTimeIsSetSteppedAndSwitched_met_1 : ∃ (rq : Requester) (s : State),
    s.answers rq 0x080 :=
  ⟨.bezel, hmState, by decide⟩

theorem cellTimeIsSetSteppedAndSwitched_met_2 : ∃ (rq : Requester) (code : Nat) (s : State),
    (s.answers rq 0x080 ∧ (code = 0 ∨ (5 ≤ code ∧ code ≤ 7))) :=
  ⟨.bezel, 7, hmState, by decide⟩

theorem cellTimeIsSetSteppedAndSwitched_met_3 : ∃ (code why : Nat) (active : Bool) (s : State),
    (s.hm.cmd = some (code, active) ∧ s.hmReason code active = why ∧ why ≠ 0) :=
  ⟨1, 3, false, hmState.setHm { hmState.hm with cmd := some (1, false) }, by decide +kernel⟩

theorem cellTimeIsSetSteppedAndSwitched_met_4 : ∃ (s : State),
    (s.hm.cmd = some (1, true) ∧ s.rd HM.SET_NS ≤ 999999999 ∧ s.tick < 2 ^ 64) :=
  ⟨(hmState.setHm { hmState.hm with cmd := some (1, true) }).wr HM.SET_NS 999999999, by decide +kernel⟩

theorem cellTimeIsSetSteppedAndSwitched_met_5 : ∃ (s : State),
    (s.hm.cmd = some (2, true) ∧ s.domGood s.activeDom = true ∧ s.tick < 2 ^ 64) :=
  ⟨(ptpState 2).setHm { (ptpState 2).hm with cmd := some (2, true) }, by decide +kernel⟩

theorem cellTimeIsSetSteppedAndSwitched_met_6 : ∃ (d : Nat) (s : State),
    (s.hm.cmd = some (3 + d, true) ∧ d < 2 ∧ s.domGood d = true ∧ s.activeDom ≠ d) :=
  ⟨0, ((ptpState 5).setHm { (ptpState 5).hm with cmd := some (3, true) }).wr HM.CELL_STAT_ACTIVE 1, by decide +kernel⟩

theorem cellTimeIsSetSteppedAndSwitched_met_7 : ∃ (s : State),
    (s.on HM.HM_CTRL_AUTO_SWITCH = true ∧ s.bst 0x080 = .active ∧ s.domGood s.activeDom = false ∧ s.domGood (1 - s.activeDom) = true) :=
  ⟨(((ptpState 5).wr HM.CELL_STAT_ACTIVE 1).wr HM.HM_CTRL_AUTO_SWITCH 1).wr (HM_DOM.DOM_STAT_STATE 1) 1, by decide +kernel⟩

theorem cellTimeIsSetSteppedAndSwitched_met_8 : ∃ (s : State),
    (s.on HM.HM_CTRL_AUTO_SWITCH = false ∨ s.bst 0x080 ≠ .active ∨ s.domGood s.activeDom = true ∨ s.domGood (1 - s.activeDom) = false) :=
  ⟨hmState, by decide⟩

theorem cellTimeIsSetSteppedAndSwitched_met_9 : ∃ (s : State),
    (s.on HM.CELL_STAT_INIT = false ∧ s.on HM.HM_CTRL_INIT_STEP_EN = true ∧ s.bst 0x080 = .active ∧ s.domGood s.activeDom = true) :=
  ⟨(ptpState 2).wr HM.HM_CTRL_INIT_STEP_EN 1, by decide +kernel⟩

theorem cellTimeIsSetSteppedAndSwitched_met_10 : ∃ (s : State),
    (s.on HM.CELL_STAT_INIT = true ∨ s.on HM.HM_CTRL_INIT_STEP_EN = false ∨ s.bst 0x080 ≠ .active ∨ s.domGood s.activeDom = false) :=
  ⟨hmState, by decide⟩

theorem cellTimeIsSetSteppedAndSwitched_met_12 : ∃ (d : Nat) (s : State),
    (d < 2 ∧ s.bst 0x080 = .ready ∧ s.on (HDR.BLK_CTRL_ENABLE 0x080) = true ∧ s.bitOn BZ_PM.PLL_LOCK 2 = true) :=
  ⟨1, (clockedState.setBlk 0x080 (blockIn .ready)).wr (HDR.BLK_CTRL_ENABLE 0x080) 1, by decide +kernel⟩

theorem cellTimeIsSetSteppedAndSwitched_met_13 : ∃ (s : State),
    (s.bst 0x080 ≠ .ready ∨ s.on (HDR.BLK_CTRL_ENABLE 0x080) = false ∨ s.bitOn BZ_PM.PLL_LOCK 2 = false) :=
  ⟨awakeState, by decide⟩

theorem domainsFollowTheirProtocols_met_1 : ∃ (d seq li : Nat) (twoStep : Bool) (origin recv corr : Int) (s : State),
    (s.ptpRuns d = true ∧ s.follows d = true ∧ -7 ≤ toSigned 8 li ∧ toSigned 8 li ≤ 1) :=
  ⟨1, 5, 0xF9, true, 0, 100, 0, ptpState 1, by decide +kernel⟩

theorem domainsFollowTheirProtocols_met_2 : ∃ (d seq li : Nat) (valid twoStep : Bool) (origin recv corr : Int) (s : State),
    (s.ptpRuns d = false ∨ s.follows d = false ∨ valid = false ∨ toSigned 8 li < -7 ∨ 1 < toSigned 8 li) :=
  ⟨0, 5, 2, true, false, 0, 100, 0, ptpState 1, by decide +kernel⟩

theorem domainsFollowTheirProtocols_met_3 : ∃ (d seq : Nat) (origin recv c0 corr : Int) (s : State),
    (s.ptpRuns d = true ∧ s.follows d = true ∧ (s.dom d).waitSync = some (seq, recv, c0)) :=
  ⟨0, 5, 0, 100, 7, 8, (ptpState 1).modDom 0 (fun x => { x with waitSync := some (5, 100, 7) }), by decide +kernel⟩

theorem domainsFollowTheirProtocols_met_4 : ∃ (d seq : Nat) (origin corr : Int) (s : State),
    ((s.dom d).waitSync = none ∨ s.ptpRuns d = false ∨ s.follows d = false) :=
  ⟨0, 5, 0, 8, ptpState 1, by decide +kernel⟩

theorem domainsFollowTheirProtocols_met_5 : ∃ (d : Nat) (origin recv corr : Int) (s : State),
    d < 2 :=
  ⟨1, 0, 100, 7, ptpState 1, by decide⟩

theorem domainsFollowTheirProtocols_met_6 : ∃ (d : Nat) (off : Int) (s : State),
    d < 2 :=
  ⟨0, 100, ptpState 4, by decide⟩

theorem domainsFollowTheirProtocols_met_8 : ∃ (d seq : Nat) (t1 t2 t3 recv corr : Int) (s : State),
    (s.ptpRuns d = true ∧ s.domP2p d = false ∧ s.follows d = true ∧ (s.dom d).dreq = some (seq, t3) ∧ (s.dom d).sync = some (t1, t2)) :=
  ⟨1, 5, 10, 20, 30, 60, 7, (ptpState 1).modDom 1 (fun x => { x with dreq := some (5, 30), sync := some (10, 20) }), by decide +kernel⟩

theorem domainsFollowTheirProtocols_met_9 : ∃ (d seq : Nat) (recv corr : Int) (s : State),
    (s.ptpRuns d = false ∨ s.domP2p d = true ∨ s.follows d = false ∨ (s.dom d).dreq = none ∨ (s.dom d).sync = none) :=
  ⟨1, 5, 60, 7, ptpState 1, by decide +kernel⟩

theorem domainsFollowTheirProtocols_met_10 : ∃ (d seq : Nat) (recv : Int) (s : State),
    (s.ptpRuns d = true ∧ s.domP2p d = true) :=
  ⟨1, 5, 60, (ptpState 1).wr (HM_DOM.DOM_CFG_SRC 1) 2, by decide +kernel⟩

theorem domainsFollowTheirProtocols_met_11 : ∃ (d seq : Nat) (recv : Int) (s : State),
    (s.ptpRuns d = false ∨ s.domP2p d = false) :=
  ⟨1, 5, 60, ptpState 1, by decide +kernel⟩

theorem domainsFollowTheirProtocols_met_12 : ∃ (d seq : Nat) (twoStep : Bool) (t1 t2 recv corr : Int) (s : State),
    (s.ptpRuns d = true ∧ s.domP2p d = true ∧ (s.dom d).preq = some (seq, t1)) :=
  ⟨1, 5, false, 10, 20, 60, 7, ((ptpState 1).wr (HM_DOM.DOM_CFG_SRC 1) 2).modDom 1 (fun x => { x with preq := some (5, 10) }), by decide +kernel⟩

theorem domainsFollowTheirProtocols_met_13 : ∃ (d seq : Nat) (t1 t2 t3 t4 c0 corr : Int) (s : State),
    (s.ptpRuns d = true ∧ s.domP2p d = true ∧ (s.dom d).preq = some (seq, t1) ∧ (s.dom d).presp = some (seq, t2, t4, c0)) :=
  ⟨1, 5, 10, 20, 25, 60, 7, 1, ((ptpState 1).wr (HM_DOM.DOM_CFG_SRC 1) 2).modDom 1 (fun x => { x with preq := some (5, 10), presp := some (5, 20, 60, 7) }), by decide +kernel⟩

theorem domainsFollowTheirProtocols_met_14 : ∃ (d : Nat) (a : PtpAnnounce) (s : State),
    (s.ptpRuns d = true ∧ s.domState d ≠ dsDisabled ∧ (s.dom d).gm = none) :=
  ⟨1, default, ptpState 1, by decide +kernel⟩

theorem domainsFollowTheirProtocols_met_15 : ∃ (d : Nat) (a g : PtpAnnounce) (s : State),
    (s.ptpRuns d = true ∧ s.domState d ≠ dsDisabled ∧ (s.dom d).gm = some g ∧ g.gmId ≠ a.gmId ∧ lexLt (announceKey a) (announceKey g) = false) ∧
    (s.domState d ≠ dsMaster ∧ s.on (HM_DOM.DOM_CFG_SLAVE_ONLY d) = true) :=
  ⟨1, { (default : PtpAnnounce) with gmId := 9 }, default, ((ptpState 1).wr (HM_DOM.DOM_CFG_SLAVE_ONLY 1) 1).modDom 1 (fun x => { x with gm := some default }), by decide +kernel⟩

theorem domainsFollowTheirProtocols_met_17 : ∃ (d kind : Nat) (s : State),
    (s.ptpRuns d = true ∧ (kind = 0 ∨ kind = 1 ∨ kind = 2) ∧ s.ptpSends d kind = true) ∧
    s.ptpDue d kind (toSigned 4 (if kind = 0 then s.rd (HM_DOM.DOM_INTERVAL_LOG_SYNC d) else s.rd (HM_DOM.DOM_INTERVAL_LOG_DELAY_REQ d))) = true :=
  ⟨1, 0, ptpState 5, by decide +kernel⟩

theorem domainsFollowTheirProtocols_met_18 : ∃ (d kind : Nat) (s : State),
    (s.ptpRuns d = true ∧ kind = 0xB ∧ s.domState d = dsMaster ∧ s.ptpDue d 0xB (toSigned 4 (s.rd (HM_DOM.DOM_INTERVAL_LOG_ANNOUNCE d))) = true) :=
  ⟨1, 0xB, ptpState 5, by decide +kernel⟩

theorem domainsFollowTheirProtocols_met_19 : ∃ (d kind : Nat) (s : State),
    (s.ptpRuns d = false ∨ (kind ≠ 0xB ∧ s.ptpSends d kind = false)) :=
  ⟨1, 0, ptpState 1, by decide +kernel⟩

theorem domainsFollowTheirProtocols_met_20 : ∃ (d : Nat) (s : State),
    (d < 2 ∧ s.hmRuns = true ∧ s.follows d = true ∧ s.domState d ≠ dsLost ∧ (s.dom d).lastSync + s.lossTicks d ≤ s.tick) :=
  ⟨1, { ptpState 2 with tick := 100000000 }, by decide +kernel⟩

theorem domainsFollowTheirProtocols_met_21 : ∃ (d : Nat) (s : State),
    (2 ≤ d ∨ s.hmRuns = false ∨ s.follows d = false ∨ s.domState d = dsLost ∨ s.tick < (s.dom d).lastSync + s.lossTicks d) :=
  ⟨1, ptpState 1, by decide +kernel⟩

theorem edgesAreStampedAndEmitted_met_1 : ∃ (line n : Nat) (s : State),
    (line ≤ 16 ∧ n < 1000 ∧ s.stampsOn = true ∧ (s.hm.entries.filter (fun e => e.line == line)).length < 4) :=
  ⟨16, 999, hmState, by decide +kernel⟩

theorem edgesAreStampedAndEmitted_met_2 : ∃ (line n : Nat) (s : State),
    (line ≤ 16 ∧ n < 1000 ∧ s.stampsOn = true ∧ 4 ≤ (s.hm.entries.filter (fun e => e.line == line)).length) :=
  ⟨0, 0, hmState.setHm { hmState.hm with entries := List.replicate 4 default }, by decide +kernel⟩

theorem edgesAreStampedAndEmitted_met_3 : ∃ (line n : Nat) (s : State),
    (16 < line ∨ 1000 ≤ n ∨ s.stampsOn = false) :=
  ⟨17, 0, hmState, by decide⟩

theorem edgesAreStampedAndEmitted_met_5 : ∃ (e : StampEntry) (s : State),
    (s.hmRuns = true ∧ s.hm.entries = [e] ∧ e.coarse = false ∧ e.line ≤ 16 ∧ e.line ≠ 8 ∧ e.slewing = false ∧ e.stepped = false ∧ e.domain < 2) ∧
    (500 * s.tick ≤ e.cycle ∧ e.cycle < 500 * s.tick + 500 ∧ s.hm.rate = 0) ∧
    0 ≤ e.cell - 6 * nsUnit - toSigned 16 (s.rd (HM.LINE_DELAY e.line)) * (nsUnit / 16) :=
  ⟨{ (default : StampEntry) with line := 16, cell := 1000 * nsUnit }, hmState.setHm { hmState.hm with entries := [{ (default : StampEntry) with line := 16, cell := 1000 * nsUnit }] }, by decide +kernel⟩

theorem edgesAreStampedAndEmitted_met_6 : ∃ (rq : Requester) (p : Nat) (e : TxqEntry) (l : List TxqEntry) (s : State),
    (s.answers rq 0x082 ∧ p < 4 ∧ s.txq p = e :: l) :=
  ⟨.bezel, 3, default, [], hmState.setTxq 3 [default], by decide +kernel⟩

theorem edgesAreStampedAndEmitted_met_7 : ∃ (rq : Requester) (p : Nat) (s : State),
    (s.answers rq 0x082 ∧ p < 4 ∧ s.txq p = []) :=
  ⟨.bezel, 3, hmState, by decide +kernel⟩

theorem edgesAreStampedAndEmitted_met_10 : ∃ (s : State),
    s.on HM.PPS_CTRL_PPS_OUT_EN = false :=
  ⟨hmState, by decide⟩

theorem edgesAreStampedAndEmitted_met_11 : ∃ (sec : Nat) (s : State),
    (s.on HM.PPS_CTRL_PPS_OUT_EN = true ∧ s.hm.cell ≤ (sec : Int) * secUnit ∧ (sec : Int) * secUnit < s.hm.cell + s.cellStep ∧ s.hm.ppsLast = none) ∧
    s.cellStep ≤ secUnit :=
  ⟨0, hmState.wr HM.PPS_CTRL_PPS_OUT_EN 1, by decide +kernel⟩

theorem edgesAreStampedAndEmitted_met_12 : ∃ (sec : Nat) (s : State),
    (s.hm.ppsLast = some sec ∧ s.hm.cell ≤ (sec : Int) * secUnit ∧ s.hm.cell + s.cellStep ≤ ((sec : Int) + 1) * secUnit ∧ 0 ≤ s.hm.cell) :=
  ⟨0, (hmState.wr HM.PPS_CTRL_PPS_OUT_EN 1).setHm { hmState.hm with ppsLast := some 0 }, by decide +kernel⟩

theorem edgesAreStampedAndEmitted_met_13 : ∃ (f : Nat) (s : State),
    (f < 4 ∧ (s.fsOf f).mode = 1 ∧ (s.fsOf f).start ≤ s.tick ∧ (s.fsOf f).period ≠ 0 ∧ (s.tick - (s.fsOf f).start) % (s.fsOf f).period = 0) ∧
    mapFind s.hm.fsLast f = none :=
  ⟨3, { fsState 1 with tick := 250 }, by decide +kernel⟩

theorem edgesAreStampedAndEmitted_met_14 : ∃ (f : Nat) (s : State),
    (4 ≤ f ∨ (s.fsOf f).mode = 0 ∨ ((s.fsOf f).mode = 1 ∧ (s.tick < (s.fsOf f).start ∨ (s.tick - (s.fsOf f).start) % atLeast1 (s.fsOf f).period ≠ 0))) :=
  ⟨3, { fsState 1 with tick := 251 }, by decide +kernel⟩

theorem edgesAreStampedAndEmitted_met_15 : ∃ (f e : Nat) (s : State),
    (f < 4 ∧ (s.fsOf f).mode = 2 ∧ firstEdge (s.fsOf f).start (s.fsOf f).period s.hm.cell = e) :=
  ⟨3, 50, fsState 2, by decide +kernel⟩

theorem fsyncSettingsAreAppliedOrRefused_met_1 : ∃ (rq : Requester) (f m p w : Nat) (s : State),
    (s.answers rq 0x080 ∧ f < 4 ∧ (s.reached 0x080).rd (HM.FS_CFG_MODE f) = m ∧ (s.reached 0x080).rd (HM.FS_PERIOD f) = p ∧ (s.reached 0x080).rd (HM.FS_WIDTH f) = w) ∧
    (m = 3 ∨ (m = 1 ∧ p < 100) ∨ (m = 2 ∧ p < 100000) ∨ w = 0 ∨ (m = 1 ∧ ¬ w < p) ∨ (m = 2 ∧ ¬ 1000 * w < p)) :=
  ⟨.bezel, 3, 1, 100, 100, stagedFs 1 100 100, by decide +kernel⟩

theorem fsyncSettingsAreAppliedOrRefused_met_2 : ∃ (rq : Requester) (f m p w : Nat) (s : State),
    (s.answers rq 0x080 ∧ f < 4 ∧ (s.reached 0x080).rd (HM.FS_CFG_MODE f) = m ∧ (s.reached 0x080).rd (HM.FS_PERIOD f) = p ∧ (s.reached 0x080).rd (HM.FS_WIDTH f) = w) ∧
    (¬(m = 3 ∨ (m = 1 ∧ p < 100) ∨ (m = 2 ∧ p < 100000) ∨ w = 0 ∨ (m = 1 ∧ ¬ w < p) ∨ (m = 2 ∧ ¬ 1000 * w < p))) :=
  ⟨.bezel, 3, 1, 100, 99, stagedFs 1 100 99, by decide +kernel⟩

theorem fsyncSettingsAreAppliedOrRefused_met_3 : ∃ (f : Nat) (o : FsOut) (s : State),
    (f < 4 ∧ s.hm.fsNext.filter (fun e => e.1 == f) = [(f, o)]) :=
  ⟨3, default, hmState.setHm { hmState.hm with fsNext := [(3, default)] }, by decide⟩

theorem domainSettingsAreIgnoredOrApplied_met_1 : ∃ (rq : Requester) (d word value : Nat) (s : State),
    (s.answers rq 0x081 ∧ d < 2 ∧ word < 3 ∧ d = s.activeDom ∧ s.bst 0x080 = .active) :=
  ⟨.bezel, 0, 2, 7, hmState, by decide⟩

theorem domainSettingsAreIgnoredOrApplied_met_2 : ∃ (rq : Requester) (d word value : Nat) (s : State),
    (s.answers rq 0x081 ∧ d < 2 ∧ word < 3 ∧ (d ≠ s.activeDom ∨ s.bst 0x080 ≠ .active)) :=
  ⟨.bezel, 1, 2, 7, hmState, by decide⟩

theorem domainSettingsAreIgnoredOrApplied_met_3 : ∃ (d word value : Nat) (s : State),
    ((s.dom d).cfgNext = [(word, value)] ∧ d < 2 ∧ word < 3 ∧ s.bst 0x080 = .active) :=
  ⟨1, 0, 5, (ptpState 2).modDom 1 (fun x => { x with cfgNext := [(0, 5)] }), by decide +kernel⟩

/-! ### The cell fabric -/

theorem peersJoinLeaveAndHandOver_met_view : ∃ (s : State), s.eligible = s.fab.cur.members :=
  ⟨State.reset, by decide +kernel⟩

theorem peersJoinLeaveAndHandOver_met_1 : ∃ (h : CfpHeader) (n m : Nat) (s : State),
    (s.fabUp = true ∧ s.ethUp h.port = true) ∧
    (h.magic ≠ 0x4643 ∨ h.version ≠ 1 ∨ h.cellId ≠ s.rd FAB.CELL_ID ∨ h.deviceId = s.deviceId) :=
  ⟨{ cfpOne with version := 2 }, 1, 2, fabState, by decide +kernel⟩

theorem peersJoinLeaveAndHandOver_met_2 : ∃ (h : CfpHeader) (n m : Nat) (s : State),
    (s.peerOf h.deviceId = none ∧ s.hears h) :=
  ⟨{ cfpOne with deviceId := 8 }, 1, 2, fabState, by decide +kernel⟩

theorem peersJoinLeaveAndHandOver_met_3 : ∃ (h : CfpHeader) (p : Nat) (q : Peer) (s : State),
    s.hearsPeer h p q :=
  ⟨cfpOne, 2, peerOne, fabState, by decide +kernel⟩

theorem peersJoinLeaveAndHandOver_met_4 : ∃ (slot : Nat) (q : Peer) (s : State),
    mapFind s.fab.peers slot = some q :=
  ⟨2, peerOne, fabState, by decide +kernel⟩

theorem peersJoinLeaveAndHandOver_met_5 : ∃ (slot seq : Nat) (q : Peer) (m : CfpOut) (s : State),
    (mapFind s.fab.peers slot = some q ∧ q.unacked = [m] ∧ m.seq = seq) :=
  ⟨2, 7, { peerOne with unacked := [outOne] }, outOne, resendState, by decide +kernel⟩

theorem peersJoinLeaveAndHandOver_met_6 : ∃ (p : Nat) (q : Peer) (s : State),
    (p < 64 ∧ s.borrowState p = 0 ∧ s.fab.ins = []) :=
  ⟨2, peerOne, fabState, by decide +kernel⟩

theorem peersJoinLeaveAndHandOver_met_7 : ∃ (h : CfpHeader) (a : AnnouncePayload) (s : State),
    (s.hears h ∧ s.pm = 0 ∧ a.cellSeed ≠ s.rd FAB.CELL_SEED) :=
  ⟨cfpOne, { (default : AnnouncePayload) with cellSeed := 5 }, fabState, by decide +kernel⟩

theorem peersJoinLeaveAndHandOver_met_8 : ∃ (h : CfpHeader) (a : AnnouncePayload) (s : State),
    (s.hears h ∧ s.pm = 0 ∧ a.cellSeed = s.rd FAB.CELL_SEED ∧ s.peerOf h.deviceId = none ∧ s.freePeer = none) :=
  ⟨{ cfpOne with deviceId := 8 }, default, fabState.setFab { fabState.fab with peers := (List.range 64).map (fun i => (i, peerOne)) }, by decide +kernel⟩

theorem peersJoinLeaveAndHandOver_met_9 : ∃ (h : CfpHeader) (a : AnnouncePayload) (p : Nat) (s : State),
    (s.hears h ∧ s.pm = 0 ∧ a.cellSeed = s.rd FAB.CELL_SEED ∧ s.peerOf h.deviceId = none ∧ s.freePeer = some p) :=
  ⟨{ cfpOne with deviceId := 8 }, default, 0, fabState, by decide +kernel⟩

theorem peersJoinLeaveAndHandOver_met_10 : ∃ (h : CfpHeader) (a : AnnouncePayload) (p : Nat) (q : Peer) (s : State),
    (s.hearsPeer h p q ∧ s.pm = 0 ∧ a.cellSeed = s.rd FAB.CELL_SEED ∧ a.leaving = false ∧ s.rd (FAB.PEER_STAT_PORT p) ≤ h.port) :=
  ⟨cfpOne, default, 2, peerOne, fabState, by decide +kernel⟩

theorem peersJoinLeaveAndHandOver_met_12 : ∃ (h : CfpHeader) (acked p : Nat) (q : Peer) (s : State),
    s.hearsPeer h p q :=
  ⟨cfpOne, 7, 2, { peerOne with unacked := [outOne] }, resendState, by decide +kernel⟩

theorem peersJoinLeaveAndHandOver_met_13 : ∃ (s : State),
    s.fabUp = true :=
  ⟨fabState, by decide⟩

theorem peersJoinLeaveAndHandOver_met_14 : ∃ (s : State),
    s.fabUp = false :=
  ⟨awakeState, by decide⟩

theorem peersJoinLeaveAndHandOver_met_15 : ∃ (table range p : Nat) (frozen : Bool) (rest : List (Nat × Nat × Bool)) (s : State),
    (s.fab.outs = (table, range, frozen) :: rest ∧ s.handTo table range = some p) :=
  ⟨3, 0, 2, false, [], handState false, by decide +kernel⟩

theorem peersJoinLeaveAndHandOver_met_16 : ∃ (table range : Nat) (s : State),
    s.fab.outs = [] :=
  ⟨3, 0, fabState, by decide⟩

theorem peersJoinLeaveAndHandOver_met_17 : ∃ (h : CfpHeader) (table range view p : Nat) (q : Peer) (s : State),
    s.hearsPeer h p q :=
  ⟨cfpOne, 3, 0, 0, 2, peerOne, fabState, by decide +kernel⟩

theorem framesPassAndMemoryIsLent_met_1 : ∃ (rq : Requester) (p tail : Nat) (s : State),
    (p < 4 ∧ s.answers rq (pgEth p) ∧ s.ethUp p = true ∧ s.on (ETH.LINK_STAT_UP p) = false) :=
  ⟨.bezel, 0, 3, fabState, by decide +kernel⟩

theorem framesPassAndMemoryIsLent_met_2 : ∃ (rq : Requester) (p tail : Nat) (s : State),
    (p < 4 ∧ s.answers rq (pgEth p) ∧ s.ethUp p = true ∧ s.on (ETH.LINK_STAT_UP p) = true) ∧
    ((s.reached (pgEth p)).rd (ETH.TXR_HEAD p) + 1 = tail ∧ tail < s.txrSize p) :=
  ⟨.bezel, 0, 1, ethState, by decide +kernel⟩

theorem framesPassAndMemoryIsLent_met_3 : ∃ (p a n : Nat) (s : State),
    (n ≤ 9216 ∧ inCasket a n = true ∧ 0 < n ∧ a < 2 ^ 64 ∧ p < 4 ∧ s.rd CK_CTRL.INJ_ECC = 0) :=
  ⟨0, casketBase, 60, ethState, by decide +kernel⟩

theorem framesPassAndMemoryIsLent_met_4 : ∃ (p a n : Nat) (e : List Byte) (s : State),
    (fieldAt e 0 8 = a ∧ fieldAt e 8 2 = n ∧ (9216 < n ∨ inCasket a n = false)) :=
  ⟨0, 0, 0, [], ethState, by decide +kernel⟩

theorem framesPassAndMemoryIsLent_met_5 : ∃ (p : Nat) (s : State),
    (s.ethUp p = true ∧ s.on (ETH.LINK_STAT_UP p) = true) :=
  ⟨0, ethState.wr (ETH.TXR_TAIL 0) 3, by decide +kernel⟩

theorem framesPassAndMemoryIsLent_met_6 : ∃ (p : Nat) (up : Bool) (s : State),
    s.ethUp p = false :=
  ⟨0, true, awakeState, by decide⟩

theorem framesPassAndMemoryIsLent_met_7 : ∃ (p : Nat) (s : State),
    (s.ethUp p = true ∧ s.on (ETH.LINK_STAT_UP p) = false) :=
  ⟨0, fabState, by decide +kernel⟩

theorem framesPassAndMemoryIsLent_met_8 : ∃ (p : Nat) (f : List Byte) (crc uni st : Bool) (s : State),
    (s.ethUp p = true ∧ s.on (ETH.LINK_STAT_UP p) = true) ∧
    (crc = true ∨ s.takesFrame p f = true ∨ isFragment f = true ∨ s.rd (ETH.RX_FILTER p) = 0 ∨ (s.rd (ETH.RX_FILTER p) = 1 ∧ uni = false)) :=
  ⟨0, [], true, true, false, ethState, by decide +kernel⟩

theorem framesPassAndMemoryIsLent_met_9 : ∃ (p a k w : Nat) (f : List Byte) (uni st : Bool) (s : State),
    (s.ethUp p = true ∧ s.on (ETH.LINK_STAT_UP p) = true ∧ s.takesFrame p f = false ∧ isFragment f = false) ∧
    (s.rd (ETH.RX_FILTER p) = 2 ∨ (s.rd (ETH.RX_FILTER p) = 1 ∧ uni = true)) ∧
    (k = s.rxrSize p ∧ w = s.rd (ETH.RXR_WR_IDX p) ∧ w < k ∧ a = fieldAt (s.dpaRead (s.rd64 (ETH.RXR_BASE_LO p) (ETH.RXR_BASE_HI p) + 32 * w) 32) 0 8) ∧
    (f.length ≤ 9216 ∧ (w + 1) % k ≠ s.rd (ETH.RXR_RD_IDX p) % k ∧ inCasket a f.length = true) ∧
    (inCasket (s.rd64 (ETH.RXR_BASE_LO p) (ETH.RXR_BASE_HI p) + 32 * w) 32 = true ∧ s.rd CK_CTRL.INJ_ECC = 0) ∧
    (a + f.length ≤ s.rd64 (ETH.RXR_BASE_LO p) (ETH.RXR_BASE_HI p) + 32 * w ∨ s.rd64 (ETH.RXR_BASE_LO p) (ETH.RXR_BASE_HI p) + 32 * w + 32 ≤ a) :=
  ⟨0, casketBase + 4096, 16, 0, List.replicate 60 7, true, false, rxState, by decide +kernel⟩

theorem framesPassAndMemoryIsLent_met_10 : ∃ (p k w : Nat) (f : List Byte) (uni st : Bool) (s : State),
    (s.ethUp p = true ∧ s.on (ETH.LINK_STAT_UP p) = true ∧ s.takesFrame p f = false ∧ isFragment f = false) ∧
    (s.rd (ETH.RX_FILTER p) = 2 ∨ (s.rd (ETH.RX_FILTER p) = 1 ∧ uni = true)) ∧
    (k = s.rxrSize p ∧ w = s.rd (ETH.RXR_WR_IDX p) ∧ w < k ∧ (9216 < f.length ∨ (w + 1) % k = s.rd (ETH.RXR_RD_IDX p) % k)) :=
  ⟨0, 16, 0, List.replicate 60 7, true, false, rxState.wr (ETH.RXR_RD_IDX 0) 1, by decide +kernel⟩

theorem framesPassAndMemoryIsLent_met_11 : ∃ (rq : Requester) (slot : Nat) (s : State),
    (s.answers rq 0x08C ∧ slot < 64 ∧ (s.reached 0x08C).peerState slot ≠ 2) :=
  ⟨.bezel, 5, fabState, by decide +kernel⟩

theorem framesPassAndMemoryIsLent_met_12 : ∃ (rq : Requester) (slot : Nat) (s : State),
    (s.answers rq 0x08C ∧ slot < 64 ∧ (s.reached 0x08C).peerState slot = 2) :=
  ⟨.bezel, 2, fabState, by decide +kernel⟩

theorem framesPassAndMemoryIsLent_met_13 : ∃ (p kind : Nat) (words : List Nat) (q : Peer) (s : State),
    mapFind s.fab.peers p = some q :=
  ⟨2, 5, [9], peerOne, fabState, by decide +kernel⟩

theorem framesPassAndMemoryIsLent_met_14 : ∃ (h : CfpHeader) (tiles p : Nat) (q : Peer) (s : State),
    (s.hearsPeer h p q ∧ q.grant = none ∧ s.lendFree = 0) :=
  ⟨cfpOne, 5, 2, peerOne, fabState, by decide +kernel⟩

theorem framesPassAndMemoryIsLent_met_15 : ∃ (h : CfpHeader) (tiles p : Nat) (q : Peer) (g : Grant) (s : State),
    (s.hearsPeer h p q ∧ q.grant = some g) :=
  ⟨cfpOne, 5, 2, { peerOne with grant := some grantOne }, grantOne, grantState, by decide +kernel⟩

theorem framesPassAndMemoryIsLent_met_16 : ∃ (h : CfpHeader) (tiles p : Nat) (q : Peer) (g : Grant) (s : State),
    (s.hearsPeer h p q ∧ q.grant = none ∧ s.lendFree ≠ 0) ∧
    (g.places = s.lendPlaces (min 1048576 (min s.lendFree tiles)) ∧ g.reclaim = none ∧ g.order = s.fab.grants) :=
  ⟨cfpOne, 5, 2, peerOne, { grantOne with places := [103079149568, 103079182336] }, fabState.wr CK_TIER.LEND_T2_TILES 2, by decide +kernel⟩

theorem framesPassAndMemoryIsLent_met_18 : ∃ (h : CfpHeader) (tiles base key p : Nat) (q : Peer) (s : State),
    (s.hearsPeer h p q ∧ p < 64) :=
  ⟨cfpOne, 5, 0, 9, 2, peerOne, fabState, by decide +kernel⟩

theorem framesPassAndMemoryIsLent_met_19 : ∃ (h : CfpHeader) (p : Nat) (q : Peer) (s : State),
    (s.hearsPeer h p q ∧ p < 64 ∧ s.borrowState p = 1 ∧ s.tick < 2 ^ 64) :=
  ⟨cfpOne, 2, peerOne, fabState.setBorrow 2 1, by decide +kernel⟩

theorem framesPassAndMemoryIsLent_met_20 : ∃ (h : CfpHeader) (p : Nat) (q : Peer) (s : State),
    (s.hearsPeer h p q ∧ s.borrowState p ≠ 1) :=
  ⟨cfpOne, 2, peerOne, fabState, by decide +kernel⟩

theorem framesPassAndMemoryIsLent_met_21 : ∃ (rq : Requester) (s : State),
    s.answers rq 0x018 :=
  ⟨.bezel, grantState, by decide +kernel⟩

theorem framesPassAndMemoryIsLent_met_22 : ∃ (slot : Nat) (q : Peer) (g : Grant) (t0 : Nat) (s : State),
    (mapFind s.fab.peers slot = some q ∧ q.grant = some g ∧ g.reclaim = some t0 ∧ t0 + 5000 + s.rd FAB.RECLAIM_GRACE ≤ s.tick) :=
  ⟨2, { peerOne with grant := some { grantOne with reclaim := some 0 } }, { grantOne with reclaim := some 0 }, 0, { grantState with tick := 10000000, fab := { grantState.fab with peers := [(2, { peerOne with grant := some { grantOne with reclaim := some 0 } })] } }, by decide +kernel⟩

theorem framesPassAndMemoryIsLent_met_23 : ∃ (slot off a : Nat) (data : List Byte) (q : Peer) (g : Grant) (s : State),
    (s.fabUp = true ∧ slot < 64 ∧ mapFind s.fab.peers slot = some q ∧ q.grant = some g ∧ g.places = [a] ∧ off + data.length ≤ tileSize) :=
  ⟨2, 32764, casketBase, [1, 2, 3, 4], { peerOne with grant := some grantOne }, grantOne, grantState, by decide +kernel⟩

theorem framesPassAndMemoryIsLent_met_24 : ∃ (slot off : Nat) (data : List Byte) (q : Peer) (s : State),
    (s.fabUp = true ∧ slot < 64 ∧ mapFind s.fab.peers slot = some q ∧ q.grant = none) :=
  ⟨2, 0, [1], peerOne, fabState, by decide +kernel⟩

theorem framesPassAndMemoryIsLent_met_25 : ∃ (slot : Nat) (q : Peer) (s : State),
    mapFind s.fab.peers slot = some q :=
  ⟨2, peerOne, fabState, by decide +kernel⟩

/-! ### The ports -/

theorem hostTransfersResetsAndFlash_met_1 : ∃ (rid : Nat) (st : BusStatus) (data : List Byte) (s : State),
    (rid < 2 ^ 32 ∧ (s.req rid = none ∨ (s.req rid).map (·.hostOut) = some false)) :=
  ⟨5, .ok, [], awakeState, by decide⟩

theorem hostTransfersResetsAndFlash_met_2 : ∃ (rid : Nat) (r : Req) (st : BusStatus) (data : List Byte) (s : State),
    (rid < 2 ^ 32 ∧ s.req rid = some r ∧ r.hostOut = true ∧ r.op ≠ opDmaOut ∧ st ≠ .ok ∧ s.on HIF.INJ_DMA_ERR = false) :=
  ⟨7, dmaReq 5, .ur, [], reqState (dmaReq 5), by decide +kernel⟩

theorem hostTransfersResetsAndFlash_met_3 : ∃ (rid : Nat) (r : Req) (data : List Byte) (s : State),
    (rid < 2 ^ 32 ∧ s.req rid = some r ∧ r.hostOut = true ∧ r.op = opDmaIn ∧ s.on HIF.INJ_DMA_ERR = false) ∧
    (r.buf ++ data).length < r.count :=
  ⟨7, dmaReq 5, [1], reqState (dmaReq 5), by decide +kernel⟩

theorem hostTransfersResetsAndFlash_met_4 : ∃ (rid a : Nat) (r : Req) (data : List Byte) (s : State),
    (rid < 2 ^ 32 ∧ s.req rid = some r ∧ r.hostOut = true ∧ r.op = opDmaIn ∧ s.on HIF.INJ_DMA_ERR = false) ∧
    (r.count ≤ (r.buf ++ data).length ∧ r.objA = 2 ^ 64 + a ∧ a < 2 ^ 64) :=
  ⟨7, casketBase, dmaReq 5, [1, 2, 3, 4], reqState (dmaReq 5), by decide +kernel⟩

theorem hostTransfersResetsAndFlash_met_5 : ∃ (rid a : Nat) (r : Req) (data : List Byte) (s : State),
    (rid < 2 ^ 32 ∧ s.req rid = some r ∧ r.hostOut = true ∧ r.op = opDmaOut ∧ s.on HIF.INJ_DMA_ERR = false) ∧
    (r.objA = 2 ^ 64 + a ∧ a < 2 ^ 64 ∧ inCasket a r.count = true ∧ 0 < r.count ∧ s.rd CK_CTRL.INJ_ECC = 0 ∧ r.guestRead = none) :=
  ⟨7, casketBase, dmaReq 6, [], reqState (dmaReq 6), by decide +kernel⟩

theorem hostTransfersResetsAndFlash_met_6 : ∃ (w r : Nat) (st : BusStatus) (data : List Byte) (s : State),
    (w < 64 ∧ r < 4 ∧ s.on (WS.RING_CFG_LOC w r) = true ∧ st ≠ .ok ∧ 0 < s.ringPending w r) :=
  ⟨1, 0, .ca, [], pendingState.wr (WS.RING_CFG_LOC 1 0) 1, by decide +kernel⟩

theorem hostTransfersResetsAndFlash_met_8 : ∃ (w off : Nat) (s : State),
    (w < 64 ∧ off < 0x1000 ∧ off % 4 = 0 ∧ (off < 0x180 ∨ 0x1D0 ≤ off) ∧ pagePresent s.part (pgWs w) = true) :=
  ⟨1, 0x144, pendingState, by decide +kernel⟩

theorem hostTransfersResetsAndFlash_met_9 : ∃ (s : State),
    (s.boot.linkUp = true ∧ (s.boot.perstHigh = false ∨ s.stage ≠ 8)) :=
  ⟨{ hostState.setBoot { hostState.boot with perstHigh := false } with tick := 3 }, by decide +kernel⟩

theorem hostTransfersResetsAndFlash_met_11 : ∃ (s : State),
    (s.boot.linkUp = true ∧ s.boot.perstHigh = true ∧ s.stage = 8 ∧ s.sch.reqs = [] ∧ s.ck.fetches = []) :=
  ⟨hostState.setBoot { hostState.boot with perstHigh := true }, by decide +kernel⟩

theorem hostTransfersResetsAndFlash_met_12 : ∃ (rq : Requester) (found : Option NvmeFound) (s : State),
    s.answers rq 0x091 :=
  ⟨.bezel, none, awakeState, by decide⟩

theorem hostTransfersResetsAndFlash_met_13 : ∃ (fid : Nat) (st : BusStatus) (data : List Byte) (s : State),
    mapFind s.ck.fetches fid = none :=
  ⟨5, .ok, [], awakeState, by decide⟩

theorem hostTransfersResetsAndFlash_met_14 : ∃ (fid c : Nat) (f : Fetch) (data : List Byte) (s : State),
    (mapFind s.ck.fetches fid = some f ∧ s.flashFetch f = true ∧ s.rd NVP.NVP_STAT_CTRL_STATE = 2 ∧ s.on NVP.INJ_TIMEOUT = false) :=
  ⟨2, 5, fetchOne flashBase 3, [], nvmeState, by decide +kernel⟩

theorem hostTransfersResetsAndFlash_met_15 : ∃ (fid : Nat) (f : Fetch) (st : BusStatus) (data : List Byte) (s : State),
    (mapFind s.ck.fetches fid = some f ∧ s.flashFetch f = true ∧ s.rd NVP.NVP_STAT_CTRL_STATE = 2 ∧ s.on NVP.INJ_TIMEOUT = true) :=
  ⟨2, fetchOne flashBase 3, .ok, [], nvmeState.wr NVP.INJ_TIMEOUT 1, by decide +kernel⟩

theorem hostTransfersResetsAndFlash_met_16 : ∃ (fid : Nat) (f : Fetch) (s : State),
    (mapFind s.ck.fetches fid = some f ∧ s.flashFetch f = true ∧ s.rd NVP.NVP_STAT_CTRL_STATE = 2) :=
  ⟨2, fetchOne flashBase 3, nvmeState, by decide +kernel⟩

theorem hostTransfersResetsAndFlash_met_17 : ∃ (n : Nat) (s : State),
    (n = s.io.nvpTimeouts + 1) :=
  ⟨3, nvmeState.setIo { nvmeState.io with nvpTimeouts := 2 }, by decide +kernel⟩

theorem hostTransfersResetsAndFlash_met_19 : ∃ (rq : Requester) (s : State),
    (s.answers rq 0x091 ∧ s.io.nvpWrite.isSome = true) :=
  ⟨.bezel, nvmeState.setIo { nvmeState.io with nvpWrite := some default }, by decide +kernel⟩

theorem hostTransfersResetsAndFlash_met_20 : ∃ (rq : Requester) (src dst n : Nat) (u s : State),
    (s.answers rq 0x091 ∧ s.io.nvpWrite = none ∧ u = (s.reached 0x091) ∧ u.rd64 NVP.WR_SRC_LO NVP.WR_SRC_HI / tileSize * tileSize = src ∧ u.rd64 NVP.WR_DST_LO NVP.WR_DST_HI = dst) ∧
    (u.rd NVP.WR_TILES = n ∧ 1 ≤ n ∧ n ≤ 256) :=
  ⟨.bezel, casketBase, 0, 1, wrState, wrState, by decide +kernel⟩

theorem hostTransfersResetsAndFlash_met_21 : ∃ (st : BusStatus) (n : Nat) (o : FlashOp) (s : State),
    (s.io.nvpWrite = some o ∧ s.on NVP.INJ_TIMEOUT = false ∧ st = .ok ∧ s.ck.slots = [] ∧ o.len = n * tileSize) ∧
    (inCasket o.casket o.len = true ∧ s.rd (storeOf o.casket).1 = 0) :=
  ⟨.ok, 1, tileWrite, wrState.setIo { wrState.io with nvpWrite := some tileWrite }, by decide +kernel⟩

theorem hostTransfersResetsAndFlash_met_22 : ∃ (c : Nat) (o : FlashOp) (s : State),
    (s.io.nvpWrite = some o ∧ s.on NVP.INJ_TIMEOUT = false ∧ s.ck.slots = []) :=
  ⟨5, tileWrite, wrState.setIo { wrState.io with nvpWrite := some tileWrite }, by decide +kernel⟩

theorem hostTransfersResetsAndFlash_met_23 : ∃ (o : FlashOp) (s : State),
    (s.io.nvpWrite = some o ∧ s.ck.slots = [] ∧ s.io.nvpTimeouts = 0) :=
  ⟨tileWrite, wrState.setIo { wrState.io with nvpWrite := some tileWrite }, by decide +kernel⟩

theorem hostTransfersResetsAndFlash_met_24 : ∃ (st : BusStatus) (s : State),
    s.io.nvpWrite = none :=
  ⟨.ok, awakeState, by decide⟩

theorem camerasSensorsClocksAndBootFlash_met_1 : ∃ (n vc num : Nat) (s : State),
    ((s.csiUp n = false ∨ s.clockOn (pgCsi n) = false) ∧ s.csiAsleep n = false) :=
  ⟨0, 15, 9, awakeState, by decide⟩

theorem camerasSensorsClocksAndBootFlash_met_2 : ∃ (n vc num : Nat) (s : State),
    (s.csiUp n = true ∧ s.clockOn (pgCsi n) = true ∧ s.streamsOf n vc = []) :=
  ⟨0, 3, 9, csiState, by decide +kernel⟩

theorem camerasSensorsClocksAndBootFlash_met_3 : ∃ (n vc num k : Nat) (s : State),
    (s.csiUp n = true ∧ s.clockOn (pgCsi n) = true ∧ s.streamsOf n vc = [k]) :=
  ⟨0, 0, 9, 0, csiState, by decide +kernel⟩

theorem camerasSensorsClocksAndBootFlash_met_4 : ∃ (n vc num k : Nat) (s : State),
    ((s.csiUp n = false ∨ s.clockOn (pgCsi n) = false) ∧ s.csiAsleep n = true ∧ s.streamsOf n vc = [k]) :=
  ⟨0, 0, 9, 0, ((csiState.setBlk (pgCsi 0) { blockIn .off with cause := causePower }).wr (HDR.BLK_CTRL_ENABLE (pgCsi 0)) 1).wr BZ_PM.PM_STATE_CUR 2, by decide⟩

theorem camerasSensorsClocksAndBootFlash_met_5 : ∃ (n k vc num i at_ : Nat) (s : State),
    (mapFind s.io.capture (4 * n + k) = none ∧ n < 8 ∧ k < 4 ∧ i = s.rd (CSI.NEXT n k) % s.strBufs n k) :=
  ⟨0, 0, 0, 9, 0, 5, csiState, by decide +kernel⟩

theorem camerasSensorsClocksAndBootFlash_met_6 : ∃ (n vc dt : Nat) (hdr ecc crc : Bool) (px : List Nat) (s : State),
    (s.csiTakes n = true ∧ s.clockOn (pgCsi n) = true ∧ (hdr = false ∨ dtShape dt = none)) :=
  ⟨0, 0, 0x2A, false, false, true, [1], csiState, by decide +kernel⟩

theorem camerasSensorsClocksAndBootFlash_met_7 : ∃ (n vc dt k : Nat) (ecc crc : Bool) (px : List Nat) (s : State),
    (s.csiTakes n = true ∧ s.clockOn (pgCsi n) = true ∧ n < 8 ∧ (dtShape dt).isSome = true ∧ s.streamsOf n vc = [k] ∧ s.rd (CSI.STR_CFG_DT n k) = dt ∧ s.on (CSI.INJ_CRC n) = false) :=
  ⟨0, 0, 0x2A, 0, false, true, [1], csiState, by decide +kernel⟩

theorem camerasSensorsClocksAndBootFlash_met_8 : ∃ (n vc : Nat) (s : State),
    (s.csiTakes n = false ∨ s.clockOn (pgCsi n) = false) :=
  ⟨1, 0, csiState, by decide +kernel⟩

theorem camerasSensorsClocksAndBootFlash_met_9 : ∃ (n k flags : Nat) (px : List Nat) (c : Capture) (s : State),
    (mapFind s.io.capture (4 * n + k) = some c ∧ s.rd (CSI.FRAME_SIZE_HEIGHT n k) ≤ c.lines) :=
  ⟨0, 0, 0, [1], capOne, (csiState.wr (CSI.FRAME_SIZE_HEIGHT 0 0) 1).setCapture 0 0 (some capOne), by decide +kernel⟩

theorem camerasSensorsClocksAndBootFlash_met_10 : ∃ (n vc : Nat) (s : State),
    s.io.capture = [] :=
  ⟨0, 0, csiState, by decide⟩

theorem camerasSensorsClocksAndBootFlash_met_11 : ∃ (n k vc : Nat) (c : Capture) (s : State),
    (s.io.capture = [(4 * n + k, c)] ∧ k < 4 ∧ c.vc = vc ∧ n < 8) :=
  ⟨0, 0, 0, capOne, csiState.setCapture 0 0 (some capOne), by decide +kernel⟩

theorem camerasSensorsClocksAndBootFlash_met_12 : ∃ (rq : Requester) (n k : Nat) (s : State),
    (n < 8 ∧ k < 4 ∧ s.answers rq (pgCsi n)) :=
  ⟨.bezel, 0, 1, csiState, by decide +kernel⟩

theorem camerasSensorsClocksAndBootFlash_met_13 : ∃ (p n c : Nat) (l : List Nat) (rising : Bool) (s : State),
    (p < 4 ∧ n < 1000 ∧ c < 4 ∧ (s.bst 0x09A).up = true ∧ s.clockOn 0x09A = true ∧ s.on (SPM.PORT_CFG_EN p) = true ∧ s.on (SPM.PORT_CFG_DRDY_EN p) = true) ∧
    (s.on (SPM.PORT_CFG_DRDY_POL p) = rising) :=
  ⟨0, 999, 2, [], true, spmState, by decide +kernel⟩

theorem camerasSensorsClocksAndBootFlash_met_14 : ∃ (p n : Nat) (rising : Bool) (s : State),
    (4 ≤ p ∨ 1000 ≤ n ∨ (s.bst 0x09A).up = false ∨ s.clockOn 0x09A = false ∨ s.on (SPM.PORT_CFG_EN p) = false ∨ s.on (SPM.PORT_CFG_DRDY_EN p) = false) :=
  ⟨0, 0, true, awakeState, by decide⟩

theorem camerasSensorsClocksAndBootFlash_met_15 : ∃ (p c : Nat) (b : List Byte) (s : State),
    (p < 4 ∧ c < 4 ∧ mapFind s.io.spmList p = some [c] ∧ s.on (SPM.PORT_CFG_EN p) = true) :=
  ⟨0, 2, [1, 2, 3], spmState.setIo { spmState.io with spmList := [(0, [2])] }, by decide +kernel⟩

theorem camerasSensorsClocksAndBootFlash_met_16 : ∃ (p c : Nat) (b : List Byte) (s : State),
    mapFind s.io.spmList p = none :=
  ⟨0, 2, [], spmState, by decide⟩

theorem camerasSensorsClocksAndBootFlash_met_17 : ∃ (rq : Requester) (p cs len : Nat) (s : State),
    (p < 4 ∧ s.answers rq 0x09A ∧ cs < 4 ∧ len < 8) :=
  ⟨.bezel, 0, 3, 7, spmState, by decide +kernel⟩

theorem camerasSensorsClocksAndBootFlash_met_18 : ∃ (p : Nat) (b : List Byte) (s : State),
    (p < 4 ∧ b.length = s.rd (SPM.XFER_LEN p) + 1) :=
  ⟨0, [7], spmState, by decide⟩

theorem camerasSensorsClocksAndBootFlash_met_19 : ∃ (rq : Requester) (s : State),
    (s.answers rq 0x09A ∧ (s.reached 0x09A).unlocked 0x09A = false) :=
  ⟨.bezel, spmState, by decide +kernel⟩

theorem camerasSensorsClocksAndBootFlash_met_20 : ∃ (rq : Requester) (s : State),
    (s.answers rq 0x09A ∧ (s.reached 0x09A).unlocked 0x09A = true) :=
  ⟨.bezel, unlockedSpm, by decide +kernel⟩

theorem camerasSensorsClocksAndBootFlash_met_21 : ∃ (op a n : Nat) (s : State),
    (s.io.bspi = none ∧ (s.bst 0x09A).up = true ∧ a = s.rd SPM.BSPI_FLASH_ADDR ∧ n = s.rd SPM.BSPI_LEN ∧ n ≤ slotSize) :=
  ⟨1, 0x800000, 0, spmState.wr SPM.BSPI_FLASH_ADDR 0x800000, by decide +kernel⟩

theorem camerasSensorsClocksAndBootFlash_met_22 : ∃ (o : FlashOp) (s : State),
    (s.io.bspi = some o ∧ o.op < 3 ∧ (o.op = 0 → inCasket o.casket o.len = true ∧ o.len < 32768 ∧ o.casket % 32768 = 0)) ∧
    ((o.op = 1 → inCasket o.casket o.len = true ∧ s.rd (storeOf o.casket).1 = 0)) :=
  ⟨{ op := 1, flash := 256, casket := casketBase, len := 2, since := 0 }, spmState.setIo { spmState.io with bspi := some { op := 1, flash := 256, casket := casketBase, len := 2, since := 0 } }, by decide +kernel⟩

theorem camerasSensorsClocksAndBootFlash_met_23 : ∃ (b v : Bool) (s : State),
    s.io.bspi = none :=
  ⟨true, true, awakeState, by decide⟩

theorem camerasSensorsClocksAndBootFlash_met_25 : ∃ (n : Nat) (s : State),
    (n < 16 ∧ s.rd (SDM.IN_CFG_SEL n) ≠ 0 ∧ s.bitOn SDM.CLK_FAULT n = false) :=
  ⟨15, awakeState.wr (SDM.IN_CFG_SEL 15) 2, by decide +kernel⟩

theorem camerasSensorsClocksAndBootFlash_met_26 : ∃ (rq : Requester) (x v : Nat) (s : State),
    (s.answers rq 0x09B ∧ x < 2 ∧ v < 2 ^ 32) :=
  ⟨.bezel, 1, 20000000, awakeState, by decide⟩

theorem managementFramesAndTestAccess_met_1 : ∃ (s : State),
    (s.io.pinsFrom = 0) :=
  ⟨awakeState, by decide⟩

theorem managementFramesAndTestAccess_met_2 : ∃ (i c : Nat),
    (i < 4) :=
  ⟨3, 3, by decide⟩

theorem managementFramesAndTestAccess_met_3 : ∃ (p : Pin) (l : Level) (s : State),
    (p.scanned = true ∧ s.drives p = some l) :=
  ⟨.bootDone, .high, awakeState, by decide⟩

theorem managementFramesAndTestAccess_met_4 : ∃ (addr n wait : Nat) (words : List Word) (s : State),
    s.io.mspiIdle = true :=
  ⟨0, 1, 0, [], awakeState.setIo { awakeState.io with mspiIdle := true }, by decide⟩

theorem managementFramesAndTestAccess_met_5 : ∃ (addr n wait : Nat) (s : State),
    (s.io.mspiIdle = false ∧ 1 ≤ n ∧ n ≤ 16 ∧ max 1 (s.rd MSPI.WAIT_MAX) < wait) :=
  ⟨0, 16, 1000000, awakeState, by decide⟩

theorem managementFramesAndTestAccess_met_6 : ∃ (addr wait : Nat) (s : State),
    (s.io.mspiIdle = false ∧ wait ≤ max 1 (s.rd MSPI.WAIT_MAX)) :=
  ⟨0x1100, 0, awakeState, by decide⟩

theorem managementFramesAndTestAccess_met_7 : ∃ (addr n wait : Nat) (s : State),
    (s.io.mspiIdle = false ∧ wait ≤ max 1 (s.rd MSPI.WAIT_MAX) ∧ 1 ≤ n ∧ n ≤ 16) :=
  ⟨0x1100, 16, 0, awakeState, by decide⟩

theorem managementFramesAndTestAccess_met_8 : ∃ (addr : Nat) (w : Word) (words : List Word) (s : State),
    s.io.mspiIdle = false :=
  ⟨0x301C, 7, [1, 2], awakeState, by decide⟩

theorem managementFramesAndTestAccess_met_11 : ∃ (s : State),
    (s.io.mspiIdle = false) :=
  ⟨State.reset, by decide⟩

theorem managementFramesAndTestAccess_met_12 : ∃ (s : State),
    (s.io.mspiIdle = true) :=
  ⟨{ State.reset with io := { State.reset.io with mspiIdle := true } }, by decide⟩

theorem managementFramesAndTestAccess_met_13 : ∃ (w : Bool) (off : Nat) (data : Word) (s : State),
    s.on TAP.TAP_REG_DIS = true :=
  ⟨true, 0x301C, 7, awakeState.wr TAP.TAP_REG_DIS 1, by decide⟩

theorem managementFramesAndTestAccess_met_14 : ∃ (off : Nat) (data : Word) (u s : State),
    (s.on TAP.TAP_REG_DIS = false ∧ u = (s.inc TAP.REG_ACCESS_CNT).setIo { s.io with tapIr := 0x10, pinsFrom := 0 }) :=
  ⟨0x301C, 7, (awakeState.inc TAP.REG_ACCESS_CNT).setIo { awakeState.io with tapIr := 0x10, pinsFrom := 0 }, awakeState, by decide⟩

theorem managementFramesAndTestAccess_met_17 : ∃ (die key : Nat) (shift : List Bool) (s : State),
    (s.chainDie die = some key) :=
  ⟨0, 0, [], awakeState.setIo { awakeState.io with chain := 3 }, by decide +kernel⟩

theorem managementFramesAndTestAccess_met_18 : ∃ (f : Nat) (sent seen : List Bool) (s : State),
    (f < 4 ∧ s.hasFacet f = true ∧ s.io.chain = f + 1 ∧ mapFind s.io.dwr 0 = some sent) :=
  ⟨0, [true, false], [true], awakeState.setIo { awakeState.io with chain := 1, dwr := [(0, [true, false])] }, by decide⟩

theorem managementFramesAndTestAccess_met_19 : ∃ (die : Nat) (shift : List Bool) (s : State),
    (s.chainDie die = none) :=
  ⟨2, [true], awakeState, by decide⟩

theorem positionThreeOfThePmx7241ReadsZero_met : ∃ (rq : Requester) (addr page off n v : Nat) (s : State),
    (s.part = .pmx7241 ∧ target rq addr = some (page, off) ∧ 0x058 ≤ page ∧ page ≤ 0x05F) ∧
    ((n = 4 ∧ addr % 4 = 0) ∨ (n = 8 ∧ addr % 8 = 0)) :=
  ⟨.bezel, 0x58100, 0x058, 0x100, 8, 7, { awakeState with part := .pmx7241 }, by decide⟩

theorem facetTilesAreCheckedAndExchanged_met_1 : ∃ (rid f core tiles set out fmt : Nat) (tp red vc : Bool) (ins prods : List (Nat × Nat)) (rsd : Option Nat) (run : TileRun) (r : Req) (s : State),
    (s.tileDue rid f core run.work = true) ∧
    ((s.linkAnswered rid f).running rid = some (r, .phase set tiles tp red ins prods out fmt rsd)) :=
  ⟨7, 0, 7, 1, 1, 8, 0x0A, false, false, false, [], [(0x0C, 0x0C)], none, tileOk, facetReq, facetState facetReq, by decide +kernel⟩


theorem facetTilesAreCheckedAndExchanged_met_2 : ∃ (rid f core tiles set out fmt : Nat) (tp red vc : Bool) (prods : List (Nat × Nat)) (rsd : Option Nat) (run : TileRun) (r : Req) (s : State),
    (s.tileDue rid f core run.work = true ∧ (s.linkAnswered rid f).running rid = some (r, .phase set tiles tp red [] prods out fmt rsd)) ∧
    (workIsProduct run.work = true ∧ r.slot = none ∧ s.on (FCT6.INJ_TC_EN f) = false) ∧
    ((s.on (FCT1.ABFT_DIS f) = false ∨ s.sentinel = true) ∧ tsNonfinite (runSums run) = false) ∧
    (tsOk (((s.linkAnswered rid f).syncVc f).abftTol f) (runSums run) = true) :=
  ⟨7, 0, 7, 1, 1, 8, 0x0A, false, false, false, [(0x0C, 0x0C)], none, tileOk, facetReq, facetState facetReq, by decide +kernel⟩

theorem facetTilesAreCheckedAndExchanged_met_3 : ∃ (rid f core tiles set out fmt : Nat) (tp red vc : Bool) (prods : List (Nat × Nat)) (rsd : Option Nat) (run : TileRun) (r : Req) (s : State),
    (s.tileDue rid f core run.work = true ∧ (s.linkAnswered rid f).running rid = some (r, .phase set tiles tp red [] prods out fmt rsd)) ∧
    (workIsProduct run.work = true ∧ r.slot = none ∧ s.on (FCT6.INJ_TC_EN f) = false) ∧
    ((s.on (FCT1.ABFT_DIS f) = false ∨ s.sentinel = true)) ∧
    (tsNonfinite (runSums run) = true ∨ tsOk (((s.linkAnswered rid f).syncVc f).abftTol f) (runSums run) = false) :=
  ⟨7, 0, 7, 1, 1, 8, 0x0A, false, false, false, [(0x0C, 0x0C)], none, tileBad, facetReq, facetState facetReq, by decide +kernel⟩

theorem facetTilesAreCheckedAndExchanged_met_4 : ∃ (rid f core tiles set out fmt : Nat) (tp red : Bool) (prods : List (Nat × Nat)) (rsd : Option Nat) (run : TileRun) (r : Req) (s : State),
    (s.tileDue rid f core run.work = true ∧ (s.linkAnswered rid f).running rid = some (r, .phase set tiles tp red [] prods out fmt rsd)) ∧
    (workIsProduct run.work = false ∧ r.slot = none ∧ s.on (FCT0.VC_PAIRED f) = true ∧ s.on (FCT6.INJ_VC_EN f) = false) :=
  ⟨7, 0, 7, 1, 1, 8, 0x0A, false, false, [(0x0C, 0x0C)], none, vecTile, facetReq, (facetState facetReq).wr (FCT0.VC_PAIRED 0) 1, by decide +kernel⟩

theorem facetTilesAreCheckedAndExchanged_met_5 : ∃ (rid f core tiles set out fmt : Nat) (tp red vc : Bool) (prods : List (Nat × Nat)) (rsd : Option Nat) (run : TileRun) (r : Req) (s : State),
    (s.tileDue rid f core run.work = true ∧ (s.linkAnswered rid f).running rid = some (r, .phase set tiles tp red [] prods out fmt rsd)) ∧
    (workIsProduct run.work = false ∧ r.slot = none ∧ s.on (FCT0.VC_PAIRED f) = false) :=
  ⟨7, 0, 7, 1, 1, 8, 0x0A, false, false, false, [(0x0C, 0x0C)], none, vecTile, facetReq, facetState facetReq, by decide +kernel⟩

theorem facetTilesAreCheckedAndExchanged_met_6 : ∃ (rid f set tiles out fmt : Nat) (tp : Bool) (ins prods : List (Nat × Nat)) (rsd : Option Nat) (sums : TileSums) (r : Req) (s : State),
    (s.running rid = some (r, .phase set tiles tp true ins prods out fmt rsd) ∧ tiles ≠ 0) :=
  ⟨7, 0, 1, 1, 8, 0x0A, true, [], [(0x0C, 0x0C)], none, sumsOk, reduceReq, facetState reduceReq, by decide +kernel⟩

theorem facetTilesAreCheckedAndExchanged_met_7 : ∃ (rid f core tiles set out fmt : Nat) (tp red : Bool) (ins prods : List (Nat × Nat)) (rsd : Option Nat) (faults : List SumFault) (a : Abft) (r : Req)
      (s : State),
    (s.running rid = some (r, .phase set tiles tp red ins prods out fmt rsd) ∧ r.abft = some a ∧ a.f = f ∧ a.mayRecompute r = true ∧ s.training f = false) ∧
    (s.recomputeCore f a.core core = true ∧ a.both = false) :=
  ⟨7, 0, 6, 1, 1, 8, 0x0A, false, false, [], [(0x0C, 0x0C)], none, [], abftOne, abftReq, facetState abftReq, by decide +kernel⟩

theorem facetTilesAreCheckedAndExchanged_met_8 : ∃ (rid set tiles out fmt : Nat) (tp : Bool) (ins prods : List (Nat × Nat)) (rsd : Option Nat) (p : TileSums) (parts : List TileSums) (r : Req) (s : State),
    (s.running rid = some (r, .phase set tiles tp true ins prods out fmt rsd)) ∧
    ((setBitsBelow 4 set).filterMap (fun f => (r.partials.find? (fun p => p.1 == f)).map (·.2)) = p :: parts) ∧
    ((p :: parts).length = (setBitsBelow 4 set).length ∧ s.sidesUp set = true) ∧
    ((p :: parts).all (fun q => q.rows.map List.length == p.rows.map List.length && q.layout == p.layout) = true) :=
  ⟨7, 1, 1, 8, 0x0A, true, [], [(0x0C, 0x0C)], none, sumsOk, [], exchReq, facetState exchReq, by decide +kernel⟩
end

/-! Accesses to register words: reads and writes of absent pages, the error counters, and the statements of the scope chapter. -/

namespace Sys2Proof.Machine

/-! ### Where an access goes (R72) -/

theorem wordsTouched_four {addr : Nat} (h : addr % 4 = 0) : wordsTouched addr 4 = [addr] := by
  have hn : (addr + 4 - 1) / 4 - addr / 4 + 1 = 1 := by omega
  rw [wordsTouched, if_neg (by omega), hn]
  simp only [List.range_one, List.map_cons, List.map_nil, List.cons.injEq, and_true]
  omega

theorem wordsTouched_eight {addr : Nat} (h : addr % 8 = 0) : wordsTouched addr 8 = [addr, addr + 4] := by
  have hn : (addr + 8 - 1) / 4 - addr / 4 + 1 = 2 := by omega
  rw [wordsTouched, if_neg (by omega), hn]
  simp only [List.range_succ, List.range_zero, List.nil_append, List.cons_append, List.map_cons, List.map_nil, List.cons.injEq, and_true]
  omega

/-- The two words of an aligned 64-bit access lie on one page. -/
theorem target_high_word {rq : Requester} {addr page off : Nat} (ht : target rq addr = some (page, off)) (h : addr % 8 = 0) :
    target rq (addr + 4) = some (page, off + 4) := by
  cases rq <;> simp only [target, Option.ite_none_right_eq_some, Option.some.injEq, Prod.mk.injEq] at ht ⊢ <;> omega

/-! ### Reads (R62, R72) -/

/-- Of a word that lies inside the bytes asked for, a read returns all four. -/
theorem readBytes_inside {addr n a : Nat} (v : Nat) (hl : addr ≤ a) (hh : a + 4 ≤ addr + n) :
    ((leBytes 4 v).zipIdx).map (fun x => if addr ≤ a + x.2 ∧ a + x.2 < addr + n then x.1 else 0) = leBytes 4 v := by
  have h0 : addr ≤ a ∧ a < addr + n := by omega
  have h1 : addr ≤ a + 1 ∧ a + 1 < addr + n := by omega
  have h2 : addr ≤ a + 2 ∧ a + 2 < addr + n := by omega
  have h3 : addr ≤ a + 3 ∧ a + 3 < addr + n := by omega
  simp [leBytes, h0, h1, h2, h3]

theorem State.regRead_four (rq : Requester) {addr : Nat} (s : State) (h : addr % 4 = 0) :
    s.regRead rq addr 4 = (leBytes 4 (s.readWord rq addr).1, (s.readWord rq addr).2) := by
  simp only [State.regRead, wordsTouched_four h, List.foldl_cons, List.foldl_nil, List.nil_append,
    readBytes_inside _ (Nat.le_refl addr) (Nat.le_refl (addr + 4))]

theorem State.regRead_eight (rq : Requester) {addr : Nat} (s : State) (h : addr % 8 = 0) :
    s.regRead rq addr 8 =
      (leBytes 4 (s.readWord rq addr).1 ++ leBytes 4 ((s.readWord rq addr).2.readWord rq (addr + 4)).1,
        ((s.readWord rq addr).2.readWord rq (addr + 4)).2) := by
  simp only [State.regRead, wordsTouched_eight h, List.foldl_cons, List.foldl_nil, List.nil_append,
    readBytes_inside (n := 8) _ (Nat.le_refl addr) (show addr + 4 ≤ addr + 8 by omega),
    readBytes_inside (n := 8) _ (show addr ≤ addr + 4 by omega) (show addr + 4 + 4 ≤ addr + 8 by omega)]

/-- A word of a page that does not answer reads 0 (R62). -/
theorem State.readWord_nothing {rq : Requester} {addr page off : Nat} {s : State} (ht : target rq addr = some (page, off))
    (hs : s.serve page = .nothing) : s.readWord rq addr = (0, s) := by
  simp [State.readWord, ht, hs]

theorem leBytes_zero (n : Nat) : leBytes n 0 = List.replicate n 0 := by
  induction n with
  | zero => rfl
  | succ n ih => simp [leBytes, ih, List.replicate_succ]

/-- An aligned read of a page that does not answer returns zeros and changes nothing (R62). -/
theorem State.regReadOut_nothing {rq : Requester} {addr page off n : Nat} {s : State}
    (ht : target rq addr = some (page, off)) (hs : s.serve page = .nothing)
    (hn : (n = 4 ∧ addr % 4 = 0) ∨ (n = 8 ∧ addr % 8 = 0)) :
    s.regReadOut rq addr n = s.emit (.read rq (List.replicate n 0) false) := by
  have lo := State.readWord_nothing ht hs
  rcases hn with ⟨rfl, ha⟩ | ⟨rfl, ha⟩
  · simp only [State.regReadOut, State.regRead_four rq s ha, lo, leBytes_zero]
  · have hi := State.readWord_nothing (target_high_word ht ha) hs
    simp only [State.regReadOut, State.regRead_eight rq s ha, lo, hi, leBytes_zero]
    rfl

/-! ### Pages that are absent (R5, R62) -/

theorem State.serve_absent {s : State} {page : Nat} (h : pagePresent s.part page = false) : s.serve page = .nothing := by
  simp [State.serve, h]

/-- A write to an absent page is ignored and counted nowhere (R62). -/
theorem State.access_absent {rq : Requester} {s : State} {page : Nat} (eff : State → State)
    (h : pagePresent s.part page = false) : s.access rq page eff = s := by
  simp [State.access, State.serve_absent h, h]

theorem State.writeWord_absent {rq : Requester} {addr page off : Nat} (v : Nat) {s : State}
    (ht : target rq addr = some (page, off)) (h : pagePresent s.part page = false) (hp : page < 0x100) :
    s.writeWord rq addr v = s := by
  simp [State.writeWord, ht, State.access_absent _ h, Nat.not_le.2 hp]

/-- An aligned write to an absent page below the workspaces' changes nothing. -/
theorem State.regWrite_absent {rq : Requester} {addr page off n : Nat} (v : Nat) {s : State}
    (ht : target rq addr = some (page, off)) (h : pagePresent s.part page = false) (hp : page < 0x100)
    (hn : (n = 4 ∧ addr % 4 = 0) ∨ (n = 8 ∧ addr % 8 = 0)) : s.regWrite rq addr n v = s := by
  rcases hn with ⟨rfl, ha⟩ | ⟨rfl, ha⟩
  · simp [State.regWrite, badWrite, ha, State.writeWord_absent _ ht h hp]
  · simp [State.regWrite, badWrite, ha, ht, State.access_absent _ h, Nat.not_le.2 hp]

/-- The eight pages of Facet 3 are absent on the PMX-7241 (R5). -/
theorem facetThree_absent {page : Nat} (hl : 0x058 ≤ page) (hh : page ≤ 0x05F) : pagePresent .pmx7241 page = false := by
  simp [pagePresent, hl, hh]

/-- Settles O60: on the PMX-7241 the pages of Facet 3 are absent, and an absent page reads zeros and ignores writes. -/
theorem positionThreeOfThePmx7241ReadsZero : Obligations.PositionThreeOfThePmx7241ReadsZero := by
  rintro rq addr page off n v s ⟨hpart, ht, hl, hh⟩ hn
  have habs : pagePresent s.part page = false := hpart ▸ facetThree_absent hl hh
  have hread : s.regReadOut rq addr n = s.emit (.read rq (List.replicate n 0) false) :=
    State.regReadOut_nothing ht (State.serve_absent habs) hn
  have hwrite : s.regWrite rq addr n v = s := State.regWrite_absent v ht habs (by omega) hn
  refine ⟨congrArg _ hread, congrArg _ hread, congrArg _ hwrite, congrArg _ hwrite, ?_⟩
  rintro rfl
  exact congrArg _ hwrite

/-! ### The error counters of the header (R15, Table REG-7) -/

/-- The registers of a block stand past the header (R105). -/
theorem kindRows_past_header (k : PageKind) : (kindRows k).all (fun r => decide (0x100 ≤ r.off)) = true := by
  cases k <;> rfl

/-- A word of the header has the fields of Table REG-7 and no other. -/
theorem rowsAt_header {page off : Nat} (hp : (pageKind page).isSome = true) (ho : off < 0x100) :
    rowsAt page off = headerRows.filter (fun r => r.hits off) := by
  obtain ⟨k, hk⟩ := Option.isSome_iff_exists.1 hp
  have hown : (kindRows k).filter (fun r => r.hits off) = [] := by
    refine List.filter_eq_nil_iff.2 fun r hr => ?_
    have := List.all_eq_true.1 (kindRows_past_header k) r hr
    simp only [decide_eq_true_eq] at this
    simp [Row.hits, show ¬ r.off ≤ off by omega]
  simp [rowsAt, pageRows, hk, hown]

/-- The two error counters are words of one RC field (Table REG-7). -/
theorem rowsAt_errCount {page off : Nat} (hp : (pageKind page).isSome = true) (ho : off = 0x038 ∨ off = 0x03C) :
    rowsAt page off = [⟨off, 31, 0, .rc, 0, false, .none, []⟩] := by
  rw [rowsAt_header hp (by omega)]
  rcases ho with rfl | rfl <;> decide

/-- A page that answers is listed in Table REG-4. -/
theorem State.pageKind_of_serve_full {s : State} {page : Nat} (h : s.serve page = .full) : (pageKind page).isSome = true := by
  cases hk : (pageKind page).isSome with
  | true => rfl
  | false =>
    have habs : pagePresent s.part page = false := by simp only [pagePresent, hk, Bool.false_and]
    rw [State.serve_absent habs] at h
    cases h

/-- The error counters are stored words, no views of other state. -/
theorem State.live_errCount (rq : Requester) (page off : Nat) (s : State) (ho : off = 0x038 ∨ off = 0x03C) :
    s.live rq page off = ((s.word page off).toNat, s) := by
  rcases ho with rfl | rfl <;> simp [State.live, State.view]

theorem State.clearRc_errCount {page off : Nat} (s : State) (hp : (pageKind page).isSome = true) (ho : off = 0x038 ∨ off = 0x03C) :
    s.clearRc page off = s.setWord page off 0 := by
  have hput : ∀ w : Word, putBits w.toNat 31 0 0 = 0 := fun w => by
    have := w.isLt
    simp [putBits, bitsOf, Nat.mod_eq_of_lt this]
  simp [State.clearRc, rowsAt_errCount hp ho, hput]

/-- A read of an error counter returns it and leaves it 0 (R15). -/
theorem State.readFull_errCount (rq : Requester) {page off : Nat} (s : State) (hp : (pageKind page).isSome = true)
    (ho : off = 0x038 ∨ off = 0x03C) (h3 : page ≠ 0x003) :
    s.readFull rq page off = ((s.word page off).toNat, s.setWord page off 0) := by
  have hrows := rowsAt_errCount hp ho
  have hpair : pairAt page off = .none := by simp [pairAt, hrows]
  have hrec : ¬(0x028 ≤ off ∧ off ≤ 0x034) := by omega
  simp [State.readFull, wordDefined, hrows, h3, hrec, hpair, State.live_errCount rq page off s ho, State.clearRc_errCount s hp ho]

theorem sameWordsBut_setWord (s : State) (page off : Nat) (w : Word) : sameWordsBut [(page, off)] s (s.setWord page off w) :=
  fun p o h => State.word_setWord_other s page off p o w (h (page, off) (by simp))

/-- Settles O9: a read of an error counter goes to `State.readFull_errCount`, one of a page that does not answer to
`State.regReadOut_nothing`. -/
theorem rcReadReturnsAndClears : Obligations.RcReadReturnsAndClears := by
  refine ⟨?_, ?_⟩
  · rintro rq addr page off s ⟨ht, ⟨-, hfull⟩, ha⟩ ⟨ho, h3⟩
    have hword : s.readWord rq addr = ((s.word page off).toNat, s.setWord page off 0) := by
      simp [State.readWord, ht, hfull, State.readFull_errCount rq s (State.pageKind_of_serve_full hfull) ho h3]
    refine ⟨s.regReadOut rq addr 4, rfl, ?_⟩
    simp only [State.regReadOut, State.regRead_four rq s ha, hword]
    exact ⟨rfl, State.word_setWord s page off 0, sameWordsBut_setWord s page off 0, rfl⟩
  · rintro rq addr page off s ⟨ht, hs, ha⟩
    exact congrArg _ (State.regReadOut_nothing ht hs (Or.inl ⟨rfl, ha⟩))

/-! ### A clear of ERR_UNCORR captures the error that came before it (R106) -/

/-- An access to an always-on page takes effect in the state as it is. -/
theorem State.reached_alwaysOn {s : State} {page : Nat} (h : alwaysOn page = true) : s.reached page = s := by
  simp [State.reached, h]

/-- Where only register words differ, the fault collector is as it was. -/
theorem flt_of_onlyRegs {s t : State} (h : t = { s with regs := t.regs }) : t.flt = s.flt := by
  rw [h]

/-- The device after reset in which DEV has met two uncorrected errors in one tick: the record of the first is captured, that of the
second kept for a clear in the same tick. -/
def twoErrorsState : State := (State.reset.capture 1 1 0x000 0 0 0).capture 1 1 0x000 0 8 0

theorem twoErrorsState_missed : twoErrorsState.flt.missed = [(0x000, [0x101, 0, 8, 0])] := by decide +kernel

/-- The write that clears ERR_UNCORR takes the second record out of the fault collector. -/
theorem twoErrorsState_cleared : (twoErrorsState.regWrite .bezel 0x020 4 0x40000000).flt.missed = [] := by decide +kernel

/-- Refutes O8: a write of IRQ_STAT that clears ERR_UNCORR re-arms the capture (R106), and so changes more than the word written
where an error of this tick waits for it: ERR_REC takes that error, and the fault collector gives it up. -/
theorem not_registerWriteByAccessCode : ¬ Obligations.RegisterWriteByAccessCode := by
  rintro ⟨-, hstat, -⟩
  have hans : target .bezel 0x020 = some (0x000, 0x020) ∧ twoErrorsState.answers .bezel 0x000 ∧ 0x020 % 4 = 0 := by decide +kernel
  obtain ⟨t, ht, -, -, hframe⟩ := hstat .bezel 0x020 0x000 0x40000000 twoErrorsState hans
  have hrun : .next (twoErrorsState.regWrite .bezel 0x020 4 0x40000000) = Host.Outcome.next t := ht
  have hflt : t.flt = twoErrorsState.flt := by
    rw [flt_of_onlyRegs hframe, State.reached_alwaysOn rfl]
  have hgone : t.flt.missed = [] := Host.Outcome.next.inj hrun ▸ twoErrorsState_cleared
  rw [hflt, twoErrorsState_missed] at hgone
  cases hgone

/-! ### A record raises an interrupt bit only where IRQ_RAW rises (R105) -/

/-- A request of workspace 1 that is done at the end of this tick; it claims no unit and keeps no object. -/
def doneReq : Req :=
  { (default : Req) with ws := 1, ends := some { rep := none, outcome := ocDone, cause := 0, endTick := none } }

/-- The device after reset with that request, number 7. Bit 0 of the workspace's IRQ_RAW has been set in this tick, and a SOFT_RESET of
its page has cleared IRQ_STAT and left IRQ_RAW (R85); its completion ring and its one grant lie at the Casket's base. -/
def raisedState : State :=
  let s := (State.reset.raiseIrq (pgWs 1) 0).resetRegs (pgWs 1)
  let s := ((s.wr64 (WS.GRANT_BASE_LO 1 0) (WS.GRANT_BASE_HI 1 0) casketBase).wr (WS.GRANT_SIZE 1 0) 1).wr (WS.GRANT_CTRL_EN 1 0) 1
  let s := s.wr64 (WS.CPL_BASE_LO 1) (WS.CPL_BASE_HI 1) casketBase
  s.setSch { s.sch with reqs := [(7, doneReq)] }

/-- Its record is written while bit 0 of IRQ_RAW stands, so that nothing rises and IRQ_STAT keeps its 0. -/
theorem raisedState_finish_irqStat : ((raisedState.finish 7).rd (HDR.IRQ_STAT (pgWs 1))).testBit 0 = false := by decide +kernel

/-- Refutes O33: IRQ_STAT takes bit 0 where IRQ_RAW rises (R105, R668), and not from a record that is written while that bit of IRQ_RAW
is already set. -/
theorem not_requestsEndOnceWithARecord : ¬ Obligations.RequestsEndOnceWithARecord := by
  rintro ⟨-, -, hfinish, -⟩
  obtain ⟨-, -, -, -, hirq⟩ :=
    hfinish 7 doneReq { rep := none, outcome := ocDone, cause := 0, endTick := none } raisedState (by decide +kernel) (by decide +kernel)
  exact Bool.false_ne_true (raisedState_finish_irqStat ▸ hirq)

/-! ### A FRAME past its deadline waits for no dispatch (R309) -/

/-- A FRAME request for ISE 0 with a deadline. -/
def iseFrame (deadline : Nat) : Req := { (default : Req) with op := opRun, deadline := deadline, est := [(12, 1)] }

/-- Tick 4, with two FRAME requests waiting for ISE 0: number 1, whose deadline was tick 3 and which DEADLINE_MISSED has ended, and
number 2, whose deadline is tick 9. -/
def missedFrameState : State :=
  let s : State := { State.reset with tick := 4, sch := { State.reset.sch with reqs := [(1, iseFrame 3), (2, iseFrame 9)] } }
  s.endReq 1 ocDeadlineMissed 0

/-- Number 1 as DEADLINE_MISSED leaves it: it stands until the end of the tick. -/
def missedFrame : Req :=
  { iseFrame 3 with ends := some { rep := none, outcome := ocDeadlineMissed, cause := 0, endTick := none } }

theorem missedFrameState_first : missedFrameState.firstWaiting (fun x => x.claims 12) = some (2, iseFrame 9) := by decide

/-- Refutes O39: the order of R297 is not minimal over all requests that stand waiting, since dispatch passes over a FRAME that
DEADLINE_MISSED has ended in this tick, although that one stands until the tick's end and comes first in the order. -/
theorem not_dispatchYieldsAndEnds : ¬ Obligations.DispatchYieldsAndEnds := by
  rintro ⟨-, horder, -⟩
  have hkey : lexLt missedFrame.dispatchKey (iseFrame 9).dispatchKey = false :=
    horder 12 2 1 (iseFrame 9) missedFrame missedFrameState missedFrameState_first (by decide)
  exact absurd hkey (by decide)

end Sys2Proof.Machine


/-! ### A request of a class that no descriptor names has its cycles counted past the counters (Table FCT-9) -/

namespace Sys2Proof.Machine

/-- A tile that is due of a phase with no input, of a request with no plan slot, ends at once: nothing is brought in. -/
theorem exec_facetTile_noInputs {rid f core set tiles out fmt : Nat} {tp red vc : Bool} {prods : List (Nat × Nat)} {rsd : Option Nat}
    {run : TileRun} {r : Req} {s : State} (hdue : s.tileDue rid f core run.work = true)
    (hrun : (s.linkAnswered rid f).running rid = some (r, .phase set tiles tp red [] prods out fmt rsd)) (hslot : r.slot = none) :
    exec (.facetTile rid f core run vc) s = .next (((s.linkAnswered rid f).coreCycles f r run.work).tileEnds rid f core run vc) := by
  show execFacetTile rid f core run vc s = _
  simp [execFacetTile, hdue, hrun, State.withTensors, State.withObjs, State.sendObjs, State.needObjs, State.needThen,
    State.streamWeights, hslot]

/-- What a request runs is the scheduler's. -/
theorem State.running_of_sch {s t : State} (h : t.sch = s.sch) (rid : Nat) : t.running rid = s.running rid := by
  simp only [State.running, State.req, h]

theorem State.syncVc_sch (f : Nat) (s : State) : (s.syncVc f).sch = s.sch := rfl

theorem State.syncVc_free (f : Nat) (s : State) : (s.syncVc f).free = s.free := rfl

/-- A reduction keeps an accepted tile for the exchange and takes no free value. -/
theorem State.acceptTile_free_of_reduce {rid f set tiles out fmt : Nat} {tp : Bool} {ins prods : List (Nat × Nat)} {rsd : Option Nat}
    {sums : TileSums} {r : Req} {s : State} (hrun : s.running rid = some (r, .phase set tiles tp true ins prods out fmt rsd))
    (htiles : tiles ≠ 0) : (s.acceptTile rid f sums).free = s.free := by
  simp [State.acceptTile, hrun, htiles, State.modReq]

theorem State.failTile_free (rid f core : Nat) (work : TileWork) (sums : TileSums) (both : Bool) (s : State) :
    (s.failTile rid f core work sums both).free = s.free := rfl

/-- INJ_TC draws the row, the column and the bit that it flips. -/
theorem State.productSums_of_injection {f core : Nat} {s : State} (hen : s.on (FCT6.INJ_TC_EN f) = true)
    (hcore : s.rd (FCT6.INJ_TC_CORE f) = core) (run : TileRun) :
    (s.productSums f core run).2.2.free = s.free + 3 ∧ (s.productSums f core run).2.2.sch = s.sch := by
  simp [State.productSums, hen, hcore, State.flipTile, State.freeBits]

/-- A reduction's tile that INJ_TC strikes takes three free values, accepted or not. -/
theorem State.productEnds_free_of_injection {rid f core set tiles out fmt : Nat} {tp : Bool} {ins prods : List (Nat × Nat)}
    {rsd : Option Nat} {r : Req} {s : State} (hrun : s.running rid = some (r, .phase set tiles tp true ins prods out fmt rsd))
    (htiles : tiles ≠ 0) (hen : s.on (FCT6.INJ_TC_EN f) = true) (hcore : s.rd (FCT6.INJ_TC_CORE f) = core) (run : TileRun) :
    (s.productEnds rid f core run).free = s.free + 3 := by
  obtain ⟨hfree, hsch⟩ := State.productSums_of_injection hen hcore run
  unfold State.productEnds
  generalize s.productSums f core run = q at hfree hsch
  obtain ⟨sums, both, u⟩ := q
  have hrun' : ∀ v : State, v.sch = u.sch → v.running rid = some (r, .phase set tiles tp true ins prods out fmt rsd) :=
    fun v hv => (State.running_of_sch (hv.trans hsch) rid).trans hrun
  have hcounted : (State.inc64 (FCT1.ABFT_TILES_LO f) (FCT1.ABFT_TILES_HI f) 1 (u.syncVc f)).sch = u.sch := by
    rw [State.inc64_sch, State.syncVc_sch]
  dsimp only
  split
  · exact (State.acceptTile_free_of_reduce (hrun' _ (State.syncVc_sch f u)) htiles).trans hfree
  · split
    · rw [State.acceptTile_free_of_reduce (hrun' _ hcounted) htiles, State.inc64_free]
      exact hfree
    · rw [State.failTile_free, State.inc64_free]
      exact hfree

/-- A reduction's tile that INJ_TC strikes ends otherwise than by being accepted as it was computed. -/
theorem State.tileEnds_ne_acceptTile_of_injection {rid f core set tiles out fmt : Nat} {tp vc : Bool} {ins prods : List (Nat × Nat)}
    {rsd : Option Nat} {run : TileRun} {r : Req} {s : State} (hproduct : workIsProduct run.work = true)
    (hrun : s.running rid = some (r, .phase set tiles tp true ins prods out fmt rsd)) (htiles : tiles ≠ 0)
    (hen : s.on (FCT6.INJ_TC_EN f) = true) (hcore : s.rd (FCT6.INJ_TC_CORE f) = core) :
    s.tileEnds rid f core run vc
      ≠ ((s.syncVc f).inc64 (FCT1.ABFT_TILES_LO f) (FCT1.ABFT_TILES_HI f) 1).acceptTile rid f (runSums run) := by
  intro h
  have hclean := State.acceptTile_free_of_reduce (f := f) (sums := runSums run) ((State.running_of_sch
    (t := (s.syncVc f).inc64 (FCT1.ABFT_TILES_LO f) (FCT1.ABFT_TILES_HI f) 1) (by rw [State.inc64_sch, State.syncVc_sch]) rid).trans hrun) htiles
  have hstruck := State.productEnds_free_of_injection hrun htiles hen hcore run
  rw [State.tileEnds, if_pos hproduct] at h
  rw [← h, hstruck, State.inc64_free, State.syncVc_free] at hclean
  omega

/-- A reduction's request of class 736, where descriptors name 0 to 3: the words of its MAC_CYC are those of FCT6 at 0x800 and 0x804. -/
def strayClassReq : Req := { reduceReq with cls := 736 }

/-- The device it runs on, with INJ_TC_EN = 0 and a word at 0x800 that one more cycle takes to 0x100: INJ_TC_EN = 1, INJ_TC_CORE = 0. -/
def strayClassState : State := (facetState strayClassReq).setWord (pgFct 0 6) 0x800 0xFF

/-- The same once the tile's operands are read and its one cycle is counted. -/
def strayClassCounted : State := (strayClassState.linkAnswered 7 0).coreCycles 0 strayClassReq tileOk.work

/-- What clause 2 of O41 asks of the state and the request. -/
theorem strayClassState_due :
    (strayClassState.tileDue 7 0 0 tileOk.work = true
      ∧ (strayClassState.linkAnswered 7 0).running 7 = some (strayClassReq, .phase 1 1 true true [] [(0x0C, 0x0C)] 8 0x0A none))
    ∧ (workIsProduct tileOk.work = true ∧ strayClassReq.slot = none ∧ strayClassState.on (FCT6.INJ_TC_EN 0) = false)
    ∧ ((strayClassState.on (FCT1.ABFT_DIS 0) = false ∨ strayClassState.sentinel = true) ∧ tsNonfinite (runSums tileOk) = false)
    ∧ tsOk (((strayClassState.linkAnswered 7 0).syncVc 0).abftTol 0) (runSums tileOk) = true := by decide +kernel

/-- Counting the cycle arms INJ_TC for core 0. -/
theorem strayClassCounted_armed :
    strayClassCounted.running 7 = some (strayClassReq, .phase 1 1 true true [] [(0x0C, 0x0C)] 8 0x0A none)
    ∧ strayClassCounted.on (FCT6.INJ_TC_EN 0) = true ∧ strayClassCounted.rd (FCT6.INJ_TC_CORE 0) = 0 := by decide +kernel

/-- Refutes O41: its clauses on products look at INJ_TC before the tile's cycles are counted and bound no class. In a state whose request
has class 736, which no descriptor gives, the count of MAC_CYC goes to FCT6 and arms INJ_TC: the tile is struck, and takes three free
values, where clause 2 has it accepted as it was computed. -/
theorem not_facetTilesAreCheckedAndExchanged : ¬ Obligations.FacetTilesAreCheckedAndExchanged := by
  rintro ⟨-, haccept, -⟩
  obtain ⟨⟨hdue, hrun⟩, ⟨hproduct, hslot, hclear⟩, hfinite, hok⟩ := strayClassState_due
  obtain ⟨hrunning, hen, hcore⟩ := strayClassCounted_armed
  have hends := exec_facetTile_noInputs (vc := false) hdue hrun hslot
  rw [haccept 7 0 0 1 1 8 0x0A true true false [(0x0C, 0x0C)] none tileOk strayClassReq strayClassState ⟨hdue, hrun⟩
    ⟨hproduct, hslot, hclear⟩ hfinite hok] at hends
  exact State.tileEnds_ne_acceptTile_of_injection hproduct hrunning (by decide) hen hcore (Host.Outcome.next.inj hends).symm

end Sys2Proof.Machine


/-! ### A condition that raises an enabled interrupt sends its message too (R105, R581) -/

namespace Sys2Proof.Machine

/-- A command leaves one state: what holds of it by two statements holds of it together. -/
theorem leaves.and {c : Instr} {s : State} {P Q : State → Prop} (hp : leaves c s P) (hq : leaves c s Q) :
    leaves c s (fun t => P t ∧ Q t) := by
  obtain ⟨t, ht, hP⟩ := hp
  obtain ⟨u, hu, hQ⟩ := hq
  obtain rfl : t = u := Host.Outcome.next.inj (ht.symm.trans hu)
  exact ⟨t, ht, hP, hQ⟩

/-- Native link 0 carries traffic, and its page's interrupt REPLAY, bit 0, is enabled (R235). -/
def replayIrqState : State := (upState 0).wr (HDR.IRQ_EN (pgCl 0)) 1

/-- A frame with SEQ 1, where 0 is expected, is answered with a NAK; the replay that it asks for raises REPLAY, whose MSI-X message
follows the NAK. -/
theorem replayIrqState_outOfSequence :
    leaves (.nativeFrame 0 1 0 false true) replayIrqState (fun t => t.out = [.link 0 (.nakFrame 0) 0 4095 false, .msix 0 2]) :=
  ⟨_, rfl, by decide +kernel⟩

/-- Refutes O31: its clause on a frame out of sequence has the NAK alone leave the device. The replay is counted, and raises REPLAY
(R220, R235); with that interrupt enabled an MSI-X message leaves too (R105, R581). -/
theorem not_claspFramingAndReplay : ¬ Obligations.ClaspFramingAndReplay := by
  rintro ⟨-, -, hnak, -⟩
  have hone := hnak 0 1 0 false replayIrqState (by decide +kernel) (by decide +kernel)
  obtain ⟨t, -, htwo, -, -, hout, -⟩ := replayIrqState_outOfSequence.and hone
  have hlen := congrArg List.length (htwo.symm.trans hout)
  exact absurd hlen (by simp [show replayIrqState.out = [] from rfl])

/-- The guest of `creditState`, with the interrupt WIN_ERR of C3's page, bit 5, enabled (R235). -/
def winErrIrqState : State := creditState.wr (HDR.IRQ_EN (pgCl 3)) (2 ^ 5)

/-- A read past the guest's one window raises WIN_ERR, whose MSI-X message leaves before the answer UR. -/
theorem winErrIrqState_outside :
    leaves (.rdReq headOk 65536 64 7) winErrIrqState (fun t => t.out = [.msix 0 2, .link 3 (.cplData 7 1 []) 0 0 false]) :=
  ⟨_, rfl, by decide +kernel⟩

/-- Refutes O32: its clause on a read outside the guest's windows has the answer UR alone leave the device. WIN_ERR is raised (R212,
R235); with that interrupt enabled an MSI-X message leaves too (R105, R581). -/
theorem not_claspGuestTraffic : ¬ Obligations.ClaspGuestTraffic := by
  rintro ⟨-, -, hread, -⟩
  have hone := hread headOk 65536 64 7 winErrIrqState (by decide +kernel) (by decide +kernel) (by decide +kernel)
  obtain ⟨t, -, htwo, hout, -⟩ := winErrIrqState_outside.and hone
  have hlen := congrArg List.length (htwo.symm.trans hout)
  exact absurd hlen (by simp [show winErrIrqState.out = [] from rfl])

end Sys2Proof.Machine


/-! ### A late FRAME load stands until the end of its tick (R309, R351) -/

namespace Sys2Proof.Machine

/-- An accepted load of class FRAME that waits for nothing and does not stream, with its deadline in tick 3. -/
def frameLoad : Req := { loadReq with cls := 0, deadline := 3, slot := some default }

/-- The device whose request 7 it is, in tick 4. -/
def lateLoadState : State := { reqState frameLoad with tick := 4 }

/-- What the clause on MODEL_LOAD_COMPLETE asks of the request and the state. -/
theorem lateLoadState_due :
    lateLoadState.req 7 = some frameLoad ∧ frameLoad.op = opLoadPlan ∧ frameLoad.slot = some default ∧ frameLoad.want = []
      ∧ lateLoadState.waits 7 = false := by decide +kernel

/-- The load ends with DEADLINE_MISSED, and so still stands until the end of the tick. -/
theorem lateLoadState_stands :
    leaves (.modelLoadComplete 7) lateLoadState (fun t => (t.req 7).map (·.ends)
      = some (some { rep := none, outcome := ocDeadlineMissed, cause := 0, endTick := none })) :=
  ⟨_, rfl, by decide +kernel⟩

/-- Refutes O38: its clause on MODEL_LOAD_COMPLETE has the request gone at once. A FRAME load whose last tile comes in past its deadline
ends with DEADLINE_MISSED (R308, R311), and such a request stands until the tick's end (R309). -/
theorem not_descriptorsTakeEffect : ¬ Obligations.DescriptorsTakeEffect := by
  rintro ⟨-, -, -, -, -, -, -, -, -, -, -, -, -, -, -, -, hload⟩
  obtain ⟨-, hgone⟩ := hload 7 frameLoad default lateLoadState lateLoadState_due
  obtain ⟨t, -, hstands, -, hnone⟩ := lateLoadState_stands.and hgone
  rw [hnone] at hstands
  cases hstands

end Sys2Proof.Machine


/-! ### A tile that lies across two windows fails with the second one's tier (R248, R588) -/

namespace Sys2Proof.Machine

/-- An address 16 KiB below the end of the host window; half of a tile there lies in the flash window. -/
def straddleAddr : Nat := flashBase - 16384

/-- The slot that the tile at that address is fetched into for request 7, which names it by address (R248), and the fetch. -/
def straddleSlot : Slot := newSlot 1 (addrName straddleAddr 1) 0 1 false true 0 0 [7]
def straddleFetch : Fetch := { fetchOne straddleAddr 4 with obj := addrName straddleAddr 1 }

/-- The fetch is under way, number 2, and the SSD's controller is DOWN. -/
def straddleState : State :=
  let s := fetchState straddleAddr 4
  s.setCk { s.ck with slots := [(casketBase + 512 * tileSize, straddleSlot)], fetches := [(2, straddleFetch)], objs := [] }

/-- What clause 1 of O34 asks of the fetch, its slot, its object and its data. -/
theorem straddleState_meets :
    (mapFind straddleState.ck.fetches 2 = some straddleFetch ∧ straddleFetch.dest = some (casketBase + 512 * tileSize)
      ∧ straddleFetch.lent = false ∧ regionOf straddleState.part straddleFetch.src = .host)
    ∧ (inCasket (casketBase + 512 * tileSize) 1 = true
      ∧ straddleState.objOf straddleFetch.ws straddleFetch.obj = some (addrObj straddleState.part 1 (addrName straddleAddr 1))
      ∧ placeReadOnly (addrObj straddleState.part 1 (addrName straddleAddr 1)).place = false)
    ∧ installOk straddleState.tileCheckOn (padTo tileSize tileOne) = true := by decide +kernel

/-- The fetch fails, since its source is dead past the host window, and its slot is freed. -/
theorem straddleState_fails :
    leaves (.tileInstall 2 tileOne) straddleState (fun t => mapFind t.ck.slots (casketBase + 512 * tileSize) = none) :=
  ⟨_, rfl, by decide +kernel⟩

/-- Refutes O34: its clauses on TILE_INSTALL look at the region of the fetch's first byte alone. A tile named by address may begin in the
host window and end in the flash window; with the SSD's controller DOWN its source is dead (R588), and the fetch fails where clause 1
has the sound tile installed. -/
theorem not_tilesAreInstalledOrRefused : ¬ Obligations.TilesAreInstalledOrRefused := by
  rintro ⟨hinstall, -⟩
  obtain ⟨hfetch, hobj, hok⟩ := straddleState_meets
  obtain ⟨t, -, hfreed, -, -, -, hslot, -⟩ :=
    straddleState_fails.and (hinstall 2 _ _ _ tileOne straddleState hfetch hobj hok)
  have hheld := hslot straddleSlot rfl (by decide)
  rw [hfreed] at hheld
  cases hheld

end Sys2Proof.Machine


/-! What the Casket's commands on quotas, write-backs, reclaims and scrub passes do, and the statement about them. -/

namespace Sys2Proof.Machine

/-! ### Keys that a map does not list -/

theorem mapFind_mapErase_same {α : Type} (m : NMap α) (k : Nat) : mapFind (mapErase m k) k = none := by
  have hmap : (mapErase m k).map (fun e => (e.1, some e.2)) = mapErase (m.map (fun e => (e.1, some e.2))) k := by
    simp [mapErase, mapBelow, mapFrom, List.filter_map, Function.comp_def]
  rw [mapFind_eq_mapGet, hmap, mapGet_mapErase_same]

theorem mapFind_mapModify_none {α : Type} (f : α → α) {m : NMap α} (j : Nat) {k : Nat} (h : mapFind m k = none) :
    mapFind (mapModify f m j) k = none := by
  induction m with
  | nil => rfl
  | cons e r ih =>
    obtain ⟨i, v⟩ := e
    have hk : i ≠ k := by rintro rfl; simp [mapFind] at h
    have hr : mapFind r k = none := by simpa [mapFind, hk] using h
    have htail : mapFind (r.map (fun e => if e.1 = j then (e.1, f e.2) else e)) k = none := ih hr
    simp only [mapModify, List.map_cons]
    split <;> simpa [mapFind, hk] using htail

/-! ### Bytes of the device's memory -/

theorem State.dpaRead_length (s : State) (a n : Nat) : (s.dpaRead a n).length = n := by
  simp [State.dpaRead, mapRead_eq]

/-- A write leaves every byte of memory outside its range as it was. -/
theorem sameMemoryBut_dpaWrite {s t : State} {a : Nat} {l : List Byte} (h : t.mem = (s.dpaWrite a l).mem) :
    sameMemoryBut a l.length s t := by
  intro x
  refine ⟨fun hx => ?_, ?_, ?_, ?_⟩
  · simp only [State.dpaRead, h, State.dpaWrite, mapRead_eq]
    simpa using mapGet_mapWrite_out zeroByte s.mem.dpa a l x hx
  all_goals simp only [State.hostRead, State.nvmeRead, State.flashRead, h, State.dpaWrite]

/-! ### Slots -/

/-- Freeing a slot takes it out of the directory, and changes nothing but the directory's slots (R254). -/
theorem State.dropSlot_slots (a : Nat) (s : State) :
    ∃ l, s.dropSlot a = s.setCk { s.ck with slots := l } ∧ mapFind l a = none := by
  unfold State.dropSlot
  cases hfind : mapFind s.ck.slots a with
  | none => exact ⟨s.ck.slots, rfl, hfind⟩
  | some e =>
    have herased := mapFind_mapErase_same s.ck.slots a
    dsimp only
    split
    · exact ⟨_, rfl, herased⟩
    · split
      · exact ⟨_, rfl, mapFind_mapModify_none _ _ herased⟩
      · exact ⟨_, rfl, herased⟩

/-- A slot that a fetch leaves without its tile changes nothing but the directory's slots (R268). -/
theorem State.vacate_slots (a : Nat) (s : State) : ∃ l, s.vacate a = s.setCk { s.ck with slots := l } := by
  unfold State.vacate
  split
  · exact ⟨s.ck.slots, rfl⟩
  · split
    · exact ⟨_, rfl⟩
    · obtain ⟨l, hl, -⟩ := s.dropSlot_slots a
      exact ⟨l, hl⟩

/-! ### What evictions leave alone (R252 to R256) -/

/-- Memory, the scheduler, and every register field but the two counters of evictions are as before. -/
structure EvictsOnly (s t : State) : Prop where
  mem : t.mem = s.mem
  sch : t.sch = s.sch
  rd : ∀ f : FRef, CK_QUOTA.EVICT_CNT.apart f = true → CK_QUOTA.LOST_CNT.apart f = true → t.rd f = s.rd f

theorem EvictsOnly.refl (s : State) : EvictsOnly s s := ⟨rfl, rfl, fun _ _ _ => rfl⟩

theorem EvictsOnly.trans {s t u : State} (h : EvictsOnly s t) (g : EvictsOnly t u) : EvictsOnly s u :=
  ⟨g.mem.trans h.mem, g.sch.trans h.sch, fun f he hl => (g.rd f he hl).trans (h.rd f he hl)⟩

theorem State.modSlot_evictsOnly (a : Nat) (f : Slot → Slot) (s : State) : EvictsOnly s (s.modSlot a f) :=
  ⟨rfl, rfl, fun _ _ _ => rfl⟩

theorem State.eraseSlot_evictsOnly (a : Nat) (s : State) : EvictsOnly s (s.eraseSlot a) :=
  ⟨rfl, rfl, fun _ _ _ => rfl⟩

theorem State.loseObj_evictsOnly (w id : Nat) (s : State) : EvictsOnly s (s.loseObj w id) :=
  ⟨rfl, rfl, fun f _ hl => by rw [State.loseObj, State.rd_inc_apart _ _ f hl]; rfl⟩

theorem State.evict_evictsOnly (a : Nat) (s : State) : EvictsOnly s (s.evict a).2 := by
  unfold State.evict
  cases mapFind s.ck.slots a with
  | none => exact .refl s
  | some e =>
    have hcount : EvictsOnly s (s.inc CK_QUOTA.EVICT_CNT) := ⟨rfl, rfl, fun f he _ => State.rd_inc_apart s _ f he⟩
    dsimp only
    split
    · split
      · exact hcount.trans (State.modSlot_evictsOnly ..)
      · exact hcount.trans (State.eraseSlot_evictsOnly ..)
    · exact (hcount.trans (State.loseObj_evictsOnly ..)).trans (State.eraseSlot_evictsOnly ..)

theorem State.trimPool_evictsOnly (tier n : Nat) (s : State) : EvictsOnly s (State.trimPool tier n s) := by
  induction n generalizing s with
  | zero => exact .refl s
  | succ n ih =>
    unfold State.trimPool
    split
    · split
      · exact (State.evict_evictsOnly ..).trans (ih _)
      · exact .refl s
    · exact .refl s

theorem State.fillQuota_evictsOnly (w tier n : Nat) (s : State) : EvictsOnly s (State.fillQuota w tier n s) := by
  induction n generalizing s with
  | zero => exact .refl s
  | succ n ih =>
    unfold State.fillQuota
    split
    · split
      · exact (State.modSlot_evictsOnly ..).trans (ih _)
      · exact .refl s
    · exact .refl s

theorem State.spillQuota_evictsOnly (w tier n : Nat) (s : State) : EvictsOnly s (State.spillQuota w tier n s) := by
  induction n generalizing s with
  | zero => exact .refl s
  | succ n ih =>
    unfold State.spillQuota
    split
    · split
      · exact (State.modSlot_evictsOnly ..).trans (ih _)
      · exact .refl s
    · exact .refl s

/-- Tiles that follow a changed quota leave memory, the scheduler and the quotas themselves. -/
theorem State.requota_evictsOnly (w tier : Nat) (s : State) : EvictsOnly s (s.requota w tier) :=
  ((State.fillQuota_evictsOnly ..).trans (State.spillQuota_evictsOnly ..)).trans (State.trimPool_evictsOnly ..)

/-! ### Accesses that a page answers -/

/-- A write to a page that answers takes its effect once the device has left DOZE (R126). -/
theorem State.access_answers {rq : Requester} {page : Nat} {s : State} (eff : State → State) (h : s.answers rq page) :
    s.access rq page eff = eff (s.reached page) := by
  obtain ⟨hreach, hserve⟩ := h
  simp [State.access, hreach, hserve, State.reached]

/-- Leaving DOZE changes neither memory nor the scheduler. -/
theorem State.reached_mem_sch (page : Nat) (s : State) : (s.reached page).mem = s.mem ∧ (s.reached page).sch = s.sch := by
  unfold State.reached State.leaveDoze
  split
  · exact ⟨rfl, rfl⟩
  · split <;> exact ⟨rfl, rfl⟩

/-! ### Quota writes (R256, R354) -/

/-- The words of the quotas are not those of the two counters of evictions. -/
theorem quotaWord_apart {w off : Nat} (hw : w < 64) (ho : off = 0x100 + 16 * w ∨ off = 0x104 + 16 * w) (hi lo : Nat) :
    CK_QUOTA.EVICT_CNT.apart ⟨0x019, off, hi, lo⟩ = true ∧ CK_QUOTA.LOST_CNT.apart ⟨0x019, off, hi, lo⟩ = true := by
  have hkey : ∀ k, k = 0x510 ∨ k = 0x514 → regKey 0x019 k ≠ regKey 0x019 off := by
    intro k hk
    unfold regKey
    omega
  constructor <;> simp [FRef.apart, CK_QUOTA.EVICT_CNT, CK_QUOTA.LOST_CNT, hkey]

/-- A field of a quota word reads after a requota as before. -/
theorem State.rd_requota {w off : Nat} (hw : w < 64) (ho : off = 0x100 + 16 * w ∨ off = 0x104 + 16 * w) (hi lo v tier : Nat)
    (s : State) :
    (s.requota v tier).rd ⟨0x019, off, hi, lo⟩ = s.rd ⟨0x019, off, hi, lo⟩ :=
  have ⟨he, hl⟩ := quotaWord_apart hw ho hi lo
  (s.requota_evictsOnly v tier).rd _ he hl

/-- Two adjacent fields of one word, written one after the other with values that fit, both read as written. -/
theorem State.rd_wr_wr (s : State) {p o hi mid lo x y : Nat} (hmid : mid < hi) (hhi : hi < 32) (hx : x < 2 ^ (mid + 1 - lo))
    (hy : y < 2 ^ (hi + 1 - (mid + 1))) :
    let t := (s.wr ⟨p, o, mid, lo⟩ x).wr ⟨p, o, hi, mid + 1⟩ y
    t.rd ⟨p, o, mid, lo⟩ = x ∧ t.rd ⟨p, o, hi, mid + 1⟩ = y := by
  have hmid32 : mid < 32 := by omega
  constructor
  · rw [State.rd_wr_disjoint (s.wr ⟨p, o, mid, lo⟩ x) ⟨p, o, hi, mid + 1⟩ ⟨p, o, mid, lo⟩ y rfl rfl hmid32
        (Or.inl (Nat.lt_succ_self mid)),
      State.rd_wr_same s ⟨p, o, mid, lo⟩ x hmid32, Nat.mod_eq_of_lt hx]
  · rw [State.rd_wr_same _ ⟨p, o, hi, mid + 1⟩ y hhi, Nat.mod_eq_of_lt hy]

theorem State.quotaWrite_word0 {w value : Nat} {s : State} (hw : w < 64) (h0 : s.quotaBad w 0 (bitsOf value 15 0) = false)
    (h1 : s.quotaBad w 1 (bitsOf value 31 16) = false) :
    s.quotaWrite w 0 value
      = ((s.wr (CK_QUOTA.QUOTA_T0 w) (bitsOf value 15 0)).wr (CK_QUOTA.QUOTA_T1 w) (bitsOf value 31 16)).requota w 1 := by
  simp [State.quotaWrite, Nat.not_le.2 hw, h0, h1]

theorem State.quotaWrite_word1 {w value : Nat} {s : State} (hw : w < 64) (h2 : s.quotaBad w 2 (bitsOf value 23 0) = false) :
    s.quotaWrite w 1 value
      = ((s.wr (CK_QUOTA.QUOTA_T2 w) (bitsOf value 23 0)).wr (CK_QUOTA.PLACE_MODE w) (bitsOf value 24 24)).requota w 2 := by
  simp [State.quotaWrite, Nat.not_le.2 hw, h2]

theorem State.quotaWrite_refused {w value : Nat} {s : State} (hw : w < 64)
    (h : s.quotaBad w 0 (bitsOf value 15 0) = true ∨ s.quotaBad w 1 (bitsOf value 31 16) = true) :
    s.quotaWrite w 0 value = s.quotaRefused w := by
  simp [State.quotaWrite, Nat.not_le.2 hw, h]

/-- A write of a quota word that is taken changes neither memory nor the scheduler. -/
theorem State.requota_mem_sch (f g : FRef) (x y w tier page : Nat) (s : State) :
    let t := (((s.reached page).wr f x).wr g y).requota w tier
    t.mem = s.mem ∧ t.sch = s.sch := by
  obtain ⟨hmem, hsch⟩ := s.reached_mem_sch page
  have hev := State.requota_evictsOnly w tier (((s.reached page).wr f x).wr g y)
  exact ⟨hev.mem.trans hmem, hev.sch.trans hsch⟩

theorem exec_quotaWrite {rq : Requester} {w word value : Nat} {s : State} (h : s.answers rq 0x019) :
    exec (.quotaWrite rq w word value) s = .next ((s.reached 0x019).quotaWrite w word value) :=
  congrArg Host.Outcome.next (State.access_answers _ h)

theorem quotaWrite_word0_leaves {rq : Requester} {w value : Nat} {s : State} (hans : s.answers rq 0x019) (hw : w < 64)
    (h0 : (s.reached 0x019).quotaBad w 0 (bitsOf value 15 0) = false)
    (h1 : (s.reached 0x019).quotaBad w 1 (bitsOf value 31 16) = false) :
    leaves (.quotaWrite rq w 0 value) s (fun t => t.rd (CK_QUOTA.QUOTA_T0 w) = bitsOf value 15 0
      ∧ t.rd (CK_QUOTA.QUOTA_T1 w) = bitsOf value 31 16 ∧ t.mem = s.mem ∧ t.sch = s.sch) := by
  refine ⟨_, exec_quotaWrite hans, ?_⟩
  rw [State.quotaWrite_word0 hw h0 h1]
  obtain ⟨ht0, ht1⟩ := (s.reached 0x019).rd_wr_wr (p := 0x019) (o := 0x100 + 16 * w) (hi := 31) (by decide) (by decide)
    (bitsOf_lt value 15 0) (bitsOf_lt value 31 16)
  exact ⟨(State.rd_requota hw (Or.inl rfl) ..).trans ht0, (State.rd_requota hw (Or.inl rfl) ..).trans ht1, State.requota_mem_sch ..⟩

theorem quotaWrite_word1_leaves {rq : Requester} {w value : Nat} {s : State} (hans : s.answers rq 0x019) (hw : w < 64)
    (h2 : (s.reached 0x019).quotaBad w 2 (bitsOf value 23 0) = false) :
    leaves (.quotaWrite rq w 1 value) s (fun t => t.rd (CK_QUOTA.QUOTA_T2 w) = bitsOf value 23 0
      ∧ t.rd (CK_QUOTA.PLACE_MODE w) = bitsOf value 24 24 ∧ t.mem = s.mem ∧ t.sch = s.sch) := by
  refine ⟨_, exec_quotaWrite hans, ?_⟩
  rw [State.quotaWrite_word1 hw h2]
  obtain ⟨ht2, hmode⟩ := (s.reached 0x019).rd_wr_wr (p := 0x019) (o := 0x104 + 16 * w) (hi := 24) (by decide) (by decide)
    (bitsOf_lt value 23 0) (bitsOf_lt value 24 24)
  exact ⟨(State.rd_requota hw (Or.inr rfl) ..).trans ht2, (State.rd_requota hw (Or.inr rfl) ..).trans hmode, State.requota_mem_sch ..⟩

/-! ### Reads of stores with no error injected (R626, R633) -/

/-- A read of a store for which no error is injected meets none and changes nothing. -/
theorem State.eccRead_clear (mech ws : Nat) {a : Nat} {s : State} (h : s.rd (storeOf a).1 = 0) : s.eccRead mech a ws = (none, s) := by
  unfold State.eccRead
  generalize storeOf a = st at h
  obtain ⟨f, page⟩ := st
  simp only [State.takeInj, show s.rd f = 0 from h, if_true, ite_self]

theorem State.scrubStore_clear (mech : Nat) {a : Nat} {s : State} (h : s.rd (storeOf a).1 = 0) : s.scrubStore mech a = s := by
  rw [State.scrubStore, State.eccRead_clear _ _ h]

/-! ### Counting bytes that move (R26, R277) -/

/-- Memory, the scheduler and the directory are as before. -/
structure CountsOnly (s t : State) : Prop where
  mem : t.mem = s.mem
  sch : t.sch = s.sch
  ck : t.ck = s.ck

theorem CountsOnly.trans {s t u : State} (h : CountsOnly s t) (g : CountsOnly t u) : CountsOnly s u :=
  ⟨g.mem.trans h.mem, g.sch.trans h.sch, g.ck.trans h.ck⟩

theorem State.inc64_countsOnly (lo hi : FRef) (n : Nat) (s : State) : CountsOnly s (s.inc64 lo hi n) :=
  ⟨State.inc64_mem .., State.inc64_sch .., State.inc64_ck ..⟩

theorem State.crossed_countsOnly (p q n : Nat) (s : State) : CountsOnly s (s.crossed p q n) := by
  unfold State.crossed
  split
  · exact ⟨rfl, rfl, rfl⟩
  · exact State.inc64_countsOnly ..

theorem State.countWrite_countsOnly (a n : Nat) (s : State) : CountsOnly s (s.countWrite a n) := by
  unfold State.countWrite
  split
  · exact State.inc64_countsOnly ..
  · split
    · exact State.inc64_countsOnly ..
    · exact ⟨rfl, rfl, rfl⟩

theorem State.readTo_countsOnly (q a n : Nat) (s : State) : CountsOnly s (s.readTo q a n) := by
  have hread : CountsOnly s (s.countRead a n) := by
    unfold State.countRead
    split
    · exact State.inc64_countsOnly ..
    · split
      · exact State.inc64_countsOnly ..
      · exact ⟨rfl, rfl, rfl⟩
  unfold State.readTo
  dsimp only
  split
  · exact hread.trans (State.crossed_countsOnly ..)
  · exact hread

/-- Past the write itself, a store of bytes counts them and marks the HBM region they fall in as zeroed (R133). -/
theorem State.store_countsOnly (a : Nat) (l : List Byte) (s : State) : CountsOnly (s.dpaWrite a l) (s.store a l) := by
  have htouch : CountsOnly (s.dpaWrite a l) ((s.hbmTouch a).dpaWrite a l) := by
    unfold State.hbmTouch
    split <;> exact ⟨rfl, rfl, rfl⟩
  exact htouch.trans (State.countWrite_countsOnly ..)

/-! ### Write-backs (R253) -/

/-- What the write of a slot's tile to its home leaves: the bytes at the home are the slot's, requests and fetches are as before. -/
theorem State.writeHome_clear {a h : Nat} {e : Slot} {s : State} (hslot : mapFind s.ck.slots a = some e)
    (hhome : s.homeAddr e.ws e.obj e.tile = some h) (hinj : s.rd (storeOf a).1 = 0) :
    (s.writeHome a).mem = (s.dpaWrite h (s.dpaRead a tileSize)).mem ∧ (s.writeHome a).sch = s.sch
      ∧ (s.writeHome a).ck.fetches = s.ck.fetches := by
  have hmoved := (State.store_countsOnly h (s.dpaRead a tileSize) s).trans
    (State.readTo_countsOnly (if h < hbmSize then h / stackSize else quadOf a) a tileSize (s.store h (s.dpaRead a tileSize)))
  simp only [State.writeHome, hslot, hhome, State.eccRead_clear _ _ hinj]
  have hfetches := congrArg Ck.fetches hmoved.ck
  exact ⟨hmoved.mem, hmoved.sch, hfetches⟩

/-- With no request admitted, none waits for a slot. -/
theorem State.retry_noRequests {s : State} (h : s.sch.reqs = []) : s.retryWants.retryStores = s := by
  have hwants : s.retryWants = s := by simp [State.retryWants, h, mapKeys]
  rw [hwants]
  simp [State.retryStores, h]

/-- A write-back that no fetch and no request waits for frees its slot. -/
theorem exec_evictionWritebackDone_unwaited {slot : Nat} {e : Slot} {s : State} (hslot : mapFind s.ck.slots slot = some e)
    (hwb : e.writeback = true) (hfetch : (s.writeHome slot).ck.fetches = []) (hreqs : (s.writeHome slot).sch.reqs = []) :
    exec (.evictionWritebackDone slot) s = .next ((s.writeHome slot).dropSlot slot) := by
  obtain ⟨l, hdrop, -⟩ := (s.writeHome slot).dropSlot_slots slot
  have hquiet : ((s.writeHome slot).dropSlot slot).retryWants.retryStores = (s.writeHome slot).dropSlot slot :=
    State.retry_noRequests (by rw [hdrop]; exact hreqs)
  have hnone : ∀ k, (s.writeHome slot).req k = none := fun k => by simp [State.req, hreqs, mapFind]
  show execEvictionWritebackDone slot s = _
  cases hwait : e.waiter <;> simp [execEvictionWritebackDone, hslot, hwb, hfetch, hwait, hnone, hquiet]

theorem evictionWritebackDone_leaves {slot h : Nat} {e : Slot} {s : State} (hslot : mapFind s.ck.slots slot = some e)
    (hwb : e.writeback = true) (hhome : s.homeAddr e.ws e.obj e.tile = some h) (hfetch : s.ck.fetches = [])
    (hreqs : s.sch.reqs = []) (hinj : s.rd (storeOf slot).1 = 0) :
    leaves (.evictionWritebackDone slot) s (fun t => t.dpaRead h tileSize = s.dpaRead slot tileSize ∧ sameMemoryBut h tileSize s t
      ∧ mapFind t.ck.slots slot = none ∧ t.sch = s.sch) := by
  obtain ⟨hmem, hsch, hfetches⟩ := State.writeHome_clear hslot hhome hinj
  obtain ⟨l, hdrop, hgone⟩ := (s.writeHome slot).dropSlot_slots slot
  have hlen := s.dpaRead_length slot tileSize
  have hdmem : ((s.writeHome slot).dropSlot slot).mem = (s.dpaWrite h (s.dpaRead slot tileSize)).mem := by rw [hdrop]; exact hmem
  refine ⟨_, exec_evictionWritebackDone_unwaited hslot hwb (hfetches.trans hfetch) (hsch ▸ hreqs), ?_, ?_, ?_, ?_⟩
  · have hstored := s.dpaRead_dpaWrite h (s.dpaRead slot tileSize)
    rw [hlen] at hstored
    rw [State.dpaRead, hdmem]
    exact hstored
  · simpa only [hlen] using sameMemoryBut_dpaWrite hdmem
  · rw [hdrop]
    exact hgone
  · rw [hdrop]
    exact hsch

/-- A write-back that a request waits for, and no fetch, keeps its slot for that request. -/
theorem exec_evictionWritebackDone_waited {slot rid : Nat} {borrow : Bool} {e : Slot} {r : Req} {s : State}
    (hslot : mapFind s.ck.slots slot = some e) (hwb : e.writeback = true) (hwait : e.waiter = some (rid, borrow))
    (hfetch : (s.writeHome slot).ck.fetches.any (fun f => decide (f.2.waitSlot = some slot)) = false)
    (hreq : (s.writeHome slot).req rid = some r) :
    exec (.evictionWritebackDone slot) s = .next (((s.writeHome slot).putSlot slot
      { newSlot r.ws noObj 0 e.tier borrow true 0 (s.writeHome slot).tick [rid] with waiter := some (rid, borrow) }).retryWants.retryStores) := by
  show execEvictionWritebackDone slot s = _
  simp [execEvictionWritebackDone, hslot, hwb, hfetch, hwait, hreq]

/-! ### Windows that are unbacked (R104, R271) -/

/-- The registers and the notices of borrowed windows are as before. -/
structure WindowsKept (s t : State) : Prop where
  part : t.part = s.part
  regs : t.regs = s.regs
  notices : t.ck.notices = s.ck.notices

theorem WindowsKept.refl (s : State) : WindowsKept s s := ⟨rfl, rfl, rfl⟩

theorem WindowsKept.trans {s t u : State} (h : WindowsKept s t) (g : WindowsKept t u) : WindowsKept s u :=
  ⟨g.part.trans h.part, g.regs.trans h.regs, g.notices.trans h.notices⟩

theorem WindowsKept.foldl {α : Type} {f : State → α → State} (hf : ∀ t x, WindowsKept t (f t x)) (l : List α) (s : State) :
    WindowsKept s (l.foldl f s) := by
  induction l generalizing s with
  | nil => exact .refl s
  | cons x r ih => exact (hf s x).trans (ih (f s x))

/-- A window's state is read from the registers. -/
theorem WindowsKept.borrowState {s t : State} (h : WindowsKept s t) (p : Nat) : t.borrowState p = s.borrowState p := by
  simp only [State.borrowState, State.rd, State.word, h.part, h.regs]

theorem State.setSch_windowsKept (c : Sch) (s : State) : WindowsKept s (s.setSch c) := ⟨rfl, rfl, rfl⟩

theorem State.endWait_windowsKept (f : Fetch) (rep : Option Nat) (oc : Nat) (w : Nat × Nat) (s : State) :
    WindowsKept s (s.endWait f rep oc w) := by
  unfold State.endWait
  dsimp only
  split <;> exact ⟨rfl, rfl, rfl⟩

theorem State.endFetch_windowsKept (fid : Nat) (s : State) : WindowsKept s (s.endFetch fid false) := by
  unfold State.endFetch
  cases mapFind s.ck.fetches fid with
  | none => exact .refl s
  | some f =>
    cases hdest : f.dest with
    | none => simpa [hdest] using (⟨rfl, rfl, rfl⟩ : WindowsKept s (s.setCk { s.ck with fetches := mapErase s.ck.fetches fid }))
    | some a =>
      obtain ⟨l, hl⟩ := (s.setCk { s.ck with fetches := mapErase s.ck.fetches fid }).vacate_slots a
      simp only [hdest, hl]
      exact ⟨rfl, rfl, rfl⟩

theorem State.failFetch_windowsKept (fid oc : Nat) (rep : Option Nat) (s : State) : WindowsKept s (s.failFetch fid oc rep) := by
  unfold State.failFetch
  cases mapFind s.ck.fetches fid with
  | none => exact .refl s
  | some f =>
    refine (State.endFetch_windowsKept fid s).trans (WindowsKept.foldl (fun t w => ?_) _ _)
    split
    · exact State.setSch_windowsKept ..
    · exact State.endWait_windowsKept ..

theorem State.endWhere_windowsKept (rep : Option Nat) (p : Nat → Req → Bool) (oc cause : Nat) (s : State) :
    WindowsKept s (s.endWhere rep p oc cause) :=
  WindowsKept.foldl (fun _ _ => State.setSch_windowsKept ..) _ _

/-- A window's state written reads as written. -/
theorem State.borrowState_setBorrow (p v : Nat) (s : State) : (s.setBorrow p v).borrowState p = v % 4 := by
  have hbits := bitsOf_putBits (s.rd (CK_TIER.BORROW_STATE (p / 16))) (2 * (p % 16) + 1) (2 * (p % 16)) v
  rw [show 2 * (p % 16) + 1 + 1 - 2 * (p % 16) = 2 by omega] at hbits
  rw [State.borrowState, State.setBorrow, State.rd_wr_same _ _ _ (by decide : 31 < 32)]
  exact (bitsOf_mod _ _ _ (by omega)).trans hbits

/-- A window that is unbacked reads GONE, and its notice is over (R271). -/
theorem State.unbackWindow_gone (p : Nat) (s : State) :
    (s.unbackWindow p).borrowState p = 3 ∧ mapFind (s.unbackWindow p).ck.notices p = none := by
  have hkept : WindowsKept ((s.setBorrow p 3).setCk { (s.setBorrow p 3).ck with notices := mapErase (s.setBorrow p 3).ck.notices p })
      (s.unbackWindow p) :=
    (State.endWhere_windowsKept ..).trans (WindowsKept.foldl (fun _ _ => State.failFetch_windowsKept ..) _ _)
  refine ⟨(hkept.borrowState p).trans (s.borrowState_setBorrow p 3), ?_⟩
  rw [hkept.notices]
  exact mapFind_mapErase_same _ p

theorem reclaimPeriodEnd_leaves {p n : Nat} {s : State} (hnotice : mapFind s.ck.notices p = some n) (hdue : n + 5000 ≤ s.tick)
    (hstate : s.borrowState p = 2) :
    leaves (.reclaimPeriodEnd p) s (fun t => t.borrowState p = 3 ∧ mapFind t.ck.notices p = none) := by
  refine ⟨s.unbackWindow p, ?_, s.unbackWindow_gone p⟩
  show execReclaimPeriodEnd p s = _
  simp [execReclaimPeriodEnd, hnotice, hdue, hstate]

/-! ### Scrub passes (R627, Table CK-13) -/

/-- A fold stays where no element moves it. -/
theorem foldl_fixed {α β : Type} {f : α → β → α} {a : α} (h : ∀ b, f a b = a) (l : List β) : l.foldl f a = a := by
  induction l with
  | nil => rfl
  | cons b r ih => rw [List.foldl_cons, h b, ih]

/-- Each Locket has the injection field of its Facet. -/
theorem storeOf_locketBase : ∀ n < 4, (storeOf (locketBase n)).1 = FCT3.INJ_ECC n := by decide

theorem storeOf_stackBase : ∀ k < 4, (storeOf (k * stackSize)).1 = HBM.INJ_ECC k := by decide

/-- A pass of the Casket and the Lockets with no error injected is counted, and changes nothing else. -/
theorem exec_casketScrub_clear {s : State} (hen : s.on CK_CTRL.SCRUB_CTRL_EN = true) (hpm : s.pm ≤ 1)
    (hclk : s.clockOn 0x010 = true) (hck : s.rd CK_CTRL.INJ_ECC = 0) (hfct : ∀ f : Nat, f < 4 → s.rd (FCT3.INJ_ECC f) = 0) :
    exec .casketScrub s = .next (s.wr CK_CTRL.SCRUB_PASSES (s.rd CK_CTRL.SCRUB_PASSES + 1)) := by
  have hapart : ∀ f < 4, CK_CTRL.SCRUB_PASSES.apart (FCT3.INJ_ECC f) = true := by decide
  have hcasket : (s.wr CK_CTRL.SCRUB_PASSES (s.rd CK_CTRL.SCRUB_PASSES + 1)).rd (storeOf casketBase).1 = 0 :=
    (State.rd_wr_apart s _ CK_CTRL.INJ_ECC _ (by decide)).trans hck
  have hlocket : ∀ n < 4, (s.wr CK_CTRL.SCRUB_PASSES (s.rd CK_CTRL.SCRUB_PASSES + 1)).rd (storeOf (locketBase n)).1 = 0 :=
    fun n hn => by rw [storeOf_locketBase n hn, State.rd_wr_apart _ _ _ _ (hapart n hn), hfct n hn]
  show execCasketScrub s = _
  simp only [execCasketScrub, hen, hpm, hclk, decide_true, Bool.and_self, if_true, State.scrubStore_clear _ hcasket]
  generalize s.wr CK_CTRL.SCRUB_PASSES (s.rd CK_CTRL.SCRUB_PASSES + 1) = t at *
  refine congrArg _ (foldl_fixed (fun n => ?_) _)
  split
  · next hfacet => exact State.scrubStore_clear _ (hlocket n (by simp [State.hasFacet] at hfacet; exact hfacet.1))
  · rfl

theorem exec_patrolScrub_clear {k : Nat} {s : State} (hk : k < 4) (hen : s.on (HBM.PATROL_CTRL_EN k) = true) (hpm : s.pm ≤ 1)
    (hclk : s.clockOn (pgHbm k) = true) (hinj : s.rd (HBM.INJ_ECC k) = 0) :
    exec (.patrolScrub k) s = .next (s.wr (HBM.PATROL_PASSES k) (s.rd (HBM.PATROL_PASSES k) + 1)) := by
  have hapart : ∀ k < 4, (HBM.PATROL_PASSES k).apart (HBM.INJ_ECC k) = true := by decide
  have hstack : (s.wr (HBM.PATROL_PASSES k) (s.rd (HBM.PATROL_PASSES k) + 1)).rd (storeOf (k * stackSize)).1 = 0 := by
    rw [storeOf_stackBase k hk, State.rd_wr_apart _ _ _ _ (hapart k hk), hinj]
  show execPatrolScrub k s = _
  simp [execPatrolScrub, hk, hen, hpm, hclk, State.scrubStore_clear _ hstack]

/-! ### O35 stands and falls with its clause on CASKET_SCRUB -/

/-- Every clause of O35 but that on CASKET_SCRUB holds. That one is written without parentheses around its last premise
`∀ f : Nat, f < 4 → s.rd (FCT3.INJ_ECC f) = 0`, which so takes in the conclusion and leaves the premises before it as claims on every
state. Read as meant, it is `exec_casketScrub_clear`. -/
theorem quotasLendingAndScrubbing_iff : Obligations.QuotasLendingAndScrubbing ↔ ∀ s : State,
    s.on CK_CTRL.SCRUB_CTRL_EN = true ∧ s.pm ≤ 1 ∧ s.clockOn 0x010 = true ∧ s.rd CK_CTRL.INJ_ECC = 0
      ∧ ∀ f : Nat, f < 4 → (s.rd (FCT3.INJ_ECC f) = 0 →
        exec .casketScrub s = .next (s.wr CK_CTRL.SCRUB_PASSES (s.rd CK_CTRL.SCRUB_PASSES + 1))) := by
  refine ⟨fun ⟨_, _, _, _, _, _, _, _, hscrub, _⟩ => hscrub, fun hscrub => ?_⟩
  refine ⟨?quotaWord0, ?quotaWord1, ?quotaRefused, ?unwaited, ?waited, ?lend, ?reclaim, ?reclaimEnd, hscrub, ?patrolScrub⟩
  case quotaWord0 => exact fun rq w value s ⟨hans, hw⟩ ⟨h0, h1⟩ => quotaWrite_word0_leaves hans hw h0 h1
  case quotaWord1 => exact fun rq w value s ⟨hans, hw, h2⟩ => quotaWrite_word1_leaves hans hw h2
  case quotaRefused =>
    exact fun rq w value s ⟨hans, hw, hbad⟩ => (exec_quotaWrite hans).trans (congrArg _ (State.quotaWrite_refused hw hbad))
  case unwaited =>
    exact fun slot h e s ⟨hslot, hwb, hhome⟩ ⟨hfetch, hreqs, hinj⟩ => evictionWritebackDone_leaves hslot hwb hhome hfetch hreqs hinj
  case waited =>
    exact fun slot rid borrow e r s ⟨hslot, hwb, hwait⟩ ⟨hfetch, hreq⟩ =>
      exec_evictionWritebackDone_waited hslot hwb hwait hfetch hreq
  case lend => exact fun n s hlend => congrArg Host.Outcome.next (if_pos hlend)
  case reclaim => exact fun rq s hans => congrArg Host.Outcome.next (State.access_answers _ hans)
  case reclaimEnd => exact fun p n s ⟨hnotice, hdue, hstate, _⟩ => reclaimPeriodEnd_leaves hnotice hdue hstate
  case patrolScrub => exact fun k s ⟨hk, hen, hpm, hclk, hinj⟩ => exec_patrolScrub_clear hk hen hpm hclk hinj

/-- Refutes O35: its clause on CASKET_SCRUB, as it is written, has scrubbing on in every state; after reset SCRUB_CTRL_EN is 0. -/
theorem not_quotasLendingAndScrubbing : ¬ Obligations.QuotasLendingAndScrubbing := by
  rw [quotasLendingAndScrubbing_iff]
  intro hscrub
  obtain ⟨hen, -⟩ := hscrub State.reset
  exact absurd hen (by decide)

end Sys2Proof.Machine


/-! The solver: what SOLVE and RECHECK_DUE do in each state of a solve, one lemma for each branch of a turn, and the statement about
them. -/

namespace Sys2Proof.Machine

/-! ### Steps of a solve (R442, R462, R463) -/

/-- A solve that has stopped writes its outputs; a state in which it has not, or in which its request has ended, stays. It ends both
a turn and the beginning of a solve. -/
def State.writeIfStopped (rid : Nat) (c : IseSchedule) (s : State) : State :=
  match s.iseOf rid, s.req rid with
  | some k, some r => (match k.stop with
    | some (st, oc, cause) => s.writeSolution rid r c k st oc cause
    | none => s)
  | _, _ => s

/-- The solve of a request carries the request's number. -/
theorem State.rid_of_iseOf {rid : Nat} {k : IseRun} {s : State} (hrun : s.iseOf rid = some k) : k.rid = rid := by
  simpa using List.find?_some hrun

/-- The outputs may as well be written under the number that the solve carries. -/
theorem State.writeIfStopped_eq_runRid (rid : Nat) (c : IseSchedule) (s : State) :
    s.writeIfStopped rid c = (match s.iseOf rid, s.req rid with
      | some k, some r => (match k.stop with
        | some (st, oc, cause) => s.writeSolution k.rid r c k st oc cause
        | none => s)
      | _, _ => s) := by
  unfold State.writeIfStopped
  cases hrun : s.iseOf rid with
  | none => rfl
  | some k =>
    obtain rfl := State.rid_of_iseOf hrun
    cases s.req k.rid <;> rfl

theorem State.solveOn_running {rid : Nat} {r : Req} {c : IseSchedule} {k : IseRun} {s : State} (hstop : k.stop = none) :
    s.solveOn rid r c k
      = s.withValues rid r (solveIns c r) k (fun u => (u.solveTurn rid r c k).writeIfStopped rid c) := by
  simp only [State.solveOn, hstop]
  rfl

theorem State.solveOn_stopped {rid st oc cause : Nat} {r : Req} {c : IseSchedule} {k : IseRun} {s : State}
    (hstop : k.stop = some (st, oc, cause)) :
    s.solveOn rid r c k = s.writeSolution rid r c k st oc cause := by
  simp only [State.solveOn, hstop]

/-- SOLVE with a solve of the request under way goes on with it. -/
theorem exec_solve_goesOn {rid : Nat} {r : Req} {c : IseSchedule} {k : IseRun} {s : State}
    (hsolving : s.solving rid = some (r, c)) (hrun : s.iseOf rid = some k) :
    exec (.solve rid) s = .next (s.solveOn rid r c k) := by
  show execSolve rid s = _
  simp only [execSolve, hsolving, hrun]

/-- SOLVE with no solve of the request begins one. -/
theorem exec_solve_begins {rid : Nat} {r : Req} {c : IseSchedule} {s : State}
    (hsolving : s.solving rid = some (r, c)) (hrun : s.iseOf rid = none) :
    exec (.solve rid) s = .next ((s.beginSolve rid r c).writeIfStopped rid c) := by
  show execSolve rid s = _
  simp only [execSolve, hsolving, hrun]
  rfl

/-! ### The beginning of a solve (R444, R451) -/

theorem State.beginSolve_refused {rid : Nat} {r : Req} {c : IseSchedule} {s : State}
    (h : tolOk (solveArgs c r).tol = false ∨ (solveArgs c r).reserved = true ∨ s.objHolds r.ws r.objA c.nnzL = false) :
    s.beginSolve rid r c = s.endReq rid ocTierFailed 1 := by
  unfold State.beginSolve
  refine if_pos ?_
  obtain htol | hreserved | hvalues := h
  · simp [htol]
  · simp [hreserved]
  · simp [hvalues]

theorem State.setup_rhsZero {rid : Nat} {r : Req} {c : IseSchedule} {q : SolveArgs} {k : IseRun} {s : State}
    (hrhs : (s.f32sOf r.ws q.rhs c.n).any (fun x => (f32v x).nonfinite) = false)
    (hx : k.x.any (fun x => (f32v x).nonfinite) = false) (hzero : norm64 (s.f32sOf r.ws q.rhs c.n) = 0) :
    s.setup rid r c q k = s.solveStops { k with x := List.replicate c.n 0, nb := 0, resid := 0 } 2 ocDone 0 := by
  simp only [State.setup, hrhs, hx, hzero, Bool.or_self, Bool.false_eq_true, if_false, if_true]

/-! ### A turn of the loop (R446, R448, R449) -/

/-- With no recheck due, the residual above tolerance and the limit not reached, the turn is an iteration. -/
theorem State.solveTurn_iterates {rid : Nat} {r : Req} {c : IseSchedule} {k : IseRun} {s : State}
    (hdue : k.due = false) (htol : meetsTol k k.nr = false) (hlimit : k.i ≠ k.maxIter) :
    s.solveTurn rid r c k = (match iterate c (lowerOf c.pattern (s.f32sOf r.ws r.objA c.nnzL)) k with
      | .error (e, counted) =>
        (if counted = true then s.inc (ISE.ITER_CNT k.ise) else s).solveFails { k with i := k.i + b2n counted } e
      | .ok k => (s.inc (ISE.ITER_CNT k.ise)).putIse { k with due := (s.inc (ISE.ITER_CNT k.ise)).recheckDue k }) := by
  have hhead : (k.due || (meetsTol k k.nr || decide (k.i = k.maxIter))) = false := by simp [hdue, htol, hlimit]
  exact if_neg (ne_true_of_eq_false hhead)

/-- A turn at the loop's head that rechecks: the true residual decides whether the solve stops converged, stops at the limit, or
restarts. -/
theorem State.solveTurn_rechecked {rid n : Nat} {rt : List Nat} {big : Bool} {r : Req} {c : IseSchedule} {k : IseRun} {s t : State}
    (hdue : k.due = false) (hhead : meetsTol k k.nr = true ∨ k.i = k.maxIter)
    (hrecheck : s.recheck rid (lowerOf c.pattern (s.f32sOf r.ws r.objA c.nnzL)) (s.f32sOf r.ws (solveArgs c r).rhs c.n) k
      = (.done rt n big, t)) :
    s.solveTurn rid r c k =
      if meetsTol (k.rechecked n) n then t.solveStops (k.rechecked n) 0 ocDone 0
      else if k.i = k.maxIter then t.solveStops (k.rechecked n) 1 ocDone 0
      else t.restart c (k.rechecked n) rt := by
  have hturn : (meetsTol k k.nr || decide (k.i = k.maxIter)) = true := by simpa using hhead
  simp only [State.solveTurn, hdue, hturn, hrecheck, Bool.or_true, Bool.false_eq_true, if_true, if_false]

/-! ### RECHECK_DUE (R449) -/

theorem exec_recheckDue_none {e : Nat} {s : State}
    (h : s.ises.all (fun k => decide (k.ise ≠ e) || !k.due || k.stop.isSome) = true) :
    exec (.recheckDue e) s = .next s := by
  have hfind : s.ises.find? (fun k => decide (k.ise = e) && k.due && k.stop.isNone) = none := by
    rw [List.find?_eq_none]
    intro k hk
    have hskip : (k.ise ≠ e ∨ k.due = false) ∨ k.stop.isSome = true := by simpa using List.all_eq_true.mp h k hk
    obtain (hise | hdue) | hstop := hskip
    · simp [hise]
    · simp [hdue]
    · simp [Option.isSome_iff_ne_none.mp hstop]
  show execRecheckDue e s = _
  simp only [execRecheckDue, hfind]

/-- The solve that the search for a recheck due finds has not stopped, and goes on. -/
theorem exec_recheckDue_goesOn {e : Nat} {k : IseRun} {r : Req} {c : IseSchedule} {s : State}
    (hfind : s.ises.find? (fun k => decide (k.ise = e) && k.due && k.stop.isNone) = some k)
    (hsolving : s.solving k.rid = some (r, c)) :
    k.stop = none ∧ exec (.recheckDue e) s = .next (s.solveOn k.rid r c k) := by
  have hdue := List.find?_some hfind
  simp only [Bool.and_eq_true, Option.isNone_iff_eq_none] at hdue
  refine ⟨hdue.2, ?_⟩
  show execRecheckDue e s = _
  simp only [execRecheckDue, hfind, hsolving]

/-! ### O47 -/

/-- Settles O47: SOLVE and RECHECK_DUE by the state of the solve, a turn by the tests at the loop's head. -/
theorem solvesIterateAndRecheck : Obligations.SolvesIterateAndRecheck := by
  refine ⟨?running, ?stopped, ?begins, ?refused, ?iterates, ?converged, ?atLimit, ?rhsZero, ?recheckDue, ?noneDue⟩
  case running =>
    exact fun rid r c k s ⟨hsolving, hrun, hstop⟩ =>
      (exec_solve_goesOn hsolving hrun).trans (congrArg _ (State.solveOn_running hstop))
  case stopped =>
    exact fun rid st oc cause r c k s ⟨hsolving, hrun, hstop⟩ =>
      (exec_solve_goesOn hsolving hrun).trans (congrArg _ (State.solveOn_stopped hstop))
  case begins => exact fun rid r c s ⟨hsolving, hrun⟩ => exec_solve_begins hsolving hrun
  case refused => exact fun rid r c s h => State.beginSolve_refused h
  case iterates => exact fun rid r c k s ⟨hdue, htol, hlimit⟩ => State.solveTurn_iterates hdue htol hlimit
  case converged =>
    exact fun rid n rt big r c k s t ⟨hdue, hhead⟩ hrecheck hmeets =>
      (State.solveTurn_rechecked hdue hhead hrecheck).trans (if_pos hmeets)
  case atLimit =>
    exact fun rid n rt big r c k s t ⟨hdue, hlimit⟩ hrecheck hmisses =>
      (State.solveTurn_rechecked hdue (.inr hlimit) hrecheck).trans
        ((if_neg (ne_true_of_eq_false hmisses)).trans (if_pos hlimit))
  case rhsZero => exact fun rid r c q k s ⟨hrhs, hx⟩ hzero => State.setup_rhsZero hrhs hx hzero
  case recheckDue =>
    intro e k r c s ⟨hfind, hsolving⟩
    obtain ⟨hstop, hexec⟩ := exec_recheckDue_goesOn hfind hsolving
    have hwrites := funext fun u : State => (u.solveTurn k.rid r c k).writeIfStopped_eq_runRid k.rid c
    have hgoesOn := congrArg (fun go => s.withValues k.rid r (solveIns c r) k go) hwrites
    exact hexec.trans (congrArg _ ((State.solveOn_running hstop).trans hgoesOn))
  case noneDue => exact fun e s h => exec_recheckDue_none h

end Sys2Proof.Machine
